-- ==== Sys2Proof/Word.lean ====
section
/-! DEFINITION. Machine words and register sizes (R57, R82). Types only. -/

namespace Sys2Proof

/-- An x register, a program counter, an address being computed (R57). -/
abbrev Word := BitVec 64

/-- One byte of memory. -/
abbrev Byte := BitVec 8

/-- A vector register at the largest grant: 1,024 bytes for each of four lane groups (R57). -/
abbrev VReg := BitVec 32768

/-- A mask register: 4,096 bits (R57). -/
abbrev KReg := BitVec 4096

/-- Number of an x, f or v register. -/
abbrev Reg := Fin 32

/-- Number of a mask register. -/
abbrev MReg := Fin 8

/-- Number of a stream handle, tile slot or inbox channel. -/
abbrev QReg := Fin 16

end Sys2Proof
end

