-- ==== Sys2Proof/Config.lean ====
section
/-! DEFINITION. What the signed configuration record fixes (R324), and the free values (log 4): opaque constants of
which nothing is known. -/

namespace Sys2Proof.Config

/-- A free 64-bit value, a fresh one for each number of the state's counter (log 4). -/
opaque freeWord : Nat → Word

/-- What a byte reads as when its line was written under key `kw` and is read under key `kr` ≠ `kw`, at DLA `a`
(R306: no value that was written; log 4). -/
opaque scramble (a kw kr : Nat) (b : Byte) : Byte

/-- Offset and size of `.text` in a Clofer object, from the bytes of the object from its section table on: the spec gives
the table's offset (R81) and no layout (log 4). -/
opaque textSection (table : List Byte) : Nat × Nat

/-- Byte `i` of the ciphertext of the line whose first byte is at DLA `a`, under a key (R306, R309; log 4). -/
opaque cipher (key a i : Nat) (plain : List Byte) : Byte

/-- Byte `i` of the 32-byte entry of an overflow pool that holds a message: strand identifier, header and payload (R207
gives its size and no layout; log 57). -/
opaque poolByte (sid : Nat) (hdr payload : Word) (i : Nat) : Byte

/-- Byte `i` of the image of strand `uid` in the save pool at its save number `n` (R258, R259 give its size and no layout;
log 58). -/
opaque imageByte (uid n i : Nat) : Byte

/-- The measurements of R325, whose values the spec does not give: digests of the firmware and of the configuration
record, and the firmware's security version (log 59). -/
opaque firmwareDigest : List Byte
opaque configDigest : List Byte
opaque securityVersion : Nat

/-- The signature of the identity key over a request, numbered, and the measurements (R325; log 59). -/
opaque signature (n : Nat) : List Byte

/-- The thermal threshold TTRIP in °C (R253: the default of the configuration record). -/
def ttrip : Nat := 100

end Sys2Proof.Config
end

