-- ==== Sys2Proof/Forms.lean ====
section
/-! DEFINITION. Operand forms of the instructions (R58, R66 to R69, R71 to R75), the ratified RV64 scalar
instructions (R55), and the arguments that events of the machine carry. -/

namespace Sys2Proof

/-! ### Quelan operand forms -/

/-- Format VA with two vector sources (R66, R71): `op.vv vd, vs2, vs1`. -/
structure FVV where
  vm : Bool
  c2 : Bool
  c1 : Bool
  vs2 : Reg
  vs1 : Reg
  vd : Reg
  deriving DecidableEq, Repr

/-- Format VA with a register in src1 (R71): `op.vx vd, vs2, xs1` and `op.vf vd, vs2, fs1`. -/
structure FVX where
  vm : Bool
  c2 : Bool
  vs2 : Reg
  rs1 : Reg
  vd : Reg
  deriving DecidableEq, Repr

/-- Format VA with a 5-bit immediate in src1 (R71). -/
structure FVI where
  vm : Bool
  c2 : Bool
  vs2 : Reg
  imm : BitVec 5
  vd : Reg
  deriving DecidableEq, Repr

/-- Format VA with one vector source (R71): unary and conversion forms. -/
structure FVU where
  vm : Bool
  c2 : Bool
  vs2 : Reg
  vd : Reg
  deriving DecidableEq, Repr

/-- `vfncvt`: one source and SATI (R71). -/
structure FVUS where
  vm : Bool
  c2 : Bool
  sat : Bool
  vs2 : Reg
  vd : Reg
  deriving DecidableEq, Repr

/-- `vqcvt`: one source, a scale register and SATI (R71). -/
structure FVXS where
  vm : Bool
  c2 : Bool
  sat : Bool
  vs2 : Reg
  rs1 : Reg
  vd : Reg
  deriving DecidableEq, Repr

/-- Compares of two vectors (R72): the destination is a mask register. -/
structure FKVV where
  vm : Bool
  c2 : Bool
  c1 : Bool
  vs2 : Reg
  vs1 : Reg
  kd : MReg
  deriving DecidableEq, Repr

/-- Compares with an x or f register (R72). -/
structure FKVX where
  vm : Bool
  c2 : Bool
  vs2 : Reg
  rs1 : Reg
  kd : MReg
  deriving DecidableEq, Repr

/-- Compares with an immediate (R72). -/
structure FKVI where
  vm : Bool
  c2 : Bool
  vs2 : Reg
  imm : BitVec 5
  kd : MReg
  deriving DecidableEq, Repr

/-- Format VM without src2 (R67); `w` is the width field. -/
structure FVM where
  vm : Bool
  w : Fin 4
  base : Reg
  vd : Reg
  deriving DecidableEq, Repr

/-- Format VM without src2, with the chain bit of the data vector (R67). -/
structure FVMC where
  vm : Bool
  c : Bool
  w : Fin 4
  base : Reg
  vd : Reg
  deriving DecidableEq, Repr

/-- Strided loads (R67): src2 is the stride register. -/
structure FVM2 where
  vm : Bool
  w : Fin 4
  src2 : Reg
  base : Reg
  vd : Reg
  deriving DecidableEq, Repr

/-- Strided stores and all indexed forms (R67). -/
structure FVM2C where
  vm : Bool
  c : Bool
  w : Fin 4
  src2 : Reg
  base : Reg
  vd : Reg
  deriving DecidableEq, Repr

/-- A vector atomic (R194): data register, base, index vector. -/
structure FAmo where
  vm : Bool
  aq : Bool
  rl : Bool
  vs2 : Reg
  base : Reg
  scope : Fin 5
  vd : Reg
  deriving DecidableEq, Repr

/-- `vwait` (R199). -/
structure FWait where
  vm : Bool
  vs2 : Reg
  base : Reg
  vs3 : Reg
  deriving DecidableEq, Repr

/-- `vgl` and `vsc` (R197): `ord` is aq for `vgl` and rl for `vsc`. -/
structure FLink where
  vm : Bool
  ord : Bool
  vs2 : Reg
  base : Reg
  vd : Reg
  deriving DecidableEq, Repr

/-- A copy command (R75): channel, descriptor register, and the mask register when MW = 1. -/
structure FCopy where
  ch : QReg
  base : Reg
  kd : Option MReg
  deriving DecidableEq, Repr

/-- `cpgr` and `cpsc` (R75): a copy command with a row vector and its chain bit. -/
structure FCopyV where
  ch : QReg
  base : Reg
  kd : Option MReg
  vs2 : Reg
  c : Bool
  deriving DecidableEq, Repr

/-! ### The RV64 scalar base (R55) -/

/-- Register-register operations on 64 bits: RV64I, M, Zba, Zbb, Zbs, Zicond. -/
inductive AluOp
  | add | sub | sll | slt | sltu | xor | srl | sra | or | and
  | mul | mulh | mulhsu | mulhu | div | divu | rem | remu
  | sh1add | sh2add | sh3add | addUw | sh1addUw | sh2addUw | sh3addUw
  | andn | orn | xnor | max | maxu | min | minu | rol | ror
  | bclr | bext | binv | bset
  | czeroEqz | czeroNez
  deriving DecidableEq, Repr

/-- Register-register operations on 32 bits with a sign-extended result. -/
inductive AluWOp
  | addw | subw | sllw | srlw | sraw | mulw | divw | divuw | remw | remuw | rolw | rorw
  deriving DecidableEq, Repr

/-- Operations with a 12-bit immediate. -/
inductive AluIOp
  | addi | slti | sltiu | xori | ori | andi | addiw
  deriving DecidableEq, Repr

/-- Operations with a 6-bit shift amount or bit number. -/
inductive ShIOp
  | slli | srli | srai | rori | bclri | bexti | binvi | bseti | slliUw
  deriving DecidableEq, Repr

/-- Operations on 32 bits with a 5-bit shift amount. -/
inductive ShIWOp
  | slliw | srliw | sraiw | roriw
  deriving DecidableEq, Repr

/-- One-operand operations of Zbb. -/
inductive UnOp
  | clz | ctz | cpop | clzw | ctzw | cpopw | sextB | sextH | zextH | orcB | rev8
  deriving DecidableEq, Repr

/-- Branch conditions. -/
inductive BrOp
  | beq | bne | blt | bge | bltu | bgeu
  deriving DecidableEq, Repr

/-- Integer loads. -/
inductive LdOp
  | lb | lh | lw | ld | lbu | lhu | lwu
  deriving DecidableEq, Repr

/-- Integer stores. -/
inductive StOp
  | sb | sh | sw | sd
  deriving DecidableEq, Repr

/-- Operations of the A extension other than LR and SC. -/
inductive AmoOp
  | swap | add | xor | and | or | min | max | minu | maxu
  deriving DecidableEq, Repr

/-- Two-operand scalar FP arithmetic. -/
inductive FBinOp
  | fadd | fsub | fmul | fdiv
  deriving DecidableEq, Repr

/-- Fused scalar FP forms. -/
inductive FmaOp
  | fmadd | fmsub | fnmsub | fnmadd
  deriving DecidableEq, Repr

/-- Sign injection. -/
inductive SgnOp
  | sgnj | sgnjn | sgnjx
  deriving DecidableEq, Repr

/-- Scalar FP compares. -/
inductive FCmpOp
  | fle | flt | feq
  deriving DecidableEq, Repr

/-- Integer formats of scalar conversions: w, wu, l, lu. -/
inductive IFmt
  | w | wu | l | lu
  deriving DecidableEq, Repr

/-- CSR operations. -/
inductive CsrOp
  | rw | rs | rc
  deriving DecidableEq, Repr

/-- A CSR instruction: with `imm` the source field is a 5-bit immediate. -/
structure FCsr where
  op : CsrOp
  imm : Bool
  src : Reg
  rd : Reg
  csr : BitVec 12
  deriving DecidableEq, Repr

/-- A ratified RV64 scalar instruction, without FENCE, FENCE.I, ECALL and EBREAK, which have rows of their own. -/
inductive Scalar
  | lui (rd : Reg) (imm : BitVec 20)
  | auipc (rd : Reg) (imm : BitVec 20)
  | jal (rd : Reg) (off : BitVec 21)
  | jalr (rd rs1 : Reg) (imm : BitVec 12)
  | branch (op : BrOp) (rs1 rs2 : Reg) (off : BitVec 13)
  | load (op : LdOp) (rd rs1 : Reg) (imm : BitVec 12)
  | store (op : StOp) (rs1 rs2 : Reg) (imm : BitVec 12)
  | aluI (op : AluIOp) (rd rs1 : Reg) (imm : BitVec 12)
  | shI (op : ShIOp) (rd rs1 : Reg) (sh : BitVec 6)
  | shIW (op : ShIWOp) (rd rs1 : Reg) (sh : BitVec 5)
  | alu (op : AluOp) (rd rs1 rs2 : Reg)
  | aluW (op : AluWOp) (rd rs1 rs2 : Reg)
  | un (op : UnOp) (rd rs1 : Reg)
  | lr (dbl aq rl : Bool) (rd rs1 : Reg)
  | sc (dbl aq rl : Bool) (rd rs1 rs2 : Reg)
  | amo (op : AmoOp) (dbl aq rl : Bool) (rd rs1 rs2 : Reg)
  | fload (dbl : Bool) (rd rs1 : Reg) (imm : BitVec 12)
  | fstore (dbl : Bool) (rs1 rs2 : Reg) (imm : BitVec 12)
  | fbin (op : FBinOp) (dbl : Bool) (rm : Fin 8) (rd rs1 rs2 : Reg)
  | fsqrt (dbl : Bool) (rm : Fin 8) (rd rs1 : Reg)
  | fma (op : FmaOp) (dbl : Bool) (rm : Fin 8) (rd rs1 rs2 rs3 : Reg)
  | fsgn (op : SgnOp) (dbl : Bool) (rd rs1 rs2 : Reg)
  | fminmax (isMax dbl : Bool) (rd rs1 rs2 : Reg)
  | fcmp (op : FCmpOp) (dbl : Bool) (rd rs1 rs2 : Reg)
  | fclass (dbl : Bool) (rd rs1 : Reg)
  | fcvtToInt (fmt : IFmt) (dbl : Bool) (rm : Fin 8) (rd rs1 : Reg)
  | fcvtFromInt (fmt : IFmt) (dbl : Bool) (rm : Fin 8) (rd rs1 : Reg)
  | fcvtSD (rm : Fin 8) (rd rs1 : Reg)
  | fcvtDS (rm : Fin 8) (rd rs1 : Reg)
  | fmvXF (dbl : Bool) (rd rs1 : Reg)
  | fmvFX (dbl : Bool) (rd rs1 : Reg)
  | csr (a : FCsr)
  | sret
  | mret
  | wfi
  | sfenceVma (rs1 rs2 : Reg)
  deriving DecidableEq, Repr

/-- How a scalar instruction stands in memory: a 32-bit word, or a 16-bit parcel of the C extension (R52). -/
inductive Form
  | full
  | compressed (parcel : BitVec 16)
  deriving DecidableEq, Repr

/-! ### Arguments of events -/

/-- The address spaces a leaf may name (R265). -/
inductive Space
  | dev | host | peer
  deriving DecidableEq, Repr

/-- The three core classes (R44). -/
inductive Cls
  | control | vector | array
  deriving DecidableEq, Repr

/-- Kinds of access for permissions (R266). -/
inductive Acc
  | load | store | fetch | atomic
  deriving DecidableEq, Repr

/-- Who sends a coherent request to a home slice (R183). -/
inductive Requester
  | core (id : Nat)
  | host
  | peer (n : Nat)
  deriving DecidableEq, Repr

/-- A request to device memory in flight (R303): the stack it arrives at, its address, the launch it belongs to
(0 for the host and engines of no launch), the bytes of a write, the key it is made under (R306), whether the stack
corrects an error in answering it (R311), the strand that made it (0: an engine or a unit, which no trap stops), the core
of the engine that made it, and whether it is a write-back of a write-combining buffer of that strand's scalar or (true)
vector agent (R184), which no freeze of its page stops, or a store of a unit of the device for itself. -/
structure MemReq where
  stack : Nat
  dla : Nat
  lid : Nat
  write : Option (List Byte)
  key : Nat := 0
  corrected : Bool := false
  uid : Nat := 0
  engine : Option Nat := none
  combined : Option Bool := none
  unit : Bool := false
  deriving DecidableEq, Repr

/-- How a boot ends (R324): cores that failed self-test, or a failure of another step. -/
inductive Boot
  | ok (failedCores : List Nat)
  | failed
  deriving DecidableEq, Repr

/-- What the outside contributes to a collective (R322): its status and each rank's source elements as bytes. -/
structure CollResult where
  stat : Nat
  ranks : List (List Byte)
  deriving DecidableEq, Repr

/-- The particulars of an event (95), each row reading those its docstring in the machine names: the strand, core,
launch, context, user queue, sequence number, slot, die, page, stream handle, lane, catalogue entry, peer, address or
register number it concerns; a word or bytes written; and the operand registers of a `ccmove` row. -/
structure Arg where
  uid : Nat := 0
  core : Nat := 0
  lid : Nat := 0
  ctx : Nat := 0
  uq : Nat := 0
  seq : Nat := 0
  slot : Nat := 0
  die : Nat := 0
  page : Nat := 0
  q : Nat := 0
  lane : Nat := 0
  entry : Nat := 0
  peer : Nat := 0
  addr : Nat := 0
  n : Nat := 0
  word : Word := 0
  bytes : List Byte := []
  acc : Acc := .load
  space : Space := .dev
  req : Requester := .host
  memReq : MemReq := { stack := 0, dla := 0, lid := 0, write := none }
  coll : CollResult := { stat := 0, ranks := [] }
  boot : Boot := .ok []
  flag : Bool := false
  rd : Reg := 0
  rs1 : Reg := 0
  deriving DecidableEq, Repr

end Sys2Proof
end

