-- ==== Sys2Proof/Syntax.lean ====
section
/-! DEFINITION. The instructions and events of the Quelan 4200: one constructor for each row of
spec/opcode_table.json: first the instructions that name operands, then those that name none, then the events, each
in the table's order. -/

namespace Sys2Proof

/-- One step of the machine: an instruction with its operands, or an event (95), whose particulars stand in the state
(`State.arg`). The six rows of `ccmove` that an OP byte in memory selects (R284) take their operands from there too. -/
inductive Instr
  /-- VADD_VV (R117): Element-wise integer add of two vector operands. -/
  | vaddVv (a : FVV)
  /-- VSUB_VV (R117): Element-wise integer subtract. -/
  | vsubVv (a : FVV)
  /-- VMUL_VV (R117): Element-wise integer multiply, low EW bits. -/
  | vmulVv (a : FVV)
  /-- VMULH_VV (R117): Upper EW bits of the signed product. -/
  | vmulhVv (a : FVV)
  /-- VMULHN_VV (R117): Upper EW bits of the unsigned product. -/
  | vmulhnVv (a : FVV)
  /-- VMACC_VV (R117): Integer multiply-accumulate into vd. -/
  | vmaccVv (a : FVV)
  /-- VNMSAC_VV (R117): Integer negative multiply-subtract from vd. -/
  | vnmsacVv (a : FVV)
  /-- VMIN_VV (R117): Signed element minimum. -/
  | vminVv (a : FVV)
  /-- VMAX_VV (R117): Signed element maximum. -/
  | vmaxVv (a : FVV)
  /-- VMINN_VV (R117): Unsigned element minimum. -/
  | vminnVv (a : FVV)
  /-- VMAXN_VV (R117): Unsigned element maximum. -/
  | vmaxnVv (a : FVV)
  /-- VAND_VV (R117): Bitwise AND of elements. -/
  | vandVv (a : FVV)
  /-- VOR_VV (R117): Bitwise OR of elements. -/
  | vorVv (a : FVV)
  /-- VXOR_VV (R117): Bitwise XOR of elements. -/
  | vxorVv (a : FVV)
  /-- VSLL_VV (R117): Logical left shift of elements. -/
  | vsllVv (a : FVV)
  /-- VSRL_VV (R117): Logical right shift of elements. -/
  | vsrlVv (a : FVV)
  /-- VSRA_VV (R117): Arithmetic right shift of elements. -/
  | vsraVv (a : FVV)
  /-- VDIV_VV (R117): Signed element division. -/
  | vdivVv (a : FVV)
  /-- VDIVN_VV (R117): Unsigned element division. -/
  | vdivnVv (a : FVV)
  /-- VREM_VV (R117): Signed element remainder. -/
  | vremVv (a : FVV)
  /-- VREMN_VV (R117): Unsigned element remainder. -/
  | vremnVv (a : FVV)
  /-- VSADD_VV (R117): Signed saturating add. -/
  | vsaddVv (a : FVV)
  /-- VSADDN_VV (R117): Unsigned saturating add. -/
  | vsaddnVv (a : FVV)
  /-- VSSUB_VV (R117): Signed saturating subtract. -/
  | vssubVv (a : FVV)
  /-- VSSUBN_VV (R117): Unsigned saturating subtract. -/
  | vssubnVv (a : FVV)
  /-- VADD_VX (R117): Integer add of a vector and an x register. -/
  | vaddVx (a : FVX)
  /-- VSUB_VX (R117): Integer subtract of an x register. -/
  | vsubVx (a : FVX)
  /-- VMUL_VX (R117): Integer multiply by an x register. -/
  | vmulVx (a : FVX)
  /-- VMULH_VX (R117): Signed high multiply by an x register. -/
  | vmulhVx (a : FVX)
  /-- VMULHN_VX (R117): Unsigned high multiply by an x register. -/
  | vmulhnVx (a : FVX)
  /-- VMACC_VX (R117): Multiply-accumulate with an x register. -/
  | vmaccVx (a : FVX)
  /-- VNMSAC_VX (R117): Negative multiply-subtract with an x register. -/
  | vnmsacVx (a : FVX)
  /-- VMIN_VX (R117): Signed minimum with an x register. -/
  | vminVx (a : FVX)
  /-- VMAX_VX (R117): Signed maximum with an x register. -/
  | vmaxVx (a : FVX)
  /-- VMINN_VX (R117): Unsigned minimum with an x register. -/
  | vminnVx (a : FVX)
  /-- VMAXN_VX (R117): Unsigned maximum with an x register. -/
  | vmaxnVx (a : FVX)
  /-- VAND_VX (R117): Bitwise AND with an x register. -/
  | vandVx (a : FVX)
  /-- VOR_VX (R117): Bitwise OR with an x register. -/
  | vorVx (a : FVX)
  /-- VXOR_VX (R117): Bitwise XOR with an x register. -/
  | vxorVx (a : FVX)
  /-- VSLL_VX (R117): Left shift by an x register. -/
  | vsllVx (a : FVX)
  /-- VSRL_VX (R117): Logical right shift by an x register. -/
  | vsrlVx (a : FVX)
  /-- VSRA_VX (R117): Arithmetic right shift by an x register. -/
  | vsraVx (a : FVX)
  /-- VDIV_VX (R117): Signed division by an x register. -/
  | vdivVx (a : FVX)
  /-- VDIVN_VX (R117): Unsigned division by an x register. -/
  | vdivnVx (a : FVX)
  /-- VREM_VX (R117): Signed remainder by an x register. -/
  | vremVx (a : FVX)
  /-- VREMN_VX (R117): Unsigned remainder by an x register. -/
  | vremnVx (a : FVX)
  /-- VSADD_VX (R117): Signed saturating add of an x register. -/
  | vsaddVx (a : FVX)
  /-- VSADDN_VX (R117): Unsigned saturating add of an x register. -/
  | vsaddnVx (a : FVX)
  /-- VSSUB_VX (R117): Signed saturating subtract of an x register. -/
  | vssubVx (a : FVX)
  /-- VSSUBN_VX (R117): Unsigned saturating subtract of an x register. -/
  | vssubnVx (a : FVX)
  /-- VRSUB_VX (R117): Reverse subtract: x register minus element. -/
  | vrsubVx (a : FVX)
  /-- VSPLAT_VX (R125): Writes an x register value to every active element. -/
  | vsplatVx (vm : Bool) (vd rs1 : Reg)
  /-- VADD_VI (R117): Integer add of a sign-extended immediate. -/
  | vaddVi (a : FVI)
  /-- VAND_VI (R117): Bitwise AND with an immediate. -/
  | vandVi (a : FVI)
  /-- VOR_VI (R117): Bitwise OR with an immediate. -/
  | vorVi (a : FVI)
  /-- VXOR_VI (R117): Bitwise XOR with an immediate. -/
  | vxorVi (a : FVI)
  /-- VSLL_VI (R117): Left shift by an immediate 0 to 31. -/
  | vsllVi (a : FVI)
  /-- VSRL_VI (R117): Logical right shift by an immediate. -/
  | vsrlVi (a : FVI)
  /-- VSRA_VI (R117): Arithmetic right shift by an immediate. -/
  | vsraVi (a : FVI)
  /-- VSADD_VI (R117): Signed saturating add of an immediate. -/
  | vsaddVi (a : FVI)
  /-- VSADDN_VI (R117): Unsigned saturating add of an immediate. -/
  | vsaddnVi (a : FVI)
  /-- VRSUB_VI (R117): Reverse subtract from an immediate. -/
  | vrsubVi (a : FVI)
  /-- VSPLAT_VI (R125): Writes an immediate to every active element. -/
  | vsplatVi (vm : Bool) (vd : Reg) (imm : BitVec 5)
  /-- VFADD_VV (R118): Floating-point add, rounded once by VRND. -/
  | vfaddVv (a : FVV)
  /-- VFSUB_VV (R118): Floating-point subtract. -/
  | vfsubVv (a : FVV)
  /-- VFMUL_VV (R118): Floating-point multiply. -/
  | vfmulVv (a : FVV)
  /-- VFDIV_VV (R118): Floating-point divide. -/
  | vfdivVv (a : FVV)
  /-- VFMIN_VV (R118): minimumNumber of elements. -/
  | vfminVv (a : FVV)
  /-- VFMAX_VV (R118): maximumNumber of elements. -/
  | vfmaxVv (a : FVV)
  /-- VFMACC_VV (R118): Fused (a × b) + d. -/
  | vfmaccVv (a : FVV)
  /-- VFNMACC_VV (R118): Fused −(a × b) − d. -/
  | vfnmaccVv (a : FVV)
  /-- VFMSAC_VV (R118): Fused (a × b) − d. -/
  | vfmsacVv (a : FVV)
  /-- VFNMSAC_VV (R118): Fused −(a × b) + d. -/
  | vfnmsacVv (a : FVV)
  /-- VFSGNJ_VV (R118): Magnitude of a with sign of b. -/
  | vfsgnjVv (a : FVV)
  /-- VFSGNJN_VV (R118): Magnitude of a with inverted sign of b. -/
  | vfsgnjnVv (a : FVV)
  /-- VFSGNJX_VV (R118): Magnitude of a with XOR of the signs. -/
  | vfsgnjxVv (a : FVV)
  /-- VFSQRT (R118): Rounded square root of elements. -/
  | vfsqrt (a : FVU)
  /-- VFRECE (R95): Truncated reciprocal estimate. -/
  | vfrece (a : FVU)
  /-- VFRSQE (R95): Truncated reciprocal square root estimate. -/
  | vfrsqe (a : FVU)
  /-- VFCLASS (R119): Writes a one-hot class code for each element. -/
  | vfclass (a : FVU)
  /-- VFADD_VF (R118): Floating-point add of an f register. -/
  | vfaddVf (a : FVX)
  /-- VFSUB_VF (R118): Floating-point subtract of an f register. -/
  | vfsubVf (a : FVX)
  /-- VFMUL_VF (R118): Floating-point multiply by an f register. -/
  | vfmulVf (a : FVX)
  /-- VFDIV_VF (R118): Floating-point divide by an f register. -/
  | vfdivVf (a : FVX)
  /-- VFMIN_VF (R118): minimumNumber with an f register. -/
  | vfminVf (a : FVX)
  /-- VFMAX_VF (R118): maximumNumber with an f register. -/
  | vfmaxVf (a : FVX)
  /-- VFMACC_VF (R118): Fused (a × f) + d. -/
  | vfmaccVf (a : FVX)
  /-- VFNMACC_VF (R118): Fused −(a × f) − d. -/
  | vfnmaccVf (a : FVX)
  /-- VFMSAC_VF (R118): Fused (a × f) − d. -/
  | vfmsacVf (a : FVX)
  /-- VFNMSAC_VF (R118): Fused −(a × f) + d. -/
  | vfnmsacVf (a : FVX)
  /-- VFSGNJ_VF (R118): Sign injection from an f register. -/
  | vfsgnjVf (a : FVX)
  /-- VFSGNJN_VF (R118): Inverted sign injection from an f register. -/
  | vfsgnjnVf (a : FVX)
  /-- VFSGNJX_VF (R118): XOR sign injection from an f register. -/
  | vfsgnjxVf (a : FVX)
  /-- VFRSUB_VF (R118): Reverse subtract: f register minus element. -/
  | vfrsubVf (a : FVX)
  /-- VFRDIV_VF (R118): Reverse divide: f register over element. -/
  | vfrdivVf (a : FVX)
  /-- VFSPLAT (R126): Writes an f register value to every active element. -/
  | vfsplat (vm : Bool) (vd rs1 : Reg)
  /-- VREDSUM (R123): Integer sum reduction into vd.e[0]. -/
  | vredsum (a : FVV)
  /-- VREDMAX (R123): Signed maximum reduction. -/
  | vredmax (a : FVV)
  /-- VREDMIN (R123): Signed minimum reduction. -/
  | vredmin (a : FVV)
  /-- VREDMAXN (R123): Unsigned maximum reduction. -/
  | vredmaxn (a : FVV)
  /-- VREDMINN (R123): Unsigned minimum reduction. -/
  | vredminn (a : FVV)
  /-- VREDAND (R123): Bitwise AND reduction. -/
  | vredand (a : FVV)
  /-- VREDOR (R123): Bitwise OR reduction. -/
  | vredor (a : FVV)
  /-- VFREDO (R96): Ordered floating-point sum reduction. -/
  | vfredo (a : FVV)
  /-- VFREDT (R97): Tree floating-point sum reduction. -/
  | vfredt (a : FVV)
  /-- VFREDMAX (R98): Floating-point maximum reduction. -/
  | vfredmax (a : FVV)
  /-- VFREDMIN (R98): Floating-point minimum reduction. -/
  | vfredmin (a : FVV)
  /-- VFREDAMAX (R98): Maximum magnitude reduction. -/
  | vfredamax (a : FVV)
  /-- VMVXS (R124): Moves element 0 to an x register through the reply queue. -/
  | vmvxs (c2 : Bool) (rd vs2 : Reg)
  /-- VMVFS (R124): Moves element 0 to an f register through the reply queue. -/
  | vmvfs (c2 : Bool) (rd vs2 : Reg)
  /-- VFCVTFI (R121): Integer to float conversion. -/
  | vfcvtfi (a : FVU)
  /-- VFCVTIF (R121): Float to integer conversion. -/
  | vfcvtif (a : FVU)
  /-- VFWCVT (R121): Float to wider float conversion. -/
  | vfwcvt (a : FVU)
  /-- VFNCVT (R121): Float to narrower float conversion, optionally saturating. -/
  | vfncvt (a : FVUS)
  /-- VQCVT (R92): Scaled quantising conversion FP32 to E4M3 or E5M2. -/
  | vqcvt (a : FVXS)
  /-- VDQCVT (R92): Scaled dequantising conversion to FP32. -/
  | vdqcvt (a : FVX)
  /-- VNCVTI (R121): Clamping integer narrowing. -/
  | vncvti (a : FVU)
  /-- VWCVTI (R121): Integer widening by sign or zero extension. -/
  | vwcvti (a : FVU)
  /-- VMSEQ_VV (R120): Integer equal compare into a mask. -/
  | vmseqVv (a : FKVV)
  /-- VMSNE_VV (R120): Integer not-equal compare. -/
  | vmsneVv (a : FKVV)
  /-- VMSLT_VV (R120): Signed less-than compare. -/
  | vmsltVv (a : FKVV)
  /-- VMSLTN_VV (R120): Unsigned less-than compare. -/
  | vmsltnVv (a : FKVV)
  /-- VMSLE_VV (R120): Signed less-or-equal compare. -/
  | vmsleVv (a : FKVV)
  /-- VMSLEN_VV (R120): Unsigned less-or-equal compare. -/
  | vmslenVv (a : FKVV)
  /-- VMSEQ_VX (R120): Equal compare with an x register. -/
  | vmseqVx (a : FKVX)
  /-- VMSNE_VX (R120): Not-equal compare with an x register. -/
  | vmsneVx (a : FKVX)
  /-- VMSLT_VX (R120): Signed less-than with an x register. -/
  | vmsltVx (a : FKVX)
  /-- VMSLTN_VX (R120): Unsigned less-than with an x register. -/
  | vmsltnVx (a : FKVX)
  /-- VMSLE_VX (R120): Signed less-or-equal with an x register. -/
  | vmsleVx (a : FKVX)
  /-- VMSLEN_VX (R120): Unsigned less-or-equal with an x register. -/
  | vmslenVx (a : FKVX)
  /-- VMSEQ_VI (R120): Equal compare with an immediate. -/
  | vmseqVi (a : FKVI)
  /-- VMSNE_VI (R120): Not-equal compare with an immediate. -/
  | vmsneVi (a : FKVI)
  /-- VMSLE_VI (R120): Signed less-or-equal with an immediate. -/
  | vmsleVi (a : FKVI)
  /-- VMSLEN_VI (R120): Unsigned less-or-equal with an immediate. -/
  | vmslenVi (a : FKVI)
  /-- VMFEQ_VV (R120): Quiet float equal compare. -/
  | vmfeqVv (a : FKVV)
  /-- VMFNE_VV (R120): Quiet float not-equal compare. -/
  | vmfneVv (a : FKVV)
  /-- VMFLT_VV (R120): Signalling float less-than compare. -/
  | vmfltVv (a : FKVV)
  /-- VMFLE_VV (R120): Signalling float less-or-equal compare. -/
  | vmfleVv (a : FKVV)
  /-- VMFORD_VV (R120): Ordered test: neither operand NaN. -/
  | vmfordVv (a : FKVV)
  /-- VMFEQ_VF (R120): Float equal compare with an f register. -/
  | vmfeqVf (a : FKVX)
  /-- VMFNE_VF (R120): Float not-equal compare with an f register. -/
  | vmfneVf (a : FKVX)
  /-- VMFLT_VF (R120): Float less-than with an f register. -/
  | vmfltVf (a : FKVX)
  /-- VMFLE_VF (R120): Float less-or-equal with an f register. -/
  | vmfleVf (a : FKVX)
  /-- VMFORD_VF (R120): Ordered test against an f register. -/
  | vmfordVf (a : FKVX)
  /-- KAND (R128): AND of two mask registers over all 4,096 bits. -/
  | kand (kd ks2 ks1 : MReg)
  /-- KOR (R128): OR of two mask registers. -/
  | kor (kd ks2 ks1 : MReg)
  /-- KXOR (R128): XOR of two mask registers. -/
  | kxor (kd ks2 ks1 : MReg)
  /-- KANDN (R128): ks2 AND NOT ks1. -/
  | kandn (kd ks2 ks1 : MReg)
  /-- KNOT (R128): Complement of a mask register. -/
  | knot (kd ks2 : MReg)
  /-- KMOV (R128): Copy of a mask register. -/
  | kmov (kd ks2 : MReg)
  /-- KPOP (R128): Counts set mask bits below VL, via the reply queue. -/
  | kpop (rd : Reg) (ks2 : MReg)
  /-- KFIRST (R128): Index of the first set mask bit below VL, or −1. -/
  | kfirst (rd : Reg) (ks2 : MReg)
  /-- VSLIDEUP_VX (R130): Slides elements up by an x register offset. -/
  | vslideupVx (a : FVX)
  /-- VSLIDEUP_VI (R130): Slides elements up by an immediate offset. -/
  | vslideupVi (a : FVI)
  /-- VSLIDEDN_VX (R130): Slides elements down by an x register offset. -/
  | vslidednVx (a : FVX)
  /-- VSLIDEDN_VI (R130): Slides elements down by an immediate offset. -/
  | vslidednVi (a : FVI)
  /-- VPERM_VV (R130): Permutes elements by an index vector. -/
  | vpermVv (a : FVV)
  /-- VCOMPRESS (R130): Packs selected elements to the bottom of vd. -/
  | vcompress (c2 : Bool) (vd vs2 : Reg) (ks1 : MReg)
  /-- VEXPAND (R130): Spreads consecutive elements to selected positions. -/
  | vexpand (c2 : Bool) (vd vs2 : Reg) (ks1 : MReg)
  /-- VMERGE_VV (R131): Selects between two vectors by k0. -/
  | vmergeVv (c2 c1 : Bool) (vd vs2 vs1 : Reg)
  /-- VMERGE_VX (R131): Selects between a vector and an x register by k0. -/
  | vmergeVx (c2 : Bool) (vd vs2 rs1 : Reg)
  /-- VMERGE_VI (R131): Selects between a vector and an immediate by k0. -/
  | vmergeVi (c2 : Bool) (vd vs2 : Reg) (imm : BitVec 5)
  /-- VID (R131): Writes each active element's index. -/
  | vid (vm : Bool) (vd : Reg)
  /-- VSETLI (R115): Renegotiates the grant and sets VTYPE and VL from an immediate. -/
  | vsetli (rd rs1 : Reg) (lgreq : BitVec 2) (vt : BitVec 8)
  /-- VSETL (R115): Renegotiates the grant and sets VTYPE and VL from a register. -/
  | vsetl (rd rs1 rs2 : Reg)
  /-- LFORK (R132): Forks active lanes into lane threads. -/
  | lfork (vm : Bool)
  /-- BKRD (R282): Reads a word of a parked strand's bookmark. -/
  | bkrd (rd rs1 rs2 : Reg)
  /-- BKRSM (R283): Releases, then replays, retries or kills the unit named by a token. -/
  | bkrsm (rs1 : Reg)
  /-- CCMOVE_MOVE (R284): OP 0: moves a parked strand to another core. -/
  | ccmoveMove (rd rs1 : Reg)
  /-- FRQPOP (R285): Removes the oldest fault record of the die's queue. -/
  | frqpop (rd rs1 : Reg)
  /-- LATW (R286): Writes one lane allocation table entry. -/
  | latw (rs1 rs2 : Reg)
  /-- THRSET (R287): Writes a thermal ranking table entry. -/
  | thrset (rs1 rs2 : Reg)
  /-- VLD (R143): Unit-stride vector load. -/
  | vld (a : FVM)
  /-- VST (R143): Unit-stride vector store. -/
  | vst (a : FVMC)
  /-- KLD (R147): Loads ceil(VL/8) bytes into a mask register. -/
  | kld (kd : MReg) (base : Reg)
  /-- KST (R147): Stores a mask register's bits below VL. -/
  | kst (ks : MReg) (base : Reg)
  /-- VLDS (R143): Strided vector load. -/
  | vlds (a : FVM2)
  /-- VSTS (R143): Strided vector store. -/
  | vsts (a : FVM2C)
  /-- VLDX_O (R143): Ordered indexed vector load. -/
  | vldxO (a : FVM2C)
  /-- VSTX_O (R143): Ordered indexed vector store. -/
  | vstxO (a : FVM2C)
  /-- VLDX (R143): Unordered indexed vector load (gather). -/
  | vldx (a : FVM2C)
  /-- VSTX (R143): Unordered indexed vector store (scatter). -/
  | vstx (a : FVM2C)
  /-- VLDFF (R145): Fault-first load that trims VL at the first fault. -/
  | vldff (a : FVM)
  /-- VLDL (R146): Load from the strand's core-local storage. -/
  | vldl (a : FVM)
  /-- VSTL (R146): Store to the strand's core-local storage. -/
  | vstl (a : FVMC)
  /-- QDEF (R154): Defines a stream handle from a descriptor. -/
  | qdef (q : QReg) (base : Reg)
  /-- QBIND (R155): Binds a register group to a stream handle. -/
  | qbind (vd : Reg) (q : QReg)
  /-- QUNB (R155): Removes a register's stream binding. -/
  | qunb (vd : Reg)
  /-- QAVAIL (R158): Reads a stream handle's state into xd. -/
  | qavail (rd : Reg) (q : QReg)
  /-- QWAIT (R158): Waits until enough elements are available or END. -/
  | qwait (q : QReg) (rs1 : Reg)
  /-- QEND (R159): Marks the end of an output stream. -/
  | qend (q : QReg)
  /-- QRST (R159): Ends, drains, unbinds and undefines a stream handle. -/
  | qrst (q : QReg)
  /-- VAMOADD (R195): Vector atomic add per element. -/
  | vamoadd (a : FAmo)
  /-- VAMOMIN (R195): Vector atomic signed minimum. -/
  | vamomin (a : FAmo)
  /-- VAMOMAX (R195): Vector atomic signed maximum. -/
  | vamomax (a : FAmo)
  /-- VAMOMINN (R195): Vector atomic unsigned minimum. -/
  | vamominn (a : FAmo)
  /-- VAMOMAXN (R195): Vector atomic unsigned maximum. -/
  | vamomaxn (a : FAmo)
  /-- VAMOAND (R195): Vector atomic AND. -/
  | vamoand (a : FAmo)
  /-- VAMOOR (R195): Vector atomic OR. -/
  | vamoor (a : FAmo)
  /-- VAMOXOR (R195): Vector atomic XOR. -/
  | vamoxor (a : FAmo)
  /-- VAMOSWP (R195): Vector atomic swap. -/
  | vamoswp (a : FAmo)
  /-- VAMOCAS (R195): Vector atomic compare-and-swap. -/
  | vamocas (a : FAmo)
  /-- VAMOFADD (R195): Vector atomic FP32 add, RNE. -/
  | vamofadd (a : FAmo)
  /-- LANE_FORM_ATOMIC (R134): Vector atomic executed by a lane thread on one element. -/
  | laneFormAtomic (op : Fin 11) (a : FAmo)
  /-- VWAIT_EQ (R199): Sleeps until every active element equals vs3. -/
  | vwaitEq (a : FWait)
  /-- VWAIT_NE (R199): Sleeps until every active element differs from vs3. -/
  | vwaitNe (a : FWait)
  /-- VWAIT_LT (R199): Sleeps until every active element is below vs3. -/
  | vwaitLt (a : FWait)
  /-- VWAIT_GE (R199): Sleeps until every active element is at least vs3. -/
  | vwaitGe (a : FWait)
  /-- VGL (R197): Gather-linked load that sets per-element reservations. -/
  | vgl (a : FLink)
  /-- VSC (R197): Scatter-conditional store; success mask to k6. -/
  | vsc (a : FLink)
  /-- ORD_SV (R200): Orders scalar accesses before later vector accesses. -/
  | ordSv (scope : Fin 5)
  /-- ORD_VS (R200): Orders vector accesses before later scalar accesses. -/
  | ordVs (scope : Fin 5)
  /-- ORD_VV (R200): Orders vector accesses before later vector accesses. -/
  | ordVv (scope : Fin 5)
  /-- ORD_ALL (R200): Orders both agents' accesses before both agents' later ones. -/
  | ordAll (scope : Fin 5)
  /-- SEV (R203): Sets a target strand's event latch. -/
  | sev (rs1 : Reg)
  /-- SEND (R205): Sends an 8-byte payload to a strand's inbox channel. -/
  | send (rs1 rs2 : Reg) (ch : QReg)
  /-- RECV (R206): Dequeues the oldest message of a channel, waiting if empty. -/
  | recv (rd : Reg) (ch : QReg)
  /-- RECVNB (R206): Dequeues a message or returns zeros without waiting. -/
  | recvnb (rd : Reg) (ch : QReg)
  /-- FRZ (R209): Freezes a range of pages and returns a handle or status. -/
  | frz (rd rs1 rs2 : Reg)
  /-- THAW (R211): Starts thawing a catalogue entry and its collection. -/
  | thaw (rs1 : Reg) (ch : QReg)
  /-- THAWW (R212): Waits until a catalogue entry is freed, then acquires. -/
  | thaww (rs1 : Reg)
  /-- FRZQ (R213): Reads a page's freeze state, count and handle. -/
  | frzq (rd rs1 : Reg)
  /-- SYSC_B (R320): Posts a blocking service call and waits for the reply. -/
  | syscB (rd rs1 : Reg)
  /-- SYSC_N (R320): Posts a non-blocking service call and returns the slip address. -/
  | syscN (rd rs1 : Reg)
  /-- MMR (R222): Matrix row product accumulated into an accumulator row. -/
  | mmr (row : BitVec 10) (slot : QReg) (base : Reg)
  /-- MMRZ (R222): Matrix row product written without accumulation. -/
  | mmrz (row : BitVec 10) (slot : QReg) (base : Reg)
  /-- MMRS (R222): Matrix row product with a register row base. -/
  | mmrs (row : BitVec 10) (slot : QReg) (base rs3 : Reg)
  /-- ACCRD (R224): Reads an accumulator row into a vector register. -/
  | accrd (vd rs1 : Reg) (row : BitVec 10)
  /-- ACCWR (R224): Writes a vector register into an accumulator row. -/
  | accwr (rs1 : Reg) (row : BitVec 10) (vs2 : Reg)
  /-- ACCZ (R224): Zeroes n accumulator rows. -/
  | accz (rs1 : Reg) (row n : BitVec 10)
  /-- WCLR (R225): Makes a tile slot empty. -/
  | wclr (slot : QReg)
  /-- WDESC (R226): Reads a slot descriptor and the array status, clearing the status. -/
  | wdesc (rd : Reg) (slot : QReg)
  /-- CPT (R166): Copy-engine tensor box copy. -/
  | cpt (a : FCopy)
  /-- CPGR (R166): Copy-engine row gather into core-local storage. -/
  | cpgr (a : FCopyV)
  /-- CPSC (R166): Copy-engine row scatter to memory. -/
  | cpsc (a : FCopyV)
  /-- CPW (R166): Copy-engine weight load into a tile slot. -/
  | cpw (a : FCopy) (slot : QReg)
  /-- CPF (R166): Copy-engine fill of a tensor box. -/
  | cpf (a : FCopy)
  /-- LNCH (R250): Submits a launch from the device. -/
  | lnch (rd rs1 : Reg) (ch : QReg)
  /-- CPOST (R322): Posts a collective command to the collective engine. -/
  | cpost (rd rs1 : Reg) (ch : QReg)
  /-- FENCE (R56): Orders the scalar agent's accesses at package or system scope. -/
  | fence (fm pred succ : Fin 16) (rs1 rd : Reg)
  /-- QUELAN_CSR_ACCESS (R65): CSR access to a Quelan CSR, waiting for earlier vector instructions. -/
  | quelanCsrAccess (a : FCsr)
  /-- VDIRTY_WRITE (R65): Write of VDIRTY; cleared bits zero their registers. -/
  | vdirtyWrite (a : FCsr)
  /-- RV64_SCALAR_INSTRUCTION (R55): A strand or lane thread executes a ratified RV64 scalar instruction: an ALU op, branch,
  load, store, LR/SC, AMO, FP op or standard CSR access. -/
  | rv64ScalarInstruction (form : Form) (op : Scalar)
  /-- VREL (R36): Marks vector state dead and returns all lane groups. -/
  | vrel
  /-- LJOIN (R135): Stops a lane thread; the last join re-forms the vector. -/
  | ljoin
  /-- CCMOVE_WRITE_BOOKMARK (R284): OP 1: writes an XREG word or PC in a bookmark. -/
  | ccmoveWriteBookmark
  /-- CCMOVE_KILL (R284): OP 2: kills a launch with a given class. -/
  | ccmoveKill
  /-- CCMOVE_CANCEL (R284): OP 3: cancels a launch with LS_CANCEL. -/
  | ccmoveCancel
  /-- CCMOVE_PREEMPT (R284): OP 4: requests pre-emption of a launch. -/
  | ccmovePreempt
  /-- CCMOVE_RESUME (R284): OP 5: requests resumption of a launch. -/
  | ccmoveResume
  /-- CCMOVE_POST_MESSAGE (R284): OP 6: posts a KIND 0110 system message to a strand. -/
  | ccmovePostMessage
  /-- BAR (R201): Arrives at the group barrier and waits for completion. -/
  | bar
  /-- PHEND (R202): Waits until every lane's unperformed store count is zero. -/
  | phend
  /-- WFE (R203): Sleeps until the event latch is set, then clears it. -/
  | wfe
  /-- GEXIT (R249): Requests exit of the strand. -/
  | gexit
  /-- YLD (R249): Yields issue to other ready strands of the core. -/
  | yld
  /-- MIG_CONTROL (R249): Asks the carrier to move the strand to a control core. -/
  | migControl
  /-- MIG_VECTOR (R249): Asks the carrier to move the strand to a vector core. -/
  | migVector
  /-- MIG_ARRAY (R249): Asks the carrier to move the strand to an array core. -/
  | migArray
  /-- FENCE_TSO (R56): Treated as fence rw,rw. -/
  | fenceTso
  /-- FENCE_I (R56): Waits for scalar stores and discards prefetched instructions on a control core. -/
  | fenceI
  /-- ECALL (R56): Environment call delivered to the resident supervisor. -/
  | ecall
  /-- EBREAK (R56): Breakpoint delivered to the resident supervisor. -/
  | ebreak
  /-- FREEZE_POINT (R209): After write-back of the range, counts rise and the entry and handle are made. -/
  | freezePoint
  /-- EXIT_ADDRESS_FETCH (R47): A fetch from the exit address executes as gexit. -/
  | exitAddressFetch
  /-- REPLY_QUEUE_DELIVERY (R111): A reply-queue result is written to its scalar destination. -/
  | replyQueueDelivery
  /-- VECTOR_ACCESS_PERFORMED (R202): A vector store or atomic element is performed at package scope, lowering its lane
  count. -/
  | vectorAccessPerformed
  /-- STRAND_EXIT (R47): After the strand's work completes, output streams end, inbox is discarded and resources freed. -/
  | strandExit
  /-- QNOTIFY_WRITE (R235): Write of a submission sequence number to a slot's notify register. -/
  | qnotifyWrite
  /-- QUEUE_ENTRY_FETCH (R235): The launch unit fetches and checks the next notified queue entry. -/
  | queueEntryFetch
  /-- LAUNCH_ACCEPT (R239): A TYPE 0 entry's launch record is checked and accepted or rejected. -/
  | launchAccept
  /-- CODE_OBJECT_REGISTER (R237): A TYPE 1 entry registers a Clofer object. -/
  | codeObjectRegister
  /-- CODE_OBJECT_UNREGISTER (R237): A TYPE 2 entry unregisters a code object handle. -/
  | codeObjectUnregister
  /-- QUEUE_MAP (R263): The scheduler maps a user queue to a slot and applies a pending notify. -/
  | queueMap
  /-- QUEUE_UNMAP (R263): The scheduler unmaps a user queue from a slot. -/
  | queueUnmap
  /-- PEND_SCAN (R263): Periodic scan, at least every 100 micros, of PEND in user queue records. -/
  | pendScan
  /-- DISPATCH_DECISION (R244): A die's launch unit chooses and places the next group, at most every 16 cycles. -/
  | dispatchDecision
  /-- AGING_STEP (R243): A waiting launch's effective level rises every 2 ms. -/
  | agingStep
  /-- DISPATCH_COUNT_HALVING (R244): Each tenant's dispatched-slot count halves every 1 ms. -/
  | dispatchCountHalving
  /-- DIE_RESERVE (R244): After 2 ms unplaced, a high-level launch's group gets a die reserve. -/
  | dieReserve
  /-- PREEMPTION_START (R258): Dispatch stops, space is reserved, strands are told to stop. -/
  | preemptionStart
  /-- PREEMPTION_SAVE (R258): Stopped strands' contexts are saved and resources freed. -/
  | preemptionSave
  /-- RESUMPTION (R260): A pre-empted launch resumes when its cause has ended. -/
  | resumption
  /-- SAVED_GROUP_PLACEMENT (R262): A saved group is placed whole in ascending GLIN order. -/
  | savedGroupPlacement
  /-- MIGRATION_WAIT_TIMEOUT (R46): After 1 ms of migration wait, a launch of the class is pre-empted. -/
  | migrationWaitTimeout
  /-- SAVE_POOL_RETRY (R259): A migration-wait pre-emption refused for pool space is retried every 1 ms. -/
  | savePoolRetry
  /-- LANE_WAIT_CHECK (R35): Every 50 micros the carrier seeks a core for a strand in lane wait. -/
  | laneWaitCheck
  /-- CARRIER_MOVE (R43): The carrier takes a stopped strand's context for a move. -/
  | carrierMove
  /-- STRAND_ARRIVAL (R43): A moved strand's context is restored and it resumes at the target. -/
  | strandArrival
  /-- YLD_TIMEOUT (R249): A yielding strand resumes after 16 cycles. -/
  | yldTimeout
  /-- THERMAL_SENSOR_UPDATE (R253): TEMP is updated every 10 micros. -/
  | thermalSensorUpdate
  /-- THERMAL_SLOT_DISABLE (R253): Every 50 micros over TTRIP the highest enabled slot is disabled. -/
  | thermalSlotDisable
  /-- THERMAL_SLOT_ENABLE (R253): Every 50 micros below TTRIP − 5 the lowest disabled slot is enabled. -/
  | thermalSlotEnable
  /-- MIX_WINDOW_END (R255): At the end of a 65,536-instruction window a scalar-heavy strand moves to a control core. -/
  | mixWindowEnd
  /-- SELFTEST_FAILURE (R24): A core fails periodic self-test, leaves service and sets MERR.SELFTEST. -/
  | selftestFailure
  /-- PAGE_TABLE_WALK (R268): A walk completes and judges the translation. -/
  | pageTableWalk
  /-- IMPRECISE_TRAP (R274): A strand stops, drains in-flight work, writes its bookmark and parks. -/
  | impreciseTrap
  /-- FAULT_BATCH_POST (R272): A batch of fault records enters the die's queue when there is room. -/
  | faultBatchPost
  /-- ENGINE_FAULT_PAUSE (R273): A copy command pauses on a translation fault and posts a batch. -/
  | engineFaultPause
  /-- TLBINV_ALL (R269): Requests invalidation of every TLB entry of a context. -/
  | tlbinvAll
  /-- TLBINV_PAGE (R269): Requests invalidation of every entry mapping a page. -/
  | tlbinvPage
  /-- TLB_INVALIDATION_COMPLETE (R269): An invalidation request completes and TLBDONE advances. -/
  | tlbInvalidationComplete
  /-- NOTIFICATION_DELIVERY (R182): A broadcast coherent request reaches every snooper of the die 16 cycles later. -/
  | notificationDelivery
  /-- SNOOP_ANSWER (R297): A core's snoop port answers a delivered snoop. -/
  | snoopAnswer
  /-- DIRECTORY_REQUEST (R183): A request arrives at the home slice directory and is serialised. -/
  | directoryRequest
  /-- WC_BUFFER_DRAIN (R184): An untracked write-combining buffer becomes visible without a flush. -/
  | wcBufferDrain
  /-- MEMORY_REQUEST_ARRIVAL (R303): A request reaches a stack and is judged against the sweep pointer. -/
  | memoryRequestArrival
  /-- HOST_CXL_MEM_READ (R307): A host read of device memory over CXL.mem. -/
  | hostCxlMemRead
  /-- HOST_CXL_MEM_WRITE (R210): A host write of device memory over CXL.mem, refused on frozen pages. -/
  | hostCxlMemWrite
  /-- PEER_READ (R210): A peer reads a frozen line and installs a reference copy. -/
  | peerRead
  /-- PAGE_MIGRATION_REQUEST (R290): Host or device requests page migration under the page lock. -/
  | pageMigrationRequest
  /-- RESERVATION_EXPIRY (R198): A vgl reservation becomes invalid 1 micros after the vgl. -/
  | reservationExpiry
  /-- VWAIT_REEVALUATION (R199): A vwait watching over 256 lines re-evaluates every 1 micros. -/
  | vwaitReevaluation
  /-- BACK_INVALIDATION_ACK (R211): An external holder acknowledges a back-invalidation. -/
  | backInvalidationAck
  /-- PEER_ACK_TIMEOUT (R211): A peer missing the 100 ms deadline is reported failed. -/
  | peerAckTimeout
  /-- HOST_BI_TIMEOUT (R211): The host missing the 100 ms deadline sets MERR.HOSTBI. -/
  | hostBiTimeout
  /-- COLLECTION_COMPLETE (R211): Pages become open, the entry is freed and the thaw message posted. -/
  | collectionComplete
  /-- CONTEXT_DESTROY (R308): A context is destroyed: entries thawed, state zeroed, key erased. -/
  | contextDestroy
  /-- COPY_COMMAND_ACCEPT (R164): A copy command enters the engine queue when there is room. -/
  | copyCommandAccept
  /-- COPY_COMMAND_COMPLETE (R167): A copy command completes, writing its mask and posting its message. -/
  | copyCommandComplete
  /-- STREAM_SLOT_FILL (R160): The engine fills a free slot of a load stream. -/
  | streamSlotFill
  /-- STREAM_DRAIN_WRITE (R160): The engine writes a store-stream strip to the pattern. -/
  | streamDrainWrite
  /-- STAGE_STRIP_ARRIVAL (R161): A stage-output strip arrives in the consumer's ring. -/
  | stageStripArrival
  /-- COLLECTIVE_QUEUE_ACCEPT (R322): A cpost command enters the die's collective queue when there is room. -/
  | collectiveQueueAccept
  /-- COLLECTIVE_COMPLETE (R322): A collective completes and posts KIND 0011. -/
  | collectiveComplete
  /-- MESSAGE_ARRIVAL (R205): A message reaches a strand's inbox channel or the overflow pool. -/
  | messageArrival
  /-- OVERFLOW_DELIVERY (R207): A held message is delivered from the overflow pool. -/
  | overflowDelivery
  /-- LSPLIT_WRITE (R171): Write of the requested cache/scratch split. -/
  | lsplitWrite
  /-- SPLIT_APPLY (R171): A pending split is applied once the core is empty. -/
  | splitApply
  /-- VPOOL_WRITE (R175): Write of the victim pool size and way mask. -/
  | vpoolWrite
  /-- WMASK_WRITE (R173): Write of a strand slot's fill way mask. -/
  | wmaskWrite
  /-- MEMCAP_WRITE (R300): Write of the live capacity CAP. -/
  | memcapWrite
  /-- IRMCTL_START (R301): Starts a stack retirement phase. -/
  | irmctlStart
  /-- SWEEP_WINDOW (R302): The remap engine finishes a 64-granule window and lowers P. -/
  | sweepWindow
  /-- SNAPCTL_START (R309): Starts a snapshot of device memory to pooled memory. -/
  | snapctlStart
  /-- SNAPSHOT_COMPLETE (R309): The snapshot finishes; DONE set, BUSY cleared. -/
  | snapshotComplete
  /-- SNAPSHOT_FABRIC_ERROR (R309): A fabric error ends the snapshot with ERR. -/
  | snapshotFabricError
  /-- PLATCTL_LOCK (R326): Requests locked-clock mode. -/
  | platctlLock
  /-- PLATCTL_UNLOCK (R326): Requests the nominal clock. -/
  | platctlUnlock
  /-- CLOCK_CHANGE_COMPLETE (R326): The clock change takes effect and LOCKED follows. -/
  | clockChangeComplete
  /-- HOSTCTL_ATTACH (R318): The host attaches; held completions are written. -/
  | hostctlAttach
  /-- HOSTCTL_DETACH (R318): The host announces a warm restart and becomes absent. -/
  | hostctlDetach
  /-- HOST_LINK_DOWN (R318): Host-port link-down or CXL reset makes the host absent. -/
  | hostLinkDown
  /-- SVCNOTIFY_WRITE (R320): Host notify that makes a waiting service call re-read its slip. -/
  | svcnotifyWrite
  /-- HCMD_CANCEL (R317): Host cancels a launch. -/
  | hcmdCancel
  /-- HCMD_PREEMPT (R317): Host requests pre-emption of a launch. -/
  | hcmdPreempt
  /-- HCMD_RESUME (R317): Host requests resumption of a launch. -/
  | hcmdResume
  /-- HERRA_READ (R317): Read-clear of the last refused host write address. -/
  | herraRead
  /-- HERRN_READ (R317): Read-clear of the refused host write count. -/
  | herrnRead
  /-- STKCE_READ (R311): Read-clear of a stack's corrected error count. -/
  | stkceRead
  /-- KCTL_WRITE (R314): Write of a key slot's enable and owner; EN 0 erases the key. -/
  | kctlWrite
  /-- NONCE_WRITE (R314): Derives a key for a disabled key slot. -/
  | nonceWrite
  /-- INTRT_WRITE (R312): Changes interrupt routing, moving pending interrupts. -/
  | intrtWrite
  /-- REGISTER_WRITE (R7): Write of a register field with no behaviour of its own, including W1C bits. -/
  | registerWrite
  /-- ETHERNET_LINK_CHANGE (R311): An Ethernet port gains or loses link. -/
  | ethernetLinkChange
  /-- POWER_ON_RESET (R324): Power-on or cold reset runs the boot sequence. -/
  | powerOnReset
  /-- SPDM_REQUEST (R325): An SPDM attestation request over PCIe DOE. -/
  | spdmRequest
  /-- D3HOT_ENTRY (R327): Host requests D3hot; refused while any queue is busy. -/
  | d3hotEntry
  /-- D0_ENTRY (R327): Return from D3hot to D0. -/
  | d0Entry
  /-- VECTOR_INSTRUCTION_COMPLETION (R274): A vector or matrix-queue instruction that issued earlier finishes its last
  element group or row. -/
  | vectorInstructionCompletion
  /-- OWNER_BACK_INVALIDATION (R183): The host, or the owner of pooled or peer memory, back-invalidates a line of its memory
  that the device holds. -/
  | ownerBackInvalidation
  deriving DecidableEq, Repr

/-- An event that is due: its row and its particulars. -/
structure Event where
  row : Instr
  arg : Arg
  deriving DecidableEq, Repr

end Sys2Proof
end

