-- ==== Sys2Proof/Decode.lean ====
section
/-! DEFINITION. The decoder (R52 to R54, R66 to R75 and the ratified RV64 formats of R55), total on any bytes and
rejecting by name, and after it the encoder, written from the same tables. Words are numbers; bit 0 is the least
significant bit of the first parcel. -/

namespace Sys2Proof

/-- Why bytes are no instruction: each is an illegal instruction by R53 step 1, but for `truncated`. -/
inductive DecodeError
  /-- Fewer bytes than the first parcel's length asks for. -/
  | truncated
  /-- A 48-bit length (R52). -/
  | length48
  /-- A length of 80 bits or more (R52). -/
  | length80
  /-- A point the opcode maps leave unassigned (R54, R55). -/
  | unassigned
  /-- A reserved field that is not zero (R53). -/
  | reservedField
  /-- A field that must hold a fixed value holds another (R53: vm = 0 in `vmerge`). -/
  | fixedField
  deriving DecidableEq, Repr

/-! ### Fields -/

/-- Bits [lo + n - 1 : lo] of a word. -/
def fld (w lo n : Nat) : Nat := w / 2 ^ lo % 2 ^ n

/-- Bit i of a word. -/
def flag (w i : Nat) : Bool := fld w i 1 == 1

/-- The register number in the 5 bits from `lo`. -/
def regAt (w lo : Nat) : Reg := Fin.ofNat 32 (w / 2 ^ lo)

/-- The mask register number in the 3 bits from `lo`. -/
def mregAt (w lo : Nat) : MReg := Fin.ofNat 8 (w / 2 ^ lo)

/-- The handle, slot or channel in the 4 bits from `lo`. -/
def qregAt (w lo : Nat) : QReg := Fin.ofNat 16 (w / 2 ^ lo)

/-- The n-bit immediate from `lo`. -/
def immAt (w lo n : Nat) : BitVec n := BitVec.ofNat n (w / 2 ^ lo)

/-- The fields listed as (low bit, width) are reserved and must be zero. -/
def reserved (w : Nat) (fields : List (Nat × Nat)) (i : Instr) : Except DecodeError Instr :=
  if fields.all (fun p => fld w p.1 p.2 == 0) then .ok i else .error .reservedField

/-- An entry of an opcode page applied to its operands; no entry, no instruction. -/
def pick {α : Type} (page : List (α → Instr)) (code : Nat) (a : α) : Except DecodeError Instr :=
  match page[code]? with
  | some c => .ok (c a)
  | none => .error .unassigned

/-- As `pick`, with reserved fields. -/
def pickRes {α : Type} (page : List (α → Instr)) (code : Nat) (a : α) (w : Nat) (fields : List (Nat × Nat)) :
    Except DecodeError Instr :=
  match page[code]? with
  | some c => reserved w fields (c a)
  | none => .error .unassigned

/-- An entry of a page with gaps, as (code, form). -/
def pickAt {α : Type} (page : List (Nat × (α → Instr))) (code : Nat) (a : α) : Except DecodeError Instr :=
  match page.find? (fun p => p.1 == code) with
  | some p => .ok (p.2 a)
  | none => .error .unassigned

/-- As `pickAt`, with reserved fields. -/
def pickAtRes {α : Type} (page : List (Nat × (α → Instr))) (code : Nat) (a : α) (w : Nat) (fields : List (Nat × Nat)) :
    Except DecodeError Instr :=
  match page.find? (fun p => p.1 == code) with
  | some p => reserved w fields (p.2 a)
  | none => .error .unassigned

/-! ### Operand forms -/

def vvAt (w : Nat) : FVV :=
  { vm := flag w 27, c2 := flag w 26, c1 := flag w 25, vs2 := regAt w 20, vs1 := regAt w 15, vd := regAt w 7 }
def vxAt (w : Nat) : FVX :=
  { vm := flag w 27, c2 := flag w 26, vs2 := regAt w 20, rs1 := regAt w 15, vd := regAt w 7 }
def viAt (w : Nat) : FVI :=
  { vm := flag w 27, c2 := flag w 26, vs2 := regAt w 20, imm := immAt w 15 5, vd := regAt w 7 }
def vuAt (w : Nat) : FVU :=
  { vm := flag w 27, c2 := flag w 26, vs2 := regAt w 20, vd := regAt w 7 }
def vusAt (w : Nat) : FVUS :=
  { vm := flag w 27, c2 := flag w 26, sat := flag w 25, vs2 := regAt w 20, vd := regAt w 7 }
def vxsAt (w : Nat) : FVXS :=
  { vm := flag w 27, c2 := flag w 26, sat := flag w 25, vs2 := regAt w 20, rs1 := regAt w 15, vd := regAt w 7 }
def kvvAt (w : Nat) : FKVV :=
  { vm := flag w 27, c2 := flag w 26, c1 := flag w 25, vs2 := regAt w 20, vs1 := regAt w 15, kd := mregAt w 7 }
def kvxAt (w : Nat) : FKVX :=
  { vm := flag w 27, c2 := flag w 26, vs2 := regAt w 20, rs1 := regAt w 15, kd := mregAt w 7 }
def kviAt (w : Nat) : FKVI :=
  { vm := flag w 27, c2 := flag w 26, vs2 := regAt w 20, imm := immAt w 15 5, kd := mregAt w 7 }
def vmAt (w : Nat) : FVM :=
  { vm := flag w 28, w := Fin.ofNat 4 (w / 2 ^ 25), base := regAt w 15, vd := regAt w 7 }
def vmcAt (w : Nat) : FVMC :=
  { vm := flag w 28, c := flag w 27, w := Fin.ofNat 4 (w / 2 ^ 25), base := regAt w 15, vd := regAt w 7 }
def vm2At (w : Nat) : FVM2 :=
  { vm := flag w 28, w := Fin.ofNat 4 (w / 2 ^ 25), src2 := regAt w 20, base := regAt w 15, vd := regAt w 7 }
def vm2cAt (w : Nat) : FVM2C :=
  { vm := flag w 28, c := flag w 27, w := Fin.ofNat 4 (w / 2 ^ 25), src2 := regAt w 20, base := regAt w 15,
    vd := regAt w 7 }
def amoAt (w : Nat) : FAmo :=
  { vm := flag w 27, aq := flag w 26, rl := flag w 25, vs2 := regAt w 20, base := regAt w 15,
    scope := Fin.ofNat 5 (fld w 12 3), vd := regAt w 7 }
def waitAt (w : Nat) : FWait :=
  { vm := flag w 27, vs2 := regAt w 20, base := regAt w 15, vs3 := regAt w 7 }
/-- `ordBit` is bit 26 (aq) for `vgl` and bit 25 (rl) for `vsc`. -/
def linkAt (w ordBit : Nat) : FLink :=
  { vm := flag w 27, ord := flag w ordBit, vs2 := regAt w 20, base := regAt w 15, vd := regAt w 7 }

/-! ### QA, major 0x0B (R71) -/

def pageVV : List (FVV → Instr) :=
  [.vaddVv, .vsubVv, .vmulVv, .vmulhVv, .vmulhnVv, .vmaccVv, .vnmsacVv, .vminVv,
   .vmaxVv, .vminnVv, .vmaxnVv, .vandVv, .vorVv, .vxorVv, .vsllVv, .vsrlVv]
def pageVV2 : List (FVV → Instr) :=
  [.vsraVv, .vdivVv, .vdivnVv, .vremVv, .vremnVv, .vsaddVv, .vsaddnVv, .vssubVv, .vssubnVv]
def pageVX : List (FVX → Instr) :=
  [.vaddVx, .vsubVx, .vmulVx, .vmulhVx, .vmulhnVx, .vmaccVx, .vnmsacVx, .vminVx,
   .vmaxVx, .vminnVx, .vmaxnVx, .vandVx, .vorVx, .vxorVx, .vsllVx, .vsrlVx,
   .vsraVx, .vdivVx, .vdivnVx, .vremVx, .vremnVx, .vsaddVx, .vsaddnVx, .vssubVx, .vssubnVx, .vrsubVx]
def pageVI : List (Nat × (FVI → Instr)) :=
  [(0, .vaddVi), (11, .vandVi), (12, .vorVi), (13, .vxorVi), (14, .vsllVi), (15, .vsrlVi), (16, .vsraVi),
   (21, .vsaddVi), (22, .vsaddnVi), (25, .vrsubVi)]
def pageFVV : List (FVV → Instr) :=
  [.vfaddVv, .vfsubVv, .vfmulVv, .vfdivVv, .vfminVv, .vfmaxVv, .vfmaccVv, .vfnmaccVv,
   .vfmsacVv, .vfnmsacVv, .vfsgnjVv, .vfsgnjnVv, .vfsgnjxVv]
def pageFU : List (FVU → Instr) := [.vfsqrt, .vfrece, .vfrsqe, .vfclass]
def pageFVF : List (FVX → Instr) :=
  [.vfaddVf, .vfsubVf, .vfmulVf, .vfdivVf, .vfminVf, .vfmaxVf, .vfmaccVf, .vfnmaccVf,
   .vfmsacVf, .vfnmsacVf, .vfsgnjVf, .vfsgnjnVf, .vfsgnjxVf, .vfrsubVf, .vfrdivVf]
def pageRed : List (FVV → Instr) :=
  [.vredsum, .vredmax, .vredmin, .vredmaxn, .vredminn, .vredand, .vredor, .vfredo,
   .vfredt, .vfredmax, .vfredmin, .vfredamax]

def decodeQA (w : Nat) : Except DecodeError Instr :=
  match fld w 12 3 with
  | 0 => pick pageVV (fld w 28 4) (vvAt w)
  | 7 => pick pageVV2 (fld w 28 4) (vvAt w)
  | 1 =>
    match fld w 25 1 * 16 + fld w 28 4 with
    | 26 => reserved w [(20, 5), (26, 1)] (.vsplatVx (flag w 27) (regAt w 7) (regAt w 15))
    | op5 => pick pageVX op5 (vxAt w)
  | 2 =>
    match fld w 25 1 * 16 + fld w 28 4 with
    | 26 => reserved w [(20, 5), (26, 1)] (.vsplatVi (flag w 27) (regAt w 7) (immAt w 15 5))
    | op5 => pickAt pageVI op5 (viAt w)
  | 3 =>
    match fld w 28 4 with
    | 13 => pickRes pageFU (fld w 15 5) (vuAt w) w [(25, 1)]
    | op4 => pick pageFVV op4 (vvAt w)
  | 4 =>
    match fld w 28 4 with
    | 15 => reserved w [(20, 5), (25, 2)] (.vfsplat (flag w 27) (regAt w 7) (regAt w 15))
    | op4 => pickRes pageFVF op4 (vxAt w) w [(25, 1)]
  | 5 =>
    match fld w 28 4 with
    | 12 => reserved w [(15, 5), (25, 1), (27, 1)] (.vmvxs (flag w 26) (regAt w 7) (regAt w 20))
    | 13 => reserved w [(15, 5), (25, 1), (27, 1)] (.vmvfs (flag w 26) (regAt w 7) (regAt w 20))
    | op4 => pick pageRed op4 (vvAt w)
  | 6 =>
    match fld w 28 4 with
    | 0 => reserved w [(15, 5), (25, 1)] (.vfcvtfi (vuAt w))
    | 1 => reserved w [(15, 5), (25, 1)] (.vfcvtif (vuAt w))
    | 2 => reserved w [(15, 5), (25, 1)] (.vfwcvt (vuAt w))
    | 3 => reserved w [(15, 5)] (.vfncvt (vusAt w))
    | 4 => .ok (.vqcvt (vxsAt w))
    | 5 => reserved w [(25, 1)] (.vdqcvt (vxAt w))
    | 6 => reserved w [(15, 5), (25, 1)] (.vncvti (vuAt w))
    | 7 => reserved w [(15, 5), (25, 1)] (.vwcvti (vuAt w))
    | _ => .error .unassigned
  | _ => .error .unassigned

/-! ### QK, major 0x7B (R72) -/

def pageKVV : List (FKVV → Instr) := [.vmseqVv, .vmsneVv, .vmsltVv, .vmsltnVv, .vmsleVv, .vmslenVv]
def pageKVX : List (FKVX → Instr) := [.vmseqVx, .vmsneVx, .vmsltVx, .vmsltnVx, .vmsleVx, .vmslenVx]
def pageKVI : List (Nat × (FKVI → Instr)) := [(0, .vmseqVi), (1, .vmsneVi), (4, .vmsleVi), (5, .vmslenVi)]
def pageKFV : List (FKVV → Instr) := [.vmfeqVv, .vmfneVv, .vmfltVv, .vmfleVv, .vmfordVv]
def pageKFF : List (FKVX → Instr) := [.vmfeqVf, .vmfneVf, .vmfltVf, .vmfleVf, .vmfordVf]

def decodeQK (w : Nat) : Except DecodeError Instr :=
  match fld w 12 3 with
  | 0 =>
    if fld w 28 4 < 8 then pickRes pageKVV (fld w 28 4) (kvvAt w) w [(10, 2)]
    else pickRes pageKVX (fld w 28 4 - 8) (kvxAt w) w [(10, 2), (25, 1)]
  | 1 => pickAtRes pageKVI (fld w 28 4) (kviAt w) w [(10, 2), (25, 1)]
  | 2 =>
    if fld w 28 4 < 8 then pickRes pageKFV (fld w 28 4) (kvvAt w) w [(10, 2)]
    else pickRes pageKFF (fld w 28 4 - 8) (kvxAt w) w [(10, 2), (25, 1)]
  | 3 =>
    match fld w 28 4 with
    | 0 => reserved w [(25, 3), (23, 2), (18, 2), (10, 2)] (.kand (mregAt w 7) (mregAt w 20) (mregAt w 15))
    | 1 => reserved w [(25, 3), (23, 2), (18, 2), (10, 2)] (.kor (mregAt w 7) (mregAt w 20) (mregAt w 15))
    | 2 => reserved w [(25, 3), (23, 2), (18, 2), (10, 2)] (.kxor (mregAt w 7) (mregAt w 20) (mregAt w 15))
    | 3 => reserved w [(25, 3), (23, 2), (18, 2), (10, 2)] (.kandn (mregAt w 7) (mregAt w 20) (mregAt w 15))
    | 4 => reserved w [(25, 3), (23, 2), (15, 5), (10, 2)] (.knot (mregAt w 7) (mregAt w 20))
    | 5 => reserved w [(25, 3), (23, 2), (15, 5), (10, 2)] (.kmov (mregAt w 7) (mregAt w 20))
    | 6 => reserved w [(25, 3), (23, 2), (15, 5)] (.kpop (regAt w 7) (mregAt w 20))
    | 7 => reserved w [(25, 3), (23, 2), (15, 5)] (.kfirst (regAt w 7) (mregAt w 20))
    | _ => .error .unassigned
  | 4 =>
    match fld w 28 4 with
    | 0 => reserved w [(25, 1)] (.vslideupVx (vxAt w))
    | 1 => reserved w [(25, 1)] (.vslideupVi (viAt w))
    | 2 => reserved w [(25, 1)] (.vslidednVx (vxAt w))
    | 3 => reserved w [(25, 1)] (.vslidednVi (viAt w))
    | 4 => .ok (.vpermVv (vvAt w))
    | 5 => reserved w [(27, 1), (25, 1), (18, 2)] (.vcompress (flag w 26) (regAt w 7) (regAt w 20) (mregAt w 15))
    | 6 => reserved w [(27, 1), (25, 1), (18, 2)] (.vexpand (flag w 26) (regAt w 7) (regAt w 20) (mregAt w 15))
    | 7 =>
      if flag w 27 then .ok (.vmergeVv (flag w 26) (flag w 25) (regAt w 7) (regAt w 20) (regAt w 15))
      else .error .fixedField
    | 8 =>
      if flag w 27 then reserved w [(25, 1)] (.vmergeVx (flag w 26) (regAt w 7) (regAt w 20) (regAt w 15))
      else .error .fixedField
    | 9 =>
      if flag w 27 then reserved w [(25, 1)] (.vmergeVi (flag w 26) (regAt w 7) (regAt w 20) (immAt w 15 5))
      else .error .fixedField
    | 10 => reserved w [(25, 2), (20, 5), (15, 5)] (.vid (flag w 27) (regAt w 7))
    | _ => .error .unassigned
  | 5 =>
    if flag w 31 then
      reserved w [(30, 1)] (.vsetli (regAt w 7) (regAt w 15) (immAt w 28 2) (immAt w 20 8))
    else
      match fld w 25 6 with
      | 0 => .ok (.vsetl (regAt w 7) (regAt w 15) (regAt w 20))
      | 1 => reserved w [(20, 5), (15, 5), (7, 5)] .vrel
      | 2 => reserved w [(21, 4), (15, 5), (7, 5)] (.lfork (flag w 20))
      | 3 => reserved w [(20, 5), (15, 5), (7, 5)] .ljoin
      | _ => .error .unassigned
  | 6 =>
    match fld w 25 7 with
    | 0 => .ok (.bkrd (regAt w 7) (regAt w 15) (regAt w 20))
    | 1 => reserved w [(20, 5), (7, 5)] (.bkrsm (regAt w 15))
    | 2 => reserved w [(20, 5)] (.ccmoveMove (regAt w 7) (regAt w 15))
    | 3 => reserved w [(20, 5)] (.frqpop (regAt w 7) (regAt w 15))
    | 4 => reserved w [(7, 5)] (.latw (regAt w 15) (regAt w 20))
    | 5 => reserved w [(7, 5)] (.thrset (regAt w 15) (regAt w 20))
    | _ => .error .unassigned
  | _ => .error .unassigned

/-! ### QM, major 0x2B (R73) -/

def decodeQM (w : Nat) : Except DecodeError Instr :=
  match fld w 29 3, fld w 12 3 with
  | 0, 0 => reserved w [(27, 1), (20, 5)] (.vld (vmAt w))
  | 0, 1 => reserved w [(20, 5)] (.vst (vmcAt w))
  | 0, 2 => reserved w [(20, 9), (10, 2)] (.kld (mregAt w 7) (regAt w 15))
  | 0, 3 => reserved w [(20, 9), (10, 2)] (.kst (mregAt w 7) (regAt w 15))
  | 1, 0 => reserved w [(27, 1)] (.vlds (vm2At w))
  | 1, 1 => .ok (.vsts (vm2cAt w))
  | 2, 0 => .ok (.vldxO (vm2cAt w))
  | 2, 1 => .ok (.vstxO (vm2cAt w))
  | 3, 0 => .ok (.vldx (vm2cAt w))
  | 3, 1 => .ok (.vstx (vm2cAt w))
  | 4, 0 => reserved w [(27, 1), (20, 5)] (.vldff (vmAt w))
  | 5, 0 => reserved w [(27, 1), (20, 5)] (.vldl (vmAt w))
  | 5, 1 => reserved w [(20, 5)] (.vstl (vmcAt w))
  | 6, 0 => reserved w [(20, 9), (11, 1)] (.qdef (qregAt w 7) (regAt w 15))
  | 6, 1 => reserved w [(24, 5), (15, 5)] (.qbind (regAt w 7) (qregAt w 20))
  | 6, 2 => reserved w [(20, 9), (15, 5)] (.qunb (regAt w 7))
  | 6, 3 => reserved w [(24, 5), (15, 5)] (.qavail (regAt w 7) (qregAt w 20))
  | 6, 4 => reserved w [(20, 9), (11, 1)] (.qwait (qregAt w 7) (regAt w 15))
  | 6, 5 => reserved w [(20, 9), (15, 5), (11, 1)] (.qend (qregAt w 7))
  | 6, 6 => reserved w [(20, 9), (15, 5), (11, 1)] (.qrst (qregAt w 7))
  | _, _ => .error .unassigned

/-! ### QS, major 0x5B (R74) -/

def pageAmo : List (FAmo → Instr) :=
  [.vamoadd, .vamomin, .vamomax, .vamominn, .vamomaxn, .vamoand, .vamoor, .vamoxor, .vamoswp, .vamocas, .vamofadd]

def decodeSync (w : Nat) : Except DecodeError Instr :=
  match fld w 25 7 with
  | 0x00 => if fld w 20 3 < 5 then reserved w [(23, 2), (15, 5), (7, 5)] (.ordSv (Fin.ofNat 5 (fld w 20 3)))
            else .error .reservedField
  | 0x01 => if fld w 20 3 < 5 then reserved w [(23, 2), (15, 5), (7, 5)] (.ordVs (Fin.ofNat 5 (fld w 20 3)))
            else .error .reservedField
  | 0x02 => if fld w 20 3 < 5 then reserved w [(23, 2), (15, 5), (7, 5)] (.ordVv (Fin.ofNat 5 (fld w 20 3)))
            else .error .reservedField
  | 0x03 => if fld w 20 3 < 5 then reserved w [(23, 2), (15, 5), (7, 5)] (.ordAll (Fin.ofNat 5 (fld w 20 3)))
            else .error .reservedField
  | 0x08 => reserved w [(20, 5), (15, 5), (7, 5)] .bar
  | 0x09 => reserved w [(20, 5), (15, 5), (7, 5)] .phend
  | 0x0A => reserved w [(20, 5), (15, 5), (7, 5)] .wfe
  | 0x0B => reserved w [(20, 5), (7, 5)] (.sev (regAt w 15))
  | 0x10 => reserved w [(11, 1)] (.send (regAt w 15) (regAt w 20) (qregAt w 7))
  | 0x11 => reserved w [(20, 5), (19, 1)] (.recv (regAt w 7) (qregAt w 15))
  | 0x12 => reserved w [(20, 5), (19, 1)] (.recvnb (regAt w 7) (qregAt w 15))
  | 0x18 => .ok (.frz (regAt w 7) (regAt w 15) (regAt w 20))
  | 0x19 => reserved w [(20, 5), (11, 1)] (.thaw (regAt w 15) (qregAt w 7))
  | 0x1A => reserved w [(20, 5), (7, 5)] (.thaww (regAt w 15))
  | 0x1B => reserved w [(20, 5)] (.frzq (regAt w 7) (regAt w 15))
  | 0x20 => reserved w [(20, 5), (15, 5), (7, 5)] .gexit
  | 0x21 => reserved w [(20, 5), (15, 5), (7, 5)] .yld
  | 0x22 =>
    match fld w 20 5 with
    | 1 => reserved w [(15, 5), (7, 5)] .migControl
    | 2 => reserved w [(15, 5), (7, 5)] .migVector
    | 3 => reserved w [(15, 5), (7, 5)] .migArray
    | _ => .error .reservedField
  | 0x24 => reserved w [(20, 5)] (.syscB (regAt w 7) (regAt w 15))
  | 0x25 => reserved w [(20, 5)] (.syscN (regAt w 7) (regAt w 15))
  | _ => .error .unassigned

def decodeQS (w : Nat) : Except DecodeError Instr :=
  match fld w 12 3 with
  | 5 =>
    match fld w 28 4 with
    | 0 => reserved w [(25, 2)] (.vwaitEq (waitAt w))
    | 1 => reserved w [(25, 2)] (.vwaitNe (waitAt w))
    | 2 => reserved w [(25, 2)] (.vwaitLt (waitAt w))
    | 3 => reserved w [(25, 2)] (.vwaitGe (waitAt w))
    | 4 => reserved w [(25, 1)] (.vgl (linkAt w 26))
    | 5 => reserved w [(26, 1)] (.vsc (linkAt w 25))
    | _ => .error .unassigned
  | 6 => decodeSync w
  | 7 => .error .unassigned
  | _ => pick pageAmo (fld w 28 4) (amoAt w)

/-! ### Format L, major 0x3F (R75) -/

/-- The mask register of a copy command: named by dst [9:7] when MW = 1; with MW = 0 dst is reserved. -/
def copyMask (w : Nat) : Option MReg := if flag w 30 then some (mregAt w 7) else none

/-- The reserved part of dst in a copy command. -/
def copyDstRes (w : Nat) : Nat × Nat := if flag w 30 then (10, 2) else (7, 5)

def decodeL (w : Nat) : Except DecodeError Instr :=
  match fld w 12 3, fld w 58 6 with
  | 0, 0 => reserved w [(24, 1), (25, 7), (32, 16), (7, 5)] (.mmr (immAt w 48 10) (qregAt w 20) (regAt w 15))
  | 0, 1 => reserved w [(24, 1), (25, 7), (32, 16), (7, 5)] (.mmrz (immAt w 48 10) (qregAt w 20) (regAt w 15))
  | 0, 2 => reserved w [(24, 1), (30, 2), (32, 16), (7, 5)]
      (.mmrs (immAt w 48 10) (qregAt w 20) (regAt w 15) (regAt w 25))
  | 1, 0 => reserved w [(20, 28)] (.accrd (regAt w 7) (regAt w 15) (immAt w 48 10))
  | 1, 1 => reserved w [(25, 23), (7, 5)] (.accwr (regAt w 15) (immAt w 48 10) (regAt w 20))
  | 1, 2 => reserved w [(20, 18), (7, 5)] (.accz (regAt w 15) (immAt w 48 10) (immAt w 38 10))
  | 1, 3 => reserved w [(24, 34), (15, 5), (7, 5)] (.wclr (qregAt w 20))
  | 1, 4 => reserved w [(24, 34), (15, 5)] (.wdesc (regAt w 7) (qregAt w 20))
  | 2, 0 => reserved w [copyDstRes w, (20, 10), (31, 1), (32, 22)]
      (.cpt { ch := qregAt w 54, base := regAt w 15, kd := copyMask w })
  | 2, 1 => reserved w [copyDstRes w, (25, 5), (32, 22)]
      (.cpgr { ch := qregAt w 54, base := regAt w 15, kd := copyMask w, vs2 := regAt w 20, c := flag w 31 })
  | 2, 2 => reserved w [copyDstRes w, (25, 5), (32, 22)]
      (.cpsc { ch := qregAt w 54, base := regAt w 15, kd := copyMask w, vs2 := regAt w 20, c := flag w 31 })
  | 2, 3 => reserved w [copyDstRes w, (20, 10), (31, 1), (32, 12), (48, 6)]
      (.cpw { ch := qregAt w 54, base := regAt w 15, kd := copyMask w } (qregAt w 44))
  | 2, 4 => reserved w [copyDstRes w, (20, 10), (31, 1), (32, 22)]
      (.cpf { ch := qregAt w 54, base := regAt w 15, kd := copyMask w })
  | 3, 0 => reserved w [(20, 34)] (.lnch (regAt w 7) (regAt w 15) (qregAt w 54))
  | 4, 0 => reserved w [(20, 34)] (.cpost (regAt w 7) (regAt w 15) (qregAt w 54))
  | _, _ => .error .unassigned

/-! ### The RV64 base, 32-bit words (R55) -/

/-- A scalar instruction that stands as a 32-bit word. -/
def rv (op : Scalar) : Except DecodeError Instr := .ok (.rv64ScalarInstruction .full op)

def imm12 (w : Nat) : BitVec 12 := immAt w 20 12
def immS (w : Nat) : BitVec 12 := BitVec.ofNat 12 (fld w 25 7 * 2 ^ 5 + fld w 7 5)
def immB (w : Nat) : BitVec 13 :=
  BitVec.ofNat 13 (fld w 31 1 * 2 ^ 12 + fld w 7 1 * 2 ^ 11 + fld w 25 6 * 2 ^ 5 + fld w 8 4 * 2)
def immJ (w : Nat) : BitVec 21 :=
  BitVec.ofNat 21 (fld w 31 1 * 2 ^ 20 + fld w 12 8 * 2 ^ 12 + fld w 20 1 * 2 ^ 11 + fld w 21 10 * 2)

/-- Register-register operations of OP, as (funct7, funct3, operation). -/
def pageOp : List (Nat × Nat × AluOp) :=
  [(0x00, 0, .add), (0x20, 0, .sub), (0x00, 1, .sll), (0x00, 2, .slt), (0x00, 3, .sltu), (0x00, 4, .xor),
   (0x00, 5, .srl), (0x20, 5, .sra), (0x00, 6, .or), (0x00, 7, .and),
   (0x01, 0, .mul), (0x01, 1, .mulh), (0x01, 2, .mulhsu), (0x01, 3, .mulhu), (0x01, 4, .div), (0x01, 5, .divu),
   (0x01, 6, .rem), (0x01, 7, .remu),
   (0x10, 2, .sh1add), (0x10, 4, .sh2add), (0x10, 6, .sh3add),
   (0x20, 7, .andn), (0x20, 6, .orn), (0x20, 4, .xnor), (0x05, 6, .max), (0x05, 7, .maxu), (0x05, 4, .min),
   (0x05, 5, .minu), (0x30, 1, .rol), (0x30, 5, .ror),
   (0x24, 1, .bclr), (0x24, 5, .bext), (0x34, 1, .binv), (0x14, 1, .bset),
   (0x07, 5, .czeroEqz), (0x07, 7, .czeroNez)]

/-- The operations of OP-32 on 64-bit sums (Zba), as (funct7, funct3, operation). -/
def pageOpUw : List (Nat × Nat × AluOp) :=
  [(0x04, 0, .addUw), (0x10, 2, .sh1addUw), (0x10, 4, .sh2addUw), (0x10, 6, .sh3addUw)]

/-- Register-register operations of OP-32, as (funct7, funct3, operation). -/
def pageOpW : List (Nat × Nat × AluWOp) :=
  [(0x00, 0, .addw), (0x20, 0, .subw), (0x00, 1, .sllw), (0x00, 5, .srlw), (0x20, 5, .sraw),
   (0x01, 0, .mulw), (0x01, 4, .divw), (0x01, 5, .divuw), (0x01, 6, .remw), (0x01, 7, .remuw),
   (0x30, 1, .rolw), (0x30, 5, .rorw)]

/-- Shifts and single-bit operations by an immediate, as (funct6, funct3, operation). -/
def pageShI : List (Nat × Nat × ShIOp) :=
  [(0x00, 1, .slli), (0x00, 5, .srli), (0x10, 5, .srai), (0x18, 5, .rori),
   (0x12, 1, .bclri), (0x12, 5, .bexti), (0x1A, 1, .binvi), (0x0A, 1, .bseti)]

/-- 32-bit shifts by an immediate, as (funct7, funct3, operation). -/
def pageShIW : List (Nat × Nat × ShIWOp) :=
  [(0x00, 1, .slliw), (0x00, 5, .srliw), (0x20, 5, .sraiw), (0x30, 5, .roriw)]

/-- One-operand operations, as (imm12, funct3, major, operation). -/
def pageUn : List (Nat × Nat × Nat × UnOp) :=
  [(0x600, 1, 0x13, .clz), (0x601, 1, 0x13, .ctz), (0x602, 1, 0x13, .cpop), (0x604, 1, 0x13, .sextB),
   (0x605, 1, 0x13, .sextH), (0x287, 5, 0x13, .orcB), (0x6B8, 5, 0x13, .rev8),
   (0x600, 1, 0x1B, .clzw), (0x601, 1, 0x1B, .ctzw), (0x602, 1, 0x1B, .cpopw), (0x080, 4, 0x3B, .zextH)]

/-- Operations of the A extension, as (funct5, operation). -/
def pageAmoS : List (Nat × AmoOp) :=
  [(0x01, .swap), (0x00, .add), (0x04, .xor), (0x0C, .and), (0x08, .or), (0x10, .min), (0x14, .max),
   (0x18, .minu), (0x1C, .maxu)]

/-- The operation at (a, b) of a page. -/
def find2 {α : Type} (page : List (Nat × Nat × α)) (a b : Nat) : Option α :=
  (page.find? (fun p => p.1 == a && p.2.1 == b)).map (fun p => p.2.2)

/-- The one-operand operation at (imm12, funct3, major). -/
def findUn (a b c : Nat) : Option UnOp :=
  (pageUn.find? (fun p => p.1 == a && p.2.1 == b && p.2.2.1 == c)).map (fun p => p.2.2.2)

/-- LOAD, by funct3. -/
def decodeLoad (w : Nat) : Except DecodeError Instr :=
  match fld w 12 3 with
  | 0 => rv (.load .lb (regAt w 7) (regAt w 15) (imm12 w))
  | 1 => rv (.load .lh (regAt w 7) (regAt w 15) (imm12 w))
  | 2 => rv (.load .lw (regAt w 7) (regAt w 15) (imm12 w))
  | 3 => rv (.load .ld (regAt w 7) (regAt w 15) (imm12 w))
  | 4 => rv (.load .lbu (regAt w 7) (regAt w 15) (imm12 w))
  | 5 => rv (.load .lhu (regAt w 7) (regAt w 15) (imm12 w))
  | 6 => rv (.load .lwu (regAt w 7) (regAt w 15) (imm12 w))
  | _ => .error .unassigned

/-- STORE, by funct3. -/
def decodeStore (w : Nat) : Except DecodeError Instr :=
  match fld w 12 3 with
  | 0 => rv (.store .sb (regAt w 15) (regAt w 20) (immS w))
  | 1 => rv (.store .sh (regAt w 15) (regAt w 20) (immS w))
  | 2 => rv (.store .sw (regAt w 15) (regAt w 20) (immS w))
  | 3 => rv (.store .sd (regAt w 15) (regAt w 20) (immS w))
  | _ => .error .unassigned

/-- BRANCH, by funct3. -/
def decodeBranch (w : Nat) : Except DecodeError Instr :=
  match fld w 12 3 with
  | 0 => rv (.branch .beq (regAt w 15) (regAt w 20) (immB w))
  | 1 => rv (.branch .bne (regAt w 15) (regAt w 20) (immB w))
  | 4 => rv (.branch .blt (regAt w 15) (regAt w 20) (immB w))
  | 5 => rv (.branch .bge (regAt w 15) (regAt w 20) (immB w))
  | 6 => rv (.branch .bltu (regAt w 15) (regAt w 20) (immB w))
  | 7 => rv (.branch .bgeu (regAt w 15) (regAt w 20) (immB w))
  | _ => .error .unassigned

/-- OP-IMM and OP-IMM-32 shifts, rotations, single-bit and one-operand forms (funct3 1 and 5). -/
def decodeShift (w : Nat) : Except DecodeError Instr :=
  match findUn (fld w 20 12) (fld w 12 3) (fld w 0 7) with
  | some op => rv (.un op (regAt w 7) (regAt w 15))
  | none =>
    match fld w 0 7 with
    | 0x13 =>
      match find2 pageShI (fld w 26 6) (fld w 12 3) with
      | some op => rv (.shI op (regAt w 7) (regAt w 15) (immAt w 20 6))
      | none => .error .unassigned
    | _ =>
      match find2 pageShIW (fld w 25 7) (fld w 12 3) with
      | some op => rv (.shIW op (regAt w 7) (regAt w 15) (immAt w 20 5))
      | none =>
        if fld w 26 6 == 0x02 && fld w 12 3 == 1 then rv (.shI .slliUw (regAt w 7) (regAt w 15) (immAt w 20 6))
        else .error .unassigned

def decodeOpImm (w : Nat) : Except DecodeError Instr :=
  match fld w 12 3 with
  | 0 => rv (.aluI .addi (regAt w 7) (regAt w 15) (imm12 w))
  | 2 => rv (.aluI .slti (regAt w 7) (regAt w 15) (imm12 w))
  | 3 => rv (.aluI .sltiu (regAt w 7) (regAt w 15) (imm12 w))
  | 4 => rv (.aluI .xori (regAt w 7) (regAt w 15) (imm12 w))
  | 6 => rv (.aluI .ori (regAt w 7) (regAt w 15) (imm12 w))
  | 7 => rv (.aluI .andi (regAt w 7) (regAt w 15) (imm12 w))
  | _ => decodeShift w

def decodeOpImm32 (w : Nat) : Except DecodeError Instr :=
  match fld w 12 3 with
  | 0 => rv (.aluI .addiw (regAt w 7) (regAt w 15) (imm12 w))
  | 1 => decodeShift w
  | 5 => decodeShift w
  | _ => .error .unassigned

def decodeOp (w : Nat) : Except DecodeError Instr :=
  match find2 pageOp (fld w 25 7) (fld w 12 3) with
  | some op => rv (.alu op (regAt w 7) (regAt w 15) (regAt w 20))
  | none => .error .unassigned

def decodeOp32 (w : Nat) : Except DecodeError Instr :=
  match find2 pageOpW (fld w 25 7) (fld w 12 3) with
  | some op => rv (.aluW op (regAt w 7) (regAt w 15) (regAt w 20))
  | none =>
    match find2 pageOpUw (fld w 25 7) (fld w 12 3) with
    | some op => rv (.alu op (regAt w 7) (regAt w 15) (regAt w 20))
    | none =>
      match findUn (fld w 20 12) (fld w 12 3) 0x3B with
      | some op => rv (.un op (regAt w 7) (regAt w 15))
      | none => .error .unassigned

/-- AMO: 32-bit and 64-bit forms only. -/
def decodeAmo (w : Nat) : Except DecodeError Instr :=
  if fld w 13 2 == 1 then
    match fld w 27 5 with
    | 0x02 =>
      if fld w 20 5 == 0 then rv (.lr (flag w 12) (flag w 26) (flag w 25) (regAt w 7) (regAt w 15))
      else .error .unassigned
    | 0x03 => rv (.sc (flag w 12) (flag w 26) (flag w 25) (regAt w 7) (regAt w 15) (regAt w 20))
    | f5 =>
      match pageAmoS.find? (fun p => p.1 == f5) with
      | some p => rv (.amo p.2 (flag w 12) (flag w 26) (flag w 25) (regAt w 7) (regAt w 15) (regAt w 20))
      | none => .error .unassigned
  else .error .unassigned

/-- The rounding mode field; 5 and 6 are reserved. -/
def withRm (w : Nat) (f : Fin 8 → Scalar) : Except DecodeError Instr :=
  if fld w 12 3 == 5 || fld w 12 3 == 6 then .error .unassigned else rv (f (Fin.ofNat 8 (fld w 12 3)))

/-- Integer formats of conversions, by the rs2 field. -/
def ifmtAt (n : Nat) : Option IFmt :=
  match n with
  | 0 => some .w
  | 1 => some .wu
  | 2 => some .l
  | 3 => some .lu
  | _ => none

/-- OP-FP for single (bit 25 = 0) and double (bit 25 = 1). -/
def decodeOpFp (w : Nat) : Except DecodeError Instr :=
  let d := flag w 25
  let rd := regAt w 7
  let rs1 := regAt w 15
  let rs2 := regAt w 20
  if fld w 26 1 == 1 then .error .unassigned else
  match fld w 27 5 with
  | 0x00 => withRm w (fun rm => .fbin .fadd d rm rd rs1 rs2)
  | 0x01 => withRm w (fun rm => .fbin .fsub d rm rd rs1 rs2)
  | 0x02 => withRm w (fun rm => .fbin .fmul d rm rd rs1 rs2)
  | 0x03 => withRm w (fun rm => .fbin .fdiv d rm rd rs1 rs2)
  | 0x0B => if fld w 20 5 == 0 then withRm w (fun rm => .fsqrt d rm rd rs1) else .error .unassigned
  | 0x04 =>
    match fld w 12 3 with
    | 0 => rv (.fsgn .sgnj d rd rs1 rs2)
    | 1 => rv (.fsgn .sgnjn d rd rs1 rs2)
    | 2 => rv (.fsgn .sgnjx d rd rs1 rs2)
    | _ => .error .unassigned
  | 0x05 =>
    match fld w 12 3 with
    | 0 => rv (.fminmax false d rd rs1 rs2)
    | 1 => rv (.fminmax true d rd rs1 rs2)
    | _ => .error .unassigned
  | 0x08 =>
    if d then (if fld w 20 5 == 0 then withRm w (fun rm => .fcvtDS rm rd rs1) else .error .unassigned)
    else (if fld w 20 5 == 1 then withRm w (fun rm => .fcvtSD rm rd rs1) else .error .unassigned)
  | 0x14 =>
    match fld w 12 3 with
    | 0 => rv (.fcmp .fle d rd rs1 rs2)
    | 1 => rv (.fcmp .flt d rd rs1 rs2)
    | 2 => rv (.fcmp .feq d rd rs1 rs2)
    | _ => .error .unassigned
  | 0x18 =>
    match ifmtAt (fld w 20 5) with
    | some f => withRm w (fun rm => .fcvtToInt f d rm rd rs1)
    | none => .error .unassigned
  | 0x1A =>
    match ifmtAt (fld w 20 5) with
    | some f => withRm w (fun rm => .fcvtFromInt f d rm rd rs1)
    | none => .error .unassigned
  | 0x1C =>
    if fld w 20 5 == 0 then
      match fld w 12 3 with
      | 0 => rv (.fmvXF d rd rs1)
      | 1 => rv (.fclass d rd rs1)
      | _ => .error .unassigned
    else .error .unassigned
  | 0x1E => if fld w 20 5 == 0 && fld w 12 3 == 0 then rv (.fmvFX d rd rs1) else .error .unassigned
  | _ => .error .unassigned

/-- The fused forms: bits [26:25] select single or double. -/
def decodeFma (op : FmaOp) (w : Nat) : Except DecodeError Instr :=
  if fld w 26 1 == 1 then .error .unassigned
  else withRm w (fun rm => .fma op (flag w 25) rm (regAt w 7) (regAt w 15) (regAt w 20) (regAt w 27))

/-- The numbers of the Quelan user CSRs (R60). -/
def isQuelanCsr (n : Nat) : Bool := (0x800 ≤ n && n ≤ 0x804) || (0xCC0 ≤ n && n ≤ 0xCD2)

/-- A CSR instruction writes unless it is `csrrs` or `csrrc` with a zero source field (R65). -/
def FCsr.writes (a : FCsr) : Bool :=
  match a.op with
  | .rw => true
  | _ => a.src != 0

/-- The row of a CSR instruction: a write of VDIRTY, another access to a Quelan CSR, or a standard CSR. -/
def csrInstr (a : FCsr) : Instr :=
  if a.csr.toNat == 0x803 && a.writes then .vdirtyWrite a
  else if isQuelanCsr a.csr.toNat then .quelanCsrAccess a
  else .rv64ScalarInstruction .full (.csr a)

def csrAt (w : Nat) (op : CsrOp) (imm : Bool) : FCsr :=
  { op := op, imm := imm, src := regAt w 15, rd := regAt w 7, csr := imm12 w }

def decodeSystem (w : Nat) : Except DecodeError Instr :=
  match fld w 12 3 with
  | 0 =>
    if fld w 7 5 == 0 then
      if fld w 25 7 == 0x09 then rv (.sfenceVma (regAt w 15) (regAt w 20))
      else if fld w 15 5 == 0 then
        match fld w 20 12 with
        | 0x000 => .ok .ecall
        | 0x001 => .ok .ebreak
        | 0x102 => rv .sret
        | 0x302 => rv .mret
        | 0x105 => rv .wfi
        | _ => .error .unassigned
      else .error .unassigned
    else .error .unassigned
  | 1 => .ok (csrInstr (csrAt w .rw false))
  | 2 => .ok (csrInstr (csrAt w .rs false))
  | 3 => .ok (csrInstr (csrAt w .rc false))
  | 5 => .ok (csrInstr (csrAt w .rw true))
  | 6 => .ok (csrInstr (csrAt w .rs true))
  | 7 => .ok (csrInstr (csrAt w .rc true))
  | _ => .error .unassigned

/-- FENCE: `fence.tso` is the word with fm = 8 and both sets rw; every other FENCE word, hints among them (R55),
is `fence`. The standard has implementations ignore rs1 and rd, and rs1, rd and imm of `fence.i`. -/
def fenceInstr (fm pred succ : Fin 16) (rs1 rd : Reg) : Instr :=
  if fm = 8 ∧ pred = 3 ∧ succ = 3 then .fenceTso else .fence fm pred succ rs1 rd

def decodeMiscMem (w : Nat) : Except DecodeError Instr :=
  match fld w 12 3 with
  | 0 => .ok (fenceInstr (qregAt w 28) (qregAt w 24) (qregAt w 20) (regAt w 15) (regAt w 7))
  | 1 => .ok .fenceI
  | _ => .error .unassigned

/-- A 32-bit word. -/
def decode32 (w : Nat) : Except DecodeError Instr :=
  match fld w 0 7 with
  | 0x0B => decodeQA w
  | 0x2B => decodeQM w
  | 0x5B => decodeQS w
  | 0x7B => decodeQK w
  | 0x37 => rv (.lui (regAt w 7) (immAt w 12 20))
  | 0x17 => rv (.auipc (regAt w 7) (immAt w 12 20))
  | 0x6F => rv (.jal (regAt w 7) (immJ w))
  | 0x67 => if fld w 12 3 == 0 then rv (.jalr (regAt w 7) (regAt w 15) (imm12 w)) else .error .unassigned
  | 0x63 => decodeBranch w
  | 0x03 => decodeLoad w
  | 0x23 => decodeStore w
  | 0x13 => decodeOpImm w
  | 0x1B => decodeOpImm32 w
  | 0x33 => decodeOp w
  | 0x3B => decodeOp32 w
  | 0x0F => decodeMiscMem w
  | 0x73 => decodeSystem w
  | 0x2F => decodeAmo w
  | 0x07 =>
    match fld w 12 3 with
    | 2 => rv (.fload false (regAt w 7) (regAt w 15) (imm12 w))
    | 3 => rv (.fload true (regAt w 7) (regAt w 15) (imm12 w))
    | _ => .error .unassigned
  | 0x27 =>
    match fld w 12 3 with
    | 2 => rv (.fstore false (regAt w 15) (regAt w 20) (immS w))
    | 3 => rv (.fstore true (regAt w 15) (regAt w 20) (immS w))
    | _ => .error .unassigned
  | 0x43 => decodeFma .fmadd w
  | 0x47 => decodeFma .fmsub w
  | 0x4B => decodeFma .fnmsub w
  | 0x4F => decodeFma .fnmadd w
  | 0x53 => decodeOpFp w
  | _ => .error .unassigned

/-! ### The C extension (R52, R55) -/

/-- A register of the compact 3-bit encoding: x8 to x15. -/
def cReg (p lo : Nat) : Reg := Fin.ofNat 32 (8 + fld p lo 3)

/-- A 6-bit signed immediate [12], [6:2], as 12 bits. -/
def cImm6 (p : Nat) : BitVec 12 := (BitVec.ofNat 6 (fld p 12 1 * 32 + fld p 2 5)).signExtend 12

/-- The offset of `c.lw`-shaped parcels. -/
def cOffW (p : Nat) : BitVec 12 := BitVec.ofNat 12 (fld p 5 1 * 64 + fld p 10 3 * 8 + fld p 6 1 * 4)

/-- The offset of `c.ld`-shaped parcels. -/
def cOffD (p : Nat) : BitVec 12 := BitVec.ofNat 12 (fld p 5 2 * 64 + fld p 10 3 * 8)

def cJOff (p : Nat) : BitVec 21 :=
  (BitVec.ofNat 12 (fld p 12 1 * 2048 + fld p 8 1 * 1024 + fld p 9 2 * 256 + fld p 6 1 * 128 + fld p 7 1 * 64
    + fld p 2 1 * 32 + fld p 11 1 * 16 + fld p 3 3 * 2)).signExtend 21

def cBOff (p : Nat) : BitVec 13 :=
  (BitVec.ofNat 9 (fld p 12 1 * 256 + fld p 5 2 * 64 + fld p 2 1 * 32 + fld p 10 2 * 8 + fld p 3 2 * 2)).signExtend 13

/-- Quadrant 0. -/
def expandC0 (p : Nat) : Option Scalar :=
  match fld p 13 3 with
  | 0 =>
    if fld p 5 8 == 0 then none
    else some (.aluI .addi (cReg p 2) 2
      (BitVec.ofNat 12 (fld p 7 4 * 64 + fld p 11 2 * 16 + fld p 5 1 * 8 + fld p 6 1 * 4)))
  | 1 => some (.fload true (cReg p 2) (cReg p 7) (cOffD p))
  | 2 => some (.load .lw (cReg p 2) (cReg p 7) (cOffW p))
  | 3 => some (.load .ld (cReg p 2) (cReg p 7) (cOffD p))
  | 5 => some (.fstore true (cReg p 7) (cReg p 2) (cOffD p))
  | 6 => some (.store .sw (cReg p 7) (cReg p 2) (cOffW p))
  | 7 => some (.store .sd (cReg p 7) (cReg p 2) (cOffD p))
  | _ => none

/-- Quadrant 1, funct3 100: arithmetic on x8 to x15. -/
def expandCAlu (p : Nat) : Option Scalar :=
  let rd := cReg p 7
  let rs2 := cReg p 2
  match fld p 10 2 with
  | 0 => some (.shI .srli rd rd (BitVec.ofNat 6 (fld p 12 1 * 32 + fld p 2 5)))
  | 1 => some (.shI .srai rd rd (BitVec.ofNat 6 (fld p 12 1 * 32 + fld p 2 5)))
  | 2 => some (.aluI .andi rd rd (cImm6 p))
  | _ =>
    match fld p 12 1, fld p 5 2 with
    | 0, 0 => some (.alu .sub rd rd rs2)
    | 0, 1 => some (.alu .xor rd rd rs2)
    | 0, 2 => some (.alu .or rd rd rs2)
    | 0, 3 => some (.alu .and rd rd rs2)
    | 1, 0 => some (.aluW .subw rd rd rs2)
    | 1, 1 => some (.aluW .addw rd rd rs2)
    | _, _ => none

/-- Quadrant 1. -/
def expandC1 (p : Nat) : Option Scalar :=
  let rd := regAt p 7
  match fld p 13 3 with
  | 0 => some (.aluI .addi rd rd (cImm6 p))
  | 1 => if fld p 7 5 == 0 then none else some (.aluI .addiw rd rd (cImm6 p))
  | 2 => some (.aluI .addi rd 0 (cImm6 p))
  | 3 =>
    if fld p 12 1 * 32 + fld p 2 5 == 0 then none
    else if fld p 7 5 == 2 then
      some (.aluI .addi 2 2 ((BitVec.ofNat 10 (fld p 12 1 * 512 + fld p 3 2 * 128 + fld p 5 1 * 64 + fld p 2 1 * 32
        + fld p 6 1 * 16)).signExtend 12))
    else some (.lui rd ((BitVec.ofNat 6 (fld p 12 1 * 32 + fld p 2 5)).signExtend 20))
  | 4 => expandCAlu p
  | 5 => some (.jal 0 (cJOff p))
  | 6 => some (.branch .beq (cReg p 7) 0 (cBOff p))
  | _ => some (.branch .bne (cReg p 7) 0 (cBOff p))

/-- Quadrant 2, but for `c.ebreak`. -/
def expandC2 (p : Nat) : Option Scalar :=
  let rd := regAt p 7
  match fld p 13 3 with
  | 0 => some (.shI .slli rd rd (BitVec.ofNat 6 (fld p 12 1 * 32 + fld p 2 5)))
  | 1 => some (.fload true rd 2 (BitVec.ofNat 12 (fld p 2 3 * 64 + fld p 12 1 * 32 + fld p 5 2 * 8)))
  | 2 =>
    if fld p 7 5 == 0 then none
    else some (.load .lw rd 2 (BitVec.ofNat 12 (fld p 2 2 * 64 + fld p 12 1 * 32 + fld p 4 3 * 4)))
  | 3 =>
    if fld p 7 5 == 0 then none
    else some (.load .ld rd 2 (BitVec.ofNat 12 (fld p 2 3 * 64 + fld p 12 1 * 32 + fld p 5 2 * 8)))
  | 4 =>
    if fld p 12 1 == 0 then
      if fld p 2 5 == 0 then
        if fld p 7 5 == 0 then none else some (.jalr 0 rd 0)
      else some (.alu .add rd 0 (regAt p 2))
    else
      if fld p 2 5 == 0 then
        if fld p 7 5 == 0 then none else some (.jalr 1 rd 0)
      else some (.alu .add rd rd (regAt p 2))
  | 5 => some (.fstore true 2 (regAt p 2) (BitVec.ofNat 12 (fld p 7 3 * 64 + fld p 10 3 * 8)))
  | 6 => some (.store .sw 2 (regAt p 2) (BitVec.ofNat 12 (fld p 7 2 * 64 + fld p 9 4 * 4)))
  | _ => some (.store .sd 2 (regAt p 2) (BitVec.ofNat 12 (fld p 7 3 * 64 + fld p 10 3 * 8)))

/-- The scalar instruction a parcel of the C extension stands for; none where it is reserved. -/
def expandC (p : Nat) : Option Scalar :=
  match fld p 0 2 with
  | 0 => expandC0 p
  | 1 => expandC1 p
  | 2 => expandC2 p
  | _ => none

/-- A 16-bit parcel. -/
def decode16 (p : Nat) : Except DecodeError Instr :=
  if p == 0x9002 then .ok .ebreak
  else
    match expandC p with
    | some op => .ok (.rv64ScalarInstruction (.compressed (BitVec.ofNat 16 p)) op)
    | none => .error .unassigned

/-! ### Bytes -/

/-- The number in a list of bytes, least significant first (R6). -/
def leNat : List Byte → Nat
  | [] => 0
  | b :: bs => b.toNat + 256 * leNat bs

/-- The n bytes of a number, least significant first (R6). -/
def leBytes : Nat → Nat → List Byte
  | 0, _ => []
  | n + 1, w => BitVec.ofNat 8 w :: leBytes n (w / 256)

/-- The length in bytes that the first parcel gives (R52). -/
def parcelLength (p : Nat) : Except DecodeError Nat :=
  if p % 4 ≠ 3 then .ok 2
  else if p / 4 % 8 ≠ 7 then .ok 4
  else if p % 64 = 31 then .error .length48
  else if p % 128 = 63 then .ok 8
  else .error .length80

/-- The instruction in the n bytes whose number is w. -/
def decodeWord (n w : Nat) : Except DecodeError Instr :=
  match n with
  | 2 => decode16 w
  | 4 => decode32 w
  | _ => decodeL w

/-- The instruction at the head of a list of bytes, with its length. -/
def decodeBytes (bs : List Byte) : Except DecodeError (Instr × Nat) :=
  match parcelLength (leNat (bs.take 2)) with
  | .error e => .error e
  | .ok n =>
    if bs.length < 2 ∨ bs.length < n then .error .truncated
    else
      match decodeWord n (leNat (bs.take n)) with
      | .ok i => .ok (i, n)
      | .error e => .error e

/-- The instruction of a table word: nbits bits of w, and zeros above up to the longest instruction. -/
def decodeTableWord (nbits w : Nat) : Option Instr :=
  match decodeBytes (leBytes 8 (w % 2 ^ nbits)) with
  | .ok p => some p.1
  | .error _ => none

/-! ### The encoder -/

def bit (lo : Nat) (b : Bool) : Nat := b.toNat * 2 ^ lo
def bits {n : Nat} (lo : Nat) (v : BitVec n) : Nat := v.toNat * 2 ^ lo
def reg {n : Nat} (lo : Nat) (r : Fin n) : Nat := r.val * 2 ^ lo

def packVV (base : Nat) (a : FVV) : Nat :=
  base + bit 27 a.vm + bit 26 a.c2 + bit 25 a.c1 + reg 20 a.vs2 + reg 15 a.vs1 + reg 7 a.vd
def packVX (base : Nat) (a : FVX) : Nat :=
  base + bit 27 a.vm + bit 26 a.c2 + reg 20 a.vs2 + reg 15 a.rs1 + reg 7 a.vd
def packVI (base : Nat) (a : FVI) : Nat :=
  base + bit 27 a.vm + bit 26 a.c2 + reg 20 a.vs2 + bits 15 a.imm + reg 7 a.vd
def packVU (base : Nat) (a : FVU) : Nat :=
  base + bit 27 a.vm + bit 26 a.c2 + reg 20 a.vs2 + reg 7 a.vd
def packVUS (base : Nat) (a : FVUS) : Nat :=
  base + bit 27 a.vm + bit 26 a.c2 + bit 25 a.sat + reg 20 a.vs2 + reg 7 a.vd
def packVXS (base : Nat) (a : FVXS) : Nat :=
  base + bit 27 a.vm + bit 26 a.c2 + bit 25 a.sat + reg 20 a.vs2 + reg 15 a.rs1 + reg 7 a.vd
def packKVV (base : Nat) (a : FKVV) : Nat :=
  base + bit 27 a.vm + bit 26 a.c2 + bit 25 a.c1 + reg 20 a.vs2 + reg 15 a.vs1 + reg 7 a.kd
def packKVX (base : Nat) (a : FKVX) : Nat :=
  base + bit 27 a.vm + bit 26 a.c2 + reg 20 a.vs2 + reg 15 a.rs1 + reg 7 a.kd
def packKVI (base : Nat) (a : FKVI) : Nat :=
  base + bit 27 a.vm + bit 26 a.c2 + reg 20 a.vs2 + bits 15 a.imm + reg 7 a.kd
def packVM (base : Nat) (a : FVM) : Nat :=
  base + bit 28 a.vm + reg 25 a.w + reg 15 a.base + reg 7 a.vd
def packVMC (base : Nat) (a : FVMC) : Nat :=
  base + bit 28 a.vm + bit 27 a.c + reg 25 a.w + reg 15 a.base + reg 7 a.vd
def packVM2 (base : Nat) (a : FVM2) : Nat :=
  base + bit 28 a.vm + reg 25 a.w + reg 20 a.src2 + reg 15 a.base + reg 7 a.vd
def packVM2C (base : Nat) (a : FVM2C) : Nat :=
  base + bit 28 a.vm + bit 27 a.c + reg 25 a.w + reg 20 a.src2 + reg 15 a.base + reg 7 a.vd
def packAmo (base : Nat) (a : FAmo) : Nat :=
  base + bit 27 a.vm + bit 26 a.aq + bit 25 a.rl + reg 20 a.vs2 + reg 15 a.base + reg 12 a.scope + reg 7 a.vd
def packWait (base : Nat) (a : FWait) : Nat :=
  base + bit 27 a.vm + reg 20 a.vs2 + reg 15 a.base + reg 7 a.vs3
def packLink (base ordBit : Nat) (a : FLink) : Nat :=
  base + bit 27 a.vm + bit ordBit a.ord + reg 20 a.vs2 + reg 15 a.base + reg 7 a.vd

/-- MW and dst of a copy command. -/
def packMask (kd : Option MReg) : Nat :=
  match kd with
  | some k => 2 ^ 30 + reg 7 k
  | none => 0

/-- Format L: the group f3, the code fn6. -/
def packL (f3 fn6 : Nat) : Nat := fn6 * 2 ^ 58 + f3 * 2 ^ 12 + 0x3F

def packCopy (fn6 : Nat) (a : FCopy) : Nat :=
  packL 2 fn6 + reg 54 a.ch + reg 15 a.base + packMask a.kd
def packCopyV (fn6 : Nat) (a : FCopyV) : Nat :=
  packL 2 fn6 + reg 54 a.ch + reg 15 a.base + packMask a.kd + reg 20 a.vs2 + bit 31 a.c

/-! The RV64 formats R, I, S, B, U and J. -/

def packR (op f3 f7 : Nat) (rd rs1 rs2 : Reg) : Nat :=
  f7 * 2 ^ 25 + reg 20 rs2 + reg 15 rs1 + f3 * 2 ^ 12 + reg 7 rd + op
def packI (op f3 : Nat) (rd rs1 : Reg) (imm : Nat) : Nat :=
  imm * 2 ^ 20 + reg 15 rs1 + f3 * 2 ^ 12 + reg 7 rd + op
def packS (op f3 : Nat) (rs1 rs2 : Reg) (imm : BitVec 12) : Nat :=
  fld imm.toNat 5 7 * 2 ^ 25 + reg 20 rs2 + reg 15 rs1 + f3 * 2 ^ 12 + fld imm.toNat 0 5 * 2 ^ 7 + op
def packB (f3 : Nat) (rs1 rs2 : Reg) (off : BitVec 13) : Nat :=
  fld off.toNat 12 1 * 2 ^ 31 + fld off.toNat 5 6 * 2 ^ 25 + reg 20 rs2 + reg 15 rs1 + f3 * 2 ^ 12
    + fld off.toNat 1 4 * 2 ^ 8 + fld off.toNat 11 1 * 2 ^ 7 + 0x63
def packJ (rd : Reg) (off : BitVec 21) : Nat :=
  fld off.toNat 20 1 * 2 ^ 31 + fld off.toNat 1 10 * 2 ^ 21 + fld off.toNat 11 1 * 2 ^ 20
    + fld off.toNat 12 8 * 2 ^ 12 + reg 7 rd + 0x6F

def AluOp.code : AluOp → Nat × Nat × Nat
  | .add => (0x33, 0, 0x00) | .sub => (0x33, 0, 0x20) | .sll => (0x33, 1, 0x00) | .slt => (0x33, 2, 0x00)
  | .sltu => (0x33, 3, 0x00) | .xor => (0x33, 4, 0x00) | .srl => (0x33, 5, 0x00) | .sra => (0x33, 5, 0x20)
  | .or => (0x33, 6, 0x00) | .and => (0x33, 7, 0x00)
  | .mul => (0x33, 0, 0x01) | .mulh => (0x33, 1, 0x01) | .mulhsu => (0x33, 2, 0x01) | .mulhu => (0x33, 3, 0x01)
  | .div => (0x33, 4, 0x01) | .divu => (0x33, 5, 0x01) | .rem => (0x33, 6, 0x01) | .remu => (0x33, 7, 0x01)
  | .sh1add => (0x33, 2, 0x10) | .sh2add => (0x33, 4, 0x10) | .sh3add => (0x33, 6, 0x10)
  | .addUw => (0x3B, 0, 0x04) | .sh1addUw => (0x3B, 2, 0x10) | .sh2addUw => (0x3B, 4, 0x10)
  | .sh3addUw => (0x3B, 6, 0x10)
  | .andn => (0x33, 7, 0x20) | .orn => (0x33, 6, 0x20) | .xnor => (0x33, 4, 0x20)
  | .max => (0x33, 6, 0x05) | .maxu => (0x33, 7, 0x05) | .min => (0x33, 4, 0x05) | .minu => (0x33, 5, 0x05)
  | .rol => (0x33, 1, 0x30) | .ror => (0x33, 5, 0x30)
  | .bclr => (0x33, 1, 0x24) | .bext => (0x33, 5, 0x24) | .binv => (0x33, 1, 0x34) | .bset => (0x33, 1, 0x14)
  | .czeroEqz => (0x33, 5, 0x07) | .czeroNez => (0x33, 7, 0x07)

def AluWOp.code : AluWOp → Nat × Nat
  | .addw => (0, 0x00) | .subw => (0, 0x20) | .sllw => (1, 0x00) | .srlw => (5, 0x00) | .sraw => (5, 0x20)
  | .mulw => (0, 0x01) | .divw => (4, 0x01) | .divuw => (5, 0x01) | .remw => (6, 0x01) | .remuw => (7, 0x01)
  | .rolw => (1, 0x30) | .rorw => (5, 0x30)

def AluIOp.code : AluIOp → Nat × Nat
  | .addi => (0x13, 0) | .slti => (0x13, 2) | .sltiu => (0x13, 3) | .xori => (0x13, 4) | .ori => (0x13, 6)
  | .andi => (0x13, 7) | .addiw => (0x1B, 0)

/-- Major, funct3 and funct6. -/
def ShIOp.code : ShIOp → Nat × Nat × Nat
  | .slli => (0x13, 1, 0x00) | .srli => (0x13, 5, 0x00) | .srai => (0x13, 5, 0x10) | .rori => (0x13, 5, 0x18)
  | .bclri => (0x13, 1, 0x12) | .bexti => (0x13, 5, 0x12) | .binvi => (0x13, 1, 0x1A) | .bseti => (0x13, 1, 0x0A)
  | .slliUw => (0x1B, 1, 0x02)

def ShIWOp.code : ShIWOp → Nat × Nat
  | .slliw => (1, 0x00) | .srliw => (5, 0x00) | .sraiw => (5, 0x20) | .roriw => (5, 0x30)

/-- Major, funct3 and imm12. -/
def UnOp.code : UnOp → Nat × Nat × Nat
  | .clz => (0x13, 1, 0x600) | .ctz => (0x13, 1, 0x601) | .cpop => (0x13, 1, 0x602)
  | .clzw => (0x1B, 1, 0x600) | .ctzw => (0x1B, 1, 0x601) | .cpopw => (0x1B, 1, 0x602)
  | .sextB => (0x13, 1, 0x604) | .sextH => (0x13, 1, 0x605) | .zextH => (0x3B, 4, 0x080)
  | .orcB => (0x13, 5, 0x287) | .rev8 => (0x13, 5, 0x6B8)

def BrOp.code : BrOp → Nat
  | .beq => 0 | .bne => 1 | .blt => 4 | .bge => 5 | .bltu => 6 | .bgeu => 7
def LdOp.code : LdOp → Nat
  | .lb => 0 | .lh => 1 | .lw => 2 | .ld => 3 | .lbu => 4 | .lhu => 5 | .lwu => 6
def StOp.code : StOp → Nat
  | .sb => 0 | .sh => 1 | .sw => 2 | .sd => 3
def AmoOp.code : AmoOp → Nat
  | .swap => 0x01 | .add => 0x00 | .xor => 0x04 | .and => 0x0C | .or => 0x08 | .min => 0x10 | .max => 0x14
  | .minu => 0x18 | .maxu => 0x1C
def FBinOp.code : FBinOp → Nat
  | .fadd => 0x00 | .fsub => 0x01 | .fmul => 0x02 | .fdiv => 0x03
def FmaOp.code : FmaOp → Nat
  | .fmadd => 0x43 | .fmsub => 0x47 | .fnmsub => 0x4B | .fnmadd => 0x4F
def SgnOp.code : SgnOp → Nat
  | .sgnj => 0 | .sgnjn => 1 | .sgnjx => 2
def FCmpOp.code : FCmpOp → Nat
  | .fle => 0 | .flt => 1 | .feq => 2
def IFmt.code : IFmt → Nat
  | .w => 0 | .wu => 1 | .l => 2 | .lu => 3

/-- funct7 of a scalar FP word: funct5 and the double bit. -/
def fpCode (f5 : Nat) (dbl : Bool) : Nat := f5 * 4 + dbl.toNat

/-- funct7 of an AMO word: funct5, aq and rl. -/
def amoCode (f5 : Nat) (aq rl : Bool) : Nat := f5 * 4 + aq.toNat * 2 + rl.toNat

def packCsr (a : FCsr) : Nat :=
  packI 0x73 ((match a.op with | .rw => 1 | .rs => 2 | .rc => 3) + (if a.imm then 4 else 0)) a.rd a.src a.csr.toNat

/-- The 32-bit word of a scalar instruction. -/
def encodeScalar : Scalar → Nat
  | .lui rd imm => bits 12 imm + reg 7 rd + 0x37
  | .auipc rd imm => bits 12 imm + reg 7 rd + 0x17
  | .jal rd off => packJ rd off
  | .jalr rd rs1 imm => packI 0x67 0 rd rs1 imm.toNat
  | .branch op rs1 rs2 off => packB op.code rs1 rs2 off
  | .load op rd rs1 imm => packI 0x03 op.code rd rs1 imm.toNat
  | .store op rs1 rs2 imm => packS 0x23 op.code rs1 rs2 imm
  | .aluI op rd rs1 imm => packI op.code.1 op.code.2 rd rs1 imm.toNat
  | .shI op rd rs1 sh => packI op.code.1 op.code.2.1 rd rs1 (op.code.2.2 * 64 + sh.toNat)
  | .shIW op rd rs1 sh => packI 0x1B op.code.1 rd rs1 (op.code.2 * 32 + sh.toNat)
  | .alu op rd rs1 rs2 => packR op.code.1 op.code.2.1 op.code.2.2 rd rs1 rs2
  | .aluW op rd rs1 rs2 => packR 0x3B op.code.1 op.code.2 rd rs1 rs2
  | .un op rd rs1 => packI op.code.1 op.code.2.1 rd rs1 op.code.2.2
  | .lr dbl aq rl rd rs1 => packR 0x2F (2 + dbl.toNat) (amoCode 0x02 aq rl) rd rs1 0
  | .sc dbl aq rl rd rs1 rs2 => packR 0x2F (2 + dbl.toNat) (amoCode 0x03 aq rl) rd rs1 rs2
  | .amo op dbl aq rl rd rs1 rs2 => packR 0x2F (2 + dbl.toNat) (amoCode op.code aq rl) rd rs1 rs2
  | .fload dbl rd rs1 imm => packI 0x07 (2 + dbl.toNat) rd rs1 imm.toNat
  | .fstore dbl rs1 rs2 imm => packS 0x27 (2 + dbl.toNat) rs1 rs2 imm
  | .fbin op dbl rm rd rs1 rs2 => packR 0x53 rm.val (fpCode op.code dbl) rd rs1 rs2
  | .fsqrt dbl rm rd rs1 => packR 0x53 rm.val (fpCode 0x0B dbl) rd rs1 0
  | .fma op dbl rm rd rs1 rs2 rs3 =>
      packR op.code rm.val (rs3.val * 4 + dbl.toNat) rd rs1 rs2
  | .fsgn op dbl rd rs1 rs2 => packR 0x53 op.code (fpCode 0x04 dbl) rd rs1 rs2
  | .fminmax isMax dbl rd rs1 rs2 => packR 0x53 isMax.toNat (fpCode 0x05 dbl) rd rs1 rs2
  | .fcmp op dbl rd rs1 rs2 => packR 0x53 op.code (fpCode 0x14 dbl) rd rs1 rs2
  | .fclass dbl rd rs1 => packR 0x53 1 (fpCode 0x1C dbl) rd rs1 0
  | .fcvtToInt fmt dbl rm rd rs1 => packR 0x53 rm.val (fpCode 0x18 dbl) rd rs1 (Fin.ofNat 32 fmt.code)
  | .fcvtFromInt fmt dbl rm rd rs1 => packR 0x53 rm.val (fpCode 0x1A dbl) rd rs1 (Fin.ofNat 32 fmt.code)
  | .fcvtSD rm rd rs1 => packR 0x53 rm.val (fpCode 0x08 false) rd rs1 1
  | .fcvtDS rm rd rs1 => packR 0x53 rm.val (fpCode 0x08 true) rd rs1 0
  | .fmvXF dbl rd rs1 => packR 0x53 0 (fpCode 0x1C dbl) rd rs1 0
  | .fmvFX dbl rd rs1 => packR 0x53 0 (fpCode 0x1E dbl) rd rs1 0
  | .csr a => packCsr a
  | .sret => 0x10200073
  | .mret => 0x30200073
  | .wfi => 0x10500073
  | .sfenceVma rs1 rs2 => packR 0x73 0 0x09 0 rs1 rs2

/-- The words of an instruction as (number of bits, number); an event has none (95). -/
def encode : Instr → Option (Nat × Nat)
  | .vaddVv a => some (32, packVV 0xB a)
  | .vsubVv a => some (32, packVV 0x1000000B a)
  | .vmulVv a => some (32, packVV 0x2000000B a)
  | .vmulhVv a => some (32, packVV 0x3000000B a)
  | .vmulhnVv a => some (32, packVV 0x4000000B a)
  | .vmaccVv a => some (32, packVV 0x5000000B a)
  | .vnmsacVv a => some (32, packVV 0x6000000B a)
  | .vminVv a => some (32, packVV 0x7000000B a)
  | .vmaxVv a => some (32, packVV 0x8000000B a)
  | .vminnVv a => some (32, packVV 0x9000000B a)
  | .vmaxnVv a => some (32, packVV 0xA000000B a)
  | .vandVv a => some (32, packVV 0xB000000B a)
  | .vorVv a => some (32, packVV 0xC000000B a)
  | .vxorVv a => some (32, packVV 0xD000000B a)
  | .vsllVv a => some (32, packVV 0xE000000B a)
  | .vsrlVv a => some (32, packVV 0xF000000B a)
  | .vsraVv a => some (32, packVV 0x700B a)
  | .vdivVv a => some (32, packVV 0x1000700B a)
  | .vdivnVv a => some (32, packVV 0x2000700B a)
  | .vremVv a => some (32, packVV 0x3000700B a)
  | .vremnVv a => some (32, packVV 0x4000700B a)
  | .vsaddVv a => some (32, packVV 0x5000700B a)
  | .vsaddnVv a => some (32, packVV 0x6000700B a)
  | .vssubVv a => some (32, packVV 0x7000700B a)
  | .vssubnVv a => some (32, packVV 0x8000700B a)
  | .vaddVx a => some (32, packVX 0x100B a)
  | .vsubVx a => some (32, packVX 0x1000100B a)
  | .vmulVx a => some (32, packVX 0x2000100B a)
  | .vmulhVx a => some (32, packVX 0x3000100B a)
  | .vmulhnVx a => some (32, packVX 0x4000100B a)
  | .vmaccVx a => some (32, packVX 0x5000100B a)
  | .vnmsacVx a => some (32, packVX 0x6000100B a)
  | .vminVx a => some (32, packVX 0x7000100B a)
  | .vmaxVx a => some (32, packVX 0x8000100B a)
  | .vminnVx a => some (32, packVX 0x9000100B a)
  | .vmaxnVx a => some (32, packVX 0xA000100B a)
  | .vandVx a => some (32, packVX 0xB000100B a)
  | .vorVx a => some (32, packVX 0xC000100B a)
  | .vxorVx a => some (32, packVX 0xD000100B a)
  | .vsllVx a => some (32, packVX 0xE000100B a)
  | .vsrlVx a => some (32, packVX 0xF000100B a)
  | .vsraVx a => some (32, packVX 0x200100B a)
  | .vdivVx a => some (32, packVX 0x1200100B a)
  | .vdivnVx a => some (32, packVX 0x2200100B a)
  | .vremVx a => some (32, packVX 0x3200100B a)
  | .vremnVx a => some (32, packVX 0x4200100B a)
  | .vsaddVx a => some (32, packVX 0x5200100B a)
  | .vsaddnVx a => some (32, packVX 0x6200100B a)
  | .vssubVx a => some (32, packVX 0x7200100B a)
  | .vssubnVx a => some (32, packVX 0x8200100B a)
  | .vrsubVx a => some (32, packVX 0x9200100B a)
  | .vsplatVx vm vd rs1 => some (32, 0xA200100B + bit 27 vm + reg 15 rs1 + reg 7 vd)
  | .vaddVi a => some (32, packVI 0x200B a)
  | .vandVi a => some (32, packVI 0xB000200B a)
  | .vorVi a => some (32, packVI 0xC000200B a)
  | .vxorVi a => some (32, packVI 0xD000200B a)
  | .vsllVi a => some (32, packVI 0xE000200B a)
  | .vsrlVi a => some (32, packVI 0xF000200B a)
  | .vsraVi a => some (32, packVI 0x200200B a)
  | .vsaddVi a => some (32, packVI 0x5200200B a)
  | .vsaddnVi a => some (32, packVI 0x6200200B a)
  | .vrsubVi a => some (32, packVI 0x9200200B a)
  | .vsplatVi vm vd imm => some (32, 0xA200200B + bit 27 vm + bits 15 imm + reg 7 vd)
  | .vfaddVv a => some (32, packVV 0x300B a)
  | .vfsubVv a => some (32, packVV 0x1000300B a)
  | .vfmulVv a => some (32, packVV 0x2000300B a)
  | .vfdivVv a => some (32, packVV 0x3000300B a)
  | .vfminVv a => some (32, packVV 0x4000300B a)
  | .vfmaxVv a => some (32, packVV 0x5000300B a)
  | .vfmaccVv a => some (32, packVV 0x6000300B a)
  | .vfnmaccVv a => some (32, packVV 0x7000300B a)
  | .vfmsacVv a => some (32, packVV 0x8000300B a)
  | .vfnmsacVv a => some (32, packVV 0x9000300B a)
  | .vfsgnjVv a => some (32, packVV 0xA000300B a)
  | .vfsgnjnVv a => some (32, packVV 0xB000300B a)
  | .vfsgnjxVv a => some (32, packVV 0xC000300B a)
  | .vfsqrt a => some (32, packVU 0xD000300B a)
  | .vfrece a => some (32, packVU 0xD000B00B a)
  | .vfrsqe a => some (32, packVU 0xD001300B a)
  | .vfclass a => some (32, packVU 0xD001B00B a)
  | .vfaddVf a => some (32, packVX 0x400B a)
  | .vfsubVf a => some (32, packVX 0x1000400B a)
  | .vfmulVf a => some (32, packVX 0x2000400B a)
  | .vfdivVf a => some (32, packVX 0x3000400B a)
  | .vfminVf a => some (32, packVX 0x4000400B a)
  | .vfmaxVf a => some (32, packVX 0x5000400B a)
  | .vfmaccVf a => some (32, packVX 0x6000400B a)
  | .vfnmaccVf a => some (32, packVX 0x7000400B a)
  | .vfmsacVf a => some (32, packVX 0x8000400B a)
  | .vfnmsacVf a => some (32, packVX 0x9000400B a)
  | .vfsgnjVf a => some (32, packVX 0xA000400B a)
  | .vfsgnjnVf a => some (32, packVX 0xB000400B a)
  | .vfsgnjxVf a => some (32, packVX 0xC000400B a)
  | .vfrsubVf a => some (32, packVX 0xD000400B a)
  | .vfrdivVf a => some (32, packVX 0xE000400B a)
  | .vfsplat vm vd rs1 => some (32, 0xF000400B + bit 27 vm + reg 15 rs1 + reg 7 vd)
  | .vredsum a => some (32, packVV 0x500B a)
  | .vredmax a => some (32, packVV 0x1000500B a)
  | .vredmin a => some (32, packVV 0x2000500B a)
  | .vredmaxn a => some (32, packVV 0x3000500B a)
  | .vredminn a => some (32, packVV 0x4000500B a)
  | .vredand a => some (32, packVV 0x5000500B a)
  | .vredor a => some (32, packVV 0x6000500B a)
  | .vfredo a => some (32, packVV 0x7000500B a)
  | .vfredt a => some (32, packVV 0x8000500B a)
  | .vfredmax a => some (32, packVV 0x9000500B a)
  | .vfredmin a => some (32, packVV 0xA000500B a)
  | .vfredamax a => some (32, packVV 0xB000500B a)
  | .vmvxs c2 rd vs2 => some (32, 0xC000500B + bit 26 c2 + reg 20 vs2 + reg 7 rd)
  | .vmvfs c2 rd vs2 => some (32, 0xD000500B + bit 26 c2 + reg 20 vs2 + reg 7 rd)
  | .vfcvtfi a => some (32, packVU 0x600B a)
  | .vfcvtif a => some (32, packVU 0x1000600B a)
  | .vfwcvt a => some (32, packVU 0x2000600B a)
  | .vfncvt a => some (32, packVUS 0x3000600B a)
  | .vqcvt a => some (32, packVXS 0x4000600B a)
  | .vdqcvt a => some (32, packVX 0x5000600B a)
  | .vncvti a => some (32, packVU 0x6000600B a)
  | .vwcvti a => some (32, packVU 0x7000600B a)
  | .vmseqVv a => some (32, packKVV 0x7B a)
  | .vmsneVv a => some (32, packKVV 0x1000007B a)
  | .vmsltVv a => some (32, packKVV 0x2000007B a)
  | .vmsltnVv a => some (32, packKVV 0x3000007B a)
  | .vmsleVv a => some (32, packKVV 0x4000007B a)
  | .vmslenVv a => some (32, packKVV 0x5000007B a)
  | .vmseqVx a => some (32, packKVX 0x8000007B a)
  | .vmsneVx a => some (32, packKVX 0x9000007B a)
  | .vmsltVx a => some (32, packKVX 0xA000007B a)
  | .vmsltnVx a => some (32, packKVX 0xB000007B a)
  | .vmsleVx a => some (32, packKVX 0xC000007B a)
  | .vmslenVx a => some (32, packKVX 0xD000007B a)
  | .vmseqVi a => some (32, packKVI 0x107B a)
  | .vmsneVi a => some (32, packKVI 0x1000107B a)
  | .vmsleVi a => some (32, packKVI 0x4000107B a)
  | .vmslenVi a => some (32, packKVI 0x5000107B a)
  | .vmfeqVv a => some (32, packKVV 0x207B a)
  | .vmfneVv a => some (32, packKVV 0x1000207B a)
  | .vmfltVv a => some (32, packKVV 0x2000207B a)
  | .vmfleVv a => some (32, packKVV 0x3000207B a)
  | .vmfordVv a => some (32, packKVV 0x4000207B a)
  | .vmfeqVf a => some (32, packKVX 0x8000207B a)
  | .vmfneVf a => some (32, packKVX 0x9000207B a)
  | .vmfltVf a => some (32, packKVX 0xA000207B a)
  | .vmfleVf a => some (32, packKVX 0xB000207B a)
  | .vmfordVf a => some (32, packKVX 0xC000207B a)
  | .kand kd ks2 ks1 => some (32, 0x307B + reg 20 ks2 + reg 15 ks1 + reg 7 kd)
  | .kor kd ks2 ks1 => some (32, 0x1000307B + reg 20 ks2 + reg 15 ks1 + reg 7 kd)
  | .kxor kd ks2 ks1 => some (32, 0x2000307B + reg 20 ks2 + reg 15 ks1 + reg 7 kd)
  | .kandn kd ks2 ks1 => some (32, 0x3000307B + reg 20 ks2 + reg 15 ks1 + reg 7 kd)
  | .knot kd ks2 => some (32, 0x4000307B + reg 20 ks2 + reg 7 kd)
  | .kmov kd ks2 => some (32, 0x5000307B + reg 20 ks2 + reg 7 kd)
  | .kpop rd ks2 => some (32, 0x6000307B + reg 20 ks2 + reg 7 rd)
  | .kfirst rd ks2 => some (32, 0x7000307B + reg 20 ks2 + reg 7 rd)
  | .vslideupVx a => some (32, packVX 0x407B a)
  | .vslideupVi a => some (32, packVI 0x1000407B a)
  | .vslidednVx a => some (32, packVX 0x2000407B a)
  | .vslidednVi a => some (32, packVI 0x3000407B a)
  | .vpermVv a => some (32, packVV 0x4000407B a)
  | .vcompress c2 vd vs2 ks1 => some (32, 0x5000407B + bit 26 c2 + reg 20 vs2 + reg 15 ks1 + reg 7 vd)
  | .vexpand c2 vd vs2 ks1 => some (32, 0x6000407B + bit 26 c2 + reg 20 vs2 + reg 15 ks1 + reg 7 vd)
  | .vmergeVv c2 c1 vd vs2 vs1 => some (32, 0x7800407B + bit 26 c2 + bit 25 c1 + reg 20 vs2 + reg 15 vs1 + reg 7 vd)
  | .vmergeVx c2 vd vs2 rs1 => some (32, 0x8800407B + bit 26 c2 + reg 20 vs2 + reg 15 rs1 + reg 7 vd)
  | .vmergeVi c2 vd vs2 imm => some (32, 0x9800407B + bit 26 c2 + reg 20 vs2 + bits 15 imm + reg 7 vd)
  | .vid vm vd => some (32, 0xA000407B + bit 27 vm + reg 7 vd)
  | .vsetli rd rs1 lgreq vt => some (32, 0x8000507B + bits 28 lgreq + bits 20 vt + reg 15 rs1 + reg 7 rd)
  | .vsetl rd rs1 rs2 => some (32, 0x507B + reg 20 rs2 + reg 15 rs1 + reg 7 rd)
  | .vrel => some (32, 0x200507B)
  | .lfork vm => some (32, 0x400507B + bit 20 vm)
  | .ljoin => some (32, 0x600507B)
  | .bkrd rd rs1 rs2 => some (32, 0x607B + reg 20 rs2 + reg 15 rs1 + reg 7 rd)
  | .bkrsm rs1 => some (32, 0x200607B + reg 15 rs1)
  | .ccmoveMove rd rs1 => some (32, 0x400607B + reg 15 rs1 + reg 7 rd)
  | .frqpop rd rs1 => some (32, 0x600607B + reg 15 rs1 + reg 7 rd)
  | .latw rs1 rs2 => some (32, 0x800607B + reg 20 rs2 + reg 15 rs1)
  | .thrset rs1 rs2 => some (32, 0xA00607B + reg 20 rs2 + reg 15 rs1)
  | .vld a => some (32, packVM 0x2B a)
  | .vst a => some (32, packVMC 0x102B a)
  | .kld kd base => some (32, 0x202B + reg 15 base + reg 7 kd)
  | .kst ks base => some (32, 0x302B + reg 15 base + reg 7 ks)
  | .vlds a => some (32, packVM2 0x2000002B a)
  | .vsts a => some (32, packVM2C 0x2000102B a)
  | .vldxO a => some (32, packVM2C 0x4000002B a)
  | .vstxO a => some (32, packVM2C 0x4000102B a)
  | .vldx a => some (32, packVM2C 0x6000002B a)
  | .vstx a => some (32, packVM2C 0x6000102B a)
  | .vldff a => some (32, packVM 0x8000002B a)
  | .vldl a => some (32, packVM 0xA000002B a)
  | .vstl a => some (32, packVMC 0xA000102B a)
  | .qdef q base => some (32, 0xC000002B + reg 15 base + reg 7 q)
  | .qbind vd q => some (32, 0xC000102B + reg 20 q + reg 7 vd)
  | .qunb vd => some (32, 0xC000202B + reg 7 vd)
  | .qavail rd q => some (32, 0xC000302B + reg 20 q + reg 7 rd)
  | .qwait q rs1 => some (32, 0xC000402B + reg 15 rs1 + reg 7 q)
  | .qend q => some (32, 0xC000502B + reg 7 q)
  | .qrst q => some (32, 0xC000602B + reg 7 q)
  | .vamoadd a => some (32, packAmo 0x5B a)
  | .vamomin a => some (32, packAmo 0x1000005B a)
  | .vamomax a => some (32, packAmo 0x2000005B a)
  | .vamominn a => some (32, packAmo 0x3000005B a)
  | .vamomaxn a => some (32, packAmo 0x4000005B a)
  | .vamoand a => some (32, packAmo 0x5000005B a)
  | .vamoor a => some (32, packAmo 0x6000005B a)
  | .vamoxor a => some (32, packAmo 0x7000005B a)
  | .vamoswp a => some (32, packAmo 0x8000005B a)
  | .vamocas a => some (32, packAmo 0x9000005B a)
  | .vamofadd a => some (32, packAmo 0xA000005B a)
  | .laneFormAtomic op a => some (32, op.val * 2 ^ 28 + packAmo 0x5B a)
  | .vwaitEq a => some (32, packWait 0x505B a)
  | .vwaitNe a => some (32, packWait 0x1000505B a)
  | .vwaitLt a => some (32, packWait 0x2000505B a)
  | .vwaitGe a => some (32, packWait 0x3000505B a)
  | .vgl a => some (32, packLink 0x4000505B 26 a)
  | .vsc a => some (32, packLink 0x5000505B 25 a)
  | .ordSv scope => some (32, 0x605B + reg 20 scope)
  | .ordVs scope => some (32, 0x200605B + reg 20 scope)
  | .ordVv scope => some (32, 0x400605B + reg 20 scope)
  | .ordAll scope => some (32, 0x600605B + reg 20 scope)
  | .bar => some (32, 0x1000605B)
  | .phend => some (32, 0x1200605B)
  | .wfe => some (32, 0x1400605B)
  | .sev rs1 => some (32, 0x1600605B + reg 15 rs1)
  | .send rs1 rs2 ch => some (32, 0x2000605B + reg 20 rs2 + reg 15 rs1 + reg 7 ch)
  | .recv rd ch => some (32, 0x2200605B + reg 15 ch + reg 7 rd)
  | .recvnb rd ch => some (32, 0x2400605B + reg 15 ch + reg 7 rd)
  | .frz rd rs1 rs2 => some (32, 0x3000605B + reg 20 rs2 + reg 15 rs1 + reg 7 rd)
  | .thaw rs1 ch => some (32, 0x3200605B + reg 15 rs1 + reg 7 ch)
  | .thaww rs1 => some (32, 0x3400605B + reg 15 rs1)
  | .frzq rd rs1 => some (32, 0x3600605B + reg 15 rs1 + reg 7 rd)
  | .gexit => some (32, 0x4000605B)
  | .yld => some (32, 0x4200605B)
  | .migControl => some (32, 0x4410605B)
  | .migVector => some (32, 0x4420605B)
  | .migArray => some (32, 0x4430605B)
  | .syscB rd rs1 => some (32, 0x4800605B + reg 15 rs1 + reg 7 rd)
  | .syscN rd rs1 => some (32, 0x4A00605B + reg 15 rs1 + reg 7 rd)
  | .mmr row slot base => some (64, packL 0 0 + bits 48 row + reg 20 slot + reg 15 base)
  | .mmrz row slot base => some (64, packL 0 1 + bits 48 row + reg 20 slot + reg 15 base)
  | .mmrs row slot base rs3 => some (64, packL 0 2 + bits 48 row + reg 20 slot + reg 15 base + reg 25 rs3)
  | .accrd vd rs1 row => some (64, packL 1 0 + bits 48 row + reg 15 rs1 + reg 7 vd)
  | .accwr rs1 row vs2 => some (64, packL 1 1 + bits 48 row + reg 20 vs2 + reg 15 rs1)
  | .accz rs1 row n => some (64, packL 1 2 + bits 48 row + bits 38 n + reg 15 rs1)
  | .wclr slot => some (64, packL 1 3 + reg 20 slot)
  | .wdesc rd slot => some (64, packL 1 4 + reg 20 slot + reg 7 rd)
  | .cpt a => some (64, packCopy 0 a)
  | .cpgr a => some (64, packCopyV 1 a)
  | .cpsc a => some (64, packCopyV 2 a)
  | .cpw a slot => some (64, packCopy 3 a + reg 44 slot)
  | .cpf a => some (64, packCopy 4 a)
  | .lnch rd rs1 ch => some (64, packL 3 0 + reg 54 ch + reg 15 rs1 + reg 7 rd)
  | .cpost rd rs1 ch => some (64, packL 4 0 + reg 54 ch + reg 15 rs1 + reg 7 rd)
  | .fence fm pred succ rs1 rd =>
      some (32, reg 28 fm + reg 24 pred + reg 20 succ + reg 15 rs1 + reg 7 rd + 0x0F)
  | .fenceTso => some (32, 0x8330000F)
  | .fenceI => some (32, 0x100F)
  | .ecall => some (32, 0x73)
  | .ebreak => some (32, 0x100073)
  | .quelanCsrAccess a => some (32, packCsr a)
  | .vdirtyWrite a => some (32, packCsr a)
  | .rv64ScalarInstruction form op =>
      match form with
      | .full => some (32, encodeScalar op)
      | .compressed p => some (16, p.toNat)
  | .ccmoveWriteBookmark => none
  | .ccmoveKill => none
  | .ccmoveCancel => none
  | .ccmovePreempt => none
  | .ccmoveResume => none
  | .ccmovePostMessage => none
  | .freezePoint => none
  | .exitAddressFetch => none
  | .replyQueueDelivery => none
  | .vectorAccessPerformed => none
  | .strandExit => none
  | .qnotifyWrite => none
  | .queueEntryFetch => none
  | .launchAccept => none
  | .codeObjectRegister => none
  | .codeObjectUnregister => none
  | .queueMap => none
  | .queueUnmap => none
  | .pendScan => none
  | .dispatchDecision => none
  | .agingStep => none
  | .dispatchCountHalving => none
  | .dieReserve => none
  | .preemptionStart => none
  | .preemptionSave => none
  | .resumption => none
  | .savedGroupPlacement => none
  | .migrationWaitTimeout => none
  | .savePoolRetry => none
  | .laneWaitCheck => none
  | .carrierMove => none
  | .strandArrival => none
  | .yldTimeout => none
  | .thermalSensorUpdate => none
  | .thermalSlotDisable => none
  | .thermalSlotEnable => none
  | .mixWindowEnd => none
  | .selftestFailure => none
  | .pageTableWalk => none
  | .impreciseTrap => none
  | .faultBatchPost => none
  | .engineFaultPause => none
  | .tlbinvAll => none
  | .tlbinvPage => none
  | .tlbInvalidationComplete => none
  | .notificationDelivery => none
  | .snoopAnswer => none
  | .directoryRequest => none
  | .wcBufferDrain => none
  | .memoryRequestArrival => none
  | .hostCxlMemRead => none
  | .hostCxlMemWrite => none
  | .peerRead => none
  | .pageMigrationRequest => none
  | .reservationExpiry => none
  | .vwaitReevaluation => none
  | .backInvalidationAck => none
  | .peerAckTimeout => none
  | .hostBiTimeout => none
  | .collectionComplete => none
  | .contextDestroy => none
  | .copyCommandAccept => none
  | .copyCommandComplete => none
  | .streamSlotFill => none
  | .streamDrainWrite => none
  | .stageStripArrival => none
  | .collectiveQueueAccept => none
  | .collectiveComplete => none
  | .messageArrival => none
  | .overflowDelivery => none
  | .lsplitWrite => none
  | .splitApply => none
  | .vpoolWrite => none
  | .wmaskWrite => none
  | .memcapWrite => none
  | .irmctlStart => none
  | .sweepWindow => none
  | .snapctlStart => none
  | .snapshotComplete => none
  | .snapshotFabricError => none
  | .platctlLock => none
  | .platctlUnlock => none
  | .clockChangeComplete => none
  | .hostctlAttach => none
  | .hostctlDetach => none
  | .hostLinkDown => none
  | .svcnotifyWrite => none
  | .hcmdCancel => none
  | .hcmdPreempt => none
  | .hcmdResume => none
  | .herraRead => none
  | .herrnRead => none
  | .stkceRead => none
  | .kctlWrite => none
  | .nonceWrite => none
  | .intrtWrite => none
  | .registerWrite => none
  | .ethernetLinkChange => none
  | .powerOnReset => none
  | .spdmRequest => none
  | .d3hotEntry => none
  | .d0Entry => none
  | .vectorInstructionCompletion => none
  | .ownerBackInvalidation => none

/-- What the decoder, which sees no state, answers for the words of an instruction: a lane thread's atomic has the
words of the vector atomic (R134). -/
def Instr.canonical : Instr → Instr
  | .laneFormAtomic op a => (pageAmo.getD op.val Instr.vamoadd) a
  | i => i

end Sys2Proof
end

