-- ==== Sys2Proof/Machine/State.lean ====
section
/-! DEFINITION. The state of the machine: every piece of state the spec names (INVENTORY.md, State), as plain data,
with the memory form, the outcomes' reasons and the state after reset. Registers that only timing could show (TLB and
L2 contents, scalar caches, walkers) are left out (log 12). -/

namespace Sys2Proof.Machine

/-! ### Reasons to stop -/

/-- Faults of the model. None: every exception the spec describes is taken, and a machine with nothing to do stays as
it is (log 2). Safe. -/
inductive Fault
  deriving DecidableEq, Repr

/-- Refusals of the model. -/
inductive Refusal
  /-- An instruction without a meaning, raised by its arm in `exec`; safe. No arm is left with it. -/
  | notModelled (mnemonic : String)
  deriving DecidableEq, Repr

/-! ### Memory -/

/-- Bytes by address: addresses strictly rising, no entry equal to what an unlisted address reads as (log 1). -/
abbrev Mem := List Host.Cell

/-- What a byte that nothing has written reads as (log 1). -/
def unlisted : Byte := 0

/-- The canonical form above a bound. -/
def Mem.wfAbove : Nat → Mem → Bool
  | _, [] => true
  | lo, (a, b) :: m => lo ≤ a && b != unlisted && Mem.wfAbove (a + 1) m

/-- The canonical form. -/
def Mem.wf (m : Mem) : Bool := Mem.wfAbove 0 m

/-! ### A strand (R29) -/

/-- Privilege modes (R55); user strands and lane threads run in U-mode. -/
inductive Mode
  | u | s | m
  deriving DecidableEq, Repr

/-- A lane thread (R38): its own program counter and x registers. -/
structure LaneThread where
  lane : Nat
  pc : Word
  x : Vector Word 32
  joined : Bool
  deriving DecidableEq, Repr

/-- The lane-thread state of a forked strand (R38, R132): the threads in ascending lane, the position of the one
whose turn it is, and the address after the `ljoin` executed last. -/
structure Fork where
  threads : List LaneThread
  turn : Nat
  joinPc : Word
  deriving DecidableEq, Repr

/-- A filled ring slot (R156): ring position, elements in it, elements already popped. -/
structure Slot where
  pos : Nat
  count : Nat
  off : Nat
  deriving DecidableEq, Repr

/-- A strip on its way to a consumer's ring (R161), as element values, or the end mark. -/
inductive Strip
  | data (elems : List Nat)
  | ended
  deriving DecidableEq, Repr

/-- A defined stream handle (R152 to R162): the descriptor's fields, the counters and the binding. -/
structure Stream where
  base : Word
  /-- Element counts and strides of the dimensions in use. -/
  dims : List (Nat × Int)
  tag : Nat
  ch : QReg
  link : Nat
  peer : Nat
  /-- 0 memory load, 1 memory store, 2 stage output, 3 stage input. -/
  kind : Nat
  /-- Element bytes. -/
  eb : Nat
  nslot : Nat
  slotBytes : Nat
  /-- 0 scratch, 1 activation, 2 accumulator. -/
  space : Nat
  rbase : Nat
  /-- Slot capacity in elements, fixed at `qdef` (for a stage output, the consumer's, 0 before it is matched). -/
  se : Nat
  /-- Grant at `qdef`. -/
  g : Nat
  /-- Filled slots, oldest first. -/
  filled : List Slot
  /-- Ring position the next strip takes. -/
  next : Nat
  /-- Slots reserved for strips not yet in the ring. -/
  reserved : Nat
  /-- Pattern elements filled or drained so far. -/
  done : Nat
  ended : Bool
  ovr : Bool
  binding : Option Reg
  /-- Matched handle at the other end: strand and handle. -/
  mate : Option (Nat × QReg)
  /-- Stage input: the producer it was matched with has ended (R161). Memory store: the drain message is posted (R159). -/
  mateEnded : Bool
  /-- Order of definition, for matching. -/
  order : Nat
  /-- Strips in flight to this ring, oldest first. -/
  wire : List Strip
  deriving DecidableEq, Repr

/-- A 16-byte message in an inbox (R204). -/
structure Msg where
  ch : QReg
  hdr : Word
  payload : Word
  deriving DecidableEq, Repr

/-- A tile slot (R219): the raw elements as loaded (bytes of the `cpw` box), with its descriptor. -/
structure Tile where
  loading : Bool
  valid : Bool
  bfmt : Nat
  krows : Nat
  /-- Elements, row r column c at r × 128 + c, as bit patterns. -/
  elems : List Nat
  deriving DecidableEq, Repr

/-- One entry of a bookmark (R276). -/
structure BmEntry where
  enc : Nat
  vtype : Word
  vl : Nat
  vstart : Nat
  st : Nat
  flg : Nat
  deps : Nat
  xop : Word
  xbase : Word
  xstride : Word
  ipc : Word
  mask : KReg
  deriving DecidableEq, Repr

/-- The bookmark area (R275). -/
structure Bookmark where
  token : Word
  lid : Word
  strandid : Nat
  cause : Nat
  cls : Nat
  lt : Nat
  pc : Word
  lpc : Word
  batch : Nat
  vtype : Word
  vl : Nat
  xreg : Vector Word 32
  entries : List BmEntry
  deriving DecidableEq, Repr

/-- What a trap is about (R272, R274): the cause (1 translation, 2 launch fault, 3 `ecall` or `ebreak`), the class
code, the faulting pages as (address, cause, access bits), and the entry of the trapping vector instruction. -/
structure TrapInfo where
  cause : Nat
  cls : Nat
  pages : List (Nat × Nat × Nat)
  entry : Option BmEntry
  /-- A fault during replay (R278): the entries after the trapping one, and that no further instruction issued. -/
  rest : List BmEntry := []
  replay : Bool := false
  deriving DecidableEq, Repr

/-- The operands of a `vsetl` or `vsetli` (R115). -/
structure VsetReq where
  rd : Reg
  image : Word
  avl : Option Word
  deriving DecidableEq, Repr

/-- A copy command as issued (R165, R166): which command, channel, mask, descriptor address, row coordinates of
`cpgr` and `cpsc`, and the tile slot of `cpw`. -/
inductive CopyKind
  | cpt | cpgr | cpsc | cpw | cpf
  deriving DecidableEq, Repr

structure CopyOp where
  kind : CopyKind
  ch : QReg
  kd : Option MReg
  addr : Word
  rows : List Int
  slot : QReg
  deriving DecidableEq, Repr

/-- Waiting states (R39), and the other places where a strand stands at an instruction until something happens. -/
inductive Wait
  | message (ch : QReg)
  | barrier
  | phaseEnd
  | memory
  | event
  | stream
  | query
  | thaw
  | service
  /-- Lane wait (R35): order of entry, lane groups wanted, the instruction's operands. -/
  | lane (order want : Nat) (req : VsetReq)
  /-- A store to a page under collection (R191). -/
  | store
  /-- The copy engine's queue is full (R164). -/
  | copy (op : CopyOp)
  /-- The collective engine's queue is full (R322). -/
  | collective (addr : Word) (ch : QReg) (rd : Reg)
  /-- A fence whose vector accesses are not all performed at its scope (R216). -/
  | fence
  /-- `ccmove` OP 0 while the carrier of a die has no room (R288). -/
  | carrier (die : Nat)
  /-- A replay at resumption that cannot go on yet (R262, R278). -/
  | replay
  /-- A tile slot or mask register that a copy command has yet to write (R166, R167). -/
  | engine
  /-- `qrst` waiting for the drain and its message (R159). -/
  | drain
  /-- `wfi` with no interrupt pending (log 6). -/
  | interrupt
  deriving DecidableEq, Repr

/-- Why the carrier moves a strand (R43, R46, R254, R255). -/
inductive MoveKind
  /-- Class-miss or `mig`: to a core of one of these classes. -/
  | classes (cs : List Cls)
  /-- Thermal displacement. -/
  | thermal
  /-- A chosen core: lane-wait and mix-driven moves. -/
  | core (id : Nat)
  deriving DecidableEq, Repr

/-- What a strand is doing. -/
inductive Status
  | running
  | waiting (w : Wait)
  /-- `yld`: issues nothing until these strands of its core have issued (R249). -/
  | yielding (others : List Nat)
  /-- Stopped at a fault, about to trap (R274). -/
  | trapping (t : TrapInfo)
  | parked
  /-- A move is requested of the carrier. -/
  | moving (k : MoveKind)
  /-- In the carrier, on its way to a core and slot (R40). -/
  | transit (core slot : Nat)
  /-- Migration wait (R46). -/
  | migWait (k : MoveKind)
  /-- Executing `frz`, before its freeze point (R209). -/
  | freezing
  /-- `gexit` has executed; the strand's work completes (R47). -/
  | exiting
  /-- Saved in the pool by pre-emption (R258): parked at a trap, exiting, or about to move to one of these classes. -/
  | saved (atTrap exits : Bool) (need : List Cls)
  /-- Stopped for ever: exited, or its launch was killed (R47, R48). -/
  | gone
  deriving DecidableEq, Repr

/-- A 128-byte write-combining buffer for untracked stores (R184): the line and the bytes held, by address. -/
structure WcBuf where
  space : Space
  line : Nat
  key : Nat
  cells : List Host.Cell
  deriving DecidableEq, Repr

/-- A delivery waiting in the reply queue (R111): an x or f register and its value. -/
structure Reply where
  float : Bool
  rd : Reg
  val : Word
  deriving DecidableEq, Repr

/-- A strand with its context (R29) and its place. -/
structure Strand where
  uid : Nat
  /-- System code (S-mode and M-mode): no launch. -/
  system : Bool
  lid : Nat
  ctx : Nat
  gx : Nat
  gy : Nat
  gz : Nat
  glin : Nat
  stage : Nat
  six : Nat
  core : Nat
  slot : Nat
  status : Status
  mode : Mode
  pc : Word
  x : Vector Word 32
  f : Vector Word 32
  frm : BitVec 3
  fflags : BitVec 5
  v : Vector VReg 32
  k : Vector KReg 8
  vl : Nat
  vtype : Word
  g : Nat
  nr : Bool
  short : Bool
  vstart : Nat
  vrnd : BitVec 4
  vflags : BitVec 6
  vdirty : BitVec 32
  kthr : BitVec 13
  /-- Lane groups of the stage, and the physical ones held at placement. -/
  lstage : Nat
  lanes0 : List Nat
  q : Vector (Option Stream) 16
  fork : Option Fork
  inbox : List Msg
  latch : Bool
  slip : Option Nat
  posted : Bool
  astat : BitVec 3
  /-- Declared tile slots with their contents. -/
  tiles : List Tile
  accRows : Nat
  /-- Byte 512 × row + 4 × column of the accumulator rows. -/
  acc : Mem
  actBytes : Nat
  act : Mem
  scratchBytes : Nat
  /-- Byte 16384 × lane + offset of the lane-local scratch. -/
  scratch : Mem
  stack : Option Nat
  migcnt : Word
  /-- Gather reservations by element index: the line held. -/
  res : List (Nat × Space × Nat)
  /-- The scalar agent's LR reservation: the granule held. -/
  lrRes : Option (Space × Nat)
  /-- Unacknowledged scatter elements of each lane. -/
  pend : Vector Nat 32
  replyQ : List Reply
  /-- Vector instructions and matrix-queue instructions issued and not complete. -/
  vq : Nat
  mq : Nat
  wcS : List WcBuf
  wcV : List WcBuf
  /-- Barriers passed, and whether the next one is reached (R201). -/
  barK : Nat
  barArrived : Bool
  bookmark : Bookmark
  /-- The mix window (R255): instructions and vector instructions counted. -/
  mixN : Nat
  mixV : Nat
  /-- Vector instructions of the window that has ended, until it is judged (R255). -/
  mixDone : Option Nat
  /-- Masks that uncompleted copy commands will write (R167). -/
  kdPend : List MReg
  /-- The pops of the instruction at pc have been made: it waits after them (R156). -/
  popped : Bool
  /-- The element at which a fault-only-first load last trimmed VL, until VL is set anew (R145). -/
  trimAt : Option Nat
  /-- The elements that the instruction being replayed, or issued behind a fault, processes; none: all (R277, R278). -/
  only : Option KReg
  /-- Lines of `res` locked in their home L2 slice, outside a cache portion (R198). -/
  resL2 : List (Space × Nat)
  /-- What is left of the bookmark of a strand that waits inside a replay (R278). -/
  replaying : Option Bookmark
  /-- Order of its request to the carrier among all requests, 0 with none (R288). -/
  asked : Nat
  /-- Where its image stands in the save pool while it is saved: offsets and lengths (R258, R259). -/
  savedAt : List (Nat × Nat)
  deriving DecidableEq, Repr

/-! ### Cores -/

/-- Coherence states of a cached line other than I (R181). -/
inductive Coh
  | m | e | s | n | z
  deriving DecidableEq, Repr

/-- A line of a vector core's cache portion (R172, R173). -/
structure CLine where
  space : Space
  line : Nat
  way : Nat
  owner : Option Nat
  coh : Coh
  /-- Of a dirty line of host memory: the line as host memory holds it, lost writes apart (R318). -/
  back : List Byte
  deriving DecidableEq, Repr

/-- A copy command accepted by an engine (R164): its issuer, launch, grant at acceptance and descriptor words. -/
structure CopyCmd where
  uid : Nat
  lid : Nat
  ctx : Nat
  op : CopyOp
  desc : List Nat
  g : Nat
  vl : Nat
  deriving DecidableEq, Repr

/-- The S-mode and M-mode CSRs of one hart of a control core (log 6). -/
structure Csrs where
  mstatus : Word
  medeleg : Word
  mideleg : Word
  mie : Word
  mip : Word
  mtvec : Word
  mepc : Word
  mcause : Word
  mtval : Word
  mscratch : Word
  stvec : Word
  sepc : Word
  scause : Word
  stval : Word
  sscratch : Word
  deriving DecidableEq, Repr

/-- A core (R12, R170). -/
structure Core where
  id : Nat
  inService : Bool
  cur : BitVec 2
  pend : Bool
  csz : BitVec 2
  vway : BitVec 16
  vsize : BitVec 2
  /-- Way masks of the four slots. -/
  wmask : List (BitVec 16)
  /-- Holder of each physical lane group. -/
  lat : List (Option Nat)
  temp : Byte
  sen : BitVec 4
  men : Bool
  mthr : BitVec 16
  /-- Lines of the cache portion, most recently used first. -/
  lines : List CLine
  engine : List CopyCmd
  /-- The engine is parked at a fault of a launch's access (R273, R281). -/
  park : Option Nat
  /-- Trap generations of slots 0 to 3 and of the engine. -/
  gen : List (BitVec 16)
  harts : List Csrs
  deriving DecidableEq, Repr

/-! ### Launches -/

/-- A host queue slot that has been mapped (R233, R263). While MAPPED = 1 its QSSN and QCSN are its queue's. -/
structure QSlot where
  slot : Nat
  badn : Bool
  mapped : Bool
  /-- The queue mapped, or mapped last. -/
  uq : Nat
  deriving DecidableEq, Repr

/-- A user queue record (R315). -/
structure UQueue where
  uq : Nat
  /-- DLA of the record; the fields below down to `fsn` are written through to it. -/
  recAddr : Nat
  ring : Nat
  space : Space
  rlog : Nat
  pend : Bool
  hold : Bool
  ctx : Nat
  ssn : Nat
  csn : Nat
  notified : Nat
  fsn : Nat
  /-- Completions by sequence number above CSN whose STATUS is written. -/
  doneAbove : List Nat
  /-- Completion writes held while the host is absent: sequence number, STATUS, RESULT (R318). -/
  held : List (Nat × Nat × Word)
  deriving DecidableEq, Repr

/-- A fetched queue entry that is not complete (R234, R235). -/
structure QEntry where
  uq : Nat
  seq : Nat
  typ : Nat
  order : Bool
  addr : Word
  /-- The launch it became. -/
  lid : Option Nat
  deriving DecidableEq, Repr

/-- A registered code object (R237). -/
structure CodeObj where
  handle : Nat
  ctx : Nat
  text : Nat
  size : Nat
  nkern : Nat
  deriving DecidableEq, Repr

/-- A stage descriptor of a launch record (R238). -/
structure StageRec where
  entry : Nat
  cls : Nat
  n : Nat
  l : Nat
  tiles : Nat
  accRows : Nat
  act4k : Nat
  scratch256 : Nat
  deriving DecidableEq, Repr

/-- A stream declaration of a launch record (R238). -/
structure StrmRec where
  src : Nat
  dst : Nat
  space : Nat
  nslot : Nat
  deriving DecidableEq, Repr

/-- The launch unit's copy of a launch record (R238). -/
structure LaunchRec where
  codeh : Word
  kern : Nat
  prio : Nat
  nobin : Bool
  nx : Nat
  ny : Nat
  nz : Nat
  /-- Dependence vectors (dz, dy, dx). -/
  deps : List (Int × Int × Int)
  args : Word
  stkBase : Nat
  stkSz : Nat
  stkN : Nat
  ovfl : Nat
  ovflN : Nat
  sx : Nat
  sy : Nat
  sz : Nat
  sbrd : Nat
  after : Nat
  lbase : Nat
  strms : List StrmRec
  stages : List StageRec
  deriving DecidableEq, Repr

/-- Launch states (R252). -/
inductive LState
  | running | preempting | preempted | complete | killed
  deriving DecidableEq, Repr

/-- A message held in a launch's overflow pool (R207): its target, the message, and the entry of the pool it takes. -/
structure HeldMsg where
  glin : Nat
  stage : Nat
  six : Nat
  msg : Msg
  slot : Nat
  deriving DecidableEq, Repr

/-- A stage-output handle that its strand's exit ended while it waited for a consumer (R161): group, link, the strand's
STRIX, the consumer's, and its element bytes. -/
structure EndedOut where
  glin : Nat
  link : Nat
  six : Nat
  peer : Nat
  eb : Nat
  deriving DecidableEq, Repr

/-- A launch (R25, R238 to R245). -/
structure Launch where
  lid : Nat
  ctx : Nat
  recAddr : Nat
  lrec : LaunchRec
  /-- Text base of its code object. -/
  text : Nat
  /-- The queue entry it came from. -/
  entry : Option (Nat × Nat)
  /-- For `lnch`: launch and strand of the issuer, and the channel. -/
  issuer : Option (Nat × Nat × QReg)
  st : LState
  retired : List Nat
  released : List Nat
  /-- Groups dispatched and not retired. -/
  placed : List Nat
  /-- The 64 bins, each in release order. -/
  bins : List (List Nat)
  curBin : Nat
  /-- Aging steps of 2 ms since acceptance or the last dispatch (R243). -/
  age : Nat
  /-- A next group has not fitted for 2 ms at E 6 or 7 (R244). -/
  starved : Bool
  dispatched : Bool
  npre : Nat
  /-- A resumption has been asked for, or is due (R260). -/
  resuming : Bool
  /-- The pre-emption's cause: the level-7 launch it made room for, 0 for a migration wait, none for a request. -/
  madeRoomFor : Option Nat
  /-- Messages in the overflow pool, in arrival order (R207). -/
  pool : List HeldMsg
  /-- A kill that waits for a freeze of a strand of the launch to complete (R209): code and class. -/
  dying : Option (Nat × Nat)
  /-- Final status: code and class. -/
  final : Option (Nat × Nat)
  /-- Order of its save among the carriers' requests (R288). -/
  asked : Nat
  /-- Ended stage-output handles of exited strands that a consumer's next handle is matched with (R161). -/
  endedOuts : List EndedOut
  deriving DecidableEq, Repr

/-- The launch unit. -/
structure LaunchUnit where
  slots : List QSlot
  uqs : List UQueue
  entries : List QEntry
  code : List CodeObj
  nextHandle : Nat
  launches : List Launch
  nextLid : Nat
  /-- D_t by tenant (R244). -/
  counts : List (Nat × Nat)
  /-- Events that the outside asked for and that wait for a held place, oldest first (R290, R303). -/
  waiting : List Event
  deriving DecidableEq, Repr

/-! ### Freezing, faults and translation -/

/-- A catalogue entry (R208). -/
structure FrzEntry where
  idx : Nat
  ctx : Nat
  pages : List Nat
  gen : BitVec 32
  thawing : Bool
  ch : QReg
  /-- Launch, strand coordinates of the thawing strand. -/
  thawer : Option (Nat × Nat × Nat × Nat)
  holders : BitVec 64
  deriving DecidableEq, Repr

/-- A freeze in progress (R209): issuing strand, its context, pages, destination register. -/
structure FrzJob where
  uid : Nat
  ctx : Nat
  pages : List Nat
  rd : Reg
  deriving DecidableEq, Repr

/-- The freeze catalogue and the page states that follow from it. -/
structure Catalogue where
  entries : List FrzEntry
  /-- Generation counters by index. -/
  gens : List (Nat × BitVec 32)
  jobs : List FrzJob
  /-- Pages under collection, by entry. -/
  collecting : List (Nat × Nat)
  /-- Back-invalidations not acknowledged: entry and holder. -/
  acks : List (Nat × Nat)
  deriving DecidableEq, Repr

/-- A fault record (R272). -/
structure FaultRec where
  addr : Word
  lid : Word
  token : Word
  strandid : Nat
  info : Nat
  deriving DecidableEq, Repr

/-- A coherent request (R183). -/
structure CohReq where
  src : Requester
  space : Space
  line : Nat
  write : Bool
  deriving DecidableEq, Repr

/-- A request broadcast on a die's notification network (R182); `invZ`: an invalidate-Z of the line's page. -/
structure Notif where
  req : CohReq
  invZ : Bool
  deriving DecidableEq, Repr

/-- A collective command (R322). -/
structure CollCmd where
  uid : Nat
  port : Nat
  lid : Nat
  ctx : Nat
  strandid : Nat
  glin : Nat
  stage : Nat
  six : Nat
  ch : QReg
  sbuf : Word
  rbuf : Word
  count : Nat
  op : Nat
  fmt : Nat
  rop : Nat
  root : Nat
  tag : Nat
  rank : Nat
  nrank : Nat
  /-- The link of its port was lost since it was accepted (R328). -/
  lost : Bool
  deriving DecidableEq, Repr

/-- What one fabric die holds (R10, R254, R272, R322). -/
structure Die where
  frq : List FaultRec
  /-- Batches waiting for room, oldest first. -/
  batches : List (List FaultRec)
  batch : BitVec 12
  /-- Valid entries of the thermal ranking table: index and core. -/
  rank : List (Nat × Nat)
  notifs : List Notif
  coll : List CollCmd
  deriving DecidableEq, Repr

/-- A message on its way (R205, R207). -/
structure WireMsg where
  lid : Nat
  glin : Nat
  stage : Nat
  six : Nat
  msg : Msg
  deriving DecidableEq, Repr

/-- A directory entry (R183). -/
structure DirEntry where
  space : Space
  line : Nat
  /-- What the other die holds, and whether one of its copies is nominated. -/
  other : Option Coh
  nominated : Bool
  /-- The host holds the line; exclusively or not. -/
  host : Option Bool
  deriving DecidableEq, Repr

/-- An access of the host to device memory that waits: address, length, and the bytes of a write. -/
structure HostReq where
  addr : Nat
  n : Nat
  write : Option (List Byte)
  deriving DecidableEq, Repr

/-- Coherence machinery (R182, R183, R297, R303). -/
structure Coherence where
  dir : List DirEntry
  /-- Snoops delivered and not answered, by core. -/
  snoops : List (Nat × Notif)
  /-- Requests queued at busy lines. -/
  queued : List CohReq
  /-- Requests to device memory stalled by the sweep window. -/
  stalled : List MemReq
  /-- Requests of the host that wait for a collection, a window or a lock (R210, R290, R303). -/
  hostReqs : List HostReq
  deriving DecidableEq, Repr

/-- A held migration lock (R290). -/
structure PageLock where
  page : Nat
  byHost : Bool
  target : Nat
  deriving DecidableEq, Repr

/-- Invalidation (R269) and page locks (R290). -/
structure Translation where
  sub : Word
  done : Word
  requests : List (Nat × Option Nat)
  /-- Pages that migrate: page, holder of the lock (host or not) and the page it moves to (R290). -/
  locks : List PageLock
  deriving DecidableEq, Repr

/-- The memory service block (R299), and the active stack list. -/
structure MemSvc where
  lim : Nat
  cap : Nat
  phase : BitVec 32
  p : Nat
  active : BitVec 12
  fstk : BitVec 4
  refuse : Bool
  err : Bool
  st : Nat
  share : BitVec 4
  snapDst : Word
  snapErr : Bool
  snapDone : Bool
  snapBusy : Bool
  /-- LIM and SNAPDST as the snapshot under way took them at START (R309). -/
  snapLim : Nat
  snapTo : Word
  deriving DecidableEq, Repr

/-- The answer to an SPDM request (R325): the measurements and the signature over them. -/
structure Attestation where
  firmware : List Byte
  config : List Byte
  version : Nat
  signature : List Byte
  deriving DecidableEq, Repr

/-- The platform control block (R311) and what boot and power leave (R324, R327). -/
structure Platform where
  ctxbase : Word
  tenbase : Word
  intrt : Word
  lock : Bool
  locked : Bool
  /-- A clock change to locked or nominal is in progress. -/
  changing : Bool
  merr : BitVec 7
  merrCore : BitVec 16
  peerst : BitVec 64
  netst : BitVec 8
  pktbase : Word
  /-- STKCE counters of the stacks. -/
  stkce : List (BitVec 32)
  booted : Bool
  d3 : Bool
  /-- Answers to SPDM requests given so far; none is an error. -/
  spdm : List (Option Attestation)
  deriving DecidableEq, Repr

/-- The host control block (R317). -/
structure HostCtl where
  present : Bool
  hcmdid : Word
  herra : Word
  herrn : Word
  /-- Data returned to the host by its reads, newest first; none is an error response. -/
  reads : List (Option (List Byte))
  deriving DecidableEq, Repr

/-- A key slot (R314): enable, owner and the derived key, as slot and nonce. -/
structure KeySlot where
  slot : Nat
  en : Bool
  owner : BitVec 12
  key : Option Word
  deriving DecidableEq, Repr

/-! ### The machine -/

structure State where
  /-- The strand whose turn it is; a `gone` one means none. -/
  cur : Strand
  /-- The other strands, in the order in which their turns come. -/
  others : List Strand
  dev : Mem
  host : Mem
  peer : Mem
  /-- Key under which each device line was last written; unlisted lines: the device key 0 (R306). -/
  lineKeys : List (Nat × Nat)
  /-- Device lines that read uncorrectable (R292). -/
  bad : List Nat
  cores : List Core
  lu : LaunchUnit
  cat : Catalogue
  die0 : Die
  die1 : Die
  wire : List WireMsg
  coh : Coherence
  xl : Translation
  mem : MemSvc
  plat : Platform
  hc : HostCtl
  /-- Key slots other than slot 0 that have been written. -/
  keys : List KeySlot
  /-- The outside's events to come, in order (log 2). -/
  agenda : List Event
  /-- An internal event goes before the next instruction (log 2). -/
  evTurn : Bool
  /-- Internal events of this round still to be looked at (log 2). -/
  round : List Event
  /-- Particulars of the event that takes place. -/
  arg : Arg
  /-- Free values drawn (log 4). -/
  free : Nat
  nextUid : Nat
  /-- Order number of the next request to a carrier (R288). -/
  nextAsk : Nat
  deriving DecidableEq, Repr

/-! ### Reset (R324, steps 1 to 6) -/

/-- The bookmark area when nothing has been written to it (log 5). -/
def Bookmark.empty : Bookmark :=
  { token := 0, lid := 0, strandid := 0, cause := 0, cls := 0, lt := 0, pc := 0, lpc := 0, batch := 0, vtype := 0,
    vl := 0, xreg := Vector.replicate 32 0, entries := [] }

/-- VTYPE with VILL = 1 and all other bits 0 (R63). -/
def villOnly : Word := 0x8000000000000000

/-- A strand with the register values of R30 that are the same for every strand, on no core yet. The spec gives frm and
fflags no value at entry: 0 (DESIGN CHOICE, log 5). -/
def Strand.fresh (uid : Nat) : Strand :=
  { uid := uid, system := false, lid := 0, ctx := 0, gx := 0, gy := 0, gz := 0, glin := 0, stage := 0, six := 0,
    core := 0, slot := 0, status := .running, mode := .u, pc := 0, x := Vector.replicate 32 0,
    f := Vector.replicate 32 0, frm := 0, fflags := 0, v := Vector.replicate 32 0, k := Vector.replicate 8 0, vl := 0,
    vtype := villOnly, g := 0, nr := false, short := false, vstart := 0, vrnd := 0, vflags := 0, vdirty := 0,
    kthr := 0, lstage := 0, lanes0 := [], q := Vector.replicate 16 none, fork := none, inbox := [], latch := false,
    slip := none, posted := false, astat := 0, tiles := [], accRows := 0, acc := [], actBytes := 0, act := [],
    scratchBytes := 0, scratch := [], stack := none, migcnt := 0, res := [], lrRes := none,
    pend := Vector.replicate 32 0, replyQ := [], vq := 0, mq := 0, wcS := [], wcV := [], barK := 0,
    barArrived := false, bookmark := Bookmark.empty, mixN := 0, mixV := 0, mixDone := none, kdPend := [], popped := false, trimAt := none,
    only := none, resL2 := [], replaying := none, asked := 0, savedAt := [] }

/-- Firmware's thread on core 0x0000 in M-mode (R324, step 6). -/
def Strand.firmware : Strand := { Strand.fresh 0 with system := true, mode := .m }

/-- CSRs of a hart at reset (log 6). -/
def Csrs.reset : Csrs :=
  { mstatus := 0, medeleg := 0, mideleg := 0, mie := 0, mip := 0, mtvec := 0, mepc := 0, mcause := 0, mtval := 0,
    mscratch := 0, stvec := 0, sepc := 0, scause := 0, stval := 0, sscratch := 0 }

/-- The class of the chiplet in a slot (R11, R23); none for the empty slot. -/
def chipClass (chip : Nat) : Option Cls :=
  match chip with
  | 0 => some .control
  | 1 => some .vector
  | 2 => some .vector
  | 3 => some .array
  | 4 => some .array
  | 5 => some .array
  | 6 => some .array
  | _ => none

/-- The class of a core from its identifier (R12). -/
def coreClass (id : Nat) : Cls := (chipClass (id / 256 % 16)).getD .control

/-- The die of a core from its identifier (R12). -/
def coreDie (id : Nat) : Nat := id / 4096 % 2

/-- Cores on a chiplet (R23). -/
def chipCores (chip : Nat) : Nat :=
  match chipClass chip with
  | some .control => 16
  | some .vector => 48
  | some .array => 32
  | none => 0

/-- The identifiers of the 480 cores, ascending (R11, R12). -/
def coreIds : List Nat :=
  (List.range 2).flatMap fun die =>
    (List.range 8).flatMap fun chip =>
      (List.range (chipCores chip)).map fun idx => die * 4096 + chip * 256 + idx

/-- Strand slots of a core of a class (R11). -/
def clsSlots : Cls → Nat
  | .vector => 4
  | _ => 2

/-- A core at reset (R171, R173, R175, R251, R253, R255). -/
def Core.reset (id : Nat) : Core :=
  { id := id, inService := true, cur := 1, pend := false, csz := 1, vway := 0xFFFF, vsize := 0,
    wmask := List.replicate 4 0xFFFF, lat := List.replicate 4 none, temp := 0,
    sen := if coreClass id = .vector then 0xF else 0x3, men := false, mthr := 0, lines := [], engine := [], park := none,
    gen := List.replicate 5 0, harts := if coreClass id = .control then [Csrs.reset, Csrs.reset] else [] }

def Die.reset : Die := { frq := [], batches := [], batch := 0, rank := [], notifs := [], coll := [] }

def LaunchUnit.reset : LaunchUnit :=
  { slots := [], uqs := [], entries := [], code := [], nextHandle := 1, launches := [], nextLid := 1, counts := [],
    waiting := [] }

def MemSvc.reset : MemSvc :=
  { lim := 0xB2D05E, cap := 0xB2D05E, phase := 0, p := 0, active := 0xFFF, fstk := 0, refuse := false, err := false,
    st := 0, share := 0, snapDst := 0, snapErr := false, snapDone := false, snapBusy := false, snapLim := 0,
    snapTo := 0 }

def Platform.reset : Platform :=
  { ctxbase := 0, tenbase := 0, intrt := 0x10000000, lock := false, locked := false, changing := false, merr := 0,
    merrCore := 0, peerst := 0, netst := 0, pktbase := 0, stkce := List.replicate 12 0, booted := true, d3 := false,
    spdm := [] }

/-- The machine after the boot sequence up to step 6 of R324: firmware starts on core 0x0000 in M-mode; memory lists
nothing; the host is absent. -/
def State.reset : State :=
  { cur := Strand.firmware, others := [], dev := [], host := [], peer := [], lineKeys := [], bad := [],
    cores := coreIds.map Core.reset, lu := LaunchUnit.reset,
    cat := { entries := [], gens := [], jobs := [], collecting := [], acks := [] },
    die0 := Die.reset, die1 := Die.reset, wire := [],
    coh := { dir := [], snoops := [], queued := [], stalled := [], hostReqs := [] },
    xl := { sub := 0, done := 0, requests := [], locks := [] }, mem := MemSvc.reset, plat := Platform.reset,
    hc := { present := false, hcmdid := 0, herra := 0, herrn := 0, reads := [] }, keys := [], agenda := [],
    evTurn := false, round := [], arg := {}, free := 0, nextUid := 1, nextAsk := 1 }

end Sys2Proof.Machine
end

