-- ==== Sys2Proof/Machine/Mem.lean ====
section
/-! DEFINITION. Bytes of memory in canonical form, the three physical spaces (R265), encryption by line (R306, R307),
and what a write does to reservations (R198). Byte order is decided once, in `leNat` and `leBytes`. -/

namespace Sys2Proof.Machine

/-! ### Canonical byte lists -/

/-- The byte at an address. -/
def Mem.get : Mem → Nat → Byte
  | [], _ => unlisted
  | (b, v) :: m, a => if a = b then v else if a < b then unlisted else Mem.get m a

/-- The memory with one byte replaced, in canonical form. -/
def Mem.set : Mem → Nat → Byte → Mem
  | [], a, v => if v = unlisted then [] else [(a, v)]
  | (b, w) :: m, a, v =>
    if a < b then (if v = unlisted then (b, w) :: m else (a, v) :: (b, w) :: m)
    else if a = b then (if v = unlisted then m else (a, v) :: m)
    else (b, w) :: Mem.set m a v

/-- n bytes from an address up. -/
def Mem.read (m : Mem) (a : Nat) : Nat → List Byte
  | 0 => []
  | n + 1 => m.get a :: Mem.read m (a + 1) n

/-- Bytes stored from an address up. -/
def Mem.write : Mem → Nat → List Byte → Mem
  | m, _, [] => m
  | m, a, b :: bs => Mem.write (m.set a b) (a + 1) bs

/-- The number in n bytes, little-endian (R6). -/
def Mem.readNat (m : Mem) (a n : Nat) : Nat := leNat (m.read a n)

/-- A number stored in n bytes, little-endian (R6). -/
def Mem.writeNat (m : Mem) (a n v : Nat) : Mem := m.write a (leBytes n v)

/-- Zeroes in [a, a + n). -/
def Mem.zero (m : Mem) (a n : Nat) : Mem := m.filter (fun c => c.1 < a || a + n ≤ c.1)

/-! ### Association lists with a default -/

/-- The value of a key; d where it is not listed. -/
def assocGet (l : List (Nat × Nat)) (k d : Nat) : Nat :=
  match l.find? (fun p => p.1 == k) with
  | some p => p.2
  | none => d

/-- A key set to a value; the default is not listed. -/
def assocSet : List (Nat × Nat) → Nat → Nat → Nat → List (Nat × Nat)
  | [], k, v, d => if v = d then [] else [(k, v)]
  | p :: l, k, v, d =>
    if k < p.1 then (if v = d then p :: l else (k, v) :: p :: l)
    else if k = p.1 then (if v = d then l else (k, v) :: l)
    else p :: assocSet l k v d

/-! ### Lists -/

/-- Insertion in an ordered list, after equal elements. -/
def insertBy {α : Type} (lt : α → α → Bool) (a : α) : List α → List α
  | [] => [a]
  | b :: l => if lt a b then a :: b :: l else b :: insertBy lt a l

/-- A list put in order, equal elements keeping theirs. -/
def sortBy {α : Type} (lt : α → α → Bool) (l : List α) : List α := l.foldl (fun acc a => insertBy lt a acc) []

/-- The first `some` that a function gives on a list. -/
def firstSome {α β : Type} (f : α → Option β) : List α → Option β
  | [] => none
  | a :: l => match f a with | some b => some b | none => firstSome f l

/-! ### Physical addresses -/

/-- A physical place of an access: its space, address, key, and whether its page is untracked (R184, R265). -/
structure Phys where
  space : Space
  addr : Nat
  key : Nat
  unt : Bool
  deriving DecidableEq, Repr

/-- The 128-byte line of an address (R10). -/
def lineOf (a : Nat) : Nat := a / 128

/-- The 64 KiB page of an address. -/
def pageOf (a : Nat) : Nat := a / 65536

def State.space (s : State) : Space → Mem
  | .dev => s.dev
  | .host => s.host
  | .peer => s.peer

def State.withSpace (s : State) (sp : Space) (m : Mem) : State :=
  match sp with
  | .dev => { s with dev := m }
  | .host => { s with host := m }
  | .peer => { s with peer := m }

/-! ### Keys -/

/-- A key slot's registers: slot 0 is enabled for owner 0 and cannot be changed; a slot never written is disabled
(R314). -/
def State.keySlot (s : State) (k : Nat) : KeySlot :=
  if k = 0 then { slot := 0, en := true, owner := 0, key := some 0 }
  else
    match s.keys.find? (fun e => e.slot == k) with
    | some e => e
    | none => { slot := k, en := false, owner := 0, key := none }

/-- The key that a slot holds, as a number: 0 for the device key of slot 0 (R306, R314). The spec gives no key to an
enabled slot for which none was ever derived: one fixed number of the slot's own, the same before and after an erasure
(DESIGN CHOICE, log 66). -/
def State.keyOf (s : State) (k : Nat) : Nat :=
  if k = 0 then 0
  else
    match (s.keySlot k).key with
    | some n => k * 2 ^ 64 + n.toNat
    | none => 2 ^ 80 + k

/-- Slot k is enabled for a context: its EN is 1 and its OWNER is the context (R265, R314; log 13). -/
def State.keyEnabled (s : State) (k ctx : Nat) : Bool := (s.keySlot k).en && (s.keySlot k).owner.toNat == ctx

/-- The key under which a device line was last written. -/
def State.lineKey (s : State) (line : Nat) : Nat := assocGet s.lineKeys line 0

/-- A device line re-read under another key and written back under it: the line's other bytes become no value that
was written (R306). -/
def State.rekeyLine (s : State) (line key : Nat) : State :=
  if s.lineKey line = key then s
  else
    { s with
      dev := s.dev.write (line * 128)
        ((List.range 128).map fun i => Config.scramble (line * 128 + i) (s.lineKey line) key (s.dev.get (line * 128 + i)))
      lineKeys := assocSet s.lineKeys line key 0 }

/-- Every line of [a, a + n) brought under a key. -/
def State.rekey (s : State) (a n key : Nat) : State :=
  if n = 0 then s
  else (List.range (lineOf (a + n - 1) + 1 - lineOf a)).foldl (fun s i => s.rekeyLine (lineOf a + i) key) s

/-- One device byte read under a key. -/
def State.devByte (s : State) (a key : Nat) : Byte :=
  if s.lineKey (lineOf a) = key then s.dev.get a
  else Config.scramble a (s.lineKey (lineOf a)) key (s.dev.get a)

/-- n bytes at a physical place. -/
def State.readPhys (s : State) (p : Phys) (n : Nat) : List Byte :=
  match p.space with
  | .dev => (List.range n).map fun i => s.devByte (p.addr + i) p.key
  | sp => (s.space sp).read p.addr n

/-! ### Strands -/

/-- The strand with a number, the current one first. -/
def State.strand (s : State) (uid : Nat) : Option Strand :=
  if s.cur.uid = uid then some s.cur else s.others.find? (fun t => t.uid == uid)

/-- Every strand changed by a function. -/
def State.mapStrands (s : State) (f : Strand → Strand) : State :=
  { s with cur := f s.cur, others := s.others.map f }

/-- The strand with a number changed by a function. -/
def State.updStrand (s : State) (uid : Nat) (f : Strand → Strand) : State :=
  s.mapStrands fun t => if t.uid = uid then f t else t

/-- Every strand of the machine. -/
def State.strands (s : State) : List Strand := s.cur :: s.others

/-! ### Writes -/

/-- A write of a line by a strand's scalar agent (or another agent, none): gather reservations on the line are lost, and
the LR reservations of other agents (R198, log 14). -/
def Strand.lose (t : Strand) (sp : Space) (line : Nat) (who : Option Nat) : Strand :=
  { t with
    res := t.res.filter (fun r => !(r.2.1 == sp && r.2.2 == line))
    lrRes := if t.lrRes = some (sp, line) ∧ who ≠ some t.uid then none else t.lrRes }

/-- The lines that [a, a + n) touches. -/
def linesOf (a n : Nat) : List Nat :=
  if n = 0 then [] else (List.range (lineOf (a + n - 1) + 1 - lineOf a)).map (lineOf a + ·)

/-- Reservations on written lines are lost. -/
def State.breakRes (s : State) (sp : Space) (a n : Nat) (who : Option Nat) : State :=
  (linesOf a n).foldl (fun s l => s.mapStrands (·.lose sp l who)) s

/-- Bytes written at a physical place. -/
def State.writePhys (s : State) (p : Phys) (bs : List Byte) (who : Option Nat) : State :=
  match p.space with
  | .dev =>
    let s := s.rekey p.addr bs.length p.key
    ({ s with dev := s.dev.write p.addr bs }).breakRes .dev p.addr bs.length who
  | sp => (s.withSpace sp ((s.space sp).write p.addr bs)).breakRes sp p.addr bs.length who

/-- A device place under the device key (walkers, records the device keeps: R306, R307). -/
def devPhys (a : Nat) : Phys := { space := .dev, addr := a, key := 0, unt := false }

/-- A number in device memory under the device key. -/
def State.devNat (s : State) (a n : Nat) : Nat := leNat (s.readPhys (devPhys a) n)

/-- A number written to device memory under the device key. -/
def State.setDevNat (s : State) (a n v : Nat) : State := s.writePhys (devPhys a) (leBytes n v) none

/-- A free value is drawn (log 4). -/
def State.drawFree (s : State) : Word × State := (Config.freeWord s.free, { s with free := s.free + 1 })

/-! ### Numbers in words -/

/-- Bits [lo + n - 1 : lo] of a word, as a number. -/
def bf (w : Word) (lo n : Nat) : Nat := fld w.toNat lo n

/-- The low n bits of a number as a signed integer. -/
def signedOf (n v : Nat) : Int := if v % 2 ^ n < 2 ^ (n - 1) then (v % 2 ^ n : Nat) else (v % 2 ^ n : Nat) - (2 ^ n : Nat)

def boolBit (b : Bool) (i : Nat) : Nat := if b then 2 ^ i else 0

/-- A signed integer in n bits. -/
def unsignedOf (n : Nat) (v : Int) : Nat := (v % (2 ^ n : Nat)).toNat

end Sys2Proof.Machine
end

