-- ==== Sys2Proof/Machine/Cores.lean ====
section
/-! DEFINITION. Cores, strand slots, lane groups and regions (R11, R12, R33, R42, R174, R178, R251), and what
leaving a slot does to its lane groups and to the owner tags (R33, R173). -/

namespace Sys2Proof.Machine

/-! ### Cores -/

/-- The record of a core; of an identifier no core has, the reset record. -/
def State.core (s : State) (id : Nat) : Core := (s.cores.find? (fun c => c.id == id)).getD (Core.reset id)

def State.updCore (s : State) (id : Nat) (f : Core → Core) : State :=
  { s with cores := s.cores.map fun c => if c.id = id then f c else c }

/-- Replace element n of a list. -/
def listSet {α : Type} (l : List α) (n : Nat) (v : α) : List α := l.set n v

/-- The class a strand is on. -/
def Strand.cls (t : Strand) : Cls := coreClass t.core

/-- The slot a strand occupies: its own, or while in the carrier the one it goes to; none when it is saved or
gone (R40, R46). -/
def Strand.place (t : Strand) : Option (Nat × Nat) :=
  match t.status with
  | .gone => none
  | .saved _ _ _ => none
  | .transit c sl => some (c, sl)
  | _ => some (t.core, t.slot)

/-- Strands that occupy slots of a core. -/
def State.onCore (s : State) (id : Nat) : List Strand :=
  s.strands.filter fun t => match t.place with | some p => p.1 == id | none => false

def State.slotTaken (s : State) (id slot : Nat) : Bool := (s.onCore id).any fun t => t.place == some (id, slot)

/-- The lowest-numbered free, enabled strand slot of a core in service without a pending split (R171, R246, R253). -/
def State.freeSlot (s : State) (id : Nat) : Option Nat :=
  let c := s.core id
  if c.inService && !c.pend then
    (List.range (clsSlots (coreClass id))).find? fun n => c.sen.getLsbD n && !(s.slotTaken id n)
  else none

/-- Mesh column and row of a core (R42). -/
def meshX (id : Nat) : Nat := 8 * (id / 256 % 16 % 4) + id % 64 % 8
def meshY (id : Nat) : Nat := 6 * (id / 256 % 16 / 4) + id % 64 / 8
/-- Mesh hops between two cores of one die (R42). -/
def hops (a b : Nat) : Nat := (max (meshX a) (meshX b) - min (meshX a) (meshX b)) + (max (meshY a) (meshY b) - min (meshY a) (meshY b))

/-! ### Lane groups (R33, R251) -/

def Core.freeLanes (c : Core) : List Nat :=
  (List.range 4).filter fun p => c.lat.getD p none == none

/-- Physical lane groups a slot holds, ascending. -/
def Core.lanesOf (c : Core) (slot : Nat) : List Nat :=
  (List.range 4).filter fun p => c.lat.getD p none == some slot

def Core.giveLanes (c : Core) (slot : Nat) (ps : List Nat) : Core :=
  { c with lat := ps.foldl (fun l p => listSet l p (some slot)) c.lat }

def Core.dropLanes (c : Core) (ps : List Nat) : Core :=
  { c with lat := ps.foldl (fun l p => listSet l p none) c.lat }

/-! ### Regions (R171, R174, R178) -/

/-- Scratch bytes per lane under a split. -/
def scratchPerLane (split : BitVec 2) : Nat := 16384 - 4096 * split.toNat

/-- Sets of the cache portion under a split. -/
def cacheSets (split : BitVec 2) : Nat := 64 * split.toNat

/-- What a strand takes of a core: lane groups on vector cores, scratch per lane, tile slots, rows, activation
bytes. -/
structure Need where
  lanes : Nat
  scratch : Nat
  tiles : Nat
  rows : Nat
  act : Nat
  deriving DecidableEq, Repr

/-- Physical lane groups a strand needs on a core of a class: its grant, on vector cores only (R32, R42). -/
def lanesOn (cls : Cls) (g : Nat) : Nat := if cls = .vector then g else 0

/-- The needs of an existing strand moving to a core of a class: its regions go with it (R45). -/
def Strand.need (t : Strand) (cls : Cls) : Need :=
  { lanes := lanesOn cls t.g, scratch := t.scratchBytes, tiles := t.tiles.length, rows := t.accRows, act := t.actBytes }

/-- The regions of the strands on a core leave room for these needs. -/
def State.regionsFit (s : State) (id : Nat) (n : Need) : Bool :=
  let ts := s.onCore id
  let sum (f : Strand → Nat) := (ts.map f).sum
  (n.scratch == 0 || sum (·.scratchBytes) + n.scratch ≤ scratchPerLane (s.core id).cur)
    && sum (·.tiles.length) + n.tiles ≤ 16 && sum (·.accRows) + n.rows ≤ 1024
    && sum (·.actBytes) + n.act ≤ 262144

/-- A core can take a strand with these needs. -/
def State.fits (s : State) (id : Nat) (n : Need) : Bool :=
  (s.freeSlot id).isSome && n.lanes ≤ ((s.core id).freeLanes).length && s.regionsFit id n

/-- Cores of a class on a die, ascending. -/
def coresOf (die : Nat) (cls : Cls) : List Nat :=
  coreIds.filter fun id => coreDie id == die && coreClass id == cls

/-- A class has a core in service somewhere (R24). -/
def State.classPresent (s : State) (cls : Cls) : Bool :=
  s.cores.any fun c => c.inService && coreClass c.id == cls

/-- The core with the fewest hops from `src`, the lowest identifier on a tie (R42). -/
def nearest (src : Nat) : List Nat → Option Nat
  | [] => none
  | id :: ids =>
    match nearest src ids with
    | none => some id
    | some b => if hops src b < hops src id then some b else some id

/-! ### A slot left -/

/-- A slot is vacated: its tags become none (R173) and its lane groups return to the pool (R33). -/
def State.vacate (s : State) (id slot : Nat) : State :=
  s.updCore id fun c =>
    { (c.dropLanes (c.lanesOf slot)) with
      lines := c.lines.map fun l => if l.owner = some slot then { l with owner := none } else l }

end Sys2Proof.Machine
end

