-- ==== Sys2Proof/Machine/Directory.lean ====
section
/-! DEFINITION. Page states (R208 to R211); the interleave and the homes of lines (R180, R298), the directory (R183), the
notification network and the snoop ports (R182, R297), and the accesses of agents that keep no copy (R172). -/

namespace Sys2Proof.Machine

/-! ### Page states (R208) -/

/-- Freeze count of a device page: the frozen entries that cover it. -/
def State.freezeCount (s : State) (page : Nat) : Nat :=
  (s.cat.entries.filter (fun e => !e.thawing && e.pages.contains page)).length

/-- The page is under collection (R211). -/
def State.collecting (s : State) (page : Nat) : Bool := s.cat.collecting.any (fun c => c.2 == page)

/-- A freeze of the page is in progress: stores to it stall. It begins when no page of its range is collected (R209). -/
def State.freezing (s : State) (page : Nat) : Bool :=
  s.cat.jobs.any fun j => j.pages.contains page && !(j.pages.any s.collecting)

/-- A device address lies in the window of the sweep: requests to it stall (R303). -/
def State.inWindow (s : State) (a : Nat) : Bool :=
  s.mem.st != 0 && decide (s.mem.p - 64 ≤ a / 4096) && decide (a / 4096 < s.mem.p)

/-- The lock of a page, or of the page it moves to, is held by the other side (the host's for a device access): the
access waits and replays under the new mapping (R290). -/
def State.lockedFrom (s : State) (page : Nat) (host : Bool) : Bool :=
  s.xl.locks.any fun l => (l.page == page || l.target == page) && l.byHost != host

/-- An access of the device, or of the host, to a device address is held back (R290, R303). -/
def State.held (s : State) (a : Nat) (host : Bool) : Bool := s.inWindow a || s.lockedFrom (pageOf a) host

/-- A page moves, or is moved to: its lock is held by either side (R214, R290). -/
def State.locked (s : State) (page : Nat) : Bool := s.xl.locks.any fun l => l.page == page || l.target == page

/-- What a write meets on a device page: nothing, a stall, or a frozen page (R191, R210). -/
inductive WriteGate
  | free | stall | frozen
  deriving DecidableEq, Repr

/-- Writes stall while the page is moved, a frozen one too, and while it is collected or a freeze is in progress (R191,
R209, R214). -/
def State.writeGate (s : State) (page : Nat) : WriteGate :=
  if s.locked page then .stall
  else if s.freezeCount page > 0 then .frozen
  else if s.collecting page || s.freezing page then .stall
  else .free

/-! ### The interleave (R298) -/

/-- Stacks of a set, ascending. -/
def stackList (set : BitVec 12) : List Nat := (List.range 12).filter fun n => set.getLsbD n

/-- The stack of a granule under a list, and its place in that stack. -/
def granuleAt (ss : List Nat) (g : Nat) : Nat × Nat :=
  (ss.getD (g % ss.length) 0, g / ss.length)

/-- The new list, and while a sweep runs the old one (R301). -/
def MemSvc.newList (m : MemSvc) : List Nat := stackList m.active
def MemSvc.oldList (m : MemSvc) : List Nat :=
  if m.st = 0 then m.newList else stackList (m.active ||| BitVec.ofNat 12 (2 ^ m.fstk.toNat))

/-- Where a granule lies now. -/
def MemSvc.stackOf (m : MemSvc) (g : Nat) : Nat :=
  (granuleAt (if m.p ≤ g then m.newList else m.oldList) g).1

/-- Some granule of the window under P moves to where the old mapping holds another granule of the window. -/
def MemSvc.staged (m : MemSvc) (p : Nat) : Bool :=
  let w := (List.range (min 64 p)).map fun i => p - 1 - i
  w.any fun g => w.any fun h => g != h && granuleAt m.newList g == granuleAt m.oldList h

/-! ### Homes (R180) -/

/-- The home die of a line (R180). -/
def State.homeDie (s : State) (sp : Space) (line : Nat) : Nat :=
  match sp with
  | .dev => s.mem.stackOf (line / 32) / 6
  | .host => 0
  | .peer => 1

/-- The slice of a line in its home die: bits [47:7] of its address folded to 7 bits (R180). -/
def homeSlice (line : Nat) : Nat := (List.range 6).foldl (fun x i => x ^^^ fld (line % 2 ^ 41) (7 * i) 7) 0

/-- The set of a line in its home slice: the spec gives a slice no sets; 512 of them (log 55). -/
def sliceSet (line : Nat) : Nat := line % 512

/-! ### Dies -/

def State.die (s : State) (d : Nat) : Die := if d = 0 then s.die0 else s.die1

def State.updDie (s : State) (d : Nat) (f : Die → Die) : State :=
  if d = 0 then { s with die0 := f s.die0 } else { s with die1 := f s.die1 }

/-! ### The directory (R183) -/

def State.dirEntry (s : State) (sp : Space) (line : Nat) : DirEntry :=
  (s.coh.dir.find? fun e => e.space == sp && e.line == line).getD
    { space := sp, line := line, other := none, nominated := false, host := none }

/-- An entry recorded, in the place of the line's earlier one; one that says nothing is dropped. -/
def State.putDir (s : State) (e : DirEntry) : State :=
  let mine (d : DirEntry) : Bool := d.space == e.space && d.line == e.line
  let dir : List DirEntry :=
    if e.other = none ∧ e.host = none then s.coh.dir.filter (fun d => !(mine d))
    else if s.coh.dir.any mine then s.coh.dir.map (fun d => if mine d then e else d)
    else s.coh.dir ++ [e]
  { s with coh := { s.coh with dir := dir } }

/-- A line with a broadcast or a snoop outstanding is busy. -/
def State.lineBusy (s : State) (sp : Space) (line : Nat) : Bool :=
  let on (r : CohReq) : Bool := r.space == sp && r.line == line
  (s.die0.notifs ++ s.die1.notifs).any (fun n => !n.invZ && on n.req) || s.coh.snoops.any fun p => on p.2.req

/-- Where a request comes from: the die of a core. -/
def requesterDie : Requester → Option Nat
  | .core id => some (coreDie id)
  | _ => none

/-- What an entry records once a request is served: a read from the other die leaves a nominated copy there, a read from
the home die leaves M and E copies there shared and a nomination as it is, the host's read takes an M copy. -/
def DirEntry.after (e : DirEntry) (home : Nat) (r : CohReq) : DirEntry :=
  match r.src with
  | .host =>
    if r.write then { e with host := some true, other := none, nominated := false }
    else { e with host := some false, other := match e.other with | some .m => none | some .e => some .s | o => o }
  | .core id =>
    let away := coreDie id != home
    if r.write then
      { e with other := if away then some .m else none, nominated := false, host := none }
    else if away then { e with other := some .n, nominated := true, host := e.host.map fun _ => false }
    else
      { e with
        other := match e.other with | some .m => some .s | some .e => some .s | o => o
        host := e.host.map fun _ => false }
  | .peer _ => e

/-- A request served: broadcast on the home die, on the requester's, and on the other die when that holds the line. -/
def State.serveCoh (s : State) (r : CohReq) : State :=
  let home := s.homeDie r.space r.line
  let e := s.dirEntry r.space r.line
  let dies := [0, 1].filter fun d => d == home || requesterDie r.src == some d || e.other.isSome
  let s := dies.foldl (fun s d => s.updDie d fun k => { k with notifs := k.notifs ++ [{ req := r, invZ := false }] }) s
  s.putDir (e.after home r)

/-- DIRECTORY_REQUEST: served in order of arrival; at a busy line it queues. Peers hold no tracked copies. -/
def State.dirArrive (s : State) (r : CohReq) : State :=
  match r.src with
  | .peer _ => s
  | _ =>
    if s.lineBusy r.space r.line then { s with coh := { s.coh with queued := s.coh.queued ++ [r] } } else s.serveCoh r

/-- The oldest queued request of a line that is no longer busy is served. -/
def State.dirNext (s : State) (sp : Space) (line : Nat) : State :=
  if s.lineBusy sp line then s
  else
    match s.coh.queued.find? fun r => r.space == sp && r.line == line with
    | some r => ({ s with coh := { s.coh with queued := s.coh.queued.erase r } }).serveCoh r
    | none => s

/-! ### The notification network and the snoop ports (R182, R297) -/

/-- Z copies of a page leave the caches of a die. -/
def State.dropZ (s : State) (die page : Nat) : State :=
  { s with cores := s.cores.map fun c =>
      if coreDie c.id = die then
        { c with lines := c.lines.filter fun l => !(l.space == .dev && l.line / 512 == page && l.coh == .z) }
      else c }

/-- Cores of a die that must answer a request: they hold the line in a state that is snooped, and did not send it. -/
def State.snooped (s : State) (die : Nat) (r : CohReq) : List Nat :=
  (s.cores.filter fun c => coreDie c.id == die && r.src != .core c.id
    && c.lines.any fun l => l.space == r.space && l.line == r.line && l.coh != .z).map (·.id)

/-- NOTIFICATION_DELIVERY: the oldest broadcast of a die reaches every snooper. -/
def State.notifDeliver (s : State) (die : Nat) : State :=
  match (s.die die).notifs with
  | [] => s
  | n :: rest =>
    let s := s.updDie die fun k => { k with notifs := rest }
    if n.invZ then s.dropZ die (n.req.line / 512)
    else
      let s := { s with coh := { s.coh with snoops := s.coh.snoops ++ (s.snooped die n.req).map fun id => (id, n) } }
      s.dirNext n.req.space n.req.line

/-- What a copy becomes when its core answers a request: none, invalid. The host's read takes an M copy. A read from the
other die, or by an agent that keeps no copy (`.peer`), leaves an M or E copy shared. One on the own die leaves it the
nominated copy: the spec says neither what it becomes nor which of the two copies is nominated (DESIGN CHOICE, log 55). -/
def Coh.answer (c : Coh) (core : Nat) (r : CohReq) : Option Coh :=
  if c = .z then some .z
  else if r.write then none
  else
    match c, r.src with
    | .m, .host => none
    | .m, .core id => some (if coreDie id = coreDie core then .n else .s)
    | .e, .core id => some (if coreDie id = coreDie core then .n else .s)
    | .m, .peer _ => some .s
    | .e, _ => some .s
    | c, _ => some c

/-- A core's cache answers a request of another agent: a copy that is kept is clean. -/
def Core.answer (c : Core) (r : CohReq) : Core :=
  if r.src = .core c.id then c
  else
    { c with lines := c.lines.filterMap fun l =>
        if l.space = r.space ∧ l.line = r.line then (l.coh.answer c.id r).map fun k => { l with coh := k, back := [] }
        else some l }

/-- SNOOP_ANSWER: a core's snoop port answers its oldest snoop. -/
def State.snoopReply (s : State) (core : Nat) : State :=
  match s.coh.snoops.find? fun p => p.1 == core with
  | none => s
  | some p =>
    let r := p.2.req
    let s := s.updCore core (·.answer r)
    ({ s with coh := { s.coh with snoops := s.coh.snoops.erase p } }).dirNext r.space r.line

/-! ### The order of the network -/

/-- Nothing broadcast is undelivered or unanswered. -/
def State.quiet (s : State) : Bool := s.die0.notifs == [] && s.die1.notifs == [] && s.coh.snoops == []

/-- The next delivery or answer of what has been broadcast. -/
def State.settleStep (s : State) : State :=
  match s.coh.snoops, s.die0.notifs with
  | p :: _, _ => s.snoopReply p.1
  | [], _ :: _ => s.notifDeliver 0
  | [], [] => s.notifDeliver 1

def State.settleN : Nat → State → State
  | 0, s => s
  | n + 1, s => if s.quiet then s else State.settleN n s.settleStep

/-- What was broadcast before takes effect at every snooper before a later request does (R182): a request that a core
makes now, its write-backs and victim installs come after it (R176). -/
def State.settle (s : State) : State :=
  if s.quiet then s
  else
    s.settleN (s.coh.snoops.length
      + (s.die0.notifs.length + s.die1.notifs.length + 2 * s.coh.queued.length) * (s.cores.length + 1))

/-- Every copy answers a request (R183, R297). -/
def State.answerAll (s : State) (r : CohReq) : State :=
  if s.cores.any fun c => c.lines.any fun l => l.space == r.space && l.line == r.line then
    { s with cores := s.cores.map fun c => c.answer r }
  else s

/-- Copies of a line, Z copies apart, as (core, state). -/
def State.copies (s : State) (sp : Space) (line : Nat) : List (Nat × Coh) :=
  s.cores.flatMap fun c => (c.lines.filter fun l => l.space == sp && l.line == line && l.coh != .z).map fun l => (c.id, l.coh)

/-- The directory entry of a line follows the copies on the die that is not its home (R183). -/
def State.dirSync (s : State) (sp : Space) (line : Nat) (host : Option Bool) : State :=
  let cs := (s.copies sp line).filter fun c => coreDie c.1 != s.homeDie sp line
  s.putDir
    { space := sp, line := line, host := host, nominated := cs.any fun c => c.2 == .n
      other := firstSome (fun k => if cs.any fun c => c.2 == k then some k else none) [Coh.m, .e, .n, .s] }

/-- An access of an agent that keeps no copy (R172, R196): performed at the home slice, every copy answering. A page with
a freeze count is not snooped (R181). -/
def State.l2Request (s : State) (sp : Space) (line : Nat) (write : Bool) : State :=
  if sp = .dev ∧ s.freezeCount (line / 512) > 0 then s
  else
    let s := s.settle
    let host := (s.dirEntry sp line).host
    let t := s.answerAll { src := .peer 0, space := sp, line := line, write := write }
    if s.copies sp line = [] && host.isNone && (s.dirEntry sp line).other.isNone then t
    else t.dirSync sp line (if write then none else host.map fun _ => false)

/-- Such an access to [a, a + n) of a space. -/
def State.l2Touch (s : State) (p : Phys × Nat) (write : Bool) : State :=
  if p.1.unt then s else (linesOf p.1.addr p.2).foldl (fun s l => s.l2Request p.1.space l write) s

end Sys2Proof.Machine
end

