-- ==== Sys2Proof/Machine/Translate.lean ====
section
/-! DEFINITION. What the device's units read for themselves, context descriptors (R313), the page-table walk and its
judgement (R264 to R266, R268, R270), and the page key table of accesses that pass through no leaf (R307). No TLB entry is
kept: every access walks afresh (log 12). -/

namespace Sys2Proof.Machine

/-! ### Reads of the device's units -/

/-- The byte that the writes of some requests that stand by will store at a device place, the last of them (R290, R303). -/
def State.standing (s : State) (mine : MemReq → Bool) (a : Nat) : Option Byte :=
  s.coh.stalled.foldl (fun o r =>
    match r.write with
    | some bs => if mine r ∧ r.dla ≤ a ∧ a < r.dla + bs.length then bs[a - r.dla]? else o
    | none => o) none

/-- A byte that a unit of the device reads for itself: its own writes that stand by count; an uncorrectable line is not
delivered (R292), and reads zero (log 60). -/
def State.unitByte (s : State) (a : Nat) : Byte :=
  if s.bad.contains (lineOf a) then 0 else (s.standing (·.key == 0) a).getD (s.devByte a 0)

/-- A number of n bytes that a unit reads. -/
def State.unitNat (s : State) (a n : Nat) : Nat := leNat ((List.range n).map fun i => s.unitByte (a + i))

/-! ### Context descriptors (R313) -/

/-- Where a context's descriptor stands. -/
def State.ctxAddr (s : State) (ctx : Nat) : Nat := s.plat.ctxbase.toNat + 64 * ctx

/-- Word i of a context's descriptor. -/
def State.ctxWord (s : State) (ctx i : Nat) : Nat := s.unitNat (s.ctxAddr ctx + 8 * i) 8

def State.ctxValid (s : State) (ctx : Nat) : Bool :=
  s.ctxWord ctx 0 % 2 == 1 && fld (s.ctxWord ctx 0) 1 15 == 0 && fld (s.ctxWord ctx 1) 10 6 == 0
    && fld (s.ctxWord ctx 1) 17 47 == 0 && fld (s.ctxWord ctx 3) 16 48 == 0 && fld (s.ctxWord ctx 7) 12 52 == 0

/-- A read of a context's descriptor is held back (R290, R303). -/
def State.ctxHeld (s : State) (ctx : Nat) : Bool := s.held (s.ctxAddr ctx) false

/-- A context's descriptor reads uncorrectable (R292). -/
def State.ctxBad (s : State) (ctx : Nat) : Bool := s.bad.contains (lineOf (s.ctxAddr ctx))

/-- The reads of a unit from [a, a + n) of device memory are tracked: every copy answers (R182). -/
def State.unitTouch (s : State) (a n : Nat) : State := s.l2Touch (devPhys a, n) false

def State.ctxRoot (s : State) (ctx : Nat) : Nat := s.ctxWord ctx 0 / 65536 * 65536
def State.ctxTenant (s : State) (ctx : Nat) : Nat := fld (s.ctxWord ctx 1) 0 10
def State.ctxHapol (s : State) (ctx : Nat) : Bool := fld (s.ctxWord ctx 1) 16 1 == 1
def State.ctxSvcBase (s : State) (ctx : Nat) : Nat := s.ctxWord ctx 2
def State.ctxSvcN (s : State) (ctx : Nat) : Nat := fld (s.ctxWord ctx 3) 0 16
def State.ctxSaveSz (s : State) (ctx : Nat) : Nat := s.ctxWord ctx 5
def State.ctxCommTab (s : State) (ctx : Nat) : Nat := s.ctxWord ctx 6
def State.ctxCommN (s : State) (ctx : Nat) : Nat := fld (s.ctxWord ctx 7) 0 12

/-! ### The walk (R264, R265) -/

/-- How a walk ends. -/
inductive Walk
  | invalid
  | malformed
  | beyond
  /-- The entry is held back (R290, R303). -/
  | held
  /-- The entry reads uncorrectable (R292). -/
  | bad
  | leaf (pteAddr pte level : Nat)
  deriving DecidableEq, Repr

def pteV (e : Nat) : Bool := flag e 0
def pteR (e : Nat) : Bool := flag e 1
def pteW (e : Nat) : Bool := flag e 2
def pteX (e : Nat) : Bool := flag e 3
def pteA (e : Nat) : Bool := flag e 6
def pteD (e : Nat) : Bool := flag e 7
def pteUnt (e : Nat) : Bool := flag e 8
def pteTgt (e : Nat) : Nat := fld e 9 2
def pteKey (e : Nat) : Nat := fld e 12 12
/-- The output address of an entry: bits [55:16]. -/
def pteOA (e : Nat) : Nat := fld e 24 40 * 65536
def ptePointer (e : Nat) : Bool := !(pteR e) && !(pteW e) && !(pteX e)

/-- Bytes a leaf at a level maps: 64 KiB, 512 MiB or 4 TiB. -/
def levelSize (level : Nat) : Nat := 2 ^ (16 + 13 * level)

/-- The malformed entries of R265. -/
def pteMalformed (s : State) (ctx level e : Nat) : Bool :=
  flag e 11 || fld e 4 2 != 0
    || (ptePointer e && (level == 0 || pteTgt e != 0 || pteUnt e || pteA e || pteD e || pteKey e != 0))
    || (!(ptePointer e) && ((pteW e && !(pteR e)) || pteTgt e == 3 || pteOA e % levelSize level != 0
          || !(s.keyEnabled (pteKey e) ctx)))

/-- The walk from a table at level n − 1 downwards. -/
def State.walk (s : State) (ctx va table : Nat) : Nat → Walk
  | 0 => .malformed
  | n + 1 =>
    let pteAddr := table + 8 * fld va (16 + 13 * n) 13
    let e := s.devNat pteAddr 8
    if s.mem.lim * 65536 ≤ pteAddr then .beyond
    else if s.held pteAddr false then .held
    else if s.bad.contains (lineOf pteAddr) then .bad
    else if !(pteV e) then .invalid
    else if pteMalformed s ctx n e then .malformed
    else if ptePointer e then s.walk ctx va (pteOA e) n
    else .leaf pteAddr e n

/-- The walk of an address in a context: the root stands in its descriptor, which is held back or uncorrectable as an
entry is. -/
def State.walkFrom (s : State) (ctx va : Nat) : Walk :=
  if s.ctxHeld ctx then .held
  else if s.ctxBad ctx then .bad
  else s.walk ctx va (s.ctxRoot ctx) 3

/-- The entries that a walk reads, to its leaf or to where it ends. -/
def State.walkReads (s : State) (ctx va table : Nat) : Nat → List Nat
  | 0 => []
  | n + 1 =>
    let pteAddr := table + 8 * fld va (16 + 13 * n) 13
    let e := s.devNat pteAddr 8
    if s.mem.lim * 65536 ≤ pteAddr || s.held pteAddr false then []
    else
      pteAddr :: if !(s.bad.contains (lineOf pteAddr)) && pteV e && !(pteMalformed s ctx n e) && ptePointer e then
          s.walkReads ctx va (pteOA e) n
        else []

/-- The reads of a walk are tracked, those of the context's descriptor and of the entries: every copy of their lines answers
(R182, R268). -/
def State.walkTouch (s : State) (ctx va : Nat) : State :=
  (s.ctxAddr ctx :: s.walkReads ctx va (s.ctxRoot ctx) 3).foldl (fun s a => s.unitTouch a 8) s

/-- Walks of some addresses. -/
def State.walked (s : State) (ctx : Nat) (vas : List Nat) : State := vas.foldl (fun s a => s.walkTouch ctx (a % 2 ^ 55)) s

/-- A launch fault of a class that a translation finds (R266, R271). -/
def walkClass (cls : Nat) : Bool := [0x10, 0x13, 0x14, 0x15, 0x16, 0x18].contains cls

/-- The walk that found a launch fault at an address. -/
def State.faultWalk (s : State) (ctx cls addr : Nat) : State := if walkClass cls then s.walked ctx [addr] else s

/-! ### Judgement (R266) -/

/-- How a translation is judged: the physical place, a repairable translation fault (cause 0 invalid, 1 permission),
a launch fault class (R271), or an access that stalls (R191, R290, R303). -/
inductive Judged
  | ok (p : Phys)
  | trans (cause : Nat)
  | launch (cls : Nat)
  | stall
  deriving DecidableEq, Repr

/-- The permission a kind of access needs. -/
def permitted (acc : Acc) (e : Nat) : Bool :=
  match acc with
  | .load => pteR e
  | .store => pteW e
  | .fetch => pteX e
  | .atomic => pteR e && pteW e

def accWrites : Acc → Bool
  | .store => true
  | .atomic => true
  | _ => false

/-- ACC bits of a fault record (R272). -/
def accBits : Acc → Nat
  | .load => 1
  | .store => 2
  | .fetch => 4
  | .atomic => 8

/-- Bits [63:55] of a canonical address equal bit 54 (R264). -/
def canonical (va : Nat) : Bool := fld va 54 10 == 0 || fld va 54 10 == 1023

/-- The physical place a leaf gives an address. -/
def leafPhys (s : State) (va e level : Nat) : Phys :=
  let a := pteOA e + va % levelSize level
  match pteTgt e with
  | 0 => { space := .dev, addr := a, key := s.keyOf (pteKey e), unt := pteUnt e }
  | 1 => { space := .host, addr := a % 2 ^ 52, key := 0, unt := pteUnt e }
  | _ => { space := .peer, addr := a, key := 0, unt := pteUnt e }

/-- What stands in the way of an access to a physical place: frozen pages (R210), capacity (R266), the sweep's window
(R303), a page that the host moves (R290), an absent host (R318), a failed peer (R323). -/
def State.gate (s : State) (p : Phys) (writes : Bool) : Option Judged :=
  match p.space with
  | .dev =>
    match (if writes then s.writeGate (pageOf p.addr) else .free) with
    | .frozen => some (.launch 0x10)
    | .stall => some .stall
    | .free =>
      if s.mem.lim * 65536 ≤ p.addr then some (.launch 0x15)
      else if s.held p.addr false then some .stall
      else none
  | .host => if s.hc.present then none else some (.launch 0x16)
  | .peer => if s.plat.peerst.getLsbD (p.addr / 2 ^ 48) then some (.launch 0x18) else none

/-- An entry with A set, and D when the access writes (R270). -/
def pteMark (e : Nat) (writes : Bool) : Nat :=
  e + (if pteA e then 0 else 2 ^ 6) + (if writes && !(pteD e) then 2 ^ 7 else 0)

/-- A walker sets bits in an entry: a tracked write, asked of every copy (R182, R270). -/
def State.setPte (s : State) (pteAddr e : Nat) : State := (s.l2Touch (devPhys pteAddr, 8) true).setDevNat pteAddr 8 e

/-- What stands in the way of setting bits in a leaf, which is a write to its page: a frozen page changes by no store
(R191). The spec does not say what a walk does that must mark an entry of a frozen page: the class of a write there (DESIGN
CHOICE, log 66). -/
def State.markGate (s : State) (pteAddr : Nat) : Option Judged :=
  match s.writeGate (pageOf pteAddr) with
  | .frozen => some (.launch 0x10)
  | .stall => some .stall
  | .free => none

/-- The judgement of one address, and the state with the walk's reads asked of the copies, and the leaf's A and D bits
updated where the access goes on (log 52). An access that stalls walks again when it is replayed. -/
def State.judge (s : State) (ctx va : Nat) (acc : Acc) : Judged × State :=
  match s.walkFrom ctx va with
  | .invalid => (.trans 0, s.walkTouch ctx va)
  | .malformed => (.launch 0x13, s.walkTouch ctx va)
  | .beyond => (.launch 0x15, s.walkTouch ctx va)
  | .held => (.stall, s)
  | .bad => (.launch 0x14, s.walkTouch ctx va)
  | .leaf pteAddr e level =>
    let mark := pteMark e (accWrites acc)
    if !(permitted acc e) then (.trans 1, s.walkTouch ctx va)
    else
      match s.gate (leafPhys s va e level) (accWrites acc) <|> (if mark = e then none else s.markGate pteAddr) with
      | some .stall => (.stall, s)
      | some j => (j, s.walkTouch ctx va)
      | none =>
        (.ok (leafPhys s va e level),
          if mark = e then s.walkTouch ctx va else (s.walkTouch ctx va).setPte pteAddr mark)

/-- An address in each of the one or two pages of an access of n bytes. -/
def pagesOf (va n : Nat) : List Nat :=
  let first := min n (65536 - va % 65536)
  (va % 2 ^ 55) :: if first = n then [] else [(va + first) % 2 ^ 55]

/-- The translation of an access of n bytes (1 to 8, or a parcel): its places, one for each page it touches, with the
bytes in each. A fault names the address at which it is found. -/
def State.translate (s : State) (ctx va n : Nat) (acc : Acc) : Except (Judged × Nat) (List (Phys × Nat)) × State :=
  let first := min n (65536 - va % 65536)
  match s.judge ctx (va % 2 ^ 55) acc with
  | (.ok p, s') =>
    if first = n then (.ok [(p, n)], s')
    else
      match s'.judge ctx ((va + first) % 2 ^ 55) acc with
      | (.ok p2, s'') => (.ok [(p, first), (p2, n - first)], s'')
      | (j, _) => (.error (j, va + first), s)
  | (j, _) => (.error (j, va), s)

/-- The pages of an access that meet a repairable fault, each with its address, cause and access bits (R272, R273). -/
def State.transPages (s : State) (ctx va n : Nat) (acc : Acc) (canon : Nat → Nat) : List (Nat × Nat × Nat) :=
  let first := min n (65536 - va % 65536)
  ([va] ++ if first = n then [] else [va + first]).filterMap fun a =>
    match (s.judge ctx (a % 2 ^ 55) acc).1 with
    | .trans c => some (canon a, c, accBits acc)
    | _ => none

/-! ### The page key table (R307) -/

/-- Where the entry of a DLA stands. -/
def State.tableEntry (s : State) (a : Nat) : Nat := s.plat.pktbase.toNat / 65536 * 65536 + 2 * (a / 65536)

/-- The entry is held back: the access waits (R290, R303). -/
def State.tableHeld (s : State) (a : Nat) : Bool := bf s.plat.pktbase 0 1 == 1 && s.held (s.tableEntry a) false

/-- The read of an entry is tracked (R182). -/
def State.tableTouch (s : State) (a : Nat) : State :=
  if bf s.plat.pktbase 0 1 = 0 then s else s.unitTouch (s.tableEntry a) 2

/-- The same of an access that is refused: beyond the fault limit no entry is read. -/
def State.tableAsked (s : State) (a : Nat) : State := if s.mem.lim * 65536 ≤ a then s else s.tableTouch a

/-- The key slot of an access to a DLA that passes through no leaf; none: the access is not performed, as where the entry
reads uncorrectable (R292). -/
def State.tableSlot (s : State) (a : Nat) : Option Nat :=
  if bf s.plat.pktbase 0 1 = 0 then some 0
  else
    let e := s.devNat (s.tableEntry a) 2
    if s.bad.contains (lineOf (s.tableEntry a)) then none
    else if fld e 12 4 != 0 then none
    else if fld e 0 12 = 0 then some 0
    else if (s.keySlot (fld e 0 12)).en then some (fld e 0 12) else none

/-- The place of such an access. -/
def State.tablePhys (s : State) (a : Nat) : Option Phys :=
  match s.tableSlot a with
  | some k => some { space := .dev, addr := a, key := s.keyOf k, unt := false }
  | none => none

end Sys2Proof.Machine
end

