-- ==== Sys2Proof/Machine/Caches.lean ====
section
/-! DEFINITION. The cache of every core (R172, R173, R175, R179, R181), and the accesses by virtual address of agents that
keep no copy. Caches hold no data: a write is in memory at once (log 3), and what a dirty line of the host's memory would
lose with the host stands in it (`CLine.back`, R318). -/

namespace Sys2Proof.Machine

/-! ### Caches of the cores (R172, R173, R179) -/

/-- A line leaves every cache but one core's. -/
def State.dropLine (s : State) (sp : Space) (line : Nat) (except? : Option Nat) : State :=
  if s.cores.any (fun c => c.lines.any (fun l => l.space == sp && l.line == line) && some c.id != except?) then
    { s with cores := s.cores.map fun c =>
        if some c.id = except? then c
        else { c with lines := c.lines.filter fun l => !(l.space == sp && l.line == line) } }
  else s

/-- Sets of a core's cache: the cache portion of a vector core under its split, or the 64 KiB data cache of another
core, 8-way (R171, R179). -/
def Core.sets (c : Core) : Nat := if coreClass c.id = .vector then cacheSets c.cur else 64

/-- The ways that a slot's fills may take: data caches carry no masks (R173, R179). -/
def Core.wayMask (c : Core) (slot : Nat) : BitVec 16 :=
  if coreClass c.id = .vector then c.wmask.getD slot 0 else 0xFF

/-- The owner tag of a slot's fills: data caches carry none. -/
def Core.ownerTag (c : Core) (slot : Nat) : Option Nat := if coreClass c.id = .vector then some slot else none

/-- A core's copy of a line. -/
def Core.copy (c : Core) (sp : Space) (line : Nat) : Option CLine := c.lines.find? fun l => l.space == sp && l.line == line

/-- Members of a core's victim pool by its SIZE, ascending in IDX (R175). -/
def poolMembers (c : Core) : List Nat :=
  let base := c.id / 64 * 64
  let idx := c.id % 64
  if c.vsize = 1 then [base + idx / 2 * 2, base + idx / 2 * 2 + 1]
  else if c.vsize = 2 then (List.range 4).map fun i => base + idx / 4 * 4 + i
  else []

/-- POK of a core (R175). -/
def State.poolOk (s : State) (id : Nat) : Bool :=
  let c := s.core id
  poolMembers c != [] && c.cur != 0
    && (poolMembers c).all fun m =>
        let d := s.core m
        d.vsize == c.vsize && d.cur == c.cur && !d.pend && d.inService

/-- Lines of a core in the set of a line. -/
def Core.setLines (c : Core) (line : Nat) : List CLine :=
  c.lines.filter fun l => l.line % c.sets == line % c.sets

/-- Lines that the gather reservations of a core's strands lock in its cache: those whose element was performed there
(R198). -/
def State.lockedLines (s : State) (id : Nat) : List (Space × Nat) :=
  (s.onCore id).flatMap fun t => (t.res.map fun r => r.2).filter fun l => !(t.resL2.contains l)

/-- The way a fill takes under a mask: the lowest invalid permitted way, else that of the least recently used
permitted line that is not locked; with the line it displaces. A portion of no bytes takes none (R171). -/
def Core.chooseWay (c : Core) (line : Nat) (mask : BitVec 16) (locked : List (Space × Nat)) :
    Option (Nat × Option CLine) :=
  if c.sets = 0 then none
  else
    let here := c.setLines line
    match (List.range 16).find? fun w => mask.getLsbD w && !(here.any fun l => l.way == w) with
    | some w => some (w, none)
    | none =>
      match (here.filter fun l => mask.getLsbD l.way && !(locked.contains (l.space, l.line))).getLast? with
      | some l => some (l.way, some l)
      | none => none

/-- A dirty line that leaves the caches is written back, and the directory knows (R182, R183). -/
def State.writeBack (s : State) (l : CLine) : State :=
  if l.coh = .m then s.dirSync l.space l.line (s.dirEntry l.space l.line).host else s

/-- A victim installed in the next member of the pool that permits it; the line it displaces leaves the pool, as the
victim does that no member takes (R175). Where that member holds the line already, from before the pool came into force,
the spec does not say what becomes of the two: the victim stands beside the first copy (DESIGN CHOICE, log 65). -/
def State.installVictim (s : State) (id : Nat) (victim : CLine) : State :=
  let ms := if s.poolOk id then poolMembers (s.core id) else []
  let way (m : Nat) := (s.core m).chooseWay victim.line (s.core m).vway (s.lockedLines m)
  match firstSome (fun m => (way m).map fun w => (m, w)) (ms.filter (· > id) ++ ms.filter (· < id)) with
  | none => s.writeBack victim
  | some (m, w, out) =>
    let s := s.updCore m fun c =>
      { c with lines := { victim with way := w, owner := none } :: c.lines.filter fun l => some l != out }
    match out with
    | some l => s.writeBack l
    | none => s

/-- The copy that another member of the pool in force holds (R175). -/
def State.pooled (s : State) (id : Nat) (sp : Space) (line : Nat) : Option CLine :=
  if s.poolOk id then firstSome (fun m => if m = id then none else (s.core m).copy sp line) (poolMembers (s.core id))
  else none

/-- A probe hit in the pool moves the line out of the member that held it (R175). Where several members hold it the spec
does not say which copy moves: the copy of the lowest IDX does, and the others are dropped (DESIGN CHOICE, log 65). -/
def State.leavePool (s : State) (id : Nat) (sp : Space) (line : Nat) : State :=
  { s with cores := s.cores.map fun c =>
      if c.id != id && (poolMembers (s.core id)).contains c.id then
        { c with lines := c.lines.filter fun l => !(l.space == sp && l.line == line) }
      else c }

/-- Coherence state of a new copy (R181, R183): Z of a frozen page; M for a write; E when no other copy exists, at a core
or at the host; S when a copy on the same die answers; else the nominated copy of its die. R183 has a read that the home
slice serves make an N copy, R181 calls the only copy of a clean line E: a reader that no copy and no holding is beside
gets E (DESIGN CHOICE, log 55). -/
def State.newCoh (s : State) (id : Nat) (sp : Space) (line : Nat) (write : Bool) : Coh :=
  if sp = .dev ∧ s.freezeCount (line / 512) > 0 then .z
  else if write then .m
  else
    let cs := (s.copies sp line).filter fun c => c.1 != id
    if cs = [] && (s.dirEntry sp line).host.isNone then .e
    else if cs.any fun c => coreDie c.1 == coreDie id && (c.2 == .m || c.2 == .e || c.2 == .n) then .s
    else .n

/-- The bytes of a line of host memory, which a loss of the host brings back while the line is dirty (R318). -/
def State.backOf (s : State) (sp : Space) (line : Nat) : List Byte :=
  if sp = .host then s.host.read (line * 128) 128 else []

/-- A core's copy used: it becomes the most recently used, in a state (R172). -/
def State.hit (s : State) (id : Nat) (l : CLine) (coh : Coh) : State :=
  let l' : CLine :=
    { l with coh := coh, back := if coh = .m ∧ l.coh ≠ .m then s.backOf l.space l.line else l.back }
  s.updCore id fun c => { c with lines := l' :: c.lines.filter fun k => k != l }

/-- A core's request for a line broadcast and answered by every other copy; the directory follows (R182, R183). The copy
it makes, or takes for itself, is placed by `f` in the state it gets. -/
def State.coreRequest (s : State) (id : Nat) (sp : Space) (line : Nat) (write : Bool) (f : State → Coh → State) : State :=
  let coh := s.newCoh id sp line write
  if coh = .z then f s coh
  else
    let host := (s.dirEntry sp line).host
    let t := f (s.answerAll { src := .core id, space := sp, line := line, write := write }) coh
    if host.isNone && (s.dirEntry sp line).other.isNone
        && ((s.copies sp line ++ t.copies sp line).all fun c => coreDie c.1 == s.homeDie sp line) then t
    else t.dirSync sp line (if write then none else host.map fun _ => false)

/-- A line placed in a way of a core, the displaced line becoming a victim (R172, R175). -/
def State.putLine (s : State) (id : Nat) (l : CLine) (out : Option CLine) : State :=
  let s := s.updCore id fun c => { c with lines := l :: c.lines.filter fun k => some k != out }
  match out with
  | some v => s.installVictim id v
  | none => s

/-- A miss of a strand slot: the line comes from another member of the pool as it is, or by a request, into the way the
slot's mask gives it; with no way the access is performed at the home slice (R172, R173, R175). -/
def State.fill (s : State) (id slot : Nat) (sp : Space) (line : Nat) (write : Bool) : State :=
  match (s.core id).chooseWay line ((s.core id).wayMask slot) (s.lockedLines id) with
  | none => s.l2Request sp line write
  | some (w, out) =>
    let l (coh : Coh) (back : List Byte) : CLine :=
      { space := sp, line := line, way := w, owner := (s.core id).ownerTag slot, coh := coh, back := back }
    match s.pooled id sp line with
    | some v =>
      if !write || v.coh = .m then (s.leavePool id sp line).putLine id (l v.coh v.back) out
      else
        (s.leavePool id sp line).coreRequest id sp line true fun s coh => s.putLine id (l coh (s.backOf sp line)) out
    | none =>
      s.coreRequest id sp line write fun s coh =>
        s.putLine id (l coh (if coh = .m then s.backOf sp line else [])) out

/-- An access of a strand slot to a tracked line passes the core's cache: a hit that needs no permission is the core's
own; every other access is a request, ordered after what was broadcast before (R172, R182). -/
def State.cacheAccess (s : State) (id slot : Nat) (sp : Space) (line : Nat) (write : Bool) : State :=
  let own (l : CLine) : Bool := !write || l.coh == .m || l.coh == .e
  match (s.core id).copy sp line with
  | some l =>
    if own l then s.hit id l (if write then .m else l.coh)
    else
      let s := s.settle
      match (s.core id).copy sp line with
      | some l => s.coreRequest id sp line true fun s coh => s.hit id l coh
      | none => s.fill id slot sp line true
  | none => s.settle.fill id slot sp line write

/-- SOCCn: lines tagged with a slot (R173). -/
def Core.socc (c : Core) (slot : Nat) : Nat := (c.lines.filter fun l => l.owner == some slot).length

/-! ### Accesses by virtual address of agents that keep no copy -/

/-- A line of a piece reads uncorrectable (R292). -/
def State.badPiece (s : State) (p : Phys × Nat) : Bool :=
  p.1.space == .dev && s.bad != [] && (linesOf p.1.addr p.2).any fun l => s.bad.contains l

/-- Pieces of a store written one after another. -/
def State.storePieces (s : State) (who : Option Nat) : List (Phys × Nat) → List Byte → State
  | [], _ => s
  | p :: ps, bs => ((s.l2Touch p true).writePhys p.1 (bs.take p.2) who).storePieces who ps (bs.drop p.2)

/-- The machine as the launch unit's own accesses see it: its stores to a held place stand by, and its reads are judged
after the hold (R290, R303). -/
def State.unheld (s : State) : State :=
  { s with
    mem := { s.mem with st := 0 }
    xl := { s.xl with locks := [] }
    cat := { s.cat with collecting := [], jobs := [] } }

/-- n bytes (at most 64 KiB) read through a context's tables by the launch unit; a read that is held back stalls (R290,
R303). -/
def State.loadVirt (s : State) (ctx va n : Nat) : Except (Judged × Nat) (List Byte × State) :=
  match s.translate ctx va n .load with
  | (.error j, _) => .error j
  | (.ok ps, s') =>
    if ps.any s.badPiece then .error (.launch 0x14, va)
    else .ok (ps.flatMap fun p => s'.readPhys p.1 p.2, s')

/-- What such a read asks of the copies: its walks and, where it is made, its lines (R182, R268). -/
def State.touchVirt (s : State) (ctx va n : Nat) : State :=
  match s.translate ctx va n .load with
  | (.error _, _) => s.walked ctx (pagesOf va n)
  | (.ok ps, s') => ps.foldl (fun s p => s.l2Touch p false) s'

/-- What a read of [a, a + n) asks. -/
def State.touchRange (s : State) (ctx a n : Nat) : State :=
  (List.range ((n + 4095) / 4096)).foldl
    (fun s i => s.touchVirt ctx ((a + 4096 * i) % 2 ^ 55) (min 4096 (n - 4096 * i))) s

/-- The bytes of a piece as requests that stand by (R303). -/
def heldBytes (lid : Nat) (p : Phys) (bs : List Byte) : List MemReq :=
  (bs.zipIdx).map fun x =>
    { stack := 0, dla := p.addr + x.2, lid := lid, write := some [x.1], key := p.key, unit := true }

/-- A piece cut at the 4 KiB granules of device memory, in which holds begin and end (R298, R303). -/
def granuleParts (p : Phys × Nat) : List (Phys × Nat) :=
  if p.1.addr % 4096 + p.2 ≤ 4096 then [p]
  else
    (List.range ((p.1.addr + p.2 - 1) / 4096 + 1 - p.1.addr / 4096)).map fun i =>
      let lo := max p.1.addr ((p.1.addr / 4096 + i) * 4096)
      ({ p.1 with addr := lo }, min (p.1.addr + p.2) ((p.1.addr / 4096 + i + 1) * 4096) - lo)

/-- Pieces of a store of the launch unit, each within a granule: those to a held place stand by. One that goes through no
tables is not performed on a frozen page, which changes by no store (R191): the spec says of no unit what it does then
(DESIGN CHOICE, log 66). -/
def State.storeParts (s : State) (lid : Nat) : List (Phys × Nat) → List Byte → State
  | [], _ => s
  | p :: ps, bs =>
    let s :=
      if p.1.space = .dev ∧ (s.held p.1.addr false || s.writeGate (pageOf p.1.addr) = .stall) then
        { s with coh := { s.coh with stalled := s.coh.stalled ++ heldBytes lid p.1 (bs.take p.2) } }
      else if p.1.space = .dev ∧ s.writeGate (pageOf p.1.addr) = .frozen then s
      else (s.l2Touch p true).writePhys p.1 (bs.take p.2) none
    s.storeParts lid ps (bs.drop p.2)

/-- Pieces of a store of the launch unit. -/
def State.storeUnit (s : State) (lid : Nat) (ps : List (Phys × Nat)) (bs : List Byte) : State :=
  s.storeParts lid (ps.flatMap granuleParts) bs

/-- The walk of a page that the launch unit stores to: its reads are asked of the copies (R268), and a bit that is to be
set in the leaf, which lies in its low byte, is a store of the unit's own (R270). -/
def State.unitMark (s : State) (ctx lid va : Nat) : State :=
  match s.unheld.walkFrom ctx va with
  | .leaf pteAddr e _ =>
    let t := s.walkTouch ctx va
    if pteMark e true = e then t else t.storeUnit lid [(devPhys pteAddr, 1)] (leBytes 1 (pteMark e true))
  | _ => s

/-- Bytes (at most 64 KiB) stored through a context's tables by the launch unit, for a launch. -/
def State.storeVirt (s : State) (ctx va : Nat) (bs : List Byte) (lid : Nat) : Except (Judged × Nat) State :=
  match s.unheld.translate ctx va bs.length .store with
  | (.error j, _) => .error j
  | (.ok ps, _) => .ok (((pagesOf va bs.length).foldl (fun s a => s.unitMark ctx lid a) s).storeUnit lid ps bs)

end Sys2Proof.Machine
end

