-- ==== Sys2Proof/Machine/Lanes.lean ====
section
/-! DEFINITION. Lane groups and the vector configuration: renegotiation of the grant (R34), lane wait (R35), the
legality of a VTYPE (R63), and `vsetl` as a whole (R115). -/

namespace Sys2Proof.Machine

/-! ### VTYPE (R63) -/

def vtVill (t : Word) : Bool := t.getLsbD 63
/-- Element width in bits. -/
def vtEw (t : Word) : Nat :=
  match bf t 0 3 with
  | 0 => 8
  | 1 => 16
  | 2 => 32
  | 3 => 64
  | _ => 4
def vtFam (t : Word) : Nat := bf t 3 2
def vtAlt (t : Word) : Bool := t.getLsbD 5
/-- Grouping factor: 1, 2, 4 or 8. -/
def vtGrp (t : Word) : Nat := 2 ^ bf t 6 2
def vtSlc (t : Word) : Nat := bf t 8 3

/-- The requested images that R63 makes illegal. -/
def vtIllegal (t : Word) : Bool :=
  t.getLsbD 63 || bf t 14 49 != 0 || t.getLsbD 11
    || bf t 0 3 ≥ 5 || bf t 3 2 == 3
    || (t.getLsbD 5 && !(bf t 3 2 == 2 && bf t 0 3 ≤ 1))
    || (bf t 0 3 == 4 && bf t 3 2 == 2)
    || bf t 8 3 == 1
    || (bf t 8 3 != 0 && !(bf t 0 3 == 3 && bf t 3 2 == 2))

/-- VLMAX (R31): bytes of the grant's group of registers over the element size, at most 4,096. -/
def vlMax (g : Nat) (t : Word) : Nat := min 4096 (g * 1024 * vtGrp t * 8 / vtEw t)

/-! ### Vector state -/

/-- v0 to v31 and k0 to k7 become zero (R34). -/
def Strand.zeroVector (t : Strand) : Strand := { t with v := Vector.replicate 32 0, k := Vector.replicate 8 0 }

/-- Writes an x register of the strand's own file; x0 discards (R57). -/
def Strand.setX (t : Strand) (r : Reg) (v : Word) : Strand := if r = 0 then t else { t with x := t.x.set r v }

/-- VTYPE, VL, VSTART and xd after the grant is settled (R115); VL is no longer a fault-only-first load's (R145). -/
def Strand.setVtype (t : Strand) (r : VsetReq) : Strand :=
  let t := { t with trimAt := none }
  let t :=
    if vtIllegal r.image then { t with vtype := villOnly, vl := 0, vstart := 0 }
    else
      let vt := r.image &&& ~~~(0x3000 : Word)
      let avl := match r.avl with | some a => a.toNat | none => vlMax t.g vt
      { t with vtype := vt, vl := min avl (vlMax t.g vt), vstart := 0 }
  t.setX r.rd (BitVec.ofNat 64 t.vl)

/-- LGREQ after "keep" with no grant is read as a request for one (R34). -/
def lgreqOf (image : Word) (g : Nat) : Nat := if bf image 12 2 = 0 ∧ g = 0 then 1 else bf image 12 2

/-- The strand owns lane-local scratch: it can hold only its lane groups of placement (R34). -/
def Strand.ownsScratch (t : Strand) : Bool := t.scratchBytes != 0 && t.cls == .vector

/-- Lane groups a request asks for (R34). -/
def Strand.wants (t : Strand) (req : Nat) : Nat :=
  if t.ownsScratch then t.lstage else if req = 3 then 4 else req

/-- Lane groups a strand could take for a request, with those its slot holds: `none` when it has to wait (R34, R35). A
scratch owner takes those its scratch stands in, `lanes0`; one that came to this core without a grant stands in none yet
and takes any (log 56). -/
def State.offer (s : State) (t : Strand) (req : Nat) : Option Nat :=
  if t.cls != .vector then some (min (t.wants req) 4)
  else
    let c := s.core t.core
    let avail := (c.lanesOf t.slot).length + c.freeLanes.length
    if t.ownsScratch then
      if t.lanes0.length = t.lstage then
        if t.lanes0.all fun p => c.lat.getD p none == none || c.lat.getD p none == some t.slot then some t.lstage
        else none
      else if t.lstage ≤ avail then some t.lstage
      else none
    else if avail = 0 then none
    else some (min (t.wants req) avail)

/-- The slot holds `new` lane groups: the highest held are released, or the lowest free are taken (R34); of a scratch owner
those of placement, and any other that `latw` gave it is released. -/
def State.regrant (s : State) (t : Strand) (new : Nat) : State :=
  if t.cls != .vector then s
  else
    s.updCore t.core fun c =>
      if t.ownsScratch && t.lanes0.length == t.lstage then
        (c.dropLanes ((c.lanesOf t.slot).filter fun p => !(t.lanes0.contains p))).giveLanes t.slot t.lanes0
      else if new < (c.lanesOf t.slot).length then c.dropLanes ((c.lanesOf t.slot).drop new)
      else c.giveLanes t.slot (c.freeLanes.take (new - (c.lanesOf t.slot).length))

/-- A scratch owner's groups of placement are those its slot holds once it has a grant (R34). -/
def State.settleLanes (s : State) (t : Strand) : Strand :=
  if t.ownsScratch && t.lanes0.length != t.lstage then { t with lanes0 := (s.core t.core).lanesOf t.slot } else t

/-- A renegotiation that changes the grant, on the strand's side (R34). -/
def Strand.regranted (t : Strand) (req new : Nat) : Strand :=
  let t' := if t.g = 0 then t.zeroVector else t
  { t' with g := new, nr := false, short := !t.ownsScratch && req != 3 && new < t.wants req }

/-- What R34 does before VL is computed: the machine and strand with the grant settled, or the lane groups wanted. -/
def State.renegotiate (s : State) (t : Strand) (image : Word) : Except Nat (State × Strand) :=
  let req := lgreqOf image t.g
  if req = 0 then .ok (s, { t with nr := false, short := false })
  else if t.vdirty != 0 then .ok (s, { t with nr := true, short := false })
  else
    match s.offer t req with
    | some new => .ok (s.regrant t new, (s.regrant t new).settleLanes (t.regranted req new))
    | none => .error (t.wants req)

/-- `vsetl` of the strand: completed on the machine and strand, or a lane wait. -/
def State.vset (s : State) (t : Strand) (r : VsetReq) : Except Nat (State × Strand) :=
  match s.renegotiate t r.image with
  | .ok (s', t') => .ok (s', t'.setVtype r)
  | .error want => .error want

/-! ### Lane wait (R35) -/

/-- A strand of a launch that is being pre-empted: it is saved as it stands (R37, R258). -/
def State.beingSaved (s : State) (t : Strand) : Bool :=
  !t.system && s.lu.launches.any fun l => l.lid == t.lid && l.st == .preempting

/-- A user strand whose slot is disabled: it is displaced (R253). -/
def State.slotLost (s : State) (t : Strand) : Bool := !t.system && !((s.core t.core).sen.getLsbD t.slot)

/-- Strands in lane wait on a core, in order of entry and then of slot; those about to be saved or displaced leave the wait
as they are (R37). -/
def State.laneWaiters (s : State) (id : Nat) : List (Nat × Nat × Nat × VsetReq) :=
  let ws := s.strands.filterMap fun t =>
    match t.status with
    | .waiting (.lane o _ r) => if t.core = id ∧ s.beingSaved t = false ∧ s.slotLost t = false then some (o, t.slot, t.uid, r) else none
    | _ => none
  sortBy (fun a b => a.1 < b.1 || (a.1 == b.1 && a.2.1 < b.2.1)) ws

/-- One waiter takes what R34 lets it take from the groups now free; its `vsetl` then completes. -/
def State.laneServe (s : State) (uid : Nat) (r : VsetReq) : State :=
  match s.strand uid with
  | none => s
  | some t =>
    match s.vset t r with
    | .ok (s', t') => s'.updStrand uid fun _ => { t' with status := .running, asked := 0, pc := t'.pc + 4 }
    | .error _ => s

/-- Free lane groups of a core go to its waiting strands in order (R35). -/
def State.laneGrant (s : State) (id : Nat) : State :=
  (s.laneWaiters id).foldl (fun s w => s.laneServe w.2.2.1 w.2.2.2) s

/-- The next order number of a lane wait. -/
def State.laneOrder (s : State) : Nat :=
  s.strands.foldl (fun n t => match t.status with | .waiting (.lane o _ _) => max n (o + 1) | _ => n) 0

end Sys2Proof.Machine
end

