-- ==== Sys2Proof/Machine/Catalogue.lean ====
section
/-! DEFINITION. The freeze catalogue (R208 to R214): taking an entry at a freeze point, thawing, and collection. -/

namespace Sys2Proof.Machine

/-- A freeze handle (R208). -/
def handleWord (gen : BitVec 32) (idx : Nat) : Word := BitVec.ofNat 64 (gen.toNat * 2 ^ 16 + idx)

/-- The lowest-numbered free catalogue entry. -/
def State.freeEntry (s : State) : Option Nat :=
  (List.range 512).find? fun i => !(s.cat.entries.any fun e => e.idx == i)

/-- The generation the next use of an index takes: one more, skipping 0 (R209). -/
def State.nextGen (s : State) (idx : Nat) : BitVec 32 :=
  let g := match s.cat.gens.find? (fun p => p.1 == idx) with | some p => p.2 | none => 0
  if g + 1 = 0 then 1 else g + 1

/-- The active entry a handle names in a context (R208). -/
def State.entryOf (s : State) (ctx : Nat) (h : Word) : Option FrzEntry :=
  if fld h.toNat 48 16 != 0 || fld h.toNat 9 7 != 0 then none
  else s.cat.entries.find? fun e => e.idx == fld h.toNat 0 9 && e.gen.toNat == fld h.toNat 16 32 && e.ctx == ctx

/-- The write-back of a device line waits: a window or a page move holds it back (R214, R290, R303, R305). -/
def State.backHeld (s : State) (b : WcBuf) : Bool :=
  b.space == .dev && (s.held (b.line * 128) false || s.locked (b.line / 512))

/-- A write-combining buffer of an agent of a strand becomes visible (R184); one that is held back stands by (R305). -/
def State.flushBuf (s : State) (b : WcBuf) (t : Strand) (vec : Bool) : State :=
  if s.backHeld b then
    { s with coh := { s.coh with stalled := s.coh.stalled ++ b.cells.map fun c =>
        { stack := 0, dla := c.1, lid := t.lid, write := some [c.2], key := b.key, uid := t.uid, combined := some vec } } }
  else
    b.cells.foldl (fun s c =>
      s.writePhys { space := b.space, addr := c.1, key := b.key, unt := true } [c.2] (if vec then none else some t.uid)) s

/-- The buffers of a strand's scalar agent, its vector agent, or both, are flushed (R184). -/
def State.flushWc (s : State) (uid : Nat) (scalar vector : Bool) : State :=
  match s.strand uid with
  | none => s
  | some t =>
    if (scalar && t.wcS != []) || (vector && t.wcV != []) then
      let s := if scalar then t.wcS.foldl (fun s b => s.flushBuf b t false) s else s
      let s := if vector then t.wcV.foldl (fun s b => s.flushBuf b t true) s else s
      s.updStrand uid fun t =>
        { t with wcS := if scalar then [] else t.wcS, wcV := if vector then [] else t.wcV }
    else s

/-- Accesses of a strand's scalar agent, its vector agent, or both, stand by: they are not performed yet (R290, R303, R305). -/
def State.standsBy (s : State) (uid : Nat) (scalar vector : Bool) : Bool :=
  s.coh.stalled.any fun r => r.uid == uid && r.engine.isNone &&
    match r.combined with
    | some vec => if vec then vector else scalar
    | none => uid != 0

/-- Directory entries of device pages. -/
def inPages (pages : List Nat) (e : DirEntry) : Bool := e.space == .dev && pages.contains (e.line / 512)

/-- Every tracked copy of device pages becomes a Z copy (R209): those of the cores' caches, and the host's, which the
directory no longer tracks. -/
def State.linesToZ (s : State) (pages : List Nat) : State :=
  { s with
    cores := s.cores.map fun c =>
      { c with lines := c.lines.map fun l =>
        if l.space = .dev ∧ pages.contains (l.line / 512) then { l with coh := .z } else l }
    coh := { s.coh with dir := s.coh.dir.filter fun e => !(inPages pages e) } }

/-- Holders of a new entry: the host, whose copies of the pages become reference copies (R209, R211). -/
def State.zHolders (s : State) (pages : List Nat) : BitVec 64 :=
  if s.coh.dir.any fun e => inPages pages e && e.host.isSome then 1 else 0

/-- Z copies of a device page leave every cache portion (invalidate-Z, R211). -/
def State.invalidateZ (s : State) (page : Nat) : State :=
  { s with cores := s.cores.map fun c =>
      { c with lines := c.lines.filter fun l => !(l.space == .dev && l.line / 512 == page && l.coh == .z) } }

/-- What stalled because of a freeze of some pages is judged again next, in order, now that it is over (R209, R215): requests
in flight, then the host's accesses. -/
def State.rejudge (s : State) (pages : List Nat) : State :=
  let on (a : Nat) : Bool := pages.contains (pageOf a)
  let reqs := (s.coh.stalled.filter fun r => on r.dla).map fun r : MemReq =>
    ({ row := .memoryRequestArrival, arg := { memReq := { r with stack := s.mem.stackOf (r.dla / 4096) } } } : Event)
  let hosts := (s.coh.hostReqs.filter fun r => on r.addr).map fun r : HostReq =>
    match r.write with
    | some bs => ({ row := .hostCxlMemWrite, arg := { addr := r.addr, n := r.n, bytes := bs } } : Event)
    | none => { row := .hostCxlMemRead, arg := { addr := r.addr, n := r.n } }
  { s with
    agenda := reqs ++ hosts ++ s.agenda
    coh := { s.coh with
      stalled := s.coh.stalled.filter fun r => !(on r.dla)
      hostReqs := s.coh.hostReqs.filter fun r => !(on r.addr) } }

/-- Write-backs to pages of a job stand by. -/
def State.backsStand (s : State) (pages : List Nat) : Bool :=
  s.coh.stalled.any fun r => r.combined.isSome && pages.contains (pageOf r.dla)

/-- The freeze point of a job (R209, R191), not while a page of the range is being collected (R215): stores that have
been performed but still stand in write-combining buffers are part of the frozen contents, and it waits for those held
back; copies become Z; the entry is made and its handle written; stores that stalled meet the frozen pages. Of two
freezes that passed the test for a free entry when one was left, the second finds none here: the spec tests only before the
freeze begins, and its status is that of R209 (DESIGN CHOICE, log 66). -/
def State.freezeJob (s : State) (j : FrzJob) : State :=
  if j.pages.any fun p => s.collecting p then s
  else
  let s := s.settle
  let s := s.strands.foldl (fun s t => s.flushWc t.uid true true) s
  if s.backsStand j.pages then s
  else
  match s.freeEntry with
  | none =>
    let s : State := { s with cat := { s.cat with jobs := s.cat.jobs.filter (fun k => k.uid != j.uid) } }
    (s.rejudge j.pages).updStrand j.uid fun t =>
      { t.setX j.rd 0x8000000000000002 with status := .running, pc := t.pc + 4 }
  | some i =>
    let g := s.nextGen i
    let e : FrzEntry := { idx := i, ctx := j.ctx, pages := j.pages, gen := g, thawing := false, ch := 0, thawer := none,
                          holders := s.zHolders j.pages }
    let cat : Catalogue := { s.cat with
      entries := sortBy (fun a b => a.idx < b.idx) (e :: s.cat.entries)
      gens := (i, g) :: s.cat.gens.filter (fun p => p.1 != i)
      jobs := s.cat.jobs.filter (fun k => k.uid != j.uid) }
    ((({ s with cat := cat } : State).linesToZ j.pages).rejudge j.pages).updStrand j.uid fun t =>
      { t.setX j.rd (handleWord g i) with status := .running, pc := t.pc + 4 }

/-- The header of a message (R204). -/
def msgHdr (kind och src : Nat) : Word := BitVec.ofNat 64 (kind * 2 ^ 60 + och * 2 ^ 56 + src)

/-- STRANDID of coordinates (R28). -/
def strandId (glin stage six : Nat) : Nat := glin * 256 + stage * 16 + six

def Strand.sid (t : Strand) : Nat := strandId t.glin t.stage t.six

/-- An entry whose collection is over is freed and the thaw message is on its way (R211). -/
def State.freeThawed (s : State) (e : FrzEntry) : State :=
  let s := { s with cat := { s.cat with entries := s.cat.entries.filter fun f => f.idx != e.idx } }
  match e.thawer with
  | none => s
  | some (lid, glin, stage, six) =>
    let m : Msg :=
      { ch := e.ch, hdr := msgHdr 4 e.ch.val (strandId glin stage six), payload := handleWord e.gen e.idx }
    { s with wire := s.wire ++ [{ lid := lid, glin := glin, stage := stage, six := six, msg := m }] }

/-- Pages an entry's collection still holds. -/
def State.entryCollecting (s : State) (idx : Nat) : List Nat :=
  (s.cat.collecting.filter fun c => c.1 == idx).map (·.2)

/-- `thaw` of an entry (R211): counts fall; pages that reach zero are collected, the Z copies of both dies go, and
every external holder is back-invalidated; with nothing to collect the entry is freed at once. -/
def State.startThaw (s : State) (e : FrzEntry) (ch : QReg) (thawer : Option (Nat × Nat × Nat × Nat)) : State :=
  let e' := { e with thawing := true, ch := ch, thawer := thawer }
  let zero := e.pages.filter fun p => s.freezeCount p == 1
  let rest := e.pages.filter fun p => s.freezeCount p != 1
  let entries := s.cat.entries.map fun f =>
    if f.idx = e.idx then e'
    else if !f.thawing && f.pages.any fun p => rest.contains p then { f with holders := f.holders ||| e.holders }
    else f
  let held := (List.range 64).filter fun n => e.holders.getLsbD n
  let s := { s with cat := { s.cat with
    entries := entries
    collecting := s.cat.collecting ++ zero.map fun p => (e.idx, p)
    acks := if zero = [] then s.cat.acks else s.cat.acks ++ held.map fun h => (e.idx, h) } }
  if zero = [] then s.freeThawed e'
  else
    let notif (p : Nat) : Notif := { req := { src := .host, space := .dev, line := p * 512, write := false }, invZ := true }
    { s with
      die0 := { s.die0 with notifs := s.die0.notifs ++ zero.map notif }
      die1 := { s.die1 with notifs := s.die1.notifs ++ zero.map notif } }

/-- Collection of an entry's pages is over: they are open, the entry is freed and the message posted (R211). -/
def State.endCollection (s : State) (idx : Nat) : State :=
  match s.cat.entries.find? fun e => e.idx == idx && e.thawing with
  | none => s
  | some e =>
    let s := (s.entryCollecting idx).foldl (fun s p => s.invalidateZ p) s
    ({ s with cat := { s.cat with collecting := s.cat.collecting.filter fun c => c.1 != idx } }).freeThawed e

end Sys2Proof.Machine
end

