-- ==== Sys2Proof/Machine/Launches.lean ====
section
/-! DEFINITION. The launch unit's shared operations: groups, bins and release (R240 to R245), placement of a group
(R246, R30), completion and kill of a launch (R48, R235, R241), messages and overflow pools (R204 to R207), exit of a
strand (R47), and the save pool's accounts (R259). -/

namespace Sys2Proof.Machine

/-! ### Launches and tenants -/

def State.launch (s : State) (lid : Nat) : Option Launch := s.lu.launches.find? fun l => l.lid == lid

def State.updLaunch (s : State) (lid : Nat) (f : Launch → Launch) : State :=
  { s with lu := { s.lu with launches := s.lu.launches.map fun l => if l.lid = lid then f l else l } }

def Launch.live (l : Launch) : Bool := l.st != .complete && l.st != .killed

/-- Groups of the grid (R26). -/
def Launch.groups (l : Launch) : Nat := l.lrec.nx * l.lrec.ny * l.lrec.nz

/-- Coordinates (gz, gy, gx) of a linear group number (R26). -/
def Launch.coords (l : Launch) (g : Nat) : Nat × Nat × Nat :=
  (g / l.lrec.nx / l.lrec.ny, g / l.lrec.nx % l.lrec.ny, g % l.lrec.nx)

/-- The group at coordinates, when it lies in the grid. -/
def Launch.groupAt (l : Launch) (z y x : Int) : Option Nat :=
  if 0 ≤ z ∧ z < l.lrec.nz ∧ 0 ≤ y ∧ y < l.lrec.ny ∧ 0 ≤ x ∧ x < l.lrec.nx then
    some ((z.toNat * l.lrec.ny + y.toNat) * l.lrec.nx + x.toNat)
  else none

/-- In-grid predecessors of a group (R240). -/
def Launch.preds (l : Launch) (g : Nat) : List Nat :=
  let c := l.coords g
  l.lrec.deps.filterMap fun d => l.groupAt (c.1 - d.1) (c.2.1 - d.2.1) (c.2.2 - d.2.2)

/-- In-grid successors of a group, in vector order (R241). -/
def Launch.succs (l : Launch) (g : Nat) : List Nat :=
  let c := l.coords g
  l.lrec.deps.filterMap fun d => l.groupAt (c.1 + d.1) (c.2.1 + d.2.1) (c.2.2 + d.2.2)

/-- An event that the outside asks of the launch unit: it waits while a place that it reads is held back, and is made again
when it can be (R290, R303). -/
def State.orWait (s : State) (e : Event) (held : Bool) (f : State → State) : State :=
  if held then
    if s.lu.waiting.contains e then s else { s with lu := { s.lu with waiting := s.lu.waiting ++ [e] } }
  else f { s with lu := { s.lu with waiting := s.lu.waiting.erase e } }

/-- Where a tenant's entry stands. -/
def State.tenantAddr (s : State) (n : Nat) : Nat := s.plat.tenbase.toNat + 8 * n

/-- Tenant table entry (R243): MAXP and WGT; an entry with a reserved bit set is rejected and counts as zero (R8; log
60). -/
def State.tenant (s : State) (n : Nat) : Nat × Nat :=
  let e := s.unitNat (s.tenantAddr n) 8
  if fld e 11 53 = 0 then (fld e 8 3, fld e 0 8) else (0, 0)

/-- What the scheduler reads of a context, its descriptor or its tenant's entry, is held back (R290, R303). -/
def State.tenantHeld (s : State) (ctx : Nat) : Bool := s.ctxHeld ctx || s.held (s.tenantAddr (s.ctxTenant ctx)) false

/-- Those reads are tracked (R182). -/
def State.tenantTouch (s : State) (ctx : Nat) : State :=
  (s.unitTouch (s.ctxAddr ctx) 64).unitTouch (s.tenantAddr (s.ctxTenant ctx)) 8

/-- The level of a launch and its effective level (R243). -/
def State.level0 (s : State) (l : Launch) : Nat := min l.lrec.prio (s.tenant (s.ctxTenant l.ctx)).1
def State.levelE (s : State) (l : Launch) : Nat :=
  if s.level0 l = 7 then 7 else min 6 (s.level0 l + l.age)

/-! ### Bins and release (R241, R245) -/

/-- The bin of a group (R245). -/
def Launch.binOf (l : Launch) (g : Nat) : Nat :=
  if l.lrec.nobin then 0
  else
    let c := l.coords g
    let a := (l.lrec.lbase + c.2.2 * 2 ^ l.lrec.sx + c.2.1 * 2 ^ l.lrec.sy + c.1 * 2 ^ l.lrec.sz) % 2 ^ 64
    (fld a 21 6 ^^^ fld a 27 6) ^^^ (fld a 33 6 ^^^ fld a 39 6) ^^^ fld a 45 3

/-- The launch a launch waits for has ended (R241, R242). -/
def State.afterDone (s : State) (l : Launch) : Bool :=
  l.lrec.after == 0 || match s.launch l.lrec.after with | some a => !a.live | none => true

/-- A group is ready (R241). -/
def State.groupReady (s : State) (l : Launch) (g : Nat) : Bool :=
  s.afterDone l && (l.preds g).all fun p => l.retired.contains p

/-- A group enters its bin, once (R241). -/
def Launch.release (l : Launch) (g : Nat) : Launch :=
  if l.retired.contains g || l.released.contains g then l
  else { l with released := g :: l.released, bins := l.bins.modify (l.binOf g) (· ++ [g]) }

/-- Every ready group of a launch is released, ascending (R241). -/
def State.releaseReady (s : State) (lid : Nat) : State :=
  match s.launch lid with
  | none => s
  | some l =>
    let gs := (List.range l.groups).filter fun g => s.groupReady l g
    s.updLaunch lid fun l => gs.foldl Launch.release l

/-- The non-empty bin that comes next, from the current one upwards and wrapping; where a decision finds the current bin
empty, that becomes the current one (R245, 20_scheduling_notes.md). -/
def Launch.nextBin (l : Launch) : Option Nat :=
  ((List.range 64).map fun i => (l.curBin + i) % 64).find? fun b => l.bins.getD b [] != []

/-- The current bin moves on from an empty bin. -/
def Launch.moveBin (l : Launch) : Launch := { l with curBin := l.nextBin.getD l.curBin }

/-- The next group of a launch (R245). -/
def Launch.nextGroup (l : Launch) : Option Nat :=
  match l.nextBin with
  | some b => (l.bins.getD b []).head?
  | none => none

/-! ### Placement (R246) -/

/-- The class of a class code in a record. -/
def clsOfCode (n : Nat) : Cls := if n = 1 then .control else if n = 2 then .vector else .array

def clsCode : Cls → Nat
  | .control => 1
  | .vector => 2
  | .array => 3

def StageRec.clas (g : StageRec) : Cls := clsOfCode g.cls

/-- Regions of a strand of a stage, rounded as R174 and R178 say. -/
def StageRec.need (g : StageRec) : Need :=
  { lanes := lanesOn g.clas g.l, scratch := g.scratch256 * 256, tiles := g.tiles, rows := g.accRows,
    act := g.act4k * 4096 }

/-- The core that takes a strand with these needs: the lowest of the class on the die with room (R246). -/
def State.pickCore (s : State) (die : Nat) (cls : Cls) (n : Need) : Option (Nat × Nat) :=
  firstSome (fun id => if s.fits id n then (s.freeSlot id).map fun sl => (id, sl) else none) (coresOf die cls)

/-- The lowest-numbered stack of a launch that no strand holds (R238). -/
def State.freeStack (s : State) (l : Launch) : Option Nat :=
  let used := s.strands.filterMap fun t => if t.lid = l.lid ∧ t.status ≠ .gone then t.stack else none
  (List.range l.lrec.stkN).find? fun k => !(used.contains k)

/-- Lane groups taken at placement. -/
def State.takeLanes (s : State) (id slot n : Nat) : State × List Nat :=
  let ps := (s.core id).freeLanes.take n
  (s.updCore id fun c => c.giveLanes slot ps, ps)

/-- An empty tile slot (R219). -/
def Tile.empty : Tile := { loading := false, valid := false, bfmt := 0, krows := 0, elems := [] }

/-- The exit address (R47). -/
def exitAddr : Word := 0x003FFFFFFFFFFFF0

/-- A strand of a launch as it starts (R30), on a core, in a slot, with physical lane groups and a stack. -/
def Launch.newStrand (l : Launch) (uid glin stage six core slot : Nat) (lanes : List Nat) (stack : Option Nat)
    (g : StageRec) : Strand :=
  let c := l.coords glin
  let sid := strandId glin stage six
  let sp := match stack with | some k => l.lrec.stkBase + (k + 1) * l.lrec.stkSz | none => 0
  { Strand.fresh uid with
    lid := l.lid, ctx := l.ctx, gx := c.2.2, gy := c.2.1, gz := c.1, glin := glin, stage := stage, six := six,
    core := core, slot := slot, pc := BitVec.ofNat 64 (l.text + g.entry),
    x := ((((Vector.replicate 32 (0 : Word)).set 1 exitAddr).set 2 (BitVec.ofNat 64 sp)).set 10 l.lrec.args).set 11
      (BitVec.ofNat 64 sid),
    g := g.l, lstage := g.l, lanes0 := lanes, tiles := List.replicate g.tiles Tile.empty, accRows := g.accRows,
    actBytes := g.act4k * 4096, scratchBytes := g.scratch256 * 256, stack := stack }

/-- One strand of a group placed on a die. -/
def State.placeOne (s : State) (l : Launch) (die glin stage six : Nat) (g : StageRec) : Option State :=
  match s.pickCore die g.clas g.need with
  | none => none
  | some (id, slot) =>
    let stack := if l.lrec.stkSz = 0 then none else s.freeStack l
    if l.lrec.stkSz != 0 && stack.isNone then none
    else
      let (s', ps) := s.takeLanes id slot g.need.lanes
      let t := l.newStrand s'.nextUid glin stage six id slot ps stack g
      some { s' with others := s'.others ++ [t], nextUid := s'.nextUid + 1 }

/-- The strands of a group as (stage, index, descriptor), in the order of R246. -/
def LaunchRec.strandList (r : LaunchRec) : List (Nat × Nat × StageRec) :=
  (r.stages.zipIdx).flatMap fun p => (List.range p.1.n).map fun i => (p.2, i, p.1)

/-- A group placed on a die, whole, or not at all (R246). -/
def State.placeGroup (s : State) (l : Launch) (die glin : Nat) : Option State :=
  l.lrec.strandList.foldl (fun o p => o.bind fun s => s.placeOne l die glin p.1 p.2.1 p.2.2) (some s)

/-- Free strand slots of a class on a die. -/
def State.freeSlotsOf (s : State) (die : Nat) (cls : Cls) : Nat :=
  ((coresOf die cls).map fun id =>
    let c := s.core id
    if c.inService && !c.pend then
      ((List.range (clsSlots cls)).filter fun n => c.sen.getLsbD n && !(s.slotTaken id n)).length
    else 0).sum

/-- The die of R246 for a test of fit on each: the one with more free slots of stage 0's class, die 0 on a tie. -/
def State.chooseDie (s : State) (cls : Cls) (fits0 fits1 : Bool) : Option Nat :=
  if fits0 && fits1 then some (if s.freeSlotsOf 1 cls > s.freeSlotsOf 0 cls then 1 else 0)
  else if fits0 then some 0
  else if fits1 then some 1
  else none

/-- The die on which the next group of a launch is placed. -/
def State.dieFor (s : State) (l : Launch) (glin : Nat) : Option Nat :=
  let cls := match l.lrec.stages with | g :: _ => g.clas | [] => .control
  s.chooseDie cls (s.placeGroup l 0 glin).isSome (s.placeGroup l 1 glin).isSome

/-! ### Messages (R204 to R207) -/

/-- The strand with coordinates in a launch, if it exists. -/
def State.strandAt (s : State) (lid glin stage six : Nat) : Option Strand :=
  s.strands.find? fun t =>
    t.lid == lid && t.glin == glin && t.stage == stage && t.six == six && t.status != .gone && !t.system

/-- A strand of a group that has been dispatched and is no more has exited. So has one of a group whose bit of the
scoreboard was set at acceptance, which is never placed: R207 speaks of targets not placed yet (DESIGN CHOICE, log 57). -/
def State.hasExited (s : State) (l : Launch) (glin stage six : Nat) : Bool :=
  (s.strandAt l.lid glin stage six).isNone && (l.placed.contains glin || l.retired.contains glin)

/-- Messages of a channel in an inbox, oldest first. -/
def Strand.channel (t : Strand) (ch : QReg) : List Msg := t.inbox.filter fun m => m.ch == ch

/-- The strand can take a message at once: it is placed, its inbox has room and no older message to the channel is
held (R207). -/
def State.canDeliver (_ : State) (l : Launch) (t : Strand) (ch : QReg) : Bool :=
  (match t.status with | .saved _ _ _ => false | _ => true) && t.inbox.length < 64
    && !(l.pool.any fun h => h.glin == t.glin && h.stage == t.stage && h.six == t.six && h.msg.ch == ch)

/-- How a message ends. -/
inductive Delivery
  | done (s : State)
  | exited
  | poolFull

/-- The lowest entry of the overflow pool that no held message takes. -/
def Launch.freeEntry (l : Launch) : Nat :=
  ((List.range (l.pool.length + 1)).find? fun i => !(l.pool.any fun h => h.slot == i)).getD 0

/-- A message held in the overflow pool of a launch (R207): it takes an entry of 32 bytes at OVFL, whose layout the spec
does not give and which nothing reads back (log 57). -/
def State.hold (s : State) (l : Launch) (h : HeldMsg) : State :=
  let bs := (List.range 32).map (Config.poolByte (strandId h.glin h.stage h.six) h.msg.hdr h.msg.payload)
  let slot := l.freeEntry
  let s := s.updLaunch l.lid fun l => { l with pool := l.pool ++ [{ h with slot := slot }] }
  match s.storeVirt l.ctx ((l.lrec.ovfl + 32 * slot) % 2 ^ 55) bs l.lid with
  | .ok s' => s'
  | .error _ => s

/-- A message that cannot be delivered now: held, or the pool is full. -/
def State.holdOr (s : State) (l : Launch) (h : HeldMsg) : Delivery :=
  if l.pool.length < l.lrec.ovflN then .done (s.hold l h) else .poolFull

/-- A message to a strand of a launch: into its inbox, into the overflow pool, or neither. -/
def State.deliver (s : State) (l : Launch) (glin stage six : Nat) (m : Msg) : Delivery :=
  if s.hasExited l glin stage six then .exited
  else
    match s.strandAt l.lid glin stage six with
    | some t =>
      if s.canDeliver l t m.ch then .done (s.updStrand t.uid fun t => { t with inbox := t.inbox ++ [m] })
      else s.holdOr l { glin := glin, stage := stage, six := six, msg := m, slot := 0 }
    | none => s.holdOr l { glin := glin, stage := stage, six := six, msg := m, slot := 0 }

/-- A message on its way to a strand. -/
def State.post (s : State) (lid glin stage six : Nat) (m : Msg) : State :=
  { s with wire := s.wire ++ [{ lid := lid, glin := glin, stage := stage, six := six, msg := m }] }

/-- Coordinates in the low bits of a STRANDID (R28). -/
def sidGlin (w : Nat) : Nat := fld w 8 24
def sidStage (w : Nat) : Nat := fld w 4 3
def sidSix (w : Nat) : Nat := fld w 0 4

/-- A STRANDID names a strand of a launch's grid and stages (R203). -/
def Launch.sidOk (l : Launch) (w : Nat) : Bool :=
  fld w 32 32 == 0 && fld w 7 1 == 0 && sidGlin w < l.groups
    && match l.lrec.stages[sidStage w]? with | some g => sidSix w < g.n | none => false

/-! ### Queue entries (R234, R235, R318) -/

def State.uqueue (s : State) (uq : Nat) : Option UQueue := s.lu.uqs.find? fun q => q.uq == uq

/-- The words of a queue's record that the device writes, from offset 0x08: QCTL with its PEND and HOLD, SSN, CSN,
NOTIFIED, FSN (R315); the other bits of QCTL stay the scheduler's, `ctl`. -/
def UQueue.words (q : UQueue) (ctl : Nat) : List Nat :=
  [fld ctl 0 8 + boolBit q.pend 8 + boolBit q.hold 9 + fld ctl 10 54 * 2 ^ 10, q.ssn, q.csn, q.notified, q.fsn]

/-- The record in device memory follows a queue's numbers (R315). -/
def State.storeRec (s : State) (q : UQueue) : State :=
  s.storeUnit 0 [(devPhys (q.recAddr + 8), 40)] ((q.words (s.unitNat (q.recAddr + 8) 8)).flatMap (leBytes 8))

/-- A queue's numbers as its record holds them (R315), FSN never falling (R316); while the host is absent it is frozen
(R318). -/
def State.reread (s : State) (q : UQueue) : UQueue :=
  let w (i : Nat) : Nat := s.unitNat (q.recAddr + 8 * i) 8
  { q with
    ring := w 0 / 32 * 32, rlog := fld (w 1) 0 5, pend := flag (w 1) 8, hold := flag (w 1) 9 || !s.hc.present,
    ctx := fld (w 1) 16 12, ssn := w 2, csn := w 3, notified := w 4, fsn := max q.fsn (w 5) }

/-- A queue's record reads correctly, and its reserved fields are zero (R8, R292, R315). -/
def State.recClean (s : State) (a : Nat) : Bool :=
  let c := s.unitNat (a + 8) 8
  !(s.bad.contains (lineOf a)) && fld c 5 3 == 0 && fld c 10 6 == 0 && fld c 28 36 == 0 && s.unitNat (a + 0x30) 16 == 0

/-- A queue's record is held back (R290, R303). -/
def State.recHeld (s : State) (a : Nat) : Bool := s.held a false || s.held (a + 63) false

/-- A queue is mapped. -/
def State.uqMapped (s : State) (uq : Nat) : Bool := s.lu.slots.any fun p => p.mapped && p.uq == uq

/-- A queue's numbers: the launch unit's own while it is mapped, else its record's (R263). -/
def State.numbers (s : State) (q : UQueue) : UQueue := if s.uqMapped q.uq then q else s.reread q

/-- A queue changed, with its record in memory. -/
def State.updUq (s : State) (uq : Nat) (f : UQueue → UQueue) : State :=
  match s.uqueue uq with
  | none => s
  | some q =>
    let q' := f (s.numbers q)
    ({ s with lu := { s.lu with uqs := s.lu.uqs.map fun p : UQueue => if p.uq = uq then q' else p } } : State).storeRec q'

def UQueue.entryAddr (q : UQueue) (seq : Nat) : Nat := q.ring + 32 * (seq % 2 ^ q.rlog)

/-- A place in a ring: rings are addressed directly in their space; device rings are read under the device key. -/
def ringPhys (q : UQueue) (a : Nat) : Phys := { space := q.space, addr := a, key := 0, unt := false }

/-- CSN moves up over finished entries (R235). -/
def UQueue.advance (q : UQueue) : Nat → UQueue
  | 0 => q
  | n + 1 =>
    if q.doneAbove.contains (q.csn + 1) then
      UQueue.advance { q with csn := q.csn + 1, doneAbove := q.doneAbove.filter (· != q.csn + 1) } n
    else q

/-- RESULT and then STATUS of an entry are written, and CSN advances (R235). -/
def State.writeCompletion (s : State) (q : UQueue) (seq status : Nat) (result : Word) : State :=
  let a := q.entryAddr seq
  let s := s.storeUnit 0 [(ringPhys q (a + 0x18), 8)] (leBytes 8 result.toNat)
  let s := s.storeUnit 0 [(ringPhys q (a + 0x14), 4)] (leBytes 4 status)
  s.updUq q.uq fun q => ({ q with doneAbove := q.doneAbove ++ [seq] } : UQueue).advance (q.doneAbove.length + 1)

/-- A store to a queue's record, or a read of it, is held back (R290, R303, R305). -/
def State.recStalls (s : State) (a : Nat) : Bool := s.recHeld a || s.writeGate (pageOf a) == .stall

/-- The completion of an entry can be written: its place is no absent host's (R318) nor one that is held back, and neither is
the queue's record, so that QCSN moves on only when STATUS is written (R235, R316). -/
def State.canComplete (s : State) (q : UQueue) (seq : Nat) : Bool :=
  !(s.recStalls q.recAddr) && match q.space with
    | .host => s.hc.present
    | .dev => !(s.held (q.entryAddr seq) false || s.writeGate (pageOf (q.entryAddr seq)) == .stall)
    | .peer => true

/-- A completion that cannot be written is kept. -/
def State.keepCompletion (s : State) (uq seq status : Nat) (result : Word) : State :=
  { s with lu := { s.lu with uqs := s.lu.uqs.map fun q : UQueue =>
      if q.uq = uq then { q with held := q.held ++ [(seq, status, result)] } else q } }

/-- A completion is written now, or kept. -/
def State.putCompletion (s : State) (uq seq status : Nat) (result : Word) : State :=
  match s.uqueue uq with
  | none => s
  | some q =>
    if s.canComplete q seq then s.writeCompletion q seq status result else s.keepCompletion uq seq status result

/-- The completions of a queue that are kept are written in order, but for those that still cannot be. -/
def State.completeHeld (s : State) (uq : Nat) : State :=
  match s.uqueue uq with
  | none => s
  | some q =>
    if q.held.any fun h => s.canComplete q h.1 then
      let s : State := { s with lu := { s.lu with uqs := s.lu.uqs.map fun q : UQueue =>
        if q.uq = uq then { q with held := [] } else q } }
      q.held.foldl (fun s h => s.putCompletion uq h.1 h.2.1 h.2.2) s
    else s

/-- An entry completes; the write is kept while its ring lies in an absent host's memory (R318), or it or the record is held
back. -/
def State.completeEntry (s : State) (uq seq code cls : Nat) (result : Word) : State :=
  let s := { s with lu := { s.lu with entries := s.lu.entries.filter fun e => !(e.uq == uq && e.seq == seq) } }
  s.putCompletion uq seq (code + 256 * cls) result

/-! ### LSTATE and the scoreboard (R241, R252) -/

def lstateCode : LState → Nat
  | .running => 1
  | .preempting => 2
  | .preempted => 3
  | .complete => 4
  | .killed => 5

def Launch.lstate (l : Launch) : Nat := l.retired.length * 2 ^ 16 + l.npre % 256 * 2 ^ 8 + lstateCode l.st

/-- LSTATE written to the record; none when the write faults. -/
def State.writeLstate (s : State) (l : Launch) : Option State :=
  match s.storeVirt l.ctx (l.recAddr + 0x60) (leBytes 8 l.lstate) l.lid with
  | .ok s' => some s'
  | .error _ => none

/-- Byte i of the scoreboard (R241). -/
def Launch.sbByte (l : Launch) (i : Nat) : Byte :=
  BitVec.ofNat 8 ((List.range 8).map fun b => if l.retired.contains (8 * i + b) then 2 ^ b else 0).sum

/-- The cached scoreboard written back to SBRD, in blocks of 64 bytes; none when a write faults. -/
def State.writeScoreboard (s : State) (l : Launch) : Option State :=
  (List.range ((l.groups + 511) / 512)).foldl (fun o b => o.bind fun s =>
    match s.storeVirt l.ctx (l.lrec.sbrd + 64 * b) ((List.range 64).map fun i => l.sbByte (64 * b + i)) l.lid with
    | .ok s' => some s'
    | .error _ => none) (some s)

/-! ### Strands that leave -/

/-- A strand is no more: its slot, lane groups and regions are free (R47, R48); waiting strands of the core take free
lane groups (R35). -/
def State.dismiss (s : State) (uid : Nat) : State :=
  match s.strand uid with
  | none => s
  | some t =>
    let s := { s with others := s.others.filter fun t => t.uid != uid }
    let s := if s.cur.uid = uid then { s with cur := { s.cur with status := .gone } } else s
    match t.place with
    | some (id, slot) => (s.vacate id slot).laneGrant id
    | none => s

/-! ### The end of a launch (R48, R235, R241, R242) -/

/-- Launches that wait for a launch have their ready groups released, in acceptance order (R242). -/
def State.releaseAfter (s : State) (lid : Nat) : State :=
  (s.lu.launches.filter fun l => l.lrec.after == lid && l.live).foldl (fun s l => s.releaseReady l.lid) s

/-- A launch ends with a status code and class: STATE and the scoreboard are written (dropped when they fault), its
queue entry completes or its issuer is told, the launches after it are released, and launches pre-empted for it may
resume. -/
def State.endLaunch (s : State) (lid : Nat) (st : LState) (code cls : Nat) : State :=
  let s := s.updLaunch lid fun l => { l with st := st, final := some (code, cls), pool := [] }
  match s.launch lid with
  | none => s
  | some l =>
    let s := (s.writeScoreboard l).getD s
    let s := (s.writeLstate l).getD s
    let (r, s) := if l.dispatched then s.drawFree else (0, s)
    let s :=
      match l.entry with
      | some (uq, seq) => s.completeEntry uq seq code cls r
      | none => s
    let s :=
      match l.issuer with
      | some (ilid, sid, ch) =>
        s.post ilid (sidGlin sid) (sidStage sid) (sidSix sid)
          { ch := ch, hdr := msgHdr 5 ch.val (sid % 2 ^ 32), payload := BitVec.ofNat 64 (lid % 2 ^ 56 * 256 + code) }
      | none => s
    let s := s.releaseAfter lid
    { s with lu := { s.lu with launches := s.lu.launches.map fun k =>
        if k.madeRoomFor = some lid ∧ (k.st = .preempted ∨ k.st = .preempting) then { k with resuming := true } else k } }

/-- A launch is killed (R48): a freeze in progress completes first, and while it waits for a collection the kill waits
too (R209); commands in flight for it are dropped, every strand stops and gives up its place, and the launch ends. -/
def State.kill (s : State) (lid code cls : Nat) : State :=
  match s.launch lid with
  | none => s
  | some l =>
    if !l.live then s
    else
      let uids := (s.strands.filter fun t => t.lid == lid && !t.system && t.status != .gone).map (·.uid)
      let s := (s.cat.jobs.filter fun j => uids.contains j.uid).foldl (fun s j => s.freezeJob j) s
      if s.cat.jobs.any fun j => uids.contains j.uid then s.updLaunch lid fun l => { l with dying := some (code, cls) }
      else
      let idle (c : Core) : Core :=
        { c with engine := c.engine.filter (fun k => k.lid != lid), park := if c.park = some lid then none else c.park }
      let s : State := { s with cores := s.cores.map idle }
      let s := { s with
        die0 := { s.die0 with coll := s.die0.coll.filter fun k => k.lid != lid }
        die1 := { s.die1 with coll := s.die1.coll.filter fun k => k.lid != lid } }
      let s := uids.foldl (fun s u => s.flushWc u true true) s
      let s := uids.foldl (fun s u => s.dismiss u) s
      s.endLaunch lid .killed code cls

/-- A launch is killed by a fault of a class (LS_FAULT, R236). -/
def State.killFault (s : State) (lid cls : Nat) : State := s.kill lid 0x02 cls

/-- LSTATE of a live launch is written; a fault kills the launch with class "descriptor" (R241). -/
def State.bumpLstate (s : State) (lid : Nat) : State :=
  match s.launch lid with
  | none => s
  | some l =>
    match s.writeLstate l with
    | some s' => s'
    | none => if l.live then s.killFault lid 0x0A else s

/-- The successors of a retired group that are ready are released, ascending in GLIN (R241). -/
def State.releaseSuccs (s : State) (lid glin : Nat) : State :=
  match s.launch lid with
  | none => s
  | some l =>
    let gs := sortBy (fun a b : Nat => decide (a < b)) ((l.succs glin).filter fun g => s.groupReady l g)
    if l.live then s.updLaunch lid fun l => gs.foldl Launch.release l else s

/-- A group retires (R47, R241): recorded first, then its successors are released; the last group completes the launch, whose
record is written then. -/
def State.retire (s : State) (lid glin : Nat) : State :=
  let s := s.updLaunch lid fun l =>
    { l with retired := glin :: l.retired, placed := l.placed.filter (· != glin)
             endedOuts := l.endedOuts.filter (·.glin != glin) }
  match s.launch lid with
  | none => s
  | some l =>
    if l.live ∧ l.retired.length = l.groups then s.endLaunch lid .complete 0x01 0
    else (s.bumpLstate lid).releaseSuccs lid glin

/-- A barrier instance of a group completes when every strand that has not exited has arrived at it: they leave, those in
the carrier too (R201, R40). An arrived strand stands at its `bar`. -/
def State.barrierCheck (s : State) (lid glin : Nat) : State :=
  let ts := s.strands.filter fun t => t.lid == lid && t.glin == glin && !t.system && t.status != .gone
  match ts.map (·.barK) with
  | [] => s
  | k :: ks =>
    let low := ks.foldl min k
    if ts.all fun t => t.barK > low || t.barArrived then
      s.mapStrands fun t =>
        if t.lid = lid ∧ t.glin = glin ∧ !t.system ∧ t.status ≠ .gone ∧ t.barK = low ∧ t.barArrived then
          { t with barK := t.barK + 1, barArrived := false
                   status := if t.status = .waiting .barrier then .running else t.status
                   pc := t.pc + 4 }
        else t
    else s

/-! ### Save pool (R259) -/

/-- Bytes a strand's image takes in the save pool. -/
def Strand.imageBytes (t : Strand) : Nat :=
  32768 + 9728 + 1024 * t.g * ((List.range 32).filter fun n => t.vdirty.getLsbD n).length
    + t.scratchBytes * 8 * t.lstage + 12288 * t.tiles.length + 512 * t.accRows + t.actBytes

/-- Bytes of a context's pool in use or reserved: strands saved, and strands of launches being saved. -/
def State.poolUsed (s : State) (ctx : Nat) : Nat :=
  ((s.strands.filter fun t => t.ctx == ctx && !t.system &&
      match t.status with
      | .gone => false
      | .saved _ _ _ => true
      | _ => match s.launch t.lid with | some l => l.st == .preempting | none => false).map (·.imageBytes)).sum

/-- A strand is saved in the pool. -/
def Strand.inPool (t : Strand) : Bool := match t.status with | .saved _ _ _ => true | _ => false

/-- Bytes a launch's save needs: those of its resident strands. -/
def State.saveNeed (s : State) (lid : Nat) : Nat :=
  ((s.strands.filter fun t => t.lid == lid && !t.system && t.status != .gone && !t.inPool).map (·.imageBytes)).sum

/-- The pool can hold the save of a launch. -/
def State.poolHolds (s : State) (l : Launch) : Bool :=
  s.poolUsed l.ctx + s.saveNeed l.lid ≤ s.ctxSaveSz l.ctx

/-- Pre-emption of a launch starts (R258 steps 1 and 2): none when the pool cannot hold the save (R259). -/
def State.preempt (s : State) (lid : Nat) (cause : Option Nat) : Option State :=
  match s.launch lid with
  | none => none
  | some l =>
    if l.st != .running then some s
    else if !(s.poolHolds l) then none
    else
      let s := (s.unitTouch (s.ctxAddr l.ctx) 64).updLaunch lid fun l =>
        { l with st := .preempting, madeRoomFor := cause, resuming := false, asked := s.nextAsk }
      some (({ s with nextAsk := s.nextAsk + 1 } : State).bumpLstate lid)

end Sys2Proof.Machine
end

