-- ==== Sys2Proof/Machine/Flags.lean ====
section
/-! DEFINITION. Flags: VFLAGS (R62, R89), the scalar `fflags` (R59) and the array status (R103, R218). -/

namespace Sys2Proof.Machine

/-- Flag bits of VFLAGS (R62); the low five are those of `fflags` too. -/
def flNX : Nat := 1
def flUF : Nat := 2
def flOF : Nat := 4
def flDZ : Nat := 8
def flNV : Nat := 16
def flSAT : Nat := 32

/-- A flag word with one flag when a condition holds. -/
def flagIf (c : Bool) (f : Nat) : Nat := if c then f else 0

/-- Flags are ORed into VFLAGS (R89). -/
def Strand.accrue (t : Strand) (fl : Nat) : Strand := { t with vflags := t.vflags ||| BitVec.ofNat 6 fl }

/-- Flags are ORed into `fflags` (R57). -/
def Strand.accrueF (t : Strand) (fl : Nat) : Strand := { t with fflags := t.fflags ||| BitVec.ofNat 5 fl }

/-- Array status bits (R218). -/
def stNX : Nat := 1
def stOF : Nat := 2
def stNV : Nat := 4

/-- Flags are ORed into the array status (R103). -/
def Strand.accrueA (t : Strand) (fl : Nat) : Strand := { t with astat := t.astat ||| BitVec.ofNat 3 fl }

end Sys2Proof.Machine
end

