-- ==== Sys2Proof/Machine/Float.lean ====
section
/-! DEFINITION. Floating-point formats and arithmetic (R84 to R98), exact and then rounded once. A finite value is a
sign, a natural number m and an exponent e: m × 2^e. The same functions serve the vector instructions, the scalar
F and D extensions (R55, IEEE 754-2019), the atomics' FP32 add, the collectives' fold and the matrix array. -/

namespace Sys2Proof.Machine

/-! ### Formats (R84) -/

/-- A format: exponent and fraction bits, bias, and whether it has infinities (E4M3 has none). -/
structure Fmt where
  eb : Nat
  fb : Nat
  bias : Nat
  hasInf : Bool
  deriving DecidableEq, Repr

def fp64 : Fmt := { eb := 11, fb := 52, bias := 1023, hasInf := true }
def fp32 : Fmt := { eb := 8, fb := 23, bias := 127, hasInf := true }
def fp16 : Fmt := { eb := 5, fb := 10, bias := 15, hasInf := true }
def bf16 : Fmt := { eb := 8, fb := 7, bias := 127, hasInf := true }
def e4m3 : Fmt := { eb := 4, fb := 3, bias := 7, hasInf := false }
def e5m2 : Fmt := { eb := 5, fb := 2, bias := 15, hasInf := true }

/-- Bits of a format. -/
def Fmt.width (f : Fmt) : Nat := 1 + f.eb + f.fb

/-- The sign bit as a number. -/
def Fmt.signBit (f : Fmt) : Nat := 2 ^ (f.eb + f.fb)

/-- The pattern of the largest finite magnitude. -/
def Fmt.maxBits (f : Fmt) : Nat := if f.hasInf then (2 ^ f.eb - 1) * 2 ^ f.fb - 1 else 2 ^ (f.eb + f.fb) - 2

/-- The pattern of +∞; of a format without infinities, its largest finite value. -/
def Fmt.infBits (f : Fmt) : Nat := if f.hasInf then (2 ^ f.eb - 1) * 2 ^ f.fb else f.maxBits

/-- The canonical NaN (R84). -/
def Fmt.nanBits (f : Fmt) : Nat :=
  if f.hasInf then (2 ^ f.eb - 1) * 2 ^ f.fb + 2 ^ (f.fb - 1) else 2 ^ (f.eb + f.fb) - 1

/-- Exponent of the smallest normal value. -/
def Fmt.emin (f : Fmt) : Int := 1 - (f.bias : Int)

/-! ### Values -/

/-- The value of a pattern. -/
inductive FVal
  | nan (signalling : Bool)
  | inf (neg : Bool)
  | fin (neg : Bool) (m : Nat) (e : Int)
  deriving DecidableEq, Repr

/-- The value of a pattern (R84, R85). -/
def Fmt.val (f : Fmt) (bits : Nat) : FVal :=
  let neg := fld bits (f.eb + f.fb) 1 == 1
  let ex := fld bits f.fb f.eb
  let fr := fld bits 0 f.fb
  if ex = 2 ^ f.eb - 1 ∧ f.hasInf then
    if fr = 0 then .inf neg else .nan (f.width > 8 && fld fr (f.fb - 1) 1 == 0)
  else if ex = 2 ^ f.eb - 1 ∧ fr = 2 ^ f.fb - 1 then .nan false
  else if ex = 0 then .fin neg fr (f.emin - f.fb)
  else .fin neg (fr + 2 ^ f.fb) (ex - f.bias - f.fb)

def FVal.isNan : FVal → Bool
  | .nan _ => true
  | _ => false

def FVal.isSnan : FVal → Bool
  | .nan s => s
  | _ => false

def FVal.neg? : FVal → Bool
  | .nan _ => false
  | .inf n => n
  | .fin n _ _ => n

def FVal.negate : FVal → FVal
  | .nan s => .nan s
  | .inf n => .inf !n
  | .fin n m e => .fin (!n) m e

/-- A pattern is subnormal. -/
def Fmt.isSub (f : Fmt) (bits : Nat) : Bool := fld bits f.fb f.eb == 0 && fld bits 0 f.fb != 0

/-- A subnormal input read as a zero of its sign (R88). -/
def Fmt.flushIn (f : Fmt) (ftz : Bool) (bits : Nat) : Nat :=
  if ftz && f.isSub bits then bits / f.signBit % 2 * f.signBit else bits

def Fmt.signed (f : Fmt) (neg : Bool) (mag : Nat) : Nat := mag + if neg then f.signBit else 0

/-! ### Rounding (R86 to R88) -/

/-- Rounding modes (R86, R61). -/
inductive Rm
  | rne | rtz | rdn | rup | rmm
  deriving DecidableEq, Repr

/-- The mode of a code; none for 101 to 111. -/
def rmOf (n : Nat) : Option Rm :=
  match n with
  | 0 => some .rne
  | 1 => some .rtz
  | 2 => some .rdn
  | 3 => some .rup
  | 4 => some .rmm
  | _ => none

/-- m × 2^e in units of 2^q, rounded in a mode for a sign: the integer and whether it is inexact. -/
def roundTo (rm : Rm) (neg : Bool) (m : Nat) (e q : Int) : Nat × Bool :=
  if q ≤ e then (m * 2 ^ (e - q).toNat, false)
  else
    let s := (q - e).toNat
    let k := m / 2 ^ s
    let r := m % 2 ^ s
    let half := 2 ^ (s - 1)
    let up :=
      match rm with
      | .rne => r > half || (r == half && k % 2 == 1)
      | .rtz => false
      | .rdn => r != 0 && neg
      | .rup => r != 0 && !neg
      | .rmm => r ≥ half
    (if up then k + 1 else k, r != 0)

/-- How a rounding behaves beyond its mode: saturating destinations (R87), FTZ (R88). -/
structure Round where
  rm : Rm
  sat : Bool
  ftz : Bool
  deriving DecidableEq, Repr

/-- The magnitude pattern of k × 2^q, k having at most fb + 1 bits (or one more), q not below the subnormal grid. -/
def Fmt.pack (f : Fmt) (k : Nat) (q : Int) : Nat :=
  if k < 2 ^ f.fb then k
  else (q + f.fb + f.bias).toNat * 2 ^ f.fb + (k - 2 ^ f.fb)

/-- Overflow of a rounded result (R87). -/
def Fmt.overflow (f : Fmt) (r : Round) (neg : Bool) : Nat × Nat :=
  if r.sat then (f.signed neg f.maxBits, flSAT ||| flNX)
  else
    let toInf :=
      match r.rm with
      | .rne => true
      | .rmm => true
      | .rtz => false
      | .rdn => neg
      | .rup => !neg
    (f.signed neg (if toInf then f.infBits else f.maxBits), flOF ||| flNX)

/-- ± m × 2^e (m ≠ 0) rounded into a format: pattern and flags (R86 to R88). -/
def Fmt.round (f : Fmt) (r : Round) (neg : Bool) (m : Nat) (e : Int) : Nat × Nat :=
  let ex := e + Nat.log2 m
  let q := ex - f.fb
  let (k, nx) := roundTo r.rm neg m e q
  let (k, q) := if k = 2 ^ (f.fb + 1) then (2 ^ f.fb, q + 1) else (k, q)
  if q + f.fb < f.emin then
    if r.ftz then (f.signed neg 0, flUF ||| flNX)
    else
      let (k1, nx1) := roundTo r.rm neg m e (f.emin - f.fb)
      (f.signed neg (f.pack k1 (f.emin - f.fb)), if nx1 then flUF ||| flNX else 0)
  else if f.pack k q > f.maxBits ∨ q + f.fb > (2 ^ f.eb : Nat) then f.overflow r neg
  else (f.signed neg (f.pack k q), flagIf nx flNX)

/-- A value rounded into a format; a zero keeps its sign, an infinity its own (R87), a NaN is canonical (R85). No flag
but those of rounding. -/
def Fmt.roundVal (f : Fmt) (r : Round) (v : FVal) : Nat × Nat :=
  match v with
  | .nan _ => (f.nanBits, 0)
  | .inf n => if r.sat || !f.hasInf then (f.signed n f.maxBits, flSAT) else (f.signed n f.infBits, 0)
  | .fin n m e => if m = 0 then (f.signed n 0, 0) else f.round r n m e

/-! ### Exact operations; flags NV and DZ only -/

/-- NV of signalling NaN inputs (R89). -/
def nvIf (vs : List FVal) : Nat := flagIf (vs.any FVal.isSnan) flNV

/-- The sign of an exact zero sum: + except in RDN (IEEE 754). -/
def zeroSign (rm : Rm) : Bool := rm == .rdn

/-- Exact sum of two values. -/
def FVal.add (rm : Rm) (a b : FVal) : FVal × Nat :=
  match a, b with
  | .nan _, _ => (.nan false, nvIf [a, b])
  | _, .nan _ => (.nan false, nvIf [a, b])
  | .inf n, .inf k => if n = k then (.inf n, 0) else (.nan false, flNV)
  | .inf n, _ => (.inf n, 0)
  | _, .inf n => (.inf n, 0)
  | .fin n m e, .fin n' m' e' =>
    let e0 := min e e'
    let x : Int := (if n then -1 else 1) * (m * 2 ^ (e - e0).toNat : Nat)
    let y : Int := (if n' then -1 else 1) * (m' * 2 ^ (e' - e0).toNat : Nat)
    if x + y = 0 then (.fin (if m = 0 ∧ m' = 0 ∧ n = n' then n else zeroSign rm) 0 e0, 0)
    else (.fin (x + y < 0) (x + y).natAbs e0, 0)

/-- Exact product of two values. -/
def FVal.mul (a b : FVal) : FVal × Nat :=
  match a, b with
  | .nan _, _ => (.nan false, nvIf [a, b])
  | _, .nan _ => (.nan false, nvIf [a, b])
  | .inf n, .inf k => (.inf (n != k), 0)
  | .inf n, .fin k m _ => if m = 0 then (.nan false, flNV) else (.inf (n != k), 0)
  | .fin n m _, .inf k => if m = 0 then (.nan false, flNV) else (.inf (n != k), 0)
  | .fin n m e, .fin k m' e' => (.fin (n != k) (m * m') (e + e'), 0)

/-- Quotient of two values: exact, or with at least 130 significant bits and a last bit that marks a remainder. -/
def FVal.div (a b : FVal) : FVal × Nat :=
  match a, b with
  | .nan _, _ => (.nan false, nvIf [a, b])
  | _, .nan _ => (.nan false, nvIf [a, b])
  | .inf _, .inf _ => (.nan false, flNV)
  | .inf n, .fin k _ _ => (.inf (n != k), 0)
  | .fin n _ _, .inf k => (.fin (n != k) 0 0, 0)
  | .fin n m e, .fin k m' e' =>
    if m' = 0 then (if m = 0 then (.nan false, flNV) else (.inf (n != k), flDZ))
    else
      let s := 130 + Nat.log2 m' - min (Nat.log2 m) (Nat.log2 m')
      let t := m * 2 ^ s
      (.fin (n != k) (2 * (t / m') + if t % m' = 0 then 0 else 1) (e - e' - s - 1), 0)

/-- The integer square root, bit by bit from bit k − 1 down. -/
def isqrtFrom (n : Nat) : Nat → Nat → Nat
  | 0, r => r
  | k + 1, r => isqrtFrom n k (if (r + 2 ^ k) * (r + 2 ^ k) ≤ n then r + 2 ^ k else r)

def isqrt (n : Nat) : Nat := isqrtFrom n (Nat.log2 n / 2 + 1) 0

/-- Square root: exact, or with a last bit that marks a remainder. -/
def FVal.sqrt (a : FVal) : FVal × Nat :=
  match a with
  | .nan _ => (.nan false, nvIf [a])
  | .inf n => if n then (.nan false, flNV) else (.inf false, 0)
  | .fin n m e =>
    if m = 0 then (.fin n 0 e, 0)
    else if n then (.nan false, flNV)
    else
      let odd := (e % 2).toNat
      let t := m * 2 ^ (odd + 136)
      let r := isqrt t
      (.fin false (2 * r + if r * r = t then 0 else 1) ((e - odd) / 2 - 69), 0)

/-! ### Rounded operations -/

/-- A unary result on values, rounded, with all flags. -/
def Fmt.out (f : Fmt) (r : Round) (v : FVal × Nat) : Nat × Nat :=
  let (b, fl) := f.roundVal r v.1
  (b, fl ||| v.2)

/-- An input's value after FTZ (R88). -/
def Fmt.inp (f : Fmt) (r : Round) (bits : Nat) : FVal := f.val (f.flushIn r.ftz bits)

def Fmt.add (f : Fmt) (r : Round) (a b : Nat) : Nat × Nat := f.out r ((f.inp r a).add r.rm (f.inp r b))
def Fmt.sub (f : Fmt) (r : Round) (a b : Nat) : Nat × Nat := f.out r ((f.inp r a).add r.rm (f.inp r b).negate)
def Fmt.mul (f : Fmt) (r : Round) (a b : Nat) : Nat × Nat := f.out r ((f.inp r a).mul (f.inp r b))
def Fmt.div (f : Fmt) (r : Round) (a b : Nat) : Nat × Nat := f.out r ((f.inp r a).div (f.inp r b))
def Fmt.sqrt (f : Fmt) (r : Round) (a : Nat) : Nat × Nat := f.out r (f.inp r a).sqrt

/-- (± a × b) ± c with one rounding (R86). ∞ × 0 is invalid even when c is a quiet NaN (R89). -/
def Fmt.fma (f : Fmt) (r : Round) (negP negC : Bool) (a b c : Nat) : Nat × Nat :=
  let x := f.inp r a
  let y := f.inp r b
  let z := f.inp r c
  let (p, fl) := x.mul y
  let p := if negP then p.negate else p
  let z' := if negC then z.negate else z
  let (v, fl2) := p.add r.rm z'
  f.out r (v, fl ||| fl2)

/-! ### Comparison, minimum and maximum (R90) -/

/-- a < b of values that are no NaN; zeros are equal. -/
def FVal.lt (a b : FVal) : Bool :=
  match a, b with
  | .nan _, _ => false
  | _, .nan _ => false
  | .inf n, .inf k => n && !k
  | .inf n, .fin _ _ _ => n
  | .fin _ _ _, .inf k => !k
  | .fin n m e, .fin n' m' e' =>
    let e0 := min e e'
    let x : Int := (if n then -1 else 1) * (m * 2 ^ (e - e0).toNat : Nat)
    let y : Int := (if n' then -1 else 1) * (m' * 2 ^ (e' - e0).toNat : Nat)
    x < y

def FVal.le (a b : FVal) : Bool := !a.isNan && !b.isNan && !(b.lt a)

def FVal.eq (a b : FVal) : Bool := !a.isNan && !b.isNan && !(a.lt b) && !(b.lt a)

/-- minimumNumber and maximumNumber with −0 below +0: pattern and NV (R90). -/
def Fmt.minmax (f : Fmt) (isMax : Bool) (a b : Nat) : Nat × Nat :=
  let x := f.val a
  let y := f.val b
  let fl := nvIf [x, y]
  if x.isNan && y.isNan then (f.nanBits, fl)
  else if x.isNan then (b, fl)
  else if y.isNan then (a, fl)
  else
    let less := x.lt y || (x.eq y && x.neg? && !y.neg?)
    (if less == isMax then b else a, fl)

/-! ### Classification (R119; the scalar FCLASS has the same bits) -/

def Fmt.classify (f : Fmt) (bits : Nat) : Nat :=
  match f.val bits with
  | .nan s => if s then 2 ^ 8 else 2 ^ 9
  | .inf n => if n then 2 ^ 0 else 2 ^ 7
  | .fin n m _ =>
    if m = 0 then (if n then 2 ^ 3 else 2 ^ 4)
    else if f.isSub bits then (if n then 2 ^ 2 else 2 ^ 5)
    else if n then 2 ^ 1 else 2 ^ 6

/-! ### Integers (R93) -/

/-- An integer as a value. -/
def FVal.ofInt (i : Int) : FVal := .fin (i < 0) i.natAbs 0

/-- A value rounded to an integer in [lo, hi]: the integer, whether it is inexact, whether it was clamped (a NaN becomes
the maximum). -/
def FVal.toInt (rm : Rm) (lo hi : Int) (v : FVal) : Int × Bool × Bool :=
  match v with
  | .nan _ => (hi, false, true)
  | .inf n => (if n then lo else hi, false, true)
  | .fin n m e =>
    let (k, nx) := roundTo rm n m e 0
    let i : Int := if n then -(k : Int) else k
    if i < lo then (lo, false, true) else if hi < i then (hi, false, true) else (i, nx, false)

/-! ### Estimates (R95) -/

/-- Significant bits of an estimate: 12 for FP32 and FP64, else the format's own precision. -/
def Fmt.estBits (f : Fmt) : Nat := if f.fb ≥ 23 then 12 else f.fb + 1

/-- A magnitude truncated to the estimate's precision, or to the subnormal grid where that is coarser. -/
def Fmt.estimate (f : Fmt) (neg : Bool) (m : Nat) (e : Int) : Nat × Nat :=
  let ex := e + Nat.log2 m
  let q := max (ex - (f.estBits - 1)) (f.emin - f.fb)
  let (k, nx) := roundTo .rtz neg m e q
  let tiny := decide (ex < f.emin)
  if ex > (2 ^ f.eb - 2 - f.bias : Int) then (f.signed neg f.infBits, flOF ||| flNX)
  else
    let k' := if tiny then k * 2 ^ (q - (f.emin - f.fb)).toNat else k * 2 ^ (q - (ex - f.fb)).toNat
    let q' := if tiny then f.emin - f.fb else ex - f.fb
    (f.signed neg (f.pack k' q'), flagIf nx flNX ||| flagIf (nx && tiny) flUF)

/-- `vfrece` of an element (R95). -/
def Fmt.recip (f : Fmt) (a : Nat) : Nat × Nat :=
  match f.val a with
  | .nan s => (f.nanBits, flagIf s flNV)
  | .inf n => (f.signed n 0, 0)
  | .fin n m e =>
    if m = 0 then (f.signed n f.infBits, flDZ)
    else
      match (FVal.fin false 1 0).div (.fin n m e) with
      | (.fin k m' e', _) => f.estimate k m' e'
      | _ => (f.nanBits, 0)

/-- `vfrsqe` of an element (R95): ⌊√⌊2^(2j) / m⌋⌋ with 2^(−e/2 − j), a last bit marking a remainder. -/
def Fmt.rsqrt (f : Fmt) (a : Nat) : Nat × Nat :=
  match f.val a with
  | .nan s => (f.nanBits, flagIf s flNV)
  | .inf n => if n then (f.nanBits, flNV) else (0, 0)
  | .fin n m e =>
    if m = 0 then (f.signed n f.infBits, flDZ)
    else if n then (f.nanBits, flNV)
    else
      let odd := (e % 2).toNat
      let m1 := m * 2 ^ odd
      let t := 2 ^ 300 / m1
      let r := isqrt t
      f.estimate false (2 * r + if r * r * m1 = 2 ^ 300 then 0 else 1) (-((e - odd) / 2) - 151)

/-! ### Eight-bit destinations (R91, R92) -/

/-- A value rounded into E4M3 or E5M2 (R91): finite overflow always saturates; an infinity becomes the largest finite
value in E4M3 and with SATI. Subnormals are kept (R92) unless FTZ is asked for. -/
def Fmt.narrow8 (f : Fmt) (r : Round) (v : FVal) : Nat × Nat :=
  match v with
  | .nan _ => (f.nanBits, 0)
  | .inf n => if !f.hasInf || r.sat then (f.signed n f.maxBits, flSAT) else (f.signed n f.infBits, 0)
  | .fin n m e => if m = 0 then (f.signed n 0, 0) else f.round { r with sat := true } n m e

end Sys2Proof.Machine
end

