-- ==== Sys2Proof/Machine/Ops.lean ====
section
/-! DEFINITION. The named operations that instructions share: the registers of the thread that runs, what an
instruction can end in besides its effect, TAKING AN EXCEPTION (R41, R46, R53, R271, R274, R279), the returns from it,
the checks at issue in the order of R53, and the replies of R111. -/

namespace Sys2Proof.Machine

/-! ### The running thread: the strand itself, or the lane thread whose turn it is (R38) -/

/-- The lane thread whose turn it is. -/
def Strand.laneTurn (t : Strand) : Option LaneThread :=
  match t.fork with
  | none => none
  | some f => f.threads[f.turn]?

/-- An x register of the running thread; x0 reads zero (R57). -/
def Strand.getX (t : Strand) (r : Reg) : Word :=
  if r = 0 then 0
  else
    match t.fork with
    | none => t.x[r]
    | some f => match f.threads[f.turn]? with | some l => l.x[r] | none => 0

/-- Writes an x register of the running thread; x0 discards (R57). -/
def Strand.putX (t : Strand) (r : Reg) (v : Word) : Strand :=
  match t.fork with
  | none => t.setX r v
  | some f =>
    if r = 0 then t
    else { t with fork := some { f with threads := f.threads.modify f.turn fun l => { l with x := l.x.set r v } } }

/-- The running thread's program counter. -/
def Strand.getPc (t : Strand) : Word :=
  match t.fork with
  | none => t.pc
  | some f => match f.threads[f.turn]? with | some l => l.pc | none => t.pc

def Strand.putPc (t : Strand) (a : Word) : Strand :=
  match t.fork with
  | none => { t with pc := a }
  | some f => { t with fork := some { f with threads := f.threads.modify f.turn fun l => { l with pc := a } } }

/-- The program counter moves past an instruction of n bytes. -/
def Strand.adv (t : Strand) (n : Nat) : Strand := t.putPc (t.getPc + BitVec.ofNat 64 n)

/-- An f register written; 32-bit values NaN-boxed (R57). -/
def Strand.putF (t : Strand) (r : Reg) (v : Word) : Strand := { t with f := t.f.set r v }

def Strand.setStatus (t : Strand) (st : Status) : Strand := { t with status := st }

/-- The current strand changed by a function. -/
def State.onCur (s : State) (f : Strand → Strand) : State := { s with cur := f s.cur }

/-! ### What stands in the way of an instruction -/

/-- What an instruction ends in when it does not complete. -/
inductive Exc
  /-- Illegal instruction (R53), fault class 0x01. -/
  | illegal
  /-- Class-miss; the implementing classes (R41). -/
  | classMiss (cs : List Cls)
  /-- A launch fault of a class of R271: the faulting address or 0, the kinds of access, and the entry of the vector
  instruction that found it, when it had issued. -/
  | launch (cls addr acc : Nat) (entry : Option BmEntry)
  /-- Translation faults: (address, cause, access bits) of each page, and the entry (R266, R273). -/
  | trans (pages : List (Nat × Nat × Nat)) (entry : Option BmEntry)
  | ecall
  | ebreak
  /-- An access that S-mode or M-mode code cannot perform: standard cause and address (log 6). -/
  | access (cause : Nat) (addr : Word)
  /-- The instruction waits (R39). -/
  | wait (w : Wait)
  deriving DecidableEq, Repr

/-- A result, or an exception with the machine it is taken on. -/
abbrev Res (α : Type) := Except (Exc × State) α

/-! ### Control-core traps (R279; RISC-V privileged architecture, log 6) -/

/-- A bit field of a word replaced. -/
def putBits (w : Word) (lo n v : Nat) : Word :=
  BitVec.ofNat 64 (w.toNat - fld w.toNat lo n * 2 ^ lo + v % 2 ^ n * 2 ^ lo)

/-- The hart of a strand: its slot on a control core. -/
def State.csrs (s : State) : Csrs := (s.core s.cur.core).harts.getD s.cur.slot Csrs.reset

def State.putCsrs (s : State) (c : Csrs) : State :=
  s.updCore s.cur.core fun k => { k with harts := listSet k.harts s.cur.slot c }

/-- Modes as the privileged architecture numbers them. -/
def modeCode : Mode → Nat
  | .u => 0
  | .s => 1
  | .m => 3

def modeOf (n : Nat) : Mode := if n = 0 then .u else if n = 1 then .s else .m

/-- Where a trap vector sends a cause: BASE, or BASE + 4 × cause of a vectored interrupt. -/
def vectorPc (tvec : Word) (interrupt : Bool) (cause : Nat) : Word :=
  BitVec.ofNat 64 (tvec.toNat / 4 * 4 + if interrupt && tvec.toNat % 4 == 1 then 4 * cause else 0)

def causeWord (interrupt : Bool) (cause : Nat) : Word := BitVec.ofNat 64 (cause + if interrupt then 2 ^ 63 else 0)

/-- The trap goes to S-mode: always from U-mode (R279), else as the delegation registers say. -/
def trapToS (from? : Mode) (deleg : Word) (cause : Nat) : Bool :=
  match from? with
  | .u => true
  | .s => deleg.getLsbD cause
  | .m => false

/-- A trap into S-mode: sepc, scause, stval; SPP, SPIE, SIE; the pc at stvec. -/
def State.trapS (s : State) (interrupt : Bool) (cause : Nat) (tval : Word) : State :=
  let c := s.csrs
  let st := putBits (putBits (putBits c.mstatus 8 1 (if s.cur.mode = .u then 0 else 1)) 5 1 (bf c.mstatus 1 1)) 1 1 0
  let s' := s.putCsrs { c with sepc := s.cur.pc, scause := causeWord interrupt cause, stval := tval, mstatus := st }
  s'.onCur fun t => { t with mode := .s, pc := vectorPc c.stvec interrupt cause, status := .running, lrRes := none }

/-- A trap into M-mode: mepc, mcause, mtval; MPP, MPIE, MIE; the pc at mtvec. -/
def State.trapM (s : State) (interrupt : Bool) (cause : Nat) (tval : Word) : State :=
  let c := s.csrs
  let st := putBits (putBits (putBits c.mstatus 11 2 (modeCode s.cur.mode)) 7 1 (bf c.mstatus 3 1)) 3 1 0
  let s' := s.putCsrs { c with mepc := s.cur.pc, mcause := causeWord interrupt cause, mtval := tval, mstatus := st }
  s'.onCur fun t => { t with mode := .m, pc := vectorPc c.mtvec interrupt cause, status := .running, lrRes := none }

/-- A precise trap on a control core. -/
def State.preciseTrap (s : State) (cause : Nat) (tval : Word) : State :=
  if trapToS s.cur.mode s.csrs.medeleg cause then s.trapS false cause tval else s.trapM false cause tval

/-- The standard cause of a translation fault of some kinds of access (R279). -/
def pageFaultCause (acc : Nat) : Nat := if flag acc 2 then 12 else if flag acc 1 || flag acc 3 then 15 else 13

/-! ### Taking an exception -/

/-- A strand whose regions or rings pin it (R45). -/
def Strand.pinned (t : Strand) : Bool :=
  t.scratchBytes != 0 || t.tiles != [] || t.accRows != 0 || t.actBytes != 0
    || t.q.toList.any fun o => match o with | some h => h.kind != 2 | none => false

/-- A strand on a vector or array core stops at a fault: the imprecise trap of R274 follows. -/
def State.stopAt (s : State) (cause cls : Nat) (pages : List (Nat × Nat × Nat)) (entry : Option BmEntry) : State :=
  s.onCur fun t => t.setStatus (.trapping { cause := cause, cls := cls, pages := pages, entry := entry })

/-- A launch fault of a class (R271): on a control core the launch is killed directly (R279); elsewhere the trap and
record follow. On a control core no record is posted: R279 has no imprecise trap there, where R271 says that the trap and
record are still made (DESIGN CHOICE, log 62). In S-mode and M-mode, which belong to no launch's class, it is a misaligned
access or an illegal instruction (log 6). -/
def State.launchFault (s : State) (cls addr acc : Nat) (entry : Option BmEntry) : State :=
  if s.cur.mode ≠ .u ∨ s.cur.system then
    if cls = 5 then s.preciseTrap (if flag acc 1 || flag acc 3 then 6 else 4) (BitVec.ofNat 64 addr) else s.preciseTrap 2 0
  else if s.cur.cls = .control then s.killFault s.cur.lid cls
  else s.stopAt 2 cls [(addr, 2, acc)] entry

/-- The carrier is asked to move a strand: requests are taken in their order (R288). -/
def State.ask (s : State) (uid : Nat) (k : MoveKind) : State :=
  ({ s with nextAsk := s.nextAsk + 1 }).updStrand uid fun t => { t with status := .moving k, asked := s.nextAsk }

/-- A class-miss (R41, R24): of a lane thread, of a class with no core (which R24 decides, of a pinned strand too), of a
pinned strand; else the carrier is asked to move the strand. In S-mode and M-mode, illegal (log 6). -/
def State.classMissed (s : State) (cs : List Cls) : State :=
  if s.cur.mode ≠ .u ∨ s.cur.system then s.preciseTrap 2 0
  else if s.cur.fork.isSome then s.launchFault 0x04 0 0 none
  else if !(cs.any fun c => s.classPresent c) then s.launchFault 0x02 0 0 none
  else if s.cur.pinned then s.launchFault 0x03 0 0 none
  else
    { (s.onCur fun t => { t with status := .moving (.classes cs), asked := s.nextAsk }) with nextAsk := s.nextAsk + 1 }

/-- Taking an exception: what the machine does when the current strand's instruction does not complete. The reads of a walk
that found a fault are tracked, as those of every walk are (R182, R268; log 52). -/
def State.takeExc (s : State) (e : Exc) : State :=
  match e with
  | .wait w => s.onCur (·.setStatus (.waiting w))
  | .classMiss cs => s.classMissed cs
  | .launch cls addr acc entry => (s.faultWalk s.cur.ctx cls addr).launchFault cls addr acc entry
  | .illegal => if s.cur.cls = .control then s.preciseTrap 2 0 else s.stopAt 2 0x01 [(0, 2, 0)] none
  | .ecall =>
    if s.cur.cls = .control then s.preciseTrap (8 + modeCode s.cur.mode) 0 else s.stopAt 3 0 [(0, 3, 0)] none
  | .ebreak => if s.cur.cls = .control then s.preciseTrap 3 0 else s.stopAt 3 0 [(0, 3, 0)] none
  | .access cause addr => (s.tableAsked addr.toNat).preciseTrap cause addr
  | .trans pages entry =>
    let s := s.walked s.cur.ctx (pages.map (·.1))
    if s.cur.cls = .control then
      match pages with
      | p :: _ => s.preciseTrap (pageFaultCause p.2.2) (BitVec.ofNat 64 p.1)
      | [] => s
    else s.stopAt 1 0 pages entry

/-- The next state of an instruction: its effect, or its exception. -/
def finish (r : Res State) : Host.Outcome State Fault Refusal :=
  match r with
  | .ok s => .next s
  | .error (e, s) => .next (s.takeExc e)

/-! ### Returns from a trap (log 6) -/

/-- `sret`: the mode from SPP, SIE from SPIE, SPIE set, SPP cleared, the pc from sepc; illegal in U-mode (R56), and in
S-mode under TSR. -/
def State.sret (s : State) : Res State :=
  let c := s.csrs
  if s.cur.mode = .u ∨ (s.cur.mode = .s ∧ bf c.mstatus 22 1 = 1) then .error (.illegal, s)
  else
    let st := putBits (putBits (putBits c.mstatus 1 1 (bf c.mstatus 5 1)) 5 1 1) 8 1 0
    let md := modeOf (bf c.mstatus 8 1)
    .ok ((s.putCsrs { c with mstatus := putBits st 17 1 0 }).onCur fun t => { t with mode := md, pc := c.sepc })

/-- `mret`: the mode from MPP, MIE from MPIE, MPIE set, MPP cleared, the pc from mepc; illegal below M-mode. -/
def State.mret (s : State) : Res State :=
  let c := s.csrs
  if s.cur.mode ≠ .m then .error (.illegal, s)
  else
    let md := modeOf (bf c.mstatus 11 2)
    let st := putBits (putBits (putBits c.mstatus 3 1 (bf c.mstatus 7 1)) 7 1 1) 11 2 0
    let st := if md = .m then st else putBits st 17 1 0
    .ok ((s.putCsrs { c with mstatus := st }).onCur fun t => { t with mode := md, pc := c.mepc })

/-! ### Replies (R111) -/

/-- One reply reaches its register. -/
def Strand.deliverReply (t : Strand) (r : Reply) : Strand :=
  if r.float then t.putF r.rd r.val else t.setX r.rd r.val

/-- The oldest reply is delivered. -/
def Strand.reply1 (t : Strand) : Strand :=
  match t.replyQ with
  | [] => t
  | r :: q => { (t.deliverReply r) with replyQ := q }

/-- Every reply is delivered, in order. -/
def Strand.replyAll (t : Strand) : Strand :=
  { t.replyQ.foldl (fun t r => t.deliverReply r) t with replyQ := [] }

/-- A reply takes an entry of the queue; with all 8 taken the oldest is delivered first. -/
def Strand.pushReply (t : Strand) (r : Reply) : Strand :=
  let t := if t.replyQ.length ≥ 8 then t.reply1 else t
  { t with replyQ := t.replyQ ++ [r] }

/-- Every vector instruction issued has completed, and its replies are delivered (R36, R65, R115). -/
def Strand.drained (t : Strand) : Strand := { t.replyAll with vq := 0 }

/-! ### Issue (R53) -/

/-- A condition that must hold, or an exception. -/
def require (c : Bool) (e : Exc) (s : State) : Res Unit := if c then .ok () else .error (e, s)

/-- Step 3 of R53 for an instruction that no lane thread may execute (R133). -/
def State.classGate (s : State) (cs : List Cls) : Res State :=
  if s.cur.fork.isSome then .error (.launch 0x04 0 0 none, s)
  else if cs.contains s.cur.cls then .ok s
  else .error (.classMiss cs, s)

/-- An instruction that only the scalar agent executes: earlier replies are delivered (R111), then the class check. -/
def State.scalarGate (s : State) (cs : List Cls) : Res State := (s.onCur Strand.replyAll).classGate cs

def anyCls : List Cls := [.control, .vector, .array]
def clsV : List Cls := [.vector]
def clsA : List Cls := [.array]
def clsC : List Cls := [.control]
def clsVA : List Cls := [.vector, .array]

/-- An instruction that replies through the queue (R111) at issue: class, masks that a copy command has yet to write
(R167). -/
def State.replyGate (s : State) (cs : List Cls) (ks : List MReg) : Res State := do
  let s ← s.classGate cs
  require (!(ks.any fun k => s.cur.kdPend.contains k)) (.wait .engine) s
  return s

/-- Any other vector instruction at issue: earlier replies are delivered first (R111). -/
def State.vectorGate (s : State) (cs : List Cls) (ks : List MReg) : Res State :=
  (s.onCur Strand.replyAll).replyGate cs ks

/-- A vector instruction has done its work: VSTART is 0 and the pc moves on (R106). It counts among the at most 16 issued
and not complete (R274; a seventeenth issues as the oldest completes). -/
def State.vectorDone (s : State) (n : Nat := 4) : State :=
  s.onCur fun t => { t.adv n with vstart := 0, popped := false, vq := min 16 (t.vq + 1) }

/-- A scalar instruction has done its work. -/
def State.scalarDone (s : State) (n : Nat := 4) : State := s.onCur (·.adv n)

end Sys2Proof.Machine
end

