-- ==== Sys2Proof/Machine/Operands.lean ====
section
/-! DEFINITION. Operands of vector instructions: elements of register groups (R31, R57, R60, R107), scalar operands
(R108), active elements and the element-wise form (R105), element formats (R109), core-local storage (R146, R152), and
registers bound to streams (R155 to R157). -/

namespace Sys2Proof.Machine

/-! ### Elements of register groups -/

/-- Elements of a width that one register holds under a grant. -/
def perReg (g eb : Nat) : Nat := g * 8192 / eb

/-- A field of a number replaced. -/
def putNat (w lo n v : Nat) : Nat := w - fld w lo n * 2 ^ lo + v % 2 ^ n * 2 ^ lo

/-- Element i, of eb bits, of the group that starts at register n. -/
def getElem (v : Vector VReg 32) (g n eb i : Nat) : Nat :=
  fld (v.getD (n + i / perReg g eb) 0).toNat (i % perReg g eb * eb) eb

/-- One element replaced. -/
def setElem (v : Vector VReg 32) (g n eb i x : Nat) : Vector VReg 32 :=
  let r := n + i / perReg g eb
  v.setIfInBounds r (BitVec.ofNat 32768 (putNat (v.getD r 0).toNat (i % perReg g eb * eb) eb x))

/-- Elements replaced, in order. -/
def setElems (v : Vector VReg 32) (g n eb : Nat) (l : List (Nat × Nat)) : Vector VReg 32 :=
  l.foldl (fun v p => setElem v g n eb p.1 p.2) v

/-- Element i of a group under the strand's grant. -/
def Strand.elem (t : Strand) (n : Reg) (eb i : Nat) : Nat := getElem t.v t.g n.val eb i

/-- Bit i of a mask register. -/
def Strand.kbit (t : Strand) (k : MReg) (i : Nat) : Bool := (t.k[k]).getLsbD i

/-- Bits of a mask register replaced. -/
def setBits (k : KReg) (l : List (Nat × Bool)) : KReg :=
  BitVec.ofNat 4096 (l.foldl (fun w p => putNat w p.1 1 (if p.2 then 1 else 0)) k.toNat)

/-- VDIRTY with the bits of a group of c registers set. -/
def dirty (d : BitVec 32) (n c : Nat) : BitVec 32 :=
  (List.range c).foldl (fun d i => d ||| BitVec.ofNat 32 (2 ^ (n + i))) d

/-! ### Active elements and the element-wise form (R105) -/

/-- The elements that a replayed instruction, or one issued behind a fault, processes now (R277, R278). -/
def Strand.due (t : Strand) (i : Nat) : Bool :=
  match t.only with
  | none => true
  | some m => m.getLsbD i

/-- Active elements: in [VSTART, VL), with their k0 bit under a mask, and among those processed now. -/
def Strand.active (t : Strand) (vm : Bool) (i : Nat) : Bool :=
  decide (t.vstart ≤ i) && decide (i < t.vl) && (!vm || t.kbit 0 i) && t.due i

/-- The active elements, ascending. -/
def Strand.actives (t : Strand) (vm : Bool) : List Nat := (List.range t.vl).filter (t.active vm)

/-- Element-wise result: for each listed element a value and flags; VDIRTY bits of the destination group are set when
VSTART < VL. -/
def Strand.mapElems (t : Strand) (is : List Nat) (vd : Reg) (eb regs : Nat) (f : Nat → Nat × Nat) : Strand :=
  let rs := is.map fun i => (i, f i)
  let fl := rs.foldl (fun a p => a ||| p.2.2) 0
  { (t.accrue fl) with
    v := setElems t.v t.g vd.val eb (rs.map fun p => (p.1, p.2.1))
    vdirty := if t.vstart < t.vl then dirty t.vdirty vd.val regs else t.vdirty }

/-- A mask register written: k7 is then no longer the mask of a trim (R145). -/
def Strand.putK (t : Strand) (kd : MReg) (w : KReg) : Strand :=
  { t with k := t.k.set kd w, trimAt := if kd = 7 then none else t.trimAt }

/-- A compare: for each active element a bit and flags. -/
def Strand.mapBits (t : Strand) (vm : Bool) (kd : MReg) (f : Nat → Bool × Nat) : Strand :=
  let rs := (t.actives vm).map fun i => (i, f i)
  let fl := rs.foldl (fun a p => a ||| p.2.2) 0
  (t.accrue fl).putK kd (setBits t.k[kd] (rs.map fun p => (p.1, p.2.1)))

/-! ### Formats (R109, R60) -/

def Strand.ew (t : Strand) : Nat := vtEw t.vtype
def Strand.grp (t : Strand) : Nat := vtGrp t.vtype
def Strand.vill (t : Strand) : Bool := vtVill t.vtype

/-- A VTYPE that some instruction accepts: legal, and not EW 100 with FAM 01 (R82). -/
def Strand.vtypeOk (t : Strand) : Bool := !t.vill && !(t.ew == 4 && vtFam t.vtype == 1)

/-- VLMAX under the strand's grant and VTYPE (R31). -/
def Strand.vlmax (t : Strand) : Nat := vlMax t.g t.vtype

/-- EW 8 to 64, FAM 00 or 01. -/
def Strand.fmtInt (t : Strand) : Bool := !t.vill && t.ew != 4 && vtFam t.vtype < 2

/-- FAM 10, EW 16 to 64. -/
def Strand.fmtFloat (t : Strand) : Bool := !t.vill && (t.ew == 16 || t.ew == 32 || t.ew == 64) && vtFam t.vtype == 2

/-- EW 8 to 64, any FAM. -/
def Strand.fmtAny (t : Strand) : Bool := !t.vill && t.ew != 4

/-- The float format of an element width, ALT choosing between two (R63). -/
def fmtOf (ew : Nat) (alt : Bool) : Fmt :=
  if ew = 8 then (if alt then e5m2 else e4m3)
  else if ew = 16 then (if alt then bf16 else fp16)
  else if ew = 32 then fp32 else fp64

def Strand.fmt (t : Strand) : Fmt := fmtOf t.ew (vtAlt t.vtype)

/-- A register number is a multiple of a group size. -/
def aligned (n : Reg) (c : Nat) : Bool := n.val % c == 0

/-- Every operand of a list is aligned to the grouping (R60). -/
def Strand.groupsOk (t : Strand) (ns : List Reg) : Bool := ns.all fun n => aligned n t.grp

/-- Groups of c and d registers that share no register (R107). -/
def disjoint (a : Reg) (c : Nat) (b : Reg) (d : Nat) : Bool :=
  decide (a.val + c ≤ b.val) || decide (b.val + d ≤ a.val)

/-- VRND.RM holds a mode, for the instructions that round (R61, R109). -/
def Strand.rmOk (t : Strand) : Bool := (rmOf (t.vrnd.toNat % 8)).isSome

/-- How vector instructions round: VRND's mode and FTZ (R86, R88). -/
def Strand.round (t : Strand) : Round :=
  { rm := (rmOf (t.vrnd.toNat % 8)).getD .rne, sat := false, ftz := t.vrnd.getLsbD 3 }

/-! ### Scalar operands (R108) -/

/-- An x register or immediate in EW bits. -/
def lowBits (w : Word) (ew : Nat) : Nat := fld w.toNat 0 ew

/-- A 5-bit immediate sign-extended to EW bits. -/
def immBits (i : BitVec 5) (ew : Nat) : Nat := unsignedOf ew i.toInt

/-- An f register as an element: NaN-boxed narrow values, the canonical NaN where the box is wrong. -/
def fOperand (w : Word) (f : Fmt) : Nat :=
  if f.width = 64 then w.toNat
  else if fld w.toNat f.width (64 - f.width) = 2 ^ (64 - f.width) - 1 then fld w.toNat 0 f.width
  else f.nanBits

/-- A narrow value NaN-boxed (R57). -/
def nanBox (width v : Nat) : Word := BitVec.ofNat 64 (v % 2 ^ width + (2 ^ 64 - 2 ^ width))

/-! ### Core-local storage (R146, R152, R174, R178) -/

/-- Storage of a space: 0 lane-local scratch, 1 activation buffer, 2 accumulator rows. -/
def Strand.loc (t : Strand) (space : Nat) : Mem :=
  match space with
  | 0 => t.scratch
  | 1 => t.act
  | _ => t.acc

def Strand.putLoc (t : Strand) (space : Nat) (m : Mem) : Strand :=
  match space with
  | 0 => { t with scratch := m }
  | 1 => { t with act := m }
  | _ => { t with acc := m }

/-- Where byte offset `off` of lane `l` stands in the scratch. -/
def scratchAt (lane off : Nat) : Nat := lane * 16384 + off

/-- Place of packed element i of eb bytes at a base offset, in a space, under a grant. -/
def localAt (space g base eb i : Nat) : Nat :=
  if space = 0 then scratchAt (i % (8 * g)) (base + i / (8 * g) * eb) else base + i * eb

/-- Bytes of the strand's region of a space (per lane for scratch). -/
def Strand.regionBytes (t : Strand) (space : Nat) : Nat :=
  match space with
  | 0 => t.scratchBytes
  | 1 => t.actBytes
  | _ => t.accRows * 512

/-! ### Streams bound to registers (R155 to R157) -/

def Stream.isInput (h : Stream) : Bool := h.kind == 0 || h.kind == 3

/-- Pattern elements of a stream (R152). -/
def Stream.total (h : Stream) : Nat := (h.dims.map (·.1)).foldl (· * ·) 1

/-- The handle bound to a register. -/
def Strand.boundTo (t : Strand) (r : Reg) : Option (QReg × Stream) :=
  firstSome (fun q : QReg =>
    match t.q[q] with
    | some h => if h.binding = some r then some (q, h) else none
    | none => none) (List.finRange 16)

def Strand.putStream (t : Strand) (q : QReg) (h : Option Stream) : Strand := { t with q := t.q.set q h }

/-- Unread elements of the oldest filled slot (R156). -/
def Stream.headCount (h : Stream) : Nat := match h.filled with | p :: _ => p.count - p.off | [] => 0

/-- Unread elements in filled slots. -/
def Stream.avail (h : Stream) : Nat := (h.filled.map fun p => p.count - p.off).sum

/-- END of an input: the end is marked and no element remains, in the ring or on its way (R158, R161). -/
def Stream.atEnd (h : Stream) : Bool := h.ended && h.filled == [] && h.wire == []

/-- Byte place of element i of ring slot p (R152). -/
def Stream.slotAt (h : Stream) (p i : Nat) : Nat := localAt h.space h.g (h.rbase + p * h.slotBytes) h.eb i

/-- Elements of a ring slot from an offset on. -/
def Strand.slotElems (t : Strand) (h : Stream) (p off n : Nat) : List Nat :=
  (List.range n).map fun i => (t.loc h.space).readNat (h.slotAt p (off + i)) h.eb

/-- Elements stored in a ring slot. -/
def Strand.fillSlot (t : Strand) (h : Stream) (p : Nat) (es : List Nat) : Strand :=
  t.putLoc h.space ((es.zipIdx).foldl (fun m e => m.writeNat (h.slotAt p e.2) h.eb e.1) (t.loc h.space))

/-- A filled slot is added at the ring position that comes next. -/
def Strand.addSlot (t : Strand) (q : QReg) (h : Stream) (es : List Nat) : Strand :=
  (t.fillSlot h h.next es).putStream q (some { h with
    filled := h.filled ++ [{ pos := h.next, count := es.length, off := 0 }]
    next := (h.next + 1) % h.nslot })

/-- The handle matched with a stage-output handle (R161). -/
def State.mateOf (s : State) (h : Stream) : Option Stream :=
  match h.mate with
  | none => none
  | some (uid, q) => match s.strand uid with | some t => t.q[q] | none => none

/-- FREE (R158, R162): free slots of the ring, of the consumer's ring for a stage output. -/
def State.freeSlots (s : State) (h : Stream) : Nat :=
  if h.kind = 2 then
    match s.mateOf h with
    | some c => c.nslot - c.filled.length - c.reserved
    | none => 0
  else h.nslot - h.filled.length - h.reserved

/-- SE of a handle (R152, R162). -/
def State.slotCap (s : State) (h : Stream) : Nat :=
  if h.kind = 2 then (match s.mateOf h with | some c => c.se | none => 0) else h.se

/-- Slots reserved in the ring a handle's strips go to change by a function. -/
def State.reserve (s : State) (q : QReg) (h : Stream) (f : Nat → Nat) : State :=
  if h.kind = 2 then
    match h.mate with
    | some (uid, cq) =>
      s.updStrand uid fun t =>
        match t.q[cq] with
        | some c => t.putStream cq (some { c with reserved := f c.reserved })
        | none => t
    | none => s
  else s.onCur fun t => t.putStream q (some { h with reserved := f h.reserved })

/-- Input streams among the registers read, each once. -/
def Strand.inputs (t : Strand) (reads : List Reg) : List (Reg × QReg × Stream) :=
  reads.eraseDups.filterMap fun r =>
    match t.boundTo r with
    | some (q, h) => if h.isInput then some (r, q, h) else none
    | none => none

/-- Output streams among the registers written. -/
def Strand.outputs (t : Strand) (writes : List Reg) : List (Reg × QReg × Stream) :=
  writes.eraseDups.filterMap fun r =>
    match t.boundTo r with
    | some (q, h) => if h.isInput then none else some (r, q, h)
    | none => none

/-- Pop of n elements of a handle into its register (R156). -/
def Strand.pop (t : Strand) (n : Nat) (e : Reg × QReg × Stream) : Strand :=
  let h := e.2.2
  match h.filled with
  | [] => t
  | p :: ps =>
    let es := t.slotElems h p.pos p.off n
    let p' := { p with off := p.off + n }
    { (t.putStream e.2.1 (some { h with filled := if p'.off = p'.count then ps else p' :: ps })) with
      v := setElems t.v t.g e.1.val (h.eb * 8) ((es.zipIdx).map fun x => (x.2, x.1))
      vdirty := if n > 0 then dirty t.vdirty e.1.val t.grp else t.vdirty }

/-- The stream side of issue (R156, R157): the checks, the wait, the pops with VL trimmed, a slot reserved for each
output. An output whose SE is known waits for its free slot before VL above SE is judged: R157 does not order the two
(DESIGN CHOICE, log 62). -/
def State.streamIn (s : State) (reads writes : List Reg) : Res State :=
  let t := s.cur
  let ins := t.inputs reads
  let outs := t.outputs writes
  if t.outputs reads != [] || t.inputs writes != [] then .error (.illegal, s)
  else if ins.any (fun e => e.2.2.eb * 8 != t.ew) || outs.any (fun e => e.2.2.eb * 8 != t.ew) then
    .error (.illegal, s)
  else if ins != [] && t.vstart != 0 then .error (.illegal, s)
  else if ins.any fun e => e.2.2.headCount == 0 && !e.2.2.atEnd then .error (.wait .stream, s)
  else
    let vl := ins.foldl (fun n e => min n e.2.2.headCount) t.vl
    if vl != 0 && outs.any fun e => s.freeSlots e.2.2 == 0 then .error (.wait .stream, s)
    else if vl != 0 && outs.any fun e => vl > s.slotCap e.2.2 then .error (.illegal, s)
    else
      let s := s.onCur fun t => ins.foldl (fun t e => t.pop vl e) { t with vl := vl }
      .ok (if vl = 0 then s else outs.foldl (fun s e => s.reserve e.2.1 e.2.2 (· + 1)) s)

/-- One strip appended at completion (R157): into the store stream's ring, or on its way to the consumer's. A handle
that has ended takes no strip: END never clears (R161), so the strip is discarded and its slot free again; the spec says
nothing of a strip after `qend` (DESIGN CHOICE, log 61). -/
def State.append (s : State) (e : Reg × QReg) : State :=
  match s.cur.q[e.2] with
  | none => s
  | some h =>
    if h.ended then s.reserve e.2 h (· - 1)
    else
    let es := (List.range s.cur.vl).map fun i => s.cur.elem e.1 (h.eb * 8) i
    if h.kind = 2 then
      match h.mate with
      | some (uid, cq) =>
        s.updStrand uid fun t =>
          match t.q[cq] with
          | some c => t.putStream cq (some { c with wire := c.wire ++ [.data es] })
          | none => t
      | none => s
    else s.onCur fun t => t.addSlot e.2 { h with reserved := h.reserved - 1 } es

/-- The producer's release is not over: a store it made before the append is held back (R189, R305). -/
def State.stripWaits (s : State) (h : Stream) : Bool :=
  match h.mate with
  | some (pu, _) => s.standsBy pu false true
  | none => false

/-- A strip, or the end mark, arrives in a consumer's ring (R161); a strip after what its producer released by it (R189). -/
def State.arriveStrip (s : State) (uid : Nat) (q : QReg) : State :=
  s.updStrand uid fun t =>
    match t.q[q] with
    | none => t
    | some h =>
      match h.wire with
      | [] => t
      | .ended :: w => t.putStream q (some { h with wire := w, ended := true })
      | .data es :: w =>
        if s.stripWaits h then t else t.addSlot q { h with wire := w, reserved := h.reserved - 1 } es

/-- Strips, and end marks, that a producer has on their way arrive in their consumers' rings (R163). -/
def State.landStrips (s : State) (t : Strand) : State :=
  (List.finRange 16).foldl (fun s q =>
    match t.q[q] with
    | some h =>
      match (if h.kind = 2 then h.mate else none) with
      | some (cu, cq) =>
        (List.range (match s.strand cu with | some c => (match c.q[cq] with | some k => k.wire.length | none => 0) | none => 0)).foldl
          (fun s _ => s.arriveStrip cu cq) s
      | none => s
    | none => s) s

/-- An append of a producer cannot land yet, and a carrier move waits for it (R163). -/
def State.stripsHeld (s : State) (t : Strand) : Bool :=
  s.standsBy t.uid false true && t.q.toList.any fun o =>
    match o with
    | some h => h.kind == 2 && match s.mateOf h with | some c => c.wire != [] | none => false
    | none => false

/-- The stream side of completion (R157): with VL = 0 nothing is appended; an append is a release of the vector agent,
which flushes its write-combining buffers (R184, R189). -/
def State.streamOut (s : State) (writes : List Reg) : State :=
  if s.cur.vl = 0 || (s.cur.outputs writes).isEmpty then s
  else (s.cur.outputs writes).foldl (fun s e => s.append (e.1, e.2.1)) (s.flushWc s.cur.uid false true)

/-- A vector computation instruction whole: issue (R53, R111, R167), its own check (step 4), its streams, its effect on
the strand, completion. -/
def State.vectorOp (s : State) (cs : List Cls) (ks : List MReg) (reads writes : List Reg) (ok : Strand → Bool)
    (body : Strand → Strand) : Res State := do
  let s ← s.vectorGate cs ks
  require (ok s.cur) .illegal s
  let s ← s.streamIn reads writes
  return ((s.onCur body).streamOut writes).vectorDone

/-- Mask registers that a masked instruction reads. -/
def maskOf (vm : Bool) : List MReg := if vm then [0] else []

end Sys2Proof.Machine
end

