-- ==== Sys2Proof/Machine/Registers.lean ====
section
/-! DEFINITION. The registers of the shared blocks and of the core register window (R17 to R23, R170 to R175, R233,
R251, R253, R255, R269, R299 to R301, R309, R311, R314, R317), what their writes do, and their map (R310). -/

namespace Sys2Proof.Machine

/-! ### Requests to launches (R257, R260, R284, R317) -/

/-- The live launch with a context and LAUNCHID. -/
def State.liveLaunch (s : State) (ctx lid : Nat) : Option Launch :=
  match s.launch lid with
  | some l => if l.ctx = ctx ∧ l.live then some l else none
  | none => none

/-- Cancel (LS_CANCEL); none for an unknown launch. -/
def State.cancelLaunch (s : State) (ctx lid : Nat) : Option State :=
  match s.liveLaunch ctx lid with
  | some _ => some (s.kill lid 0x03 0)
  | none => none

/-- PREEMPTION_START of a running launch, as asked for; it waits while its context's descriptor is held back. -/
def State.preemptStart (s : State) (lid : Nat) : State :=
  s.orWait { row := .preemptionStart, arg := { lid := lid } }
    (match s.launch lid with | some l => s.ctxHeld l.ctx | none => false) fun s => (s.preempt lid none).getD s

/-- Resumption asked for (R260). -/
def State.resumeLaunch (s : State) (ctx lid : Nat) : Option State :=
  match s.liveLaunch ctx lid with
  | some l => some (if l.st = .preempted ∨ l.st = .preempting then s.updLaunch lid fun l => { l with resuming := true } else s)
  | none => none

/-! ### Queue slots (R233, R235, R263, R327) -/

def State.qslot (s : State) (n : Nat) : QSlot :=
  (s.lu.slots.find? fun q => q.slot == n).getD { slot := n, badn := false, mapped := false, uq := 0 }

def State.putQslot (s : State) (q : QSlot) : State :=
  { s with lu := { s.lu with slots := sortBy (fun a b => a.slot < b.slot) (q :: s.lu.slots.filter fun p => p.slot != q.slot) } }

/-- A notify of s to a mapped queue: QSSN, or BADN when it runs beyond the ring. -/
def State.notifyQueue (s : State) (q : QSlot) (u : UQueue) (n : Nat) : State :=
  if n ≤ u.ssn then s
  else if n - u.csn > 2 ^ u.rlog then s.putQslot { q with badn := true }
  else (s.putQslot { q with badn := false }).updUq u.uq fun u => { u with ssn := n }

/-- A write of QNOTIFY: to the queue mapped; else, above the submission and notified numbers in the record of the queue
mapped last, PEND and the number there (R263), when that can be read, and after the slot's earlier notifies (R303); ignored in
D3hot, and at a slot that never held a queue. -/
def State.notify (s : State) (slot n : Nat) : State :=
  let q := s.qslot slot
  if s.plat.d3 then s
  else if !(s.lu.slots.any fun p => p.slot == slot) then s
  else
    match s.uqueue q.uq with
    | none => s
    | some u =>
      let e : Event := { row := .qnotifyWrite, arg := { slot := slot, word := BitVec.ofNat 64 n } }
      let earlier := (s.lu.waiting.takeWhile (· != e)).any fun k => k.row == .qnotifyWrite && k.arg.slot == slot
      s.orWait e (earlier || !q.mapped && s.recHeld u.recAddr) fun s =>
        if q.mapped then s.notifyQueue q u n
        else
          let s := s.unitTouch u.recAddr 64
          if (s.reread u).ssn < n ∧ (s.reread u).notified < n then
            s.updUq u.uq fun u => { u with pend := true, notified := n }
          else s

/-- QSTAT. -/
def State.qstat (s : State) (q : QSlot) : Nat :=
  (if q.mapped then q.uq * 2 ^ 32 else 0) + boolBit q.badn 2 + boolBit (q.mapped && !s.hc.present) 1 + boolBit q.mapped 0

/-! ### The host's presence (R318) -/

/-- ATTACH: held completions, HOLD := 0, PRESENT := 1; it waits while the record of an unmapped queue is held back (R303). -/
def State.attach (s : State) : State :=
  s.orWait { row := .hostctlAttach, arg := {} } (s.lu.uqs.any fun q => !(s.uqMapped q.uq) && s.recHeld q.recAddr) fun s =>
    let s : State := { s with hc := { s.hc with present := true } }
    let s : State := s.lu.uqs.foldl (fun s q => s.completeHeld q.uq) s
    s.lu.uqs.foldl (fun s q => s.updUq q.uq fun q => { q with hold := false }) s

/-- An ATTACH that still waits is given up: the host has detached, or its link is down. -/
def State.dropAttach (s : State) : State :=
  { s with lu := { s.lu with waiting := s.lu.waiting.filter fun e => e.row != .hostctlAttach } }

/-- The lines of host memory that a core holds are dropped: what its dirty lines hold is lost, and host memory is as it
was before they were written (R318). -/
def State.dropHostLines (s : State) : State :=
  let lost := s.cores.flatMap fun c => c.lines.filter fun l => l.space == .host && l.coh == .m
  { s with
    host := lost.foldl (fun m l => m.write (l.line * 128) l.back) s.host
    cores := s.cores.map fun c => { c with lines := c.lines.filter fun l => l.space != .host }
    coh := { s.coh with dir := s.coh.dir.filter fun e => e.space != .host } }

/-- The host, while present, becomes absent: HOLD at every mapped queue, its lines dropped, launches of contexts with
HAPOL = 1 that have a strand killed with class 0x16. -/
def State.hostLost (s : State) : State :=
  let s := s.dropAttach
  if !s.hc.present then s else
  let s : State := (s.lu.launches.filter (·.live)).foldl (fun s l => s.unitTouch (s.ctxAddr l.ctx) 64) s
  let hapol (l : Launch) : Bool := s.ctxHapol l.ctx
  let mapped (uq : Nat) : Bool := s.lu.slots.any fun q => q.mapped && q.uq == uq
  let s : State := { s with hc := { s.hc with present := false } }
  let s : State := (s.lu.uqs.filter fun q => mapped q.uq).foldl (fun s q => s.updUq q.uq fun q => { q with hold := true }) s
  let s : State := s.dropHostLines
  let doomed : List Launch := s.lu.launches.filter fun l => l.live && hapol l && s.strands.any fun t =>
    t.lid == l.lid && !t.system && t.status != .gone
  doomed.foldl (fun s l => s.killFault l.lid 0x16) s

/-- Strands posted in a blocking service call on a slip of a context read its STATE again (R320). -/
def State.svcNotify (s : State) (ctx slip : Nat) : State :=
  s.mapStrands fun t =>
    if t.ctx = ctx ∧ t.slip = some slip ∧ t.posted ∧ t.status = .waiting .service then t.setStatus .running else t

/-! ### Machine errors (R311) -/

/-- MERR bits. -/
def mSELFTEST : Nat := 0
def mTHERM : Nat := 1
def mUNLOCK : Nat := 2
def mSWEEP : Nat := 3
def mPEERFAIL : Nat := 4
def mHOSTWR : Nat := 5
def mHOSTBI : Nat := 6

def State.merr (s : State) (bit : Nat) : State :=
  { s with plat := { s.plat with merr := s.plat.merr ||| BitVec.ofNat 7 (2 ^ bit) } }

/-- MSI-X vector 0 is asserted to the host while any bit of MERR is set (R312). -/
def State.msix0 (s : State) : Bool := s.plat.merr != 0

/-- A host write refused (R210, R307, R317). -/
def State.refuseHostWrite (s : State) (dla : Nat) : State :=
  ({ s with hc := { s.hc with herra := BitVec.ofNat 64 dla, herrn := s.hc.herrn + 1 } }).merr mHOSTWR

/-! ### Locked clock (R256, R326) -/

/-- A write of PLATCTL.LOCK: a change of clock begins; LOCK = 1 is ignored while any core is at TTRIP. -/
def State.lockWrite (s : State) (lock : Bool) : State :=
  if lock && s.cores.any (fun c => Config.ttrip ≤ c.temp.toNat) then s
  else { s with plat := { s.plat with lock := lock, changing := lock != s.plat.locked } }

/-! ### Live memory stack retirement (R300, R301) -/

/-- NCAP(k): capacity of k stacks in 64 KiB units. -/
def ncap (k : Nat) : Nat := k * 1953125 / 2

def MemSvc.nActive (m : MemSvc) : Nat := ((List.range 12).filter fun n => m.active.getLsbD n).length

def State.capWrite (s : State) (cap : Nat) : State :=
  let m := s.mem
  { s with mem :=
      if m.st ≠ 0 ∨ cap > ncap m.nActive then { m with refuse := true }
      else if cap < m.lim then { m with cap := cap }
      else { m with cap := cap, lim := cap } }

/-- The sweep's STATE once P has a value (R302): the window under P is staged or not. -/
def MemSvc.windowed (m : MemSvc) : MemSvc := { m with st := if m.staged m.p then 2 else 1 }

/-- The sweep is over: the stack leaves service, and MERR.SWEEP is set (R301, R311). -/
def State.sweepOver (s : State) : State := ({ s with mem := { s.mem with p := 0, st := 0, fstk := 0 } }).merr mSWEEP

/-- IRMCTL.START for a stack at a rate: with nothing below CAP the sweep is over at once (R301). -/
def State.irmStart (s : State) (fstk share : Nat) : State :=
  let m := s.mem
  if m.st ≠ 0 ∨ !(m.active.getLsbD fstk) ∨ m.nActive = 1 ∨ m.cap > ncap (m.nActive - 1) ∨ m.snapBusy then
    { s with mem := { m with refuse := true } }
  else
    let m : MemSvc :=
      { m with phase := m.phase + 1, active := m.active &&& ~~~(BitVec.ofNat 12 (2 ^ fstk))
               fstk := BitVec.ofNat 4 fstk, lim := m.cap, p := 16 * m.cap, st := 1
               share := BitVec.ofNat 4 (if share = 0 then 4 else share) }
    if m.p = 0 then ({ s with mem := m }).sweepOver else { s with mem := m.windowed }

/-- SNAPCTL.START (R309): pooled memory is peer 0 (R323), so the whole target range must keep OA bits [55:48] at 0. LIM and
SNAPDST are those of this moment. -/
def State.snapStart (s : State) : State :=
  let m := s.mem
  { s with mem :=
      if m.snapBusy ∨ m.st ≠ 0 ∨ m.snapDst.toNat + m.lim * 65536 > 2 ^ 48 then { m with snapErr := true }
      else { m with snapBusy := true, snapLim := m.lim, snapTo := m.snapDst } }

/-! ### Keys (R314) -/

def State.putKey (s : State) (k : KeySlot) : State :=
  { s with keys := sortBy (fun a b => a.slot < b.slot) (k :: s.keys.filter fun e => e.slot != k.slot) }

def State.kctlWrite (s : State) (n : Nat) (v : Word) : State :=
  if n = 0 then s
  else
    let k := s.keySlot n
    let en := v.getLsbD 63
    s.putKey { k with en := en, owner := BitVec.ofNat 12 (bf v 0 12), key := if en then k.key else none }

def State.nonceWrite (s : State) (n : Nat) (v : Word) : State :=
  if n = 0 then s
  else
    let k := s.keySlot n
    if k.en then s else s.putKey { k with key := some v }

def kctlWord (k : KeySlot) : Nat := boolBit k.en 63 + k.owner.toNat

/-! ### TLB invalidation (R269) -/

/-- An invalidation request is accepted: every entry of a context, or those that map a page. -/
def State.tlbRequest (s : State) (ctx : Nat) (page : Option Nat) : State :=
  { s with xl := { s.xl with sub := s.xl.sub + 1, requests := s.xl.requests ++ [(ctx, page)] } }

/-! ### Core registers (R170 to R175, R251, R253, R255) -/

/-- LSPLIT.CSZ: a split that differs from CUR waits for an empty core. -/
def State.lsplitWrite (s : State) (id : Nat) (csz : BitVec 2) : State :=
  if coreClass id = .vector then s.updCore id fun c => { c with csz := csz, pend := csz != c.cur } else s

def State.vpoolWrite (s : State) (id : Nat) (v : Word) : State :=
  if coreClass id = .vector then
    s.updCore id fun c => { c with vway := BitVec.ofNat 16 (bf v 16 16), vsize := BitVec.ofNat 2 (bf v 0 2) }
  else s

def State.wmaskWrite (s : State) (id n : Nat) (v : Word) : State :=
  if coreClass id = .vector then s.updCore id fun c => { c with wmask := listSet c.wmask n (BitVec.ofNat 16 (bf v 0 16)) }
  else s

/-- MIXCTL, on vector cores. -/
def State.mixctlWrite (s : State) (id : Nat) (v : Word) : State :=
  if coreClass id = .vector then
    s.updCore id fun c => { c with men := v.getLsbD 16, mthr := BitVec.ofNat 16 (bf v 0 16) }
  else s

/-- LAT (R251). -/
def latWord (c : Core) : Nat :=
  ((List.range 4).map fun p => match c.lat.getD p none with | some sl => 2 ^ (8 * p + 7) + sl * 2 ^ (8 * p) | none => 0).sum

/-- A read of a core's register block. -/
def State.coreRead (s : State) (id off : Nat) : Nat :=
  let c := s.core id
  let vec := coreClass id == .vector
  if off = 0x058 then c.temp.toNat * 2 ^ 4 + c.sen.toNat
  else if off ≥ 0x010 && off < 0x030 then (if vec then (c.wmask.getD ((off - 0x010) / 8) 0).toNat else 0xFFFF)
  else if !vec then 0
  else if off = 0x000 then c.cur.toNat * 2 ^ 8 + boolBit c.pend 4 + c.csz.toNat
  else if off = 0x008 then c.vway.toNat * 2 ^ 16 + boolBit (s.poolOk id) 8 + c.vsize.toNat
  else if off ≥ 0x030 && off < 0x050 then c.socc ((off - 0x030) / 8)
  else if off = 0x050 then latWord c
  else if off = 0x060 then boolBit c.men 16 + c.mthr.toNat
  else 0

def State.coreWrite (s : State) (id off : Nat) (v : Word) : State :=
  if off = 0x000 then s.lsplitWrite id (BitVec.ofNat 2 (bf v 0 2))
  else if off = 0x008 then s.vpoolWrite id v
  else if off ≥ 0x010 && off < 0x030 then s.wmaskWrite id ((off - 0x010) / 8) v
  else if off = 0x060 then s.mixctlWrite id v
  else s

/-! ### Discovery (R17 to R23) -/

def qdslot (chip : Nat) : Nat :=
  match chipClass chip with
  | some .control => 0x01102000
  | some .vector => 0x02304400
  | some .array => 0x03202400
  | none => 0

def discovery (booted : Bool) (off : Nat) : Nat :=
  if off = 0x000 then 0x0001420002000000
  else if !booted then 0
  else if off = 0x008 then 0x02000200
  else if off = 0x010 then 0x0540 * 2 ^ 32 + 0x100 * 2 ^ 21 + 0x0C0 * 2 ^ 10 + 0x020
  else if off = 0x018 then 0x0040 * 2 ^ 32 + 0xC * 2 ^ 24 + 0xFFF
  else if off = 0x020 then 0x8 * 2 ^ 8 + 0x7E
  else if off ≥ 0x100 && off < 0x180 && off % 8 = 0 then qdslot ((off - 0x100) / 8 % 8)
  else 0

/-! ### The map (R310) -/

/-- Who accesses a block. -/
inductive Via
  | host | sMode | mMode
  deriving DecidableEq, Repr

/-- The first address of the blocks as control cores see them. -/
def blockBase : Nat := 0x010000000000

/-- Offset of an access from the base when its agent reaches the block it lies in. -/
def reach (via : Via) (off : Nat) : Bool :=
  (off < 0x1000)
    || (0x10000 ≤ off && off < 0x18000)
    || (0x20000 ≤ off && off < 0x21000)
    || (via != .host && ((0x30000 ≤ off && off < 0x31000) || (0x10000000 ≤ off && off < 0x12000000)))
    || (via == .mMode && ((0x40000 ≤ off && off < 0x41000) || (0x50000 ≤ off && off < 0x51000)
        || (0x60000 ≤ off && off < 0x70000)))

def slotRead (s : State) (q off : Nat) : Nat :=
  let sl := s.qslot q
  let u := if sl.mapped then s.uqueue sl.uq else none
  match u with
  | none => if off = 0x18 then s.qstat sl else 0
  | some u => if off = 0x08 then u.ssn else if off = 0x10 then u.csn else if off = 0x18 then s.qstat sl else 0

def hostRead (s : State) (off : Nat) : Word × State :=
  if off = 0x00 then (BitVec.ofNat 64 (boolBit s.hc.present 2), s)
  else if off = 0x10 then (s.hc.hcmdid, s)
  else if off = 0x20 then (s.hc.herra, { s with hc := { s.hc with herra := 0 } })
  else if off = 0x28 then (s.hc.herrn, { s with hc := { s.hc with herrn := 0 } })
  else (0, s)

/-- HCMD (R317): acts as `ccmove` OP 3, 4 or 5. -/
def State.hcmd (s : State) (op ctx : Nat) : State :=
  let lid := s.hc.hcmdid.toNat
  if op = 1 then (s.cancelLaunch ctx lid).getD s
  else if op = 2 then (match s.liveLaunch ctx lid with | some _ => s.preemptStart lid | none => s)
  else if op = 3 then (s.resumeLaunch ctx lid).getD s
  else s

def hostWrite (s : State) (off : Nat) (v : Word) : State :=
  if off = 0x00 then
    let s := if v.getLsbD 0 then s.hostLost else s
    if v.getLsbD 1 then s.attach else s
  else if off = 0x08 then s.svcNotify (bf v 32 12) (bf v 0 16)
  else if off = 0x10 then { s with hc := { s.hc with hcmdid := v } }
  else if off = 0x18 then s.hcmd (bf v 62 2) (bf v 0 12)
  else s

def memRead (s : State) (off : Nat) : Nat :=
  let m := s.mem
  if off = 0x00 then m.lim * 2 ^ 40 + m.cap * 2 ^ 16
  else if off = 0x08 then m.phase.toNat
  else if off = 0x10 then m.p
  else if off = 0x18 then m.active.toNat * 2 ^ 20 + m.fstk.toNat * 2 ^ 16 + boolBit m.refuse 5 + boolBit m.err 4 + m.st
  else if off = 0x28 then m.snapDst.toNat
  else if off = 0x30 then boolBit m.snapErr 2 + boolBit m.snapDone 1 + boolBit m.snapBusy 0
  else 0

def memWrite (s : State) (off : Nat) (v : Word) : State :=
  let m := s.mem
  if off = 0x00 then s.capWrite (bf v 16 24)
  else if off = 0x18 then
    { s with mem := { m with refuse := m.refuse && !(v.getLsbD 5), err := m.err && !(v.getLsbD 4) } }
  else if off = 0x20 then (if v.getLsbD 63 then s.irmStart (bf v 16 4) (bf v 8 4) else s)
  else if off = 0x28 then { s with mem := { m with snapDst := BitVec.ofNat 64 (bf v 16 48 * 2 ^ 16) } }
  else if off = 0x30 then
    let s := { s with mem := { m with snapErr := m.snapErr && !(v.getLsbD 2), snapDone := m.snapDone && !(v.getLsbD 1) } }
    if v.getLsbD 63 then s.snapStart else s
  else s

def platRead (s : State) (off : Nat) : Word × State :=
  let p := s.plat
  if off = 0x00 then (p.ctxbase, s)
  else if off = 0x08 then (p.tenbase, s)
  else if off = 0x10 then (p.intrt, s)
  else if off = 0x18 then (BitVec.ofNat 64 (boolBit p.locked 8 + boolBit p.lock 0), s)
  else if off = 0x20 then (BitVec.ofNat 64 (p.merrCore.toNat * 2 ^ 16 + p.merr.toNat), s)
  else if off = 0x28 then (p.peerst, s)
  else if off = 0x30 then (BitVec.ofNat 64 p.netst.toNat, s)
  else if off = 0x38 then (p.pktbase, s)
  else if off ≥ 0x40 && off < 0xA0 then
    (BitVec.ofNat 64 (p.stkce.getD ((off - 0x40) / 8) 0).toNat,
      { s with plat := { p with stkce := listSet p.stkce ((off - 0x40) / 8) 0 } })
  else (0, s)

def platWrite (s : State) (off : Nat) (v : Word) : State :=
  let p := s.plat
  if off = 0x00 then { s with plat := { p with ctxbase := BitVec.ofNat 64 (bf v 18 46 * 2 ^ 18) } }
  else if off = 0x08 then { s with plat := { p with tenbase := BitVec.ofNat 64 (bf v 13 51 * 2 ^ 13) } }
  else if off = 0x10 then { s with plat := { p with intrt := BitVec.ofNat 64 (bf v 0 32) } }
  else if off = 0x18 then s.lockWrite (v.getLsbD 0)
  else if off = 0x20 then { s with plat := { p with merr := p.merr &&& ~~~(BitVec.ofNat 7 (bf v 0 7)) } }
  else if off = 0x28 then { s with plat := { p with peerst := p.peerst &&& ~~~v } }
  else if off = 0x38 then { s with plat := { p with pktbase := BitVec.ofNat 64 (bf v 16 48 * 2 ^ 16 + bf v 0 1) } }
  else s

/-- A read of a block: its value, and the machine after what the read clears. Anything but an aligned access of 8 bytes
(4 or 8 in the discovery block, R17) reads zero. -/
def State.blockRead (s : State) (via : Via) (off n : Nat) : Word × State :=
  if !(reach via off) || off % n != 0 then (0, s)
  else if off < 0x1000 then
    (if n = 8 then (BitVec.ofNat 64 (discovery s.plat.booted off), s)
     else if n = 4 then (BitVec.ofNat 64 (discovery s.plat.booted (off / 8 * 8) / 2 ^ (off % 8 * 8) % 2 ^ 32), s)
     else (0, s))
  else if n != 8 || !s.plat.booted then (0, s)
  else if off < 0x18000 then (BitVec.ofNat 64 (slotRead s ((off - 0x10000) / 0x20) (off % 0x20)), s)
  else if off < 0x21000 then hostRead s (off - 0x20000)
  else if off < 0x31000 then
    (BitVec.ofNat 64 (if off = 0x30008 then s.xl.sub.toNat else if off = 0x30010 then s.xl.done.toNat else 0), s)
  else if off < 0x41000 then (BitVec.ofNat 64 (memRead s (off - 0x40000)), s)
  else if off < 0x51000 then platRead s (off - 0x50000)
  else if off < 0x70000 then
    (BitVec.ofNat 64 (if off % 16 = 0 then kctlWord (s.keySlot ((off - 0x60000) / 16)) else 0), s)
  else (BitVec.ofNat 64 (
    if coreIds.contains ((off - 0x10000000) / 0x1000) then s.coreRead ((off - 0x10000000) / 0x1000) (off % 0x1000) else 0), s)

/-- A write of a block; anything but an aligned access of 8 bytes is ignored. -/
def State.blockWrite (s : State) (via : Via) (off n : Nat) (v : Word) : State :=
  if !(reach via off) || off % 8 != 0 || n != 8 || !s.plat.booted then s
  else if off < 0x1000 then s
  else if off < 0x18000 then (if off % 0x20 = 0 then s.notify ((off - 0x10000) / 0x20) v.toNat else s)
  else if off < 0x21000 then hostWrite s (off - 0x20000) v
  else if off < 0x31000 then
    (if off = 0x30000 then s.tlbRequest (bf v 40 12) (if v.getLsbD 63 then none else some (bf v 0 39)) else s)
  else if off < 0x41000 then memWrite s (off - 0x40000) v
  else if off < 0x51000 then platWrite s (off - 0x50000) v
  else if off < 0x70000 then
    (if off % 16 = 0 then s.kctlWrite ((off - 0x60000) / 16) v else s.nonceWrite ((off - 0x60000) / 16) v)
  else s.coreWrite ((off - 0x10000000) / 0x1000) (off % 0x1000) v

end Sys2Proof.Machine
end

