-- ==== Sys2Proof/Machine/Access.lean ====
section
/-! DEFINITION. Data accesses of the current strand's scalar and vector agents: translated accesses of U-mode (R264 to
R270), write combining (R184), the cache portion (R172), Bare accesses of S-mode and M-mode (R307, R310). Byte order is
little-endian everywhere (R6). Accesses take place one at a time in one order (log 3). -/

namespace Sys2Proof.Machine

/-! ### Addresses -/

/-- The 64-bit form of a 55-bit address (R264). -/
def canon64 (va : Nat) : Nat := unsignedOf 64 (signedOf 55 va)

/-- An access of n bytes lies in the canonical range (R141). -/
def inRange (a : Int) (n : Nat) : Bool := decide (-(2 ^ 54 : Nat) ≤ a) && decide (a + n ≤ (2 ^ 54 : Nat))

/-- The exception of a judgement at an address. -/
def excOf (acc : Acc) (j : Judged × Nat) : Exc :=
  match j.1 with
  | .ok _ => .illegal
  | .trans c => .trans [(canon64 j.2, c, accBits acc)] none
  | .launch cls => .launch cls (canon64 j.2) (accBits acc) none
  | .stall => .wait .store

/-- The places of an access in a context. Both pages of an access across a page boundary are reported when both meet a
repairable fault (R273). -/
def State.placesIn (s : State) (ctx : Nat) (a : Int) (n : Nat) (acc : Acc) : Except Exc (List (Phys × Nat) × State) :=
  if !(inRange a n) then .error (.launch 0x06 (unsignedOf 64 a) (accBits acc) none)
  else
    match s.translate ctx (unsignedOf 55 a) n acc with
    | (.ok ps, s') => .ok (ps, s')
    | (.error (.trans c, b), _) =>
      match s.transPages ctx (unsignedOf 55 a) n acc canon64 with
      | [] => .error (excOf acc (.trans c, b))
      | ps => .error (.trans ps none)
    | (.error j, _) => .error (excOf acc j)

/-- The places of an access of the current strand, in its context. -/
def State.places (s : State) (a : Int) (n : Nat) (acc : Acc) : Except Exc (List (Phys × Nat) × State) :=
  s.placesIn s.cur.ctx a n acc

/-! ### Write combining (R184) -/

/-- A byte put among the bytes of a buffer. -/
def putCell : List Host.Cell → Nat → Byte → List Host.Cell
  | [], a, v => [(a, v)]
  | c :: l, a, v => if a < c.1 then (a, v) :: c :: l else if a = c.1 then (a, v) :: l else c :: putCell l a v

/-- The byte of an agent's buffers at a place. -/
def bufByte (bs : List WcBuf) (sp : Space) (a : Nat) : Option Byte :=
  firstSome (fun b : WcBuf =>
    if b.space = sp then firstSome (fun c : Host.Cell => if c.1 = a then some c.2 else none) b.cells else none) bs

/-- The buffers of an agent of the current strand. -/
def Strand.wc (t : Strand) (vec : Bool) : List WcBuf := if vec then t.wcV else t.wcS

def Strand.putWc (t : Strand) (vec : Bool) (bs : List WcBuf) : Strand :=
  if vec then { t with wcV := bs } else { t with wcS := bs }

/-- The writer as LR reservations see it: the strand whose scalar agent writes (R185). -/
def State.agent (s : State) (vec : Bool) : Option Nat := if vec then none else some s.cur.uid

/-- One untracked byte stored: into the line's buffer; a fifth line flushes the oldest buffer; a full buffer is
flushed. -/
def State.combine (s : State) (vec : Bool) (sp : Space) (key a : Nat) (v : Byte) : State :=
  let bs := s.cur.wc vec
  let mine (b : WcBuf) : Bool := b.space == sp && b.line == lineOf a && b.key == key
  match bs.find? mine with
  | some b =>
    let b' := { b with cells := putCell b.cells a v }
    if b'.cells.length ≥ 128 then
      (s.flushBuf b' s.cur vec).onCur fun t => t.putWc vec (bs.filter fun b => !(mine b))
    else s.onCur fun t => t.putWc vec (bs.map fun b => if mine b then b' else b)
  | none =>
    let b' : WcBuf := { space := sp, line := lineOf a, key := key, cells := [(a, v)] }
    if bs.length ≥ 4 then
      match bs with
      | o :: rest => (s.flushBuf o s.cur vec).onCur fun t => t.putWc vec (rest ++ [b'])
      | [] => s
    else s.onCur fun t => t.putWc vec (bs ++ [b'])

/-- What both agents of the current strand, or one, have stored becomes visible: their buffers, and the vector agent's
strips that are still on their way (R184, R185, R189). -/
def State.flushCur (s : State) (scalar vector : Bool) : State :=
  (if vector then s.landStrips s.cur else s).flushWc s.cur.uid scalar vector

/-- A release by both agents of the current strand, or one: what they have stored is visible before the instruction goes
on, so it waits while a part of it is held back (R188, R189, R200). -/
def State.releaseCur (s : State) (scalar vector : Bool) : Res State :=
  let s := s.flushCur scalar vector
  if s.standsBy s.cur.uid scalar vector then .error (.wait .fence, s) else .ok s

/-! ### Translated accesses -/

/-- An agent's own write-back that stands by, under a key. -/
def ownBack (uid : Nat) (vec : Bool) (key : Nat) (r : MemReq) : Bool :=
  r.combined == some vec && r.uid == uid && r.key == key

/-- The bytes of a piece as an agent of the current strand reads them: its own untracked stores count before they are
visible (R184). -/
def State.readPiece (s : State) (vec : Bool) (p : Phys × Nat) : List Byte :=
  let bs := s.readPhys p.1 p.2
  if p.1.unt && (s.cur.wc vec != [] || s.coh.stalled != []) then
    (bs.zipIdx).map fun x =>
      let back := if p.1.space = .dev then s.standing (ownBack s.cur.uid vec p.1.key) (p.1.addr + x.2) else none
      (bufByte (s.cur.wc vec) p.1.space (p.1.addr + x.2)).getD (back.getD x.1)
  else bs

/-- The lines of a tracked piece pass the core's cache; an array core's serves its scalar agent only (R179). -/
def State.touch (s : State) (vec : Bool) (p : Phys × Nat) (write : Bool) : State :=
  if p.1.unt then s
  else if vec && s.cur.cls == .array then s.l2Touch p write
  else (linesOf p.1.addr p.2).foldl (fun s l => s.cacheAccess s.cur.core s.cur.slot p.1.space l write) s

/-- A load of n bytes by an agent. -/
def State.loadMem (s : State) (vec : Bool) (a : Int) (n : Nat) (acc : Acc := .load) : Except Exc (Nat × State) := do
  let (ps, s) ← s.places a n acc
  if ps.any s.badPiece then throw (.launch 0x14 (unsignedOf 64 a) (accBits acc) none)
  let v := leNat (ps.flatMap fun p => s.readPiece vec p)
  return (v, ps.foldl (fun s p => s.touch vec p false) s)

/-- One piece of a store: combined when untracked, else performed at once. -/
def State.storePiece (s : State) (vec : Bool) (p : Phys × Nat) (bs : List Byte) : State :=
  if p.1.unt then (bs.zipIdx).foldl (fun s x => s.combine vec p.1.space p.1.key (p.1.addr + x.2) x.1) s
  else (s.touch vec p true).writePhys p.1 bs (s.agent vec)

/-- Pieces of a store one after another. -/
def State.storeList (s : State) (vec : Bool) : List (Phys × Nat) → List Byte → State
  | [], _ => s
  | p :: ps, bs => (s.storePiece vec p (bs.take p.2)).storeList vec ps (bs.drop p.2)

/-- A store of n bytes by an agent. -/
def State.storeMem (s : State) (vec : Bool) (a : Int) (n v : Nat) (acc : Acc := .store) : Except Exc State := do
  let (ps, s) ← s.places a n acc
  return s.storeList vec ps (leBytes n v)

/-- A vector element is performed in the core's cache portion: tracked, and the slot may fill ways; else at the home L2
slice, which takes every copy (R196). -/
def State.inPortion (s : State) (p : Phys) : Bool :=
  !p.unt && s.cur.cls == .vector && (s.core s.cur.core).cur != 0 && (s.core s.cur.core).wmask.getD s.cur.slot 0 != 0

/-- Where an atomic is performed: the scalar agent's with the line exclusive in its cache, the vector agent's by R196. -/
def State.touchAtomic (s : State) (vec : Bool) (p : Phys × Nat) : State :=
  if vec && !(s.inPortion p.1) then s.l2Touch p true else s.touch vec p true

/-- One indivisible read and write of n naturally aligned bytes, which lie in one page: `f` gives the value stored, none
to store nothing. Own buffered stores come first. -/
def State.atomicMem (s : State) (vec : Bool) (a : Int) (n : Nat) (f : Nat → Option Nat) : Except Exc (Nat × State) := do
  let s := s.flushWc s.cur.uid (!vec) vec
  let (ps, s) ← s.places a n .atomic
  if ps.any s.badPiece then throw (.launch 0x14 (unsignedOf 64 a) 8 none)
  match ps with
  | [] => return (0, s)
  | p :: _ =>
    let old := leNat (s.readPhys p.1 n)
    let s := s.touchAtomic vec (p.1, n)
    match f old with
    | some v => return (old, s.writePhys p.1 (leBytes n v) (s.agent vec))
    | none => return (old, s)

/-! ### Bare accesses (R307, R310) -/

/-- The mode whose rules a data access follows: under MPRV M-mode takes MPP's (log 6). -/
def State.dataMode (s : State) : Mode :=
  if s.cur.mode = .m ∧ s.csrs.mstatus.getLsbD 17 then modeOf (bf s.csrs.mstatus 11 2) else s.cur.mode

/-- Data accesses are Bare. -/
def State.bare (s : State) : Bool := s.cur.cls == .control && s.dataMode != .u

def State.via (s : State) : Via := if s.dataMode = .m then .mMode else .sMode

/-- Places of a Bare access to device logical addresses; none: not performed (R307), or beyond the fault limit. -/
def State.barePlaces (s : State) (a n : Nat) : Option (List (Phys × Nat)) :=
  if s.mem.lim * 65536 < a + n then none
  else
    let first := min n (65536 - a % 65536)
    match s.tablePhys a with
    | none => none
    | some p =>
      if first = n then some [(p, n)]
      else match s.tablePhys (a + first) with | some p2 => some [(p, first), (p2, n - first)] | none => none

/-- Some piece of a Bare access, or its entry of the page key table, is held back: it waits (R290, R303). -/
def State.bareHeld (s : State) (ps : List (Phys × Nat)) : Bool :=
  ps.any fun p => s.held p.1.addr false || s.held (p.1.addr + p.2 - 1) false || s.tableHeld p.1.addr

/-- A Bare access without places: below the fault limit it waits for an entry of the page key table that is held back,
else it faults. -/
def State.bareNone (s : State) (cause : Nat) (a : Word) (n : Nat) : Exc :=
  if a.toNat + n ≤ s.mem.lim * 65536 ∧ (s.tableHeld a.toNat || s.tableHeld (a.toNat + n - 1)) then .wait .store
  else .access cause a

/-- The entries of the page key table that a Bare access reads are asked of the copies (R182). -/
def State.tablesTouch (s : State) (ps : List (Phys × Nat)) : State := ps.foldl (fun s p => s.tableTouch p.1.addr) s

def State.bareLoad (s : State) (a : Word) (n : Nat) : Except Exc (Nat × State) :=
  if blockBase ≤ a.toNat then
    let r := s.blockRead s.via (a.toNat - blockBase) n
    .ok (r.1.toNat, r.2)
  else
    match s.barePlaces a.toNat n with
    | none => .error (s.bareNone 5 a n)
    | some ps =>
      if s.bareHeld ps then .error (.wait .store)
      else if ps.any s.badPiece then .error (.access 5 a)
      else
        .ok (leNat (ps.flatMap fun p => s.readPhys p.1 p.2),
          ps.foldl (fun s p => s.touch false p false) (s.tablesTouch ps))

/-- The gate of a Bare store: a frozen page is an access fault (R210); a page that is collected or moved stalls, as does
the sweep's window (R303). -/
def State.bareGate (s : State) (a : Word) (n : Nat) : Except Exc Unit :=
  let gs := [s.writeGate (pageOf a.toNat), s.writeGate (pageOf (a.toNat + n - 1))]
  if gs.contains .frozen then .error (.access 7 a)
  else if gs.contains .stall || s.held a.toNat false || s.held (a.toNat + n - 1) false || s.tableHeld a.toNat
      || s.tableHeld (a.toNat + n - 1) then .error (.wait .store)
  else .ok ()

def State.bareStore (s : State) (a : Word) (n v : Nat) : Except Exc State :=
  if blockBase ≤ a.toNat then .ok (s.blockWrite s.via (a.toNat - blockBase) n (BitVec.ofNat 64 v))
  else
    match s.barePlaces a.toNat n with
    | none => .error (s.bareNone 7 a n)
    | some ps => do
      s.bareGate a n
      return (s.tablesTouch ps).storeList false ps (leBytes n v)

/-- An atomic on a block: an aligned 64-bit read and a write of what follows from it (R170, R310); one of another width
reads zero and writes nothing. -/
def State.blockAtomic (s : State) (off n : Nat) (f : Nat → Option Nat) : Nat × State :=
  let r := s.blockRead s.via off n
  match f r.1.toNat with
  | some v => (r.1.toNat, r.2.blockWrite s.via off n (BitVec.ofNat 64 v))
  | none => (r.1.toNat, r.2)

/-- An atomic on Bare memory. -/
def State.bareAtomic (s : State) (a : Word) (n : Nat) (f : Nat → Option Nat) : Except Exc (Nat × State) :=
  if blockBase ≤ a.toNat then .ok (s.blockAtomic (a.toNat - blockBase) n f)
  else
    match s.barePlaces a.toNat n with
    | none => .error (s.bareNone 7 a n)
    | some ps => do
      s.bareGate a n
      if ps.any s.badPiece then throw (.access 7 a)
      let old := leNat (ps.flatMap fun p => s.readPhys p.1 p.2)
      let s := s.tablesTouch ps
      match f old with
      | some v => return (old, s.storeList false ps (leBytes n v))
      | none => return (old, ps.foldl (fun s p => s.touch false p true) s)

/-! ### Accesses of scalar instructions: of the scalar agent, or of a lane thread, which is the vector agent (R38) -/

def State.laneMode (s : State) : Bool := s.cur.fork.isSome

def State.load (s : State) (a : Word) (n : Nat) : Except Exc (Nat × State) :=
  if s.bare then s.bareLoad a n else s.loadMem s.laneMode a.toInt n

def State.store (s : State) (a : Word) (n v : Nat) : Except Exc State :=
  if s.bare then s.bareStore a n v else s.storeMem s.laneMode a.toInt n v

def State.atomic (s : State) (a : Word) (n : Nat) (f : Nat → Option Nat) : Except Exc (Nat × State) :=
  if s.bare then s.bareAtomic a n f else s.atomicMem s.laneMode a.toInt n f

/-- An access's exception is taken on the machine as it stood. -/
def lift {α : Type} (s : State) (r : Except Exc α) : Res α :=
  match r with
  | .ok v => .ok v
  | .error e => .error (e, s)

/-! ### Fetch (R52, R264; S-mode and M-mode Bare, R310) -/

/-- One parcel; above the device logical addresses a fetch is no aligned 64-bit access of a block and reads zero (R310). -/
def State.fetchParcel (s : State) (pc : Word) : Except Exc (Nat × State) :=
  if s.cur.cls == .control && s.cur.mode != .u then
    if blockBase ≤ pc.toNat then .ok (0, s)
    else
      match s.barePlaces pc.toNat 2 with
      | none => .error (s.bareNone 1 pc 2)
      | some ps =>
        if s.bareHeld ps then .error (.wait .store)
        else if ps.any s.badPiece then .error (.access 1 pc)
        else .ok (leNat (ps.flatMap fun p => s.readPhys p.1 p.2), s.tablesTouch ps)
  else do
    let (ps, s) ← s.places pc.toInt 2 .fetch
    if ps.any s.badPiece then throw (.launch 0x14 pc.toNat 4 none)
    return (leNat (ps.flatMap fun p => s.readPiece false p), s)

/-- n parcels from an address up, as one number; the first parcel that faults names its address (R273). -/
def State.fetchParcels (s : State) (pc : Word) : Nat → Except Exc (Nat × State)
  | 0 => .ok (0, s)
  | n + 1 => do
    let (w, s) ← s.fetchParcel pc
    let (r, s) ← s.fetchParcels (pc + 2) n
    return (w + r * 2 ^ 16, s)

end Sys2Proof.Machine
end

