-- ==== Sys2Proof/Machine/VectorMem.lean ====
section
/-! DEFINITION. Vector loads and stores (R138 to R147), and what a bookmark records of a vector memory instruction that a
fault stopped (R276, R277). -/

namespace Sys2Proof.Machine

/-! ### Operands as read at issue -/

/-- The operands an instruction took at issue, or from a bookmark entry when it is replayed (R276, R278): base, stride,
the pending elements, when only those are to be performed, and the elements that wait for pending elements of earlier
instructions (R277). -/
structure VEnv where
  base : Word
  stride : Word
  only : Option KReg
  popped : Bool
  reserved : Bool
  hold : KReg := 0
  deriving DecidableEq, Repr

/-- How element addresses are formed (R141). -/
inductive AddrMode
  | unit
  | strided (rs2 : Reg)
  | indexed (vs2 : Reg) (ordered : Bool)
  deriving DecidableEq, Repr

/-- A load or store of vector elements: the instruction, its direction, address mode and fields (R143, R145). -/
structure VMem where
  instr : Instr
  isLoad : Bool
  faultFirst : Bool
  mode : AddrMode
  vm : Bool
  w : Fin 4
  base : Reg
  vd : Reg
  chain : Bool
  deriving DecidableEq, Repr

/-- Bits of a memory element (R139). -/
def memBits (w : Fin 4) (ew : Nat) : Nat := if w = 0 then ew else 4 * 2 ^ w.val

/-- Operands read at issue. -/
def Strand.envAt (t : Strand) (base : Reg) (stride : Word) : VEnv :=
  { base := t.getX base, stride := stride, only := none, popped := false, reserved := false }

def VMem.env (v : VMem) (t : Strand) : VEnv :=
  t.envAt v.base (match v.mode with | .strided rs2 => t.getX rs2 | _ => 0)

/-! ### The checks of step 4 -/

def Strand.memFormatOk (t : Strand) (w : Fin 4) : Bool :=
  t.fmtAny && memBits w t.ew ≤ t.ew && !(vtFam t.vtype == 2 && memBits w t.ew != t.ew)

def VMem.ok (v : VMem) (t : Strand) : Bool :=
  t.memFormatOk v.w && aligned v.vd t.grp
    && match v.mode with
       | .indexed vs2 _ => aligned vs2 t.grp && (!v.isLoad || disjoint v.vd t.grp vs2 t.grp)
       | _ => true

/-- Vector registers read and written. -/
def VMem.reads (v : VMem) : List Reg :=
  (if v.isLoad then [] else [v.vd]) ++ match v.mode with | .indexed vs2 _ => [vs2] | _ => []

def VMem.writes (v : VMem) : List Reg := if v.isLoad then [v.vd] else []

/-! ### Elements -/

/-- The address of element i, exact (R141). -/
def elemAddr (t : Strand) (mode : AddrMode) (env : VEnv) (bytes i : Nat) : Int :=
  match mode with
  | .unit => env.base.toInt + i * bytes
  | .strided _ => env.base.toInt + i * env.stride.toInt
  | .indexed vs2 _ => env.base.toInt + t.elem vs2 t.ew i

/-- A loaded value of wb bits extended to ew bits: by sign for FAM 00 (R139). -/
def extendTo (wb ew fam v : Nat) : Nat := if fam = 0 then unsignedOf ew (signedOf wb v) else v % 2 ^ wb

/-- Elements not performed so far, and the pages that faulted (R272, R273). -/
structure Stops where
  pending : List Nat
  pages : List (Nat × Nat × Nat)
  deriving DecidableEq, Repr

/-- A faulting page is recorded once, with the address of its lowest element; access kinds are ORed (R273). -/
def addPage : List (Nat × Nat × Nat) → Nat × Nat × Nat → List (Nat × Nat × Nat)
  | [], p => [p]
  | q :: l, p =>
    if pageOf q.1 = pageOf p.1 then (q.1, q.2.1, q.2.2 ||| p.2.2) :: l else q :: addPage l p

/-- Bytes [a, a + n) and [b, b + n) overlap. -/
def overlaps (a b : Int) (n : Nat) : Bool := decide (a < b + n) && decide (b < a + n)

/-- An element must wait for a pending one: a store that overlaps it in a form of ascending order (R144), or in the
ordered indexed forms an access to untracked, host or peer memory after any pending one. -/
def State.behind (s : State) (v : VMem) (env : VEnv) (st : Stops) (a : Int) (n : Nat) : Bool :=
  st.pending != [] &&
    match v.mode with
    | .indexed _ false => false
    | .indexed _ true =>
      (!v.isLoad && st.pending.any fun j => overlaps (elemAddr s.cur v.mode env n j) a n)
        || (match s.places a n (if v.isLoad then .load else .store) with
            | .ok (ps, _) => ps.any fun p => p.1.unt || p.1.space != .dev
            | .error _ => false)
    | _ => !v.isLoad && st.pending.any fun j => overlaps (elemAddr s.cur v.mode env n j) a n

/-- One more element of a lane is not performed yet at package scope (R202). -/
def Strand.issueTo (t : Strand) (lane : Nat) : Strand :=
  { t with pend := t.pend.setIfInBounds lane (t.pend.getD lane 0 + 1) }

/-- One element performed. -/
def State.vmemAccess (s : State) (v : VMem) (a : Int) (wb i : Nat) : Except Exc State :=
  if v.isLoad then do
    let (x, s) ← s.loadMem true a (wb / 8)
    return s.onCur fun t =>
      { t with v := setElem t.v t.g v.vd.val t.ew i (extendTo wb t.ew (vtFam t.vtype) x) }
  else do
    let s ← s.storeMem true a (wb / 8) (s.cur.elem v.vd s.cur.ew i % 2 ^ wb)
    return s.onCur fun t => t.issueTo (i % (8 * t.g))

/-- One element of an instruction: performed, left pending, or the end of the launch. -/
def State.vmemElem (s : State) (v : VMem) (env : VEnv) (st : Stops) (i : Nat) : Except Exc (State × Stops) :=
  let wb := memBits v.w s.cur.ew
  let a := elemAddr s.cur v.mode env (wb / 8) i
  if env.hold.getLsbD i || s.behind v env st a (wb / 8) then .ok (s, { st with pending := st.pending ++ [i] })
  else
    match s.vmemAccess v a wb i with
    | .ok s => .ok (s, st)
    | .error (.trans pages _) => .ok (s, { pending := st.pending ++ [i], pages := pages.foldl addPage st.pages })
    | .error e => .error e

/-- Elements one after another; the end of the launch comes with the elements that are not performed. -/
def State.vmemGo (v : VMem) (env : VEnv) : List Nat → State → Stops → Except (Exc × State × List Nat) (State × Stops)
  | [], s, st => .ok (s, st)
  | i :: is, s, st =>
    match s.vmemElem v env st i with
    | .ok (s, st) => State.vmemGo v env is s st
    | .error e => .error (e, s, st.pending ++ i :: is)

/-- The elements of a replay are its pending ones; else the active ones (R278, R140). -/
def Strand.envActives (t : Strand) (env : VEnv) (vm : Bool) : List Nat :=
  match env.only with
  | some m => (List.range t.vl).filter fun i => m.getLsbD i
  | none => t.actives vm

/-- The elements whose k7 bits an instruction writes: [VSTART, VL), or the replayed ones (R142). -/
def Strand.k7Range (t : Strand) (env : VEnv) : List Nat :=
  match env.only with
  | some m => (List.range t.vl).filter fun i => m.getLsbD i
  | none => (List.range t.vl).filter fun i => t.vstart ≤ i

def Strand.writeK7 (t : Strand) (is : List Nat) (f : Nat → Bool) : Strand :=
  t.putK 7 (setBits t.k[7] (is.map fun i => (i, f i)))

/-- Some active store element would stall on a page under collection: the instruction waits with nothing done (R191). -/
def State.vmemStalls (s : State) (v : VMem) (env : VEnv) (is : List Nat) : Bool :=
  !v.isLoad && (s.cat.collecting != [] || s.cat.jobs != []) && is.any fun i =>
    let n := memBits v.w s.cur.ew / 8
    match s.places (elemAddr s.cur v.mode env n i) n .store with
    | .error (.wait _) => true
    | _ => false

/-! ### Bookmark entries (R276, R277) -/

/-- ENC of an instruction. -/
def encOf (i : Instr) : Nat := match encode i with | some p => p.2 | none => 0

/-- The mask register with the listed bits. -/
def maskBits (is : List Nat) : KReg := setBits 0 (is.map fun i => (i, true))

/-- The entry of an instruction stopped with these elements pending: not started when none was performed (STATE 0),
else its pending mask (STATE 2). -/
def Strand.entryOf (t : Strand) (i : Instr) (chain : Nat) (env : VEnv) (ipc : Word) (started : Bool)
    (pending : List Nat) : BmEntry :=
  { enc := encOf i, vtype := t.vtype, vl := t.vl, vstart := 0, st := if started then 2 else 0,
    flg := chain + boolBit env.popped 3 + boolBit env.reserved 4, deps := 0, xop := 0, xbase := env.base,
    xstride := env.stride, ipc := ipc, mask := if started then maskBits pending else 0 }

/-- FLG of a memory instruction: its bit c (R67, R276). -/
def chainFlags (v : VMem) : Nat := boolBit v.chain 2

/-! ### The instruction -/

/-- The walk that found the fault of an element of a fault-first load: its reads are tracked (R268). -/
def State.elemWalk (s : State) (v : VMem) (env : VEnv) (i : Nat) : State :=
  let n := memBits v.w s.cur.ew / 8
  match s.loadMem true (elemAddr s.cur v.mode env n i) n with
  | .error (.trans pages _) => s.walked s.cur.ctx (pages.map (·.1))
  | .error (.launch cls addr _ _) => s.faultWalk s.cur.ctx cls addr
  | _ => s

/-- The elements below the first fault, for a fault-first load that stops above VSTART: the machine with them loaded, VL
trimmed and k7 written (R145). -/
def State.trimmed (s : State) (v : VMem) (env : VEnv) (is : List Nat) (f : Nat) : Res State :=
  let old := s.cur.vl
  let rng := s.cur.k7Range env
  match State.vmemGo v env (is.filter (· < f)) s { pending := [], pages := [] } with
  | .error (e, s, _) => .error (e, s)
  | .ok (s, _) => .ok ((s.elemWalk v env f).onCur fun t => { (t.writeK7 rng fun i => f ≤ i && i < old) with vl := f, trimAt := some f })

/-- A fault at which a fault-first load trims: translation, address range, uncorrectable (R145). -/
def Exc.trims : Exc → Bool
  | .trans _ _ => true
  | .launch cls _ _ _ => cls == 0x06 || cls == 0x14
  | _ => false

/-- The lowest active element of a fault-first load that is not performed, when what stops it can trim. -/
def State.firstFault (s : State) (v : VMem) (env : VEnv) (is : List Nat) : Option Nat :=
  (firstSome (fun i =>
    let n := memBits v.w s.cur.ew / 8
    match s.loadMem true (elemAddr s.cur v.mode env n i) n with
    | .error e => some (if e.trims then some i else none)
    | .ok _ => none) is).join

/-- The elements in ascending order; k7; the trap when any stays pending (R142, R144). -/
def State.vmemBody (s : State) (v : VMem) (env : VEnv) (ipc : Word) : Res State := do
  let is := s.cur.envActives env v.vm
  require (!(s.vmemStalls v env is)) (.wait .store) s
  let s := if v.isLoad && s.cur.vstart < s.cur.vl then s.onCur fun t => { t with vdirty := dirty t.vdirty v.vd.val t.grp }
           else s
  let rng := s.cur.k7Range env
  match State.vmemGo v env is s { pending := [], pages := [] } with
  | .error (.launch cls addr acc _, s', pending) =>
    let s' := s'.onCur fun t => t.writeK7 rng fun i => pending.contains i
    .error (.launch cls addr acc (some (s'.cur.entryOf v.instr (chainFlags v) env ipc
      (pending.length < is.length || env.only.isSome) pending)), s')
  | .error (e, s', _) => .error (e, s')
  | .ok (s', st) =>
    let s' := s'.onCur fun t => t.writeK7 rng fun i => st.pending.contains i
    if st.pending = [] then .ok s'
    else
      .error (.trans st.pages (some (s'.cur.entryOf v.instr (chainFlags v) env ipc
        (st.pending.length < is.length || env.only.isSome) st.pending)), s')

/-- A load or store whole; a fault-first load that faults above VSTART trims VL instead. -/
def State.vmemRun (s : State) (v : VMem) (env : VEnv) (ipc : Word) : Res State :=
  match (if v.faultFirst && env.only.isNone then s.firstFault v env (s.cur.envActives env v.vm) else none) with
  | some f =>
    if s.cur.vstart < f then
      (s.onCur fun t => { t with vdirty := dirty t.vdirty v.vd.val t.grp }).trimmed v env (s.cur.envActives env v.vm) f
    else s.vmemBody v env ipc
  | none => s.vmemBody v env ipc

/-- A vector memory instruction at issue: gate, step 4, streams; then its body, its pc behind it; completion. A wait leaves
the machine as it stood before the pc moved. -/
def State.memOp (s : State) (i : Instr) (cs : List Cls) (ks : List MReg) (reads writes : List Reg) (ok : Strand → Bool)
    (env : Strand → VEnv) (body : State → VEnv → Word → Res State) : Res State := do
  let s ← s.vectorGate cs ks
  require (ok s.cur) .illegal s
  let s0 := s
  let ipc := s.cur.pc
  let s ← s.streamIn reads writes
  let e := { env s.cur with
    popped := s0.cur.inputs reads != [], reserved := s0.cur.outputs writes != [] && s.cur.vl != 0 }
  match body (s.onCur (·.adv 4)) e ipc with
  | .error (.wait w, _) => .error (.wait w, s0)
  | .error (.launch c a x none, s) => .error (.launch c a x (some (s.cur.entryOf i 0 e ipc false [])), s)
  | .error e => .error e
  | .ok s => return (s.streamOut writes).vectorDone 0

/-- A load or store of which some elements wait for earlier instructions (R277). -/
def State.vmemHeld (s : State) (v : VMem) (hold : KReg) : Res State :=
  s.memOp v.instr clsVA ([7] ++ maskOf v.vm) v.reads v.writes v.ok (fun t => { v.env t with hold := hold })
    fun s e ipc => s.vmemRun v e ipc

def State.vmemOp (s : State) (v : VMem) : Res State := s.vmemHeld v 0

def vmVld (a : FVM) : VMem :=
  { instr := .vld a, isLoad := true, faultFirst := false, mode := .unit, vm := a.vm, w := a.w, base := a.base, vd := a.vd,
    chain := false }
def vmVldff (a : FVM) : VMem := { vmVld a with instr := .vldff a, faultFirst := true }
def vmVst (a : FVMC) : VMem :=
  { instr := .vst a, isLoad := false, faultFirst := false, mode := .unit, vm := a.vm, w := a.w, base := a.base,
    vd := a.vd, chain := a.c }
def vmVlds (a : FVM2) : VMem :=
  { instr := .vlds a, isLoad := true, faultFirst := false, mode := .strided a.src2, vm := a.vm, w := a.w,
    base := a.base, vd := a.vd, chain := false }
def vm2c (i : Instr) (isLoad : Bool) (mode : AddrMode) (a : FVM2C) : VMem :=
  { instr := i, isLoad := isLoad, faultFirst := false, mode := mode, vm := a.vm, w := a.w, base := a.base, vd := a.vd,
    chain := a.c }
def vmVsts (a : FVM2C) : VMem := vm2c (.vsts a) false (.strided a.src2) a
def vmVldxO (a : FVM2C) : VMem := vm2c (.vldxO a) true (.indexed a.src2 true) a
def vmVstxO (a : FVM2C) : VMem := vm2c (.vstxO a) false (.indexed a.src2 true) a
def vmVldx (a : FVM2C) : VMem := vm2c (.vldx a) true (.indexed a.src2 false) a
def vmVstx (a : FVM2C) : VMem := vm2c (.vstx a) false (.indexed a.src2 false) a

def execVld (a : FVM) (s : State) : Host.Outcome State Fault Refusal := finish (s.vmemOp (vmVld a))
def execVldff (a : FVM) (s : State) : Host.Outcome State Fault Refusal := finish (s.vmemOp (vmVldff a))
def execVst (a : FVMC) (s : State) : Host.Outcome State Fault Refusal := finish (s.vmemOp (vmVst a))
def execVlds (a : FVM2) (s : State) : Host.Outcome State Fault Refusal := finish (s.vmemOp (vmVlds a))
def execVsts (a : FVM2C) (s : State) : Host.Outcome State Fault Refusal := finish (s.vmemOp (vmVsts a))
def execVldxO (a : FVM2C) (s : State) : Host.Outcome State Fault Refusal := finish (s.vmemOp (vmVldxO a))
def execVstxO (a : FVM2C) (s : State) : Host.Outcome State Fault Refusal := finish (s.vmemOp (vmVstxO a))
def execVldx (a : FVM2C) (s : State) : Host.Outcome State Fault Refusal := finish (s.vmemOp (vmVldx a))
def execVstx (a : FVM2C) (s : State) : Host.Outcome State Fault Refusal := finish (s.vmemOp (vmVstx a))

/-! ### Core-local loads and stores (R146) -/

/-- The space of the class: lane-local scratch or activation buffer. -/
def Strand.localSpace (t : Strand) : Nat := if t.cls = .vector then 0 else 1

/-- Offset, within a lane's slice or the buffer, of the end of element i. -/
def localEnd (t : Strand) (base i bytes : Nat) : Nat :=
  base + (if t.localSpace = 0 then i / (8 * t.g) else i) * bytes + bytes

def localOk (t : Strand) (base bytes : Nat) (is : List Nat) : Bool :=
  is.all fun i => localEnd t base i bytes ≤ t.regionBytes t.localSpace

/-- `vldl`'s effect. -/
def Strand.loadLocal (t : Strand) (vd : Reg) (base wb : Nat) (is : List Nat) : Strand :=
  let m := t.loc t.localSpace
  { t with
    v := setElems t.v t.g vd.val t.ew (is.map fun i =>
      (i, extendTo wb t.ew (vtFam t.vtype) (m.readNat (localAt t.localSpace t.g base (wb / 8) i) (wb / 8))))
    vdirty := if t.vstart < t.vl then dirty t.vdirty vd.val t.grp else t.vdirty }

/-- `vstl`'s effect. -/
def Strand.storeLocal (t : Strand) (vs3 : Reg) (base wb : Nat) (is : List Nat) : Strand :=
  t.putLoc t.localSpace (is.foldl (fun m i =>
    m.writeNat (localAt t.localSpace t.g base (wb / 8) i) (wb / 8) (t.elem vs3 t.ew i)) (t.loc t.localSpace))

/-- A core-local access: an element outside the region is a launch fault before any access, the instruction recorded as
not started. -/
def State.localOp (s : State) (isLoad vm : Bool) (i : Instr) (w : Fin 4) (base vd : Reg) : Res State := do
  let reads := if isLoad then [] else [vd]
  let writes := if isLoad then [vd] else []
  let s ← s.vectorGate clsVA (maskOf vm)
  require (s.cur.memFormatOk w && aligned vd s.cur.grp) .illegal s
  let env := { s.cur.envAt base 0 with
    popped := s.cur.inputs reads != [], reserved := s.cur.outputs writes != [] && s.cur.vl != 0 }
  let ipc := s.cur.pc
  let s ← s.streamIn reads writes
  let wb := memBits w s.cur.ew
  let b := (s.cur.getX base).toNat
  let is := s.cur.actives vm
  require (localOk s.cur b (wb / 8) is) (.launch 0x07 0 (if isLoad then 1 else 2) (some (s.cur.entryOf i 0 env ipc false [])))
    (s.onCur (·.adv 4))
  let s := s.onCur fun t => if isLoad then t.loadLocal vd b wb is else t.storeLocal vd b wb is
  return (s.streamOut writes).vectorDone

def execVldl (a : FVM) (s : State) : Host.Outcome State Fault Refusal :=
  finish (s.localOp true a.vm (.vldl a) a.w a.base a.vd)
def execVstl (a : FVMC) (s : State) : Host.Outcome State Fault Refusal :=
  finish (s.localOp false a.vm (.vstl a) a.w a.base a.vd)

/-! ### Mask loads and stores (R147) -/

/-- Bits of a mask register below VL as bytes. -/
def maskByteOf (k : KReg) (vl j : Nat) : Byte := BitVec.ofNat 8 (fld (k.toNat % 2 ^ vl) (8 * j) 8)

/-- Every byte of a mask access, in order; the first fault stops it with nothing done. -/
def State.maskCheck (s : State) (acc : Acc) (a : Int) (n : Nat) : Except Exc State :=
  (List.range n).foldl (fun r (j : Nat) => r.bind fun s =>
    match acc with
    | .store => (s.places (a + (j : Int)) 1 .store).map (·.2)
    | _ => (s.loadMem true (a + (j : Int)) 1).map (·.2)) (.ok s)

/-- Pages of a mask access that fault, each once. -/
def State.maskPages (s : State) (acc : Acc) (a : Int) (n : Nat) : List (Nat × Nat × Nat) :=
  (List.range n).foldl (fun ps (j : Nat) =>
    match s.places (a + (j : Int)) 1 acc with
    | .error (.trans p _) => p.foldl addPage ps
    | _ => ps) []

/-- `kld` and `kst` after the checks: not started when any byte faults. -/
def State.maskRun (s : State) (isLoad : Bool) (i : Instr) (k : MReg) (env : VEnv) (ipc : Word) : Res State :=
  let n := (s.cur.vl + 7) / 8
  let a := env.base.toInt
  let acc : Acc := if isLoad then .load else .store
  let entry := some (s.cur.entryOf i 0 env ipc false [])
  match s.maskCheck acc a n with
  | .error (.trans _ _) => .error (.trans (s.maskPages acc a n) entry, s)
  | .error (.launch c ad x _) => .error (.launch c ad x entry, s)
  | .error e => .error (e, s)
  | .ok s' =>
    if isLoad then do
      let (v, s'') ← lift s ((List.range n).foldl (fun r (j : Nat) => r.bind fun (p : Nat × State) =>
        (p.2.loadMem true (a + (j : Nat)) 1).map fun (q : Nat × State) => (p.1 + q.1 * 2 ^ (8 * j), q.2)) (.ok (0, s')))
      return s''.onCur fun t =>
        t.putK k (setBits t.k[k] ((List.range t.vl).map fun i => (i, v.testBit i)))
    else
      lift s ((List.range n).foldl (fun r (j : Nat) => r.bind fun s =>
        s.storeMem true (a + j) 1 (maskByteOf s.cur.k[k] s.cur.vl j).toNat) (.ok s'))

/-- `kld` and `kst` run under any EW (R147) but EW 100 with FAM 01, which R82 lets no instruction accept (log 62). -/
def State.maskOp (s : State) (isLoad : Bool) (i : Instr) (k : MReg) (base : Reg) : Res State :=
  s.memOp i clsVA [k] [] [] (fun t => t.g != 0 && t.vstart == 0 && t.vtypeOk) (fun t => t.envAt base 0)
    fun s e ipc => s.maskRun isLoad i k e ipc

def execKld (kd : MReg) (base : Reg) (s : State) : Host.Outcome State Fault Refusal :=
  finish (s.maskOp true (.kld kd base) kd base)
def execKst (ks : MReg) (base : Reg) (s : State) : Host.Outcome State Fault Refusal :=
  finish (s.maskOp false (.kst ks base) ks base)

end Sys2Proof.Machine
end

