-- ==== Sys2Proof/Machine/Streams.lean ====
section
/-! DEFINITION. Stream handles: `qdef` with its descriptor (R152, R154, R228), matching of stage streams (R161, R162),
`qbind`, `qunb`, `qavail`, `qwait`, `qend`, `qrst` (R155 to R159), and the traffic of the rings: fills, drains, strips that
arrive (R160, R161). -/

namespace Sys2Proof.Machine

/-! ### Descriptors (R152) -/

/-- The eight words of a descriptor, as numbers. -/
abbrev Desc := List Nat

def dw (d : Desc) (i : Nat) : Nat := d.getD i 0

/-- Fields of SCTL and RING. -/
def descKind (d : Desc) : Nat := fld (dw d 5) 8 2
def descLink (d : Desc) : Nat := fld (dw d 5) 20 4
def descPeer (d : Desc) : Nat := fld (dw d 5) 16 4
def descNdim (d : Desc) : Nat := fld (dw d 5) 12 2 + 1
def descEb (d : Desc) : Nat := 2 ^ fld (dw d 5) 0 2
def descNslot (d : Desc) : Nat := fld (dw d 6) 48 8
def descSlotBytes (d : Desc) : Nat := fld (dw d 6) 32 16 * 16
def descSpace (d : Desc) : Nat := fld (dw d 6) 28 2
def descRbase (d : Desc) : Nat := fld (dw d 6) 0 20

/-- Reserved fields are zero. -/
def descReserved (d : Desc) : Bool :=
  let sctl := dw d 5
  let ring := dw d 6
  let stage := descKind d ≥ 2
  fld sctl 36 12 == 0 && fld sctl 24 8 == 0 && fld sctl 14 2 == 0 && fld sctl 10 2 == 0 && fld sctl 2 6 == 0
    && dw d 7 == 0
    && (if stage then (List.range 5).all fun i => dw d i == 0
        else fld sctl 16 8 == 0 && (List.range 4).all fun i => i < descNdim d || dw d (i + 1) == 0)
    && (if descKind d = 2 then ring == 0
        else fld ring 56 8 == 0 && fld ring 30 2 == 0 && fld ring 20 8 == 0)

/-- A ring with its values in range, in a space of the class, inside the strand's region (R152, R154, R228). -/
def Strand.ringOk (t : Strand) (d : Desc) : Bool :=
  let sp := descSpace d
  2 ≤ descNslot d && descNslot d ≤ 64 && 16 ≤ descSlotBytes d && descSlotBytes d ≤ 32768 && descRbase d % 16 == 0
    && (if t.cls = .vector then sp == 0 && t.g != 0 else sp == 1 || sp == 2)
    && descRbase d + descNslot d * descSlotBytes d ≤ t.regionBytes sp
    && (sp != 2 || (descKind d != 0 && descRbase d % 512 == 0 && descSlotBytes d % 512 == 0))

/-- Counts and strides of the dimensions in use. -/
def descDims (d : Desc) : List (Nat × Int) :=
  if descKind d ≥ 2 then []
  else (List.range (descNdim d)).map fun i => (fld (dw d (i + 1)) 48 16 + 1, signedOf 48 (dw d (i + 1)))

/-- The handle a descriptor defines, as `qdef` leaves it. -/
def Strand.streamOf (t : Strand) (d : Desc) (order : Nat) : Stream :=
  let stageOut := descKind d == 2
  { base := BitVec.ofNat 64 (dw d 0), dims := descDims d, tag := fld (dw d 5) 48 16,
    ch := Fin.ofNat 16 (fld (dw d 5) 32 4), link := descLink d, peer := descPeer d, kind := descKind d, eb := descEb d,
    nslot := if stageOut then 0 else descNslot d, slotBytes := descSlotBytes d, space := descSpace d,
    rbase := descRbase d,
    se := if stageOut then 0 else descSlotBytes d * (if descSpace d = 0 then 8 * t.g else 1) / descEb d,
    g := t.g, filled := [], next := 0, reserved := 0, done := 0, ended := false, ovr := false, binding := none,
    mate := none, mateEnded := false, order := order, wire := [] }

/-! ### Stage streams (R161) -/

/-- The stage a handle's strand must be of, and the stage at its other end. -/
def linkStages (r : StrmRec) (kind : Nat) : Nat × Nat := if kind = 2 then (r.src, r.dst) else (r.dst, r.src)

/-- Handles of a kind on a link among the strands of a group, with their strand and number. -/
def State.groupStreams (s : State) (lid glin link kind : Nat) : List (Strand × QReg × Stream) :=
  (s.strands.filter fun t => t.lid == lid && t.glin == glin && !t.system && t.status != .gone).flatMap fun t =>
    (List.finRange 16).filterMap fun q =>
      match t.q[q] with
      | some h => if h.kind = kind ∧ h.link = link then some (t, q, h) else none
      | none => none

/-- A change of one handle of one strand. -/
def State.updStream (s : State) (uid : Nat) (q : QReg) (f : Stream → Stream) : State :=
  s.updStrand uid fun t =>
    match t.q[q] with
    | some h => t.putStream q (some (f h))
    | none => t

/-- Two handles are joined; a producer that ended while it waited marks the end at once (R161, R162). None when their
element sizes differ. -/
def State.joinStreams (s : State) (p : Strand × QReg × Stream) (c : Strand × QReg × Stream) : Option State :=
  if p.2.2.eb ≠ c.2.2.eb then none
  else
    let s := s.updStream p.1.uid p.2.1 fun h => { h with mate := some (c.1.uid, c.2.1) }
    some (s.updStream c.1.uid c.2.1 fun h =>
      { h with
        mate := some (p.1.uid, p.2.1), mateEnded := p.2.2.ended
        wire := if p.2.2.ended then h.wire ++ [.ended] else h.wire })

/-- Handles that exited strands of a group left waiting for a consumer on a link (R161). -/
def State.endedOuts (s : State) (lid glin link : Nat) : List EndedOut :=
  match s.launch lid with
  | some l => l.endedOuts.filter fun e => e.glin == glin && e.link == link
  | none => []

/-- The stage-output handles of a strand that still wait are ended by its exit, and are matched as such with the consumers'
next handles (R47, R161). -/
def State.leaveOuts (s : State) (t : Strand) : State :=
  let es := t.q.toList.filterMap fun o =>
    match o with
    | some h =>
      if h.kind = 2 ∧ h.mate = none then
        some ({ glin := t.glin, link := h.link, six := t.six, peer := h.peer, eb := h.eb } : EndedOut)
      else none
    | none => none
  if es = [] then s else s.updLaunch t.lid fun l => { l with endedOuts := l.endedOuts ++ es }

/-- A producer handle just defined is matched, waits, or is a launch fault (none). -/
def State.matchProducer (s : State) (q : QReg) (h : Stream) : Option State :=
  let t := s.cur
  let waiting := (s.groupStreams t.lid t.glin h.link 2).filter fun p =>
    p.2.2.peer == h.peer && p.2.2.mate.isNone && !(p.1.uid == t.uid && p.2.1 == q)
  let cons := (s.groupStreams t.lid t.glin h.link 3).filter fun c => c.1.six == h.peer
  let mine := cons.filter fun c => c.2.2.peer == t.six
  if waiting != [] || (s.endedOuts t.lid t.glin h.link).any (·.peer == h.peer) then none
  else
    match mine.find? fun c => c.2.2.mate.isNone with
    | some c => s.joinStreams (t, q, h) c
    | none =>
      if mine.any fun c => !c.2.2.mateEnded then none
      else if mine == [] && cons.any fun c => c.2.2.mate.isNone then none
      else some s

/-- The current strand's handle matched with one that an exited strand left: its END is on its way. -/
def State.joinEnded (s : State) (q : QReg) (e : EndedOut) : State :=
  (s.updLaunch s.cur.lid fun l => { l with endedOuts := l.endedOuts.erase e }).updStream s.cur.uid q fun h =>
    { h with mate := some (0, q), mateEnded := true, wire := h.wire ++ [.ended] }

/-- A consumer handle just defined is matched with the producer that waits for it, waits itself, or is a launch fault. -/
def State.matchConsumer (s : State) (q : QReg) (h : Stream) : Option State :=
  let t := s.cur
  let mine := (s.groupStreams t.lid t.glin h.link 3).filter fun c =>
    c.1.uid == t.uid && c.2.2.peer == h.peer && c.2.1 != q
  let waiting := (s.groupStreams t.lid t.glin h.link 2).filter fun p => p.2.2.peer == t.six && p.2.2.mate.isNone
  if mine != [] then none
  else
    match waiting with
    | [] =>
      match (s.endedOuts t.lid t.glin h.link).find? (·.peer == t.six) with
      | none => some s
      | some e => if e.six = h.peer ∧ e.eb = h.eb then some (s.joinEnded q e) else none
    | p :: _ => if p.1.six = h.peer then s.joinStreams p (t, q, h) else none

/-- The order number of the next definition. -/
def State.streamOrder (s : State) : Nat :=
  s.strands.foldl (fun n t => t.q.toList.foldl (fun n o => match o with | some h => max n (h.order + 1) | none => n) n) 0

/-! ### `qdef` (R154) -/

/-- Eight words of a 64-byte descriptor, read by the vector agent. -/
def State.readDesc (s : State) (a : Word) : Except Exc (Desc × State) :=
  (List.range 8).foldl (fun r i => r.bind fun (p : Desc × State) =>
    (p.2.loadMem true (a.toInt + ((8 * i : Nat) : Int)) 8).map fun q => (p.1 ++ [q.1], q.2)) (.ok ([], s))

/-- A stage descriptor's LINK, stage and PEER fit the launch record, and for a stage input its ring the declaration
(R154, R161): the class of the launch fault, none when they pass. -/
def State.stageFault (s : State) (d : Desc) : Option Nat :=
  match s.launch s.cur.lid with
  | none => some 0x0B
  | some l =>
    match l.lrec.strms[descLink d]? with
    | none => some 0x0B
    | some r =>
      let (own, other) := linkStages r (descKind d)
      if s.cur.stage ≠ own then some 0x0B
      else if (match l.lrec.stages[other]? with | some g => g.n | none => 0) ≤ descPeer d then some 0x0B
      else if descKind d = 3 ∧ (descSpace d ≠ r.space ∨ descNslot d ≠ r.nslot) then some 0x0A
      else none

/-- The fault of a descriptor: its reserved fields, then what the launch record says of it, then its ring (log 19). -/
def State.descFault (s : State) (d : Desc) : Option Nat :=
  if !(descReserved d) then some 0x0A
  else
    match (if descKind d ≥ 2 then s.stageFault d else none) with
    | some c => some c
    | none => if descKind d != 2 && !(s.cur.ringOk d) then some 0x0A else none

def State.qdefOp (s : State) (q : QReg) (base : Reg) : Res State := do
  let s ← s.vectorGate clsVA []
  let a := s.cur.getX base
  require (a.toNat % 64 == 0 && s.cur.q[q].isNone) .illegal s
  let s ← s.releaseCur true true
  let (d, s) ← lift s (s.readDesc a)
  match s.descFault d with
  | some c => .error (.launch c 0 1 none, s)
  | none =>
    let h := s.cur.streamOf d s.streamOrder
    let s1 := s.onCur fun t => (t.putStream q (some h)).adv 4
    match (if h.kind = 2 then s1.matchProducer q h else if h.kind = 3 then s1.matchConsumer q h else some s1) with
    | some s2 => .ok s2
    | none => .error (.launch 0x0B 0 1 none, s)

def execQdef (q : QReg) (base : Reg) (s : State) : Host.Outcome State Fault Refusal := finish (s.qdefOp q base)

/-! ### Bindings (R155) -/

/-- Every handle bound to a register. -/
def Strand.unbind (t : Strand) (vd : Reg) : Strand :=
  { t with q := t.q.map fun o =>
      match o with
      | some h => some (if h.binding = some vd then { h with binding := none } else h)
      | none => none }

def State.qbindOp (s : State) (vd : Reg) (q : QReg) : Res State := do
  let s ← s.vectorGate clsVA []
  match s.cur.q[q] with
  | none => .error (.illegal, s)
  | some h =>
    require (match s.cur.boundTo vd with | some (q', _) => q' == q | none => true) .illegal s
    return (s.onCur fun t => t.putStream q (some { h with binding := some vd })).scalarDone

def execQbind (vd : Reg) (q : QReg) (s : State) : Host.Outcome State Fault Refusal := finish (s.qbindOp vd q)

def State.qunbOp (s : State) (vd : Reg) : Res State := do
  let s ← s.vectorGate clsVA []
  return (s.onCur (·.unbind vd)).scalarDone

def execQunb (vd : Reg) (s : State) : Host.Outcome State Fault Refusal := finish (s.qunbOp vd)

/-! ### Queries (R158, R162) -/

def Stream.isEnd (h : Stream) : Bool := if h.isInput then h.atEnd else h.ended

def State.streamAvail (s : State) (h : Stream) : Nat :=
  if h.isInput then h.avail else s.freeSlots h * s.slotCap h

/-- Filled slots: of the consumer's ring for a stage output. -/
def State.filledSlots (s : State) (h : Stream) : Nat :=
  if h.kind = 2 then (match s.mateOf h with | some c => c.filled.length | none => 0) else h.filled.length

/-- The word of `qavail`. -/
def State.qavailWord (s : State) (h : Stream) : Word :=
  BitVec.ofNat 64 (boolBit h.isEnd 63 + boolBit (!h.isInput) 62 + boolBit h.ovr 61 + s.freeSlots h % 256 * 2 ^ 40
    + s.filledSlots h % 256 * 2 ^ 32 + s.streamAvail h % 2 ^ 32)

def State.qavailOp (s : State) (rd : Reg) (q : QReg) : Res State := do
  let s ← s.vectorGate clsVA []
  let w := match s.cur.q[q] with | some h => s.qavailWord h | none => 0
  return (s.onCur fun t => t.putX rd w).scalarDone

def execQavail (rd : Reg) (q : QReg) (s : State) : Host.Outcome State Fault Refusal := finish (s.qavailOp rd q)

/-- The condition of `qwait`; a stage output that is not matched yet has no capacity to wait for, and waits. -/
def State.qwaitDone (s : State) (h : Stream) (n : Nat) : Bool :=
  n == 0 || h.isEnd
    || (match (if h.kind = 2 then s.mateOf h else some h) with
        | some c => min n (c.nslot * c.se) ≤ s.streamAvail h
        | none => false)

def State.qwaitOp (s : State) (q : QReg) (rs1 : Reg) : Res State := do
  let s ← s.vectorGate clsVA []
  match s.cur.q[q] with
  | none => .error (.illegal, s)
  | some h =>
    require (s.qwaitDone h (s.cur.getX rs1).toNat) (.wait .query) s
    return s.scalarDone

def execQwait (q : QReg) (rs1 : Reg) (s : State) : Host.Outcome State Fault Refusal := finish (s.qwaitOp q rs1)

/-! ### `qend` and `qrst` (R159) -/

/-- `qend` of an output handle of a strand: the end is marked after every strip appended. -/
def State.endStream (s : State) (uid : Nat) (q : QReg) : State :=
  match s.strand uid with
  | none => s
  | some t =>
    match t.q[q] with
    | none => s
    | some h =>
      if h.isInput || h.ended then s
      else
        let s := s.updStream uid q fun h => { h with ended := true }
        match (if h.kind = 2 then h.mate else none) with
        | some (cu, cq) => s.updStream cu cq fun c => { c with wire := c.wire ++ [.ended], mateEnded := true }
        | none => s

def State.qendOp (s : State) (q : QReg) : Res State := do
  let s ← s.vectorGate clsVA []
  require (match s.cur.q[q] with | some h => !h.isInput | none => false) .illegal s
  return (s.endStream s.cur.uid q).scalarDone

def execQend (q : QReg) (s : State) : Host.Outcome State Fault Refusal := finish (s.qendOp q)

/-- A handle made undefined; the producer matched with a consumer handle finds no free slot from then on. -/
def State.resetStream (s : State) (q : QReg) (h : Stream) : State :=
  let s := s.onCur fun t => t.putStream q none
  match (if h.kind = 3 then h.mate else none) with
  | some (pu, pq) =>
    s.updStream pu pq fun p => if p.mate = some (s.cur.uid, q) then { p with mate := some (0, q) } else p
  | none => s

def State.qrstOp (s : State) (q : QReg) : Res State := do
  let s ← s.vectorGate clsVA []
  let s := s.endStream s.cur.uid q
  match s.cur.q[q] with
  | none => .ok s.scalarDone
  | some h =>
    require (h.kind != 1 || h.mateEnded) (.wait .drain) s
    return (s.resetStream q h).scalarDone

def execQrst (q : QReg) (s : State) : Host.Outcome State Fault Refusal := finish (s.qrstOp q)

/-! ### Traffic of memory streams (R160) -/

/-- The address of pattern element k (R152). -/
def patternAddr (base : Int) : List (Nat × Int) → Nat → Int
  | [], _ => base
  | (c, st) :: ds, k => patternAddr (base + (k % c : Nat) * st) ds (k / c)

/-- How the engine's work on behalf of a strand ends: done, the pages that fault, the launch fault with its address and kind
of access, or a stall. -/
inductive EngineEnd
  | done (s : State)
  | pages (ps : List (Nat × Nat × Nat))
  | kill (cls addr acc : Nat)
  | stall

/-- The places of an engine access in a context (R141, R168). -/
def State.engPlaces (s : State) (ctx : Nat) (a : Int) (n : Nat) (acc : Acc) : Except Exc (List (Phys × Nat) × State) :=
  match s.placesIn ctx a n acc with
  | .ok (ps, s') =>
    if ps.any s'.badPiece && acc = .load then .error (.launch 0x14 (unsignedOf 64 a) 1 none) else .ok (ps, s')
  | .error e => .error e

/-- Every access of a list is checked before the first one, in element order: one record for each faulting page (R273).
What is read is asked of the copies that hold it: an engine keeps none (R172). -/
def State.engCheck (s : State) (ctx n : Nat) (as : List (Int × Acc)) : Except EngineEnd State :=
  let r := as.foldl (fun (r : Except EngineEnd (State × List (Nat × Nat × Nat))) a => do
    let (s, ps) ← r
    match s.engPlaces ctx a.1 n a.2 with
    | .ok (at_, s') => return (if a.2 = .load then at_.foldl (fun s p => s.l2Touch p false) s' else s', ps)
    | .error (.trans p _) => return (s, p.foldl addPage ps)
    | .error (.launch c b x _) => throw (.kill c b x)
    | .error _ => throw .stall) (.ok (s, []))
  match r with
  | .error e => .error e
  | .ok (s', []) => .ok s'
  | .ok (_, ps) => .error (.pages ps)

/-- One element read by an engine, its translation checked already. -/
def State.engRead (s : State) (ctx : Nat) (a : Int) (n : Nat) : Nat :=
  match s.engPlaces ctx a n .load with
  | .ok (ps, s') => leNat (ps.flatMap fun p => s'.readPhys p.1 p.2)
  | .error _ => 0

/-- One element written by an engine, its translation checked already. -/
def State.engWrite (s : State) (ctx : Nat) (a : Int) (n v : Nat) : State :=
  match s.engPlaces ctx a n .store with
  | .ok (ps, s') => s'.storePieces none ps (leBytes n v)
  | .error _ => s

/-- The next slot of a load stream can be filled. -/
def Stream.canFill (h : Stream) : Bool :=
  h.kind == 0 && !h.ended && h.filled.length + h.reserved < h.nslot

/-- Elements of the next fill. -/
def Stream.fillCount (h : Stream) : Nat := min h.se (h.total - h.done)

/-- Addresses of the next n pattern elements. -/
def Stream.nextAddrs (h : Stream) (n : Nat) : List Int :=
  (List.range n).map fun i => patternAddr h.base.toInt h.dims (h.done + i)

/-- A free slot of a load stream is filled (R160). -/
def State.fillStream (s : State) (uid : Nat) (q : QReg) : EngineEnd :=
  match s.strand uid with
  | none => .done s
  | some t =>
    match t.q[q] with
    | none => .done s
    | some h =>
      if !h.canFill then .done s
      else
        let n := h.fillCount
        let as := h.nextAddrs n
        match s.engCheck t.ctx h.eb (as.map fun a => (a, .load)) with
        | .error e => e
        | .ok s' =>
          let es := as.map fun a => s'.engRead t.ctx a h.eb
          let h' := { h with done := h.done + n, ended := decide (h.total ≤ h.done + n) }
          .done (s'.updStrand uid fun t => t.addSlot q h' es)

/-- The oldest strip of a store stream is written to the pattern, the excess discarded; with nothing left after the end,
the completion message is posted (R159, R160). -/
def State.drainStream (s : State) (uid : Nat) (q : QReg) : EngineEnd :=
  match s.strand uid with
  | none => .done s
  | some t =>
    match t.q[q] with
    | none => .done s
    | some h =>
      if h.kind ≠ 1 then .done s
      else
        match h.filled with
        | p :: ps =>
          let m := min p.count (h.total - h.done)
          let as := h.nextAddrs m
          match s.engCheck t.ctx h.eb (as.map fun a => (a, .store)) with
          | .error e => e
          | .ok s' =>
            let es := t.slotElems h p.pos 0 m
            let s' := (as.zip es).foldl (fun s e => s.engWrite t.ctx e.1 h.eb e.2) s'
            .done (s'.updStream uid q fun h =>
              { h with filled := ps, done := h.done + m, ovr := h.ovr || decide (m < p.count) })
        | [] =>
          if h.ended && h.reserved == 0 && !h.mateEnded then
            .done ((s.updStream uid q fun h => { h with mateEnded := true }).post t.lid t.glin t.stage t.six
              { ch := h.ch, hdr := msgHdr 2 h.ch.val (t.sid % 2 ^ 32)
                payload := BitVec.ofNat 64 (h.tag * 2 ^ 32 + 2 * 2 ^ 24) })
          else .done s

end Sys2Proof.Machine
end

