-- ==== Sys2Proof/Machine/Array.lean ====
section
/-! DEFINITION. The matrix array: one row by 128 columns (R99 to R103, R220 to R223), accumulator rows and tile slots
(R224 to R228). -/

namespace Sys2Proof.Machine

/-! ### Sums of terms (R100, R101) -/

/-- floor(log2) of a non-zero term. -/
def termExp : FVal → Option Int
  | .fin _ m e => if m = 0 then none else some (e + Nat.log2 m)
  | _ => none

/-- A term's magnitude cut toward zero to a multiple of 2^q, in those units, signed, and whether a bit was dropped. -/
def truncTerm (q : Int) : FVal → Int × Bool
  | .fin n m e =>
    let k := if q ≤ e then m * 2 ^ (e - q).toNat else m / 2 ^ (q - e).toNat
    (if n then -(k : Int) else k, decide (e < q) && m % 2 ^ (q - e).toNat != 0)
  | _ => (0, false)

/-- Terms summed through a window whose least bit lies `window` below the largest term, rounded to nearest even into a
format: pattern and array status. `nan` says that an operand is NaN, `invalid` that a product is invalid. -/
def windowSum (f : Fmt) (window : Nat) (nan invalid : Bool) (terms : List FVal) : Nat × Nat :=
  let pos := terms.contains (.inf false)
  let negInf := terms.contains (.inf true)
  if nan then (f.nanBits, 0)
  else if invalid || (pos && negInf) then (f.nanBits, stNV)
  else if pos || negInf then (f.signed negInf f.infBits, 0)
  else
    match (terms.filterMap termExp).max? with
    | none => (f.signed (terms.all fun t => t.neg?) 0, 0)
    | some ex =>
      let q := ex - window
      let parts := terms.map (truncTerm q)
      let w : Int := (parts.map (·.1)).foldl (· + ·) 0
      let cut := parts.any (·.2)
      if w = 0 then (0, if cut then stNX else 0)
      else
        let r := f.round { rm := .rne, sat := false, ftz := false } (decide (w < 0)) w.natAbs q
        (r.1, (if cut || r.2 / flNX % 2 == 1 then stNX else 0) ||| (if r.2 / flOF % 2 == 1 then stOF else 0))

/-- A product of two elements: NaN operands, an invalid product, and the term. -/
structure Product where
  nan : Bool
  invalid : Bool
  term : FVal
  deriving DecidableEq, Repr

def mulTerm (a b : FVal) : Product :=
  { nan := a.isNan || b.isNan, invalid := !a.isNan && !b.isNan && (a.mul b).1.isNan, term := (a.mul b).1 }

/-- The S slices of an FP64 significand that are kept (R101). -/
def sliceVal (sl : Nat) : FVal → FVal
  | .fin n m e => .fin n (m * 8 / 2 ^ (56 - 8 * sl) * 2 ^ (56 - 8 * sl)) (e - 3)
  | v => v

/-- A product in FP64 split mode: NaN and infinity are those of the untruncated operands. -/
def mulSplit (sl : Nat) (a b : FVal) : Product :=
  let p := mulTerm a b
  match p.term with
  | .fin _ _ _ => { p with term := ((sliceVal sl a).mul (sliceVal sl b)).1 }
  | _ => p

/-- A float column: products and, when accumulating, the accumulator's value. -/
def floatColumn (f : Fmt) (window : Nat) (ps : List Product) (init : Option Nat) : Nat × Nat :=
  let acc : List FVal := match init with | some b => [f.val b] | none => []
  windowSum f window ((ps.any (·.nan)) || acc.any FVal.isNan) (ps.any (·.invalid)) (ps.map (·.term) ++ acc)

/-- An integer column: modulo 2^32, with OF when the exact sum leaves the range (R102). -/
def intColumn (ps : List Int) (init : Option Nat) : Nat × Nat :=
  let x := ps.foldl (· + ·) (match init with | some b => signedOf 32 b | none => 0)
  (unsignedOf 32 x, if x < -(2 ^ 31 : Nat) ∨ (2 ^ 31 : Nat) ≤ x then stOF else 0)

/-! ### Formats (R220) -/

/-- A pair of formats: kind of arithmetic, element bits of A, K, and how elements are read. -/
inductive Pair
  | float (fa fb : Fmt) (k : Nat)
  | int (wa wb k : Nat)
  | split (sl : Nat)
  deriving DecidableEq, Repr

/-- The pair that VTYPE and a slot's BFMT make; none for every other combination. -/
def pairOf (t : Strand) (w : Tile) : Option Pair :=
  let fam := vtFam t.vtype
  let alt := vtAlt t.vtype
  let slc := vtSlc t.vtype
  if t.vill || !w.valid then none
  else if fam = 2 ∧ t.ew = 8 then
    (if w.bfmt = 0 ∨ w.bfmt = 1 then some (.float (fmtOf 8 alt) (fmtOf 8 (w.bfmt == 1)) 96) else none)
  else if fam = 2 ∧ t.ew = 16 then
    (if w.bfmt = (if alt then 2 else 3) then some (.float (fmtOf 16 alt) (fmtOf 16 alt) 48) else none)
  else if fam = 0 ∧ t.ew = 8 then
    (if w.bfmt = 4 then some (.int 8 8 96) else if w.bfmt = 5 then some (.int 8 4 96) else none)
  else if fam = 0 ∧ t.ew = 4 then (if w.bfmt = 5 then some (.int 4 4 192) else none)
  else if fam = 2 ∧ t.ew = 64 ∧ slc ≠ 0 then (if w.bfmt = 8 + slc then some (.split slc) else none)
  else none

/-- Element k of an A row of 96 bytes, eb bits wide. -/
def rowElem (row eb k : Nat) : Nat := fld row (eb * k) eb

/-- Element (k, c) of a tile. -/
def Tile.elem (w : Tile) (k c : Nat) : Nat := w.elems.getD (k * 128 + c) 0

/-- One column: the value of the accumulator column and the status (R100 to R102). -/
def column (p : Pair) (row : Nat) (w : Tile) (c : Nat) (init : Option Nat) : Nat × Nat :=
  match p with
  | .float fa fb k =>
    floatColumn fp32 55 ((List.range k).map fun i => mulTerm (fa.val (rowElem row fa.width i)) (fb.val (w.elem i c))) init
  | .int wa wb k =>
    intColumn ((List.range k).map fun i => signedOf wa (rowElem row wa i) * signedOf wb (w.elem i c)) init
  | .split sl =>
    floatColumn fp64 122 ((List.range 12).map fun i => mulSplit sl (fp64.val (rowElem row 64 i)) (fp64.val (w.elem i c)))
      init

/-! ### Accumulator rows -/

/-- Word c of row r. -/
def Strand.accWord (t : Strand) (r c : Nat) : Nat := t.acc.readNat (512 * r + 4 * c) 4

def accPut (m : Mem) (r c v : Nat) : Mem := m.writeNat (512 * r + 4 * c) 4 v

/-- A row lies in a defined ring (R228). -/
def Strand.inRing (t : Strand) (r : Nat) : Bool :=
  t.q.toList.any fun o =>
    match o with
    | some h => h.kind != 2 && h.space == 2 && decide (h.rbase ≤ 512 * r)
        && decide (512 * r < h.rbase + h.nslot * h.slotBytes)
    | none => false

/-- Rows r to r + n − 1 are declared and in no ring. -/
def Strand.rowsOk (t : Strand) (r n : Nat) : Bool :=
  decide (r + n ≤ t.accRows) && (List.range n).all fun i => !(t.inRing (r + i))

/-- The rows of an instruction for a format: a pair for FP64. -/
def pairRows : Pair → Nat
  | .split _ => 2
  | _ => 1

/-- The accumulator value of a column. -/
def Strand.accValue (t : Strand) (p : Pair) (r c : Nat) : Nat :=
  match p with
  | .split _ => t.accWord r c + t.accWord (r + 1) c * 2 ^ 32
  | _ => t.accWord r c

def accSet (p : Pair) (m : Mem) (r c v : Nat) : Mem :=
  match p with
  | .split _ => accPut (accPut m r c (v % 2 ^ 32)) (r + 1) c (v / 2 ^ 32)
  | _ => accPut m r c v

/-- The whole row: columns 0 to 127, status ORed (R222). -/
def Strand.matrixRow (t : Strand) (p : Pair) (w : Tile) (r row : Nat) (accumulate : Bool) : Strand :=
  let cols := (List.range 128).map fun c => column p row w c (if accumulate then some (t.accValue p r c) else none)
  { (t.accrueA (cols.foldl (fun a v => a ||| v.2) 0)) with
    acc := (cols.zipIdx).foldl (fun m v => accSet p m r v.2 v.1.1) t.acc }

/-! ### Instructions -/

/-- A place in the matrix queue of 4, and the pc behind the instruction. -/
def State.arrayDone (s : State) : State := s.onCur fun t => { (t.adv 8) with mq := min 4 (t.mq + 1) }

/-- The slot of an instruction that names one: declared (R227), and not loading (R166). -/
def State.slotGate (s : State) (slot : QReg) : Res (State × Tile) := do
  let s ← s.vectorGate clsA []
  match s.cur.tiles[slot.val]? with
  | none => .error (.launch 0x09 0 0 none, s)
  | some w =>
    require (!w.loading) (.wait .engine) s
    return (s, w)

/-- `mmr`, `mmrz`, `mmrs` (R222), their checks in its order. -/
def State.mmOp (s : State) (row : BitVec 10) (slot : QReg) (base : Reg) (rs3 : Option Reg) (accumulate : Bool) :
    Res State := do
  let (s, w) ← s.slotGate slot
  match pairOf s.cur w with
  | none => .error (.illegal, s)
  | some p =>
    let r := ((match rs3 with | some x => s.cur.getX x | none => 0) + BitVec.ofNat 64 row.toNat).toNat
    require (pairRows p == 1 || r % 2 == 0) .illegal s
    require (s.cur.rowsOk r (pairRows p)) (.launch 0x08 0 0 none) s
    let off := (s.cur.getX base).toNat
    require (off + 96 ≤ s.cur.actBytes) (.launch 0x07 0 0 none) s
    return (s.onCur fun t => t.matrixRow p w r (t.act.readNat off 96) accumulate).arrayDone

def execMmr (row : BitVec 10) (slot : QReg) (base : Reg) (s : State) : Host.Outcome State Fault Refusal :=
  finish (s.mmOp row slot base none true)
def execMmrz (row : BitVec 10) (slot : QReg) (base : Reg) (s : State) : Host.Outcome State Fault Refusal :=
  finish (s.mmOp row slot base none false)
def execMmrs (row : BitVec 10) (slot : QReg) (base rs3 : Reg) (s : State) : Host.Outcome State Fault Refusal :=
  finish (s.mmOp row slot base (some rs3) true)

/-- The row of `accrd`, `accwr` and `accz`. -/
def Strand.accRow (t : Strand) (rs1 : Reg) (row : BitVec 10) : Nat := (t.getX rs1 + BitVec.ofNat 64 row.toNat).toNat

/-- Issue of `accrd`, `accwr`, `accz` (R224): a grant; rows declared and free. -/
def State.accGate (s : State) (rs1 : Reg) (row : BitVec 10) (n : Nat) : Res State := do
  let s ← s.vectorGate clsA []
  require (s.cur.g != 0) .illegal s
  require (s.cur.rowsOk (s.cur.accRow rs1 row) n) (.launch 0x08 0 0 none) s
  return s

/-- The register of `accrd` is an output it may write, or no stream: R157's conditions but the wait (R53, step 4). VL > SE
of an output without a free slot is judged after the wait, and so after the row, as R162 orders it for a handle not yet
matched; for one whose SE is known the spec gives no order but that of R53 (DESIGN CHOICE, log 62). -/
def State.outputOk (s : State) (vd : Reg) : Bool :=
  s.cur.inputs [vd] == []
    && (s.cur.outputs [vd]).all fun e =>
        e.2.2.eb * 8 == s.cur.ew && (s.freeSlots e.2.2 == 0 || decide (s.cur.vl ≤ s.slotCap e.2.2))

/-- `accrd`'s effect. -/
def Strand.readRow (t : Strand) (vd : Reg) (r : Nat) : Strand :=
  { t with
    v := setElems t.v t.g vd.val 32 ((List.range 128).map fun c => (c, t.accWord r c))
    vdirty := dirty t.vdirty vd.val 1 }

/-- `accrd`: illegal conditions come before the launch fault of its row (R53, step 4); the spec gives no order between that
fault and the wait for a free slot of an output: the row is checked first (DESIGN CHOICE, log 62). -/
def State.accrdOp (s : State) (vd rs1 : Reg) (row : BitVec 10) : Res State := do
  let s ← s.vectorGate clsA []
  require (s.cur.g != 0 && s.outputOk vd) .illegal s
  require (s.cur.rowsOk (s.cur.accRow rs1 row) 1) (.launch 0x08 0 0 none) s
  let s ← s.streamIn [] [vd]
  let s := s.onCur fun t => t.readRow vd (t.accRow rs1 row)
  return (s.streamOut [vd]).arrayDone.onCur fun t => { t with vstart := 0 }

def execAccrd (vd rs1 : Reg) (row : BitVec 10) (s : State) : Host.Outcome State Fault Refusal :=
  finish (s.accrdOp vd rs1 row)

/-- `accwr`'s effect. -/
def Strand.writeRow (t : Strand) (vs2 : Reg) (r : Nat) : Strand :=
  { t with acc := (List.range 128).foldl (fun m c => accPut m r c (t.elem vs2 32 c)) t.acc }

def State.accwrOp (s : State) (rs1 : Reg) (row : BitVec 10) (vs2 : Reg) : Res State := do
  let s ← s.vectorGate clsA []
  require (s.cur.g != 0 && (s.cur.boundTo vs2).isNone) .illegal s
  require (s.cur.rowsOk (s.cur.accRow rs1 row) 1) (.launch 0x08 0 0 none) s
  return ((s.onCur fun t => t.writeRow vs2 (t.accRow rs1 row)).arrayDone).onCur fun t => { t with vstart := 0 }

def execAccwr (rs1 : Reg) (row : BitVec 10) (vs2 : Reg) (s : State) : Host.Outcome State Fault Refusal :=
  finish (s.accwrOp rs1 row vs2)

/-- `accz` zeroes n rows; its field holds n − 1. -/
def State.acczOp (s : State) (rs1 : Reg) (row n : BitVec 10) : Res State := do
  let s ← s.accGate rs1 row (n.toNat + 1)
  return ((s.onCur fun t => { t with acc := t.acc.zero (512 * t.accRow rs1 row) (512 * (n.toNat + 1)) }).arrayDone).onCur
    fun t => { t with vstart := 0 }

def execAccz (rs1 : Reg) (row n : BitVec 10) (s : State) : Host.Outcome State Fault Refusal := finish (s.acczOp rs1 row n)

/-- `wclr`. -/
def State.wclrOp (s : State) (slot : QReg) : Res State := do
  let (s, _) ← s.slotGate slot
  return (s.onCur fun t => { t with tiles := t.tiles.set slot.val Tile.empty }).arrayDone

def execWclr (slot : QReg) (s : State) : Host.Outcome State Fault Refusal := finish (s.wclrOp slot)

/-- The word of `wdesc`. -/
def wdescWord (t : Strand) (w : Tile) : Nat :=
  t.astat.toNat * 2 ^ 16 + w.krows * 2 ^ 8 + boolBit w.valid 4 + w.bfmt

def State.wdescOp (s : State) (rd : Reg) (slot : QReg) : Res State := do
  let (s, w) ← s.slotGate slot
  return (s.onCur fun t => { (t.putX rd (BitVec.ofNat 64 (wdescWord t w))) with astat := 0 }).arrayDone

def execWdesc (rd : Reg) (slot : QReg) (s : State) : Host.Outcome State Fault Refusal := finish (s.wdescOp rd slot)

end Sys2Proof.Machine
end

