-- ==== Sys2Proof/Machine/Scalar.lean ====
section
/-! DEFINITION. Integer instructions of the RV64 base (R55; the ratified RISC-V unprivileged specification): arithmetic,
branches, loads and stores, and the A extension (R56). -/

namespace Sys2Proof.Machine

/-! ### Arithmetic -/

def signExt (n : Nat) (w : Word) : Word := BitVec.ofInt 64 (signedOf n w.toNat)
def zeroExt (n : Nat) (w : Word) : Word := BitVec.ofNat 64 (w.toNat % 2 ^ n)

def rotl (n : Nat) (v k : Nat) : Nat := (v * 2 ^ (k % n) + v / 2 ^ (n - k % n)) % 2 ^ n
def rotr (n : Nat) (v k : Nat) : Nat := (v / 2 ^ (k % n) + v * 2 ^ (n - k % n)) % 2 ^ n

/-- Signed and unsigned division and remainder of n bits: by zero all ones, and the dividend; the overflow wraps. -/
def divS (n : Nat) (a b : Nat) : Nat :=
  if b % 2 ^ n = 0 then 2 ^ n - 1 else unsignedOf n (Int.tdiv (signedOf n a) (signedOf n b))
def divU (n : Nat) (a b : Nat) : Nat := if b % 2 ^ n = 0 then 2 ^ n - 1 else a % 2 ^ n / (b % 2 ^ n)
def remS (n : Nat) (a b : Nat) : Nat :=
  if b % 2 ^ n = 0 then a % 2 ^ n else unsignedOf n (Int.tmod (signedOf n a) (signedOf n b))
def remU (n : Nat) (a b : Nat) : Nat := if b % 2 ^ n = 0 then a % 2 ^ n else a % 2 ^ n % (b % 2 ^ n)

def bitOf (b : Bool) : Word := if b then 1 else 0

/-- Register-register operations on 64 bits. -/
def alu (op : AluOp) (a b : Word) : Word :=
  let sh := b.toNat % 64
  match op with
  | .add => a + b
  | .sub => a - b
  | .sll => a <<< sh
  | .slt => bitOf (a.slt b)
  | .sltu => bitOf (a.ult b)
  | .xor => a ^^^ b
  | .srl => a >>> sh
  | .sra => a.sshiftRight sh
  | .or => a ||| b
  | .and => a &&& b
  | .mul => a * b
  | .mulh => BitVec.ofInt 64 (a.toInt * b.toInt / (2 ^ 64 : Nat))
  | .mulhsu => BitVec.ofInt 64 (a.toInt * b.toNat / (2 ^ 64 : Nat))
  | .mulhu => BitVec.ofNat 64 (a.toNat * b.toNat / 2 ^ 64)
  | .div => BitVec.ofNat 64 (divS 64 a.toNat b.toNat)
  | .divu => BitVec.ofNat 64 (divU 64 a.toNat b.toNat)
  | .rem => BitVec.ofNat 64 (remS 64 a.toNat b.toNat)
  | .remu => BitVec.ofNat 64 (remU 64 a.toNat b.toNat)
  | .sh1add => (a <<< 1) + b
  | .sh2add => (a <<< 2) + b
  | .sh3add => (a <<< 3) + b
  | .addUw => zeroExt 32 a + b
  | .sh1addUw => (zeroExt 32 a <<< 1) + b
  | .sh2addUw => (zeroExt 32 a <<< 2) + b
  | .sh3addUw => (zeroExt 32 a <<< 3) + b
  | .andn => a &&& ~~~b
  | .orn => a ||| ~~~b
  | .xnor => ~~~(a ^^^ b)
  | .max => if a.slt b then b else a
  | .maxu => if a.ult b then b else a
  | .min => if b.slt a then b else a
  | .minu => if b.ult a then b else a
  | .rol => BitVec.ofNat 64 (rotl 64 a.toNat sh)
  | .ror => BitVec.ofNat 64 (rotr 64 a.toNat sh)
  | .bclr => a &&& ~~~((1 : Word) <<< sh)
  | .bext => (a >>> sh) &&& 1
  | .binv => a ^^^ ((1 : Word) <<< sh)
  | .bset => a ||| ((1 : Word) <<< sh)
  | .czeroEqz => if b = 0 then 0 else a
  | .czeroNez => if b = 0 then a else 0

/-- Register-register operations on 32 bits, the result sign-extended. -/
def aluW (op : AluWOp) (a b : Word) : Word :=
  let x := a.toNat % 2 ^ 32
  let y := b.toNat % 2 ^ 32
  let sh := b.toNat % 32
  signExt 32 (BitVec.ofNat 64 (
    match op with
    | .addw => x + y
    | .subw => x + 2 ^ 32 - y
    | .sllw => x * 2 ^ sh
    | .srlw => x / 2 ^ sh
    | .sraw => unsignedOf 32 (signedOf 32 x / (2 ^ sh : Nat))
    | .mulw => x * y
    | .divw => divS 32 x y
    | .divuw => divU 32 x y
    | .remw => remS 32 x y
    | .remuw => remU 32 x y
    | .rolw => rotl 32 x sh
    | .rorw => rotr 32 x sh))

/-- Operations with a sign-extended 12-bit immediate. -/
def aluI (op : AluIOp) (a : Word) (imm : BitVec 12) : Word :=
  let i : Word := imm.signExtend 64
  match op with
  | .addi => a + i
  | .slti => bitOf (a.slt i)
  | .sltiu => bitOf (a.ult i)
  | .xori => a ^^^ i
  | .ori => a ||| i
  | .andi => a &&& i
  | .addiw => signExt 32 (a + i)

def shiftI (op : ShIOp) (a : Word) (sh : BitVec 6) : Word :=
  match op with
  | .slli => alu .sll a (BitVec.ofNat 64 sh.toNat)
  | .srli => alu .srl a (BitVec.ofNat 64 sh.toNat)
  | .srai => alu .sra a (BitVec.ofNat 64 sh.toNat)
  | .rori => alu .ror a (BitVec.ofNat 64 sh.toNat)
  | .bclri => alu .bclr a (BitVec.ofNat 64 sh.toNat)
  | .bexti => alu .bext a (BitVec.ofNat 64 sh.toNat)
  | .binvi => alu .binv a (BitVec.ofNat 64 sh.toNat)
  | .bseti => alu .bset a (BitVec.ofNat 64 sh.toNat)
  | .slliUw => zeroExt 32 a <<< sh.toNat

def shiftIW (op : ShIWOp) (a : Word) (sh : BitVec 5) : Word :=
  match op with
  | .slliw => aluW .sllw a (BitVec.ofNat 64 sh.toNat)
  | .srliw => aluW .srlw a (BitVec.ofNat 64 sh.toNat)
  | .sraiw => aluW .sraw a (BitVec.ofNat 64 sh.toNat)
  | .roriw => aluW .rorw a (BitVec.ofNat 64 sh.toNat)

/-- Bits of a number counted over a range. -/
def popBits (v n : Nat) : Nat := ((List.range n).filter fun i => v.testBit i).length
/-- Zeros above the highest set bit of n bits. -/
def leadZeros (v n : Nat) : Nat := if v % 2 ^ n = 0 then n else n - 1 - Nat.log2 (v % 2 ^ n)
/-- Zeros below the lowest set bit of n bits. -/
def trailZeros (v n : Nat) : Nat := ((List.range n).find? fun i => v.testBit i).getD n

def unary (op : UnOp) (a : Word) : Word :=
  let bytes := leBytes 8 a.toNat
  match op with
  | .clz => BitVec.ofNat 64 (leadZeros a.toNat 64)
  | .ctz => BitVec.ofNat 64 (trailZeros a.toNat 64)
  | .cpop => BitVec.ofNat 64 (popBits a.toNat 64)
  | .clzw => BitVec.ofNat 64 (leadZeros a.toNat 32)
  | .ctzw => BitVec.ofNat 64 (trailZeros a.toNat 32)
  | .cpopw => BitVec.ofNat 64 (popBits a.toNat 32)
  | .sextB => signExt 8 a
  | .sextH => signExt 16 a
  | .zextH => zeroExt 16 a
  | .orcB => BitVec.ofNat 64 (leNat (bytes.map fun b => if b = 0 then 0 else 0xFF))
  | .rev8 => BitVec.ofNat 64 (leNat bytes.reverse)

def branchTaken (op : BrOp) (a b : Word) : Bool :=
  match op with
  | .beq => a == b
  | .bne => a != b
  | .blt => a.slt b
  | .bge => !(a.slt b)
  | .bltu => a.ult b
  | .bgeu => !(a.ult b)

/-! ### Loads and stores -/

/-- Bytes of a load, and its extension. -/
def ldBytes : LdOp → Nat
  | .lb => 1 | .lbu => 1 | .lh => 2 | .lhu => 2 | .lw => 4 | .lwu => 4 | .ld => 8

def ldValue (op : LdOp) (v : Nat) : Word :=
  match op with
  | .lb => BitVec.ofInt 64 (signedOf 8 v)
  | .lh => BitVec.ofInt 64 (signedOf 16 v)
  | .lw => BitVec.ofInt 64 (signedOf 32 v)
  | _ => BitVec.ofNat 64 v

def stBytes : StOp → Nat
  | .sb => 1 | .sh => 2 | .sw => 4 | .sd => 8

/-- The effective address of a load or store. -/
def State.ea (s : State) (rs1 : Reg) (imm : BitVec 12) : Word := s.cur.getX rs1 + imm.signExtend 64

/-! ### The A extension (R56) -/

/-- New value of an AMO on n bytes. -/
def amoNew (op : AmoOp) (n old d : Nat) : Nat :=
  let w := 8 * n
  match op with
  | .swap => d
  | .add => (old + d) % 2 ^ w
  | .xor => old ^^^ d
  | .and => old &&& d
  | .or => old ||| d
  | .min => if signedOf w d < signedOf w old then d else old
  | .max => if signedOf w old < signedOf w d then d else old
  | .minu => min old d
  | .maxu => max old d

/-- A read value of n bytes sign-extended. -/
def sextN (n v : Nat) : Word := BitVec.ofInt 64 (signedOf (8 * n) v)

/-- A misaligned LR, SC or AMO (R56). -/
def misaligned (a : Word) (n acc : Nat) (s : State) : Res Unit :=
  require (a.toNat % n == 0) (.launch 0x05 a.toNat acc none) s

/-- Release and acquire of the scalar agent: its buffers are flushed, and a release waits for what is held back of them (R184,
R188, R189). -/
def State.orderS (s : State) (aq rl : Bool) : Res State :=
  if rl then s.releaseCur true false else .ok (if aq then s.flushCur true false else s)

def sizeOf (dbl : Bool) : Nat := if dbl then 8 else 4

/-- The granule an LR watches: the physical place of its line (log 14), for a kind of access. -/
def State.granule (s : State) (a : Word) (n : Nat) (acc : Acc) : Except Exc (Space × Nat) :=
  if s.bare then .ok (.dev, lineOf a.toNat)
  else do
    let (ps, _) ← s.places a.toInt n acc
    match ps with
    | p :: _ => return (p.1.space, lineOf p.1.addr)
    | [] => return (.dev, 0)

/-- LR: load, reservation. -/
def State.lrOp (s : State) (dbl aq rl : Bool) (rd rs1 : Reg) : Res State := do
  let n := sizeOf dbl
  let a := s.cur.getX rs1
  misaligned a n 1 s
  let s0 ← s.orderS aq rl
  let gr ← lift s (s0.granule a n .load)
  let (v, s1) ← lift s (s0.load a n)
  return s1.onCur fun t => { t.putX rd (sextN n v) with lrRes := some gr }

/-- SC: stores and gives 0 while the reservation stands on its line, else gives 1; the reservation ends either way. An
SC is judged as an atomic, which needs R and W, whatever it does (R266, R272). -/
def State.scOp (s : State) (dbl aq rl : Bool) (rd rs1 rs2 : Reg) : Res State := do
  let n := sizeOf dbl
  let a := s.cur.getX rs1
  misaligned a n 8 s
  let d := s.cur.getX rs2
  let s0 ← s.orderS aq rl
  let gr ← lift s (s0.granule a n .atomic)
  let hit := s0.cur.lrRes == some gr
  let (_, s1) ← lift s (s0.atomic a n fun _ => if hit then some (d.toNat % 2 ^ (8 * n)) else none)
  return s1.onCur fun t => { t.putX rd (if hit then 0 else 1) with lrRes := none }

def State.amoOp (s : State) (op : AmoOp) (dbl aq rl : Bool) (rd rs1 rs2 : Reg) : Res State := do
  let n := sizeOf dbl
  let a := s.cur.getX rs1
  misaligned a n 8 s
  let d := (s.cur.getX rs2).toNat % 2 ^ (8 * n)
  let s0 ← s.orderS aq rl
  let (v, s1) ← lift s (s0.atomic a n fun old => some (amoNew op n old d))
  return s1.onCur fun t => t.putX rd (sextN n v)

end Sys2Proof.Machine
end

