-- ==== Sys2Proof/Machine/Atomics.lean ====
section
/-! DEFINITION. The vector atomics and their lane form (R134, R194 to R196), gather-linked and scatter-conditional (R197,
R198), and `vwait` (R199). -/

namespace Sys2Proof.Machine

/-! ### TranslateAll (R196) -/

/-- One element of TranslateAll: its page, or the end of the launch; of an address both out of range and misaligned the
spec orders nothing: out of range (DESIGN CHOICE, log 35). -/
def State.translateOne (acc : Acc) (n : Nat) (r : Except (Exc × State) (State × Stops)) (e : Nat × Int) :
    Except (Exc × State) (State × Stops) := do
  let (s, st) ← r
  let at64 := unsignedOf 64 e.2
  if !(inRange e.2 n) then throw (.launch 0x06 at64 (accBits acc) none, s)
  else if e.2 % n ≠ 0 then throw (.launch 0x05 at64 (accBits acc) none, s)
  else
    match s.places e.2 n acc with
    | .ok (ps, s) =>
      if ps.any (fun p => p.1.space == .peer) then throw (.launch 0x0C at64 (accBits acc) none, s) else return (s, st)
    | .error (.trans pages _) => return (s, { st with pending := st.pending ++ [e.1], pages := pages.foldl addPage st.pages })
    | .error x => throw (x, s)

/-- Every active element's page, in ascending order: an unrepairable fault ends the launch, else the repairable ones trap,
with no element performed and the instruction recorded as not started. -/
def State.translateAll (s : State) (acc : Acc) (n : Nat) (es : List (Nat × Int)) (entry : BmEntry) : Res State :=
  match es.foldl (State.translateOne acc n) (.ok (s, { pending := [], pages := [] })) with
  | .ok (s', st) => if st.pages = [] then .ok s' else .error (.trans st.pages (some entry), s)
  | .error (.launch cls a x _, _) => .error (.launch cls a x (some entry), s)
  | .error (e, _) => .error (e, s)

/-- Index and address of the active elements (R195). -/
def Strand.atomAddrs (t : Strand) (vs2 : Reg) (env : VEnv) (is : List Nat) : List (Nat × Int) :=
  is.map fun i => (i, env.base.toInt + t.elem vs2 t.ew i)

/-- The checks that R194 puts at step 4 for every instruction of this file. -/
def Strand.atomOk (t : Strand) (ok : Nat → Nat → Bool) : Bool :=
  !t.vill && t.vstart == 0 && t.grp == 1 && ok t.ew (vtFam t.vtype)

/-! ### Vector atomics -/

/-- Formats an operation accepts (R195). -/
def amoFormat (op : Fin 11) (ew fam : Nat) : Bool :=
  if op = 10 then ew == 32 && fam == 2
  else if op = 8 ∨ op = 9 then ew == 32 || ew == 64
  else (ew == 32 || ew == 64) && fam < 2

/-- The value an element stores, none for a compare that fails (R195). -/
def vamoNew (op : Fin 11) (ew old d sw : Nat) : Option Nat :=
  match op with
  | 0 => some ((old + d) % 2 ^ ew)
  | 1 => some (amoNew .min (ew / 8) old d)
  | 2 => some (amoNew .max (ew / 8) old d)
  | 3 => some (amoNew .minu (ew / 8) old d)
  | 4 => some (amoNew .maxu (ew / 8) old d)
  | 5 => some (amoNew .and (ew / 8) old d)
  | 6 => some (amoNew .or (ew / 8) old d)
  | 7 => some (amoNew .xor (ew / 8) old d)
  | 8 => some d
  | 9 => if old = d then some sw else none
  | 10 => some (fp32.add { rm := .rne, sat := false, ftz := false } old d).1

/-- The register that holds the swap values of `vamocas`. -/
def succReg (r : Reg) : Reg := r + 1

/-- One element: read, write, old value to vd. -/
def State.amoElem (op : Fin 11) (vd : Reg) (r : Res State) (e : Nat × Int) : Res State := do
  let s ← r
  let ew := s.cur.ew
  let d := s.cur.elem vd ew e.1
  let sw := s.cur.elem (succReg vd) ew e.1
  let (old, s') ← lift s (s.atomicMem true e.2 (ew / 8) fun old => vamoNew op ew old d sw)
  return s'.onCur fun t =>
    ({ t with v := setElem t.v t.g vd.val ew e.1 old }).issueTo (e.1 % (8 * t.g))

/-- A vector atomic after the checks: release, TranslateAll, the elements in ascending order. -/
def State.amoRun (s : State) (op : Fin 11) (i : Instr) (a : FAmo) (env : VEnv) (ipc : Word) : Res State := do
  let s ← if a.rl then s.releaseCur true true else .ok s
  let es := s.cur.atomAddrs a.vs2 env (s.cur.envActives env a.vm)
  let s ← s.translateAll .atomic (s.cur.ew / 8) es (s.cur.entryOf i 0 env ipc false [])
  let s := if s.cur.vl > 0 then s.onCur fun t => { t with vdirty := dirty t.vdirty a.vd.val 1 } else s
  es.foldl (State.amoElem op a.vd) (.ok s)

def State.vamoOp (s : State) (op : Fin 11) (i : Instr) (a : FAmo) : Res State :=
  s.memOp i clsV (maskOf a.vm) (if op = 9 then [a.vd, succReg a.vd, a.vs2] else [a.vd, a.vs2]) [a.vd]
    (fun t => t.atomOk (amoFormat op) && !(op == 9 && a.vd.val % 2 == 1)) (fun t => t.envAt a.base 0)
    fun s e ipc => s.amoRun op i a e ipc

def execVamoadd (a : FAmo) (s : State) : Host.Outcome State Fault Refusal := finish (s.vamoOp 0 (.vamoadd a) a)
def execVamomin (a : FAmo) (s : State) : Host.Outcome State Fault Refusal := finish (s.vamoOp 1 (.vamomin a) a)
def execVamomax (a : FAmo) (s : State) : Host.Outcome State Fault Refusal := finish (s.vamoOp 2 (.vamomax a) a)
def execVamominn (a : FAmo) (s : State) : Host.Outcome State Fault Refusal := finish (s.vamoOp 3 (.vamominn a) a)
def execVamomaxn (a : FAmo) (s : State) : Host.Outcome State Fault Refusal := finish (s.vamoOp 4 (.vamomaxn a) a)
def execVamoand (a : FAmo) (s : State) : Host.Outcome State Fault Refusal := finish (s.vamoOp 5 (.vamoand a) a)
def execVamoor (a : FAmo) (s : State) : Host.Outcome State Fault Refusal := finish (s.vamoOp 6 (.vamoor a) a)
def execVamoxor (a : FAmo) (s : State) : Host.Outcome State Fault Refusal := finish (s.vamoOp 7 (.vamoxor a) a)
def execVamoswp (a : FAmo) (s : State) : Host.Outcome State Fault Refusal := finish (s.vamoOp 8 (.vamoswp a) a)
def execVamocas (a : FAmo) (s : State) : Host.Outcome State Fault Refusal := finish (s.vamoOp 9 (.vamocas a) a)
def execVamofadd (a : FAmo) (s : State) : Host.Outcome State Fault Refusal := finish (s.vamoOp 10 (.vamofadd a) a)

/-! ### Lane form (R134) -/

/-- An atomic of a lane thread on one element: base plus offset register; a 32-bit old value is sign-extended. Of an
address both misaligned and out of range the spec orders nothing: misaligned (DESIGN CHOICE, log 35). -/
def State.laneAmoOp (s : State) (op : Fin 11) (a : FAmo) : Res State := do
  require s.cur.fork.isSome .illegal s
  let ew := s.cur.ew
  require (!a.vm && amoFormat op ew (vtFam s.cur.vtype) && !(op == 9 && a.vd.val % 2 == 1)) (.launch 0x04 0 0 none) s
  let n := ew / 8
  let ad := s.cur.getX a.base + s.cur.getX a.vs2
  require (ad.toNat % n == 0) (.launch 0x05 ad.toNat 8 none) s
  let (ps, _) ← lift s (s.places ad.toInt n .atomic)
  require (!(ps.any fun p => p.1.space == .peer)) (.launch 0x0C ad.toNat 8 none) s
  let d := (s.cur.getX a.vd).toNat % 2 ^ ew
  let sw := (s.cur.getX (succReg a.vd)).toNat % 2 ^ ew
  let s1 ← if a.rl then s.releaseCur false true else .ok s
  let (old, s2) ← lift s (s1.atomicMem true ad.toInt n fun old => vamoNew op ew old d sw)
  let lane := match s.cur.laneTurn with | some l => l.lane | none => 0
  return (s2.onCur fun t => (t.putX a.vd (sextN n old)).issueTo lane).scalarDone

def execLaneFormAtomic (op : Fin 11) (a : FAmo) (s : State) : Host.Outcome State Fault Refusal :=
  finish (s.laneAmoOp op a)

/-! ### `vgl` and `vsc` (R197, R198) -/

/-- EW 32 or 64, any FAM. -/
def linkFormat (ew _fam : Nat) : Bool := ew == 32 || ew == 64

/-- The line of an element's place. -/
def placeLine (ps : List (Phys × Nat)) : Space × Nat :=
  match ps with
  | p :: _ => (p.1.space, lineOf p.1.addr)
  | [] => (.dev, 0)

/-- Lines that gather reservations lock in a home L2 slice and set, whoever holds them (R198). -/
def State.sliceLocked (s : State) (l : Space × Nat) : List (Space × Nat) :=
  (s.strands.flatMap fun t => t.resL2.filter fun k => t.res.any fun r => r.2 == k).eraseDups.filter fun k =>
    s.homeDie k.1 k.2 == s.homeDie l.1 l.2 && homeSlice k.2 == homeSlice l.2 && sliceSet k.2 == sliceSet l.2

/-- Locking a line keeps at least 8 ways of its set unlocked, in the cache portion or in the home slice, where the
element is performed (R198). -/
def State.canLock (s : State) (portion : Bool) (l : Space × Nat) : Bool :=
  let held :=
    if portion then
      let sets := (s.core s.cur.core).sets
      ((s.lockedLines s.cur.core).filter fun k => k.2 % sets == l.2 % sets).eraseDups
    else s.sliceLocked l
  held.contains l || held.length < 8

/-- One element of `vgl`: load and reservation in one step, in the cache portion when the load left the line there, else in
the home slice. -/
def State.glElem (vd : Reg) (r : Res State) (e : Nat × Int) : Res State := do
  let s ← r
  let ew := s.cur.ew
  let (ps, _) ← lift s (s.places e.2 (ew / 8) .load)
  let (v, s') ← lift s (s.loadMem true e.2 (ew / 8))
  let l := placeLine ps
  let portion := (ps.all fun p => s.inPortion p.1) && ((s'.core s'.cur.core).copy l.1 l.2).isSome
  let made := s'.canLock portion l
  return s'.onCur fun t =>
    { t with
      v := setElem t.v t.g vd.val ew e.1 v
      res := if made then (e.1, l.1, l.2) :: t.res else t.res
      resL2 := if made && !portion then l :: t.resL2 else t.resL2 }

/-- `vgl` after the checks. A reservation is of what memory holds, so the strand's own earlier stores are performed first,
whose flush would else end it (R184, R198). -/
def State.glRun (s : State) (i : Instr) (a : FLink) (env : VEnv) (ipc : Word) : Res State := do
  let s ← s.releaseCur true true
  let s := s.onCur fun t => { t with res := [], resL2 := [] }
  let es := s.cur.atomAddrs a.vs2 env (s.cur.envActives env a.vm)
  let s ← s.translateAll .load (s.cur.ew / 8) es (s.cur.entryOf i 0 env ipc false [])
  let s := if s.cur.vl > 0 then s.onCur fun t => { t with vdirty := dirty t.vdirty a.vd.val 1 } else s
  es.foldl (State.glElem a.vd) (.ok s)

def execVgl (a : FLink) (s : State) : Host.Outcome State Fault Refusal :=
  finish (s.memOp (.vgl a) clsV (maskOf a.vm) [a.vs2] [a.vd] (·.atomOk linkFormat) (fun t => t.envAt a.base 0)
    fun s e ipc => s.glRun (.vgl a) a e ipc)

/-- One element of `vsc`: check and store are one step, so the store is performed and not combined; it ends every
reservation on its line (R184, R197). -/
def State.scElem (vs3 : Reg) (r : Res State) (e : Nat × Int) : Res State := do
  let s ← r
  let ew := s.cur.ew
  let (ps, _) ← lift s (s.places e.2 (ew / 8) .load)
  let l := placeLine ps
  if s.cur.res.contains (e.1, l.1, l.2) then do
    let v := s.cur.elem vs3 ew e.1
    let (_, s') ← lift s (s.atomicMem true e.2 (ew / 8) fun _ => some v)
    return s'.onCur fun t =>
      ({ t with
        k := t.k.set 6 (setBits t.k[6] [(e.1, true)])
        res := t.res.filter fun q => !(q.2.1 == l.1 && q.2.2 == l.2) }).issueTo (e.1 % (8 * t.g))
  else return s

/-- `vsc` after the checks: the vector agent's own earlier stores are performed first, and end the reservations on the lines
they write (R184, R198). -/
def State.scRun (s : State) (i : Instr) (a : FLink) (env : VEnv) (ipc : Word) : Res State := do
  let s ← s.releaseCur a.ord true
  let es := s.cur.atomAddrs a.vs2 env (s.cur.envActives env a.vm)
  match s.translateAll .atomic (s.cur.ew / 8) es (s.cur.entryOf i 0 env ipc false []) with
  | .error (e, s') => .error (e, s'.onCur fun t => { t with res := [] })
  | .ok s =>
    let s := s.onCur fun t => { t with k := t.k.set 6 (setBits t.k[6] ((List.range t.vl).map fun i => (i, false))) }
    let s ← es.foldl (State.scElem a.vd) (.ok s)
    return s.onCur fun t => { t with res := [] }

def execVsc (a : FLink) (s : State) : Host.Outcome State Fault Refusal :=
  finish (s.memOp (.vsc a) clsV (6 :: maskOf a.vm) [a.vd, a.vs2] [] (·.atomOk linkFormat) (fun t => t.envAt a.base 0)
    fun s e ipc => s.scRun (.vsc a) a e ipc)

/-! ### `vwait` (R199) -/

/-- EW 32 or 64, FAM 00 or 01. -/
def waitFormat (ew fam : Nat) : Bool := (ew == 32 || ew == 64) && fam < 2

/-- A comparison of `vwait`: signed for FAM 00. -/
abbrev WaitRel := Nat → Nat → Nat → Nat → Bool

def waitEq : WaitRel := fun _ _ a b => a == b
def waitNe : WaitRel := fun _ _ a b => a != b
def waitLt : WaitRel := fun ew fam a b => if fam = 0 then decide (signedOf ew a < signedOf ew b) else decide (a < b)
def waitGe : WaitRel := fun ew fam a b => !(waitLt ew fam a b)

/-- One evaluation: every active element satisfies the comparison. -/
def State.waitEval (s : State) (rel : WaitRel) (vs3 : Reg) (es : List (Nat × Int)) : Res (Bool × State) :=
  es.foldl (fun (r : Res (Bool × State)) e => do
    let (ok, s) ← r
    let ew := s.cur.ew
    let (v, s') ← lift s (s.loadMem true e.2 (ew / 8))
    return (ok && rel ew (vtFam s.cur.vtype) v (s.cur.elem vs3 ew e.1), s')) (.ok (true, s))

/-- The operands of a `vwait`: those of the entry when it is replayed (R278). -/
def Strand.waitEnv (t : Strand) (base : Reg) : VEnv :=
  match t.replaying with
  | some { entries := e :: _, .. } => { t.envAt base 0 with base := e.xbase }
  | _ => t.envAt base 0

/-- Behind a `vwait`: the next instruction, or where the header of a replay leaves off. -/
def Strand.pastWait (t : Strand) : Strand :=
  match t.replaying with
  | some b => { t with pc := b.pc }
  | none => t.adv 4

/-- A `vwait` that does not complete: held back, it stands at its instruction with its pops made; at a fault it has issued,
and its entry records it as not started (R199, R277). -/
def State.waitErr (s0 : State) (entry : BmEntry) (e : Exc × State) : Exc × State :=
  match e.1 with
  | .wait w => (.wait w, s0)
  | .launch cls a x _ => (.launch cls a x (some entry), e.2)
  | x => (x, e.2)

/-- `vwait`: the pops belong to its first issue (R156); each evaluation that fails leaves it asleep, its loads performed
(R193, R199). -/
def State.waitOp (s : State) (rel : WaitRel) (i : Instr) (a : FWait) : Res State := do
  let s ← s.vectorGate clsV (maskOf a.vm)
  require (s.cur.atomOk waitFormat) .illegal s
  let ins := s.cur.inputs [a.vs3, a.vs2]
  let s ← if s.cur.popped then .ok s else s.streamIn [a.vs3, a.vs2] []
  let s0 := s.onCur fun t => { t with popped := ins != [] }
  let env := { s0.cur.waitEnv a.base with popped := ins != [] }
  let es := s0.cur.atomAddrs a.vs2 env (s0.cur.actives a.vm)
  let s1 := s0.onCur Strand.pastWait
  let entry := s1.cur.entryOf i 0 env s.cur.pc false []
  let (ok, s3) ← ((s1.translateAll .load (s1.cur.ew / 8) es entry).bind fun s2 => s2.waitEval rel a.vs3 es).mapError
    (s0.waitErr entry)
  if ok then return (s3.vectorDone 0).onCur fun t => { t with replaying := none } else .error (.wait .memory, s3.onCur fun _ => s0.cur)

def execVwaitEq (a : FWait) (s : State) : Host.Outcome State Fault Refusal := finish (s.waitOp waitEq (.vwaitEq a) a)
def execVwaitNe (a : FWait) (s : State) : Host.Outcome State Fault Refusal := finish (s.waitOp waitNe (.vwaitNe a) a)
def execVwaitLt (a : FWait) (s : State) : Host.Outcome State Fault Refusal := finish (s.waitOp waitLt (.vwaitLt a) a)
def execVwaitGe (a : FWait) (s : State) : Host.Outcome State Fault Refusal := finish (s.waitOp waitGe (.vwaitGe a) a)

end Sys2Proof.Machine
end

