-- ==== Sys2Proof/Machine/Carrier.lean ====
section
/-! DEFINITION. The context carrier (R41 to R46), lane-wait moves (R35), thermal control (R253, R254), mix-driven moves
(R255), exit (R47), and the strand-control instructions (R249). -/

namespace Sys2Proof.Machine

/-! ### Targets -/

/-- A core and its lowest free slot, when the core can take the strand. -/
def State.placeAt (s : State) (t : Strand) (id : Nat) : Option (Nat × Nat) :=
  if s.fits id (t.need (coreClass id)) then (s.freeSlot id).map fun sl => (id, sl) else none

/-- The nearest core of some classes on the strand's die that can take it (R42). -/
def State.nearestFit (s : State) (t : Strand) (cs : List Cls) (p : Nat → Bool) : Option (Nat × Nat) :=
  let ids := (cs.flatMap fun c => coresOf (coreDie t.core) c).filter fun id => p id && (s.placeAt t id).isSome
  match nearest t.core ids with
  | some id => s.placeAt t id
  | none => none

/-- The first valid entry of the thermal ranking table that qualifies; by R42 only with no valid entry (R254). -/
def State.thermalTarget (s : State) (t : Strand) : Option (Nat × Nat) :=
  let ok (id : Nat) : Bool :=
    coreIds.contains id && coreDie id == coreDie t.core && coreClass id == t.cls && id != t.core
      && (s.placeAt t id).isSome
  let ranked := (sortBy (fun a b => a.1 < b.1) (s.die (coreDie t.core)).rank).map (·.2)
  if ranked = [] then s.nearestFit t [t.cls] fun id => id != t.core
  else
    match ranked.find? ok with
    | some id => s.placeAt t id
    | none => none

/-- Where a move takes a strand now. -/
def State.moveTarget (s : State) (t : Strand) (k : MoveKind) : Option (Nat × Nat) :=
  match k with
  | .classes cs => s.nearestFit t cs fun _ => true
  | .thermal => s.thermalTarget t
  | .core id => s.placeAt t id

/-! ### A move (R43, R44) -/

/-- Registers never written since they were last dead are zero at the target (R43). Gather reservations are lost, the
scalar one is not: R1 lists no `sc` among what a move may change (log 14). -/
def Strand.carried (t : Strand) : Strand :=
  { t.drained with
    v := Vector.ofFn fun n : Fin 32 => if t.vdirty.getLsbD n.val then t.v[n] else 0
    mq := 0, res := [], resL2 := [], asked := 0, mixN := 0, mixV := 0, mixDone := none }

/-- The carrier takes a strand's context: its buffers flushed, its work complete, its appends landed (R163), its old place
free; a slot and so many lane groups at the target are its own from now on. -/
def State.departWith (s : State) (uid id slot lanes : Nat) : State :=
  match s.strand uid with
  | none => s
  | some t =>
    let s := ((s.landStrips t).flushWc uid true true).vacate t.core t.slot
    let (s, _) := s.takeLanes id slot lanes
    (s.updStrand uid fun t => { t.carried with status := .transit id slot }).laneGrant t.core

/-- A strand departs with the lane groups of its grant. -/
def State.depart (s : State) (uid id slot : Nat) : State :=
  s.departWith uid id slot (match s.strand uid with | some t => lanesOn (coreClass id) t.g | none => 0)

/-- The strand resumes at the target: its context restored, one more carrier move counted. -/
def State.arrive (s : State) (uid : Nat) : State :=
  s.updStrand uid fun t =>
    match t.status with
    | .transit id slot =>
      { t with core := id, slot := slot, migcnt := t.migcnt + 1, status := .running
               lanes0 := if t.scratchBytes != 0 then (s.core id).lanesOf slot else t.lanes0 }
    | _ => t

/-! ### Tokens (R281), and batches that wait (R293) -/

/-- The token of a unit: strand slot 0 to 3, or 4 for the copy engine. -/
def tokenWord (gen : BitVec 16) (core unit : Nat) : Word :=
  BitVec.ofNat 64 (gen.toNat * 2 ^ 32 + core % 2 ^ 16 * 2 ^ 16 + unit % 8 * 2 ^ 8)

/-- The trap generation of a unit. -/
def State.gen (s : State) (core unit : Nat) : BitVec 16 := (s.core core).gen.getD unit 0

/-- A unit's batch still waits for room in its die's queue: it stays parked until the batch enters (R293). -/
def State.batchWaits (s : State) (core unit : Nat) : Bool :=
  (s.die (coreDie core)).batches.any fun b => b.any fun r => r.token == tokenWord (s.gen core unit) core unit

/-! ### The carrier's room and queue (R288) -/

/-- Fewer than 8 moves are under way on a die. -/
def State.carrierRoom (s : State) (die : Nat) : Bool :=
  decide ((s.strands.filter fun t => match t.status with | .transit id _ => coreDie id == die | _ => false).length < 8)

/-- A request stands in the queue of a die's carrier: of a strand that is about to move, of one in lane wait that is to be
moved, or of a `ccmove` OP 0. -/
def Strand.queuedOn (t : Strand) (die : Nat) : Bool :=
  t.asked != 0 && match t.status with
    | .moving _ => coreDie t.core == die
    | .waiting (.lane _ _ _) => coreDie t.core == die
    | .waiting (.carrier d) => d == die
    | _ => false

/-- A strand stands where it can be saved (R258). -/
def Strand.stands (t : Strand) : Bool :=
  match t.status with
  | .trapping _ => false
  | .transit _ _ => false
  | .freezing => false
  | _ => true

/-- A user strand of a launch that holds a place. -/
def Strand.residentOf (t : Strand) (lid : Nat) : Bool := t.lid == lid && !t.system && t.status != .gone && !t.inPool

/-- Every resident strand of a launch stands still, a parked one with its batch in the queue (R293), and no copy command of
the launch is in flight, nor a completion message of one on its way to an inbox (R168, R258). -/
def State.canSave (s : State) (lid : Nat) : Bool :=
  (s.strands.all fun t => !(t.residentOf lid) || (t.stands && !(t.status == .parked && s.batchWaits t.core t.slot)))
    && !(s.cores.any fun c => c.engine.any fun k => k.lid == lid)
    && !(s.wire.any fun m => m.lid == lid && bf m.msg.hdr 60 4 == 2)

/-- The save of a launch waits for a die's carrier: a strand of it on that die is still to be taken. -/
def State.saveQueued (s : State) (l : Launch) (die : Nat) : Bool :=
  l.st == .preempting && s.canSave l.lid && s.strands.any fun t => t.residentOf l.lid && coreDie t.core == die

/-- A die's carrier has room and no request before one of an order number. -/
def State.carrierFor (s : State) (die before : Nat) : Bool :=
  s.carrierRoom die
    && !(s.strands.any fun t => t.queuedOn die && decide (t.asked < before))
    && !(s.lu.launches.any fun l => decide (l.asked < before) && s.saveQueued l die)

/-- The carrier of its die can take a strand, whose place in the queue has an order number, now: every append of the strand
can land (R163, R288). -/
def State.canTake (s : State) (t : Strand) (before : Nat) : Bool := s.carrierFor (coreDie t.core) before && !(s.stripsHeld t)

/-- A move to a core: at once when the carrier can take the strand, else as a request in its queue. -/
def State.departOrAsk (s : State) (uid id slot : Nat) : State :=
  if (match s.strand uid with | some t => s.canTake t s.nextAsk | none => true) then s.depart uid id slot
  else s.ask uid (.core id)

/-- A strand whose slot is disabled, standing where the carrier can take it (R253). -/
def State.displaced (s : State) (t : Strand) : Bool :=
  s.slotLost t
    && match t.status with
       | .running => true
       | .waiting w => w != .replay
       | .yielding _ => true
       | _ => false

/-- A requested move with no target: migration wait (R46); a strand that was to go to a chosen core stays (R249, R255). -/
def Strand.notMoved (t : Strand) (k : MoveKind) : Strand :=
  { t with asked := 0, status := match k with | .core _ => .running | k => .migWait k }

/-- The vector core to which a strand in lane wait moves: the nearest with a free slot and the lane groups it wants. -/
def State.laneTarget (s : State) (t : Strand) (want : Nat) : Option (Nat × Nat) :=
  s.nearestFit t [.vector] fun id => id != t.core && decide (want ≤ (s.core id).freeLanes.length)

/-- CARRIER_MOVE: the next request of the queue is carried out when there is room (R288): the context is taken, or with no
target the strand is in migration wait, or stays. A strand in migration wait moves when a core can take it, and goes on
waiting when the last core in service of its classes fails, as R24 speaks of the class-miss alone (DESIGN CHOICE, log 64);
one whose slot is disabled makes its request. -/
def State.carry (s : State) (uid : Nat) : State :=
  match s.strand uid with
  | none => s
  | some t =>
    if s.displaced t then s.ask uid .thermal
    else
      match t.status with
      | .moving k =>
        if !(s.canTake t t.asked) then s
        else
          match s.moveTarget t k with
          | some (id, slot) => s.depart uid id slot
          | none => s.updStrand uid (·.notMoved k)
      | .migWait k =>
        match (if s.canTake t s.nextAsk then s.moveTarget t k else none) with
        | some (id, slot) => s.depart uid id slot
        | none => s
      | .waiting (.lane _ want _) =>
        if t.asked = 0 ∨ !(s.canTake t t.asked) then s
        else
          match s.laneTarget t want with
          | some (id, slot) => s.departWith uid id slot want
          | none => s.updStrand uid fun t => { t with asked := 0 }
      | _ => s

/-! ### Lane-wait moves (R35) -/

/-- After 50 µs in lane wait an unpinned strand moves to the nearest vector core of its die with a free slot and the lane
groups it wants, which are its own from then on; while the carrier is busy it stands in the carrier's queue. -/
def State.laneCheck (s : State) (uid : Nat) : State :=
  match s.strand uid with
  | none => s
  | some t =>
    match t.status with
    | .waiting (.lane _ want _) =>
      if t.pinned ∨ t.asked ≠ 0 then s
      else
        match s.laneTarget t want with
        | some (id, slot) =>
          if s.canTake t s.nextAsk then s.departWith uid id slot want
          else ({ s with nextAsk := s.nextAsk + 1 }).updStrand uid fun t => { t with asked := s.nextAsk }
        | none => s
    | _ => s

/-! ### Mix-driven moves (R255) -/

/-- MIX_WINDOW_END: a window of 65,536 instructions is judged by the vector instructions in it. -/
def State.mixEnd (s : State) (uid : Nat) : State :=
  match s.strand uid with
  | none => s
  | some t =>
    match t.mixDone with
    | none => s
    | some n =>
      let s := s.updStrand uid fun t => { t with mixDone := none }
      let c := s.core t.core
      let inLaneWait := match t.status with | .waiting (.lane _ _ _) => true | _ => false
      let stands := match t.status with | .running | .waiting _ | .yielding _ => true | _ => false
      let due := t.cls == .vector && c.men && n < c.mthr.toNat && !t.pinned && t.fork.isNone && !inLaneWait
        && !s.plat.locked && stands
      match (if due then s.nearestFit t [.control] fun _ => true else none) with
      | some (id, slot) => s.departOrAsk uid id slot
      | none => s

/-! ### Thermal control (R253, R256, R326) -/

/-- A new temperature: locked-clock mode is left at TTRIP; TTRIP + 10 with one slot is a machine error, reported at the
first update that meets it, as the spec gives no time for 'stays' (DESIGN CHOICE, log 62). -/
def State.sensor (s : State) (id : Nat) (temp : Byte) : State :=
  let s := s.updCore id fun c => { c with temp := temp }
  let s := if s.plat.locked && Config.ttrip ≤ temp.toNat then
      ({ s with plat := { s.plat with lock := false, locked := false, changing := false } }).merr mUNLOCK
    else s
  let one := ((List.range 4).filter fun n => (s.core id).sen.getLsbD n).length ≤ 1
  if one && Config.ttrip + 10 ≤ temp.toNat then
    ({ s with plat := { s.plat with merrCore := BitVec.ofNat 16 id } }).merr mTHERM
  else s

/-- Enabled and disabled slots of a core, ascending. -/
def Core.slotsWhere (c : Core) (on : Bool) : List Nat :=
  (List.range (clsSlots (coreClass c.id))).filter fun n => c.sen.getLsbD n == on

/-- The strand of a slot that has been disabled is displaced, if it stands where the carrier can take it; else its own
CARRIER_MOVE does so later. -/
def State.displaceFrom (s : State) (id slot : Nat) : State :=
  match (s.onCore id).find? fun t => t.place == some (id, slot) && s.displaced t with
  | some t => s.ask t.uid .thermal
  | none => s

/-- The highest enabled slot is disabled while the core is hot. -/
def State.slotOff (s : State) (id : Nat) : State :=
  let c := s.core id
  if Config.ttrip ≤ c.temp.toNat ∧ 1 < (c.slotsWhere true).length ∧ !s.plat.locked then
    match (c.slotsWhere true).getLast? with
    | some n => (s.updCore id fun c => { c with sen := c.sen &&& ~~~(BitVec.ofNat 4 (2 ^ n)) }).displaceFrom id n
    | none => s
  else s

/-- The lowest disabled slot is enabled while the core is cool. -/
def State.slotOn (s : State) (id : Nat) : State :=
  let c := s.core id
  if c.temp.toNat + 5 ≤ Config.ttrip then
    match c.slotsWhere false with
    | n :: _ => s.updCore id fun c => { c with sen := c.sen ||| BitVec.ofNat 4 (2 ^ n) }
    | [] => s
  else s

/-- A core fails periodic self-test and leaves service (R24, R311). -/
def State.selftestFail (s : State) (id : Nat) : State :=
  ({ (s.updCore id fun c => { c with inService := false }) with
    plat := { s.plat with merrCore := BitVec.ofNat 16 id } }).merr mSELFTEST

/-! ### Migration wait runs out (R46) -/

/-- Classes a strand in migration wait waits for. -/
def Strand.waitClasses (t : Strand) : List Cls :=
  match t.status with
  | .migWait (.classes cs) => cs
  | .migWait _ => [t.cls]
  | _ => []

/-- Launches that hold slots of the classes on the die, lowest E first and then latest accepted. -/
def State.migVictims (s : State) (t : Strand) : List Launch :=
  let ls := s.lu.launches.filter fun l => l.st == .running && s.strands.any fun u =>
    u.lid == l.lid && !u.system
      && (match u.place with | some p => coreDie p.1 == coreDie t.core && t.waitClasses.contains (coreClass p.1) | none => false)
  sortBy (fun a b => s.levelE a < s.levelE b || (s.levelE a == s.levelE b && decide (b.lid < a.lid))) ls

/-- What the scheduler reads of a running launch is held back. -/
def State.schedHeld (s : State) : Bool := s.lu.launches.any fun l => l.st == .running && s.tenantHeld l.ctx

/-- Those reads are tracked. -/
def State.schedTouch (s : State) : State :=
  s.lu.launches.foldl (fun s l => if l.st = .running then s.tenantTouch l.ctx else s) s

/-- MIGRATION_WAIT_TIMEOUT and SAVE_POOL_RETRY: the first candidate whose save the pool can hold is pre-empted; it waits while
a descriptor or a tenant's entry is held back. -/
def State.migTimeout (s : State) (row : Instr) (uid : Nat) : State :=
  s.orWait { row := row, arg := { uid := uid } }
    (s.schedHeld && match s.strand uid with | some t => t.waitClasses != [] | none => false) fun s =>
    match s.strand uid with
    | none => s
    | some t =>
      if t.waitClasses = [] then s
      else
        let s := s.schedTouch
        (firstSome (fun l => s.preempt l.lid (some 0)) (s.migVictims t)).getD s

/-! ### Exit (R47) -/

/-- Vector and matrix instructions issued have completed (R47). -/
def Strand.complete (t : Strand) : Strand := { t.drained with mq := 0 }

/-- `gexit`, and a fetch from the exit address: what was issued completes, the buffers are flushed, and the strand exits
(R47, R295). -/
def State.gexitOp (s : State) : Res State := do
  let s ← s.scalarGate anyCls
  return (s.flushCur true true).onCur fun t => t.complete.setStatus .exiting

def execGexit (s : State) : Host.Outcome State Fault Refusal := finish s.gexitOp
def execExitAddressFetch (s : State) : Host.Outcome State Fault Refusal := finish s.gexitOp

/-- Copy commands of a strand not complete, on any engine. -/
def State.inFlight (s : State) (uid : Nat) : Bool := s.cores.any fun c => c.engine.any fun k => k.uid == uid

/-- A strand's store streams that have not drained. -/
def Strand.undrained (t : Strand) : Bool :=
  t.q.toList.any fun o => match o with | some h => h.kind == 1 && !h.mateEnded | none => false

/-- Every strand of a group has exited. -/
def State.groupEnded (s : State) (lid glin : Nat) : Bool :=
  !(s.strands.any fun t => t.lid == lid && t.glin == glin && !t.system && t.status != .gone)

/-- STRAND_EXIT: once the strand's work is complete, and every store it made performed (R47), its output streams end; when they
have drained it is gone, and a group that has lost its last strand retires. -/
def State.exitStrand (s : State) (uid : Nat) : State :=
  match s.strand uid with
  | none => s
  | some t =>
    if t.status ≠ .exiting ∨ s.inFlight uid ∨ s.standsBy uid true true then s
    else
      let s := (List.finRange 16).foldl (fun s q => s.endStream uid q) s
      if (match s.strand uid with | some t => t.undrained | none => false) then s
      else
        let s := (match s.strand uid with | some t => s.leaveOuts t | none => s).dismiss uid
        if t.system then s
        else if s.groupEnded t.lid t.glin then s.retire t.lid t.glin
        else s.barrierCheck t.lid t.glin

/-! ### `yld` and `mig` (R249) -/

/-- The other ready strands of the core. -/
def State.readyOthers (s : State) : List Nat :=
  (s.others.filter fun t => t.core == s.cur.core && t.status == .running).map (·.uid)

def State.yldOp (s : State) : Res State := do
  let s ← s.scalarGate anyCls
  let us := s.readyOthers
  return (s.scalarDone).onCur fun t => if us = [] then t else t.setStatus (.yielding us)

def execYld (s : State) : Host.Outcome State Fault Refusal := finish s.yldOp

/-- `mig`: no effect on the class itself, for an absent class, a pinned strand, system code, or without a free slot; else
the carrier takes the strand. -/
def State.migOp (s : State) (c : Cls) : Res State := do
  let s ← s.scalarGate anyCls
  let s := s.scalarDone
  let t := s.cur
  if t.system ∨ t.cls = c ∨ !(s.classPresent c) ∨ t.pinned then return s
  else
    match s.nearestFit t [c] fun _ => true with
    | some (id, slot) => return s.departOrAsk t.uid id slot
    | none => return s

def execMigControl (s : State) : Host.Outcome State Fault Refusal := finish (s.migOp .control)
def execMigVector (s : State) : Host.Outcome State Fault Refusal := finish (s.migOp .vector)
def execMigArray (s : State) : Host.Outcome State Fault Refusal := finish (s.migOp .array)

/-! ### The events -/

def execCarrierMove (s : State) : Host.Outcome State Fault Refusal := .next (s.carry s.arg.uid)
def execStrandArrival (s : State) : Host.Outcome State Fault Refusal := .next (s.arrive s.arg.uid)
def execLaneWaitCheck (s : State) : Host.Outcome State Fault Refusal := .next (s.laneCheck s.arg.uid)
def execMixWindowEnd (s : State) : Host.Outcome State Fault Refusal := .next (s.mixEnd s.arg.uid)
def execMigrationWaitTimeout (s : State) : Host.Outcome State Fault Refusal :=
  .next (s.migTimeout .migrationWaitTimeout s.arg.uid)
def execSavePoolRetry (s : State) : Host.Outcome State Fault Refusal := .next (s.migTimeout .savePoolRetry s.arg.uid)
def execStrandExit (s : State) : Host.Outcome State Fault Refusal := .next (s.exitStrand s.arg.uid)
def execThermalSensorUpdate (s : State) : Host.Outcome State Fault Refusal :=
  .next (s.sensor s.arg.core (s.arg.word.setWidth 8))
def execThermalSlotDisable (s : State) : Host.Outcome State Fault Refusal := .next (s.slotOff s.arg.core)
def execThermalSlotEnable (s : State) : Host.Outcome State Fault Refusal := .next (s.slotOn s.arg.core)
def execSelftestFailure (s : State) : Host.Outcome State Fault Refusal := .next (s.selftestFail s.arg.core)

/-- YLD_TIMEOUT: 16 cycles have passed. -/
def execYldTimeout (s : State) : Host.Outcome State Fault Refusal :=
  .next (s.updStrand s.arg.uid fun t => match t.status with | .yielding _ => t.setStatus .running | _ => t)

end Sys2Proof.Machine
end

