-- ==== Sys2Proof/Machine/CopyEngine.lean ====
section
/-! DEFINITION. The copy engine (R164 to R168): the descriptor and its checks, acceptance of a command, and its whole
effect at completion. -/

namespace Sys2Proof.Machine

/-! ### The copy descriptor (R165) -/

def cpCctl (d : Desc) : Nat := fld (dw d 3) 48 16
def cpEwb (d : Desc) : Nat := 2 ^ fld (cpCctl d) 0 2
def cpDir (d : Desc) : Nat := fld (cpCctl d) 2 2
def cpSpace (d : Desc) : Nat := fld (cpCctl d) 4 2
def cpBfmt (d : Desc) : Nat := fld (cpCctl d) 6 4
def cpTag (d : Desc) : Nat := fld (dw d 2) 48 16
def cpMbase (d : Desc) : Int := signedOf 64 (dw d 0)
def cpLaddr (d : Desc) : Nat := dw d 1
def cpStride1 (d : Desc) : Int := signedOf 48 (dw d 2)
def cpStride2 (d : Desc) : Int := signedOf 48 (dw d 3)
def cpBound (d : Desc) (i : Nat) : Nat :=
  match i with
  | 0 => fld (dw d 4) 0 32
  | 1 => fld (dw d 4) 32 32
  | _ => fld (dw d 5) 0 32
def cpOrigin (d : Desc) (i : Nat) : Int :=
  match i with
  | 0 => signedOf 32 (fld (dw d 5) 32 32)
  | 1 => signedOf 32 (fld (dw d 6) 0 32)
  | _ => signedOf 32 (fld (dw d 6) 32 32)
/-- Box extents. -/
def cpBox (d : Desc) (i : Nat) : Nat := fld (dw d 7) (16 * i) 16 + 1

/-- Elements of the box. -/
def cpCount (d : Desc) : Nat := cpBox d 0 * cpBox d 1 * cpBox d 2

/-! ### Elements -/

/-- Tensor coordinates of box element k. -/
def cpCoord (d : Desc) (k : Nat) : Int × Int × Int :=
  (cpOrigin d 0 + (k % cpBox d 0 : Nat), cpOrigin d 1 + (k / cpBox d 0 % cpBox d 1 : Nat),
    cpOrigin d 2 + (k / cpBox d 0 / cpBox d 1 : Nat))

def inBound (c : Int) (bound : Nat) : Bool := decide (0 ≤ c) && decide (c < bound)

def cpIn (d : Desc) (c : Int × Int × Int) : Bool :=
  inBound c.1 (cpBound d 0) && inBound c.2.1 (cpBound d 1) && inBound c.2.2 (cpBound d 2)

def cpAddr (d : Desc) (c : Int × Int × Int) : Int :=
  cpMbase d + c.1 * cpEwb d + c.2.1 * cpStride1 d + c.2.2 * cpStride2 d

/-- An element to be moved: whether it is in bounds, its tensor address, and the place of its packed side: an offset in
the local space, or a memory address. -/
structure CpElem where
  inb : Bool
  addr : Int
  loc : Nat
  deriving DecidableEq, Repr

/-- Elements of a box command. -/
def boxElems (d : Desc) (g : Nat) : List CpElem :=
  (List.range (cpCount d)).map fun k =>
    { inb := cpIn d (cpCoord d k), addr := cpAddr d (cpCoord d k)
      loc := localAt (cpSpace d) g (cpLaddr d) (cpEwb d) k }

/-- The place of element b of local row i (R166). -/
def rowLoc (d : Desc) (g i b : Nat) : Nat :=
  if cpSpace d = 0 then scratchAt (i % (8 * g)) (cpLaddr d + i / (8 * g) * cpBox d 0 * cpEwb d + b * cpEwb d)
  else cpLaddr d + i * cpBox d 0 * cpEwb d + b * cpEwb d

/-- Elements of `cpgr` and `cpsc`: rows in ascending order, each of BOX0 elements. -/
def rowElems (d : Desc) (g : Nat) (rows : List Int) : List CpElem :=
  rows.zipIdx.flatMap fun r => (List.range (cpBox d 0)).map fun b =>
    let c0 := cpOrigin d 0 + (b : Nat)
    { inb := inBound c0 (cpBound d 0) && inBound r.1 (cpBound d 1)
      addr := cpMbase d + c0 * cpEwb d + r.1 * cpStride1 d
      loc := rowLoc d g r.2 b }

def isRowKind (k : CopyKind) : Bool := k == .cpgr || k == .cpsc

/-- Packed memory elements lie at LADDR + k × EWB. -/
def packElems (d : Desc) (es : List CpElem) : List CpElem :=
  es.zipIdx.map fun e => { e.1 with loc := cpLaddr d + e.2 * cpEwb d }

def CopyCmd.elems (c : CopyCmd) : List CpElem :=
  if isRowKind c.op.kind then rowElems c.desc c.g c.op.rows
  else if cpDir c.desc ≥ 2 then packElems c.desc (boxElems c.desc c.g)
  else boxElems c.desc c.g

/-! ### The checks at acceptance (R165, R166) -/

/-- Rows and element bytes that `cpw` wants for a format: (K, BOX0, EWB); none for a reserved BFMT. -/
def cpwShape (bfmt : Nat) : Option (Nat × Nat × Nat) :=
  if bfmt = 0 ∨ bfmt = 1 ∨ bfmt = 4 then some (96, 128, 1)
  else if bfmt = 2 ∨ bfmt = 3 then some (48, 128, 2)
  else if bfmt = 5 then some (192, 64, 1)
  else if 10 ≤ bfmt then some (12, 128, 8)
  else none

/-- The local side: its space is present, the command may write it, and the range lies in the strand's region. -/
def Strand.cpLocalOk (t : Strand) (d : Desc) (rows : Option Nat) : Bool :=
  let sp := cpSpace d
  let per := match rows with | some _ => cpBox d 0 * cpEwb d | none => cpEwb d
  let n := match rows with | some n => n | none => cpCount d
  let bytes := if sp = 0 then (n + 8 * t.g - 1) / (8 * t.g) * per else n * per
  (if t.cls = .vector then sp == 0 else sp == 1 || sp == 2) && !(cpDir d == 0 && sp == 2)
    && (bytes == 0 || cpLaddr d + bytes ≤ t.regionBytes sp)

/-- A descriptor that a command allows. -/
def Strand.cpOk (t : Strand) (op : CopyOp) (d : Desc) : Bool :=
  fld (cpCctl d) 10 6 == 0 && fld (dw d 7) 48 16 == 0 && cpCount d ≤ 2 ^ 24 && (op.kind == .cpw || cpBfmt d == 0)
    && match op.kind with
       | .cpt => if cpDir d ≥ 2 then cpSpace d == 0 else t.cpLocalOk d none
       | .cpgr | .cpsc =>
         cpDir d == (if op.kind = .cpgr then 0 else 1) && dw d 6 == 0 && fld (dw d 7) 16 32 == 0
           && fld (dw d 5) 0 32 == 0 && fld (dw d 3) 0 48 == 0 && t.cpLocalOk d (some op.rows.length)
       | .cpw =>
         cpDir d == 0 && cpSpace d == 0 && cpLaddr d == 0 && fld (dw d 7) 32 16 == 0 && fld (dw d 6) 32 32 == 0
           && cpwShape (cpBfmt d) == some (cpBox d 1, cpBox d 0, cpEwb d)
       | .cpf => cpDir d == 1 && cpSpace d == 0

/-- The command names lane-local scratch while the strand has no lanes: illegal (R165). -/
def Strand.cpNoLanes (t : Strand) (op : CopyOp) (d : Desc) : Bool :=
  t.g == 0 && t.cls == .vector && cpSpace d == 0
    && (match op.kind with | .cpt => cpDir d < 2 | .cpgr | .cpsc => true | _ => false)

/-! ### Acceptance (R164) -/

/-- The descriptor of a command, read by the engine in the context of its strand (R164): its accesses fault as the
engine's do. -/
def State.engDesc (s : State) (ctx : Nat) (op : CopyOp) : Except EngineEnd (Desc × State) :=
  let as := (List.range 8).map fun i => op.addr.toInt + ((8 * i : Nat) : Int)
  match s.engCheck ctx 8 (as.map fun a => (a, .load)) with
  | .error e => .error e
  | .ok s' => .ok (as.map fun a => s'.engRead ctx a 8, s')

/-- A command enters the queue of the current strand's core, its descriptor read; the strand goes on. A fault of the
descriptor read pauses the engine (R168): the command waits at its instruction, as it does for a write of its strand that is
held back (R189). -/
def State.acceptCopy (s : State) (op : CopyOp) : Res State := do
  let s ← (s.releaseCur true true).mapError fun e => (.wait (.copy op), e.2)
  let (d, s) ← match s.engDesc s.cur.ctx op with
    | .ok r => .ok r
    | .error _ => .error (.wait (.copy op), s)
  require (!(s.cur.cpNoLanes op d)) .illegal s
  require (s.cur.cpOk op d) (.launch 0x0A 0 0 none) s
  let t := s.cur
  let c : CopyCmd := { uid := t.uid, lid := t.lid, ctx := t.ctx, op := op, desc := d, g := t.g, vl := t.vl }
  let s := s.updCore t.core fun k => { k with engine := k.engine ++ [c] }
  return (s.onCur fun t =>
    { t with
      kdPend := match op.kd with | some k => k :: t.kdPend | none => t.kdPend
      popped := false
      vstart := if isRowKind op.kind then 0 else t.vstart
      tiles := if op.kind = .cpw then t.tiles.modify op.slot.val fun w => { w with loading := true } else t.tiles }).scalarDone 8

/-- A copy command: its class, its tile slot, before every wait (R227), its masks and its own checks, then the queue of the
core's engine, or a stall while that is full. -/
def State.copyOp (s : State) (cs : List Cls) (kind : CopyKind) (a : FCopy) (vs2 : Option Reg) (slot : QReg) :
    Res State := do
  let s ← s.scalarGate cs
  require (kind != .cpw || slot.val < s.cur.tiles.length) (.launch 0x09 0 0 none) s
  let s ← s.replyGate cs (match a.kd with | some k => [k] | none => [])
  require ((s.cur.getX a.base).toNat % 64 == 0) .illegal s
  let srcs := match vs2 with | some r => [r] | none => []
  require (srcs == [] || (!s.cur.vill && s.cur.ew == 32 && s.cur.vstart == 0 && s.cur.groupsOk srcs)) .illegal s
  let popped := s.cur.popped || s.cur.inputs srcs != []
  let s ← if s.cur.popped then .ok s else s.streamIn srcs []
  let rows := match vs2 with
    | some r => (List.range s.cur.vl).map fun i => signedOf 32 (s.cur.elem r 32 i)
    | none => []
  let op : CopyOp := { kind := kind, ch := a.ch, kd := a.kd, addr := s.cur.getX a.base, rows := rows, slot := slot }
  let s := s.onCur fun t => { t with popped := popped }
  require ((s.core s.cur.core).engine.length < 2) (.wait (.copy op)) s
  s.acceptCopy op

def execCpt (a : FCopy) (s : State) : Host.Outcome State Fault Refusal := finish (s.copyOp clsVA .cpt a none 0)
def execCpf (a : FCopy) (s : State) : Host.Outcome State Fault Refusal := finish (s.copyOp clsVA .cpf a none 0)
def execCpw (a : FCopy) (slot : QReg) (s : State) : Host.Outcome State Fault Refusal :=
  finish (s.copyOp clsA .cpw a none slot)
def execCpgr (a : FCopyV) (s : State) : Host.Outcome State Fault Refusal :=
  finish (s.copyOp clsVA .cpgr { ch := a.ch, base := a.base, kd := a.kd } (some a.vs2) 0)
def execCpsc (a : FCopyV) (s : State) : Host.Outcome State Fault Refusal :=
  finish (s.copyOp clsVA .cpsc { ch := a.ch, base := a.base, kd := a.kd } (some a.vs2) 0)

/-! ### The effect of a command -/

/-- Memory accesses of a command, by element; an element read from memory and written to memory is read first. -/
def CopyCmd.accesses (c : CopyCmd) : List (Int × Acc) :=
  c.elems.flatMap fun e =>
    let tensor (a : Acc) : List (Int × Acc) := if e.inb then [(e.addr, a)] else []
    let packed : Int := signedOf 64 e.loc
    match c.op.kind with
    | .cpt =>
      match cpDir c.desc with
      | 0 => tensor .load
      | 1 => tensor .store
      | 2 => tensor .load ++ [(packed, .store)]
      | _ => if e.inb then [(packed, .load), (e.addr, .store)] else []
    | .cpgr | .cpw => tensor .load
    | .cpsc | .cpf => tensor .store

/-- One element moved. -/
def State.cpMove (c : CopyCmd) (s : State) (e : CpElem) : State :=
  let d := c.desc
  let n := cpEwb d
  let localGet (s : State) : Nat := match s.strand c.uid with | some t => (t.loc (cpSpace d)).readNat e.loc n | none => 0
  let localPut (v : Nat) : State :=
    s.updStrand c.uid fun t => t.putLoc (cpSpace d) ((t.loc (cpSpace d)).writeNat e.loc n v)
  match c.op.kind with
  | .cpf => if e.inb then s.engWrite c.ctx e.addr n (cpLaddr d % 2 ^ (8 * n)) else s
  | .cpgr => localPut (if e.inb then s.engRead c.ctx e.addr n else 0)
  | .cpsc => if e.inb then s.engWrite c.ctx e.addr n (localGet s) else s
  | .cpw => s
  | .cpt =>
    match cpDir d with
    | 0 => localPut (if e.inb then s.engRead c.ctx e.addr n else 0)
    | 1 => if e.inb then s.engWrite c.ctx e.addr n (localGet s) else s
    | 2 => s.engWrite c.ctx (signedOf 64 e.loc) n (if e.inb then s.engRead c.ctx e.addr n else 0)
    | _ => if e.inb then s.engWrite c.ctx e.addr n (s.engRead c.ctx (signedOf 64 e.loc) n) else s

/-- Another `cpw` of the strand to the slot is not complete: behind the head of a core's engine, or on another core's engine,
where the strand was before a move (R43, R166). -/
def State.loadsAgain (s : State) (core : Nat) (c : CopyCmd) : Bool :=
  s.cores.any fun k => (if k.id = core then k.engine.drop 1 else k.engine).any fun d =>
    d.uid == c.uid && d.op.kind == .cpw && d.op.slot == c.op.slot

/-- The tile that `cpw` loads: bytes of INT4 hold two elements each (R83). -/
def State.cpwTile (s : State) (c : CopyCmd) : Tile :=
  let es := c.elems.map fun e => if e.inb then s.engRead c.ctx e.addr (cpEwb c.desc) else 0
  let bf := cpBfmt c.desc
  { loading := false, valid := true, bfmt := bf, krows := cpBox c.desc 1
    elems := if bf = 5 then es.flatMap fun b => [b % 16, b / 16 % 16] else es }

/-- The bounds mask (R167). -/
def CopyCmd.mask (c : CopyCmd) : KReg :=
  let bits := if isRowKind c.op.kind then c.op.rows.map fun r => inBound r (cpBound c.desc 1)
    else (boxElems c.desc c.g).map (·.inb)
  setBits 0 (((bits.take 4096).zipIdx).map fun b => (b.2, b.1))

/-- RVL (R167). -/
def cpRvl (d : Desc) : Nat :=
  (min (cpBox d 0 : Int) (cpBound d 0 - cpOrigin d 0) - max 0 (-(cpOrigin d 0))).toNat

/-- The payload of the completion message (R167). -/
def CopyCmd.payload (c : CopyCmd) : Word :=
  BitVec.ofNat 64 (cpTag c.desc * 2 ^ 32 + (if c.elems.all (·.inb) then 0 else 1) * 2 ^ 24 + cpRvl c.desc)

/-- A command carried out: every access is judged, then its elements are moved in order; its mask is written, its slot
loaded, its queue entry freed and its message posted (R166 to R168). -/
def State.runCopy (s : State) (core : Nat) (c : CopyCmd) : EngineEnd :=
  let n := cpEwb c.desc
  match s.engCheck c.ctx n c.accesses with
  | .error e => e
  | .ok s =>
    let s := if c.op.kind = .cpw then
        let w := { s.cpwTile c with loading := s.loadsAgain core c }
        s.updStrand c.uid fun t => { t with tiles := t.tiles.set c.op.slot.val w }
      else c.elems.foldl (State.cpMove c) s
    let s := s.updStrand c.uid fun t =>
      match c.op.kd with
      | some k => { t.putK k c.mask with kdPend := t.kdPend.erase k }
      | none => t
    let s := s.updCore core fun k => { k with engine := k.engine.drop 1 }
    .done (match s.strand c.uid with
      | some t => s.post t.lid t.glin t.stage t.six
          { ch := c.op.ch, hdr := msgHdr 2 c.op.ch.val (t.sid % 2 ^ 32), payload := c.payload }
      | none => s)

end Sys2Proof.Machine
end

