-- ==== Sys2Proof/Machine/Csr.lean ====
section
/-! DEFINITION. Control and status registers: the standard user CSRs (R59), the Quelan CSRs (R60 to R65), and those of
S-mode and M-mode on control cores (R55, R56; log 6). -/

namespace Sys2Proof.Machine

/-! ### Quelan CSRs (R60, R64) -/

/-- CESTAT: INFL and QFREE. -/
def State.cestat (s : State) : Nat :=
  let infl := (s.cores.map fun c => (c.engine.filter fun k => k.uid == s.cur.uid).length).sum
  let free := if s.cur.cls = .control then 0 else 2 - (s.core s.cur.core).engine.length
  min infl 255 * 2 ^ 8 + free

/-- INBST: USED and NE. -/
def Strand.inbst (t : Strand) : Nat :=
  t.inbox.length * 2 ^ 16 + ((List.finRange 16).map fun c => boolBit (t.channel c != []) c.val).sum

/-- LGRANT (R36). -/
def Strand.lgrant (t : Strand) : Nat := boolBit t.short 4 + boolBit t.nr 3 + t.g

/-- The value of a Quelan CSR. -/
def State.quelanRead (s : State) (n : Nat) : Word :=
  let t := s.cur
  let vec := t.cls == .vector
  match n with
  | 0x800 => BitVec.ofNat 64 t.vstart
  | 0x801 => BitVec.ofNat 64 t.vrnd.toNat
  | 0x802 => BitVec.ofNat 64 t.vflags.toNat
  | 0x803 => BitVec.ofNat 64 t.vdirty.toNat
  | 0x804 => BitVec.ofNat 64 t.kthr.toNat
  | 0xCC0 => BitVec.ofNat 64 t.vl
  | 0xCC1 => t.vtype
  | 0xCC2 => BitVec.ofNat 64 (1024 * t.g)
  | 0xCC3 => BitVec.ofNat 64 t.lgrant
  | 0xCC4 => BitVec.ofNat 64 t.sid
  | 0xCC5 => BitVec.ofNat 64 t.gx
  | 0xCC6 => BitVec.ofNat 64 t.gy
  | 0xCC7 => BitVec.ofNat 64 t.gz
  | 0xCC8 => BitVec.ofNat 64 t.stage
  | 0xCC9 => BitVec.ofNat 64 t.six
  | 0xCCA => BitVec.ofNat 64 (clsCode t.cls)
  | 0xCCB => BitVec.ofNat 64 t.core
  | 0xCCC => 0x02000200
  | 0xCCD => BitVec.ofNat 64 s.cestat
  | 0xCCE => BitVec.ofNat 64 t.inbst
  | 0xCCF => BitVec.ofNat 64 (if vec then (s.core t.core).socc t.slot else 0)
  | 0xCD0 => t.migcnt
  | 0xCD1 => BitVec.ofNat 64 t.lid
  | _ => BitVec.ofNat 64 (if vec then ((s.core t.core).wmask.getD t.slot 0).toNat else 0xFFFF)

/-- A write of VDIRTY: registers whose bit becomes 0 are zero (R65). -/
def Strand.writeVdirty (t : Strand) (w : Word) : Strand :=
  { t with
    vdirty := w.setWidth 32
    v := Vector.ofFn fun n : Fin 32 => if w.getLsbD n.val then t.v[n] else 0 }

/-- A write of a writable Quelan CSR: its defined bits. -/
def Strand.quelanWrite (t : Strand) (n : Nat) (w : Word) : Strand :=
  match n with
  | 0x800 => { t with vstart := bf w 0 12 }
  | 0x801 => { t with vrnd := w.setWidth 4 }
  | 0x802 => { t with vflags := w.setWidth 6 }
  | 0x803 => t.writeVdirty w
  | 0x804 => { t with kthr := w.setWidth 13 }
  | _ => t

/-! ### S-mode and M-mode CSRs of a hart (log 6) -/

/-- Writable bits of `mstatus`: SIE, MIE, SPIE, MPIE, SPP, MPP, MPRV, TVM, TW, TSR. -/
def mstatusMask : Word := 0x7219AA
/-- Fields of `mstatus` that are fixed: FS dirty with SD, SXL and UXL 64 bits. -/
def mstatusFixed : Word := 0x8000000A00006000
/-- The bits `sstatus` shows of them. -/
def sstatusMask : Word := 0x122
def sstatusFixed : Word := 0x8000000200006000
/-- Bits of `mie`; those of them that S-mode may be given; causes that may be delegated. -/
def mieMask : Word := 0xAAA
def sieMask : Word := 0x222
def medelegMask : Word := 0xB3FF

/-- A word with some bits replaced. -/
def masked (old new mask : Word) : Word := (old &&& ~~~mask) ||| (new &&& mask)

/-- `mstatus` after a write; an undefined MPP keeps the old one. -/
def writeMstatus (old new : Word) : Word :=
  if bf new 11 2 = 2 then masked old new (mstatusMask &&& ~~~(0x1800 : Word)) else masked old new mstatusMask

/-- External interrupts pending on the current strand's core (R312): SEIP where INTRT names the core for a die whose fault
queue is not empty, MEIP where INTRT names it for either die and MERR is not 0. -/
def State.extPending (s : State) : Word :=
  let named (lo : Nat) : Bool := bf s.plat.intrt lo 16 == s.cur.core
  (if (named 0 && s.die0.frq != []) || (named 16 && s.die1.frq != []) then 0x200 else 0)
    ||| (if (named 0 || named 16) && s.plat.merr != 0 then 0x800 else 0)

/-- `mip` as read. -/
def State.mip (s : State) : Word := s.csrs.mip ||| s.extPending

/-- The value of an S-mode or M-mode CSR; none for a number that has none, which is an illegal instruction. R55 and R56
list no CSR: those that the ratified privileged architecture has and that are not here are absent: mcycle, minstret, the
mhpm counters and events, mcountinhibit, menvcfg, senvcfg, pmpcfg and pmpaddr (PRESUMED, log 6). -/
def State.privRead (s : State) (n : Nat) : Option Word :=
  let c := s.csrs
  match n with
  | 0x100 => some ((c.mstatus &&& sstatusMask) ||| sstatusFixed)
  | 0x104 => some (c.mie &&& c.mideleg)
  | 0x105 => some c.stvec
  | 0x106 => some 0
  | 0x140 => some c.sscratch
  | 0x141 => some c.sepc
  | 0x142 => some c.scause
  | 0x143 => some c.stval
  | 0x144 => some (s.mip &&& c.mideleg)
  | 0x180 => some 0
  | 0x300 => some (c.mstatus ||| mstatusFixed)
  | 0x301 => some 0x800000000014112D
  | 0x302 => some c.medeleg
  | 0x303 => some c.mideleg
  | 0x304 => some c.mie
  | 0x305 => some c.mtvec
  | 0x306 => some 0
  | 0x340 => some c.mscratch
  | 0x341 => some c.mepc
  | 0x342 => some c.mcause
  | 0x343 => some c.mtval
  | 0x344 => some s.mip
  | 0xF11 => some 0
  | 0xF12 => some 0
  | 0xF13 => some 0
  | 0xF14 => some (BitVec.ofNat 64 (4 * s.cur.core + s.cur.slot))
  | 0xF15 => some 0
  | _ => none

/-- A hart's CSRs after a write. -/
def Csrs.write (c : Csrs) (n : Nat) (w : Word) : Csrs :=
  match n with
  | 0x100 => { c with mstatus := masked c.mstatus w sstatusMask }
  | 0x104 => { c with mie := masked c.mie w c.mideleg }
  | 0x105 => { c with stvec := w &&& ~~~(2 : Word) }
  | 0x140 => { c with sscratch := w }
  | 0x141 => { c with sepc := w &&& ~~~(1 : Word) }
  | 0x142 => { c with scause := w }
  | 0x143 => { c with stval := w }
  | 0x144 => { c with mip := masked c.mip w (c.mideleg &&& 2) }
  | 0x300 => { c with mstatus := writeMstatus c.mstatus w }
  | 0x302 => { c with medeleg := w &&& medelegMask }
  | 0x303 => { c with mideleg := w &&& sieMask }
  | 0x304 => { c with mie := w &&& mieMask }
  | 0x305 => { c with mtvec := w &&& ~~~(2 : Word) }
  | 0x340 => { c with mscratch := w }
  | 0x341 => { c with mepc := w &&& ~~~(1 : Word) }
  | 0x342 => { c with mcause := w }
  | 0x343 => { c with mtval := w }
  | 0x344 => { c with mip := w &&& sieMask }
  | _ => c

/-! ### CSR instructions -/

/-- The source operand of a CSR instruction. -/
def Strand.csrSrc (t : Strand) (a : FCsr) : Word := if a.imm then BitVec.ofNat 64 a.src.val else t.getX a.src

/-- The value a CSR instruction writes. -/
def csrNew (op : CsrOp) (old src : Word) : Word :=
  match op with
  | .rw => src
  | .rs => old ||| src
  | .rc => old &&& ~~~src

/-- A Quelan CSR access: earlier vector instructions have completed and their replies are delivered; the read-only numbers
(R65). In a lane thread, class 0x04 (R133). -/
def State.quelanCsrOp (s : State) (a : FCsr) : Res State := do
  let s ← s.classGate anyCls
  let s := s.onCur Strand.drained
  require (!(a.writes && a.csr.toNat ≥ 0xCC0)) .illegal s
  let old := s.quelanRead a.csr.toNat
  let new := csrNew a.op old (s.cur.csrSrc a)
  let s := if a.writes then s.onCur (·.quelanWrite a.csr.toNat new) else s
  return (s.onCur fun t => t.putX a.rd old).scalarDone

/-- A standard user CSR (R59). -/
def isFpCsr (n : Nat) : Bool := n == 1 || n == 2 || n == 3

def Strand.fcsrRead (t : Strand) (n : Nat) : Word :=
  match n with
  | 1 => t.fflags.setWidth 64
  | 2 => t.frm.setWidth 64
  | _ => BitVec.ofNat 64 (t.frm.toNat * 2 ^ 5 + t.fflags.toNat)

def Strand.fcsrWrite (t : Strand) (n : Nat) (w : Word) : Strand :=
  match n with
  | 1 => { t with fflags := w.setWidth 5 }
  | 2 => { t with frm := w.setWidth 3 }
  | _ => { t with fflags := w.setWidth 5, frm := (w >>> 5).setWidth 3 }

/-- A CSR number that the current mode may access and that exists; else the access is illegal, on every class (R56,
R59). `satp` is illegal in S-mode under TVM. -/
def State.csrAllowed (s : State) (a : FCsr) : Bool :=
  let n := a.csr.toNat
  isFpCsr n || ((s.privRead n).isSome && fld n 8 2 ≤ modeCode s.cur.mode && !(a.writes && fld n 10 2 == 3)
    && !(n == 0x180 && s.cur.mode == .s && s.csrs.mstatus.getLsbD 20))

/-- A CSR instruction on a number outside the Quelan set, its access checked already. -/
def State.stdCsrOp (s : State) (a : FCsr) : State :=
  let n := a.csr.toNat
  let src := s.cur.csrSrc a
  if isFpCsr n then
    let old := s.cur.fcsrRead n
    s.onCur fun t => (if a.writes then t.fcsrWrite n (csrNew a.op old src) else t).putX a.rd old
  else
    let old := (s.privRead n).getD 0
    let s := if a.writes then s.putCsrs (s.csrs.write n (csrNew a.op old src)) else s
    s.onCur fun t => t.putX a.rd old

def execQuelanCsrAccess (a : FCsr) (s : State) : Host.Outcome State Fault Refusal := finish (s.quelanCsrOp a)

def execVdirtyWrite (a : FCsr) (s : State) : Host.Outcome State Fault Refusal := finish (s.quelanCsrOp a)

end Sys2Proof.Machine
end

