-- ==== Sys2Proof/Machine/ScalarFp.lean ====
section
/-! DEFINITION. The scalar F and D extensions (R55; the ratified unprivileged specification, IEEE 754): `frm` and `fflags`
only, 32-bit values NaN-boxed (R57). -/

namespace Sys2Proof.Machine

/-- The format of a scalar FP instruction. -/
def sfmt (dbl : Bool) : Fmt := if dbl then fp64 else fp32

/-- An f register as an operand: a 32-bit value whose box is wrong is the canonical NaN. -/
def Strand.getF (t : Strand) (dbl : Bool) (r : Reg) : Nat := fOperand t.f[r] (sfmt dbl)

/-- A result in an f register, NaN-boxed when narrow. -/
def Strand.putFp (t : Strand) (dbl : Bool) (r : Reg) (v : Nat) : Strand :=
  t.putF r (if dbl then BitVec.ofNat 64 v else nanBox 32 v)

/-- A result and its flags. -/
def Strand.fpResult (t : Strand) (dbl : Bool) (rd : Reg) (v : Nat × Nat) : Strand := (t.putFp dbl rd v.1).accrueF v.2

/-- The rounding of an instruction: its rm field, or `frm` for the dynamic mode; none where `frm` holds no mode. -/
def Strand.fround (t : Strand) (rm : Fin 8) : Option Round :=
  (rmOf (if rm = 7 then t.frm.toNat else rm.val)).map fun m => { rm := m, sat := false, ftz := false }

def fbin (op : FBinOp) (f : Fmt) (r : Round) (a b : Nat) : Nat × Nat :=
  match op with
  | .fadd => f.add r a b
  | .fsub => f.sub r a b
  | .fmul => f.mul r a b
  | .fdiv => f.div r a b

/-- Signs of product and addend of the fused forms. -/
def fmaSigns : FmaOp → Bool × Bool
  | .fmadd => (false, false)
  | .fmsub => (false, true)
  | .fnmsub => (true, false)
  | .fnmadd => (true, true)

def fsgn (op : SgnOp) (f : Fmt) (a b : Nat) : Nat :=
  let s := b / f.signBit % 2
  let n :=
    match op with
    | .sgnj => s
    | .sgnjn => 1 - s
    | .sgnjx => (a / f.signBit + s) % 2
  a % f.signBit + n * f.signBit

def fcmp (op : FCmpOp) (a b : FVal) : Bool × Nat :=
  match op with
  | .feq => (a.eq b, nvIf [a, b])
  | .flt => (a.lt b, flagIf (a.isNan || b.isNan) flNV)
  | .fle => (a.le b, flagIf (a.isNan || b.isNan) flNV)

/-- Bounds of an integer format. -/
def ifmtLo : IFmt → Int
  | .w => -(2 ^ 31 : Nat)
  | .l => -(2 ^ 63 : Nat)
  | _ => 0

def ifmtHi : IFmt → Int
  | .w => (2 ^ 31 : Nat) - 1
  | .wu => (2 ^ 32 : Nat) - 1
  | .l => (2 ^ 63 : Nat) - 1
  | .lu => (2 ^ 64 : Nat) - 1

/-- FCVT to an integer: out of range gives the nearest bound and NV; 32-bit results are sign-extended. -/
def fToInt (fmt : IFmt) (rm : Rm) (v : FVal) : Word × Nat :=
  let r := v.toInt rm (ifmtLo fmt) (ifmtHi fmt)
  let w := BitVec.ofInt 64 r.1
  let w := match fmt with | .w => signExt 32 w | .wu => signExt 32 w | _ => w
  (w, if r.2.2 then flNV else flagIf r.2.1 flNX)

/-- The integer an x register holds in a format. -/
def xInt (fmt : IFmt) (w : Word) : Int :=
  match fmt with
  | .w => signedOf 32 w.toNat
  | .wu => (w.toNat % 2 ^ 32 : Nat)
  | .l => w.toInt
  | .lu => w.toNat

/-- A rounded instruction's effect on the strand, illegal where `frm` holds no mode. -/
def State.fpRounded (s : State) (rm : Fin 8) (f : Strand → Round → Strand) : Res State :=
  match s.cur.fround rm with
  | none => .error (.illegal, s)
  | some r => .ok (s.onCur fun t => f t r)

/-- FLW, FLD. -/
def State.floadOp (s : State) (dbl : Bool) (rd rs1 : Reg) (imm : BitVec 12) : Res State := do
  let (v, s) ← lift s (s.load (s.ea rs1 imm) (sizeOf dbl))
  return s.onCur fun t => t.putFp dbl rd v

/-- FSW, FSD: the low bits of the register as they stand. -/
def State.fstoreOp (s : State) (dbl : Bool) (rs1 rs2 : Reg) (imm : BitVec 12) : Res State :=
  lift s (s.store (s.ea rs1 imm) (sizeOf dbl) (s.cur.f[rs2].toNat % 2 ^ (8 * sizeOf dbl)))

/-- Scalar FP instructions that touch registers only. -/
def State.fpOp (s : State) (op : Scalar) : Res State :=
  match op with
  | .fbin op dbl rm rd rs1 rs2 => s.fpRounded rm fun t r =>
      t.fpResult dbl rd (fbin op (sfmt dbl) r (t.getF dbl rs1) (t.getF dbl rs2))
  | .fsqrt dbl rm rd rs1 => s.fpRounded rm fun t r => t.fpResult dbl rd ((sfmt dbl).sqrt r (t.getF dbl rs1))
  | .fma op dbl rm rd rs1 rs2 rs3 => s.fpRounded rm fun t r =>
      t.fpResult dbl rd ((sfmt dbl).fma r (fmaSigns op).1 (fmaSigns op).2 (t.getF dbl rs1) (t.getF dbl rs2)
        (t.getF dbl rs3))
  | .fsgn op dbl rd rs1 rs2 => .ok (s.onCur fun t =>
      t.putFp dbl rd (fsgn op (sfmt dbl) (t.getF dbl rs1) (t.getF dbl rs2)))
  | .fminmax isMax dbl rd rs1 rs2 => .ok (s.onCur fun t =>
      t.fpResult dbl rd ((sfmt dbl).minmax isMax (t.getF dbl rs1) (t.getF dbl rs2)))
  | .fcmp op dbl rd rs1 rs2 => .ok (s.onCur fun t =>
      let r := fcmp op ((sfmt dbl).val (t.getF dbl rs1)) ((sfmt dbl).val (t.getF dbl rs2))
      (t.putX rd (bitOf r.1)).accrueF r.2)
  | .fclass dbl rd rs1 => .ok (s.onCur fun t => t.putX rd (BitVec.ofNat 64 ((sfmt dbl).classify (t.getF dbl rs1))))
  | .fcvtToInt fmt dbl rm rd rs1 => s.fpRounded rm fun t r =>
      let v := fToInt fmt r.rm ((sfmt dbl).val (t.getF dbl rs1))
      (t.putX rd v.1).accrueF v.2
  | .fcvtFromInt fmt dbl rm rd rs1 => s.fpRounded rm fun t r =>
      t.fpResult dbl rd ((sfmt dbl).roundVal r (FVal.ofInt (xInt fmt (t.getX rs1))))
  | .fcvtSD rm rd rs1 => s.fpRounded rm fun t r =>
      let v := fp64.val (t.getF true rs1)
      t.fpResult false rd (fp32.out r (v, nvIf [v]))
  | .fcvtDS rm rd rs1 => s.fpRounded rm fun t r =>
      let v := fp32.val (t.getF false rs1)
      t.fpResult true rd (fp64.out r (v, nvIf [v]))
  | .fmvXF dbl rd rs1 => .ok (s.onCur fun t => t.putX rd (if dbl then t.f[rs1] else signExt 32 t.f[rs1]))
  | .fmvFX dbl rd rs1 => .ok (s.onCur fun t => t.putFp dbl rd ((t.getX rs1).toNat % 2 ^ (8 * sizeOf dbl)))
  | _ => .ok s

end Sys2Proof.Machine
end

