-- ==== Sys2Proof/Machine/RvScalar.lean ====
section
/-! DEFINITION. The scalar base as a whole (R55, R56): `RV64_SCALAR_INSTRUCTION` with its checks in the order of R53,
fences, `ecall`, `ebreak`. -/

namespace Sys2Proof.Machine

/-- Bytes of an instruction's form (R52). -/
def formBytes : Form → Nat
  | .full => 4
  | .compressed _ => 2

/-- Classes that implement a scalar instruction (R55, R59). -/
def scalarClasses (op : Scalar) : List Cls :=
  match op with
  | .alu o _ _ _ =>
    match o with
    | .czeroEqz | .czeroNez => clsC
    | .bclr | .bext | .binv | .bset => [.control, .vector]
    | _ => anyCls
  | .shI o _ _ _ =>
    match o with
    | .bclri | .bexti | .binvi | .bseti => [.control, .vector]
    | _ => anyCls
  | .lr .. | .sc .. | .amo .. | .fload .. | .fstore .. | .fbin .. | .fsqrt .. | .fma .. | .fsgn .. | .fminmax ..
  | .fcmp .. | .fclass .. | .fcvtToInt .. | .fcvtFromInt .. | .fcvtSD .. | .fcvtDS .. | .fmvXF .. | .fmvFX .. =>
    [.control, .vector]
  | .csr a => if isFpCsr a.csr.toNat then [.control, .vector] else anyCls
  | _ => anyCls

/-- Scalar instructions that a lane thread executes (R133): RV64I computation, branches, jumps, loads and stores, M, Zba,
Zbb, Zbs. -/
def scalarInLane (op : Scalar) : Bool :=
  match op with
  | .lui .. | .auipc .. | .jal .. | .jalr .. | .branch .. | .load .. | .store .. | .aluI .. | .shI .. | .shIW ..
  | .aluW .. | .un .. => true
  | .alu o _ _ _ => o != .czeroEqz && o != .czeroNez
  | _ => false

/-- Step 2 of R53: privileged instructions and CSR numbers that the mode may not use (R56, R59). -/
def State.privOk (s : State) (op : Scalar) : Bool :=
  let md := s.cur.mode
  let st := s.csrs.mstatus
  match op with
  | .sret => md != .u && !(md == .s && st.getLsbD 22)
  | .mret => md == .m
  | .wfi => md != .u && !(md == .s && st.getLsbD 21)
  | .sfenceVma .. => md != .u && !(md == .s && st.getLsbD 20)
  | .csr a => s.csrAllowed a
  | _ => true

/-- The effect of a scalar instruction of n bytes, its pc included. -/
def State.rvEffect (s : State) (n : Nat) (op : Scalar) : Res State :=
  match op with
  | .lui rd imm => .ok ((s.onCur fun t => t.putX rd ((imm ++ (0 : BitVec 12)).signExtend 64)).scalarDone n)
  | .auipc rd imm =>
    .ok ((s.onCur fun t => t.putX rd (t.getPc + (imm ++ (0 : BitVec 12)).signExtend 64)).scalarDone n)
  | .jal rd off => .ok (s.onCur fun t => (t.putX rd (t.getPc + BitVec.ofNat 64 n)).putPc (t.getPc + off.signExtend 64))
  | .jalr rd rs1 imm => .ok (s.onCur fun t =>
      (t.putX rd (t.getPc + BitVec.ofNat 64 n)).putPc ((t.getX rs1 + imm.signExtend 64) &&& ~~~(1 : Word)))
  | .branch o rs1 rs2 off => .ok (s.onCur fun t =>
      if branchTaken o (t.getX rs1) (t.getX rs2) then t.putPc (t.getPc + off.signExtend 64) else t.adv n)
  | .load o rd rs1 imm => do
    let (v, s1) ← lift s (s.load (s.ea rs1 imm) (ldBytes o))
    return (s1.onCur fun t => t.putX rd (ldValue o v)).scalarDone n
  | .store o rs1 rs2 imm => do
    let s1 ← lift s (s.store (s.ea rs1 imm) (stBytes o) ((s.cur.getX rs2).toNat % 2 ^ (8 * stBytes o)))
    return s1.scalarDone n
  | .aluI o rd rs1 imm => .ok ((s.onCur fun t => t.putX rd (aluI o (t.getX rs1) imm)).scalarDone n)
  | .shI o rd rs1 sh => .ok ((s.onCur fun t => t.putX rd (shiftI o (t.getX rs1) sh)).scalarDone n)
  | .shIW o rd rs1 sh => .ok ((s.onCur fun t => t.putX rd (shiftIW o (t.getX rs1) sh)).scalarDone n)
  | .alu o rd rs1 rs2 => .ok ((s.onCur fun t => t.putX rd (alu o (t.getX rs1) (t.getX rs2))).scalarDone n)
  | .aluW o rd rs1 rs2 => .ok ((s.onCur fun t => t.putX rd (aluW o (t.getX rs1) (t.getX rs2))).scalarDone n)
  | .un o rd rs1 => .ok ((s.onCur fun t => t.putX rd (unary o (t.getX rs1))).scalarDone n)
  | .lr dbl aq rl rd rs1 => (s.lrOp dbl aq rl rd rs1).map (·.scalarDone n)
  | .sc dbl aq rl rd rs1 rs2 => (s.scOp dbl aq rl rd rs1 rs2).map (·.scalarDone n)
  | .amo o dbl aq rl rd rs1 rs2 => (s.amoOp o dbl aq rl rd rs1 rs2).map (·.scalarDone n)
  | .fload dbl rd rs1 imm => (s.floadOp dbl rd rs1 imm).map (·.scalarDone n)
  | .fstore dbl rs1 rs2 imm => (s.fstoreOp dbl rs1 rs2 imm).map (·.scalarDone n)
  | .csr a => .ok ((s.stdCsrOp a).scalarDone n)
  | .sret => s.sret
  | .mret => s.mret
  | .wfi => if s.mip = 0 then .error (.wait .interrupt, s) else .ok (s.scalarDone n)
  | .sfenceVma .. => .ok (s.scalarDone n)
  | _ => (s.fpOp op).map (·.scalarDone n)

/-- A ratified scalar instruction: in a lane thread only those R133 names; privilege, class, effect. -/
def State.rvOp (s : State) (f : Form) (op : Scalar) : Res State := do
  require (s.cur.fork.isNone || scalarInLane op) (.launch 0x04 0 0 none) s
  require (s.privOk op) .illegal s
  require ((scalarClasses op).contains s.cur.cls) (.classMiss (scalarClasses op)) s
  (s.onCur Strand.replyAll).rvEffect (formBytes f) op

def execRv64ScalarInstruction (f : Form) (op : Scalar) (s : State) : Host.Outcome State Fault Refusal :=
  finish (s.rvOp f op)

/-! ### Fences, ECALL, EBREAK (R56) -/

/-- `fence`: every fence of the scalar agent flushes its buffers (R184) and completes when they are performed; its sets and
scope, which I or O widens, order what one order of accesses already does (log 3). -/
def State.fenceOp (s : State) : Res State := do
  let s ← s.scalarGate anyCls
  let s ← s.releaseCur true false
  return s.scalarDone

def execFence (_ _ _ : Fin 16) (_ _ : Reg) (s : State) : Host.Outcome State Fault Refusal := finish s.fenceOp

/-- `fence.tso` is `fence rw,rw`. -/
def execFenceTso (s : State) : Host.Outcome State Fault Refusal := finish s.fenceOp

/-- `fence.i`: earlier scalar stores are performed; no prefetched instruction is held (log 12). -/
def State.fenceIOp (s : State) : Res State := do
  let s ← s.scalarGate clsC
  let s ← s.releaseCur true false
  return s.scalarDone

def execFenceI (s : State) : Host.Outcome State Fault Refusal := finish s.fenceIOp

/-- `ecall` and `ebreak`: their exception, with replies delivered. -/
def State.callOp (s : State) (e : Exc) : Res State := do
  let s ← s.scalarGate anyCls
  .error (e, s)

def execEcall (s : State) : Host.Outcome State Fault Refusal := finish (s.callOp .ecall)
def execEbreak (s : State) : Host.Outcome State Fault Refusal := finish (s.callOp .ebreak)

end Sys2Proof.Machine
end

