-- ==== Sys2Proof/Machine/Sync.lean ====
section
/-! DEFINITION. Fences, barrier, phase end, events (R187, R200 to R203), messages (R204 to R207) and freezing (R208 to
R213). -/

namespace Sys2Proof.Machine

/-! ### Fences (R200) -/

/-- No element of any lane is unperformed at package scope; on a control core there are no lanes. -/
def Strand.phaseDone (t : Strand) : Bool := t.g == 0 || t.cls == .control || t.pend.toList.all (· == 0)

/-- `ord.*`: the write-combining buffers of the agents it orders are flushed; one order of accesses gives the rest
(log 3). A fence of the vector agent's accesses at package scope or beyond, which orders them before what follows,
completes when each is performed there (R200, R202, R216), and any fence when what its agents have stored is. A lane thread
may execute `ord.vv` (R133). -/
def State.ordOp (s : State) (scope : Fin 5) (scalar vector inLane : Bool) : Res State := do
  require (s.cur.fork.isNone || inLane) (.launch 0x04 0 0 none) s
  let s ← (s.onCur Strand.replyAll).releaseCur scalar vector
  require (!vector || scope.val < 3 || s.cur.phaseDone) (.wait .fence) s
  return s.scalarDone

def execOrdSv (sc : Fin 5) (s : State) : Host.Outcome State Fault Refusal := finish (s.ordOp sc true false false)
def execOrdVs (sc : Fin 5) (s : State) : Host.Outcome State Fault Refusal := finish (s.ordOp sc false true false)
def execOrdVv (sc : Fin 5) (s : State) : Host.Outcome State Fault Refusal := finish (s.ordOp sc false true true)
def execOrdAll (sc : Fin 5) (s : State) : Host.Outcome State Fault Refusal := finish (s.ordOp sc true true false)

/-! ### Barrier and phase end (R201, R202) -/

/-- `bar`: a release of both agents; the strand arrives and waits; the last arrival lets all go. System code belongs to no
group and passes. -/
def State.barOp (s : State) : Res State := do
  let s ← s.scalarGate anyCls
  let s ← s.releaseCur true true
  if s.cur.system then return s.scalarDone
  else
    return (s.onCur fun t => { t with barArrived := true, status := .waiting .barrier }).barrierCheck s.cur.lid s.cur.glin

def execBar (s : State) : Host.Outcome State Fault Refusal := finish s.barOp

def State.phendOp (s : State) : Res State := do
  let s ← s.scalarGate anyCls
  let s := s.flushCur false true
  require (s.cur.phaseDone && !(s.standsBy s.cur.uid false true)) (.wait .phaseEnd) s
  return s.scalarDone

def execPhend (s : State) : Host.Outcome State Fault Refusal := finish s.phendOp

/-! ### Events (R203) -/

def State.wfeOp (s : State) : Res State := do
  let s ← s.scalarGate anyCls
  require s.cur.latch (.wait .event) s
  return (s.onCur fun t => { t with latch := false }).scalarDone

def execWfe (s : State) : Host.Outcome State Fault Refusal := finish s.wfeOp

/-- The launch of the current strand, when a STRANDID names one of its strands; else a bad target (R203). -/
def State.targetLaunch (s : State) (w : Word) : Res Launch :=
  match s.launch s.cur.lid with
  | some l => if !s.cur.system && l.sidOk w.toNat then .ok l else .error (.launch 0x0D 0 0 none, s)
  | none => .error (.launch 0x0D 0 0 none, s)

def State.sevOp (s : State) (rs1 : Reg) : Res State := do
  let s ← s.scalarGate anyCls
  let w := s.cur.getX rs1
  let l ← s.targetLaunch w
  let s := match s.strandAt l.lid (sidGlin w.toNat) (sidStage w.toNat) (sidSix w.toNat) with
    | some t => s.updStrand t.uid fun t => { t with latch := true }
    | none => s
  return s.scalarDone

def execSev (rs1 : Reg) (s : State) : Host.Outcome State Fault Refusal := finish (s.sevOp rs1)

/-! ### Messages (R205, R206) -/

/-- `send`: delivered or held at once; to an exited strand it comes back on channel 0; a full pool is a launch fault. -/
def State.sendOp (s : State) (rs1 rs2 : Reg) (ch : QReg) : Res State := do
  let s ← s.scalarGate anyCls
  let w := s.cur.getX rs1
  let p := s.cur.getX rs2
  let l ← s.targetLaunch w
  let s ← s.releaseCur true false
  let t := s.cur
  match s.deliver l (sidGlin w.toNat) (sidStage w.toNat) (sidSix w.toNat)
      { ch := ch, hdr := msgHdr 1 ch.val (t.sid % 2 ^ 32), payload := p } with
  | .done s' => return s'.scalarDone
  | .exited =>
    return (s.post t.lid t.glin t.stage t.six
      { ch := 0, hdr := msgHdr 8 ch.val (w.toNat % 2 ^ 32), payload := p }).scalarDone
  | .poolFull => .error (.launch 0x0E 0 0 none, s)

def execSend (rs1 rs2 : Reg) (ch : QReg) (s : State) : Host.Outcome State Fault Refusal := finish (s.sendOp rs1 rs2 ch)

/-- The oldest message of a channel taken from an inbox. -/
def takeMsg (ch : QReg) : List Msg → List Msg
  | [] => []
  | m :: l => if m.ch = ch then l else m :: takeMsg ch l

/-- `recv` and `recvnb`. -/
def State.recvOp (s : State) (waits : Bool) (rd : Reg) (ch : QReg) : Res State := do
  let s ← s.scalarGate anyCls
  require (rd.val % 2 == 0 && rd != 0) .illegal s
  match s.cur.channel ch with
  | m :: _ =>
    return (s.onCur fun t =>
      { ((t.putX rd m.hdr).putX (rd + 1) m.payload) with inbox := takeMsg ch t.inbox }).scalarDone
  | [] =>
    require (!waits) (.wait (.message ch)) s
    return (s.onCur fun t => (t.putX rd 0).putX (rd + 1) 0).scalarDone

def execRecv (rd : Reg) (ch : QReg) (s : State) : Host.Outcome State Fault Refusal := finish (s.recvOp true rd ch)
def execRecvnb (rd : Reg) (ch : QReg) (s : State) : Host.Outcome State Fault Refusal := finish (s.recvOp false rd ch)

/-! ### Freezing (R209, R211 to R213) -/

/-- Classes of the freeze group (R74). -/
def clsFreeze : List Cls := [.control, .vector]

/-- What the tables say of an address: the device logical page that holds it, or that none does. -/
inductive DevPage
  | page (p : Nat)
  /-- Unmapped, or not device memory. -/
  | none
  /-- An entry of the tables is held back: the instruction waits (R303). -/
  | held
  deriving DecidableEq, Repr

def DevPage.page? : DevPage → Option Nat
  | .page p => some p
  | _ => Option.none

/-- The device page of a virtual address in the strand's context. An entry that is malformed, beyond capacity or
uncorrectable maps no page: the spec names only unmapped pages and other memory (DESIGN CHOICE, log 66). -/
def State.devicePage (s : State) (a : Nat) : DevPage :=
  if !(canonical a) then .none
  else
    match s.walkFrom s.cur.ctx (a % 2 ^ 55) with
    | .leaf _ e level => if pteTgt e = 0 then .page (pageOf (pteOA e + a % 2 ^ 55 % levelSize level)) else .none
    | .held => .held
    | _ => .none

/-- What the tables say of each page of a range. -/
def State.rangeWalk (s : State) (a len : Nat) : List DevPage :=
  (List.range (len / 65536)).map fun i => s.devicePage ((a + i * 65536) % 2 ^ 64)

/-- The pages of a range, each once; none when one of them has no device page. -/
def State.rangePages (s : State) (a len : Nat) : Option (List Nat) :=
  let ps := (s.rangeWalk a len).map DevPage.page?
  if ps.all (·.isSome) then some (ps.filterMap id).eraseDups else none

/-- The statuses of `frz`, in the order of R209. -/
def State.frzCheck (s : State) (a len : Nat) : Except Nat (List Nat) :=
  if a % 65536 ≠ 0 ∨ !(canonical a) ∨ len = 0 ∨ len % 65536 ≠ 0 ∨ 2 ^ 40 < len then .error 0x8000000000000001
  else if s.freeEntry.isNone then .error 0x8000000000000002
  else
    match s.rangePages a len with
    | none => .error 0x8000000000000003
    | some ps => .ok ps

/-- `frz`: release of both agents; a status; or the freeze begins, once no page of the range is collected, and its
FREEZE_POINT completes the instruction. Nothing interrupts it from here on. -/
def State.frzOp (s : State) (rd rs1 rs2 : Reg) : Res State := do
  let s ← s.scalarGate clsFreeze
  let s ← s.releaseCur true true
  match s.frzCheck (s.cur.getX rs1).toNat (s.cur.getX rs2).toNat with
  | .error st =>
    let held := st == 0x8000000000000003 && (s.rangeWalk (s.cur.getX rs1).toNat (s.cur.getX rs2).toNat).contains .held
    require (!held) (.wait .store) s
    return (s.onCur fun t => t.putX rd (BitVec.ofNat 64 st)).scalarDone
  | .ok ps =>
    let j : FrzJob := { uid := s.cur.uid, ctx := s.cur.ctx, pages := ps, rd := rd }
    let s : State := { s with cat := { s.cat with jobs := s.cat.jobs ++ [j] } }
    return s.onCur (·.setStatus .freezing)

def execFrz (rd rs1 rs2 : Reg) (s : State) : Host.Outcome State Fault Refusal := finish (s.frzOp rd rs1 rs2)

/-- `thaw`. -/
def State.thawOp (s : State) (rs1 : Reg) (ch : QReg) : Res State := do
  let s ← s.scalarGate clsFreeze
  match s.entryOf s.cur.ctx (s.cur.getX rs1) with
  | none => .error (.launch 0x0F 0 0 none, s)
  | some e =>
    require (!e.thawing) (.launch 0x0F 0 0 none) s
    let t := s.cur
    let who := if t.system then none else some (t.lid, t.glin, t.stage, t.six)
    return (s.startThaw e ch who).scalarDone

def execThaw (rs1 : Reg) (ch : QReg) (s : State) : Host.Outcome State Fault Refusal := finish (s.thawOp rs1 ch)

/-- `thaww`. -/
def State.thawwOp (s : State) (rs1 : Reg) : Res State := do
  let s ← s.scalarGate clsFreeze
  require (s.entryOf s.cur.ctx (s.cur.getX rs1)).isNone (.wait .thaw) s
  return s.scalarDone

def execThaww (rs1 : Reg) (s : State) : Host.Outcome State Fault Refusal := finish (s.thawwOp rs1)

/-- The word of `frzq`. -/
def State.frzqWord (s : State) (a : Nat) : Nat :=
  match (s.devicePage a).page? with
  | none => 3 * 2 ^ 62
  | some p =>
    let st := if s.freezeCount p > 0 then 1 else if s.collecting p then 2 else 0
    let h := match s.cat.entries.find? fun e => e.ctx == s.cur.ctx && e.pages.contains p with
      | some e => (handleWord e.gen e.idx).toNat
      | none => 0
    st * 2 ^ 62 + s.freezeCount p * 2 ^ 48 + h % 2 ^ 48

def State.frzqOp (s : State) (rd rs1 : Reg) : Res State := do
  let s ← s.scalarGate clsFreeze
  require (s.devicePage (s.cur.getX rs1).toNat != .held) (.wait .store) s
  return (s.onCur fun t => t.putX rd (BitVec.ofNat 64 (s.frzqWord (t.getX rs1).toNat))).scalarDone

def execFrzq (rd rs1 : Reg) (s : State) : Host.Outcome State Fault Refusal := finish (s.frzqOp rd rs1)

end Sys2Proof.Machine
end

