-- ==== Sys2Proof/Machine/Fetch.lean ====
section
/-! DEFINITION. Fetching an instruction (R47, R52), the row it belongs to where several rows share its words (log 7), the
classes that implement it (R71 to R75), and one strand standing in for the current one. -/

namespace Sys2Proof.Machine

/-! ### Fetch -/

/-- What stands at a program counter: an instruction and its bytes, the exit address, or no assigned encoding. -/
inductive Fetched
  | instr (i : Instr) (bytes : Nat)
  | exit
  | illegal
  deriving DecidableEq, Repr

/-- The instruction that the parcels at the running thread's pc hold: the first gives the length (R52). -/
def State.fetchAt (s : State) : Except Exc (Fetched × State) := do
  let pc := s.cur.getPc
  let (w, s) ← s.fetchParcel pc
  match parcelLength w with
  | .error _ => return (.illegal, s)
  | .ok n => do
    let (w, s) ← s.fetchParcels pc (n / 2)
    match decodeWord n w with
    | .ok i => return (.instr i n, s)
    | .error _ => return (.illegal, s)

/-- A fetch by the running thread; in U-mode a fetch from the exit address is not translated (R47). -/
def State.fetchInstr (s : State) : Except Exc (Fetched × State) :=
  if s.cur.mode = .u ∧ s.cur.getPc = exitAddr then .ok (.exit, s) else s.fetchAt

/-! ### Rows that share words (log 7) -/

/-- The operation of a vector atomic, for its lane form. -/
def amoCode : Instr → Option (Fin 11 × FAmo)
  | .vamoadd a => some (0, a)
  | .vamomin a => some (1, a)
  | .vamomax a => some (2, a)
  | .vamominn a => some (3, a)
  | .vamomaxn a => some (4, a)
  | .vamoand a => some (5, a)
  | .vamoor a => some (6, a)
  | .vamoxor a => some (7, a)
  | .vamoswp a => some (8, a)
  | .vamocas a => some (9, a)
  | .vamofadd a => some (10, a)
  | _ => none

/-- The row of a `ccmove` by the OP byte of its block (R284). -/
def ccmoveRow (op : Nat) (rd rs1 : Reg) : Instr :=
  match op with
  | 1 => .ccmoveWriteBookmark
  | 2 => .ccmoveKill
  | 3 => .ccmoveCancel
  | 4 => .ccmovePreempt
  | 5 => .ccmoveResume
  | 6 => .ccmovePostMessage
  | _ => .ccmoveMove rd rs1

/-- The OP byte that a `ccmove` reads; 0 where it cannot be read or is misaligned. -/
def State.ccmoveOpByte (s : State) (rs1 : Reg) : Nat :=
  let a := s.cur.getX rs1
  if a.toNat % 32 ≠ 0 then 0
  else match s.load a 1 with | .ok (v, _) => v | .error _ => 0

/-- The row of a decoded instruction in the state it executes in, with the operands of a `ccmove` among the
particulars. -/
def State.resolve (s : State) (i : Instr) : Instr × State :=
  match i with
  | .ccmoveMove rd rs1 =>
    if s.cur.mode = .u then (i, s)
    else (ccmoveRow (s.ccmoveOpByte rs1) rd rs1, { s with arg := { s.arg with rd := rd, rs1 := rs1 } })
  | _ =>
    match (if s.cur.fork.isSome then amoCode i else none) with
    | some (op, a) => (.laneFormAtomic op a, s)
    | none => (i, s)

/-! ### Implementing classes (R71 to R75) -/

/-- The classes that implement an instruction. -/
def instrClasses (i : Instr) : List Cls :=
  match i with
  | .rv64ScalarInstruction _ op => scalarClasses op
  | .ordSv _ | .ordVs _ | .ordVv _ | .ordAll _ | .sev _ | .send .. | .recv .. | .recvnb .. | .syscB .. | .syscN ..
  | .fence .. | .quelanCsrAccess _ | .vdirtyWrite _ | .bar | .phend | .wfe | .gexit | .yld | .migControl | .migVector
  | .migArray | .fenceTso | .ecall | .ebreak | .exitAddressFetch => anyCls
  | .bkrd .. | .bkrsm _ | .ccmoveMove .. | .frqpop .. | .latw .. | .thrset .. | .ccmoveWriteBookmark | .ccmoveKill
  | .ccmoveCancel | .ccmovePreempt | .ccmoveResume | .ccmovePostMessage | .lnch .. | .cpost .. | .fenceI => clsC
  | .frz .. | .thaw .. | .thaww _ | .frzq .. => clsFreeze
  | .mmr .. | .mmrz .. | .mmrs .. | .accrd .. | .accwr .. | .accz .. | .wclr _ | .wdesc .. | .cpw .. => clsA
  | .vaddVv _ | .vsubVv _ | .vaddVx _ | .vsubVx _ | .vrsubVx _ | .vsplatVx .. | .vaddVi _ | .vrsubVi _ | .vsplatVi ..
  | .vmvxs .. | .vfcvtfi _ | .vfcvtif _ | .vfwcvt _ | .vfncvt _ | .vqcvt _ | .vdqcvt _ | .vncvti _ | .vwcvti _
  | .kand .. | .kor .. | .kxor .. | .kandn .. | .knot .. | .kmov .. | .kpop .. | .kfirst .. | .vmergeVv .. | .vmergeVx ..
  | .vmergeVi .. | .vid .. | .vsetli .. | .vsetl .. | .vrel | .vld _ | .vst _ | .kld .. | .kst .. | .vlds _ | .vsts _
  | .vldxO _ | .vstxO _ | .vldx _ | .vstx _ | .vldff _ | .vldl _ | .vstl _ | .qdef .. | .qbind .. | .qunb _ | .qavail ..
  | .qwait .. | .qend _ | .qrst _ | .cpt _ | .cpgr _ | .cpsc _ | .cpf _ => clsVA
  | _ => clsV

/-- A vector instruction, as the mix window counts them (R255): one of the pages QA, QK but for its system page, QM, and of
the atomics, waits and linked accesses. -/
def isVectorInstr (i : Instr) : Bool :=
  match encode i with
  | some (32, w) =>
    let major := fld w 0 7
    major == 0x0B || (major == 0x7B && fld w 12 3 != 6) || major == 0x2B || (major == 0x5B && fld w 12 3 < 6)
  | _ => false

/-! ### Another strand in the current one's place -/

/-- A strand changes places with the current one. -/
def State.bring (s : State) (uid : Nat) : State :=
  if s.cur.uid = uid then s
  else
    match s.others.find? fun t => t.uid == uid with
    | none => s
    | some t => { s with cur := t, others := s.others.map fun u => if u.uid = uid then s.cur else u }

/-- A function of the machine applied with a strand as the current one. -/
def State.asStrand (s : State) (uid : Nat) (f : State → State) : State :=
  let s' := (f (s.bring uid)).bring s.cur.uid
  { s' with others := s'.others.filter fun t => t.status != .gone }

/-- Classes that implement a strand's next instruction: its own where that cannot be told (R260). -/
def State.nextClasses (s : State) (uid : Nat) : List Cls :=
  let s := s.bring uid
  match s.fetchInstr with
  | .ok (.instr i _, _) => instrClasses i
  | _ => [s.cur.cls]

end Sys2Proof.Machine
end

