-- ==== Sys2Proof/Machine/VectorInt.lean ====
section
/-! DEFINITION. Integer arithmetic on vectors (R94, R117), splats of x registers and immediates (R125, R127), and
`vmerge` and `vid` (R131). An element operation takes EW, a = vs2.e[i], b (R108) and d = vd.e[i], and gives the result
and its flags. -/

namespace Sys2Proof.Machine

/-! ### Element operations (R94, R117) -/

/-- Element operation: EW, a, b, d to result and flags. -/
abbrev ElemOp := Nat → Nat → Nat → Nat → Nat × Nat

def opAdd : ElemOp := fun w a b _ => ((a + b) % 2 ^ w, 0)
def opSub : ElemOp := fun w a b _ => (unsignedOf w (a - b : Int), 0)
def opRsub : ElemOp := fun w a b _ => (unsignedOf w (b - a : Int), 0)
def opMul : ElemOp := fun w a b _ => (a * b % 2 ^ w, 0)
def opMulh : ElemOp := fun w a b _ => (unsignedOf w (signedOf w a * signedOf w b / (2 ^ w : Nat)), 0)
def opMulhn : ElemOp := fun w a b _ => (a * b / 2 ^ w, 0)
def opMacc : ElemOp := fun w a b d => ((d + a * b) % 2 ^ w, 0)
def opNmsac : ElemOp := fun w a b d => (unsignedOf w (d - a * b : Int), 0)
def opMin : ElemOp := fun w a b _ => (if signedOf w b < signedOf w a then b else a, 0)
def opMax : ElemOp := fun w a b _ => (if signedOf w a < signedOf w b then b else a, 0)
def opMinn : ElemOp := fun _ a b _ => (min a b, 0)
def opMaxn : ElemOp := fun _ a b _ => (max a b, 0)
def opAnd : ElemOp := fun _ a b _ => (a &&& b, 0)
def opOr : ElemOp := fun _ a b _ => (a ||| b, 0)
def opXor : ElemOp := fun _ a b _ => (a ^^^ b, 0)
/-- Shift counts are the low log2(EW) bits. -/
def opSll : ElemOp := fun w a b _ => (a * 2 ^ (b % w) % 2 ^ w, 0)
def opSrl : ElemOp := fun w a b _ => (a / 2 ^ (b % w), 0)
def opSra : ElemOp := fun w a b _ => (unsignedOf w (signedOf w a / (2 ^ (b % w) : Nat)), 0)
/-- Quotients toward zero; by 0 all ones; INT minimum by −1 wraps to itself. -/
def opDiv : ElemOp := fun w a b _ => (if b = 0 then 2 ^ w - 1 else unsignedOf w (Int.tdiv (signedOf w a) (signedOf w b)), 0)
def opDivn : ElemOp := fun w a b _ => (if b = 0 then 2 ^ w - 1 else a / b, 0)
/-- Remainders with the dividend's sign; by 0 the dividend. -/
def opRem : ElemOp := fun w a b _ => (if b = 0 then a else unsignedOf w (Int.tmod (signedOf w a) (signedOf w b)), 0)
def opRemn : ElemOp := fun _ a b _ => (if b = 0 then a else a % b, 0)

/-- An exact integer clamped to INT or N of a width, with SAT (R94). -/
def clampTo (isSigned : Bool) (w : Nat) (x : Int) : Nat × Nat :=
  let lo : Int := if isSigned then -(2 ^ (w - 1) : Nat) else 0
  let hi : Int := if isSigned then (2 ^ (w - 1) : Nat) - 1 else (2 ^ w : Nat) - 1
  if x < lo then (unsignedOf w lo, flSAT) else if hi < x then (unsignedOf w hi, flSAT) else (unsignedOf w x, 0)

def opSadd : ElemOp := fun w a b _ => clampTo true w (signedOf w a + signedOf w b)
def opSaddn : ElemOp := fun w a b _ => clampTo false w (a + b : Int)
def opSsub : ElemOp := fun w a b _ => clampTo true w (signedOf w a - signedOf w b)
def opSsubn : ElemOp := fun w a b _ => clampTo false w (a - b : Int)

/-! ### Forms (R108) -/

/-- An element-wise integer instruction with vector operand `vs2` and second operand `b` of each element. -/
def intForm (cs : List Cls) (useD : Bool) (op : ElemOp) (vm : Bool) (vd vs2 : Reg) (srcs : List Reg)
    (b : Strand → Nat → Nat) (s : State) : Res State :=
  s.vectorOp cs (maskOf vm) (vs2 :: srcs ++ if useD then [vd] else []) [vd]
    (fun t => t.fmtInt && t.groupsOk (vd :: vs2 :: srcs))
    (fun t => t.mapElems (t.actives vm) vd t.ew t.grp fun i =>
      op t.ew (t.elem vs2 t.ew i) (b t i) (t.elem vd t.ew i))

def intVV (cs : List Cls) (useD : Bool) (op : ElemOp) (a : FVV) (s : State) : Res State :=
  intForm cs useD op a.vm a.vd a.vs2 [a.vs1] (fun t i => t.elem a.vs1 t.ew i) s

def intVX (cs : List Cls) (useD : Bool) (op : ElemOp) (a : FVX) (s : State) : Res State :=
  intForm cs useD op a.vm a.vd a.vs2 [] (fun t _ => lowBits (t.getX a.rs1) t.ew) s

def intVI (cs : List Cls) (op : ElemOp) (a : FVI) (s : State) : Res State :=
  intForm cs false op a.vm a.vd a.vs2 [] (fun t _ => immBits a.imm t.ew) s

/-- Shifts take the immediate as 0 to 31. -/
def intShI (cs : List Cls) (op : ElemOp) (a : FVI) (s : State) : Res State :=
  intForm cs false op a.vm a.vd a.vs2 [] (fun _ _ => a.imm.toNat) s

/-! ### .vv -/

def execVaddVv (a : FVV) (s : State) : Host.Outcome State Fault Refusal := finish (intVV clsVA false opAdd a s)
def execVsubVv (a : FVV) (s : State) : Host.Outcome State Fault Refusal := finish (intVV clsVA false opSub a s)
def execVmulVv (a : FVV) (s : State) : Host.Outcome State Fault Refusal := finish (intVV clsV false opMul a s)
def execVmulhVv (a : FVV) (s : State) : Host.Outcome State Fault Refusal := finish (intVV clsV false opMulh a s)
def execVmulhnVv (a : FVV) (s : State) : Host.Outcome State Fault Refusal := finish (intVV clsV false opMulhn a s)
def execVmaccVv (a : FVV) (s : State) : Host.Outcome State Fault Refusal := finish (intVV clsV true opMacc a s)
def execVnmsacVv (a : FVV) (s : State) : Host.Outcome State Fault Refusal := finish (intVV clsV true opNmsac a s)
def execVminVv (a : FVV) (s : State) : Host.Outcome State Fault Refusal := finish (intVV clsV false opMin a s)
def execVmaxVv (a : FVV) (s : State) : Host.Outcome State Fault Refusal := finish (intVV clsV false opMax a s)
def execVminnVv (a : FVV) (s : State) : Host.Outcome State Fault Refusal := finish (intVV clsV false opMinn a s)
def execVmaxnVv (a : FVV) (s : State) : Host.Outcome State Fault Refusal := finish (intVV clsV false opMaxn a s)
def execVandVv (a : FVV) (s : State) : Host.Outcome State Fault Refusal := finish (intVV clsV false opAnd a s)
def execVorVv (a : FVV) (s : State) : Host.Outcome State Fault Refusal := finish (intVV clsV false opOr a s)
def execVxorVv (a : FVV) (s : State) : Host.Outcome State Fault Refusal := finish (intVV clsV false opXor a s)
def execVsllVv (a : FVV) (s : State) : Host.Outcome State Fault Refusal := finish (intVV clsV false opSll a s)
def execVsrlVv (a : FVV) (s : State) : Host.Outcome State Fault Refusal := finish (intVV clsV false opSrl a s)
def execVsraVv (a : FVV) (s : State) : Host.Outcome State Fault Refusal := finish (intVV clsV false opSra a s)
def execVdivVv (a : FVV) (s : State) : Host.Outcome State Fault Refusal := finish (intVV clsV false opDiv a s)
def execVdivnVv (a : FVV) (s : State) : Host.Outcome State Fault Refusal := finish (intVV clsV false opDivn a s)
def execVremVv (a : FVV) (s : State) : Host.Outcome State Fault Refusal := finish (intVV clsV false opRem a s)
def execVremnVv (a : FVV) (s : State) : Host.Outcome State Fault Refusal := finish (intVV clsV false opRemn a s)
def execVsaddVv (a : FVV) (s : State) : Host.Outcome State Fault Refusal := finish (intVV clsV false opSadd a s)
def execVsaddnVv (a : FVV) (s : State) : Host.Outcome State Fault Refusal := finish (intVV clsV false opSaddn a s)
def execVssubVv (a : FVV) (s : State) : Host.Outcome State Fault Refusal := finish (intVV clsV false opSsub a s)
def execVssubnVv (a : FVV) (s : State) : Host.Outcome State Fault Refusal := finish (intVV clsV false opSsubn a s)

/-! ### .vx -/

def execVaddVx (a : FVX) (s : State) : Host.Outcome State Fault Refusal := finish (intVX clsVA false opAdd a s)
def execVsubVx (a : FVX) (s : State) : Host.Outcome State Fault Refusal := finish (intVX clsVA false opSub a s)
def execVmulVx (a : FVX) (s : State) : Host.Outcome State Fault Refusal := finish (intVX clsV false opMul a s)
def execVmulhVx (a : FVX) (s : State) : Host.Outcome State Fault Refusal := finish (intVX clsV false opMulh a s)
def execVmulhnVx (a : FVX) (s : State) : Host.Outcome State Fault Refusal := finish (intVX clsV false opMulhn a s)
def execVmaccVx (a : FVX) (s : State) : Host.Outcome State Fault Refusal := finish (intVX clsV true opMacc a s)
def execVnmsacVx (a : FVX) (s : State) : Host.Outcome State Fault Refusal := finish (intVX clsV true opNmsac a s)
def execVminVx (a : FVX) (s : State) : Host.Outcome State Fault Refusal := finish (intVX clsV false opMin a s)
def execVmaxVx (a : FVX) (s : State) : Host.Outcome State Fault Refusal := finish (intVX clsV false opMax a s)
def execVminnVx (a : FVX) (s : State) : Host.Outcome State Fault Refusal := finish (intVX clsV false opMinn a s)
def execVmaxnVx (a : FVX) (s : State) : Host.Outcome State Fault Refusal := finish (intVX clsV false opMaxn a s)
def execVandVx (a : FVX) (s : State) : Host.Outcome State Fault Refusal := finish (intVX clsV false opAnd a s)
def execVorVx (a : FVX) (s : State) : Host.Outcome State Fault Refusal := finish (intVX clsV false opOr a s)
def execVxorVx (a : FVX) (s : State) : Host.Outcome State Fault Refusal := finish (intVX clsV false opXor a s)
def execVsllVx (a : FVX) (s : State) : Host.Outcome State Fault Refusal := finish (intVX clsV false opSll a s)
def execVsrlVx (a : FVX) (s : State) : Host.Outcome State Fault Refusal := finish (intVX clsV false opSrl a s)
def execVsraVx (a : FVX) (s : State) : Host.Outcome State Fault Refusal := finish (intVX clsV false opSra a s)
def execVdivVx (a : FVX) (s : State) : Host.Outcome State Fault Refusal := finish (intVX clsV false opDiv a s)
def execVdivnVx (a : FVX) (s : State) : Host.Outcome State Fault Refusal := finish (intVX clsV false opDivn a s)
def execVremVx (a : FVX) (s : State) : Host.Outcome State Fault Refusal := finish (intVX clsV false opRem a s)
def execVremnVx (a : FVX) (s : State) : Host.Outcome State Fault Refusal := finish (intVX clsV false opRemn a s)
def execVsaddVx (a : FVX) (s : State) : Host.Outcome State Fault Refusal := finish (intVX clsV false opSadd a s)
def execVsaddnVx (a : FVX) (s : State) : Host.Outcome State Fault Refusal := finish (intVX clsV false opSaddn a s)
def execVssubVx (a : FVX) (s : State) : Host.Outcome State Fault Refusal := finish (intVX clsV false opSsub a s)
def execVssubnVx (a : FVX) (s : State) : Host.Outcome State Fault Refusal := finish (intVX clsV false opSsubn a s)
def execVrsubVx (a : FVX) (s : State) : Host.Outcome State Fault Refusal := finish (intVX clsVA false opRsub a s)

/-! ### .vi -/

def execVaddVi (a : FVI) (s : State) : Host.Outcome State Fault Refusal := finish (intVI clsVA opAdd a s)
def execVandVi (a : FVI) (s : State) : Host.Outcome State Fault Refusal := finish (intVI clsV opAnd a s)
def execVorVi (a : FVI) (s : State) : Host.Outcome State Fault Refusal := finish (intVI clsV opOr a s)
def execVxorVi (a : FVI) (s : State) : Host.Outcome State Fault Refusal := finish (intVI clsV opXor a s)
def execVsaddVi (a : FVI) (s : State) : Host.Outcome State Fault Refusal := finish (intVI clsV opSadd a s)
def execVsaddnVi (a : FVI) (s : State) : Host.Outcome State Fault Refusal := finish (intVI clsV opSaddn a s)
def execVrsubVi (a : FVI) (s : State) : Host.Outcome State Fault Refusal := finish (intVI clsVA opRsub a s)
def execVsllVi (a : FVI) (s : State) : Host.Outcome State Fault Refusal := finish (intShI clsV opSll a s)
def execVsrlVi (a : FVI) (s : State) : Host.Outcome State Fault Refusal := finish (intShI clsV opSrl a s)
def execVsraVi (a : FVI) (s : State) : Host.Outcome State Fault Refusal := finish (intShI clsV opSra a s)

/-! ### Splats (R125) -/

/-- A value in every active element. -/
def splatForm (cs : List Cls) (ok : Strand → Bool) (vm : Bool) (vd : Reg) (b : Strand → Nat) (s : State) : Res State :=
  s.vectorOp cs (maskOf vm) [] [vd] (fun t => ok t && t.groupsOk [vd])
    (fun t => t.mapElems (t.actives vm) vd t.ew t.grp fun _ => (b t, 0))

def execVsplatVx (vm : Bool) (vd rs1 : Reg) (s : State) : Host.Outcome State Fault Refusal :=
  finish (splatForm clsVA Strand.fmtAny vm vd (fun t => lowBits (t.getX rs1) t.ew) s)

def execVsplatVi (vm : Bool) (vd : Reg) (imm : BitVec 5) (s : State) : Host.Outcome State Fault Refusal :=
  finish (splatForm clsVA Strand.fmtAny vm vd (fun t => immBits imm t.ew) s)

/-! ### `vmerge` and `vid` (R131) -/

/-- `vmerge`: every element of [VSTART, VL) is written, from Op1 where k0 has its bit set, else from vs2. -/
def mergeForm (vd vs2 : Reg) (srcs : List Reg) (b : Strand → Nat → Nat) (s : State) : Res State :=
  s.vectorOp clsVA [0] (vs2 :: srcs) [vd] (fun t => t.fmtAny && t.groupsOk (vd :: vs2 :: srcs))
    (fun t => t.mapElems (t.actives false) vd t.ew t.grp fun i =>
      (if t.kbit 0 i then b t i else t.elem vs2 t.ew i, 0))

def execVmergeVv (_c2 _c1 : Bool) (vd vs2 vs1 : Reg) (s : State) : Host.Outcome State Fault Refusal :=
  finish (mergeForm vd vs2 [vs1] (fun t i => t.elem vs1 t.ew i) s)

def execVmergeVx (_c2 : Bool) (vd vs2 rs1 : Reg) (s : State) : Host.Outcome State Fault Refusal :=
  finish (mergeForm vd vs2 [] (fun t _ => lowBits (t.getX rs1) t.ew) s)

def execVmergeVi (_c2 : Bool) (vd vs2 : Reg) (imm : BitVec 5) (s : State) : Host.Outcome State Fault Refusal :=
  finish (mergeForm vd vs2 [] (fun t _ => immBits imm t.ew) s)

def execVid (vm : Bool) (vd : Reg) (s : State) : Host.Outcome State Fault Refusal :=
  finish (s.vectorOp clsVA (maskOf vm) [] [vd] (fun t => t.fmtInt && t.groupsOk [vd])
    (fun t => t.mapElems (t.actives vm) vd t.ew t.grp fun i => (i % 2 ^ t.ew, 0)))

end Sys2Proof.Machine
end

