-- ==== Sys2Proof/Machine/VectorConvert.lean ====
section
/-! DEFINITION. Conversions (R91 to R93, R121, R122). VTYPE describes the narrow side; the wide operand is a group of
2 or 4 times GRP registers (R107). -/

namespace Sys2Proof.Machine

/-- A conversion: VTYPE's acceptance, the factors of the source's and destination's element width and group, and the
element's function, which gives the result and flags. -/
def cvtForm (ok : Strand → Bool) (fs fd : Nat) (vm : Bool) (vd vs2 : Reg) (f : Strand → Nat → Nat × Nat) (s : State) :
    Res State :=
  s.vectorOp clsVA (maskOf vm) [vs2] [vd]
    (fun t => !t.vill && ok t && decide (fs * t.grp ≤ 8) && decide (fd * t.grp ≤ 8)
      && aligned vs2 (fs * t.grp) && aligned vd (fd * t.grp)
      && (fs == fd || disjoint vs2 (fs * t.grp) vd (fd * t.grp)))
    (fun t => t.mapElems (t.actives vm) vd (fd * t.ew) (fd * t.grp) fun i => f t (t.elem vs2 (fs * t.ew) i))

/-- The family is float (FAM 10). -/
def Strand.famFloat (t : Strand) : Bool := vtFam t.vtype == 2
def Strand.isInt (t : Strand) : Bool := vtFam t.vtype == 0

/-- VTYPE of the integer and float conversions of one width. -/
def Strand.fmtCvt (t : Strand) : Bool := (t.ew == 16 || t.ew == 32 || t.ew == 64) && !t.famFloat
/-- VTYPE of the float conversions between widths. -/
def Strand.fmtFw (t : Strand) : Bool := (t.ew == 8 || t.ew == 16 || t.ew == 32) && t.famFloat
/-- VTYPE of the scaled conversions. -/
def Strand.fmtQ (t : Strand) : Bool := t.ew == 8 && t.famFloat
/-- VTYPE of the integer conversions between widths. -/
def Strand.fmtIw (t : Strand) : Bool := (t.ew == 4 && t.isInt) || ((t.ew == 8 || t.ew == 16 || t.ew == 32) && !t.famFloat)

/-- The wide float format over a narrow width: FP16, FP32, FP64. -/
def wideFmt (ew : Nat) : Fmt := if ew = 8 then fp16 else if ew = 16 then fp32 else fp64

/-- Integer to float (R93). -/
def cvtFromInt (f : Fmt) (r : Round) (isSigned : Bool) (ew x : Nat) : Nat × Nat :=
  f.roundVal r (FVal.ofInt (if isSigned then signedOf ew x else x))

/-- Float to integer (R93): clamped with NV and SAT. -/
def cvtToInt (f : Fmt) (r : Round) (isSigned : Bool) (ew x : Nat) : Nat × Nat :=
  let lo : Int := if isSigned then -(2 ^ (ew - 1) : Nat) else 0
  let hi : Int := if isSigned then (2 ^ (ew - 1) : Nat) - 1 else (2 ^ ew : Nat) - 1
  let (i, nx, bad) := (f.inp r x).toInt r.rm lo hi
  (unsignedOf ew i, flagIf nx flNX ||| flagIf bad (flNV ||| flSAT))

/-- Float to wider float, exact (R93). -/
def cvtWiden (f d : Fmt) (x : Nat) : Nat × Nat :=
  let (b, _) := d.roundVal { rm := .rne, sat := false, ftz := false } (f.val x)
  (b, nvIf [f.val x])

/-- Float to narrower float (R91, R93). -/
def cvtNarrow (f d : Fmt) (r : Round) (sati : Bool) (x : Nat) : Nat × Nat :=
  let v := f.inp r x
  let (b, fl) := if d.width = 8 then d.narrow8 { r with sat := sati } v else d.roundVal { r with sat := sati } v
  (b, fl ||| nvIf [v])

/-- Scaled quantising conversion (R92): FTZ acts on x and s, not on the result. -/
def cvtQuant (d : Fmt) (r : Round) (sati : Bool) (scale x : Nat) : Nat × Nat :=
  let (v, fl) := (fp32.inp r x).div (fp32.inp r scale)
  let (b, fl2) := d.narrow8 { r with sat := sati, ftz := false } v
  (b, fl ||| fl2)

/-- Scaled dequantising conversion (R92): FTZ acts on s and on the result; a subnormal 8-bit q is kept (R92's list over
R88's every input: DEDUCED, log 62). -/
def cvtDequant (f : Fmt) (r : Round) (scale q : Nat) : Nat × Nat :=
  fp32.out r ((f.val q).mul (fp32.inp r scale))

/-- Integer narrowing with SAT (R93). -/
def cvtClamp (isSigned : Bool) (ew x : Nat) : Nat × Nat :=
  clampTo isSigned ew (if isSigned then signedOf (2 * ew) x else x)

/-- Integer widening (R93). -/
def cvtExtend (isSigned : Bool) (ew x : Nat) : Nat × Nat :=
  (if isSigned then unsignedOf (2 * ew) (signedOf ew x) else x, 0)

def execVfcvtfi (a : FVU) (s : State) : Host.Outcome State Fault Refusal :=
  finish (cvtForm (fun t => t.fmtCvt && t.rmOk) 1 1 a.vm a.vd a.vs2
    (fun t x => cvtFromInt (fmtOf t.ew false) t.round t.isInt t.ew x) s)

def execVfcvtif (a : FVU) (s : State) : Host.Outcome State Fault Refusal :=
  finish (cvtForm (fun t => t.fmtCvt && t.rmOk) 1 1 a.vm a.vd a.vs2
    (fun t x => cvtToInt (fmtOf t.ew false) t.round t.isInt t.ew x) s)

def execVfwcvt (a : FVU) (s : State) : Host.Outcome State Fault Refusal :=
  finish (cvtForm Strand.fmtFw 1 2 a.vm a.vd a.vs2 (fun t x => cvtWiden t.fmt (wideFmt t.ew) x) s)

def execVfncvt (a : FVUS) (s : State) : Host.Outcome State Fault Refusal :=
  finish (cvtForm (fun t => t.fmtFw && t.rmOk) 2 1 a.vm a.vd a.vs2
    (fun t x => cvtNarrow (wideFmt t.ew) t.fmt t.round a.sat x) s)

def execVqcvt (a : FVXS) (s : State) : Host.Outcome State Fault Refusal :=
  finish (cvtForm (fun t => t.fmtQ && t.rmOk) 4 1 a.vm a.vd a.vs2
    (fun t x => cvtQuant t.fmt t.round a.sat (lowBits (t.getX a.rs1) 32) x) s)

def execVdqcvt (a : FVX) (s : State) : Host.Outcome State Fault Refusal :=
  finish (cvtForm (fun t => t.fmtQ && t.rmOk) 1 4 a.vm a.vd a.vs2
    (fun t x => cvtDequant t.fmt t.round (lowBits (t.getX a.rs1) 32) x) s)

def execVncvti (a : FVU) (s : State) : Host.Outcome State Fault Refusal :=
  finish (cvtForm Strand.fmtIw 2 1 a.vm a.vd a.vs2 (fun t x => cvtClamp t.isInt t.ew x) s)

def execVwcvti (a : FVU) (s : State) : Host.Outcome State Fault Refusal :=
  finish (cvtForm Strand.fmtIw 1 2 a.vm a.vd a.vs2 (fun t x => cvtExtend t.isInt t.ew x) s)

end Sys2Proof.Machine
end

