-- ==== Sys2Proof/Machine/VectorMask.lean ====
section
/-! DEFINITION. Compares into masks (R120, R90) and the mask operations (R128). -/

namespace Sys2Proof.Machine

/-! ### Relations -/

/-- Integer relation: EW, a, b. -/
abbrev IntRel := Nat → Nat → Nat → Bool

def relEq : IntRel := fun _ a b => a == b
def relNe : IntRel := fun _ a b => a != b
def relLt : IntRel := fun w a b => decide (signedOf w a < signedOf w b)
def relLtn : IntRel := fun _ a b => decide (a < b)
def relLe : IntRel := fun w a b => decide (signedOf w a ≤ signedOf w b)
def relLen : IntRel := fun _ a b => decide (a ≤ b)

/-- Float relation on two values, with NV. -/
abbrev FloatRel := FVal → FVal → Bool × Nat

def relFeq : FloatRel := fun a b => (a.eq b, nvIf [a, b])
def relFne : FloatRel := fun a b => (!(a.eq b), nvIf [a, b])
def relFlt : FloatRel := fun a b => (a.lt b, flagIf (a.isNan || b.isNan) flNV)
def relFle : FloatRel := fun a b => (a.le b, flagIf (a.isNan || b.isNan) flNV)
def relFord : FloatRel := fun a b => (!a.isNan && !b.isNan, nvIf [a, b])

/-! ### Forms -/

/-- A compare: the destination bit of each active element (R105, R120). -/
def cmpForm (ok : Strand → Bool) (vm : Bool) (kd : MReg) (vs2 : Reg) (srcs : List Reg) (f : Strand → Nat → Bool × Nat)
    (s : State) : Res State :=
  s.vectorOp clsV (kd :: maskOf vm) (vs2 :: srcs) [] (fun t => ok t && t.groupsOk (vs2 :: srcs))
    (fun t => t.mapBits vm kd (f t))

def cmpVV (r : IntRel) (a : FKVV) (s : State) : Res State :=
  cmpForm Strand.fmtInt a.vm a.kd a.vs2 [a.vs1] (fun t i => (r t.ew (t.elem a.vs2 t.ew i) (t.elem a.vs1 t.ew i), 0)) s

def cmpVX (r : IntRel) (a : FKVX) (s : State) : Res State :=
  cmpForm Strand.fmtInt a.vm a.kd a.vs2 []
    (fun t i => (r t.ew (t.elem a.vs2 t.ew i) (lowBits (t.getX a.rs1) t.ew), 0)) s

def cmpVI (r : IntRel) (a : FKVI) (s : State) : Res State :=
  cmpForm Strand.fmtInt a.vm a.kd a.vs2 [] (fun t i => (r t.ew (t.elem a.vs2 t.ew i) (immBits a.imm t.ew), 0)) s

/-- A float operand as FTZ reads it (R88). -/
def Strand.fin (t : Strand) (bits : Nat) : FVal := t.fmt.inp t.round bits

def fcmpVV (r : FloatRel) (a : FKVV) (s : State) : Res State :=
  cmpForm Strand.fmtFloat a.vm a.kd a.vs2 [a.vs1]
    (fun t i => r (t.fin (t.elem a.vs2 t.ew i)) (t.fin (t.elem a.vs1 t.ew i))) s

def fcmpVF (r : FloatRel) (a : FKVX) (s : State) : Res State :=
  cmpForm Strand.fmtFloat a.vm a.kd a.vs2 []
    (fun t i => r (t.fin (t.elem a.vs2 t.ew i)) (t.fin (fOperand t.f[a.rs1] t.fmt))) s

/-! ### Integer compares -/

def execVmseqVv (a : FKVV) (s : State) : Host.Outcome State Fault Refusal := finish (cmpVV relEq a s)
def execVmsneVv (a : FKVV) (s : State) : Host.Outcome State Fault Refusal := finish (cmpVV relNe a s)
def execVmsltVv (a : FKVV) (s : State) : Host.Outcome State Fault Refusal := finish (cmpVV relLt a s)
def execVmsltnVv (a : FKVV) (s : State) : Host.Outcome State Fault Refusal := finish (cmpVV relLtn a s)
def execVmsleVv (a : FKVV) (s : State) : Host.Outcome State Fault Refusal := finish (cmpVV relLe a s)
def execVmslenVv (a : FKVV) (s : State) : Host.Outcome State Fault Refusal := finish (cmpVV relLen a s)
def execVmseqVx (a : FKVX) (s : State) : Host.Outcome State Fault Refusal := finish (cmpVX relEq a s)
def execVmsneVx (a : FKVX) (s : State) : Host.Outcome State Fault Refusal := finish (cmpVX relNe a s)
def execVmsltVx (a : FKVX) (s : State) : Host.Outcome State Fault Refusal := finish (cmpVX relLt a s)
def execVmsltnVx (a : FKVX) (s : State) : Host.Outcome State Fault Refusal := finish (cmpVX relLtn a s)
def execVmsleVx (a : FKVX) (s : State) : Host.Outcome State Fault Refusal := finish (cmpVX relLe a s)
def execVmslenVx (a : FKVX) (s : State) : Host.Outcome State Fault Refusal := finish (cmpVX relLen a s)
def execVmseqVi (a : FKVI) (s : State) : Host.Outcome State Fault Refusal := finish (cmpVI relEq a s)
def execVmsneVi (a : FKVI) (s : State) : Host.Outcome State Fault Refusal := finish (cmpVI relNe a s)
def execVmsleVi (a : FKVI) (s : State) : Host.Outcome State Fault Refusal := finish (cmpVI relLe a s)
def execVmslenVi (a : FKVI) (s : State) : Host.Outcome State Fault Refusal := finish (cmpVI relLen a s)

/-! ### Float compares -/

def execVmfeqVv (a : FKVV) (s : State) : Host.Outcome State Fault Refusal := finish (fcmpVV relFeq a s)
def execVmfneVv (a : FKVV) (s : State) : Host.Outcome State Fault Refusal := finish (fcmpVV relFne a s)
def execVmfltVv (a : FKVV) (s : State) : Host.Outcome State Fault Refusal := finish (fcmpVV relFlt a s)
def execVmfleVv (a : FKVV) (s : State) : Host.Outcome State Fault Refusal := finish (fcmpVV relFle a s)
def execVmfordVv (a : FKVV) (s : State) : Host.Outcome State Fault Refusal := finish (fcmpVV relFord a s)
def execVmfeqVf (a : FKVX) (s : State) : Host.Outcome State Fault Refusal := finish (fcmpVF relFeq a s)
def execVmfneVf (a : FKVX) (s : State) : Host.Outcome State Fault Refusal := finish (fcmpVF relFne a s)
def execVmfltVf (a : FKVX) (s : State) : Host.Outcome State Fault Refusal := finish (fcmpVF relFlt a s)
def execVmfleVf (a : FKVX) (s : State) : Host.Outcome State Fault Refusal := finish (fcmpVF relFle a s)
def execVmfordVf (a : FKVX) (s : State) : Host.Outcome State Fault Refusal := finish (fcmpVF relFord a s)

/-! ### Mask logic (R128) -/

/-- Logic on all 4,096 bits; it reads neither VL, VTYPE nor VSTART, and needs a grant. -/
def maskForm (f : KReg → KReg → KReg) (kd ks2 ks1 : MReg) (s : State) : Res State := do
  let s ← s.vectorGate clsVA [kd, ks2, ks1]
  require (s.cur.g != 0) .illegal s
  return (s.onCur fun t => t.putK kd (f t.k[ks2] t.k[ks1])).vectorDone

def execKand (kd ks2 ks1 : MReg) (s : State) : Host.Outcome State Fault Refusal := finish (maskForm (fun a b => a &&& b) kd ks2 ks1 s)
def execKor (kd ks2 ks1 : MReg) (s : State) : Host.Outcome State Fault Refusal := finish (maskForm (fun a b => a ||| b) kd ks2 ks1 s)
def execKxor (kd ks2 ks1 : MReg) (s : State) : Host.Outcome State Fault Refusal := finish (maskForm (fun a b => a ^^^ b) kd ks2 ks1 s)
def execKandn (kd ks2 ks1 : MReg) (s : State) : Host.Outcome State Fault Refusal := finish (maskForm (fun a b => a &&& ~~~b) kd ks2 ks1 s)
def execKnot (kd ks2 : MReg) (s : State) : Host.Outcome State Fault Refusal := finish (maskForm (fun a _ => ~~~a) kd ks2 ks2 s)
def execKmov (kd ks2 : MReg) (s : State) : Host.Outcome State Fault Refusal := finish (maskForm (fun a _ => a) kd ks2 ks2 s)

/-- `kpop` and `kfirst`: whole instructions that reply (R106, R111), under any legal VTYPE (R109) but EW 100 with FAM 01,
which R82 lets no instruction accept (log 62). -/
def maskReply (f : Strand → List Nat → Word) (rd : Reg) (ks2 : MReg) (s : State) : Res State := do
  let s ← s.replyGate clsVA [ks2]
  require (s.cur.vtypeOk && s.cur.g != 0 && s.cur.vstart == 0) .illegal s
  let v := f s.cur ((List.range s.cur.vl).filter (s.cur.kbit ks2))
  return (s.onCur fun t => t.pushReply { float := false, rd := rd, val := v }).vectorDone

def execKpop (rd : Reg) (ks2 : MReg) (s : State) : Host.Outcome State Fault Refusal :=
  finish (maskReply (fun _ l => BitVec.ofNat 64 l.length) rd ks2 s)

/-- Bit VL of k7 marks the element at which a fault-only-first load trimmed VL (R145): `kfirst` of k7 finds it. -/
def Strand.trimMark (t : Strand) (ks2 : MReg) : Bool := ks2 == 7 && t.trimAt == some t.vl && t.kbit 7 t.vl

/-- The reply of `kfirst`: the lowest set bit below VL, or the mark of a trim at VL, or −1 (R129, R145, log 38). -/
def firstSet (ks2 : MReg) (t : Strand) : List Nat → Word
  | i :: _ => BitVec.ofNat 64 i
  | [] => if t.trimMark ks2 then BitVec.ofNat 64 t.vl else BitVec.allOnes 64

def execKfirst (rd : Reg) (ks2 : MReg) (s : State) : Host.Outcome State Fault Refusal :=
  finish (maskReply (firstSet ks2) rd ks2 s)

end Sys2Proof.Machine
end

