-- ==== Sys2Proof/Machine/VectorPerm.lean ====
section
/-! DEFINITION. The whole permutes (R129, R130). -/

namespace Sys2Proof.Machine

/-- A whole permute: VSTART 0 (R106), the destination sharing no register with a source (R107); `f` lists the elements
written. -/
def permForm (ks : List MReg) (vd : Reg) (srcs : List Reg) (f : Strand → List (Nat × Nat)) (s : State) : Res State :=
  s.vectorOp clsV ks srcs [vd]
    (fun t => t.fmtAny && t.vstart == 0 && t.groupsOk (vd :: srcs) && srcs.all fun r => disjoint vd t.grp r t.grp)
    (fun t =>
      { t with
        v := setElems t.v t.g vd.val t.ew (f t)
        vdirty := if t.vl > 0 then dirty t.vdirty vd.val t.grp else t.vdirty })

/-- `vslideup` by an offset. -/
def slideUp (vm : Bool) (vs2 : Reg) (off : Strand → Nat) (t : Strand) : List (Nat × Nat) :=
  ((t.actives vm).filter fun i => off t ≤ i).map fun i => (i, t.elem vs2 t.ew (i - off t))

/-- `vslidedn` by an offset. -/
def slideDn (vm : Bool) (vs2 : Reg) (off : Strand → Nat) (t : Strand) : List (Nat × Nat) :=
  (t.actives vm).map fun i => (i, if i + off t < t.vlmax then t.elem vs2 t.ew (i + off t) else 0)

/-- `vperm`: an index at or above VLMAX gives 0. -/
def permute (vm : Bool) (vs2 vs1 : Reg) (t : Strand) : List (Nat × Nat) :=
  (t.actives vm).map fun i =>
    let j := t.elem vs1 t.ew i
    (i, if j < t.vlmax then t.elem vs2 t.ew j else 0)

/-- The elements below VL that a mask register selects. -/
def Strand.selected (t : Strand) (k : MReg) : List Nat := (List.range t.vl).filter (t.kbit k)

def compress (vs2 : Reg) (ks1 : MReg) (t : Strand) : List (Nat × Nat) :=
  ((t.selected ks1).zipIdx).map fun p => (p.2, t.elem vs2 t.ew p.1)

def expand (vs2 : Reg) (ks1 : MReg) (t : Strand) : List (Nat × Nat) :=
  ((t.selected ks1).zipIdx).map fun p => (p.1, t.elem vs2 t.ew p.2)

def execVslideupVx (a : FVX) (s : State) : Host.Outcome State Fault Refusal :=
  finish (permForm (maskOf a.vm) a.vd [a.vs2] (slideUp a.vm a.vs2 fun t => (t.getX a.rs1).toNat) s)

def execVslideupVi (a : FVI) (s : State) : Host.Outcome State Fault Refusal :=
  finish (permForm (maskOf a.vm) a.vd [a.vs2] (slideUp a.vm a.vs2 fun _ => a.imm.toNat) s)

def execVslidednVx (a : FVX) (s : State) : Host.Outcome State Fault Refusal :=
  finish (permForm (maskOf a.vm) a.vd [a.vs2] (slideDn a.vm a.vs2 fun t => (t.getX a.rs1).toNat) s)

def execVslidednVi (a : FVI) (s : State) : Host.Outcome State Fault Refusal :=
  finish (permForm (maskOf a.vm) a.vd [a.vs2] (slideDn a.vm a.vs2 fun _ => a.imm.toNat) s)

def execVpermVv (a : FVV) (s : State) : Host.Outcome State Fault Refusal :=
  finish (permForm (maskOf a.vm) a.vd [a.vs2, a.vs1] (permute a.vm a.vs2 a.vs1) s)

def execVcompress (_c2 : Bool) (vd vs2 : Reg) (ks1 : MReg) (s : State) : Host.Outcome State Fault Refusal :=
  finish (permForm [ks1] vd [vs2] (compress vs2 ks1) s)

def execVexpand (_c2 : Bool) (vd vs2 : Reg) (ks1 : MReg) (s : State) : Host.Outcome State Fault Refusal :=
  finish (permForm [ks1] vd [vs2] (expand vs2 ks1) s)

end Sys2Proof.Machine
end

