-- ==== Sys2Proof/Machine/VectorFloat.lean ====
section
/-! DEFINITION. Floating-point arithmetic on vectors (R118, R119, R95) and the splat of an f register (R126). An
element operation takes the format, how to round, a = vs2.e[i], b (R108) and d = vd.e[i]. -/

namespace Sys2Proof.Machine

/-! ### Element operations -/

/-- Element operation on floats: format, rounding, a, b, d to result and flags. -/
abbrev FloatOp := Fmt → Round → Nat → Nat → Nat → Nat × Nat

def opFadd : FloatOp := fun f r a b _ => f.add r a b
def opFsub : FloatOp := fun f r a b _ => f.sub r a b
def opFrsub : FloatOp := fun f r a b _ => f.sub r b a
def opFmul : FloatOp := fun f r a b _ => f.mul r a b
def opFdiv : FloatOp := fun f r a b _ => f.div r a b
def opFrdiv : FloatOp := fun f r a b _ => f.div r b a
def opFmin : FloatOp := fun f r a b _ => f.minmax false (f.flushIn r.ftz a) (f.flushIn r.ftz b)
def opFmax : FloatOp := fun f r a b _ => f.minmax true (f.flushIn r.ftz a) (f.flushIn r.ftz b)
def opFmacc : FloatOp := fun f r a b d => f.fma r false false a b d
def opFnmacc : FloatOp := fun f r a b d => f.fma r true true a b d
def opFmsac : FloatOp := fun f r a b d => f.fma r false true a b d
def opFnmsac : FloatOp := fun f r a b d => f.fma r true false a b d
/-- The sign bit of a pattern as a Bool. -/
def Fmt.sgn (f : Fmt) (a : Nat) : Bool := a / f.signBit % 2 == 1
def opFsgnj : FloatOp := fun f _ a b _ => (f.signed (f.sgn b) (a % f.signBit), 0)
def opFsgnjn : FloatOp := fun f _ a b _ => (f.signed (!(f.sgn b)) (a % f.signBit), 0)
def opFsgnjx : FloatOp := fun f _ a b _ => (f.signed (f.sgn a != f.sgn b) (a % f.signBit), 0)
def opFsqrt : FloatOp := fun f r a _ _ => f.sqrt r a
def opFrece : FloatOp := fun f _ a _ _ => f.recip a
def opFrsqe : FloatOp := fun f _ a _ _ => f.rsqrt a
def opFclass : FloatOp := fun f _ a _ _ => (f.classify a, 0)

/-! ### Forms -/

/-- An element-wise float instruction; `rounds` when it takes VRND's mode (R86). -/
def floatForm (rounds useD : Bool) (op : FloatOp) (vm : Bool) (vd vs2 : Reg) (srcs : List Reg)
    (b : Strand → Nat → Nat) (s : State) : Res State :=
  s.vectorOp clsV (maskOf vm) (vs2 :: srcs ++ if useD then [vd] else []) [vd]
    (fun t => t.fmtFloat && t.groupsOk (vd :: vs2 :: srcs) && (!rounds || t.rmOk))
    (fun t => t.mapElems (t.actives vm) vd t.ew t.grp fun i =>
      op t.fmt t.round (t.elem vs2 t.ew i) (b t i) (t.elem vd t.ew i))

def floatVV (rounds useD : Bool) (op : FloatOp) (a : FVV) (s : State) : Res State :=
  floatForm rounds useD op a.vm a.vd a.vs2 [a.vs1] (fun t i => t.elem a.vs1 t.ew i) s

def floatVF (rounds useD : Bool) (op : FloatOp) (a : FVX) (s : State) : Res State :=
  floatForm rounds useD op a.vm a.vd a.vs2 [] (fun t _ => fOperand t.f[a.rs1] t.fmt) s

def floatU (rounds : Bool) (op : FloatOp) (a : FVU) (s : State) : Res State :=
  floatForm rounds false op a.vm a.vd a.vs2 [] (fun _ _ => 0) s

/-! ### .vv -/

def execVfaddVv (a : FVV) (s : State) : Host.Outcome State Fault Refusal := finish (floatVV true false opFadd a s)
def execVfsubVv (a : FVV) (s : State) : Host.Outcome State Fault Refusal := finish (floatVV true false opFsub a s)
def execVfmulVv (a : FVV) (s : State) : Host.Outcome State Fault Refusal := finish (floatVV true false opFmul a s)
def execVfdivVv (a : FVV) (s : State) : Host.Outcome State Fault Refusal := finish (floatVV true false opFdiv a s)
def execVfminVv (a : FVV) (s : State) : Host.Outcome State Fault Refusal := finish (floatVV false false opFmin a s)
def execVfmaxVv (a : FVV) (s : State) : Host.Outcome State Fault Refusal := finish (floatVV false false opFmax a s)
def execVfmaccVv (a : FVV) (s : State) : Host.Outcome State Fault Refusal := finish (floatVV true true opFmacc a s)
def execVfnmaccVv (a : FVV) (s : State) : Host.Outcome State Fault Refusal := finish (floatVV true true opFnmacc a s)
def execVfmsacVv (a : FVV) (s : State) : Host.Outcome State Fault Refusal := finish (floatVV true true opFmsac a s)
def execVfnmsacVv (a : FVV) (s : State) : Host.Outcome State Fault Refusal := finish (floatVV true true opFnmsac a s)
def execVfsgnjVv (a : FVV) (s : State) : Host.Outcome State Fault Refusal := finish (floatVV false false opFsgnj a s)
def execVfsgnjnVv (a : FVV) (s : State) : Host.Outcome State Fault Refusal := finish (floatVV false false opFsgnjn a s)
def execVfsgnjxVv (a : FVV) (s : State) : Host.Outcome State Fault Refusal := finish (floatVV false false opFsgnjx a s)

/-! ### .vf -/

def execVfaddVf (a : FVX) (s : State) : Host.Outcome State Fault Refusal := finish (floatVF true false opFadd a s)
def execVfsubVf (a : FVX) (s : State) : Host.Outcome State Fault Refusal := finish (floatVF true false opFsub a s)
def execVfmulVf (a : FVX) (s : State) : Host.Outcome State Fault Refusal := finish (floatVF true false opFmul a s)
def execVfdivVf (a : FVX) (s : State) : Host.Outcome State Fault Refusal := finish (floatVF true false opFdiv a s)
def execVfminVf (a : FVX) (s : State) : Host.Outcome State Fault Refusal := finish (floatVF false false opFmin a s)
def execVfmaxVf (a : FVX) (s : State) : Host.Outcome State Fault Refusal := finish (floatVF false false opFmax a s)
def execVfmaccVf (a : FVX) (s : State) : Host.Outcome State Fault Refusal := finish (floatVF true true opFmacc a s)
def execVfnmaccVf (a : FVX) (s : State) : Host.Outcome State Fault Refusal := finish (floatVF true true opFnmacc a s)
def execVfmsacVf (a : FVX) (s : State) : Host.Outcome State Fault Refusal := finish (floatVF true true opFmsac a s)
def execVfnmsacVf (a : FVX) (s : State) : Host.Outcome State Fault Refusal := finish (floatVF true true opFnmsac a s)
def execVfsgnjVf (a : FVX) (s : State) : Host.Outcome State Fault Refusal := finish (floatVF false false opFsgnj a s)
def execVfsgnjnVf (a : FVX) (s : State) : Host.Outcome State Fault Refusal := finish (floatVF false false opFsgnjn a s)
def execVfsgnjxVf (a : FVX) (s : State) : Host.Outcome State Fault Refusal := finish (floatVF false false opFsgnjx a s)
def execVfrsubVf (a : FVX) (s : State) : Host.Outcome State Fault Refusal := finish (floatVF true false opFrsub a s)
def execVfrdivVf (a : FVX) (s : State) : Host.Outcome State Fault Refusal := finish (floatVF true false opFrdiv a s)

/-! ### Unary -/

def execVfsqrt (a : FVU) (s : State) : Host.Outcome State Fault Refusal := finish (floatU true opFsqrt a s)
def execVfrece (a : FVU) (s : State) : Host.Outcome State Fault Refusal := finish (floatU false opFrece a s)
def execVfrsqe (a : FVU) (s : State) : Host.Outcome State Fault Refusal := finish (floatU false opFrsqe a s)
def execVfclass (a : FVU) (s : State) : Host.Outcome State Fault Refusal := finish (floatU false opFclass a s)

/-! ### Splat of an f register (R126) -/

def execVfsplat (vm : Bool) (vd rs1 : Reg) (s : State) : Host.Outcome State Fault Refusal :=
  finish (s.vectorOp clsV (maskOf vm) [] [vd] (fun t => t.fmtFloat && t.groupsOk [vd])
    (fun t => t.mapElems (t.actives vm) vd t.ew t.grp fun _ => (fOperand t.f[rs1] t.fmt, 0)))

end Sys2Proof.Machine
end

