-- ==== Sys2Proof/Machine/VectorReduce.lean ====
section
/-! DEFINITION. Reductions (R96 to R98, R123) and the moves of element 0 (R124). -/

namespace Sys2Proof.Machine

/-- A reduction: whole (R106); only vd.e[0] is written, and VDIRTY bit vd is set (R123). `f` folds the seed and the
active elements. -/
def redForm (ok : Strand → Bool) (a : FVV) (f : Strand → Nat → List (Nat × Nat) → Nat × Nat) (s : State) : Res State :=
  s.vectorOp clsV (maskOf a.vm) [a.vs2, a.vs1] [a.vd]
    (fun t => ok t && t.vstart == 0 && t.groupsOk [a.vd, a.vs2, a.vs1])
    (fun t =>
      let r := f t (t.elem a.vs1 t.ew 0) ((t.actives a.vm).map fun i => (i, t.elem a.vs2 t.ew i))
      { (t.accrue r.2) with
        v := setElem t.v t.g a.vd.val t.ew 0 r.1
        vdirty := dirty t.vdirty a.vd.val 1 })

/-- Integer fold, element by element (R98). -/
def intRed (op : ElemOp) (a : FVV) (s : State) : Res State :=
  redForm Strand.fmtInt a (fun t seed es => (es.foldl (fun acc e => (op t.ew acc e.2 0).1) seed, 0)) s

/-- A fold of floats that accrues flags. -/
def foldFlags (op : Nat → Nat → Nat × Nat) (seed : Nat) (es : List Nat) : Nat × Nat :=
  es.foldl (fun acc e => let r := op acc.1 e; (r.1, acc.2 ||| r.2)) (seed, 0)

/-- One combination of the tree (R97): EMPTY leaves the other operand unchanged. -/
def treeJoin (op : Nat → Nat → Nat × Nat) : Option Nat → Option Nat → Option Nat × Nat
  | none, b => (b, 0)
  | a, none => (a, 0)
  | some a, some b => let r := op a b; (some r.1, r.2)

/-- One level of the tree over adjacent pairs; a last element without a partner passes up. -/
def treeLevel (op : Nat → Nat → Nat × Nat) : List (Option Nat) → List (Option Nat) × Nat
  | a :: b :: l =>
    let j := treeJoin op a b
    let r := treeLevel op l
    (j.1 :: r.1, j.2 ||| r.2)
  | l => (l, 0)

/-- n levels of the tree. -/
def treeLevels (op : Nat → Nat → Nat × Nat) : Nat → List (Option Nat) → List (Option Nat) × Nat
  | 0, l => (l, 0)
  | n + 1, l =>
    let r := treeLevel op l
    let q := treeLevels op n r.1
    (q.1, r.2 ||| q.2)

/-- Tree sum of at most 4,096 elements with the seed added last (R97). -/
def treeSum (op : Nat → Nat → Nat × Nat) (seed : Nat) (l : List (Option Nat)) : Nat × Nat :=
  let r := treeLevels op 12 l
  match r.1 with
  | some v :: _ => let q := op seed v; (q.1, r.2 ||| q.2)
  | _ => (seed, 0)

/-- Folds of R98 with FTZ's reading of each operand; without active elements the seed bit for bit. -/
def minmaxRed (isMax : Bool) (a : FVV) (s : State) : Res State :=
  redForm Strand.fmtFloat a (fun t seed es =>
    if es = [] then (seed, 0)
    else foldFlags (t.fmt.minmax isMax) (t.fmt.flushIn t.round.ftz seed)
      (es.map fun e => t.fmt.flushIn t.round.ftz e.2)) s

/-- A pattern with its sign bit cleared. -/
def Fmt.mag (f : Fmt) (b : Nat) : Nat := b % f.signBit

/-- The fold of magnitudes (R98). -/
def amaxFold (f : Fmt) (ftz : Bool) (seed : Nat) (es : List Nat) : Nat × Nat :=
  if es = [] then
    if (f.val seed).isNan then (f.nanBits, nvIf [f.val seed]) else (f.mag seed, 0)
  else foldFlags (f.minmax true) (f.flushIn ftz (f.mag seed)) (es.map fun e => f.flushIn ftz (f.mag e))

def execVredsum (a : FVV) (s : State) : Host.Outcome State Fault Refusal := finish (intRed opAdd a s)
def execVredmax (a : FVV) (s : State) : Host.Outcome State Fault Refusal := finish (intRed opMax a s)
def execVredmin (a : FVV) (s : State) : Host.Outcome State Fault Refusal := finish (intRed opMin a s)
def execVredmaxn (a : FVV) (s : State) : Host.Outcome State Fault Refusal := finish (intRed opMaxn a s)
def execVredminn (a : FVV) (s : State) : Host.Outcome State Fault Refusal := finish (intRed opMinn a s)
def execVredand (a : FVV) (s : State) : Host.Outcome State Fault Refusal := finish (intRed opAnd a s)
def execVredor (a : FVV) (s : State) : Host.Outcome State Fault Refusal := finish (intRed opOr a s)

def execVfredo (a : FVV) (s : State) : Host.Outcome State Fault Refusal :=
  finish (redForm (fun t => t.fmtFloat && t.rmOk) a
    (fun t seed es => foldFlags (fun x y => t.fmt.add t.round x y) seed (es.map (·.2))) s)

def execVfredt (a : FVV) (s : State) : Host.Outcome State Fault Refusal :=
  finish (redForm (fun t => t.fmtFloat && t.rmOk) a
    (fun t seed _ => treeSum (fun x y => t.fmt.add t.round x y) seed
      ((List.range t.vl).map fun i => if t.active a.vm i then some (t.elem a.vs2 t.ew i) else none)) s)

def execVfredmax (a : FVV) (s : State) : Host.Outcome State Fault Refusal := finish (minmaxRed true a s)
def execVfredmin (a : FVV) (s : State) : Host.Outcome State Fault Refusal := finish (minmaxRed false a s)

def execVfredamax (a : FVV) (s : State) : Host.Outcome State Fault Refusal :=
  finish (redForm Strand.fmtFloat a (fun t seed es => amaxFold t.fmt t.round.ftz seed (es.map (·.2))) s)

/-! ### Element 0 to a scalar register (R124) -/

/-- A move of element 0 through the reply queue. -/
def moveForm (cs : List Cls) (ok : Strand → Bool) (vs2 : Reg) (r : Strand → Nat → Reply) (s : State) : Res State := do
  let s ← s.replyGate cs []
  require (ok s.cur && s.cur.groupsOk [vs2]) .illegal s
  let s ← s.streamIn [vs2] []
  return (s.onCur fun t => t.pushReply (r t (t.elem vs2 t.ew 0))).vectorDone

def execVmvxs (_c2 : Bool) (rd vs2 : Reg) (s : State) : Host.Outcome State Fault Refusal :=
  finish (moveForm clsVA Strand.fmtAny vs2 (fun t e =>
    { float := false, rd := rd,
      val := if vtFam t.vtype = 1 then BitVec.ofNat 64 e else BitVec.ofInt 64 (signedOf t.ew e) }) s)

def execVmvfs (_c2 : Bool) (rd vs2 : Reg) (s : State) : Host.Outcome State Fault Refusal :=
  finish (moveForm clsV Strand.fmtFloat vs2 (fun t e => { float := true, rd := rd, val := nanBox t.ew e }) s)

end Sys2Proof.Machine
end

