-- ==== Sys2Proof/Machine/Inflight.lean ====
section
/-! DEFINITION. Vector instructions that issue behind one stopped by a translation fault: what each reads and writes, the
element groups passed on to chained consumers (R70, R112, R113, R148, R150, R294), the elements that must wait, and the
entries a bookmark records of them (R276, R277). How many of those that may issue do before the strand stops is timing, a
free value (log 10). -/

namespace Sys2Proof.Machine

/-- Pages that fault: the address of the lowest element, the cause, the access bits (R273). -/
abbrev Pages := List (Nat × Nat × Nat)

/-- Accesses: address, bytes, a store. -/
abbrev Bytes := List (Int × Nat × Bool)

/-! ### What an instruction reads and writes -/

/-- A vector source: its first register, its element width as a multiple of EW, its chain bit. -/
structure VSrc where
  reg : Reg
  mul : Nat
  chain : Bool
  deriving DecidableEq, Repr

/-- The scalar operand that XOP records (R276). -/
inductive XSrc
  | none
  | x (r : Reg)
  | f (r : Reg)
  | imm (w : Word)
  deriving DecidableEq, Repr

/-- The pipes of a strand (R112, R148). -/
inductive Pipe
  /-- None of the three: mask logic, copy commands. -/
  | none
  | arith | load | store
  deriving DecidableEq, Repr

/-- An instruction as others see it: vector sources, destination with its width factor, masks read besides k0 under vm,
mask written, FLG, scalar operand, base register; whether it is whole (R106), divides (R112), or reads element 0 of its
source only; the scalar register (an f register?) it replies to (R111); its memory form, or the width and direction of its
core-local one; whether what follows it issues only once it has begun (R164); its meaning, if it can issue behind a
fault. -/
structure VRow where
  srcs : List VSrc
  dst : Option (Reg × Nat)
  vm : Bool
  run : Option (State → Host.Outcome State Fault Refusal)
  flg : Nat := 0
  ks : List MReg := []
  kd : Option MReg := none
  xop : XSrc := .none
  entireForm : Bool := false
  divides : Bool := false
  pipe : Pipe := .arith
  mem : Option VMem := none
  base : Option Reg := none
  loc : Option (Fin 4 × Bool) := none
  single : Bool := false
  reply : Option (Bool × Reg) := none
  ends : Bool := false

/-- The meaning of an instruction, as a row of the table holds it. -/
abbrev Meaning := State → Host.Outcome State Fault Refusal

/-- A fused form also reads its destination, which has no chain bit. -/
def VRow.fused (r : VRow) (vd : Reg) : VRow := { r with srcs := r.srcs ++ [⟨vd, 1, false⟩] }
def VRow.slow (r : VRow) : VRow := { r with divides := true }
def VRow.entire (r : VRow) : VRow := { r with entireForm := true }
/-- The width factors of a conversion's source and destination. -/
def VRow.widths (r : VRow) (fs fd : Nat) : VRow :=
  { r with srcs := r.srcs.map fun q => { q with mul := fs }, dst := r.dst.map fun d => (d.1, fd) }

def rowVV (a : FVV) (f : Meaning) : VRow :=
  { srcs := [⟨a.vs2, 1, a.c2⟩, ⟨a.vs1, 1, a.c1⟩], dst := some (a.vd, 1), vm := a.vm, run := some f,
    flg := boolBit a.c1 0 + boolBit a.c2 1 }
def rowU (vm c2 : Bool) (vs2 vd : Reg) (f : Meaning) : VRow :=
  { srcs := [⟨vs2, 1, c2⟩], dst := some (vd, 1), vm := vm, run := some f, flg := boolBit c2 1 }
def rowVX (x : XSrc) (a : FVX) (f : Meaning) : VRow := { rowU a.vm a.c2 a.vs2 a.vd f with xop := x }
/-- An immediate: zero-extended for shifts and slides, else sign-extended (R108). -/
def rowVI (unsigned : Bool) (a : FVI) (f : Meaning) : VRow :=
  { rowU a.vm a.c2 a.vs2 a.vd f with xop := .imm (if unsigned then a.imm.zeroExtend 64 else a.imm.signExtend 64) }
def rowOut (vm : Bool) (vd : Reg) (f : Meaning) : VRow := { srcs := [], dst := some (vd, 1), vm := vm, run := some f }
/-- `vmerge` reads k0 and writes every element of its range (R131). -/
def rowMerge (srcs : List VSrc) (flg : Nat) (vd : Reg) (x : XSrc) (f : Meaning) : VRow :=
  { srcs := srcs, dst := some (vd, 1), vm := false, run := some f, flg := flg, ks := [0], xop := x }
def rowKVV (a : FKVV) (f : Meaning) : VRow :=
  { srcs := [⟨a.vs2, 1, a.c2⟩, ⟨a.vs1, 1, a.c1⟩], dst := none, vm := a.vm, run := some f, kd := some a.kd,
    flg := boolBit a.c1 0 + boolBit a.c2 1 }
def rowKVX (x : XSrc) (a : FKVX) (f : Meaning) : VRow :=
  { srcs := [⟨a.vs2, 1, a.c2⟩], dst := none, vm := a.vm, run := some f, kd := some a.kd, flg := boolBit a.c2 1,
    xop := x }
def rowKVI (a : FKVI) (f : Meaning) : VRow :=
  { srcs := [⟨a.vs2, 1, a.c2⟩], dst := none, vm := a.vm, run := some f, kd := some a.kd, flg := boolBit a.c2 1,
    xop := .imm (a.imm.signExtend 64) }
def rowK (ks : List MReg) (kd : MReg) (f : Meaning) : VRow :=
  { srcs := [], dst := none, vm := false, run := some f, ks := ks, kd := some kd, entireForm := true, pipe := .none }
/-- A reply of element 0 or of a mask (R111, R124, R128). -/
def rowReply (srcs : List VSrc) (ks : List MReg) (flg : Nat) (float : Bool) (rd : Reg) (f : Meaning) : VRow :=
  { srcs := srcs, dst := none, vm := false, run := some f, flg := flg, ks := ks, entireForm := true,
    single := srcs != [], reply := some (float, rd) }
/-- A core-local load or store (R146). -/
def rowLocal (isLoad vm chain : Bool) (w : Fin 4) (base vd : Reg) (f : Meaning) : VRow :=
  { srcs := if isLoad then [] else [⟨vd, 1, chain⟩], dst := if isLoad then some (vd, 1) else none, vm := vm, run := some f,
    flg := boolBit chain 2, base := some base, loc := some (w, isLoad), pipe := if isLoad then .load else .store }
/-- `cpgr` and `cpsc` (R166). -/
def rowCopy (a : FCopyV) (f : Meaning) : VRow :=
  { srcs := [⟨a.vs2, 1, a.c⟩], dst := none, vm := false, run := some f, flg := boolBit a.c 1, kd := a.kd,
    base := some a.base, entireForm := true, pipe := .none, ends := true }
/-- A load or store: bit c is of the index vector of an indexed form and of the data vector of a store (R143's table; R67
names one of the two for an indexed store; DEDUCED, log 62). -/
def rowMem (v : VMem) : VRow :=
  { srcs := (match v.mode with | .indexed vs2 _ => [⟨vs2, 1, v.chain⟩] | _ => [])
      ++ (if v.isLoad then [] else [⟨v.vd, 1, v.chain⟩])
    dst := if v.isLoad then some (v.vd, 1) else none
    vm := v.vm, run := none, flg := boolBit v.chain 2, pipe := if v.isLoad then .load else .store, mem := some v }
/-- A memory instruction that a fault leaves not started; nothing of its kind issues behind a fault (log 10). -/
def rowWhole (srcs : List Reg) (dst : Option Reg) (ks : List MReg) (kd : Option MReg) : VRow :=
  { srcs := srcs.map fun r => ⟨r, 1, false⟩, dst := dst.map fun r => (r, 1), vm := false, run := none, ks := ks,
    kd := kd, entireForm := true, pipe := .store }

/-- Integer arithmetic on two vectors (R117). -/
def rowsIntVv : Instr → Option VRow
  | .vaddVv a => some (rowVV a (execVaddVv a))
  | .vsubVv a => some (rowVV a (execVsubVv a))
  | .vmulVv a => some (rowVV a (execVmulVv a))
  | .vmulhVv a => some (rowVV a (execVmulhVv a))
  | .vmulhnVv a => some (rowVV a (execVmulhnVv a))
  | .vmaccVv a => some ((rowVV a (execVmaccVv a)).fused a.vd)
  | .vnmsacVv a => some ((rowVV a (execVnmsacVv a)).fused a.vd)
  | .vminVv a => some (rowVV a (execVminVv a))
  | .vmaxVv a => some (rowVV a (execVmaxVv a))
  | .vminnVv a => some (rowVV a (execVminnVv a))
  | .vmaxnVv a => some (rowVV a (execVmaxnVv a))
  | .vandVv a => some (rowVV a (execVandVv a))
  | .vorVv a => some (rowVV a (execVorVv a))
  | .vxorVv a => some (rowVV a (execVxorVv a))
  | .vsllVv a => some (rowVV a (execVsllVv a))
  | .vsrlVv a => some (rowVV a (execVsrlVv a))
  | .vsraVv a => some (rowVV a (execVsraVv a))
  | .vdivVv a => some ((rowVV a (execVdivVv a)).slow)
  | .vdivnVv a => some ((rowVV a (execVdivnVv a)).slow)
  | .vremVv a => some ((rowVV a (execVremVv a)).slow)
  | .vremnVv a => some ((rowVV a (execVremnVv a)).slow)
  | .vsaddVv a => some (rowVV a (execVsaddVv a))
  | .vsaddnVv a => some (rowVV a (execVsaddnVv a))
  | .vssubVv a => some (rowVV a (execVssubVv a))
  | .vssubnVv a => some (rowVV a (execVssubnVv a))
  | _ => none

/-- Integer arithmetic with a scalar or an immediate, splats, merges, indices (R117, R125, R131). -/
def rowsInt : Instr → Option VRow
  | .vaddVx a => some (rowVX (.x a.rs1) a (execVaddVx a))
  | .vsubVx a => some (rowVX (.x a.rs1) a (execVsubVx a))
  | .vmulVx a => some (rowVX (.x a.rs1) a (execVmulVx a))
  | .vmulhVx a => some (rowVX (.x a.rs1) a (execVmulhVx a))
  | .vmulhnVx a => some (rowVX (.x a.rs1) a (execVmulhnVx a))
  | .vmaccVx a => some ((rowVX (.x a.rs1) a (execVmaccVx a)).fused a.vd)
  | .vnmsacVx a => some ((rowVX (.x a.rs1) a (execVnmsacVx a)).fused a.vd)
  | .vminVx a => some (rowVX (.x a.rs1) a (execVminVx a))
  | .vmaxVx a => some (rowVX (.x a.rs1) a (execVmaxVx a))
  | .vminnVx a => some (rowVX (.x a.rs1) a (execVminnVx a))
  | .vmaxnVx a => some (rowVX (.x a.rs1) a (execVmaxnVx a))
  | .vandVx a => some (rowVX (.x a.rs1) a (execVandVx a))
  | .vorVx a => some (rowVX (.x a.rs1) a (execVorVx a))
  | .vxorVx a => some (rowVX (.x a.rs1) a (execVxorVx a))
  | .vsllVx a => some (rowVX (.x a.rs1) a (execVsllVx a))
  | .vsrlVx a => some (rowVX (.x a.rs1) a (execVsrlVx a))
  | .vsraVx a => some (rowVX (.x a.rs1) a (execVsraVx a))
  | .vdivVx a => some ((rowVX (.x a.rs1) a (execVdivVx a)).slow)
  | .vdivnVx a => some ((rowVX (.x a.rs1) a (execVdivnVx a)).slow)
  | .vremVx a => some ((rowVX (.x a.rs1) a (execVremVx a)).slow)
  | .vremnVx a => some ((rowVX (.x a.rs1) a (execVremnVx a)).slow)
  | .vsaddVx a => some (rowVX (.x a.rs1) a (execVsaddVx a))
  | .vsaddnVx a => some (rowVX (.x a.rs1) a (execVsaddnVx a))
  | .vssubVx a => some (rowVX (.x a.rs1) a (execVssubVx a))
  | .vssubnVx a => some (rowVX (.x a.rs1) a (execVssubnVx a))
  | .vrsubVx a => some (rowVX (.x a.rs1) a (execVrsubVx a))
  | .vaddVi a => some (rowVI false a (execVaddVi a))
  | .vandVi a => some (rowVI false a (execVandVi a))
  | .vorVi a => some (rowVI false a (execVorVi a))
  | .vxorVi a => some (rowVI false a (execVxorVi a))
  | .vsllVi a => some (rowVI true a (execVsllVi a))
  | .vsrlVi a => some (rowVI true a (execVsrlVi a))
  | .vsraVi a => some (rowVI true a (execVsraVi a))
  | .vsaddVi a => some (rowVI false a (execVsaddVi a))
  | .vsaddnVi a => some (rowVI false a (execVsaddnVi a))
  | .vrsubVi a => some (rowVI false a (execVrsubVi a))
  | .vsplatVx vm vd rs1 => some ({ rowOut vm vd (execVsplatVx vm vd rs1) with xop := .x rs1 })
  | .vsplatVi vm vd imm => some ({ rowOut vm vd (execVsplatVi vm vd imm) with xop := .imm (imm.signExtend 64) })
  | .vid vm vd => some (rowOut vm vd (execVid vm vd))
  | .vmergeVv c2 c1 vd vs2 vs1 =>
    some (rowMerge [⟨vs2, 1, c2⟩, ⟨vs1, 1, c1⟩] (boolBit c1 0 + boolBit c2 1) vd .none
      (execVmergeVv c2 c1 vd vs2 vs1))
  | .vmergeVx c2 vd vs2 rs1 => some (rowMerge [⟨vs2, 1, c2⟩] (boolBit c2 1) vd (.x rs1) (execVmergeVx c2 vd vs2 rs1))
  | .vmergeVi c2 vd vs2 imm =>
    some (rowMerge [⟨vs2, 1, c2⟩] (boolBit c2 1) vd (.imm (imm.signExtend 64)) (execVmergeVi c2 vd vs2 imm))
  | _ => none

/-- Floating-point arithmetic (R95, R118, R119, R126). -/
def rowsFloat : Instr → Option VRow
  | .vfaddVv a => some (rowVV a (execVfaddVv a))
  | .vfsubVv a => some (rowVV a (execVfsubVv a))
  | .vfmulVv a => some (rowVV a (execVfmulVv a))
  | .vfdivVv a => some ((rowVV a (execVfdivVv a)).slow)
  | .vfminVv a => some (rowVV a (execVfminVv a))
  | .vfmaxVv a => some (rowVV a (execVfmaxVv a))
  | .vfmaccVv a => some ((rowVV a (execVfmaccVv a)).fused a.vd)
  | .vfnmaccVv a => some ((rowVV a (execVfnmaccVv a)).fused a.vd)
  | .vfmsacVv a => some ((rowVV a (execVfmsacVv a)).fused a.vd)
  | .vfnmsacVv a => some ((rowVV a (execVfnmsacVv a)).fused a.vd)
  | .vfsgnjVv a => some (rowVV a (execVfsgnjVv a))
  | .vfsgnjnVv a => some (rowVV a (execVfsgnjnVv a))
  | .vfsgnjxVv a => some (rowVV a (execVfsgnjxVv a))
  | .vfsqrt a => some ((rowU a.vm a.c2 a.vs2 a.vd (execVfsqrt a)).slow)
  | .vfrece a => some (rowU a.vm a.c2 a.vs2 a.vd (execVfrece a))
  | .vfrsqe a => some (rowU a.vm a.c2 a.vs2 a.vd (execVfrsqe a))
  | .vfclass a => some (rowU a.vm a.c2 a.vs2 a.vd (execVfclass a))
  | .vfaddVf a => some (rowVX (.f a.rs1) a (execVfaddVf a))
  | .vfsubVf a => some (rowVX (.f a.rs1) a (execVfsubVf a))
  | .vfmulVf a => some (rowVX (.f a.rs1) a (execVfmulVf a))
  | .vfdivVf a => some ((rowVX (.f a.rs1) a (execVfdivVf a)).slow)
  | .vfminVf a => some (rowVX (.f a.rs1) a (execVfminVf a))
  | .vfmaxVf a => some (rowVX (.f a.rs1) a (execVfmaxVf a))
  | .vfmaccVf a => some ((rowVX (.f a.rs1) a (execVfmaccVf a)).fused a.vd)
  | .vfnmaccVf a => some ((rowVX (.f a.rs1) a (execVfnmaccVf a)).fused a.vd)
  | .vfmsacVf a => some ((rowVX (.f a.rs1) a (execVfmsacVf a)).fused a.vd)
  | .vfnmsacVf a => some ((rowVX (.f a.rs1) a (execVfnmsacVf a)).fused a.vd)
  | .vfsgnjVf a => some (rowVX (.f a.rs1) a (execVfsgnjVf a))
  | .vfsgnjnVf a => some (rowVX (.f a.rs1) a (execVfsgnjnVf a))
  | .vfsgnjxVf a => some (rowVX (.f a.rs1) a (execVfsgnjxVf a))
  | .vfrsubVf a => some (rowVX (.f a.rs1) a (execVfrsubVf a))
  | .vfrdivVf a => some ((rowVX (.f a.rs1) a (execVfrdivVf a)).slow)
  | .vfsplat vm vd rs1 => some ({ rowOut vm vd (execVfsplat vm vd rs1) with xop := .f rs1 })
  | _ => none

/-- Conversions (R92, R121). -/
def rowsCvt : Instr → Option VRow
  | .vfcvtfi a => some (rowU a.vm a.c2 a.vs2 a.vd (execVfcvtfi a))
  | .vfcvtif a => some (rowU a.vm a.c2 a.vs2 a.vd (execVfcvtif a))
  | .vfwcvt a => some ((rowU a.vm a.c2 a.vs2 a.vd (execVfwcvt a)).widths 1 2)
  | .vdqcvt a => some ((rowVX (.x a.rs1) a (execVdqcvt a)).widths 1 4)
  | .vncvti a => some ((rowU a.vm a.c2 a.vs2 a.vd (execVncvti a)).widths 2 1)
  | .vwcvti a => some ((rowU a.vm a.c2 a.vs2 a.vd (execVwcvti a)).widths 1 2)
  | .vfncvt a => some ((rowU a.vm a.c2 a.vs2 a.vd (execVfncvt a)).widths 2 1)
  | .vqcvt a => some ({ (rowU a.vm a.c2 a.vs2 a.vd (execVqcvt a)).widths 4 1 with xop := .x a.rs1 })
  | _ => none

/-- Compares (R120). -/
def rowsCmp : Instr → Option VRow
  | .vmseqVv a => some (rowKVV a (execVmseqVv a))
  | .vmsneVv a => some (rowKVV a (execVmsneVv a))
  | .vmsltVv a => some (rowKVV a (execVmsltVv a))
  | .vmsltnVv a => some (rowKVV a (execVmsltnVv a))
  | .vmsleVv a => some (rowKVV a (execVmsleVv a))
  | .vmslenVv a => some (rowKVV a (execVmslenVv a))
  | .vmseqVx a => some (rowKVX (.x a.rs1) a (execVmseqVx a))
  | .vmsneVx a => some (rowKVX (.x a.rs1) a (execVmsneVx a))
  | .vmsltVx a => some (rowKVX (.x a.rs1) a (execVmsltVx a))
  | .vmsltnVx a => some (rowKVX (.x a.rs1) a (execVmsltnVx a))
  | .vmsleVx a => some (rowKVX (.x a.rs1) a (execVmsleVx a))
  | .vmslenVx a => some (rowKVX (.x a.rs1) a (execVmslenVx a))
  | .vmseqVi a => some (rowKVI a (execVmseqVi a))
  | .vmsneVi a => some (rowKVI a (execVmsneVi a))
  | .vmsleVi a => some (rowKVI a (execVmsleVi a))
  | .vmslenVi a => some (rowKVI a (execVmslenVi a))
  | .vmfeqVv a => some (rowKVV a (execVmfeqVv a))
  | .vmfneVv a => some (rowKVV a (execVmfneVv a))
  | .vmfltVv a => some (rowKVV a (execVmfltVv a))
  | .vmfleVv a => some (rowKVV a (execVmfleVv a))
  | .vmfordVv a => some (rowKVV a (execVmfordVv a))
  | .vmfeqVf a => some (rowKVX (.f a.rs1) a (execVmfeqVf a))
  | .vmfneVf a => some (rowKVX (.f a.rs1) a (execVmfneVf a))
  | .vmfltVf a => some (rowKVX (.f a.rs1) a (execVmfltVf a))
  | .vmfleVf a => some (rowKVX (.f a.rs1) a (execVmfleVf a))
  | .vmfordVf a => some (rowKVX (.f a.rs1) a (execVmfordVf a))
  | _ => none

/-- Reductions, permutes and mask logic (R96 to R98, R123, R128, R130). -/
def rowsWhole : Instr → Option VRow
  | .vredsum a => some ((rowVV a (execVredsum a)).entire)
  | .vredmax a => some ((rowVV a (execVredmax a)).entire)
  | .vredmin a => some ((rowVV a (execVredmin a)).entire)
  | .vredmaxn a => some ((rowVV a (execVredmaxn a)).entire)
  | .vredminn a => some ((rowVV a (execVredminn a)).entire)
  | .vredand a => some ((rowVV a (execVredand a)).entire)
  | .vredor a => some ((rowVV a (execVredor a)).entire)
  | .vfredo a => some ((rowVV a (execVfredo a)).entire)
  | .vfredt a => some ((rowVV a (execVfredt a)).entire)
  | .vfredmax a => some ((rowVV a (execVfredmax a)).entire)
  | .vfredmin a => some ((rowVV a (execVfredmin a)).entire)
  | .vfredamax a => some ((rowVV a (execVfredamax a)).entire)
  | .vslideupVx a => some ((rowVX (.x a.rs1) a (execVslideupVx a)).entire)
  | .vslideupVi a => some ((rowVI true a (execVslideupVi a)).entire)
  | .vslidednVx a => some ((rowVX (.x a.rs1) a (execVslidednVx a)).entire)
  | .vslidednVi a => some ((rowVI true a (execVslidednVi a)).entire)
  | .vpermVv a => some ((rowVV a (execVpermVv a)).entire)
  | .vcompress c2 vd vs2 ks1 => some ({ (rowU false c2 vs2 vd (execVcompress c2 vd vs2 ks1)).entire with ks := [ks1] })
  | .vexpand c2 vd vs2 ks1 => some ({ (rowU false c2 vs2 vd (execVexpand c2 vd vs2 ks1)).entire with ks := [ks1] })
  | .kand kd ks2 ks1 => some (rowK [ks2, ks1] kd (execKand kd ks2 ks1))
  | .kor kd ks2 ks1 => some (rowK [ks2, ks1] kd (execKor kd ks2 ks1))
  | .kxor kd ks2 ks1 => some (rowK [ks2, ks1] kd (execKxor kd ks2 ks1))
  | .kandn kd ks2 ks1 => some (rowK [ks2, ks1] kd (execKandn kd ks2 ks1))
  | .knot kd ks2 => some (rowK [ks2] kd (execKnot kd ks2))
  | .kmov kd ks2 => some (rowK [ks2] kd (execKmov kd ks2))
  | _ => none

/-- Replies, core-local accesses, and copy commands that read a vector (R111, R146, R166). -/
def rowsOther : Instr → Option VRow
  | .vmvxs c2 rd vs2 => some (rowReply [⟨vs2, 1, c2⟩] [] (boolBit c2 1) false rd (execVmvxs c2 rd vs2))
  | .vmvfs c2 rd vs2 => some (rowReply [⟨vs2, 1, c2⟩] [] (boolBit c2 1) true rd (execVmvfs c2 rd vs2))
  | .kpop rd ks2 => some (rowReply [] [ks2] 0 false rd (execKpop rd ks2))
  | .kfirst rd ks2 => some (rowReply [] [ks2] 0 false rd (execKfirst rd ks2))
  | .vldl a => some (rowLocal true a.vm false a.w a.base a.vd (execVldl a))
  | .vstl a => some (rowLocal false a.vm a.c a.w a.base a.vd (execVstl a))
  | .cpgr a => some (rowCopy a (execCpgr a))
  | .cpsc a => some (rowCopy a (execCpsc a))
  | _ => none

/-- Vector memory instructions (R143, R145, R147, R197). -/
def rowsMem : Instr → Option VRow
  | .vld a => some (rowMem (vmVld a))
  | .vst a => some (rowMem (vmVst a))
  | .vlds a => some (rowMem (vmVlds a))
  | .vsts a => some (rowMem (vmVsts a))
  | .vldxO a => some (rowMem (vmVldxO a))
  | .vstxO a => some (rowMem (vmVstxO a))
  | .vldx a => some (rowMem (vmVldx a))
  | .vstx a => some (rowMem (vmVstx a))
  | .vldff a => some (rowMem (vmVldff a))
  | .kld k _ => some (rowWhole [] none [] (some k))
  | .kst k _ => some (rowWhole [] none [k] none)
  | .vgl a => some (rowWhole [a.vs2] (some a.vd) (maskOf a.vm) none)
  | .vsc a => some (rowWhole [a.vd, a.vs2] none (maskOf a.vm) (some 6))
  | _ => none

/-- The row of an instruction; none: it neither is recorded by an entry of its own here nor issues behind a fault. -/
def vecRow (i : Instr) : Option VRow :=
  match amoCode i with
  | some (op, a) =>
    some (rowWhole (if op = 9 then [a.vd, succReg a.vd, a.vs2] else [a.vd, a.vs2]) (some a.vd) (maskOf a.vm) none)
  | none => firstSome (fun t : Instr → Option VRow => t i)
      [rowsIntVv, rowsInt, rowsFloat, rowsCvt, rowsCmp, rowsWhole, rowsOther, rowsMem]

/-! ### Element groups (R112, R113, R148) -/

/-- The widest element of an instruction as a multiple of EW. -/
def VRow.widest (r : VRow) : Nat := (r.srcs.map (·.mul) ++ (r.dst.map (·.2)).toList).foldl max 1

/-- Elements of an element group (R112, R148). The FP row, from which conversions take their rate, has none for a wider
element of 8 bits: `vncvti` and `vwcvti` at EW 4 take 8 elements to a lane, as the integer row has for 8 (DESIGN CHOICE,
log 10). -/
def Strand.groupSize (t : Strand) (r : VRow) : Nat :=
  let ln := if t.cls = .array then 8 else 8 * t.g
  match r.mem, r.loc with
  | some v, _ => (match v.mode with | .unit => ln * 64 / memBits v.w t.ew | _ => ln)
  | none, some (w, _) => ln * 64 / memBits w t.ew
  | none, none => max 1 (if r.divides then ln / 8 else ln * 64 / (t.ew * r.widest))

/-- The active elements are packed densely: fewer than KTHR, which counts as at most 4,096 (R60, R113). -/
def Strand.packs (t : Strand) (r : VRow) : Bool :=
  r.vm && !r.entireForm && decide ((t.actives true).length < min 4096 t.kthr.toNat)

/-- The element group of an element, counted from element 0 whatever VSTART is: R149 says where the first group of a
strided or indexed form begins, and no rule says it of the others (DESIGN CHOICE, log 10). -/
def Strand.groupOf (t : Strand) (r : VRow) (i : Nat) : Nat :=
  (if t.packs r then ((t.actives true).filter (· < i)).length else i) / t.groupSize r

/-- The elements of [VSTART, VL). -/
def Strand.range (t : Strand) : List Nat := (List.range t.vl).filter (t.vstart ≤ ·)

/-- The elements whose groups are passed on to a consumer or taken by one: the active ones of a packed instruction. -/
def Strand.grouped (t : Strand) (r : VRow) : List Nat := if t.packs r then t.actives true else t.range

/-- Those of a list from the first element group on that holds a listed element. -/
def Strand.fromGroup (t : Strand) (r : VRow) (stopped is : List Nat) : List Nat :=
  match (stopped.map (t.groupOf r)).min? with
  | none => []
  | some g => is.filter fun i => g ≤ t.groupOf r i

/-! ### What an instruction leaves undone -/

/-- The bits of vector registers. -/
abbrev VBits := Vector VReg 32

def VBits.none : VBits := Vector.replicate 32 0

/-- Elements marked in a group. -/
def Strand.mark (t : Strand) (b : VBits) (r : Reg) (mul : Nat) (is : List Nat) : VBits :=
  setElems b t.g r.val (mul * t.ew) (is.map fun i => (i, 2 ^ (mul * t.ew) - 1))

/-- Whole registers marked. -/
def VBits.regs (b : VBits) (r : Reg) (n : Nat) : VBits :=
  (List.range n).foldl (fun b k => b.setIfInBounds (r.val + k) (BitVec.allOnes 32768)) b

/-- Some bit of a group of n registers is marked. -/
def VBits.meets (b : VBits) (r : Reg) (n : Nat) : Bool := (List.range n).any fun k => b.getD (r.val + k) 0 != 0

/-- Element i of a group is marked. -/
def Strand.marked (t : Strand) (b : VBits) (r : Reg) (mul i : Nat) : Bool := getElem b t.g r.val (mul * t.ew) i != 0

/-- An instruction that has not completed: its entry; the bits it must still read and write; the bits of its destination
that it has not passed on; masks it reads and writes; the bytes of memory it must still access (from, length, a store);
the pipe that it holds; the scalar register it has still to reply to; the output register whose strip it has still to
append; whether nothing issues behind it (R164). -/
structure Left where
  entry : BmEntry
  unread : VBits
  unwritten : VBits
  unpassed : VBits
  kRead : List MReg
  kWrite : List MReg
  bytes : Bytes
  pipe : Option Pipe
  reply : Option (Bool × Reg)
  out : Option Reg
  ends : Bool
  deriving DecidableEq, Repr

def VRow.masks (r : VRow) : List MReg := maskOf r.vm ++ r.ks

/-- Where core-local storage stands among the accesses: above every address of memory. -/
def localBase : Int := (2 ^ 80 : Nat)

/-- The accesses still to be made by a memory instruction: those of its pending elements where their addresses are known,
else anywhere. -/
def Strand.leftBytes (t : Strand) (r : VRow) (env : VEnv) (known : Bool) (pending : List Nat) : Bytes :=
  match r.mem, r.loc with
  | some v, _ =>
    let n := memBits v.w t.ew / 8
    if known then pending.map fun i => (elemAddr t v.mode env n i, n, !v.isLoad)
    else [(-(2 ^ 64 : Nat), 2 ^ 66, !v.isLoad)]
  | none, some (w, isLoad) =>
    let n := memBits w t.ew / 8
    pending.map fun i => (localBase + (localAt t.localSpace t.g env.base.toNat n i : Nat), n, !isLoad)
  | none, none => if r.pipe == .store then [(-(2 ^ 64 : Nat), 2 ^ 66, true)] else []

/-- The 16-byte rows that bytes [a, a + n) lie in. -/
def rowsOf (a : Int) (n : Nat) : List Int := if a / 16 = (a + n - 1) / 16 then [a / 16] else [a / 16, (a + n - 1) / 16]

/-- Some bank, of 32, holds two of these rows (R149). -/
def sameBank (rows : List Int) : Bool := rows.any fun x => rows.any fun y => x != y && x % 32 == y % 32

/-- A strided or indexed load of a vector core of which some cycle needs more than one bank cycle (R149, R150), as far as
its addresses are known: those of the listed elements. -/
def Strand.clashes (t : Strand) (r : VRow) (env : VEnv) (is : List Nat) : Bool :=
  match r.mem with
  | some { mode := .unit, .. } => false
  | some v =>
    let n := memBits v.w t.ew / 8
    v.isLoad && t.cls == .vector && (List.range (t.vl / (8 * t.g) + 1)).any fun j =>
      sameBank ((is.filter fun i => i / (8 * t.g) == j).flatMap fun i => rowsOf (elemAddr t v.mode env n i) n)
  | none => false

/-- What an instruction with these elements pending leaves undone. `known`: the elements whose addresses are known. -/
def Strand.leftOf (t : Strand) (r : VRow) (e : BmEntry) (env : VEnv) (pending known : List Nat) (bytes : Bytes)
    (held : Bool) : Left :=
  let n (mul : Nat) := mul * t.grp
  let out (is : List Nat) : VBits := match r.dst with
    | none => VBits.none
    | some d => if r.entireForm then VBits.none.regs d.1 (n d.2) else t.mark VBits.none d.1 d.2 is
  { entry := e
    unread := r.srcs.foldl (fun b q =>
      if r.single then t.mark b q.reg q.mul [0]
      else if r.entireForm then b.regs q.reg (n q.mul) else t.mark b q.reg q.mul pending) VBits.none
    unwritten := out pending
    unpassed := out (if t.packs r || t.clashes r env known then t.range else t.fromGroup r pending t.range)
    kRead := r.masks
    kWrite := r.kd.toList ++ if r.mem.isSome then [7] else []
    bytes := bytes
    pipe := if held && r.pipe != .none then some r.pipe else none
    reply := r.reply
    out := if flag e.flg 4 then r.dst.map (·.1) else none
    ends := r.ends }

/-! ### An instruction behind one that has not completed -/

/-- It cannot begin: a mask that is not final or not free, a source without chain, a whole instruction whose registers are
not final or not free, its pipe held. -/
def Strand.blockedBy (t : Strand) (r : VRow) (l : Left) : Bool :=
  r.masks.any l.kWrite.contains
    || r.kd.any (fun k => l.kWrite.contains k || l.kRead.contains k)
    || r.srcs.any (fun q =>
        if r.single && q.chain then t.marked l.unpassed q.reg q.mul 0
        else (r.entireForm || !q.chain) && l.unpassed.meets q.reg (q.mul * t.grp))
    || (r.entireForm && r.dst.any fun d => l.unread.meets d.1 (d.2 * t.grp) || l.unwritten.meets d.1 (d.2 * t.grp))
    || l.pipe == some r.pipe

/-- A source element of a chained operand has not been passed on. -/
def Strand.starved (t : Strand) (r : VRow) (l : Left) (i : Nat) : Bool :=
  !r.single && r.srcs.any fun q => q.chain && t.marked l.unpassed q.reg q.mul i

/-- An element that a pending element of an earlier entry must still read or write is not written (R277). -/
def Strand.guarded (t : Strand) (r : VRow) (l : Left) (i : Nat) : Bool :=
  r.dst.any fun d => t.marked l.unread d.1 d.2 i || t.marked l.unwritten d.1 d.2 i

/-- The elements that cannot be processed for want of a chained source: from the first group on of which one is not
passed on (R294). -/
def Strand.starvedFrom (t : Strand) (r : VRow) (ls : List Left) : List Nat :=
  t.fromGroup r ((t.grouped r).filter fun i => ls.any fun l => t.starved r l i) t.range

/-- DEPS: the entries that some pending element waits on. -/
def Strand.depsOf (t : Strand) (r : VRow) (ls : List Left) : Nat :=
  (ls.zipIdx.map fun p =>
    boolBit (t.blockedBy r p.1 || t.range.any fun i => t.starved r p.1 i || t.guarded r p.1 i) p.2).sum

/-- STATE and VSTART of an entry (R277): not started; a pending mask; or, where neither a fault nor a chain stopped it,
the first of the elements left where none above it was performed. -/
def stateOf (faulted whole : Bool) (actives pending : List Nat) : Nat × Nat :=
  if whole || pending.length == actives.length then (0, 0)
  else if !faulted && actives == (actives.filter fun i => !(pending.contains i)) ++ pending then (1, pending.headD 0)
  else (2, 0)

/-- The value of the scalar operand at issue. -/
def Strand.xopOf (t : Strand) : XSrc → Word
  | .none => 0
  | .x r => t.getX r
  | .f r => t.f[r]
  | .imm w => w

/-- A store among the accesses that are left, or made now, touches the same bytes. -/
def bytesMeet (ls : List Left) (bs : Bytes) : Bool :=
  ls.any fun l => l.bytes.any fun p => bs.any fun q =>
    (p.2.2 || q.2.2) && decide (p.1 < q.1 + q.2.1) && decide (q.1 < p.1 + p.2.1)

/-- Vector registers that a row reads, and writes. -/
def VRow.reads (r : VRow) : List Reg := r.srcs.map (·.reg)
def VRow.writes (r : VRow) : List Reg := (r.dst.map (·.1)).toList

/-- Registers without their streams. -/
def Strand.unbound (t : Strand) : Strand := { t with q := t.q.map fun o => o.map fun h => { h with binding := none } }

/-- The streams of an instruction served as it issues (R156, R157); with the bits POPDONE and SLOTRES of its entry. None:
it does not issue now. A pop does not overwrite what an earlier instruction must still read, and a register whose strip
is still to be appended is not written. -/
def State.serveStreams (s : State) (r : VRow) (ls : List Left) : Option (State × Nat) :=
  let ins := s.cur.inputs r.reads
  let outs := s.cur.outputs r.writes
  if ins == [] && outs == [] then some (s, 0)
  else if ls.any fun l => ins.any (fun e => l.unread.meets e.1 s.cur.grp) || outs.any (fun e => l.out == some e.1)
      || l.bytes.any fun b => decide (localBase ≤ b.1) then none
  else
    match s.streamIn r.reads r.writes with
    | .ok s' => some (s', boolBit (ins != []) 3 + boolBit (outs != [] && s'.cur.vl != 0) 4)
    | .error _ => none

/-- Bytes of an instruction. -/
def instrBytes (i : Instr) : Nat := match encode i with | some p => p.1 / 8 | none => 4

/-- An instruction that takes no translation fault, behind instructions that have not completed: its elements that can be
processed are; what is left makes an entry, and holds its pipe, whose instructions go in order (R169). None: it does not issue
now. A packed form is over with its active elements; one that is not packed, and has no active element among those it cannot
process, has completed too: the spec does not say whether it then still waits for the element groups that have not been passed
on (DESIGN CHOICE, log 10). -/
def State.followArith (s : State) (i : Instr) (r : VRow) (f : Meaning) (ls : List Left) : Option (State × List Left) := do
  let (s1, sf) ← s.serveStreams r ls
  let t := s1.cur
  let env := t.envAt (r.base.getD 0) 0
  let wait := ls.any (t.blockedBy r)
  let starved := t.starvedFrom r ls
  let todo := t.actives r.vm
  let pending := if wait then t.range
    else todo.filter fun i => starved.contains i || ls.any fun l => t.guarded r l i
  let ready := if wait then [] else todo.filter fun i => !(pending.contains i)
  let whole := !wait && pending == []
  if (r.ends && whole) || (r.loc.isSome && ls.any (·.out.isSome))
      || bytesMeet ls (t.leftBytes r env true (if r.loc.isSome then ready else [])) then none
  else
    match f (s1.onCur fun t => { t.unbound with only := if whole then none else some (maskBits ready) }) with
    | .next s' =>
      if s'.cur.status != .running then none
      else
        let s' := s'.onCur fun u => { u with q := t.q, only := none }
        if whole then some (s'.streamOut r.writes, ls)
        else
          let (st, vs) := if wait then (0, 0) else stateOf (starved != []) r.entireForm todo pending
          let e : BmEntry :=
            { enc := encOf i, vtype := t.vtype, vl := t.vl, vstart := vs, st := st, flg := r.flg + sf
              deps := t.depsOf r ls, xop := t.xopOf r.xop, xbase := if r.base.isSome then env.base else 0, xstride := 0
              ipc := t.pc, mask := if st = 2 then maskBits pending else 0 }
          let l := t.leftOf r e env pending [] (t.leftBytes r env true pending) true
          some (if st = 0 then s1.onCur (·.adv (instrBytes i)) else s', ls ++ [l])
    | _ => none

/-- A load or store behind instructions that have not completed, with the pages at which it faults itself. It does not
issue while the bytes it would access now meet those of one of them. Elements that wait hold its pipe; those that only fault
do not. -/
def State.followMem (s : State) (r : VRow) (v : VMem) (ls : List Left) : Option (State × List Left × Pages) := do
  let (s1, sf) ← s.serveStreams r ls
  let t := s1.cur
  let wait := ls.any (t.blockedBy r)
  let starved := t.starvedFrom r ls
  let todo := t.actives r.vm
  let hold := if wait then t.range else todo.filter fun i => starved.contains i || ls.any fun l => t.guarded r l i
  let env := v.env t
  let known := match v.mode with | .indexed .. => !wait && starved == [] | _ => true
  let ready := if wait then [] else todo.filter fun i => !(hold.contains i)
  if bytesMeet ls (t.leftBytes r env true ready) then none
  else
    match (s1.onCur Strand.unbound).vmemHeld v (maskBits hold) with
    | .ok s' =>
      if wait then none else some ((s'.onCur fun u => { u with q := t.q }).streamOut r.writes, ls, [])
    | .error (.trans pages (some e), s') =>
      let pending := if wait then t.range else if e.st = 0 then todo else todo.filter fun i => e.mask.getLsbD i
      let (st, vs) := if wait then (0, 0) else stateOf (pages != [] || starved != []) false todo pending
      let e := { e with
        st := st, vstart := vs, flg := e.flg + sf, mask := if st = 2 then e.mask else 0, deps := t.depsOf r ls }
      let l := t.leftOf r e env pending (if known then todo else ready) (t.leftBytes r env known pending)
        (wait || hold != [])
      some ((if wait then s1.onCur (·.adv 4) else s').onCur fun u => { u with q := t.q, vstart := 0 }, ls ++ [l], pages)
    | _ => none

/-- The x registers a scalar instruction names. -/
def scalarRegs : Scalar → List Reg
  | .lui rd _ | .auipc rd _ => [rd]
  | .aluI _ rd rs1 _ | .shI _ rd rs1 _ | .shIW _ rd rs1 _ | .un _ rd rs1 => [rd, rs1]
  | .alu _ rd rs1 rs2 | .aluW _ rd rs1 rs2 => [rd, rs1, rs2]
  | _ => []

/-- The scalar registers (an f register?) that a row names. -/
def VRow.scalars (r : VRow) : List (Bool × Reg) :=
  (match r.xop with | .x n => [(false, n)] | .f n => [(true, n)] | _ => []) ++ r.reply.toList
    ++ r.base.toList.map (false, ·)
    ++ (match r.mem with
        | some v => (false, v.base) :: (match v.mode with | .strided rs2 => [(false, rs2)] | _ => [])
        | none => [])

/-- One of these registers awaits a reply of an instruction that is left (R111). -/
def awaited (ls : List Left) (rs : List (Bool × Reg)) : Bool :=
  ls.any fun l => match l.reply with | some p => p != (false, 0) && rs.contains p | none => false

/-- Entries of the reply queue that are taken (R111). -/
def State.repliesTaken (s : State) (ls : List Left) : Nat := s.cur.replyQ.length + (ls.filter (·.reply.isSome)).length

/-- A scalar instruction that neither branches nor reaches memory, a CSR or an f register. -/
def plainScalar : Instr → Option (List Reg × Meaning)
  | .rv64ScalarInstruction f op =>
    match op with
    | .lui .. | .auipc .. | .aluI .. | .shI .. | .shIW .. | .alu .. | .aluW .. | .un .. =>
      some (scalarRegs op, execRv64ScalarInstruction f op)
    | _ => none
  | _ => none

/-- Four instructions of a pipe have issued and not started: one more holds up issue (R169). -/
def pipeFull (ls : List Left) (p : Pipe) : Bool := 4 ≤ (ls.filter fun l => l.pipe == some p && l.entry.st == 0).length

/-- One more instruction issues behind those that have not completed; none: the strand stops before it. -/
def State.issueBehind (s : State) (ls : List Left) : Option (State × List Left × Pages) :=
  match s.fetchInstr with
  | .ok (.instr i _, s) =>
    match vecRow i with
    | some r =>
      if ls.any (·.ends) || pipeFull ls r.pipe || awaited ls r.scalars
          || (r.reply.isSome && 8 ≤ s.repliesTaken ls) then none
      else
        match r.mem, r.run with
        | some v, _ => if v.faultFirst then none else s.followMem r v ls
        | none, some f => (s.followArith i r f ls).map fun p => (p.1, p.2, [])
        | none, none => none
    | none =>
      match plainScalar i with
      | some (rs, f) =>
        if ls.any (·.ends) || awaited ls (rs.map (false, ·)) || 8 ≤ s.repliesTaken ls then none
        else (match f s with | .next s' => if s'.cur.status == .running then some (s', ls, []) else none | _ => none)
      | none => none
  | _ => none

/-- Up to n instructions issue. -/
def State.issueUpTo : Nat → State → List Left → Pages → State × List Left × Pages
  | 0, s, ls, pages => (s, ls, pages)
  | n + 1, s, ls, pages =>
    match s.issueBehind ls with
    | none => (s, ls, pages)
    | some (s, ls, ps) => State.issueUpTo n s ls (ps.foldl addPage pages)

/-- What the instruction that faulted leaves undone. -/
def Strand.firstLeft (t : Strand) (r : VRow) (e : BmEntry) : Left :=
  let pending := if e.st = 0 then (if r.entireForm then t.range else t.actives r.vm)
    else t.range.filter fun i => e.mask.getLsbD i
  let env : VEnv := { base := e.xbase, stride := e.xstride, only := none, popped := false, reserved := false }
  t.leftOf r e env pending (t.actives r.vm) (t.leftBytes r env true pending) false

/-- The entries and pages of a strand that stopped at a translation fault, after the instructions behind it that issue
before it stops: as many as a free number below 16 allows. A lane thread, or an entry that faults again during a replay
(R278), has none behind it. -/
def State.stopped (s : State) (uid : Nat) (i : TrapInfo) : State × List BmEntry × Pages :=
  let alone := (s, i.entry.toList ++ i.rest, i.pages)
  match i.entry, s.strand uid with
  | some e, some t =>
    if i.cause ≠ 1 || i.replay || t.fork.isSome then alone
    else
      match (decodeTableWord 64 e.enc).bind vecRow with
      | none => alone
      | some r =>
        let ls := [t.firstLeft r e]
        let b := (s.bring uid).onCur fun t => { t with status := .running, vstart := 0 }
        match b.issueBehind ls with
        | none => alone
        | some _ =>
          let (w, b) := b.drawFree
          let (b, ls, pages) := State.issueUpTo (w.toNat % 16) b ls i.pages
          let b := b.onCur fun u => { u with status := t.status, vstart := t.vstart }
          (b.bring s.cur.uid, ls.map (·.entry), pages)
  | _, _ => alone

end Sys2Proof.Machine
end

