-- ==== Sys2Proof/Machine/Traps.lean ====
section
/-! DEFINITION. Imprecise traps: tokens and the bookmark area (R275, R276, R281), fault record batches (R272, R273), the
trap itself (R274), pauses of the copy engine (R168, R273), replay (R278, R296); and the completion events of engines,
streams and issued vector work (R111, R160, R161, R164, R167, R202, R274). -/

namespace Sys2Proof.Machine

/-! ### Tokens (R281) -/

/-- The unit's trap generation is incremented. -/
def State.bumpGen (s : State) (core unit : Nat) : State :=
  s.updCore core fun c => { c with gen := listSet c.gen unit (c.gen.getD unit 0 + 1) }

/-- What a live token names. -/
inductive ParkedUnit
  | strand (t : Strand)
  | engine (core lid : Nat)
  deriving DecidableEq, Repr

/-- The unit of a token: parked, with the token's GEN; none for a stale token. -/
def State.tokenUnit (s : State) (w : Word) : Option ParkedUnit :=
  let core := bf w 16 16
  let unit := bf w 8 3
  if !(coreIds.contains core) || (s.gen core unit).toNat != bf w 32 16 then none
  else if unit < 4 then
    match s.strands.find? fun t => t.core == core && t.slot == unit && t.status == .parked with
    | some t => some (.strand t)
    | none => none
  else if unit = 4 then
    match (s.core core).park with
    | some lid => some (.engine core lid)
    | none => none
  else none

/-! ### The bookmark area (R275, R276) -/

/-- Word k of an entry. -/
def BmEntry.word (e : BmEntry) (k : Nat) : Word :=
  match k with
  | 0 => BitVec.ofNat 64 e.enc
  | 1 => e.vtype
  | 2 => BitVec.ofNat 64 (e.vl + e.vstart * 2 ^ 16 + e.st * 2 ^ 32 + e.flg * 2 ^ 40 + e.deps * 2 ^ 48)
  | 3 => e.xop
  | 4 => e.xbase
  | 5 => e.xstride
  | 6 => e.ipc
  | _ => 0

/-- The word at a byte offset below 9,728, a multiple of 8. -/
def Bookmark.word (b : Bookmark) (off : Nat) : Word :=
  if off = 0x000 then b.token
  else if off = 0x008 then b.lid
  else if off = 0x010 then
    BitVec.ofNat 64 (b.strandid + b.entries.length * 2 ^ 32 + b.cause * 2 ^ 40 + b.cls * 2 ^ 48 + b.lt * 2 ^ 56)
  else if off = 0x018 then b.pc
  else if off = 0x020 then b.lpc
  else if off = 0x028 then BitVec.ofNat 64 b.batch
  else if off = 0x030 then b.vtype
  else if off = 0x038 then BitVec.ofNat 64 b.vl
  else if off < 0x100 then 0
  else if off < 0x200 then b.xreg.getD ((off - 0x100) / 8) 0
  else if off < 0x600 then
    match b.entries[(off - 0x200) / 64]? with
    | some e => e.word ((off - 0x200) % 64 / 8)
    | none => 0
  else
    match b.entries[(off - 0x600) / 512]? with
    | some e => BitVec.ofNat 64 (fld e.mask.toNat ((off - 0x600) % 512 * 8) 64)
    | none => 0

/-- LT (R275). -/
def Strand.ltCode (t : Strand) : Nat :=
  match t.laneTurn with
  | some l => l.lane * 2 + 1
  | none => 0

/-- The bookmark a trap writes: the header, and the entries of the instructions that had not completed. -/
def Strand.bookmarkOf (t : Strand) (token : Word) (batch : Nat) (i : TrapInfo) (es : List BmEntry) : Bookmark :=
  { token := token, lid := BitVec.ofNat 64 t.lid, strandid := t.sid % 2 ^ 32, cause := i.cause, cls := i.cls,
    lt := t.ltCode, pc := t.pc, lpc := if t.fork.isSome then t.getPc else 0, batch := batch, vtype := t.vtype, vl := t.vl,
    xreg := t.x.set 0 0, entries := es }

/-! ### Batches (R272, R273) -/

/-- INFO of a record. -/
def infoWord (batch ctx : Nat) (last : Bool) (cause acc : Nat) : Nat :=
  batch % 2 ^ 12 * 2 ^ 20 + ctx % 2 ^ 12 * 2 ^ 8 + boolBit last 7 + cause % 8 * 2 ^ 4 + acc % 16

/-- The records of a batch, one for each page. -/
def batchOf (batch lid ctx sid : Nat) (token : Word) (pages : List (Nat × Nat × Nat)) : List FaultRec :=
  (pages.zipIdx).map fun p =>
    { addr := BitVec.ofNat 64 p.1.1, lid := BitVec.ofNat 64 lid, token := token, strandid := sid % 2 ^ 32
      info := infoWord batch ctx (p.2 + 1 == pages.length) p.1.2.1 p.1.2.2 }

/-- A batch is posted on a die: it waits for room. -/
def State.postBatch (s : State) (die lid ctx sid : Nat) (token : Word) (pages : List (Nat × Nat × Nat)) : State :=
  s.updDie die fun d =>
    { d with batches := d.batches ++ [batchOf d.batch.toNat lid ctx sid token pages], batch := d.batch + 1 }

/-- FAULT_BATCH_POST: the oldest batch enters the queue whole, when there is room. -/
def State.enterBatch (s : State) (die : Nat) : State :=
  s.updDie die fun d =>
    match d.batches with
    | [] => d
    | b :: bs => if d.frq.length + b.length ≤ 4096 then { d with frq := d.frq ++ b, batches := bs } else d

/-! ### The trap (R274) -/

/-- The strand's work in flight is over: replies delivered, queues empty, reservations lost (R198). -/
def Strand.quiet (t : Strand) : Strand := { t.drained with mq := 0, res := [] }

/-- IMPRECISE_TRAP of a strand that stopped at a fault: the bookmark is written, GEN incremented, the batch posted; the
strand parks, or its launch is killed (R271). -/
def State.trap (s : State) (uid : Nat) : State :=
  match s.strand uid with
  | none => s
  | some t =>
    match t.status with
    | .trapping i =>
      let (s, es, pages) := s.stopped uid i
      let s := s.bumpGen t.core t.slot
      let token := tokenWord (s.gen t.core t.slot) t.core t.slot
      let die := coreDie t.core
      let batch := (s.die die).batch.toNat
      let s := s.updStrand uid fun t =>
        let t := t.quiet
        { t with bookmark := t.bookmarkOf token batch i es, status := .parked }
      let s := s.postBatch die t.lid t.ctx t.sid token pages
      if i.cause = 2 then s.killFault t.lid i.cls else s
    | _ => s

/-! ### Pauses of the copy engine (R168, R273) -/

/-- A piece of work of an engine that can run: whose it is, and how it ends. -/
structure EngineWork where
  uid : Nat
  lid : Nat
  ctx : Nat
  sid : Nat
  result : EngineEnd

/-- The command at the head of a core's queue, carried out. -/
def State.headWork (s : State) (core : Nat) : List EngineWork :=
  match (s.core core).engine with
  | [] => []
  | c :: _ =>
    [{ uid := c.uid, lid := c.lid, ctx := c.ctx, sid := match s.strand c.uid with | some t => t.sid | none => 0
       result := s.runCopy core c }]

/-- Fills and drains of a strand's memory streams. -/
def State.streamWork (s : State) (t : Strand) : List EngineWork :=
  (List.finRange 16).filterMap fun q =>
    match t.q[q] with
    | none => none
    | some h =>
      if h.kind = 0 ∨ h.kind = 1 then
        some { uid := t.uid, lid := t.lid, ctx := t.ctx, sid := t.sid
               result := if h.kind = 0 then s.fillStream t.uid q else s.drainStream t.uid q }
      else none

/-- Strands that wait for the engine of a core, by slot, with their commands. -/
def State.copyWaiters (s : State) (core : Nat) : List (Nat × Nat × CopyOp) :=
  let ws := s.strands.filterMap fun t =>
    match t.status with
    | .waiting (.copy op) => if t.core = core then some (t.slot, t.uid, op) else none
    | _ => none
  sortBy (fun a b => decide (a.1 < b.1)) ws

/-- The descriptor read of the command that is accepted next (R164). -/
def State.descWork (s : State) (core : Nat) : List EngineWork :=
  match (if (s.core core).engine.length < 2 then s.copyWaiters core else []) with
  | [] => []
  | (_, uid, op) :: _ =>
    match s.strand uid with
    | none => []
    | some t =>
      [{ uid := uid, lid := t.lid, ctx := t.ctx, sid := t.sid
         result := match s.engDesc t.ctx op with | .error e => e | .ok r => .done r.2 }]

/-- All work of a core's engine: its command, the descriptor of the next, then the streams of its strands by slot. -/
def State.engineWork (s : State) (core : Nat) : List EngineWork :=
  s.headWork core ++ s.descWork core ++ (sortBy (fun a b : Strand => decide (a.slot < b.slot)) (s.onCore core)).flatMap s.streamWork

/-- A launch fault that a unit meets while its strand does not execute: the record is posted and the launch killed (R271,
R272). -/
def State.unitFault (s : State) (core unit lid ctx sid cls addr acc : Nat) : State :=
  let s := s.bumpGen core unit
  (s.postBatch (coreDie core) lid ctx sid (tokenWord (s.gen core unit) core unit) [(addr, 2, acc)]).killFault lid cls

/-- A fault of an engine's access. -/
def EngineEnd.faulted (e : EngineEnd) : Bool :=
  match e with
  | .pages _ => true
  | .kill _ _ _ => true
  | _ => false

/-- An engine parks at the repairable faults of a piece of work, whose batch is posted. -/
def State.engineParks (s : State) (core lid ctx sid : Nat) (ps : List (Nat × Nat × Nat)) : State :=
  let s := s.bumpGen core 4
  (s.updCore core fun c => { c with park := some lid }).postBatch (coreDie core) lid ctx sid
    (tokenWord (s.gen core 4) core 4) ps

/-- ENGINE_FAULT_PAUSE: the engine parks at a repairable fault and its batch is posted; an unrepairable one posts its
record and kills the launch. -/
def State.enginePause (s : State) (core : Nat) : State :=
  if (s.core core).park.isSome then s
  else
    match (s.engineWork core).find? fun w => w.result.faulted with
    | none => s
    | some w =>
      match w.result with
      | .pages ps => (s.walked w.ctx (ps.map (·.1))).engineParks core w.lid w.ctx w.sid ps
      | .kill cls addr acc => (s.faultWalk w.ctx cls addr).unitFault core 4 w.lid w.ctx w.sid cls addr acc
      | _ => s

/-! ### Replay (R278, R296) -/

/-- The environment of a replayed entry: operands from the entry, its pending elements only. -/
def BmEntry.env (e : BmEntry) : VEnv :=
  { base := e.xbase, stride := e.xstride, only := if e.st = 2 then some e.mask else none, popped := flag e.flg 3,
    reserved := flag e.flg 4 }

/-- A load or store of a replayed entry: a fault-first load that trapped at its first element behaves as `vld` (R145). -/
def State.replayMem (s : State) (v : VMem) (e : BmEntry) : Res State := do
  let s ← s.vmemRun { v with faultFirst := false } e.env e.ipc
  return s.streamOut v.writes

/-- A vector atomic of a replayed entry. -/
def State.replayAmo (s : State) (op : Fin 11) (i : Instr) (a : FAmo) (e : BmEntry) : Res State := do
  let s ← s.amoRun op i a e.env e.ipc
  return s.streamOut [a.vd]

/-- The scalar operand of an entry stands in its register. -/
def Strand.putXop (t : Strand) (x : XSrc) (w : Word) : Strand :=
  match x with
  | .x r => t.setX r w
  | .f r => { t with f := t.f.set r w }
  | _ => t

/-- The base register of an entry holds XBASE. -/
def Strand.putBase (t : Strand) (base : Option Reg) (w : Word) : Strand :=
  match base with
  | some r => t.setX r w
  | none => t

/-- Any other vector instruction of a replayed entry: its meaning on the entry's operands, its pending elements only in
STATE 2, without pops, its strip appended (R157). Replies still to be delivered come after the header's registers, its own
among them (R111). It faults and waits as at issue. -/
def State.replayArith (s : State) (r : VRow) (f : Meaning) (e : BmEntry) : Res State :=
  let t := s.cur
  match f (s.onCur fun t =>
    { ((t.putXop r.xop e.xop).putBase r.base e.xbase).unbound with
      status := .running, replyQ := [], only := if e.st = 2 then some e.mask else none }) with
  | .next s' =>
    let s1 := s'.onCur fun u =>
      { u with f := t.f, q := t.q, replyQ := t.replyQ ++ u.replyQ, only := none, status := t.status }
    match s'.cur.status with
    | .running => .ok (s1.streamOut r.writes)
    | .trapping i =>
      match i.pages with
      | p :: _ => .error (.launch i.cls p.1 p.2.2 (some e), s1)
      | [] => .error (.launch i.cls 0 0 (some e), s1)
    | _ => .error (.wait .engine, s)
  | _ => .error (.wait .engine, s)

/-- The instruction of an entry executed with the entry's operands; a `vwait` is replayed apart. -/
def State.replayInstr (s : State) (i : Instr) (e : BmEntry) : Res State :=
  match i with
  | .kld k _ => s.maskRun true i k e.env e.ipc
  | .kst k _ => s.maskRun false i k e.env e.ipc
  | .vgl a => do
    let s ← s.glRun i a e.env e.ipc
    return s.streamOut [a.vd]
  | .vsc a => s.scRun i a e.env e.ipc
  | _ =>
    match amoCode i with
    | some (op, a) => s.replayAmo op i a e
    | none =>
      match vecRow i with
      | some { mem := some v, .. } => s.replayMem v e
      | some r => (match r.run with | some f => s.replayArith r f e | none => .ok s)
      | none => .ok s

def isVwait : Instr → Bool
  | .vwaitEq _ | .vwaitNe _ | .vwaitLt _ | .vwaitGe _ => true
  | _ => false

/-- The entry's VTYPE, VL and, in STATE 1, VSTART are in force. -/
def Strand.entryIn (t : Strand) (e : BmEntry) : Strand :=
  { t with vtype := e.vtype, vl := e.vl, vstart := if e.st = 1 then e.vstart else t.vstart }

/-- The header's registers, except the pc. -/
def Strand.headerRegs (t : Strand) (b : Bookmark) : Strand := { t with vtype := b.vtype, vl := b.vl, x := b.xreg }

/-- The header PC, behind an `ecall` or `ebreak` (CAUSE 3). -/
def State.headerPc (s : State) (b : Bookmark) : Word :=
  if b.cause = 3 then
    match s.fetchParcel b.pc with
    | .ok (w, _) => match parcelLength w with | .ok n => b.pc + BitVec.ofNat 64 n | .error _ => b.pc + 4
    | .error _ => b.pc + 4
  else b.pc

/-- The current strand resumes behind its bookmark. -/
def State.resumeAt (s : State) (b : Bookmark) (pc : Word) : State :=
  s.onCur fun t =>
    { t.headerRegs b with vstart := 0, popped := false, replaying := none, pc := pc, status := .running }

/-- An entry that faults again: a new trap under the same header, whose bookmark begins at that entry and keeps the
entries behind it. -/
def Strand.retrap (t : Strand) (b : Bookmark) (cause cls : Nat) (pages : Pages) (e : Option BmEntry)
    (rest : List BmEntry) : Strand :=
  { t.headerRegs b with
    pc := b.pc
    status := .trapping { cause := cause, cls := cls, pages := pages, entry := e, rest := rest, replay := true } }

/-- Replay of the current strand's entries in order, then of the header. A `vwait`, behind which nothing issues, is
executed again at its own address, its pops made, on the entry's operands. Entry k that faults becomes entry 0, so DEPS of
those behind it move by k. None: an entry must wait. -/
def State.replayFrom (b : Bookmark) : Nat → List BmEntry → State → Option State
  | _, [], s => some (s.resumeAt b (s.headerPc b))
  | k, e :: es, s =>
    let rest := es.map fun x => { x with deps := x.deps / 2 ^ k }
    match decodeTableWord 64 e.enc with
    | none => State.replayFrom b (k + 1) es s
    | some i =>
      if isVwait i then
        some (s.onCur fun t => { t.headerRegs b with
          vtype := e.vtype, vl := e.vl, popped := flag e.flg 3, replaying := some { b with entries := [e] },
          pc := e.ipc, status := .running })
      else
        match (s.onCur (·.entryIn e)).replayInstr i e with
        | .ok s' => State.replayFrom b (k + 1) es (s'.onCur fun t => { t with vstart := 0 })
        | .error (.trans pages entry, s') => some (s'.onCur fun t => t.retrap b 1 0 pages entry rest)
        | .error (.launch cls addr acc entry, s') =>
          some (s'.onCur fun t => t.retrap b 2 cls [(addr, 2, acc)] entry rest)
        | .error _ => none

def State.replayCur (s : State) (b : Bookmark) : Option State := State.replayFrom b 0 b.entries s

/-- Replay of a strand. -/
def State.replay (s : State) (uid : Nat) (b : Bookmark) : Option State :=
  match (s.bring uid).replayCur b with
  | some _ => some (s.asStrand uid fun s => (s.replayCur b).getD s)
  | none => none

/-! ### Completion events -/

/-- A stream handle number. -/
def qOf (n : Nat) : QReg := Fin.ofNat 16 n

/-- The engine that serves a strand's streams is not parked. -/
def State.engineFree (s : State) (uid : Nat) : Bool :=
  match s.strand uid with
  | some t => (s.core t.core).park.isNone
  | none => false

/-- The state an engine's work leaves; a fault or a stall is another event's. -/
def EngineEnd.orElse (e : EngineEnd) (s : State) : State :=
  match e with
  | .done s' => s'
  | _ => s

/-- COPY_COMMAND_COMPLETE: the command at the head of a queue has run. -/
def State.copyComplete (s : State) (core : Nat) : State :=
  match (s.core core).park, (s.core core).engine with
  | none, c :: _ => (s.runCopy core c).orElse s
  | _, _ => s

/-- COPY_COMMAND_ACCEPT: the lowest slot's command enters the queue when that has a free entry. -/
def State.copyAccept (s : State) (core : Nat) : State :=
  if (s.core core).engine.length ≥ 2 then s
  else
    match s.copyWaiters core with
    | [] => s
    | (_, uid, op) :: _ =>
      s.asStrand uid fun s =>
        match (s.onCur (·.setStatus .running)).acceptCopy op with
        | .ok s' => s'
        | .error (e, s') => s'.takeExc e

/-- One vector instruction, or matrix-queue instruction, is complete. -/
def Strand.completeOne (t : Strand) : Strand := if t.vq > 0 then { t with vq := t.vq - 1 } else { t with mq := t.mq - 1 }

/-- One store or atomic element of a lane is performed (R202). -/
def Strand.performOne (t : Strand) (lane : Nat) : Strand :=
  { t with pend := t.pend.setIfInBounds lane (t.pend.getD lane 0 - 1) }

/-- VECTOR_ACCESS_PERFORMED of a lane: not while a store of the vector agent stands in a write-combining buffer or is held
back, as the count does not say whose element that is (log 3). -/
def State.performElem (s : State) (uid lane : Nat) : State :=
  match s.strand uid with
  | none => s
  | some t => if t.wcV != [] || s.standsBy uid false true then s else s.updStrand uid (·.performOne lane)

/-! ### The events -/

def execImpreciseTrap (s : State) : Host.Outcome State Fault Refusal := .next (s.trap s.arg.uid)
def execFaultBatchPost (s : State) : Host.Outcome State Fault Refusal := .next (s.enterBatch s.arg.die)
def execEngineFaultPause (s : State) : Host.Outcome State Fault Refusal := .next (s.enginePause s.arg.core)
def execCopyCommandAccept (s : State) : Host.Outcome State Fault Refusal := .next (s.copyAccept s.arg.core)
def execCopyCommandComplete (s : State) : Host.Outcome State Fault Refusal := .next (s.copyComplete s.arg.core)
def execStreamSlotFill (s : State) : Host.Outcome State Fault Refusal :=
  .next (if s.engineFree s.arg.uid then (s.fillStream s.arg.uid (qOf s.arg.q)).orElse s else s)
def execStreamDrainWrite (s : State) : Host.Outcome State Fault Refusal :=
  .next (if s.engineFree s.arg.uid then (s.drainStream s.arg.uid (qOf s.arg.q)).orElse s else s)
def execStageStripArrival (s : State) : Host.Outcome State Fault Refusal :=
  .next (s.arriveStrip s.arg.uid (qOf s.arg.q))
def execReplyQueueDelivery (s : State) : Host.Outcome State Fault Refusal :=
  .next (s.updStrand s.arg.uid Strand.reply1)
def execVectorAccessPerformed (s : State) : Host.Outcome State Fault Refusal :=
  .next (s.performElem s.arg.uid s.arg.lane)
def execVectorInstructionCompletion (s : State) : Host.Outcome State Fault Refusal :=
  .next (s.updStrand s.arg.uid Strand.completeOne)

end Sys2Proof.Machine
end

