-- ==== Sys2Proof/Machine/System.lean ====
section
/-! DEFINITION. The system instructions of S-mode and M-mode (R280 to R287): `bkrd`, `bkrsm`, `ccmove` with its seven
commands, `frqpop`, `latw`, `thrset`. -/

namespace Sys2Proof.Machine

/-- System instructions are no instruction of a lane thread (R133), and illegal in U-mode (R280); S-mode and M-mode exist
on control cores only. -/
def State.sysGate (s : State) : Res State := do
  require s.cur.fork.isNone (.launch 0x04 0 0 none) s
  require (s.cur.mode != .u) .illegal s
  s.scalarGate clsC

/-- Error words of R282 and R284. -/
def errWord (n : Nat) : Word := BitVec.ofNat 64 (2 ^ 63 + n)

/-! ### `bkrd`, `bkrsm` (R282, R283) -/

/-- The value of `bkrd`. -/
def State.bkrdWord (s : State) (token : Word) (off : Nat) : Word :=
  if off % 8 ≠ 0 ∨ 9728 ≤ off then errWord 1
  else
    match s.tokenUnit token with
    | none => errWord 2
    | some (.engine _ _) => errWord 3
    | some (.strand t) => t.bookmark.word off

def State.bkrdOp (s : State) (rd rs1 rs2 : Reg) : Res State := do
  let s ← s.sysGate
  return (s.onCur fun t => t.putX rd (s.bkrdWord (t.getX rs1) (t.getX rs2).toNat)).scalarDone

def execBkrd (rd rs1 rs2 : Reg) (s : State) : Host.Outcome State Fault Refusal := finish (s.bkrdOp rd rs1 rs2)

/-- A class written with a kill: 0 writes 0x17, supervisor; so does what is no code of R271, as no other code is written
(DEDUCED, log 62). -/
def killClass (c : Nat) : Nat := if c = 0 ∨ 0x18 < c then 0x17 else c

/-- The action of `bkrsm`; none: the replay must wait, or the unit stays parked until its batch enters the queue (R293). -/
def State.bkrsmRun (s : State) (token : Word) : Option State :=
  match s.tokenUnit token with
  | none => some s
  | some (.strand t) =>
    if token.getLsbD 63 then some (s.killFault t.lid (killClass (bf token 48 8)))
    else if s.batchWaits t.core t.slot then none
    else s.replay t.uid t.bookmark
  | some (.engine core lid) =>
    if token.getLsbD 63 then some (s.killFault lid (killClass (bf token 48 8)))
    else if s.batchWaits core 4 then none
    else some (s.updCore core fun c => { c with park := none })

def State.bkrsmOp (s : State) (rs1 : Reg) : Res State := do
  let s ← s.sysGate
  let s ← s.releaseCur true false
  match s.bkrsmRun (s.cur.getX rs1) with
  | some s' => return s'.scalarDone
  | none => .error (.wait .store, s)

def execBkrsm (rs1 : Reg) (s : State) : Host.Outcome State Fault Refusal := finish (s.bkrsmOp rs1)

/-! ### `ccmove` (R284) -/

/-- A command block: OP, and the arguments A, B, C. -/
structure CcBlock where
  op : Nat
  a : Word
  b : Word
  c : Word
  deriving DecidableEq, Repr

/-- The block at an address; none when misaligned or with a non-zero byte beside OP, or an OP above 6. -/
def State.readBlock (s : State) (a : Word) : Except Exc (Option CcBlock × State) :=
  if a.toNat % 32 ≠ 0 then .ok (none, s)
  else do
    let (w0, s) ← s.load a 8
    let (w1, s) ← s.load (a + 8) 8
    let (w2, s) ← s.load (a + 16) 8
    let (w3, s) ← s.load (a + 24) 8
    let b : CcBlock := { op := w0, a := BitVec.ofNat 64 w1, b := BitVec.ofNat 64 w2, c := BitVec.ofNat 64 w3 }
    return (if w0 ≤ 6 then some b else none, s)

/-- A command of `ccmove`: the value for xd, and the machine after it. -/
abbrev CcCommand := State → CcBlock → Word × State

/-- The issuing strand takes its place in a carrier's queue (R288). -/
def State.queueUp (s : State) : State :=
  if s.cur.asked = 0 then ({ s with nextAsk := s.nextAsk + 1 } : State).onCur fun t => { t with asked := s.nextAsk } else s

/-- `ccmove` completes with the value of xd, its place in a carrier's queue given up. -/
def State.ccDone (s : State) (rd : Reg) (v : Word) : State := (s.onCur fun t => { t.putX rd v with asked := 0 }).scalarDone

/-- `ccmove` with the command of one OP, which may have to wait, on a machine as it leaves it; a block of another OP is
malformed to its row. -/
def State.ccmoveOp (s : State) (op : Nat) (rd rs1 : Reg) (f : CcCommand)
    (waits : State → CcBlock → Option (Wait × State) := fun _ _ => none) : Res State := do
  let s ← s.sysGate
  let (blk, s) ← lift s (s.readBlock (s.cur.getX rs1))
  match blk with
  | none => return s.ccDone rd (errWord 1)
  | some b =>
    if b.op ≠ op then return s.ccDone rd (errWord 1)
    else
      match waits s b with
      | some (w, s') => .error (.wait w, s')
      | none => let r := f s b; return r.2.ccDone rd r.1

/-- A parked strand taken to a free slot of another core: its appends landed (R163), its context as a carrier move leaves it,
the slot's generation new (log 15). -/
def State.moveParked (s : State) (t : Strand) (id slot : Nat) : Word × State :=
  let s := ((s.landStrips t).flushWc t.uid true true).vacate t.core t.slot
  let (s, ps) := s.takeLanes id slot (lanesOn (coreClass id) t.g)
  let s := s.bumpGen id slot
  let s := s.updStrand t.uid fun t =>
    { t.carried with core := id, slot := slot, migcnt := t.migcnt + 1
                     lanes0 := if t.scratchBytes != 0 then ps else t.lanes0 }
  (tokenWord (s.gen id slot) id slot, s.laneGrant t.core)

/-- The slot of a core to which a parked strand may be moved: on the same die, of the same class, with room. -/
def State.parkedTarget (s : State) (t : Strand) (id : Nat) : Option Nat :=
  if coreIds.contains id ∧ coreDie id = coreDie t.core ∧ coreClass id = t.cls then (s.placeAt t id).map (·.2) else none

/-- OP 0. -/
def ccMove : CcCommand := fun s b =>
  if b.c ≠ 0 then (errWord 1, s)
  else
    match s.tokenUnit b.a with
    | some (.strand t) =>
      match s.parkedTarget t b.b.toNat with
      | some slot => s.moveParked t b.b.toNat slot
      | none => (errWord 3, s)
    | _ => (errWord 2, s)

/-- OP 0 waits, in its turn, while the carrier of the strand's die is busy (R288), or an append cannot land yet (R163). -/
def ccMoveWaits (s : State) (b : CcBlock) : Option (Wait × State) :=
  if b.c ≠ 0 then none
  else
    match s.tokenUnit b.a with
    | some (.strand t) =>
      let die := coreDie t.core
      if (s.parkedTarget t b.b.toNat).isNone
          ∨ (s.carrierFor die (if s.cur.asked = 0 then s.nextAsk else s.cur.asked) && !(s.stripsHeld t)) then none
      else some (.carrier die, s.queueUp)
    | _ => none

/-- A bookmark with a word written: an XREG word, or the PC under CAUSE 3. -/
def Bookmark.put (b : Bookmark) (off : Nat) (v : Word) : Option Bookmark :=
  if off % 8 = 0 ∧ 0x108 ≤ off ∧ off ≤ 0x1F8 then some { b with xreg := b.xreg.setIfInBounds ((off - 0x100) / 8) v }
  else if off = 0x018 ∧ b.cause = 3 then some { b with pc := v }
  else none

/-- OP 1. -/
def ccWriteBookmark : CcCommand := fun s b =>
  match s.tokenUnit b.a with
  | some (.strand t) =>
    match t.bookmark.put b.b.toNat b.c with
    | some bm => (0, s.updStrand t.uid fun t => { t with bookmark := bm })
    | none => (errWord 4, s)
  | _ => (errWord 2, s)

/-- OP 2: the class is 0 or a code of R271. -/
def ccKill : CcCommand := fun s b =>
  if 0x18 < b.c.toNat then (errWord 1, s)
  else
    match s.liveLaunch b.a.toNat b.b.toNat with
    | some _ => (0, s.killFault b.b.toNat (killClass b.c.toNat))
    | none => (errWord 2, s)

/-- OP 3. -/
def ccCancel : CcCommand := fun s b =>
  if b.c ≠ 0 then (errWord 1, s)
  else
    match s.cancelLaunch b.a.toNat b.b.toNat with
    | some s' => (0, s')
    | none => (errWord 2, s)

/-- OP 4. -/
def ccPreempt : CcCommand := fun s b =>
  if b.c ≠ 0 then (errWord 1, s)
  else
    match s.liveLaunch b.a.toNat b.b.toNat with
    | none => (errWord 2, s)
    | some _ =>
      match s.preempt b.b.toNat none with
      | some s' => (0, s')
      | none => (errWord 5, s)

/-- OP 4 waits while the context's descriptor is held back (R303). -/
def ccPreemptWaits (s : State) (b : CcBlock) : Option (Wait × State) :=
  if b.c = 0 ∧ (s.liveLaunch b.a.toNat b.b.toNat).isSome ∧ s.ctxHeld b.a.toNat then some (.store, s) else none

/-- OP 5. -/
def ccResume : CcCommand := fun s b =>
  if b.c ≠ 0 then (errWord 1, s)
  else
    match s.resumeLaunch b.a.toNat b.b.toNat with
    | some s' => (0, s')
    | none => (errWord 2, s)

/-- OP 6 releases the supervisor's scalar agent (R189), and waits for what is held back of it. -/
def ccPostWaits (s : State) (_ : CcBlock) : Option (Wait × State) :=
  match s.releaseCur true false with
  | .error (.wait w, s') => some (w, s')
  | _ => none

/-- OP 6: a system message, held as a `send` would be; discarded when the strand has exited. -/
def ccPost : CcCommand := fun s b =>
  let s := s.flushCur true false
  if bf b.a 12 4 ≠ 0 ∨ bf b.a 20 12 ≠ 0 then (errWord 1, s)
  else
    let sid := bf b.a 32 32
    match s.liveLaunch (bf b.a 0 12) b.b.toNat with
    | none => (errWord 2, s)
    | some l =>
      if !(l.sidOk sid) then (errWord 2, s)
      else
        let ch := qOf (bf b.a 16 4)
        match s.deliver l (sidGlin sid) (sidStage sid) (sidSix sid) { ch := ch, hdr := msgHdr 6 ch.val 0, payload := b.c } with
        | .done s' => (0, s')
        | .exited => (0, s)
        | .poolFull => (errWord 6, s)

def execCcmoveMove (rd rs1 : Reg) (s : State) : Host.Outcome State Fault Refusal :=
  finish (s.ccmoveOp 0 rd rs1 ccMove ccMoveWaits)
def execCcmoveWriteBookmark (s : State) : Host.Outcome State Fault Refusal :=
  finish (s.ccmoveOp 1 s.arg.rd s.arg.rs1 ccWriteBookmark)
def execCcmoveKill (s : State) : Host.Outcome State Fault Refusal := finish (s.ccmoveOp 2 s.arg.rd s.arg.rs1 ccKill)
def execCcmoveCancel (s : State) : Host.Outcome State Fault Refusal := finish (s.ccmoveOp 3 s.arg.rd s.arg.rs1 ccCancel)
def execCcmovePreempt (s : State) : Host.Outcome State Fault Refusal :=
  finish (s.ccmoveOp 4 s.arg.rd s.arg.rs1 ccPreempt ccPreemptWaits)
def execCcmoveResume (s : State) : Host.Outcome State Fault Refusal := finish (s.ccmoveOp 5 s.arg.rd s.arg.rs1 ccResume)
def execCcmovePostMessage (s : State) : Host.Outcome State Fault Refusal :=
  finish (s.ccmoveOp 6 s.arg.rd s.arg.rs1 ccPost ccPostWaits)

/-! ### `frqpop` (R285) -/

/-- The four words of a record (R272). -/
def FaultRec.words (r : FaultRec) : List Nat :=
  [r.addr.toNat, r.lid.toNat, r.token.toNat, r.strandid % 2 ^ 32 + r.info * 2 ^ 32]

/-- Words stored one after another by the scalar agent. -/
def State.storeWords (s : State) (a : Word) : List Nat → Except Exc State
  | [] => .ok s
  | w :: ws => do
    let s ← s.store a 8 w
    s.storeWords (a + 8) ws

def State.frqpopOp (s : State) (rd rs1 : Reg) : Res State := do
  let s ← s.sysGate
  let a := s.cur.getX rs1
  require (a.toNat % 32 == 0) .illegal s
  let die := coreDie s.cur.core
  match (s.die die).frq with
  | [] => return (s.onCur fun t => t.putX rd (-1)).scalarDone
  | r :: rest => do
    let s ← lift s (s.storeWords a r.words)
    let s := s.updDie die fun d => { d with frq := rest }
    return (s.onCur fun t => t.putX rd (BitVec.ofNat 64 rest.length)).scalarDone

def execFrqpop (rd rs1 : Reg) (s : State) : Host.Outcome State Fault Refusal := finish (s.frqpopOp rd rs1)

/-! ### `latw` (R286) -/

/-- A slot whose grant may change: unoccupied, or a parked strand with VDIRTY = 0. -/
def State.grantFree (s : State) (id slot : Nat) : Bool :=
  (s.onCore id).all fun t => t.place != some (id, slot) || (t.status == .parked && t.vdirty == 0)

/-- The grants of a core's strands follow the table (R251). -/
def State.syncGrant (s : State) (id slot : Nat) : State :=
  s.mapStrands fun t =>
    if t.place = some (id, slot) then { t with g := ((s.core id).lanesOf slot).length } else t

/-- One entry of the lane allocation table written. -/
def State.latWrite (s : State) (id p : Nat) (new : Option Nat) : State :=
  let old := (s.core id).lat.getD p none
  if coreIds.contains id ∧ coreClass id = .vector ∧ old ≠ new
      ∧ (old.toList ++ new.toList).all (fun sl => s.grantFree id sl) then
    let s := s.updCore id fun c => { c with lat := listSet c.lat p new }
    let s := (old.toList ++ new.toList).foldl (fun s sl => s.syncGrant id sl) s
    let s := match new with
      | some sl => s.mapStrands fun t => if t.place = some (id, sl) then t.zeroVector else t
      | none => s
    s.laneGrant id
  else s

def State.latwOp (s : State) (rs1 rs2 : Reg) : Res State := do
  let s ← s.sysGate
  let a := s.cur.getX rs1
  let v := s.cur.getX rs2
  let s := if bf a 18 46 ≠ 0 ∨ bf v 8 56 ≠ 0 ∨ bf v 2 5 ≠ 0 then s
    else s.latWrite (bf a 0 16) (bf a 16 2) (if v.getLsbD 7 then some (bf v 0 2) else none)
  return s.scalarDone

def execLatw (rs1 rs2 : Reg) (s : State) : Host.Outcome State Fault Refusal := finish (s.latwOp rs1 rs2)

/-! ### `thrset` (R287) -/

def State.thrWrite (s : State) (die index : Nat) (v : Word) : State :=
  s.updDie die fun d =>
    let others := d.rank.filter fun e => e.1 != index
    { d with rank := if v.getLsbD 16 then sortBy (fun a b => decide (a.1 < b.1)) ((index, bf v 0 16) :: others) else others }

def State.thrsetOp (s : State) (rs1 rs2 : Reg) : Res State := do
  let s ← s.sysGate
  let a := s.cur.getX rs1
  let v := s.cur.getX rs2
  let s := if bf a 9 55 ≠ 0 ∨ bf v 17 47 ≠ 0 then s else s.thrWrite (bf a 8 1) (bf a 0 8) v
  return s.scalarDone

def execThrset (rs1 rs2 : Reg) (s : State) : Host.Outcome State Fault Refusal := finish (s.thrsetOp rs1 rs2)

end Sys2Proof.Machine
end

