-- ==== Sys2Proof/Machine/Host.lean ====
section
/-! DEFINITION. Service calls (R319, R320), collectives (R321, R322), and the freeze point as an event (R209). -/

namespace Sys2Proof.Machine

/-! ### Call slips (R319) -/

/-- The strand's slip: the one it holds, else the lowest one that no existing strand of its context holds. -/
def State.slipFor (s : State) : Option Nat :=
  match s.cur.slip with
  | some i => some i
  | none =>
    (List.range (s.ctxSvcN s.cur.ctx)).find? fun i =>
      !(s.strands.any fun t => t.ctx == s.cur.ctx && t.status != .gone && t.slip == some i)

/-- SVCBASE + 64 i. -/
def State.slipAddr (s : State) (i : Nat) : Word := BitVec.ofNat 64 (s.ctxSvcBase s.cur.ctx + 64 * i)

/-! ### `sysc.b`, `sysc.n` (R320) -/

/-- A posted call: its STATE read again; when it is 10 the reply is taken and the slip is free. -/
def State.syscAnswer (s : State) (rd : Reg) : Res State := do
  match s.cur.slip with
  | none => return (s.onCur fun t => { t with posted := false })
  | some i =>
    let a := s.slipAddr i
    let (st, s) ← lift s (s.load a 8)
    require (st % 4 == 2) (.wait .service) s
    let (r, s) ← lift s (s.load (a + 16) 8)
    let s ← lift s (s.store a 8 (st - 2))
    return (s.onCur fun t => { t.putX rd (BitVec.ofNat 64 r) with posted := false }).scalarDone

/-- The call is written to the slip: SVC, LAUNCHID, the arguments, and last SSTAT. -/
def State.syscPost (s : State) (a svc : Word) : Except Exc State := do
  let t := s.cur
  let s ← s.store (a + 8) 8 svc.toNat
  let s ← s.storeWords (a + 0x18) [t.lid, (t.getX 11).toNat, (t.getX 12).toNat, (t.getX 13).toNat, (t.getX 14).toNat]
  s.store a 8 (t.sid % 2 ^ 32 * 2 ^ 32 + 1)

/-- `sysc.b` and `sysc.n`: the descriptor that gives the slips is read first, when it is not held back (R303), and is a launch
fault where it reads uncorrectable (R292). -/
def State.syscOp (s : State) (blocks : Bool) (rd rs1 : Reg) : Res State := do
  let s ← s.scalarGate anyCls
  require (!(s.ctxHeld s.cur.ctx)) (.wait .store) s
  let s := s.unitTouch (s.ctxAddr s.cur.ctx) 64
  if s.ctxBad s.cur.ctx then return s.launchFault 0x14 0 1 none
  else if blocks && s.cur.posted then s.syscAnswer rd
  else
    match s.slipFor with
    | none =>
      require (!blocks) (.wait .service) s
      return (s.onCur fun t => t.putX rd 0).scalarDone
    | some i =>
      let s := s.onCur fun t => { t with slip := some i }
      let a := s.slipAddr i
      let (st, s) ← lift s (s.load a 8)
      if st % 4 = 1 then
        require (!blocks) (.wait .service) s
        return (s.onCur fun t => t.putX rd 0).scalarDone
      else
        let s ← s.releaseCur true true
        let s ← lift s (s.syscPost a (s.cur.getX rs1))
        if blocks then
          return s.onCur fun t => { t with posted := true, status := .waiting .service }
        else return (s.onCur fun t => t.putX rd a).scalarDone

def execSyscB (rd rs1 : Reg) (s : State) : Host.Outcome State Fault Refusal := finish (s.syscOp true rd rs1)
def execSyscN (rd rs1 : Reg) (s : State) : Host.Outcome State Fault Refusal := finish (s.syscOp false rd rs1)

def execSvcnotifyWrite (s : State) : Host.Outcome State Fault Refusal :=
  .next (s.svcNotify (bf s.arg.word 32 12) (bf s.arg.word 0 16))

/-! ### `cpost` (R322) -/

/-- Word i of a descriptor. -/
def collWord (d : List Nat) (i : Nat) : Nat := d.getD i 0

/-- Element bytes of an FMT. -/
def collBytes (fmt : Nat) : Nat := match fmt with | 0 => 4 | 1 => 2 | 2 => 2 | 3 => 8 | 4 => 4 | _ => 8

/-- The descriptor's own conditions; the buffers are 8-byte aligned (log 17). -/
def collFormed (d : List Nat) : Bool :=
  let c := collWord d 3
  fld c 28 4 == 0 && fld c 48 16 == 0 && fld (collWord d 4) 12 52 == 0 && collWord d 5 == 0 && collWord d 6 == 0
    && collWord d 7 == 0 && 1 ≤ collWord d 2 && collWord d 2 ≤ 2 ^ 32 && fld c 0 4 ≤ 3 && fld c 4 4 ≤ 5 && fld c 8 4 ≤ 2
    && collWord d 0 % 8 == 0 && collWord d 1 % 8 == 0

/-- Word i of a communicator (R321). -/
def State.commWord (s : State) (ctx n i : Nat) : Nat := s.unitNat (s.ctxCommTab ctx + 64 * n + 8 * i) 8

/-- The reserved fields of a communicator are zero (R8, R321). -/
def State.commClean (s : State) (ctx n : Nat) : Bool :=
  fld (s.commWord ctx n 0) 33 31 == 0 && s.commWord ctx n 6 == 0 && s.commWord ctx n 7 == 0

/-- The error that a descriptor meets, in the order of R322; none: queued. A communicator with a reserved bit set is
rejected as one that is not valid (R8; log 60). -/
def State.collFault (s : State) (ctx : Nat) (d : List Nat) : Option Nat :=
  let n := fld (collWord d 4) 0 12
  let rnk := s.commWord ctx n 0
  let port := fld (collWord d 3) 24 4
  if !(collFormed d) then some 1
  else if s.ctxCommN ctx ≤ n then some 3
  else if fld rnk 32 1 = 0 ∨ !(s.commClean ctx n) then some 3
  else if fld rnk 0 16 ≤ fld (collWord d 3) 12 12 then some 1
  else if 8 ≤ port ∨ !(s.plat.netst.getLsbD port) then some 2
  else none

/-- A communicator that a command names, and the context's descriptor, are held back (R290, R303). -/
def State.commHeld (s : State) (ctx : Nat) (d : List Nat) : Bool :=
  let n := fld (collWord d 4) 0 12
  s.ctxHeld ctx || decide (n < s.ctxCommN ctx) && s.held (s.ctxCommTab ctx + 64 * n) false

/-- They read uncorrectable (R292). -/
def State.commBad (s : State) (ctx : Nat) (d : List Nat) : Bool :=
  let n := fld (collWord d 4) 0 12
  s.ctxBad ctx || decide (n < s.ctxCommN ctx) && s.bad.contains (lineOf (s.ctxCommTab ctx + 64 * n))

/-- Those reads are tracked (R182). -/
def State.commTouch (s : State) (ctx : Nat) (d : List Nat) : State :=
  let n := fld (collWord d 4) 0 12
  let s := s.unitTouch (s.ctxAddr ctx) 64
  if n < s.ctxCommN ctx then s.unitTouch (s.ctxCommTab ctx + 64 * n) 64 else s

/-- The command of a descriptor. -/
def State.collCmd (s : State) (d : List Nat) (ch : QReg) : CollCmd :=
  let t := s.cur
  let c := collWord d 3
  let rnk := s.commWord t.ctx (fld (collWord d 4) 0 12) 0
  { uid := t.uid, lid := t.lid, ctx := t.ctx, strandid := t.sid, glin := t.glin, stage := t.stage, six := t.six, ch := ch,
    sbuf := BitVec.ofNat 64 (collWord d 0), rbuf := BitVec.ofNat 64 (collWord d 1), count := collWord d 2,
    op := fld c 0 4, fmt := fld c 4 4, rop := fld c 8 4, root := fld c 12 12, tag := fld c 32 16,
    rank := fld rnk 16 16, nrank := fld rnk 0 16, port := fld c 24 4, lost := false }

/-- n words read from an address up. -/
def State.loadWords (s : State) (a : Word) : Nat → Except Exc (List Nat × State)
  | 0 => .ok ([], s)
  | n + 1 => do
    let (w, s) ← s.load a 8
    let (ws, s) ← s.loadWords (a + 8) n
    return (w :: ws, s)

/-- A command whose turn has come: the descriptor is read and checked, and the command queued, or an error word
written. It keeps its turn while its communicator is held back (R303); one that reads uncorrectable is a launch fault (R292),
its address no virtual one (0). -/
def State.acceptColl (s : State) (addr : Word) (ch : QReg) (rd : Reg) : Res State := do
  let (d, s) ← lift s (s.loadWords addr 8)
  require (!(collFormed d && s.commHeld s.cur.ctx d)) (.wait (.collective addr ch rd)) s
  let s := if collFormed d then s.commTouch s.cur.ctx d else s
  if collFormed d && s.commBad s.cur.ctx d then return s.launchFault 0x14 0 1 none
  else
  match s.collFault s.cur.ctx d with
  | some e => return (s.onCur fun t => t.putX rd (errWord e)).scalarDone 8
  | none =>
    let c := s.collCmd d ch
    let s := s.updDie (coreDie s.cur.core) fun k => { k with coll := k.coll ++ [c] }
    return (s.onCur fun t => t.putX rd 0).scalarDone 8

def State.cpostOp (s : State) (rd rs1 : Reg) (ch : QReg) : Res State := do
  let s ← s.scalarGate clsC
  let a := s.cur.getX rs1
  require (a.toNat % 64 == 0) .illegal s
  let s ← s.releaseCur true true
  require ((s.die (coreDie s.cur.core)).coll.length < 64) (.wait (.collective a ch rd)) s
  s.acceptColl a ch rd

def execCpost (rd rs1 : Reg) (ch : QReg) (s : State) : Host.Outcome State Fault Refusal := finish (s.cpostOp rd rs1 ch)

/-- Strands that wait for a die's collective engine, by core and slot, with their commands. -/
def State.collWaiters (s : State) (die : Nat) : List (Nat × Nat × Word × QReg × Reg) :=
  let ws := s.strands.filterMap fun t =>
    match t.status with
    | .waiting (.collective a ch rd) => if coreDie t.core = die then some (t.core * 4 + t.slot, t.uid, a, ch, rd) else none
    | _ => none
  sortBy (fun a b => decide (a.1 < b.1)) ws

/-- COLLECTIVE_QUEUE_ACCEPT: the first waiting command enters the queue. -/
def State.collAccept (s : State) (die : Nat) : State :=
  if (s.die die).coll.length ≥ 64 then s
  else
    match s.collWaiters die with
    | [] => s
    | (_, uid, a, ch, rd) :: _ =>
      s.asStrand uid fun s =>
        match (s.onCur (·.setStatus .running)).acceptColl a ch rd with
        | .ok s' => s'
        | .error (e, s') => s'.takeExc e

/-! ### The collective itself (R322) -/

/-- One step of a fold on two elements of a format. -/
def collStep (fmt rop a b : Nat) : Nat :=
  let rne : Round := { rm := .rne, sat := false, ftz := false }
  let fp (f : Fmt) : Nat := if rop = 0 then (f.add rne a b).1 else (f.minmax (rop == 1) a b).1
  let int (w : Nat) : Nat :=
    if rop = 0 then (a + b) % 2 ^ w
    else if decide (signedOf w a < signedOf w b) == (rop == 1) then b else a
  match fmt with
  | 0 => fp fp32
  | 1 => fp bf16
  | 2 => fp fp16
  | 3 => fp fp64
  | 4 => int 32
  | _ => int 64

/-- Element i of a buffer. -/
def collElem (eb : Nat) (bs : List Byte) (i : Nat) : Nat := leNat ((bs.drop (eb * i)).take eb)

/-- The fold of element i over the ranks, ascending. -/
def collFold (fmt rop : Nat) (bufs : List (List Byte)) (i : Nat) : Nat :=
  match bufs.map fun b => collElem (collBytes fmt) b i with
  | [] => 0
  | x :: xs => xs.foldl (collStep fmt rop) x

/-- Bytes of a rank's source buffer. -/
def CollCmd.srcBytes (c : CollCmd) (rank : Nat) : Nat :=
  let eb := collBytes c.fmt
  match c.op with
  | 1 => c.count * c.nrank * eb
  | 3 => if rank = c.root then c.count * eb else 0
  | _ => c.count * eb

/-- Bytes of the destination. -/
def CollCmd.dstBytes (c : CollCmd) : Nat := c.count * (if c.op = 2 then c.nrank else 1) * collBytes c.fmt

/-- The bytes this rank receives, from every rank's source. -/
def CollCmd.result (c : CollCmd) (bufs : List (List Byte)) : List Byte :=
  let eb := collBytes c.fmt
  let folded (first : Nat) : List Byte :=
    (List.range c.count).flatMap fun i => leBytes eb (collFold c.fmt c.rop bufs (first + i))
  match c.op with
  | 0 => folded 0
  | 1 => folded (c.rank * c.count)
  | 2 => bufs.flatMap fun b => b.take (c.count * eb)
  | _ => (bufs.getD c.root []).take (c.count * eb)

/-- An address in each block of so many bytes of [a, a + n). -/
def probes (size : Nat) (a : Word) (n : Nat) : List Int :=
  if n = 0 then []
  else
    let lo := a.toInt
    let first := lo / size
    (List.range ((lo + n - 1) / size + 1 - first).toNat).map fun i => if i = 0 then lo else (first + (i : Nat)) * size

/-- An address in each page of [a, a + n). -/
def pageProbes (a : Word) (n : Nat) : List Int := probes 65536 a n

/-- A page whose leaf names no device memory (R322). -/
def State.offDevice (s : State) (ctx : Nat) (a : Int) : Bool :=
  match s.walkFrom ctx (unsignedOf 55 a) with
  | .leaf _ e _ => pteTgt e != 0
  | _ => false

/-- The buffers' accesses judged, every line of the source, which the copies of it answer (R182), and then every page of the
destination. -/
def State.collJudge (s : State) (c : CollCmd) : Except EngineEnd State :=
  let src := probes 128 c.sbuf (c.srcBytes c.rank)
  let dst := pageProbes c.rbuf c.dstBytes
  if (pageProbes c.sbuf (c.srcBytes c.rank) ++ dst).any fun a => s.offDevice c.ctx a then .error (.kill 0x0A 0 0)
  else s.engCheck c.ctx 1 (src.map (fun a => (a, .load)) ++ dst.map (fun a => (a, .store)))

/-- This rank's source, read from memory. -/
def State.collSource (s : State) (c : CollCmd) : List Byte :=
  (List.range (c.srcBytes c.rank)).map fun i => BitVec.ofNat 8 (s.engRead c.ctx (c.sbuf.toInt + (i : Nat)) 1)

/-- Bytes written to the destination. -/
def State.collWrite (s : State) (c : CollCmd) (bs : List Byte) : State :=
  (bs.zipIdx).foldl (fun s b => s.engWrite c.ctx (c.rbuf.toInt + (b.2 : Nat)) 1 b.1.toNat) s

/-- What RBUF holds after a collective that failed: free values (log 4). -/
def State.collFree (s : State) (n : Nat) : List Byte × State :=
  ((List.range n).map fun i => (Config.freeWord (s.free + i)).setWidth 8, { s with free := s.free + n })

/-- How a command ends: with STAT 2 when its link was lost while it ran (R328), else as the network says. -/
def CollCmd.stat (c : CollCmd) (r : CollResult) : Nat := if c.lost then 2 else r.stat

/-- A link that goes down is lost to the commands accepted for its port and not complete (R328; log 36). -/
def State.linkLost (s : State) (port : Nat) : State :=
  let f (k : Die) : Die := { k with coll := k.coll.map fun c => if c.port = port then { c with lost := true } else c }
  (s.updDie 0 f).updDie 1 f

/-- The other ranks' sources have the lengths of the command. -/
def CollCmd.fits (c : CollCmd) (r : CollResult) : Bool :=
  c.lost || r.stat ≤ 2 && (r.stat != 0 || (r.ranks.length == c.nrank && (r.ranks.zipIdx).all fun b =>
    b.2 == c.rank || b.1.length == c.srcBytes b.2))

/-- The head command of a die carried out: with every rank's source, or with a failure (STAT 1 or 2). -/
def State.runColl (s : State) (die : Nat) (c : CollCmd) (r : CollResult) : EngineEnd :=
  match s.collJudge c with
  | .error e => e
  | .ok s =>
    let (bs, s) := if c.stat r = 0 then (c.result (r.ranks.set c.rank (s.collSource c)), s) else s.collFree c.dstBytes
    let s := s.collWrite c bs
    let s := s.updDie die fun k => { k with coll := k.coll.drop 1 }
    .done (s.post c.lid c.glin c.stage c.six
      { ch := c.ch, hdr := msgHdr 3 c.ch.val (c.strandid % 2 ^ 32)
        payload := BitVec.ofNat 64 (c.tag * 2 ^ 32 + c.stat r * 2 ^ 24) })

/-- COLLECTIVE_COMPLETE: the command at the head of a die's queue ends; a repairable fault parks the engine of the die's
core 0, which stands for the collective engine in tokens (log 17). -/
def State.collComplete (s : State) (die : Nat) (r : CollResult) : State :=
  let core := die % 2 * 4096
  match (s.core core).park, (s.die die).coll with
  | none, c :: _ =>
    if !(c.fits r) then s
    else
      match s.runColl die c r with
      | .done s' => s'
      | .stall => s
      | .pages ps => (s.walked c.ctx (ps.map (·.1))).engineParks core c.lid c.ctx c.strandid ps
      | .kill cls addr acc => (s.faultWalk c.ctx cls addr).unitFault core 4 c.lid c.ctx c.strandid cls addr acc
  | _, _ => s

def execCollectiveQueueAccept (s : State) : Host.Outcome State Fault Refusal := .next (s.collAccept s.arg.die)
def execCollectiveComplete (s : State) : Host.Outcome State Fault Refusal := .next (s.collComplete s.arg.die s.arg.coll)

/-! ### The freeze point (R209) -/

/-- A kill that waited for a freeze of its launch is made (R209). -/
def State.killDying (s : State) (uid : Nat) : State :=
  match s.strand uid with
  | none => s
  | some t =>
    match (s.launch t.lid).bind (·.dying) with
    | some (code, cls) => s.kill t.lid code cls
    | none => s

/-- FREEZE_POINT of the freeze that a strand executes. -/
def execFreezePoint (s : State) : Host.Outcome State Fault Refusal :=
  .next (match s.cat.jobs.find? fun j => j.uid == s.arg.uid with | some j => (s.freezeJob j).killDying j.uid | none => s)

end Sys2Proof.Machine
end

