-- ==== Sys2Proof/Machine/Coherence.lean ====
section
/-! DEFINITION. Coherence and freezing as the outside meets them: the notification network, the snoop ports and the
directory (R180 to R183, R297), the host's and the peers' accesses to device memory (R210, R307), requests in flight
during a sweep (R298, R303), acknowledgements and the end of a collection (R211), page locks (R290), reservations and
buffers that time ends (R184, R198, R199), TLB invalidation (R269), and the destruction of a context (R214, R308). -/

namespace Sys2Proof.Machine

/-! ### The host and peers at device memory (R210, R211, R307) -/

/-- The holder's bit is set in every active entry that covers a page. -/
def State.addHolder (s : State) (page holder : Nat) : State :=
  let f (e : FrzEntry) : FrzEntry :=
    if e.pages.contains page then { e with holders := e.holders ||| BitVec.ofNat 64 (2 ^ holder) } else e
  { s with cat := { s.cat with entries := s.cat.entries.map f } }

/-- A CXL.mem access lies within one line (log 18). -/
def inLine (a n : Nat) : Bool := 0 < n && lineOf a == lineOf (a + n - 1)

def State.hostAnswer (s : State) (r : Option (List Byte)) : State :=
  { s with hc := { s.hc with reads := r :: s.hc.reads } }

/-- The host port presents device memory: not after a failed boot (R324). -/
def State.hostPlace (s : State) (a : Nat) : Option Phys :=
  if !s.plat.booted || s.mem.lim * 65536 ≤ a then none else s.tablePhys a

/-- An access of the host waits for a window, a lock or a collection (R210, R290, R303). -/
def State.hostWait (s : State) (a n : Nat) (w : Option (List Byte)) : State :=
  { s with coh := { s.coh with hostReqs := s.coh.hostReqs ++ [{ addr := a, n := n, write := w }] } }

/-- The key of a host access waits for its entry of the page key table (R303). -/
def State.hostKeyHeld (s : State) (a : Nat) : Bool :=
  s.plat.booted && decide (a < s.mem.lim * 65536) && s.tableHeld a

/-- The entry of the page key table that a refused access read (R182): none after a failed boot. -/
def State.hostAsked (s : State) (a : Nat) : State := if s.plat.booted then s.tableAsked a else s

/-- HOST_CXL_MEM_READ: beyond the fault limit, without a key, or of an uncorrectable line (R292), an error response. -/
def State.hostLoad (s : State) (a n : Nat) : State :=
  if !(inLine a n) then s
  else
    match s.hostPlace a with
    | none => if s.hostKeyHeld a then s.hostWait a n none else (s.hostAsked a).hostAnswer none
    | some p =>
      if s.held a true || s.tableHeld a then s.hostWait a n none
      else if s.badPiece (p, n) then (s.tableTouch a).hostAnswer none
      else
        let s := (s.tableTouch a).hostAnswer (some (s.readPhys p n))
        if s.freezeCount (pageOf a) > 0 then s.addHolder (pageOf a) 0
        else s.dirArrive { src := .host, space := .dev, line := lineOf a, write := false }

/-- A host write that nothing stands in the way of. -/
def State.hostPut (s : State) (p : Phys) (bs : List Byte) : State :=
  ((s.tableTouch p.addr).writePhys p bs none).dirArrive { src := .host, space := .dev, line := lineOf p.addr, write := true }

/-- HOST_CXL_MEM_WRITE: refused and logged on a frozen page, without a key, or beyond the fault limit; it waits for a
collection, a window or a lock. -/
def State.hostStore (s : State) (a : Nat) (bs : List Byte) : State :=
  if !(inLine a bs.length) then s
  else
    match s.hostPlace a with
    | none =>
      if s.hostKeyHeld a then s.hostWait a bs.length (some bs)
      else if s.plat.booted then (s.hostAsked a).refuseHostWrite a else s
    | some p =>
      match s.writeGate (pageOf a) with
      | .frozen => s.refuseHostWrite a
      | .stall => s.hostWait a bs.length (some bs)
      | .free => if s.held a true || s.tableHeld a then s.hostWait a bs.length (some bs) else s.hostPut p bs

/-- Accesses of the host that waited are taken again, in order. -/
def State.hostRetry (s : State) : State :=
  s.coh.hostReqs.foldl (fun s r => match r.write with | some bs => s.hostStore r.addr bs | none => s.hostLoad r.addr r.n)
    { s with coh := { s.coh with hostReqs := [] } }

/-- PEER_READ of a frozen line: the peer, other than pooled memory, becomes a holder. -/
def State.peerLoad (s : State) (peer a : Nat) : State :=
  if 1 ≤ peer ∧ peer ≤ 63 ∧ s.freezeCount (pageOf a) > 0 then s.addHolder (pageOf a) peer else s

/-! ### Requests in flight during a sweep (R303) -/

/-- The strand of a request stops at its launch fault: the trap and its record are made (R271); on a control core the
launch is killed directly (R279). -/
def State.strandFault (s : State) (t : Strand) (cls acc : Nat) (addr : Nat) : State :=
  if t.cls = .control then s.killFault t.lid cls
  else s.updStrand t.uid (·.setStatus (.trapping { cause := 2, cls := cls, pages := [(addr, 2, acc)], entry := none }))

/-- The strand stands at an instruction, in its slot: a fault of an access of its own traps it there. -/
def Strand.traps (t : Strand) : Bool :=
  match t.status with
  | .running | .waiting _ | .yielding _ | .moving _ | .migWait _ => true
  | _ => false

/-- A request whose agent meets a launch fault: a unit's own store is dropped, and where it was made for a launch that still
runs, the launch is killed as R241 says of such a write (0x0A; log 60); the host is answered with an error; a strand that
stands at an instruction traps; for any other strand, and for an engine, the record is posted and the launch killed (R271).
-/
def State.requestFault (s : State) (r : MemReq) (cls : Nat) : State :=
  if r.unit then (if r.lid = 0 then s else s.killFault r.lid 0x0A)
  else if r.lid = 0 then (if r.write.isSome then s.refuseHostWrite r.dla else s.hostAnswer none)
  else
    let acc := if r.write.isSome then 2 else 1
    let ctx := match s.launch r.lid with | some l => l.ctx | none => 0
    match s.strands.find? fun t => r.uid != 0 && t.uid == r.uid && t.lid == r.lid && !t.system && t.status != .gone with
    | some t =>
      match r.engine with
      | some core => s.unitFault core 4 r.lid ctx t.sid cls r.dla acc
      | none => if t.traps then s.strandFault t cls acc r.dla else s.unitFault t.core t.slot r.lid ctx t.sid cls r.dla acc
    | none =>
      match r.engine with
      | some core => s.unitFault core 4 r.lid ctx 0 cls r.dla acc
      | none => s.killFault r.lid cls

/-- The place of a request, under the key it carries (R306). -/
def reqPlace (r : MemReq) : Phys := { space := .dev, addr := r.dla, key := r.key, unt := false }

/-- An error that a stack corrects in answering a request is counted (R311). -/
def State.countCe (s : State) (r : MemReq) : State :=
  if r.corrected then
    { s with plat := { s.plat with stkce := listSet s.plat.stkce r.stack (s.plat.stkce.getD r.stack 0 + 1) } }
  else s

/-- A write-back of a write-combining buffer performed: its stores have been, so a freeze does not stop it (R184, R191). -/
def State.backDone (s : State) (r : MemReq) (bs : List Byte) (vec : Bool) : State :=
  if s.locked (pageOf r.dla) then { s with coh := { s.coh with stalled := s.coh.stalled ++ [r] } }
  else (s.countCe r).writePhys { reqPlace r with unt := true } bs (if vec then none else some r.uid)

/-- A request performed where its granule lies. -/
def State.requestDone (s : State) (r : MemReq) : State :=
  match r.write, r.combined with
  | none, _ => (s.countCe r).l2Touch (reqPlace r, 1) false
  | some bs, some vec => s.backDone r bs vec
  | some bs, none =>
    match s.writeGate (pageOf r.dla) with
    | .frozen => s.requestFault r 0x10
    | .stall => { s with coh := { s.coh with stalled := s.coh.stalled ++ [r] } }
    | .free => ((s.countCe r).l2Touch (reqPlace r, bs.length) true).writePhys (reqPlace r) bs none

/-- MEMORY_REQUEST_ARRIVAL, judged against P: beyond capacity, in the window or at a page the other side moves, at a stack
its granule has left (it replays under the mapping in force), or performed. -/
def State.memArrive (s : State) (r : MemReq) : State :=
  let g := r.dla / 4096
  let m := s.mem
  let n := match r.write with | some bs => bs.length | none => 1
  if !(inLine r.dla n) then s
  else if m.lim * 65536 ≤ r.dla then s.requestFault r 0x15
  else if s.held r.dla false || (r.lid == 0 && !r.unit && s.held r.dla true) then
    { s with coh := { s.coh with stalled := s.coh.stalled ++ [r] } }
  else if m.stackOf g ≠ r.stack then
    { s with agenda :=
        { row := .memoryRequestArrival, arg := { memReq := { r with stack := m.stackOf g } } } :: s.agenda }
  else s.requestDone r

/-- Stalled requests are judged again, those of the old mapping under the new one. -/
def State.memRetry (s : State) : State :=
  s.coh.stalled.foldl (fun s r => s.memArrive { r with stack := s.mem.stackOf (r.dla / 4096) })
    { s with coh := { s.coh with stalled := [] } }

/-- What waited for a window, a lock or a collection is taken again: requests in flight, a unit's stores among them, before the
host's accesses, which find what was stored (R316). -/
def State.unhold (s : State) : State := s.memRetry.hostRetry

/-! ### Acknowledgements and the end of a collection (R211) -/

def State.dropAcks (s : State) (p : Nat × Nat → Bool) : State :=
  { s with cat := { s.cat with acks := s.cat.acks.filter fun a => !(p a) } }

/-- PEER_ACK_TIMEOUT (R323). -/
def State.peerLate (s : State) (peer : Nat) : State :=
  if peer ≠ 0 ∧ s.cat.acks.any (fun a => a.2 == peer) then
    let s := s.dropAcks fun a => a.2 == peer
    ({ s with plat := { s.plat with peerst := s.plat.peerst ||| BitVec.ofNat 64 (2 ^ peer) } }).merr mPEERFAIL
  else s

/-- HOST_BI_TIMEOUT. -/
def State.hostLate (s : State) : State :=
  if s.cat.acks.any fun a => a.2 == 0 then (s.dropAcks fun a => a.2 == 0).merr mHOSTBI else s

/-- Every invalidate-Z of the entry is delivered and every holder has acknowledged. -/
def State.collectionOver (s : State) (e : FrzEntry) : Bool :=
  e.thawing && !(s.cat.acks.any fun a => a.1 == e.idx)
    && !((s.die0.notifs ++ s.die1.notifs).any fun n => n.invZ && e.pages.contains (n.req.line / 512))

/-- COLLECTION_COMPLETE: the writes that waited are performed. -/
def State.collectionEnd (s : State) (idx : Nat) : State :=
  match s.cat.entries.find? fun e => e.idx == idx with
  | some e => if s.collectionOver e then (s.endCollection idx).unhold else s
  | none => s

/-! ### Destruction of a context (R214, R308) -/

/-- Key slots of a context are erased, its code objects forgotten. -/
def State.eraseContext (s : State) (ctx : Nat) : State :=
  { s with
    keys := s.keys.map fun k => if k.owner.toNat = ctx ∧ k.en then { k with en := false, key := none } else k
    lu := { s.lu with code := s.lu.code.filter fun c => c.ctx != ctx } }

/-- CONTEXT_DESTROY: refused while a launch of the context lives, of which R214 and R308 say nothing (DESIGN CHOICE, log 66).
Its frozen entries are thawed; with none left its keys
are erased, else the event is repeated after the collections (log 18). -/
def State.destroyContext (s : State) (ctx : Nat) : State :=
  if s.lu.launches.any fun l => l.ctx == ctx && l.live then s
  else
    let s := (s.cat.entries.filter fun e => e.ctx == ctx && !e.thawing).foldl (fun s e => s.startThaw e 0 none) s
    if s.cat.entries.any fun e => e.ctx == ctx then s else s.eraseContext ctx

/-! ### Page locks (R290) -/

/-- The freeze counts, the holders, and the collections and freezes in progress of a page go to another (R214). -/
def Catalogue.moved (c : Catalogue) (page target : Nat) : Catalogue :=
  let f (p : Nat) : Nat := if p = page then target else p
  { c with
    entries := c.entries.map fun e => { e with pages := e.pages.map f }
    jobs := c.jobs.map fun j => { j with pages := j.pages.map f }
    collecting := c.collecting.map fun e => (e.1, f e.2) }

/-- PAGE_MIGRATION_REQUEST of a page, to a device page or (itself) off the device: the first to take the lock wins, and
the other side's accesses wait (R290). The holder's next request ends the migration: counts and holders are carried, the
lock is free, and what waited replays under the new mapping (R214; log 18). -/
def State.pageLock (s : State) (page : Nat) (byHost : Bool) (target : Nat) : State :=
  match s.xl.locks.find? fun l => l.page == page with
  | none => { s with xl := { s.xl with locks := s.xl.locks ++ [{ page := page, byHost := byHost, target := target }] } }
  | some l =>
    if l.byHost = byHost then
      ({ s with xl := { s.xl with locks := s.xl.locks.erase l }, cat := s.cat.moved page l.target }).unhold
    else s

/-! ### The events -/

/-- PAGE_TABLE_WALK of an address in a context (R268, R270). -/
def execPageTableWalk (s : State) : Host.Outcome State Fault Refusal :=
  .next (s.judge s.arg.ctx (s.arg.word.toNat % 2 ^ 55) s.arg.acc).2
def execTlbinvAll (s : State) : Host.Outcome State Fault Refusal := .next (s.tlbRequest s.arg.ctx none)
def execTlbinvPage (s : State) : Host.Outcome State Fault Refusal := .next (s.tlbRequest s.arg.ctx (some s.arg.page))

/-- Every access of a strand's vector agent is performed (R202). -/
def Strand.performAll (t : Strand) : Strand := { t with pend := Vector.replicate 32 0 }

/-- TLB_INVALIDATION_COMPLETE: the oldest request, once every access that used an entry has been performed: those of the
write-combining buffers and the elements of vector stores and atomics are now, and it waits for those that stand by (R202,
R269). -/
def State.tlbComplete (s : State) : State :=
  match s.xl.requests with
  | [] => s
  | _ :: rest =>
    let s := s.strands.foldl (fun s t => s.flushWc t.uid true true) s
    if s.coh.stalled.any fun r => r.lid != 0 || r.combined.isSome then s
    else { s.mapStrands Strand.performAll with xl := { s.xl with requests := rest, done := s.xl.done + 1 } }

def execTlbInvalidationComplete (s : State) : Host.Outcome State Fault Refusal := .next s.tlbComplete

def execNotificationDelivery (s : State) : Host.Outcome State Fault Refusal := .next (s.notifDeliver s.arg.die)
def execSnoopAnswer (s : State) : Host.Outcome State Fault Refusal := .next (s.snoopReply s.arg.core)
def execDirectoryRequest (s : State) : Host.Outcome State Fault Refusal :=
  .next (s.dirArrive { src := s.arg.req, space := s.arg.space, line := s.arg.addr, write := s.arg.flag })

/-- WC_BUFFER_DRAIN: the oldest buffer of an agent of a strand (R184). -/
def execWcBufferDrain (s : State) : Host.Outcome State Fault Refusal :=
  .next (match s.strand s.arg.uid with
    | none => s
    | some t =>
      match t.wc s.arg.flag with
      | [] => s
      | b :: rest =>
        (s.flushBuf b t s.arg.flag).updStrand t.uid fun t => t.putWc s.arg.flag rest)

def execMemoryRequestArrival (s : State) : Host.Outcome State Fault Refusal := .next (s.memArrive s.arg.memReq)
def execHostCxlMemRead (s : State) : Host.Outcome State Fault Refusal := .next (s.hostLoad s.arg.addr s.arg.n)
def execHostCxlMemWrite (s : State) : Host.Outcome State Fault Refusal := .next (s.hostStore s.arg.addr s.arg.bytes)
def execPeerRead (s : State) : Host.Outcome State Fault Refusal := .next (s.peerLoad s.arg.peer s.arg.addr)
def execPageMigrationRequest (s : State) : Host.Outcome State Fault Refusal := .next (s.pageLock s.arg.page s.arg.flag s.arg.addr)
def execReservationExpiry (s : State) : Host.Outcome State Fault Refusal :=
  .next (s.updStrand s.arg.uid fun t => { t with res := [] })
def execVwaitReevaluation (s : State) : Host.Outcome State Fault Refusal :=
  .next (s.updStrand s.arg.uid fun t => if t.status = .waiting .memory then t.setStatus .running else t)
def execBackInvalidationAck (s : State) : Host.Outcome State Fault Refusal :=
  .next (s.dropAcks fun a => a == (s.arg.entry, s.arg.peer))
def execPeerAckTimeout (s : State) : Host.Outcome State Fault Refusal := .next (s.peerLate s.arg.peer)
def execHostBiTimeout (s : State) : Host.Outcome State Fault Refusal := .next s.hostLate
def execCollectionComplete (s : State) : Host.Outcome State Fault Refusal := .next (s.collectionEnd s.arg.entry)
def execContextDestroy (s : State) : Host.Outcome State Fault Refusal := .next (s.destroyContext s.arg.ctx)

/-- OWNER_BACK_INVALIDATION of a line of host, pooled or peer memory: every copy goes, and the directory follows (R183). -/
def State.ownerTakes (s : State) (sp : Space) (line : Nat) : State :=
  if sp = .dev then s else (s.dropLine sp line none).dirSync sp line (s.dirEntry sp line).host

def execOwnerBackInvalidation (s : State) : Host.Outcome State Fault Refusal := .next (s.ownerTakes s.arg.space s.arg.addr)

end Sys2Proof.Machine
end

