-- ==== Sys2Proof/Machine/LaunchUnit.lean ====
section
/-! DEFINITION. The launch unit: queue entries (R233 to R235, R263, R313), code objects (R77, R81, R237), acceptance of a
launch record (R238 to R241), `lnch` (R250), the dispatch decision (R243 to R247), pre-emption, save and resumption (R257
to R262), messages on their way (R205, R207). -/

namespace Sys2Proof.Machine

/-! ### Status codes (R236) -/

def lsOK : Nat := 0x01
def lsRECORD : Nat := 0x10
def lsGRID : Nat := 0x11
def lsSTAGES : Nat := 0x12
def lsSTREAMDIR : Nat := 0x13
def lsDEP0 : Nat := 0x14
def lsNOCLASS : Nat := 0x18
def lsNOFIT : Nat := 0x19
def lsRESOURCE : Nat := 0x1A
def lsBUSY : Nat := 0x1B
def lsCODE : Nat := 0x1C
def lsPROFILE : Nat := 0x20
def lsFORMAT : Nat := 0x21

/-! ### The launch record (R238) -/

/-- A field of n bytes at an offset of a record's bytes. -/
def rb (bs : List Byte) (off n : Nat) : Nat := leNat ((bs.drop off).take n)

def recNstg (bs : List Byte) : Nat := fld (rb bs 0x09 1) 0 4
def recNdep (bs : List Byte) : Nat := fld (rb bs 0x09 1) 4 3
def recNstrm (bs : List Byte) : Nat := fld (rb bs 0x0A 1) 0 5

/-- A dependence vector (dz, dy, dx). -/
def recDep (w : Nat) : Int × Int × Int := (signedOf 5 (fld w 10 5), signedOf 5 (fld w 5 5), signedOf 5 (fld w 0 5))

def recStrm (w : Nat) : StrmRec := { src := fld w 0 3, dst := fld w 3 3, space := fld w 6 2, nslot := fld w 8 7 }

/-- Stage descriptor i. -/
def recStage (bs : List Byte) (i : Nat) : StageRec :=
  let o := 0xA0 + 12 * i
  { entry := rb bs o 4, cls := fld (rb bs (o + 4) 1) 0 2, n := fld (rb bs (o + 4) 1) 4 4 + 1,
    l := fld (rb bs (o + 5) 1) 0 3, tiles := fld (rb bs (o + 5) 1) 3 5, accRows := fld (rb bs (o + 6) 2) 0 11,
    act4k := fld (rb bs (o + 8) 1) 0 7, scratch256 := fld (rb bs (o + 9) 1) 0 7 }

def parseRec (bs : List Byte) : LaunchRec :=
  { codeh := BitVec.ofNat 64 (rb bs 0 8), kern := rb bs 0x08 1, prio := fld (rb bs 0x0B 1) 0 3,
    nobin := flag (rb bs 0x0B 1) 3, nx := rb bs 0x10 2 + 1, ny := rb bs 0x12 2 + 1, nz := rb bs 0x14 2 + 1,
    deps := (List.range (recNdep bs)).map fun i => recDep (rb bs (0x18 + 2 * i) 2),
    args := BitVec.ofNat 64 (rb bs 0x20 8), stkBase := rb bs 0x28 8, stkSz := rb bs 0x30 4, stkN := rb bs 0x34 4,
    ovfl := rb bs 0x38 8, ovflN := rb bs 0x40 4, sx := fld (rb bs 0x44 4) 0 6, sy := fld (rb bs 0x44 4) 8 6,
    sz := fld (rb bs 0x44 4) 16 6, sbrd := rb bs 0x48 8, after := rb bs 0x50 8, lbase := rb bs 0x58 8,
    strms := (List.range (recNstrm bs)).map fun i => recStrm (rb bs (0x80 + 2 * i) 2),
    stages := (List.range (min 8 (recNstg bs))).map (recStage bs) }

/-- Reserved fields of a stage descriptor in use are zero. -/
def stageReserved (bs : List Byte) (i : Nat) : Bool :=
  let o := 0xA0 + 12 * i
  fld (rb bs (o + 4) 1) 2 2 == 0 && fld (rb bs (o + 6) 2) 11 5 == 0 && !(flag (rb bs (o + 8) 1) 7)
    && !(flag (rb bs (o + 9) 1) 7) && rb bs (o + 10) 2 == 0

/-- Every reserved field of a record is zero; NDEP and NSTRM name entries that exist. -/
def recReserved (bs : List Byte) : Bool :=
  !(flag (rb bs 0x09 1) 7) && recNdep bs ≤ 4 && fld (rb bs 0x0A 1) 5 3 == 0 && recNstrm bs ≤ 16
    && fld (rb bs 0x0B 1) 4 4 == 0 && rb bs 0x0C 4 == 0 && rb bs 0x16 2 == 0
    && ((List.range 4).all fun i =>
        let w := rb bs (0x18 + 2 * i) 2
        if i < recNdep bs then !(flag w 15) else w == 0)
    && fld (rb bs 0x44 4) 6 2 == 0 && fld (rb bs 0x44 4) 14 2 == 0 && fld (rb bs 0x44 4) 22 10 == 0
    && rb bs 0x68 24 == 0
    && ((List.range 16).all fun i =>
        let w := rb bs (0x80 + 2 * i) 2
        if i < recNstrm bs then !(flag w 15) else w == 0)
    && ((List.range 8).all fun i => if i < recNstg bs then stageReserved bs i else rb bs (0xA0 + 12 * i) 12 == 0)

def LaunchRec.groups (r : LaunchRec) : Nat := r.nx * r.ny * r.nz
def LaunchRec.strands (r : LaunchRec) : Nat := (r.stages.map (·.n)).sum

/-- Alignments and ranges that R239 counts as LS_RECORD. -/
def LaunchRec.formed (r : LaunchRec) : Bool :=
  r.stkBase % 16 == 0 && r.stkSz % 16 == 0 && r.ovfl % 64 == 0 && r.sbrd % 64 == 0
    && (r.strms.all fun d => d.space != 3 && 2 ≤ d.nslot && d.nslot ≤ 64)
    && (r.stkSz == 0 || r.strands ≤ r.stkN)

/-- A page of a context can be read and written: its walk reaches a leaf with R and W and nothing but a collection stands
in the way of a store. -/
def State.pageRW (s : State) (ctx va : Nat) : Bool :=
  canonical va
    && match (s.judge ctx (va % 2 ^ 55) .load).1, (s.judge ctx (va % 2 ^ 55) .store).1 with
       | .ok _, .ok _ => true
       | .ok _, .stall => true
       | _, _ => false

/-- An address in each page of [a, a + n). -/
def pageStarts (a n : Nat) : List Nat :=
  if n = 0 then []
  else (List.range ((a + n - 1) / 65536 + 1 - a / 65536)).map fun i => if i = 0 then a else (a / 65536 + i) * 65536

/-- Every page of [a, a + n) of a context can be read and written. -/
def State.rangeRW (s : State) (ctx a n : Nat) : Bool := (pageStarts a n).all fun p => s.pageRW ctx p

/-- Bytes of the scoreboard of so many groups (R241). -/
def sbBytes (groups : Nat) : Nat := (groups + 511) / 512 * 64

/-- A read of the launch unit in [a, a + n) of a context is held back (R290, R303). -/
def State.rangeHeld (s : State) (ctx a n : Nat) : Bool :=
  (pageStarts a n).any fun p => (s.judge ctx (p % 2 ^ 55) .load).1 == .stall

/-! ### The checks of R239 -/

/-- Limits of a stage's class (R27, R238). -/
def StageRec.classOk (g : StageRec) : Bool :=
  g.cls != 0 && (if g.cls = 1 then g.l == 0 else 1 ≤ g.l && g.l ≤ 4)
    && (g.cls == 3 || (g.tiles == 0 && g.accRows == 0 && g.act4k == 0)) && (g.cls == 2 || g.scratch256 == 0)

/-- A stage's regions are within one core's of its class (R77): only vector cores hold scratch, only array cores tiles,
rows and activations. -/
def StageRec.resourceOk (g : StageRec) : Bool :=
  let vec := g.cls == 2
  let arr := g.cls == 3
  (g.scratch256 == 0 || vec && g.scratch256 ≤ 64) && (g.tiles == 0 || arr && g.tiles ≤ 16)
    && (g.accRows == 0 || arr && g.accRows ≤ 1024) && (g.act4k == 0 || arr && g.act4k ≤ 64)

/-- The stages of a record (R27). -/
def LaunchRec.stagesOk (r : LaunchRec) (nstg textSize : Nat) : Bool :=
  1 ≤ nstg && nstg ≤ 8 && r.strands ≤ 64
    && r.stages.all fun g => g.classOk && g.entry % 2 == 0 && decide (g.entry < textSize)

/-- A declaration flows forward into a stage whose class has the space (R161, R239). -/
def LaunchRec.strmOk (r : LaunchRec) (d : StrmRec) : Bool :=
  decide (d.src < d.dst)
    && match r.stages[d.dst]? with
       | some g => (g.cls == 2 && d.space == 0) || (g.cls == 3 && (d.space == 1 || d.space == 2))
       | none => false

/-- A legal dependence vector (R240). -/
def depOk (d : Int × Int × Int) : Bool :=
  if d.1 ≠ 0 then decide (0 < d.1) else if d.2.1 ≠ 0 then decide (0 < d.2.1) else decide (0 < d.2.2)

/-- Strand slots of a class in service on a die (R24). -/
def State.slotsOf (s : State) (die : Nat) (cls : Cls) : Nat :=
  (s.cores.filter fun c => c.inService && coreDie c.id == die && coreClass c.id == cls).length * clsSlots cls

/-- One die holds a group's strands class by class: of every class at once, as a group is placed on one die (R40); R24
words it per class (DEDUCED, log 62). -/
def State.dieHolds (s : State) (r : LaunchRec) (die : Nat) : Bool :=
  [Cls.control, .vector, .array].all fun c =>
    decide (((r.stages.filter fun g => g.clas == c).map (·.n)).sum ≤ s.slotsOf die c)

/-- Some vector core in service holds a region by its CSZ (R247). -/
def State.scratchHeld (s : State) (bytes : Nat) : Bool :=
  bytes == 0 || s.cores.any fun c => c.inService && coreClass c.id == .vector && decide (bytes ≤ scratchPerLane c.csz)

/-- Device-side launches accepted and not complete (R250). -/
def State.deviceLaunches (s : State) : Nat := (s.lu.launches.filter fun l => l.issuer.isSome && l.live).length

/-- A registered code object of a context. -/
def State.codeObj (s : State) (ctx : Nat) (h : Nat) : Option CodeObj :=
  s.lu.code.find? fun c => c.handle == h && c.ctx == ctx

/-- The first condition that fails, as a status. -/
def firstFail : List (Bool × Nat) → Option Nat
  | [] => none
  | (ok, st) :: l => if ok then firstFail l else some st

/-- The checks in the order of R239; none: accepted. -/
def State.recordFault (s : State) (ctx addr : Nat) (bs : List Byte) (device : Bool) : Option Nat :=
  let r := parseRec bs
  let co := s.codeObj ctx r.codeh.toNat
  let text := match co with | some c => c.size | none => 0
  firstFail ([
    (s.rangeRW ctx addr 256 && recReserved bs && r.formed && s.rangeRW ctx r.sbrd (sbBytes (min r.groups (2 ^ 24)))
      && (r.after == 0 || s.lu.launches.any fun l => l.lid == r.after && l.ctx == ctx), lsRECORD),
    (match co with | some c => decide (r.kern < c.nkern) | none => false, lsCODE),
    (decide (r.groups ≤ 2 ^ 24), lsGRID),
    (r.stagesOk (recNstg bs) text, lsSTAGES),
    (r.strms.all r.strmOk, lsSTREAMDIR)]
    ++ (r.deps.zipIdx.map fun d => (depOk d.1, lsDEP0 + d.2))
    ++ [(r.stages.all fun g => s.classPresent g.clas, lsNOCLASS),
      (r.stages.all (·.resourceOk), lsRESOURCE),
      (s.dieHolds r 0 || s.dieHolds r 1, lsNOFIT),
      (r.stages.all fun g => s.scratchHeld (g.scratch256 * 256), lsNOFIT),
      (!device || decide (s.deviceLaunches < 4096), lsBUSY)])

/-! ### Acceptance (R239, R241) -/

/-- Groups whose bit is set in the bitmap at acceptance. -/
def State.presetGroups (s : State) (ctx sbrd groups : Nat) : List Nat :=
  (List.range groups).filter fun g =>
    match s.loadVirt ctx (sbrd + g / 8) 1 with
    | .ok (b :: _, _) => flag b.toNat (g % 8)
    | _ => false

/-- A launch made of an accepted record: LAUNCHID, LSTATE, its ready groups released; with every group retired already it
completes. -/
def State.makeLaunch (s : State) (ctx addr : Nat) (bs : List Byte) (entry : Option (Nat × Nat))
    (issuer : Option (Nat × Nat × QReg)) : Nat × State :=
  let r := parseRec bs
  let lid := s.lu.nextLid
  let text := match s.codeObj ctx r.codeh.toNat with | some c => c.text | none => 0
  let l : Launch :=
    { lid := lid, ctx := ctx, recAddr := addr, lrec := r, text := text, entry := entry, issuer := issuer,
      st := .running, retired := s.presetGroups ctx r.sbrd r.groups, released := [], placed := [],
      bins := List.replicate 64 [], curBin := 0, age := 0, starved := false, dispatched := false, npre := 0,
      resuming := false, madeRoomFor := none, pool := [], dying := none, final := none, asked := 0, endedOuts := [] }
  let s := s.touchRange ctx r.sbrd (sbBytes r.groups)
  let s := { s with lu := { s.lu with launches := s.lu.launches ++ [l], nextLid := lid + 1 } }
  (lid, if l.retired.length = l.groups then s.endLaunch lid .complete 0x01 0 else (s.bumpLstate lid).releaseReady lid)

/-- What the launch unit reads to accept a record is held back: the record, or the scoreboard it names. The acceptance
waits (R303). -/
def State.acceptHeld (s : State) (ctx : Nat) (addr : Word) : Bool :=
  canonical addr.toNat && (s.rangeHeld ctx addr.toNat 256
    || match s.loadVirt ctx (addr.toNat % 2 ^ 55) 256 with
       | .ok (bs, _) => s.rangeHeld ctx (parseRec bs).sbrd (sbBytes (min (parseRec bs).groups (2 ^ 24)))
       | .error _ => false)

/-- What the launch unit asks of the copies in reading a record: its lines, and the walks of the scoreboard it names (R182,
R268). -/
def State.recordRead (s : State) (ctx : Nat) (addr : Word) : State :=
  if !(canonical addr.toNat) then s
  else
    let t := s.touchVirt ctx (addr.toNat % 2 ^ 55) 256
    match s.loadVirt ctx (addr.toNat % 2 ^ 55) 256 with
    | .ok (bs, _) => t.walked ctx (pageStarts (parseRec bs).sbrd (sbBytes (min (parseRec bs).groups (2 ^ 24))))
    | .error _ => t

/-- Accept (R239): the LAUNCHID with the machine after it, or a status. -/
def State.accept (s : State) (ctx : Nat) (addr : Word) (entry : Option (Nat × Nat))
    (issuer : Option (Nat × Nat × QReg)) : Except Nat (Nat × State) :=
  if !(canonical addr.toNat) then .error lsRECORD
  else
    match s.loadVirt ctx (addr.toNat % 2 ^ 55) 256 with
    | .error _ => .error lsRECORD
    | .ok (bs, _) =>
      match s.recordFault ctx addr.toNat bs issuer.isSome with
      | some st => .error st
      | none => .ok (s.makeLaunch ctx addr.toNat bs entry issuer)

/-! ### `lnch` (R250) -/

def State.lnchOp (s : State) (rd rs1 : Reg) (ch : QReg) : Res State := do
  let s ← s.scalarGate clsC
  let a := s.cur.getX rs1
  require (a.toNat % 256 == 0) .illegal s
  let s ← s.releaseCur true true
  let t := s.cur
  require (!(s.acceptHeld t.ctx a)) (.wait .store) s
  let s := s.recordRead t.ctx a
  match s.accept t.ctx a none (some (t.lid, t.sid, ch)) with
  | .ok (lid, s') => return (s'.onCur fun t => t.putX rd (BitVec.ofNat 64 lid)).scalarDone 8
  | .error st => return (s.onCur fun t => t.putX rd (BitVec.ofNat 64 (2 ^ 63 + st))).scalarDone 8

def execLnch (rd rs1 : Reg) (ch : QReg) (s : State) : Host.Outcome State Fault Refusal := finish (s.lnchOp rd rs1 ch)

/-! ### Queue entries (R234, R235) -/

/-- The queue is mapped, the host present, the device awake: entries are fetched (R235, R318, R327). -/
def State.fetching (s : State) (q : UQueue) : Bool :=
  s.hc.present && !s.plat.d3 && s.uqMapped q.uq

/-- A well-formed entry of 32 bytes: its number, type, reserved field, alignment (R235). -/
def entryOk (bs : List Byte) (seq : Nat) : Bool :=
  let typ := fld (rb bs 0x10 4) 0 4
  rb bs 0 8 == seq && typ ≤ 2 && fld (rb bs 0x10 4) 5 27 == 0
    && (typ != 0 || rb bs 8 8 % 256 == 0) && (typ != 1 || rb bs 8 8 % 64 == 0)

/-- QUEUE_ENTRY_FETCH: completions of the queue that are kept are written if they can be, and the next notified entry is
fetched and checked; not while its place in device memory, its context's descriptor, or the record that FSN goes to (R316) is
held back (R290, R303). One that reads uncorrectable is no well-formed entry (log 60). -/
def State.fetchEntry (s : State) (uq : Nat) : State :=
  let s := s.completeHeld uq
  match s.uqueue uq with
  | none => s
  | some q =>
    if !(s.fetching q) || q.ssn ≤ q.fsn then s
    else
      let seq := q.fsn + 1
      let p := ringPhys q (q.entryAddr seq)
      if q.space = .dev ∧ s.held p.addr false ∨ s.ctxHeld q.ctx ∨ s.recStalls q.recAddr then s
      else
      let bs := s.readPhys p 32
      let ok := !(s.badPiece (p, 32)) && entryOk bs seq && s.ctxValid q.ctx
      let s := ((s.l2Touch (p, 32) false).unitTouch (s.ctxAddr q.ctx) 64).updUq uq fun q => { q with fsn := seq }
      if ok then
        let e : QEntry := { uq := uq, seq := seq, typ := fld (rb bs 0x10 4) 0 4, order := flag (rb bs 0x10 4) 4,
                            addr := BitVec.ofNat 64 (rb bs 8 8), lid := none }
        { s with lu := { s.lu with entries := s.lu.entries ++ [e] } }
      else s.completeEntry uq seq lsRECORD 0 0

/-- A fetched entry of a type that may be accepted now: not accepted yet, and under ORDER after every earlier one of its
queue. -/
def State.acceptable (s : State) (uq seq typ : Nat) : Option QEntry :=
  match s.lu.entries.find? fun e => e.uq == uq && e.seq == seq && e.typ == typ && e.lid.isNone with
  | none => none
  | some e =>
    match s.uqueue uq with
    | some q => if !e.order || q.csn + 1 == seq then some e else none
    | none => none

/-- The context of a queue. -/
def State.uqCtx (s : State) (uq : Nat) : Nat := match s.uqueue uq with | some q => q.ctx | none => 0

/-- LAUNCH_ACCEPT; not while what it reads is held back. -/
def State.acceptEntry (s : State) (uq seq : Nat) : State :=
  match s.acceptable uq seq 0 with
  | none => s
  | some e =>
    if s.acceptHeld (s.uqCtx uq) e.addr then s
    else
    let s := s.recordRead (s.uqCtx uq) e.addr
    let marked (lid : Nat) : State :=
      { s with lu := { s.lu with entries := s.lu.entries.map fun k =>
          if k.uq = uq ∧ k.seq = seq then { k with lid := some lid } else k } }
    match (marked s.lu.nextLid).accept (s.uqCtx uq) e.addr (some (uq, seq)) none with
    | .ok (_, s') => s'
    | .error st => s.completeEntry uq seq st 0 0

/-! ### Code objects (R77, R81, R237) -/

/-- n bytes of a context, in pieces of 4 KiB; none when a page cannot be read. Bytes at an address that is not canonical, which
is never translated (R264), cannot be read: R81 and R237 name no outcome for an object of which a table lies there (DESIGN
CHOICE, log 60). -/
def State.readBytes (s : State) (ctx a : Nat) (n : Nat) : Option (List Byte) :=
  (List.range ((n + 4095) / 4096)).foldl (fun o i => o.bind fun bs =>
    let p := a + 4096 * i
    let m := min 4096 (n - 4096 * i)
    if !(canonical (p % 2 ^ 64) && canonical ((p + m - 1) % 2 ^ 64)) then none
    else
      match s.loadVirt ctx (p % 2 ^ 55) m with
      | .ok (c, _) => some (bs ++ c)
      | .error _ => none) (some [])

/-- The header's conditions (R81). -/
def cloferOk (h : List Byte) : Bool :=
  let size := rb h 0x28 8
  let tab (off : Nat) : Bool := rb h off 8 % 64 == 0 && decide (rb h off 8 < size)
  rb h 0 4 == 0x464F4C43 && rb h 4 2 == 1 && 1 ≤ rb h 6 2 && rb h 6 2 ≤ 256 && rb h 0x0C 4 == 0
    && tab 0x10 && tab 0x18 && tab 0x20 && rb h 0x30 16 == 0

/-- A profile of the part, 2.0, meets a declaration (R77). -/
def profileOk (maj min : Nat) : Bool := maj == 0 || (maj == 2 && min == 0)

/-- The profile conditions: PROF has the layout of QDPROF (R19). -/
def profOk (h : List Byte) : Bool :=
  profileOk (rb h 0x0B 1) (rb h 0x0A 1) && profileOk (rb h 0x09 1) (rb h 0x08 1)

/-- Kernel record k of a table; it has the layout of a launch record (R81). -/
def kernelRec (ks : List Byte) (k : Nat) : List Byte := (ks.drop (256 * k)).take 256

/-- Reserved fields of the kernel records are zero, and their NDEP and NSTRM name entries that exist: where one does not, the
whole object is LS_FORMAT, which R81 does not list (R8, R81; DESIGN CHOICE, log 60). -/
def kernelsClean (ks : List Byte) (n : Nat) : Bool := (List.range n).all fun k => recReserved (kernelRec ks k)

/-- The resource conditions over the kernel records (R77). -/
def kernelsOk (ks : List Byte) (n : Nat) : Bool :=
  (List.range n).all fun k =>
    (List.range (min 8 (recNstg (kernelRec ks k)))).all fun i => (recStage (kernelRec ks k) i).resourceOk

/-- A page mapped with R = 1 and X = 1. -/
def State.pageRX (s : State) (ctx va : Nat) : Bool :=
  canonical va
    && match s.walkFrom ctx (va % 2 ^ 55) with
       | .leaf _ e _ => pteR e && pteX e
       | _ => false

def State.rangeRX (s : State) (ctx a n : Nat) : Bool := (pageStarts a n).all fun p => s.pageRX ctx p

/-- What the loader finds: the text and the number of kernels, or a status, in the order of R237. The spec names no status
for an object that cannot be read: LS_FORMAT, for the header and the kernel records with the conditions of R81, for the
rest with those of the text (DESIGN CHOICE, log 60). -/
def State.loadObject (s : State) (ctx a : Nat) : Except Nat (Nat × Nat × Nat) :=
  match s.readBytes ctx a 64 with
  | none => .error lsFORMAT
  | some h =>
    let size := rb h 0x28 8
    let n := rb h 6 2
    if !(canonical a) || !(cloferOk h) then .error lsFORMAT
    else
      match s.readBytes ctx (a + rb h 0x10 8) (256 * n) with
      | none => .error lsFORMAT
      | some ks =>
        if !(kernelsClean ks n) then .error lsFORMAT
        else if !(profOk h) then .error lsPROFILE
        else if !(kernelsOk ks n) then .error lsRESOURCE
        else
          match s.readBytes ctx (a + rb h 0x18 8) (size - rb h 0x18 8) with
          | none => .error lsFORMAT
          | some sect =>
            let t := Config.textSection sect
            if (a + t.1) % 64 = 0 ∧ s.rangeRX ctx (a + t.1) t.2 then .ok (a + t.1, t.2, n) else .error lsFORMAT

/-- What the loader reads is held back: the header, the kernel records, or the text; the registration waits (R303). -/
def State.objectHeld (s : State) (ctx a : Nat) : Bool :=
  s.rangeHeld ctx a 64 || match s.readBytes ctx a 64 with
    | none => false
    | some h =>
      let sect := a + rb h 0x18 8
      let n := rb h 0x28 8 - rb h 0x18 8
      cloferOk h && (s.rangeHeld ctx (a + rb h 0x10 8) (256 * rb h 6 2) || s.rangeHeld ctx sect n
        || match s.readBytes ctx sect n with
           | none => false
           | some bs => s.rangeHeld ctx (a + (Config.textSection bs).1) (Config.textSection bs).2)

/-- What the loader asks of the copies in reading an object (R182, R268). -/
def State.objectRead (s : State) (ctx a : Nat) : State :=
  let t := s.touchRange ctx a 64
  match s.readBytes ctx a 64 with
  | none => t
  | some h =>
    if !(cloferOk h) then t
    else
      let sect := a + rb h 0x18 8
      let n := rb h 0x28 8 - rb h 0x18 8
      let t := (t.touchRange ctx (a + rb h 0x10 8) (256 * rb h 6 2)).touchRange ctx sect n
      match s.readBytes ctx sect n with
      | none => t
      | some bs => t.walked ctx (pageStarts (a + (Config.textSection bs).1) (Config.textSection bs).2)

/-- CODE_OBJECT_REGISTER; not while what it reads is held back. -/
def State.registerObject (s : State) (uq seq : Nat) : State :=
  match s.acceptable uq seq 1 with
  | none => s
  | some e =>
    if s.objectHeld (s.uqCtx uq) e.addr.toNat then s
    else
    let s := s.objectRead (s.uqCtx uq) e.addr.toNat
    match s.loadObject (s.uqCtx uq) e.addr.toNat with
    | .error st => s.completeEntry uq seq st 0 0
    | .ok (text, size, n) =>
      let h := s.lu.nextHandle
      let c : CodeObj := { handle := h, ctx := s.uqCtx uq, text := text, size := size, nkern := n }
      let s := { s with lu := { s.lu with code := s.lu.code ++ [c], nextHandle := h + 1 } }
      s.completeEntry uq seq lsOK 0 (BitVec.ofNat 64 h)

/-- CODE_OBJECT_UNREGISTER. -/
def State.unregisterObject (s : State) (uq seq : Nat) : State :=
  match s.acceptable uq seq 2 with
  | none => s
  | some e =>
    let ctx := s.uqCtx uq
    match s.codeObj ctx e.addr.toNat with
    | none => s.completeEntry uq seq lsCODE 0 0
    | some c =>
      if s.lu.launches.any fun l => l.live && l.ctx == ctx && l.lrec.codeh.toNat == c.handle then
        s.completeEntry uq seq lsBUSY 0 0
      else
        let s := { s with lu := { s.lu with code := s.lu.code.filter fun k => k.handle != c.handle } }
        s.completeEntry uq seq lsOK 0 0

/-! ### Mapping of queues (R235, R263) -/

/-- A queue is mapped to an unmapped slot, its numbers read from its record (R263, R315), not while that is held back (R303);
a pending notify is applied. A record with a reserved bit set is rejected: it is not mapped (R8; log 60). -/
def State.mapQueue (s : State) (uq slot : Nat) : State :=
  match s.uqueue uq with
  | none => s
  | some u =>
    if 1024 ≤ slot ∨ (s.qslot slot).mapped ∨ s.uqMapped uq then s
    else if s.recHeld u.recAddr ∨ !(s.recClean u.recAddr) then s
    else
      let s := s.unitTouch u.recAddr 64
      let u := s.reread u
      let s := (s.putQslot { slot := slot, badn := (s.qslot slot).badn, mapped := true, uq := uq }).updUq uq fun _ => u
      if u.pend then
        let s := s.updUq uq fun u => { u with pend := false }
        s.notifyQueue (s.qslot slot) u u.notified
      else s

/-- A queue mapped for the first time: its record stands at an address the scheduler gives, as does the space of its ring
(R315; log 34). -/
def State.knownQueue (s : State) (a : Arg) : State :=
  if (s.uqueue a.uq).isSome || s.recHeld a.addr || !(s.recClean a.addr) then s
  else
    let q : UQueue :=
      { uq := a.uq, recAddr := a.addr, ring := 0, space := a.space, rlog := 0, pend := false, hold := false, ctx := 0,
        ssn := 0, csn := 0, notified := 0, fsn := 0, doneAbove := [], held := [] }
    let s := s.unitTouch a.addr 64
    { s with lu := { s.lu with uqs := s.lu.uqs ++ [s.reread q] } }

/-- QUEUE_MAP; it waits while the queue's record is held back (R303). -/
def State.queueMap (s : State) (a : Arg) : State :=
  s.orWait { row := .queueMap, arg := a }
    (s.recHeld (match s.uqueue a.uq with | some u => u.recAddr | none => a.addr)) fun s =>
    (s.knownQueue a).mapQueue a.uq a.slot

def State.unmapSlot (s : State) (slot : Nat) : State :=
  if (s.qslot slot).mapped then s.putQslot { s.qslot slot with mapped := false } else s

/-- PEND_SCAN: the lowest-numbered queue with PEND = 1, whose record is not rejected (log 60), takes the lowest-numbered slot
without a queue (log 16); it waits while the record of an unmapped queue is held back (R303). -/
def State.pendScan (s : State) : State :=
  s.orWait { row := .pendScan, arg := {} } (s.lu.uqs.any fun q => !(s.uqMapped q.uq) && s.recHeld q.recAddr) fun s =>
  let s : State := s.lu.uqs.foldl (fun s q => if s.uqMapped q.uq then s else s.unitTouch q.recAddr 64) s
  let qs := sortBy (fun a b : UQueue => decide (a.uq < b.uq)) (s.lu.uqs.filter fun q =>
    s.recClean q.recAddr && (s.reread q).pend && !(s.uqMapped q.uq))
  match qs, (List.range 1024).find? fun n => !((s.qslot n).mapped) with
  | q :: _, some n => s.mapQueue q.uq n
  | _, _ => s

/-! ### Held messages (R30, R207) -/

/-- The first held message of a launch that can leave the pool: its target has exited, or is placed and has room. -/
def State.deliverable (s : State) (l : Launch) : List HeldMsg → List HeldMsg → Option (HeldMsg × List HeldMsg)
  | _, [] => none
  | before, h :: rest =>
    let blocked := before.any fun k => k.glin == h.glin && k.stage == h.stage && k.six == h.six && k.msg.ch == h.msg.ch
    let can := s.hasExited l h.glin h.stage h.six || match s.strandAt l.lid h.glin h.stage h.six with
      | some t => (match t.status with | .saved _ _ _ => false | _ => true) && t.inbox.length < 64
      | none => false
    if can && !blocked then some (h, before ++ rest) else s.deliverable l (before ++ [h]) rest

/-- OVERFLOW_DELIVERY: one held message is delivered, or discarded with its exited target. -/
def State.overflow (s : State) (lid : Nat) : State :=
  match s.launch lid with
  | none => s
  | some l =>
    match s.deliverable l [] l.pool with
    | none => s
    | some (h, rest) =>
      let s := s.updLaunch lid fun l => { l with pool := rest }
      match s.strandAt lid h.glin h.stage h.six with
      | some t => s.updStrand t.uid fun t => { t with inbox := t.inbox ++ [h.msg] }
      | none => s

/-- Every held message that can be delivered is, as at placement (R30). -/
def State.overflowAll (s : State) (lid : Nat) : Nat → State
  | 0 => s
  | n + 1 => (s.overflow lid).overflowAll lid n

def State.poolLength (s : State) (lid : Nat) : Nat := match s.launch lid with | some l => l.pool.length | none => 0

/-- MESSAGE_ARRIVAL: the oldest message on its way arrives: in the inbox, in the pool, discarded with an exited target, or
it ends its launch (R207). -/
def State.arrival (s : State) : State :=
  match s.wire with
  | [] => s
  | m :: rest =>
    let s := { s with wire := rest }
    match s.launch m.lid with
    | none => s
    | some l =>
      if !l.live then s
      else
        match s.deliver l m.glin m.stage m.six m.msg with
        | .done s' => s'
        | .exited => s
        | .poolFull => s.killFault l.lid 0x0E

/-! ### The dispatch decision (R243 to R247) -/

/-- Strands of a launch saved in the pool. -/
def State.savedOf (s : State) (lid : Nat) : List Strand :=
  s.strands.filter fun t => t.lid == lid && !t.system && match t.status with | .saved _ _ _ => true | _ => false

/-- Weight of a launch's tenant. -/
def State.weight (s : State) (l : Launch) : Nat := (s.tenant (s.ctxTenant l.ctx)).2

/-- D of a tenant. -/
def State.dcount (s : State) (tenant : Nat) : Nat := assocGet s.lu.counts tenant 0

def LaunchRec.classes (r : LaunchRec) : List Cls := r.stages.map (·.clas)

/-- A waiting group's launch reserves (R244): E 6 or 7, a weight, a next group that has not fitted for 2 ms, and that some
split can hold (R247). -/
def State.reserves (s : State) (l : Launch) : Bool :=
  l.starved && l.st == .running && s.levelE l ≥ 6 && s.weight l != 0 && l.nextGroup.isSome
    && l.lrec.stages.all fun g => s.scratchHeld (g.scratch256 * 256)

/-- The order of R244: E, then D/WGT, then tenant, then acceptance. -/
def State.before (s : State) (a b : Launch) : Bool :=
  let ta := s.ctxTenant a.ctx
  let tb := s.ctxTenant b.ctx
  let da := s.dcount ta * s.weight b
  let db := s.dcount tb * s.weight a
  decide (s.levelE b < s.levelE a)
    || (s.levelE a == s.levelE b
        && (decide (da < db) || (da == db && (decide (ta < tb) || (ta == tb && decide (a.lid < b.lid))))))

/-- A launch's groups may not be dispatched because of a reserve, or of a migration wait on the die (R46, R244). Of two
launches at one E that both reserve, the reserve is that of the first in the order of R244: the spec does not say whose, and
R49 promises that both groups go in the end (DESIGN CHOICE, log 64). -/
def State.heldBack (s : State) (l : Launch) (die : Nat) : Bool :=
  (s.lu.launches.any fun r => r.lid != l.lid && s.reserves r && s.levelE l ≤ s.levelE r
      && !(s.reserves l && s.before l r) && r.lrec.classes.any fun c => l.lrec.classes.contains c)
    || s.strands.any fun t => (match t.place with | some p => coreDie p.1 == die | none => false)
        && t.waitClasses.any fun c => l.lrec.classes.contains c

/-- The next group of a launch that this die's unit may dispatch now. -/
def State.candidate (s : State) (die : Nat) (l : Launch) : Option Nat :=
  if l.st = .running ∧ s.weight l ≠ 0 ∧ s.savedOf l.lid = [] ∧ !(s.heldBack l die) then
    match l.nextGroup with
    | some g => if s.dieFor l g = some die then some g else none
    | none => none
  else none

/-- A group leaves its bin, which becomes the current one. -/
def Launch.take (l : Launch) (g : Nat) : Launch :=
  let b := l.nextBin.getD l.curBin
  { l with
    bins := l.bins.modify b (·.drop 1), curBin := b, placed := g :: l.placed, age := 0, starved := false,
    dispatched := true }

/-- GROUP_PLACEMENT: a group dispatched on a die. -/
def State.dispatch (s : State) (l : Launch) (die g : Nat) : State :=
  match s.placeGroup l die g with
  | none => s
  | some s' =>
    let tn := s.ctxTenant l.ctx
    let s := s'.updLaunch l.lid fun l => l.take g
    let s := { s with lu := { s.lu with counts := assocSet s.lu.counts tn (s.dcount tn + l.lrec.strands) 0 } }
    s.overflowAll l.lid (s.poolLength l.lid)

/-! ### Level-7 pre-emption (R257) -/

/-- The machine as it would be with some launches' strands out of their slots. -/
def State.lifted (s : State) (lids : List Nat) : State :=
  let ts := s.strands.filter fun t => !t.system && lids.contains t.lid
  let s := ts.foldl (fun s t => match t.place with | some p => s.vacate p.1 p.2 | none => s) s
  s.mapStrands fun t => if !t.system && lids.contains t.lid && t.status != .gone then t.setStatus (.saved false false []) else t

/-- Candidate victims on a die: E ≤ 6, holding slots of a class the group needs there, their save within the pool; lowest
E and then latest accepted first. The pool is judged for each of them alone, though two of a prefix may save into one
pool: R257 and R259 do not say (DESIGN CHOICE, log 64). -/
def State.victims (s : State) (l : Launch) (die : Nat) : List Launch :=
  let vs := s.lu.launches.filter fun v => v.st == .running && s.levelE v ≤ 6 && s.poolHolds v && s.strands.any fun t =>
    t.lid == v.lid && !t.system
      && match t.place with | some p => coreDie p.1 == die && l.lrec.classes.contains (coreClass p.1) | none => false
  sortBy (fun a b => s.levelE a < s.levelE b || (s.levelE a == s.levelE b && decide (b.lid < a.lid))) vs

/-- The shortest prefix of the victims that makes a group fit on a die. -/
def State.prefixFor (s : State) (l : Launch) (die g : Nat) : Option (List Launch) :=
  let vs := s.victims l die
  ((List.range (vs.length + 1)).map fun n => vs.take n).find? fun p =>
    ((s.lifted (p.map (·.lid))).placeGroup l die g).isSome

/-- The prefix that is taken: the shorter, die 0's on a tie. -/
def State.bestPrefix (s : State) (l : Launch) (g : Nat) : List Launch :=
  match s.prefixFor l 0 g, s.prefixFor l 1 g with
  | some a, some b => if b.length < a.length then b else a
  | some a, none => a
  | none, some b => b
  | none, none => []

/-- A level-7 launch whose next group fits nowhere pre-empts its first victim; the next follows when that one is saved. One
of a suspended tenant, whose groups are not dispatched, pre-empts nobody: the spec does not say (DESIGN CHOICE, log 64). -/
def State.level7 (s : State) (l : Launch) : State :=
  if l.st = .running ∧ s.levelE l = 7 ∧ s.weight l ≠ 0 ∧ s.savedOf l.lid = []
      ∧ !(s.lu.launches.any fun v => v.st == .preempting && v.madeRoomFor == some l.lid) then
    match l.nextGroup with
    | some g =>
      if (s.dieFor l g).isSome then s
      else match s.bestPrefix l g with | v :: _ => (s.preempt v.lid (some l.lid)).getD s | [] => s
    | none => s
  else s

/-- A decision finds the current bins of the running launches moved on from empty ones (R245). -/
def State.moveBins (s : State) : State :=
  { s with lu := { s.lu with launches := s.lu.launches.map fun l => if l.st = .running then l.moveBin else l } }

/-- DISPATCH_DECISION of a die; not while a descriptor or a tenant's entry that it reads is held back (R303). -/
def State.decideDispatch (s : State) (die : Nat) : State :=
  if s.schedHeld then s else
  let s : State := s.schedTouch.moveBins
  let s : State := s.lu.launches.foldl State.level7 s
  let cs := s.lu.launches.filterMap fun l => (s.candidate die l).map fun g => (l, g)
  match sortBy (fun a b : Launch × Nat => s.before a.1 b.1) cs with
  | (l, g) :: _ => s.dispatch l die g
  | [] => s

/-! ### Pre-emption, save, resumption (R258 to R262) -/

/-- Classes on which a strand may resume when its own does not implement its next instruction; none listed: its own
(R260). A strand that waits, is parked or exits stands at an instruction of its own class. -/
def State.needOf (s : State) (t : Strand) : List Cls :=
  if t.pinned ∨ t.fork.isSome then []
  else
    match t.status with
    | .running | .yielding _ | .moving _ | .migWait _ =>
      let cs := s.nextClasses t.uid
      if cs.contains t.cls then [] else [Cls.vector, .array, .control].filter cs.contains
    | _ => []

/-- The key of a context: that of the lowest slot enabled for it, or the device key (R308; log 58). -/
def State.ctxKey (s : State) (ctx : Nat) : Nat :=
  match s.keys.find? fun k => k.en && k.owner.toNat == ctx with
  | some k => s.keyOf k.slot
  | none => 0

/-- The stretches of [lo, n) between those in use, which ascend, as offsets and lengths. -/
def freeParts (n : Nat) : Nat → List (Nat × Nat) → List (Nat × Nat)
  | lo, [] => if lo < n then [(lo, n - lo)] else []
  | lo, u :: us => (if lo < min u.1 n then [(lo, min u.1 n - lo)] else []) ++ freeParts n (max lo (u.1 + u.2)) us

/-- So many bytes of some stretches, the lowest first. -/
def takeParts : Nat → List (Nat × Nat) → List (Nat × Nat)
  | _, [] => []
  | n, p :: ps => if n = 0 then [] else if n ≤ p.2 then [(p.1, n)] else p :: takeParts (n - p.2) ps

/-- Where an image of n bytes goes in the save pool of a context: the lowest bytes in which no image stands (log 58). A save
that has reserved its space finds it (R259). -/
def State.poolParts (s : State) (ctx n : Nat) : List (Nat × Nat) :=
  let held := (s.strands.filter fun t => t.ctx == ctx && t.inPool).flatMap (·.savedAt)
  takeParts n (freeParts (s.ctxSaveSz ctx) 0 (sortBy (fun a b : Nat × Nat => decide (a.1 < b.1)) held))

/-- The image of a strand written to the save pool under the key of its context (R258, R308); its bytes are free (log 58). -/
def State.writeImage (s : State) (t : Strand) : State :=
  let parts := s.poolParts t.ctx t.imageBytes
  let n := match s.launch t.lid with | some l => l.npre | none => 0
  let place (p : Nat × Nat) : Phys × Nat :=
    ({ space := .dev, addr := s.ctxWord t.ctx 4 + p.1, key := s.ctxKey t.ctx, unt := false }, p.2)
  ((s.unitTouch (s.ctxAddr t.ctx) 64).storeUnit t.lid (parts.map place) ((List.range t.imageBytes).map (Config.imageByte t.uid n))).updStrand t.uid
    fun t => { t with savedAt := parts }

/-- One strand saved: its image in the pool, its context as after a move, a bookmark of CAUSE 6, its place free. -/
def State.saveStrand (s : State) (uid : Nat) : State :=
  match s.strand uid with
  | none => s
  | some t =>
    let need := s.needOf t
    let parked := t.status == .parked || t.replaying.isSome
    let exits := t.status == .exiting
    let token := tokenWord (s.gen t.core t.slot) t.core t.slot
    let s := ((s.flushWc uid true true).writeImage t).vacate t.core t.slot
    let s := s.updStrand uid fun t =>
      let t := t.carried
      let bm := if parked then { (t.replaying.getD t.bookmark) with cause := 6, cls := 0 }
        else t.bookmarkOf token 0 { cause := 6, cls := 0, pages := [], entry := none } []
      { t with bookmark := bm, status := .saved parked exits need }
    s.laneGrant t.core

/-- PREEMPTION_SAVE: the carrier takes the resident strands one after another, in its queue's order (R288); then the
scoreboard is written, and STATE and NPRE follow. -/
def State.save (s : State) (lid : Nat) : State :=
  match s.launch lid with
  | none => s
  | some l =>
    if l.st ≠ .preempting ∨ !(s.canSave lid) ∨ s.ctxHeld l.ctx then s
    else
      match s.strands.filter (·.residentOf lid) with
      | [] =>
        match s.writeScoreboard l with
        | none => s.killFault lid 0x0A
        | some s => (s.updLaunch lid fun l => { l with st := .preempted, npre := l.npre + 1 }).bumpLstate lid
      | ts =>
        match ts.find? fun t => s.carrierFor (coreDie t.core) l.asked with
        | some t => s.saveStrand t.uid
        | none => s

/-- The saved groups of a launch, ascending. -/
def State.savedGroups (s : State) (lid : Nat) : List Nat :=
  sortBy (fun a b : Nat => decide (a < b)) ((s.savedOf lid).map (·.glin)).eraseDups

/-- The saved strands of a group in the order of R246. -/
def State.savedStrands (s : State) (lid glin : Nat) : List Strand :=
  sortBy (fun a b => decide (a.stage < b.stage) || (a.stage == b.stage && decide (a.six < b.six)))
    ((s.savedOf lid).filter fun t => t.glin == glin)

/-- A saved strand put on a core of a class. -/
def State.restoreOn (s : State) (t : Strand) (die : Nat) (cls : Cls) : Option State :=
  match s.pickCore die cls (t.need cls) with
  | none => none
  | some (id, slot) =>
    let (s, ps) := s.takeLanes id slot (lanesOn cls t.g)
    let exits := match t.status with | .saved _ e _ => e | _ => false
    some (s.updStrand t.uid fun u =>
      { u with core := id, slot := slot, migcnt := if id = u.core then u.migcnt else u.migcnt + 1
               lanes0 := if u.scratchBytes != 0 then ps else u.lanes0
               status := if exits then .exiting else .running })

/-- Classes tried for a saved strand. -/
def Strand.resumeClasses (t : Strand) : List Cls :=
  match t.status with
  | .saved _ _ [] => [t.cls]
  | .saved _ _ cs => cs
  | _ => [t.cls]

/-- Every way to put a list of strands on a die, in the order in which classes are tried. -/
def State.restoreAll (s : State) (die : Nat) : List Strand → List State
  | [] => [s]
  | t :: ts => (t.resumeClasses.filterMap fun c => s.restoreOn t die c).flatMap fun s => s.restoreAll die ts

/-- A strand saved at a trap replays its bookmark (R274, R278); where that must wait, the strand, placed as it is, waits. -/
def State.replayOrWait (s : State) (t : Strand) : State :=
  match t.status with
  | .saved true _ _ =>
    (s.replay t.uid t.bookmark).getD
      (s.updStrand t.uid fun u => { u with status := .waiting .replay, replaying := some t.bookmark })
  | _ => s

/-- Strands of a launch that wait for a replay try again. -/
def State.replayWaiting (s : State) (lid : Nat) : State :=
  (s.strands.filter fun t => t.lid == lid && t.status == .waiting .replay).foldl
    (fun s t => (s.replay t.uid (t.replaying.getD t.bookmark)).getD s) s

/-- A saved group placed whole on a die, by R246 and R260. -/
def State.placeSaved (s : State) (lid : Nat) : Option State :=
  match s.launch lid, s.savedGroups lid with
  | some l, glin :: _ =>
    let ts := s.savedStrands lid glin
    let on (die : Nat) : Option State := (s.restoreAll die ts).head?
    let cls := match l.lrec.stages with | g :: _ => g.clas | [] => .control
    match s.chooseDie cls (on 0).isSome (on 1).isSome with
    | some die => (on die).map fun s => ts.foldl State.replayOrWait s
    | none => none
  | _, _ => none

/-- SAVED_GROUP_PLACEMENT: the next saved group is placed; replays that had to wait are taken up again. -/
def State.placeNextSaved (s : State) (lid : Nat) : State :=
  match s.launch lid with
  | some l =>
    if l.st = .running then
      let s := s.replayWaiting lid
      match s.placeSaved lid with
      | some s => s.overflowAll lid (s.poolLength lid)
      | none => s
    else s
  | none => s

/-- RESUMPTION: the cause of the pre-emption has ended: it is asked for, its level-7 launch is over, or after a migration
wait there is room. STATE is written before the first saved group is placed: R260 gives no order (DESIGN CHOICE, log 64). -/
def State.resume (s : State) (lid : Nat) : State :=
  match s.launch lid with
  | none => s
  | some l =>
    let room := l.madeRoomFor == some 0 && (s.savedGroups lid == [] || (s.placeSaved lid).isSome)
    if l.st = .preempted ∧ (l.resuming ∨ room) then
      (s.updLaunch lid fun l => { l with st := .running, resuming := false, madeRoomFor := none }).bumpLstate lid
    else s

/-- AGING_STEP: 2 ms more since acceptance or the last dispatch. -/
def State.aging (s : State) (lid : Nat) : State :=
  s.updLaunch lid fun l => if l.live then { l with age := l.age + 1 } else l

/-- DIE_RESERVE: the next group of a launch at E 6 or 7 has fitted on no die for 2 ms; judged when the scheduler can read what
it needs. -/
def State.dieReserve (s : State) (lid : Nat) : State :=
  s.orWait { row := .dieReserve, arg := { lid := lid } } s.schedHeld fun s =>
  let s := s.schedTouch
  match s.launch lid with
  | none => s
  | some l =>
    match l.nextGroup with
    | some g =>
      if l.st = .running ∧ s.levelE l ≥ 6 ∧ s.weight l ≠ 0 ∧ (s.dieFor l g).isNone then
        s.updLaunch lid fun l => { l with starved := true }
      else s
    | none => s

/-- DISPATCH_COUNT_HALVING: an odd D_t rounds down, for which R244 has no word (DESIGN CHOICE, log 64). -/
def State.halve (s : State) : State :=
  { s with lu := { s.lu with
      counts := (s.lu.counts.map fun c => (c.1, c.2 / 2)).filter fun c => c.2 != 0 } }

/-! ### The events -/

def execQnotifyWrite (s : State) : Host.Outcome State Fault Refusal := .next (s.notify s.arg.slot s.arg.word.toNat)
def execQueueEntryFetch (s : State) : Host.Outcome State Fault Refusal := .next (s.fetchEntry s.arg.uq)
def execLaunchAccept (s : State) : Host.Outcome State Fault Refusal := .next (s.acceptEntry s.arg.uq s.arg.seq)
def execCodeObjectRegister (s : State) : Host.Outcome State Fault Refusal := .next (s.registerObject s.arg.uq s.arg.seq)
def execCodeObjectUnregister (s : State) : Host.Outcome State Fault Refusal :=
  .next (s.unregisterObject s.arg.uq s.arg.seq)
def execQueueMap (s : State) : Host.Outcome State Fault Refusal := .next (s.queueMap s.arg)
def execQueueUnmap (s : State) : Host.Outcome State Fault Refusal := .next (s.unmapSlot s.arg.slot)
def execPendScan (s : State) : Host.Outcome State Fault Refusal := .next s.pendScan
def execDispatchDecision (s : State) : Host.Outcome State Fault Refusal := .next (s.decideDispatch s.arg.die)
def execAgingStep (s : State) : Host.Outcome State Fault Refusal := .next (s.aging s.arg.lid)
def execDispatchCountHalving (s : State) : Host.Outcome State Fault Refusal := .next s.halve
def execDieReserve (s : State) : Host.Outcome State Fault Refusal := .next (s.dieReserve s.arg.lid)
def execPreemptionStart (s : State) : Host.Outcome State Fault Refusal := .next (s.preemptStart s.arg.lid)
def execPreemptionSave (s : State) : Host.Outcome State Fault Refusal := .next (s.save s.arg.lid)
def execResumption (s : State) : Host.Outcome State Fault Refusal := .next (s.resume s.arg.lid)
def execSavedGroupPlacement (s : State) : Host.Outcome State Fault Refusal := .next (s.placeNextSaved s.arg.lid)
def execMessageArrival (s : State) : Host.Outcome State Fault Refusal := .next s.arrival
def execOverflowDelivery (s : State) : Host.Outcome State Fault Refusal := .next (s.overflow s.arg.lid)

end Sys2Proof.Machine
end

