-- ==== Sys2Proof/Machine/Platform.lean ====
section
/-! DEFINITION. Register events of the shared blocks and of the cores (R170 to R175, R299 to R301, R309, R311, R314,
R317), the split (R171), the sweep (R302, R304), the snapshot (R309), clocks and power (R326, R327), links, boot and
attestation (R324, R325). -/

namespace Sys2Proof.Machine

/-! ### Register accesses -/

/-- A 64-bit write of a control core in M-mode, at an offset from the blocks' base. -/
def State.mWrite (s : State) (off : Nat) (v : Word) : State := s.blockWrite .mMode off 8 v

/-- A 64-bit write of the host. -/
def State.hWrite (s : State) (off : Nat) (v : Word) : State := s.blockWrite .host off 8 v

/-- A 64-bit read of the host: its value goes to the host. -/
def State.hRead (s : State) (off : Nat) : State :=
  let r := s.blockRead .host off 8
  r.2.hostAnswer (some (leBytes 8 r.1.toNat))

/-- Offset of a core register. -/
def coreOff (id off : Nat) : Nat := 0x10000000 + id % 8192 * 4096 + off

def execLsplitWrite (s : State) : Host.Outcome State Fault Refusal := .next (s.mWrite (coreOff s.arg.core 0) s.arg.word)
def execVpoolWrite (s : State) : Host.Outcome State Fault Refusal := .next (s.mWrite (coreOff s.arg.core 8) s.arg.word)
def execWmaskWrite (s : State) : Host.Outcome State Fault Refusal :=
  .next (s.mWrite (coreOff s.arg.core (0x10 + s.arg.n % 4 * 8)) s.arg.word)
def execMemcapWrite (s : State) : Host.Outcome State Fault Refusal := .next (s.mWrite 0x40000 s.arg.word)

/-- IRMCTL_START: a write of IRMCTL with START = 1 and the word's other fields. -/
def execIrmctlStart (s : State) : Host.Outcome State Fault Refusal :=
  .next (s.mWrite 0x40020 (s.arg.word ||| 0x8000000000000000))
def execSnapctlStart (s : State) : Host.Outcome State Fault Refusal := .next (s.mWrite 0x40030 0x8000000000000000)
def execPlatctlLock (s : State) : Host.Outcome State Fault Refusal := .next (s.mWrite 0x50018 1)
def execPlatctlUnlock (s : State) : Host.Outcome State Fault Refusal := .next (s.mWrite 0x50018 0)
def execIntrtWrite (s : State) : Host.Outcome State Fault Refusal := .next (s.mWrite 0x50010 s.arg.word)
def execKctlWrite (s : State) : Host.Outcome State Fault Refusal :=
  .next (s.mWrite (0x60000 + s.arg.n % 4096 * 16) s.arg.word)
def execNonceWrite (s : State) : Host.Outcome State Fault Refusal :=
  .next (s.mWrite (0x60008 + s.arg.n % 4096 * 16) s.arg.word)

/-- STKCE_READ: the count is cleared. -/
def execStkceRead (s : State) : Host.Outcome State Fault Refusal :=
  .next (s.blockRead .mMode (0x50040 + s.arg.n % 12 * 8) 8).2

/-- REGISTER_WRITE: by the host at a BAR0 offset, else by a control core in M-mode at its address. -/
def execRegisterWrite (s : State) : Host.Outcome State Fault Refusal :=
  .next (if s.arg.flag then s.hWrite s.arg.addr s.arg.word
    else if blockBase ≤ s.arg.addr then s.mWrite (s.arg.addr - blockBase) s.arg.word else s)

/-! ### The host control block (R317, R318) -/

def execHostctlAttach (s : State) : Host.Outcome State Fault Refusal := .next (s.hWrite 0x20000 2)
def execHostctlDetach (s : State) : Host.Outcome State Fault Refusal := .next (s.hWrite 0x20000 1)

/-- HOST_LINK_DOWN, or a CXL reset. -/
def execHostLinkDown (s : State) : Host.Outcome State Fault Refusal := .next s.hostLost

/-- A write of HCMD with an OP, on a context and HCMDID. -/
def State.hcmdWrite (s : State) (op : Nat) : State :=
  s.hWrite 0x20018 (BitVec.ofNat 64 (op * 2 ^ 62 + s.arg.ctx % 2 ^ 12))

def execHcmdCancel (s : State) : Host.Outcome State Fault Refusal := .next (s.hcmdWrite 1)
def execHcmdPreempt (s : State) : Host.Outcome State Fault Refusal := .next (s.hcmdWrite 2)
def execHcmdResume (s : State) : Host.Outcome State Fault Refusal := .next (s.hcmdWrite 3)
def execHerraRead (s : State) : Host.Outcome State Fault Refusal := .next (s.hRead 0x20020)
def execHerrnRead (s : State) : Host.Outcome State Fault Refusal := .next (s.hRead 0x20028)

/-! ### The split (R171) -/

/-- SPLIT_APPLY: on an empty core the whole cache portion is written back and invalid, and CUR follows CSZ. -/
def State.splitNow (s : State) (id : Nat) : State :=
  if (s.core id).pend ∧ s.onCore id = [] then
    (s.core id).lines.foldl State.writeBack (s.updCore id fun c => { c with lines := [], cur := c.csz, pend := false })
  else s

def execSplitApply (s : State) : Host.Outcome State Fault Refusal := .next (s.splitNow s.arg.core)

/-! ### The sweep (R301, R302, R304) -/

/-- The window holds a bad line in a granule that moves. -/
def State.movesBad (s : State) : Bool :=
  let m := s.mem
  s.bad.any fun l =>
    let g := l / 32
    m.p - 64 ≤ g && g < m.p && granuleAt m.newList g != granuleAt m.oldList g

/-- Directory entries of device lines follow the lines to their new home slices (R302): of a line whose home die is no
longer what it was, what the other die holds is seen from the home die in force now; every other entry stays. -/
def State.carryDir (s old : State) : State :=
  let cached := s.cores.flatMap fun c => (c.lines.filter fun l => l.space == .dev && l.coh != .z).map (·.line)
  let tracked := (s.coh.dir.filter fun e => e.space == .dev).map (·.line)
  ((cached ++ tracked).eraseDups.filter fun l => old.homeDie .dev l != s.homeDie .dev l).foldl
    (fun s l => s.dirSync .dev l (s.dirEntry .dev l).host) s

/-- SWEEP_WINDOW: the window under P is done; at 0 the stack leaves service. Requests that waited are judged again. -/
def State.sweep (s : State) : State :=
  let m := s.mem
  if m.st = 0 then s
  else
    let p := m.p - 64
    let err := m.err || s.movesBad
    if p = 0 then (({ s with mem := { m with err := err } }).sweepOver |>.carryDir s).unhold
    else (({ s with mem := ({ m with p := p, err := err } : MemSvc).windowed } : State).carryDir s).unhold

def execSweepWindow (s : State) : Host.Outcome State Fault Refusal := .next s.sweep

/-! ### The snapshot (R309) -/

/-- The stored ciphertext of a device line (R306). -/
def State.cipherLine (s : State) (line : Nat) : List Byte :=
  (List.range 128).map fun i => Config.cipher (s.lineKey line) (line * 128) i (s.dev.read (line * 128) 128)

/-- Lines [0, n) copied to pooled memory. -/
def State.snapLines (s : State) : Nat → Mem
  | 0 => s.peer
  | n + 1 => (s.snapLines n).write (s.mem.snapTo.toNat + n * 128) (s.cipherLine n)

/-- SNAPSHOT_COMPLETE: the image is what memory holds now, of the range and at the target taken at START (log 18). -/
def State.snapDone (s : State) : State :=
  if s.mem.snapBusy then
    { s with peer := s.snapLines (s.mem.snapLim * 512), mem := { s.mem with snapDone := true, snapBusy := false } }
  else s

def execSnapshotComplete (s : State) : Host.Outcome State Fault Refusal := .next s.snapDone
def execSnapshotFabricError (s : State) : Host.Outcome State Fault Refusal :=
  .next (if s.mem.snapBusy then { s with mem := { s.mem with snapErr := true, snapBusy := false } } else s)

/-! ### Clocks, links and power (R311, R326, R327) -/

/-- CLOCK_CHANGE_COMPLETE: LOCKED follows LOCK. -/
def execClockChangeComplete (s : State) : Host.Outcome State Fault Refusal :=
  .next (if s.plat.changing then { s with plat := { s.plat with locked := s.plat.lock, changing := false } } else s)

/-- ETHERNET_LINK_CHANGE of a port: the collectives of a link that goes down fail (R328). -/
def execEthernetLinkChange (s : State) : Host.Outcome State Fault Refusal :=
  let bit := BitVec.ofNat 8 (2 ^ (s.arg.n % 8))
  let s := if s.arg.flag then s else s.linkLost (s.arg.n % 8)
  .next { s with plat := { s.plat with netst := if s.arg.flag then s.plat.netst ||| bit else s.plat.netst &&& ~~~bit } }

/-- D3HOT_ENTRY: refused while any queue has QCSN ≠ QSSN. -/
def execD3hotEntry (s : State) : Host.Outcome State Fault Refusal :=
  .next (if s.lu.uqs.any fun q => q.csn != q.ssn then s else { s with plat := { s.plat with d3 := true } })
def execD0Entry (s : State) : Host.Outcome State Fault Refusal := .next { s with plat := { s.plat with d3 := false } }

/-! ### Boot and attestation (R324, R325) -/

/-- What a power-on or cold reset does not touch: memory of others, and the outside's events. -/
def State.booted (s : State) (b : Boot) : State :=
  let r : State := { State.reset with host := s.host, peer := s.peer, agenda := s.agenda, free := s.free }
  match b with
  | .ok failed => failed.foldl (fun s id => s.selftestFail id) r
  | .failed => { r with cur := { r.cur with status := .gone }, plat := { r.plat with booted := false } }

/-- POWER_ON_RESET. -/
def execPowerOnReset (s : State) : Host.Outcome State Fault Refusal := .next (s.booted s.arg.boot)

/-- The answer to a request (R325). -/
def State.attest (s : State) : Option Attestation :=
  if s.plat.booted then
    some { firmware := Config.firmwareDigest, config := Config.configDigest, version := Config.securityVersion,
           signature := Config.signature s.plat.spdm.length }
  else none

/-- SPDM_REQUEST: answered with the signed measurements, or with an error when boot failed (R324). -/
def execSpdmRequest (s : State) : Host.Outcome State Fault Refusal :=
  .next { s with plat := { s.plat with spdm := s.plat.spdm ++ [s.attest] } }

end Sys2Proof.Machine
end

