-- ==== Sys2Proof/Machine/VectorConfig.lean ====
section
/-! DEFINITION. Configuration: `vsetl`, `vsetli`, `vrel` (R34 to R36, R114 to R116), and lane threads: `lfork`, `ljoin`
(R38, R132, R135). -/

namespace Sys2Proof.Machine

/-! ### `vsetl` and `vsetli` (R115) -/

/-- The VTYPE image of a `vsetli`: [7:0] and LGREQ. -/
def vsetliImage (lgreq : BitVec 2) (vt : BitVec 8) : Word := BitVec.ofNat 64 (lgreq.toNat * 2 ^ 12 + vt.toNat)

/-- `vsetl` of a request: earlier vector instructions are waited for when LGREQ ≠ 0; then it completes, freed lane
groups going to waiting strands, or enters lane wait (R34, R35). -/
def State.vsetOp (s : State) (r : VsetReq) : Res State := do
  let s ← s.scalarGate clsVA
  let s := if bf r.image 12 2 = 0 then s else s.onCur Strand.drained
  match s.vset s.cur r with
  | .ok (s', t) => return ({ s' with cur := t.adv 4 }).laneGrant t.core
  | .error want => .error (.wait (.lane s.laneOrder want r), s)

/-- AVL of source register rs1: none (VLMAX) for x0. -/
def Strand.avlOf (t : Strand) (rs1 : Reg) : Option Word := if rs1 = 0 then none else some (t.replyAll.getX rs1)

def execVsetli (rd rs1 : Reg) (lgreq : BitVec 2) (vt : BitVec 8) (s : State) : Host.Outcome State Fault Refusal :=
  finish (s.vsetOp { rd := rd, image := vsetliImage lgreq vt, avl := s.cur.avlOf rs1 })

def execVsetl (rd rs1 rs2 : Reg) (s : State) : Host.Outcome State Fault Refusal :=
  finish (s.vsetOp { rd := rd, image := s.cur.replyAll.getX rs2, avl := s.cur.avlOf rs1 })

/-! ### `vrel` (R36) -/

/-- The strand's side of `vrel`: with a grant, R36; with none only VTYPE, VL and VSTART change (R116). -/
def Strand.released (t : Strand) : Strand :=
  let t := { t with vl := 0, vstart := 0, vtype := villOnly, trimAt := none }
  if t.g = 0 then t else { t with vdirty := 0, g := 0, nr := false, short := false }

/-- The lane groups a strand of a vector core holds return to the pool. -/
def State.freeLanes (s : State) (t : Strand) : State :=
  if t.cls = .vector then s.updCore t.core fun c => c.dropLanes (c.lanesOf t.slot) else s

def State.vrelOp (s : State) : Res State := do
  let s ← s.scalarGate clsVA
  let s := (s.onCur Strand.drained).freeLanes s.cur
  return (s.onCur fun t => t.released.adv 4).laneGrant s.cur.core

def execVrel (s : State) : Host.Outcome State Fault Refusal := finish s.vrelOp

/-! ### Lane threads -/

/-- A lane thread as `lfork` makes it: registers from elements of 64 bits, the pc after the `lfork` (R132). -/
def Strand.newLane (t : Strand) (l : Nat) : LaneThread :=
  { lane := l, pc := t.pc + 4,
    x := Vector.ofFn fun n : Fin 32 => if n = 0 then 0 else BitVec.ofNat 64 (getElem t.v t.g n.val 64 l),
    joined := false }

/-- Lanes that fork. -/
def Strand.forkLanes (t : Strand) (vm : Bool) : List Nat :=
  (List.range (8 * t.g)).filter fun l => decide (l < t.vl) && (!vm || t.kbit 0 l)

/-- `lfork` runs under any legal VTYPE (R109) but EW 100 with FAM 01, which R82 lets no instruction accept (log 62). -/
def State.lforkOp (s : State) (vm : Bool) : Res State := do
  let s ← s.vectorGate clsV (maskOf vm)
  let s := s.onCur Strand.drained
  require (s.cur.vtypeOk && s.cur.vstart == 0 && s.cur.forkLanes vm != []) .illegal s
  return s.onCur fun t =>
    { t with fork := some { threads := (t.forkLanes vm).map t.newLane, turn := 0, joinPc := 0 }, vstart := 0 }

def execLfork (vm : Bool) (s : State) : Host.Outcome State Fault Refusal := finish (s.lforkOp vm)

/-- The registers of joined lanes written back (R135). -/
def joinRegs (v : Vector VReg 32) (g : Nat) (ls : List LaneThread) : Vector VReg 32 :=
  ls.foldl (fun v l => (List.finRange 32).foldl (fun v n =>
    if n = 0 then v else setElem v g n.val 64 l.lane (l.x[n]).toNat) v) v

/-- A lane thread stops at `ljoin`; the last one re-forms the vector (R135). -/
def Strand.joinLane (t : Strand) (f : Fork) : Strand :=
  let after := t.getPc + 4
  let ls := f.threads.modify f.turn fun l => { l with joined := true, pc := after }
  if ls.all (·.joined) then
    { t with v := joinRegs t.v t.g ls, vdirty := t.vdirty ||| 0xFFFFFFFE, pc := after, fork := none }
  else { t with fork := some { f with threads := ls, joinPc := after } }

def State.ljoinOp (s : State) : Res State :=
  match s.cur.fork with
  | some f => .ok (s.onCur fun t => t.joinLane f)
  | none => do
    let s ← s.classGate clsV
    .error (.illegal, s)

def execLjoin (s : State) : Host.Outcome State Fault Refusal := finish s.ljoinOp

end Sys2Proof.Machine
end

