-- ==== Sys2Proof/Machine/Dispatch.lean ====
section
/-! DEFINITION. One arm for each constructor of the instruction set, each a direct call of its meaning. -/

namespace Sys2Proof.Machine

/-- The meaning of a row of the table. -/
def exec (i : Instr) (s : State) : Host.Outcome State Fault Refusal :=
  match i with
  | .vaddVv a => Sys2Proof.Machine.execVaddVv a s
  | .vsubVv a => Sys2Proof.Machine.execVsubVv a s
  | .vmulVv a => Sys2Proof.Machine.execVmulVv a s
  | .vmulhVv a => Sys2Proof.Machine.execVmulhVv a s
  | .vmulhnVv a => Sys2Proof.Machine.execVmulhnVv a s
  | .vmaccVv a => Sys2Proof.Machine.execVmaccVv a s
  | .vnmsacVv a => Sys2Proof.Machine.execVnmsacVv a s
  | .vminVv a => Sys2Proof.Machine.execVminVv a s
  | .vmaxVv a => Sys2Proof.Machine.execVmaxVv a s
  | .vminnVv a => Sys2Proof.Machine.execVminnVv a s
  | .vmaxnVv a => Sys2Proof.Machine.execVmaxnVv a s
  | .vandVv a => Sys2Proof.Machine.execVandVv a s
  | .vorVv a => Sys2Proof.Machine.execVorVv a s
  | .vxorVv a => Sys2Proof.Machine.execVxorVv a s
  | .vsllVv a => Sys2Proof.Machine.execVsllVv a s
  | .vsrlVv a => Sys2Proof.Machine.execVsrlVv a s
  | .vsraVv a => Sys2Proof.Machine.execVsraVv a s
  | .vdivVv a => Sys2Proof.Machine.execVdivVv a s
  | .vdivnVv a => Sys2Proof.Machine.execVdivnVv a s
  | .vremVv a => Sys2Proof.Machine.execVremVv a s
  | .vremnVv a => Sys2Proof.Machine.execVremnVv a s
  | .vsaddVv a => Sys2Proof.Machine.execVsaddVv a s
  | .vsaddnVv a => Sys2Proof.Machine.execVsaddnVv a s
  | .vssubVv a => Sys2Proof.Machine.execVssubVv a s
  | .vssubnVv a => Sys2Proof.Machine.execVssubnVv a s
  | .vaddVx a => Sys2Proof.Machine.execVaddVx a s
  | .vsubVx a => Sys2Proof.Machine.execVsubVx a s
  | .vmulVx a => Sys2Proof.Machine.execVmulVx a s
  | .vmulhVx a => Sys2Proof.Machine.execVmulhVx a s
  | .vmulhnVx a => Sys2Proof.Machine.execVmulhnVx a s
  | .vmaccVx a => Sys2Proof.Machine.execVmaccVx a s
  | .vnmsacVx a => Sys2Proof.Machine.execVnmsacVx a s
  | .vminVx a => Sys2Proof.Machine.execVminVx a s
  | .vmaxVx a => Sys2Proof.Machine.execVmaxVx a s
  | .vminnVx a => Sys2Proof.Machine.execVminnVx a s
  | .vmaxnVx a => Sys2Proof.Machine.execVmaxnVx a s
  | .vandVx a => Sys2Proof.Machine.execVandVx a s
  | .vorVx a => Sys2Proof.Machine.execVorVx a s
  | .vxorVx a => Sys2Proof.Machine.execVxorVx a s
  | .vsllVx a => Sys2Proof.Machine.execVsllVx a s
  | .vsrlVx a => Sys2Proof.Machine.execVsrlVx a s
  | .vsraVx a => Sys2Proof.Machine.execVsraVx a s
  | .vdivVx a => Sys2Proof.Machine.execVdivVx a s
  | .vdivnVx a => Sys2Proof.Machine.execVdivnVx a s
  | .vremVx a => Sys2Proof.Machine.execVremVx a s
  | .vremnVx a => Sys2Proof.Machine.execVremnVx a s
  | .vsaddVx a => Sys2Proof.Machine.execVsaddVx a s
  | .vsaddnVx a => Sys2Proof.Machine.execVsaddnVx a s
  | .vssubVx a => Sys2Proof.Machine.execVssubVx a s
  | .vssubnVx a => Sys2Proof.Machine.execVssubnVx a s
  | .vrsubVx a => Sys2Proof.Machine.execVrsubVx a s
  | .vsplatVx vm vd rs1 => Sys2Proof.Machine.execVsplatVx vm vd rs1 s
  | .vaddVi a => Sys2Proof.Machine.execVaddVi a s
  | .vandVi a => Sys2Proof.Machine.execVandVi a s
  | .vorVi a => Sys2Proof.Machine.execVorVi a s
  | .vxorVi a => Sys2Proof.Machine.execVxorVi a s
  | .vsllVi a => Sys2Proof.Machine.execVsllVi a s
  | .vsrlVi a => Sys2Proof.Machine.execVsrlVi a s
  | .vsraVi a => Sys2Proof.Machine.execVsraVi a s
  | .vsaddVi a => Sys2Proof.Machine.execVsaddVi a s
  | .vsaddnVi a => Sys2Proof.Machine.execVsaddnVi a s
  | .vrsubVi a => Sys2Proof.Machine.execVrsubVi a s
  | .vsplatVi vm vd imm => Sys2Proof.Machine.execVsplatVi vm vd imm s
  | .vfaddVv a => Sys2Proof.Machine.execVfaddVv a s
  | .vfsubVv a => Sys2Proof.Machine.execVfsubVv a s
  | .vfmulVv a => Sys2Proof.Machine.execVfmulVv a s
  | .vfdivVv a => Sys2Proof.Machine.execVfdivVv a s
  | .vfminVv a => Sys2Proof.Machine.execVfminVv a s
  | .vfmaxVv a => Sys2Proof.Machine.execVfmaxVv a s
  | .vfmaccVv a => Sys2Proof.Machine.execVfmaccVv a s
  | .vfnmaccVv a => Sys2Proof.Machine.execVfnmaccVv a s
  | .vfmsacVv a => Sys2Proof.Machine.execVfmsacVv a s
  | .vfnmsacVv a => Sys2Proof.Machine.execVfnmsacVv a s
  | .vfsgnjVv a => Sys2Proof.Machine.execVfsgnjVv a s
  | .vfsgnjnVv a => Sys2Proof.Machine.execVfsgnjnVv a s
  | .vfsgnjxVv a => Sys2Proof.Machine.execVfsgnjxVv a s
  | .vfsqrt a => Sys2Proof.Machine.execVfsqrt a s
  | .vfrece a => Sys2Proof.Machine.execVfrece a s
  | .vfrsqe a => Sys2Proof.Machine.execVfrsqe a s
  | .vfclass a => Sys2Proof.Machine.execVfclass a s
  | .vfaddVf a => Sys2Proof.Machine.execVfaddVf a s
  | .vfsubVf a => Sys2Proof.Machine.execVfsubVf a s
  | .vfmulVf a => Sys2Proof.Machine.execVfmulVf a s
  | .vfdivVf a => Sys2Proof.Machine.execVfdivVf a s
  | .vfminVf a => Sys2Proof.Machine.execVfminVf a s
  | .vfmaxVf a => Sys2Proof.Machine.execVfmaxVf a s
  | .vfmaccVf a => Sys2Proof.Machine.execVfmaccVf a s
  | .vfnmaccVf a => Sys2Proof.Machine.execVfnmaccVf a s
  | .vfmsacVf a => Sys2Proof.Machine.execVfmsacVf a s
  | .vfnmsacVf a => Sys2Proof.Machine.execVfnmsacVf a s
  | .vfsgnjVf a => Sys2Proof.Machine.execVfsgnjVf a s
  | .vfsgnjnVf a => Sys2Proof.Machine.execVfsgnjnVf a s
  | .vfsgnjxVf a => Sys2Proof.Machine.execVfsgnjxVf a s
  | .vfrsubVf a => Sys2Proof.Machine.execVfrsubVf a s
  | .vfrdivVf a => Sys2Proof.Machine.execVfrdivVf a s
  | .vfsplat vm vd rs1 => Sys2Proof.Machine.execVfsplat vm vd rs1 s
  | .vredsum a => Sys2Proof.Machine.execVredsum a s
  | .vredmax a => Sys2Proof.Machine.execVredmax a s
  | .vredmin a => Sys2Proof.Machine.execVredmin a s
  | .vredmaxn a => Sys2Proof.Machine.execVredmaxn a s
  | .vredminn a => Sys2Proof.Machine.execVredminn a s
  | .vredand a => Sys2Proof.Machine.execVredand a s
  | .vredor a => Sys2Proof.Machine.execVredor a s
  | .vfredo a => Sys2Proof.Machine.execVfredo a s
  | .vfredt a => Sys2Proof.Machine.execVfredt a s
  | .vfredmax a => Sys2Proof.Machine.execVfredmax a s
  | .vfredmin a => Sys2Proof.Machine.execVfredmin a s
  | .vfredamax a => Sys2Proof.Machine.execVfredamax a s
  | .vmvxs c2 rd vs2 => Sys2Proof.Machine.execVmvxs c2 rd vs2 s
  | .vmvfs c2 rd vs2 => Sys2Proof.Machine.execVmvfs c2 rd vs2 s
  | .vfcvtfi a => Sys2Proof.Machine.execVfcvtfi a s
  | .vfcvtif a => Sys2Proof.Machine.execVfcvtif a s
  | .vfwcvt a => Sys2Proof.Machine.execVfwcvt a s
  | .vfncvt a => Sys2Proof.Machine.execVfncvt a s
  | .vqcvt a => Sys2Proof.Machine.execVqcvt a s
  | .vdqcvt a => Sys2Proof.Machine.execVdqcvt a s
  | .vncvti a => Sys2Proof.Machine.execVncvti a s
  | .vwcvti a => Sys2Proof.Machine.execVwcvti a s
  | .vmseqVv a => Sys2Proof.Machine.execVmseqVv a s
  | .vmsneVv a => Sys2Proof.Machine.execVmsneVv a s
  | .vmsltVv a => Sys2Proof.Machine.execVmsltVv a s
  | .vmsltnVv a => Sys2Proof.Machine.execVmsltnVv a s
  | .vmsleVv a => Sys2Proof.Machine.execVmsleVv a s
  | .vmslenVv a => Sys2Proof.Machine.execVmslenVv a s
  | .vmseqVx a => Sys2Proof.Machine.execVmseqVx a s
  | .vmsneVx a => Sys2Proof.Machine.execVmsneVx a s
  | .vmsltVx a => Sys2Proof.Machine.execVmsltVx a s
  | .vmsltnVx a => Sys2Proof.Machine.execVmsltnVx a s
  | .vmsleVx a => Sys2Proof.Machine.execVmsleVx a s
  | .vmslenVx a => Sys2Proof.Machine.execVmslenVx a s
  | .vmseqVi a => Sys2Proof.Machine.execVmseqVi a s
  | .vmsneVi a => Sys2Proof.Machine.execVmsneVi a s
  | .vmsleVi a => Sys2Proof.Machine.execVmsleVi a s
  | .vmslenVi a => Sys2Proof.Machine.execVmslenVi a s
  | .vmfeqVv a => Sys2Proof.Machine.execVmfeqVv a s
  | .vmfneVv a => Sys2Proof.Machine.execVmfneVv a s
  | .vmfltVv a => Sys2Proof.Machine.execVmfltVv a s
  | .vmfleVv a => Sys2Proof.Machine.execVmfleVv a s
  | .vmfordVv a => Sys2Proof.Machine.execVmfordVv a s
  | .vmfeqVf a => Sys2Proof.Machine.execVmfeqVf a s
  | .vmfneVf a => Sys2Proof.Machine.execVmfneVf a s
  | .vmfltVf a => Sys2Proof.Machine.execVmfltVf a s
  | .vmfleVf a => Sys2Proof.Machine.execVmfleVf a s
  | .vmfordVf a => Sys2Proof.Machine.execVmfordVf a s
  | .kand kd ks2 ks1 => Sys2Proof.Machine.execKand kd ks2 ks1 s
  | .kor kd ks2 ks1 => Sys2Proof.Machine.execKor kd ks2 ks1 s
  | .kxor kd ks2 ks1 => Sys2Proof.Machine.execKxor kd ks2 ks1 s
  | .kandn kd ks2 ks1 => Sys2Proof.Machine.execKandn kd ks2 ks1 s
  | .knot kd ks2 => Sys2Proof.Machine.execKnot kd ks2 s
  | .kmov kd ks2 => Sys2Proof.Machine.execKmov kd ks2 s
  | .kpop rd ks2 => Sys2Proof.Machine.execKpop rd ks2 s
  | .kfirst rd ks2 => Sys2Proof.Machine.execKfirst rd ks2 s
  | .vslideupVx a => Sys2Proof.Machine.execVslideupVx a s
  | .vslideupVi a => Sys2Proof.Machine.execVslideupVi a s
  | .vslidednVx a => Sys2Proof.Machine.execVslidednVx a s
  | .vslidednVi a => Sys2Proof.Machine.execVslidednVi a s
  | .vpermVv a => Sys2Proof.Machine.execVpermVv a s
  | .vcompress c2 vd vs2 ks1 => Sys2Proof.Machine.execVcompress c2 vd vs2 ks1 s
  | .vexpand c2 vd vs2 ks1 => Sys2Proof.Machine.execVexpand c2 vd vs2 ks1 s
  | .vmergeVv c2 c1 vd vs2 vs1 => Sys2Proof.Machine.execVmergeVv c2 c1 vd vs2 vs1 s
  | .vmergeVx c2 vd vs2 rs1 => Sys2Proof.Machine.execVmergeVx c2 vd vs2 rs1 s
  | .vmergeVi c2 vd vs2 imm => Sys2Proof.Machine.execVmergeVi c2 vd vs2 imm s
  | .vid vm vd => Sys2Proof.Machine.execVid vm vd s
  | .vsetli rd rs1 lgreq vt => Sys2Proof.Machine.execVsetli rd rs1 lgreq vt s
  | .vsetl rd rs1 rs2 => Sys2Proof.Machine.execVsetl rd rs1 rs2 s
  | .lfork vm => Sys2Proof.Machine.execLfork vm s
  | .bkrd rd rs1 rs2 => Sys2Proof.Machine.execBkrd rd rs1 rs2 s
  | .bkrsm rs1 => Sys2Proof.Machine.execBkrsm rs1 s
  | .ccmoveMove rd rs1 => Sys2Proof.Machine.execCcmoveMove rd rs1 s
  | .frqpop rd rs1 => Sys2Proof.Machine.execFrqpop rd rs1 s
  | .latw rs1 rs2 => Sys2Proof.Machine.execLatw rs1 rs2 s
  | .thrset rs1 rs2 => Sys2Proof.Machine.execThrset rs1 rs2 s
  | .vld a => Sys2Proof.Machine.execVld a s
  | .vst a => Sys2Proof.Machine.execVst a s
  | .kld kd base => Sys2Proof.Machine.execKld kd base s
  | .kst ks base => Sys2Proof.Machine.execKst ks base s
  | .vlds a => Sys2Proof.Machine.execVlds a s
  | .vsts a => Sys2Proof.Machine.execVsts a s
  | .vldxO a => Sys2Proof.Machine.execVldxO a s
  | .vstxO a => Sys2Proof.Machine.execVstxO a s
  | .vldx a => Sys2Proof.Machine.execVldx a s
  | .vstx a => Sys2Proof.Machine.execVstx a s
  | .vldff a => Sys2Proof.Machine.execVldff a s
  | .vldl a => Sys2Proof.Machine.execVldl a s
  | .vstl a => Sys2Proof.Machine.execVstl a s
  | .qdef q base => Sys2Proof.Machine.execQdef q base s
  | .qbind vd q => Sys2Proof.Machine.execQbind vd q s
  | .qunb vd => Sys2Proof.Machine.execQunb vd s
  | .qavail rd q => Sys2Proof.Machine.execQavail rd q s
  | .qwait q rs1 => Sys2Proof.Machine.execQwait q rs1 s
  | .qend q => Sys2Proof.Machine.execQend q s
  | .qrst q => Sys2Proof.Machine.execQrst q s
  | .vamoadd a => Sys2Proof.Machine.execVamoadd a s
  | .vamomin a => Sys2Proof.Machine.execVamomin a s
  | .vamomax a => Sys2Proof.Machine.execVamomax a s
  | .vamominn a => Sys2Proof.Machine.execVamominn a s
  | .vamomaxn a => Sys2Proof.Machine.execVamomaxn a s
  | .vamoand a => Sys2Proof.Machine.execVamoand a s
  | .vamoor a => Sys2Proof.Machine.execVamoor a s
  | .vamoxor a => Sys2Proof.Machine.execVamoxor a s
  | .vamoswp a => Sys2Proof.Machine.execVamoswp a s
  | .vamocas a => Sys2Proof.Machine.execVamocas a s
  | .vamofadd a => Sys2Proof.Machine.execVamofadd a s
  | .laneFormAtomic op a => Sys2Proof.Machine.execLaneFormAtomic op a s
  | .vwaitEq a => Sys2Proof.Machine.execVwaitEq a s
  | .vwaitNe a => Sys2Proof.Machine.execVwaitNe a s
  | .vwaitLt a => Sys2Proof.Machine.execVwaitLt a s
  | .vwaitGe a => Sys2Proof.Machine.execVwaitGe a s
  | .vgl a => Sys2Proof.Machine.execVgl a s
  | .vsc a => Sys2Proof.Machine.execVsc a s
  | .ordSv scope => Sys2Proof.Machine.execOrdSv scope s
  | .ordVs scope => Sys2Proof.Machine.execOrdVs scope s
  | .ordVv scope => Sys2Proof.Machine.execOrdVv scope s
  | .ordAll scope => Sys2Proof.Machine.execOrdAll scope s
  | .sev rs1 => Sys2Proof.Machine.execSev rs1 s
  | .send rs1 rs2 ch => Sys2Proof.Machine.execSend rs1 rs2 ch s
  | .recv rd ch => Sys2Proof.Machine.execRecv rd ch s
  | .recvnb rd ch => Sys2Proof.Machine.execRecvnb rd ch s
  | .frz rd rs1 rs2 => Sys2Proof.Machine.execFrz rd rs1 rs2 s
  | .thaw rs1 ch => Sys2Proof.Machine.execThaw rs1 ch s
  | .thaww rs1 => Sys2Proof.Machine.execThaww rs1 s
  | .frzq rd rs1 => Sys2Proof.Machine.execFrzq rd rs1 s
  | .syscB rd rs1 => Sys2Proof.Machine.execSyscB rd rs1 s
  | .syscN rd rs1 => Sys2Proof.Machine.execSyscN rd rs1 s
  | .mmr row slot base => Sys2Proof.Machine.execMmr row slot base s
  | .mmrz row slot base => Sys2Proof.Machine.execMmrz row slot base s
  | .mmrs row slot base rs3 => Sys2Proof.Machine.execMmrs row slot base rs3 s
  | .accrd vd rs1 row => Sys2Proof.Machine.execAccrd vd rs1 row s
  | .accwr rs1 row vs2 => Sys2Proof.Machine.execAccwr rs1 row vs2 s
  | .accz rs1 row n => Sys2Proof.Machine.execAccz rs1 row n s
  | .wclr slot => Sys2Proof.Machine.execWclr slot s
  | .wdesc rd slot => Sys2Proof.Machine.execWdesc rd slot s
  | .cpt a => Sys2Proof.Machine.execCpt a s
  | .cpgr a => Sys2Proof.Machine.execCpgr a s
  | .cpsc a => Sys2Proof.Machine.execCpsc a s
  | .cpw a slot => Sys2Proof.Machine.execCpw a slot s
  | .cpf a => Sys2Proof.Machine.execCpf a s
  | .lnch rd rs1 ch => Sys2Proof.Machine.execLnch rd rs1 ch s
  | .cpost rd rs1 ch => Sys2Proof.Machine.execCpost rd rs1 ch s
  | .fence fm pred succ rs1 rd => Sys2Proof.Machine.execFence fm pred succ rs1 rd s
  | .quelanCsrAccess a => Sys2Proof.Machine.execQuelanCsrAccess a s
  | .vdirtyWrite a => Sys2Proof.Machine.execVdirtyWrite a s
  | .rv64ScalarInstruction form op => Sys2Proof.Machine.execRv64ScalarInstruction form op s
  | .vrel => Sys2Proof.Machine.execVrel s
  | .ljoin => Sys2Proof.Machine.execLjoin s
  | .ccmoveWriteBookmark => Sys2Proof.Machine.execCcmoveWriteBookmark s
  | .ccmoveKill => Sys2Proof.Machine.execCcmoveKill s
  | .ccmoveCancel => Sys2Proof.Machine.execCcmoveCancel s
  | .ccmovePreempt => Sys2Proof.Machine.execCcmovePreempt s
  | .ccmoveResume => Sys2Proof.Machine.execCcmoveResume s
  | .ccmovePostMessage => Sys2Proof.Machine.execCcmovePostMessage s
  | .bar => Sys2Proof.Machine.execBar s
  | .phend => Sys2Proof.Machine.execPhend s
  | .wfe => Sys2Proof.Machine.execWfe s
  | .gexit => Sys2Proof.Machine.execGexit s
  | .yld => Sys2Proof.Machine.execYld s
  | .migControl => Sys2Proof.Machine.execMigControl s
  | .migVector => Sys2Proof.Machine.execMigVector s
  | .migArray => Sys2Proof.Machine.execMigArray s
  | .fenceTso => Sys2Proof.Machine.execFenceTso s
  | .fenceI => Sys2Proof.Machine.execFenceI s
  | .ecall => Sys2Proof.Machine.execEcall s
  | .ebreak => Sys2Proof.Machine.execEbreak s
  | .freezePoint => Sys2Proof.Machine.execFreezePoint s
  | .exitAddressFetch => Sys2Proof.Machine.execExitAddressFetch s
  | .replyQueueDelivery => Sys2Proof.Machine.execReplyQueueDelivery s
  | .vectorAccessPerformed => Sys2Proof.Machine.execVectorAccessPerformed s
  | .strandExit => Sys2Proof.Machine.execStrandExit s
  | .qnotifyWrite => Sys2Proof.Machine.execQnotifyWrite s
  | .queueEntryFetch => Sys2Proof.Machine.execQueueEntryFetch s
  | .launchAccept => Sys2Proof.Machine.execLaunchAccept s
  | .codeObjectRegister => Sys2Proof.Machine.execCodeObjectRegister s
  | .codeObjectUnregister => Sys2Proof.Machine.execCodeObjectUnregister s
  | .queueMap => Sys2Proof.Machine.execQueueMap s
  | .queueUnmap => Sys2Proof.Machine.execQueueUnmap s
  | .pendScan => Sys2Proof.Machine.execPendScan s
  | .dispatchDecision => Sys2Proof.Machine.execDispatchDecision s
  | .agingStep => Sys2Proof.Machine.execAgingStep s
  | .dispatchCountHalving => Sys2Proof.Machine.execDispatchCountHalving s
  | .dieReserve => Sys2Proof.Machine.execDieReserve s
  | .preemptionStart => Sys2Proof.Machine.execPreemptionStart s
  | .preemptionSave => Sys2Proof.Machine.execPreemptionSave s
  | .resumption => Sys2Proof.Machine.execResumption s
  | .savedGroupPlacement => Sys2Proof.Machine.execSavedGroupPlacement s
  | .migrationWaitTimeout => Sys2Proof.Machine.execMigrationWaitTimeout s
  | .savePoolRetry => Sys2Proof.Machine.execSavePoolRetry s
  | .laneWaitCheck => Sys2Proof.Machine.execLaneWaitCheck s
  | .carrierMove => Sys2Proof.Machine.execCarrierMove s
  | .strandArrival => Sys2Proof.Machine.execStrandArrival s
  | .yldTimeout => Sys2Proof.Machine.execYldTimeout s
  | .thermalSensorUpdate => Sys2Proof.Machine.execThermalSensorUpdate s
  | .thermalSlotDisable => Sys2Proof.Machine.execThermalSlotDisable s
  | .thermalSlotEnable => Sys2Proof.Machine.execThermalSlotEnable s
  | .mixWindowEnd => Sys2Proof.Machine.execMixWindowEnd s
  | .selftestFailure => Sys2Proof.Machine.execSelftestFailure s
  | .pageTableWalk => Sys2Proof.Machine.execPageTableWalk s
  | .impreciseTrap => Sys2Proof.Machine.execImpreciseTrap s
  | .faultBatchPost => Sys2Proof.Machine.execFaultBatchPost s
  | .engineFaultPause => Sys2Proof.Machine.execEngineFaultPause s
  | .tlbinvAll => Sys2Proof.Machine.execTlbinvAll s
  | .tlbinvPage => Sys2Proof.Machine.execTlbinvPage s
  | .tlbInvalidationComplete => Sys2Proof.Machine.execTlbInvalidationComplete s
  | .notificationDelivery => Sys2Proof.Machine.execNotificationDelivery s
  | .snoopAnswer => Sys2Proof.Machine.execSnoopAnswer s
  | .directoryRequest => Sys2Proof.Machine.execDirectoryRequest s
  | .wcBufferDrain => Sys2Proof.Machine.execWcBufferDrain s
  | .memoryRequestArrival => Sys2Proof.Machine.execMemoryRequestArrival s
  | .hostCxlMemRead => Sys2Proof.Machine.execHostCxlMemRead s
  | .hostCxlMemWrite => Sys2Proof.Machine.execHostCxlMemWrite s
  | .peerRead => Sys2Proof.Machine.execPeerRead s
  | .pageMigrationRequest => Sys2Proof.Machine.execPageMigrationRequest s
  | .reservationExpiry => Sys2Proof.Machine.execReservationExpiry s
  | .vwaitReevaluation => Sys2Proof.Machine.execVwaitReevaluation s
  | .backInvalidationAck => Sys2Proof.Machine.execBackInvalidationAck s
  | .peerAckTimeout => Sys2Proof.Machine.execPeerAckTimeout s
  | .hostBiTimeout => Sys2Proof.Machine.execHostBiTimeout s
  | .collectionComplete => Sys2Proof.Machine.execCollectionComplete s
  | .contextDestroy => Sys2Proof.Machine.execContextDestroy s
  | .copyCommandAccept => Sys2Proof.Machine.execCopyCommandAccept s
  | .copyCommandComplete => Sys2Proof.Machine.execCopyCommandComplete s
  | .streamSlotFill => Sys2Proof.Machine.execStreamSlotFill s
  | .streamDrainWrite => Sys2Proof.Machine.execStreamDrainWrite s
  | .stageStripArrival => Sys2Proof.Machine.execStageStripArrival s
  | .collectiveQueueAccept => Sys2Proof.Machine.execCollectiveQueueAccept s
  | .collectiveComplete => Sys2Proof.Machine.execCollectiveComplete s
  | .messageArrival => Sys2Proof.Machine.execMessageArrival s
  | .overflowDelivery => Sys2Proof.Machine.execOverflowDelivery s
  | .lsplitWrite => Sys2Proof.Machine.execLsplitWrite s
  | .splitApply => Sys2Proof.Machine.execSplitApply s
  | .vpoolWrite => Sys2Proof.Machine.execVpoolWrite s
  | .wmaskWrite => Sys2Proof.Machine.execWmaskWrite s
  | .memcapWrite => Sys2Proof.Machine.execMemcapWrite s
  | .irmctlStart => Sys2Proof.Machine.execIrmctlStart s
  | .sweepWindow => Sys2Proof.Machine.execSweepWindow s
  | .snapctlStart => Sys2Proof.Machine.execSnapctlStart s
  | .snapshotComplete => Sys2Proof.Machine.execSnapshotComplete s
  | .snapshotFabricError => Sys2Proof.Machine.execSnapshotFabricError s
  | .platctlLock => Sys2Proof.Machine.execPlatctlLock s
  | .platctlUnlock => Sys2Proof.Machine.execPlatctlUnlock s
  | .clockChangeComplete => Sys2Proof.Machine.execClockChangeComplete s
  | .hostctlAttach => Sys2Proof.Machine.execHostctlAttach s
  | .hostctlDetach => Sys2Proof.Machine.execHostctlDetach s
  | .hostLinkDown => Sys2Proof.Machine.execHostLinkDown s
  | .svcnotifyWrite => Sys2Proof.Machine.execSvcnotifyWrite s
  | .hcmdCancel => Sys2Proof.Machine.execHcmdCancel s
  | .hcmdPreempt => Sys2Proof.Machine.execHcmdPreempt s
  | .hcmdResume => Sys2Proof.Machine.execHcmdResume s
  | .herraRead => Sys2Proof.Machine.execHerraRead s
  | .herrnRead => Sys2Proof.Machine.execHerrnRead s
  | .stkceRead => Sys2Proof.Machine.execStkceRead s
  | .kctlWrite => Sys2Proof.Machine.execKctlWrite s
  | .nonceWrite => Sys2Proof.Machine.execNonceWrite s
  | .intrtWrite => Sys2Proof.Machine.execIntrtWrite s
  | .registerWrite => Sys2Proof.Machine.execRegisterWrite s
  | .ethernetLinkChange => Sys2Proof.Machine.execEthernetLinkChange s
  | .powerOnReset => Sys2Proof.Machine.execPowerOnReset s
  | .spdmRequest => Sys2Proof.Machine.execSpdmRequest s
  | .d3hotEntry => Sys2Proof.Machine.execD3hotEntry s
  | .d0Entry => Sys2Proof.Machine.execD0Entry s
  | .vectorInstructionCompletion => Sys2Proof.Machine.execVectorInstructionCompletion s
  | .ownerBackInvalidation => Sys2Proof.Machine.execOwnerBackInvalidation s

end Sys2Proof.Machine
end

