-- ==== Sys2Proof/Machine/Schedule.lean ====
section
/-! DEFINITION. What happens next (log 2): the events of the machine itself that may be due, interrupts (R312), one
instruction of the strand whose turn it is (R39, R51, R249, R255), and the placing of a word where the next step fetches
it (log 11). -/

namespace Sys2Proof.Machine

/-! ### Events of the machine itself -/

/-- An event with its particulars. -/
def ev (row : Instr) (arg : Arg) : Event := { row := row, arg := arg }

/-- Stream handles of a strand that are defined. -/
def Strand.handles (t : Strand) : List QReg := (List.finRange 16).filter fun q => (t.q[q]).isSome

/-- Events that a strand may be due. -/
def Strand.events (t : Strand) : List Event :=
  let u : Arg := { uid := t.uid }
  (match t.status with
    | .gone => []
    | .saved _ _ _ => []
    | .trapping _ => [ev .impreciseTrap u]
    | .freezing => [ev .freezePoint u]
    | .transit _ _ => [ev .strandArrival u]
    | .exiting => [ev .strandExit u]
    | _ => [ev .carrierMove u] ++ (if t.mixDone.isSome then [ev .mixWindowEnd u] else []))
  ++ (if t.status = .gone then [] else
      t.handles.flatMap fun q =>
        [ev .streamSlotFill { u with q := q.val }, ev .streamDrainWrite { u with q := q.val },
          ev .stageStripArrival { u with q := q.val }])
  ++ (if t.replyQ = [] then [] else [ev .replyQueueDelivery u])
  ++ ((List.range 32).filter fun l => t.pend.getD l 0 != 0).map (fun l => ev .vectorAccessPerformed { u with lane := l })
  ++ (if t.vq = 0 ∧ t.mq = 0 then [] else [ev .vectorInstructionCompletion u])
  ++ (if t.wcS = [] then [] else [ev .wcBufferDrain u]) ++ (if t.wcV = [] then [] else [ev .wcBufferDrain { u with flag := true }])

/-- Events that a core may be due. -/
def Core.events (c : Core) : List Event :=
  let a : Arg := { core := c.id }
  (if c.engine = [] then [] else [ev .copyCommandComplete a]) ++ (if c.pend then [ev .splitApply a] else [])

/-- Events of the copy engines of cores with strands, or with commands of strands that have moved away (R43). -/
def State.engineEvents (s : State) : List Event :=
  ((s.strands.filter fun t => t.status != .gone).map (·.core)
    ++ (s.cores.filter fun c => c.engine != []).map (·.id)).eraseDups.flatMap fun id =>
    [ev .copyCommandAccept { core := id }, ev .engineFaultPause { core := id }]

/-- Events that a die may be due. -/
def State.dieEvents (s : State) (d : Nat) : List Event :=
  let a : Arg := { die := d }
  (if (s.die d).batches = [] then [] else [ev .faultBatchPost a])
    ++ (if (s.die d).notifs = [] then [] else [ev .notificationDelivery a])
    ++ [ev .collectiveQueueAccept a, ev .dispatchDecision a]

/-- Events that a launch may be due. -/
def Launch.events (l : Launch) : List Event :=
  let a : Arg := { lid := l.lid }
  match l.st with
  | .preempting => [ev .preemptionSave a]
  | .preempted => [ev .resumption a]
  | .running => [ev .savedGroupPlacement a] ++ (if l.pool = [] then [] else [ev .overflowDelivery a])
  | _ => []

/-- Every event that may be due, in a fixed order. In D3hot the core clock is stopped: of the machine's own events only the
sweep, on the memory's clock, goes on (R13, R327; log 63). -/
def State.candidates (s : State) : List Event :=
  if s.plat.d3 then (if s.mem.st = 0 then [] else [ev .sweepWindow {}])
  else
  s.strands.flatMap Strand.events ++ s.cores.flatMap Core.events ++ s.engineEvents
    ++ (if s.wire = [] then [] else [ev .messageArrival {}])
    ++ s.lu.launches.flatMap Launch.events
    ++ s.lu.waiting
    ++ s.lu.uqs.map (fun q => ev .queueEntryFetch { uq := q.uq })
    ++ s.lu.entries.flatMap (fun e =>
        let a : Arg := { uq := e.uq, seq := e.seq }
        [ev .launchAccept a, ev .codeObjectRegister a, ev .codeObjectUnregister a])
    ++ s.dieEvents 0 ++ s.dieEvents 1
    ++ s.coh.snoops.map (fun p => ev .snoopAnswer { core := p.1 })
    ++ (s.cat.entries.filter (·.thawing)).map (fun e => ev .collectionComplete { entry := e.idx })
    ++ (if s.xl.requests = [] then [] else [ev .tlbInvalidationComplete {}])
    ++ (if s.plat.changing then [ev .clockChangeComplete {}] else [])
    ++ (if s.mem.st = 0 then [] else [ev .sweepWindow {}])

/-- The machine with an event's particulars in place. -/
def State.withArg (s : State) (a : Arg) : State := { s with arg := a }

/-- An event is due when it changes the machine. -/
def State.due (s : State) (e : Event) : Bool :=
  match exec e.row (s.withArg e.arg) with
  | .next s' => s' != s.withArg e.arg
  | _ => true

/-- The first event of a list that is due, with those after it. -/
def State.firstDue (s : State) : List Event → Option (Event × List Event)
  | [] => none
  | e :: es => if s.due e then some (e, es) else s.firstDue es

/-- The event that takes place next, with what is left of the round: each event that may be due is looked at once before a
new round begins, so that none waits for ever (R49; log 2). -/
def State.dueEvent (s : State) : Option (Event × List Event) :=
  match s.firstDue (if s.plat.d3 then [] else s.round) with
  | some r => some r
  | none => s.firstDue s.candidates

/-! ### Interrupts (R312; log 6) -/

/-- Causes in the order of their priority. -/
def irqOrder : List Nat := [11, 3, 7, 9, 1, 5]

/-- The interrupt that the current strand's core takes: into S-mode or not, and its cause. -/
def State.irq (s : State) : Option (Bool × Nat) :=
  if s.cur.cls ≠ .control then none
  else
    let c := s.csrs
    let on := s.mip &&& c.mie
    let toM := on &&& ~~~c.mideleg
    let toS := on &&& c.mideleg
    match (if s.cur.mode != .m || c.mstatus.getLsbD 3 then irqOrder.find? fun n => toM.getLsbD n else none) with
    | some n => some (false, n)
    | none =>
      match (if s.cur.mode == .u || (s.cur.mode == .s && c.mstatus.getLsbD 1) then
          irqOrder.find? fun n => toS.getLsbD n else none) with
      | some n => some (true, n)
      | none => none

/-! ### Turns -/

/-- Waits that end by executing the instruction again; the others end by an event. -/
def Wait.polled : Wait → Strand → Bool
  | .barrier, _ => false
  | .lane _ _ _, _ => false
  | .copy _, _ => false
  | .collective _ _ _, _ => false
  | .replay, _ => false
  | .service, t => !t.posted
  | _, _ => true

/-- A strand may take a turn: it runs or waits by asking again, and its launch is not being pre-empted. -/
def State.ready (s : State) (t : Strand) : Bool :=
  (match t.status with
    | .running => true
    | .waiting w => w.polled t
    | _ => false)
  && (t.system || match s.launch t.lid with | some l => l.st != .preempting | none => true)

/-- The next unjoined thread of a fork after the one whose turn it was (R51). -/
def Fork.next (f : Fork) : Fork :=
  let n := f.threads.length
  match ((List.range n).map fun i => (f.turn + 1 + i) % n).find? fun i =>
      match f.threads[i]? with | some l => !l.joined | none => false with
  | some i => { f with turn := i }
  | none => f

/-- The current strand has issued an instruction: `yld` of others counts it (R249). -/
def Strand.sawIssue (uid core : Nat) (t : Strand) : Strand :=
  match t.status with
  | .yielding us =>
    if t.core = core then
      let rest := us.filter (· != uid)
      t.setStatus (if rest = [] then .running else .yielding rest)
    else t
  | _ => t

/-- An instruction counted in the mix window: the 65,536th ends it, and the next begins (R255). -/
def Strand.mixCount (t : Strand) (vector : Bool) : Strand :=
  let v := t.mixV + if vector then 1 else 0
  if t.mixN + 1 < 65536 then { t with mixN := t.mixN + 1, mixV := v } else { t with mixN := 0, mixV := 0, mixDone := some v }

/-- After an instruction: the counts of the mix window (R255), the yields it ends, the fork's next turn unless the thread
stopped the strand. -/
def State.issued (s : State) (uid core : Nat) (forked vector : Bool) : State :=
  if s.cur.uid ≠ uid then s
  else
    let s := match s.cur.status with
      | .waiting _ => s
      | _ =>
        let s := s.mapStrands (Strand.sawIssue uid core)
        if forked then s
        else s.onCur (·.mixCount vector)
    let goesOn := match s.cur.status with | .running => true | .waiting _ => true | _ => false
    if forked && goesOn then s.onCur fun t => { t with fork := t.fork.map Fork.next } else s

/-- Strands from the first ready one on come before those ahead of it. -/
def State.turnList (s : State) : List Strand → List Strand → List Strand
  | ahead, [] => ahead
  | ahead, t :: ts => if s.ready t then t :: ts ++ ahead else s.turnList (ahead ++ [t]) ts

/-- The turn passes to the next ready strand; a strand that is gone leaves. -/
def State.rotate (s : State) : State :=
  match s.turnList [] (s.others ++ (if s.cur.status = .gone then [] else [s.cur])) with
  | [] => s
  | t :: ts => { s with cur := t, others := ts }

/-! ### One turn -/

/-- The instruction at the current strand's pc. -/
def State.issue (s : State) : Host.Outcome State Fault Refusal :=
  match s.fetchInstr with
  | .error e => .next (s.takeExc e)
  | .ok (.illegal, s) => .next (s.takeExc .illegal)
  | .ok (.exit, s) => exec .exitAddressFetch s
  | .ok (.instr i _, s) => let r := s.resolve i; exec r.1 r.2

/-- The instruction at the pc counts as a vector instruction. -/
def State.nextIsVector (s : State) : Bool :=
  match s.fetchInstr with
  | .ok (.instr i _, _) => isVectorInstr i
  | _ => false

/-- One turn of the current strand: an interrupt, or one instruction; then the next strand's turn. A `wfi` that waits ends
before the interrupt that wakes it is taken. -/
def State.turn (s : State) : Host.Outcome State Fault Refusal :=
  let irq := if s.cur.status = .waiting .interrupt then none else s.irq
  let s := s.onCur fun t => match t.status with | .waiting _ => t.setStatus .running | _ => t
  match irq with
  | some (toS, n) => .next { (if toS then s.trapS true n 0 else s.trapM true n 0) with evTurn := true }
  | none =>
    match s.issue with
    | .next s' =>
      .next { (s'.issued s.cur.uid s.cur.core s.cur.fork.isSome s.nextIsVector).rotate with evTurn := true }
    | o => o

/-- An event takes place. -/
def State.happen (s : State) (e : Event) : Host.Outcome State Fault Refusal := exec e.row (s.withArg e.arg)

/-- An event of the machine itself, then a turn; in D3hot no core runs (R327). -/
def State.proceed (s : State) : Host.Outcome State Fault Refusal :=
  if !(s.ready s.cur) && s.strands.any s.ready then .next s.rotate
  else
    let runs := s.ready s.cur && !s.plat.d3
    match (if s.evTurn || !runs then s.dueEvent else none) with
    | some (e, es) => ({ s with evTurn := false, round := es }).happen e
    | none => if runs then s.turn else .next s

/-! ### Placing a word (log 11) -/

/-- Bytes stored in device memory as every reader of the device key sees them. -/
def State.putBytes (s : State) (a : Nat) (bs : List Byte) : State := { s with dev := s.dev.write a bs }

/-- The core on which a strand of a class is placed. -/
def homeOf (c : Cls) : Nat :=
  match c with
  | .control => 0x0000
  | .vector => 0x0100
  | .array => 0x0300

/-- A user strand as it stands at dispatch with one lane group (R30), on slot 0 of a core, at an address of context 0. -/
def userStrand (id : Nat) (pc : Word) : Strand :=
  { Strand.fresh 0 with core := id, slot := 0, g := 1, lstage := 1, lanes0 := [0], pc := pc }

/-- The class of a core for a row: that of the current strand if it implements it, else the first that does. -/
def placeCls (cur : Cls) (cs : List Cls) : Cls :=
  if cs.contains cur then cur else match cs with | c :: _ => c | [] => cur

/-- The bytes of an instruction stored where the next step fetches: at the current strand's pc in Bare mode; for an
instruction that its class does not implement, a user strand of a class that does takes its place, under a leaf of the
top-level table that maps 4 TiB from device address 0 at virtual address 2^42. -/
def State.placeWord (s : State) (i : Instr) (bs : List Byte) : State :=
  let c := placeCls s.cur.cls (instrClasses i)
  let s := { s with agenda := [], evTurn := false, round := [] }
  if c = s.cur.cls then s.putBytes s.cur.pc.toNat bs
  else
    let s := (s.putBytes 8 (leBytes 8 0xCF)).putBytes 0x10000 bs
    let s := s.updCore (homeOf c) fun k => if c = .vector then k.giveLanes 0 [0] else k
    { s with cur := userStrand (homeOf c) (BitVec.ofNat 64 (2 ^ 42 + 0x10000)) }

end Sys2Proof.Machine
end

