-- ==== Sys2Proof/Machine/Step.lean ====
section
/-! DEFINITION. One step of the machine (log 2), and the placing of one instruction where the next step runs it
(log 11). -/

namespace Sys2Proof.Machine

/-- One step: the outside's next event; else an event of the machine itself or one instruction, in turn. -/
def step (s : State) : Host.Outcome State Fault Refusal :=
  match s.agenda with
  | e :: rest => ({ s with agenda := rest }).happen e
  | [] => s.proceed

/-- The instruction of a table word, and zeros above it, where the next step fetches. -/
def State.withFetchWord (s : State) (nbits w : Nat) : State :=
  match Sys2Proof.decodeTableWord nbits w with
  | some i => s.placeWord i (leBytes 8 (w % 2 ^ nbits))
  | none => { s with agenda := [], evTurn := false }.putBytes s.cur.pc.toNat (leBytes 8 (w % 2 ^ nbits))

end Sys2Proof.Machine
end

