-- ==== Sys2Proof/Safety.lean ====
section
/-! DEFINITION. The vocabulary of the claims: when an instruction issues without an exception, what "only these elements are
written" says, how a vector instruction retires, tables of the element functions that the rules give (over bit vectors,
apart from the machine's own), what one access and a sequence of accesses do, and the invariants of the machine. -/

namespace Sys2Proof.Machine

/-! ### Issue -/

/-- The machine once the replies of earlier instructions are in their registers (R111). -/
def State.delivered (s : State) : State := s.onCur Strand.replyAll

/-- The current strand runs no lane threads, its class implements the instruction, and no copy command has yet to write a
mask it names (R53, R133, R167). -/
def Issues (s : State) (cs : List Cls) (ks : List MReg) : Prop :=
  s.cur.fork = none ∧ s.cur.cls ∈ cs ∧ ∀ k ∈ ks, k ∉ s.cur.kdPend

/-- The grant is one that a core has, and VL is within VLMAX (R31, R32). -/
def InGrant (t : Strand) : Prop := t.g ≤ 4 ∧ t.vl ≤ t.vlmax

/-- Registers that name groups of c (R60, R107). -/
def Grouped (c : Nat) (rs : List Reg) : Prop := ∀ r ∈ rs, r.val % c = 0

/-- Issue of a vector computation instruction: the machine `s1` is `s` with replies delivered, and the pops of the streams
bound to registers read made (R156). -/
def VIssue (s s1 : State) (cs : List Cls) (ks : List MReg) (reads writes : List Reg) : Prop :=
  Issues s cs ks ∧ InGrant s.cur ∧ s.delivered.streamIn reads writes = .ok s1

/-! ### Completion -/

/-- A vector instruction of 4 bytes retires: the pc behind it, VSTART 0, one more among at most 16 issued (R106, R274). -/
def State.vRetire (s : State) : State :=
  s.onCur fun t => { t with pc := t.pc + 4, vstart := 0, popped := false, vq := min 16 (t.vq + 1) }

/-- An instruction of n bytes moves the running thread's pc. -/
def State.pcBehind (s : State) (n : Nat) : State := s.onCur fun t => t.putPc (t.getPc + BitVec.ofNat 64 n)

/-! ### Elements written -/

/-- `v'` is `v` with element i of eb bits of the group at register n holding `w i` wherever that is a value, and every
other bit of every register as it was. -/
def ElemsWritten (v v' : Vector VReg 32) (g n eb : Nat) (w : Nat → Option Nat) : Prop :=
  (∀ i x, w i = some x → getElem v' g n eb i = x % 2 ^ eb)
  ∧ ∀ (r : Fin 32) (b : Nat),
      (∀ i, (w i).isSome → ¬(n + i / perReg g eb = r.val ∧ i % perReg g eb * eb ≤ b ∧ b < i % perReg g eb * eb + eb)) →
      (v'[r]).getLsbD b = (v[r]).getLsbD b

/-- The flags that active elements raise, together (R89). -/
def flagsOf (t : Strand) (vm : Bool) (f : Nat → Nat) : BitVec 6 :=
  (t.actives vm).foldl (fun a i => a ||| BitVec.ofNat 6 (f i)) 0

/-- VDIRTY after an element-wise instruction (R105). -/
def dirtyIf (t : Strand) (c : Bool) (vd : Reg) (regs : Nat) : BitVec 32 := if c then dirty t.vdirty vd.val regs else t.vdirty

/-- The element-wise form (R105): the active elements of the destination get their values, VFLAGS their flags, VDIRTY the
group's bits; nothing else of the machine changes but the output streams bound to vd, and what retiring does. -/
def MapsElements (i : Instr) (s s1 : State) (vm : Bool) (vd : Reg) (eb regs : Nat) (f : Nat → Nat × Nat) : Prop :=
  ∃ v', ElemsWritten s1.cur.v v' s1.cur.g vd.val eb (fun j => if s1.cur.active vm j then some (f j).1 else none)
    ∧ exec i s = .next (State.vRetire (State.streamOut
        { s1 with cur := { s1.cur with
            v := v', vflags := s1.cur.vflags ||| flagsOf s1.cur vm fun j => (f j).2
            vdirty := dirtyIf s1.cur (decide (s1.cur.vstart < s1.cur.vl)) vd regs } } [vd]))

/-- A compare (R105, R120): the active bits of the destination mask and the flags; no other bit of a mask changes. A write
of k7 ends what a trimmed load marks in it (log 38). -/
def MapsBits (i : Instr) (s s1 : State) (vm : Bool) (kd : MReg) (f : Nat → Bool × Nat) : Prop :=
  ∃ k' : KReg, (∀ j, j < 4096 → k'.getLsbD j = if s1.cur.active vm j then (f j).1 else (s1.cur.k[kd]).getLsbD j)
    ∧ exec i s = .next (State.vRetire
        { s1 with cur := { s1.cur with
            k := s1.cur.k.set kd k', trimAt := if kd = 7 then none else s1.cur.trimAt
            vflags := s1.cur.vflags ||| flagsOf s1.cur vm fun j => (f j).2 } })

/-- A whole permute (R106, R129, R130): the elements written and VDIRTY. -/
def Permutes (i : Instr) (s s1 : State) (vd : Reg) (w : Nat → Option Nat) : Prop :=
  ∃ v', ElemsWritten s1.cur.v v' s1.cur.g vd.val s1.cur.ew w
    ∧ exec i s = .next (State.vRetire (State.streamOut
        { s1 with cur := { s1.cur with
            v := v', vdirty := dirtyIf s1.cur (decide (0 < s1.cur.vl)) vd s1.cur.grp } } [vd]))

/-- A reduction (R123): element 0 of vd, its VDIRTY bit, and flags. -/
def Reduces (i : Instr) (s s1 : State) (vd : Reg) (r : Nat × Nat) : Prop :=
  ∃ v', ElemsWritten s1.cur.v v' s1.cur.g vd.val s1.cur.ew (fun j => if j = 0 then some r.1 else none)
    ∧ exec i s = .next (State.vRetire (State.streamOut
        { s1 with cur := { s1.cur with
            v := v', vflags := s1.cur.vflags ||| BitVec.ofNat 6 r.2, vdirty := dirty s1.cur.vdirty vd.val 1 } } [vd]))

/-! ### Classes (R55, R59, R71 to R75) and lane threads (R133) -/

/-- The classes that implement an instruction of the four Quelan majors or of format L; none for the others. -/
def classTable : Instr → Option (List Cls)
  | .vaddVv _ | .vsubVv _ | .vaddVx _ | .vsubVx _ | .vrsubVx _ | .vsplatVx .. | .vaddVi _ | .vrsubVi _ | .vsplatVi ..
  | .vmvxs .. | .vfcvtfi _ | .vfcvtif _ | .vfwcvt _ | .vfncvt _ | .vqcvt _ | .vdqcvt _ | .vncvti _ | .vwcvti _
  | .kand .. | .kor .. | .kxor .. | .kandn .. | .knot .. | .kmov .. | .kpop .. | .kfirst .. | .vmergeVv .. | .vmergeVx ..
  | .vmergeVi .. | .vid .. | .vsetli .. | .vsetl .. | .vrel | .vld _ | .vst _ | .kld .. | .kst .. | .vlds _ | .vsts _
  | .vldxO _ | .vstxO _ | .vldx _ | .vstx _ | .vldff _ | .vldl _ | .vstl _ | .qdef .. | .qbind .. | .qunb _ | .qavail ..
  | .qwait .. | .qend _ | .qrst _ | .cpt _ | .cpgr _ | .cpsc _ | .cpf _ => some [.vector, .array]
  | .vmulVv _ | .vmulhVv _ | .vmulhnVv _ | .vmaccVv _ | .vnmsacVv _ | .vminVv _ | .vmaxVv _ | .vminnVv _ | .vmaxnVv _
  | .vandVv _ | .vorVv _ | .vxorVv _ | .vsllVv _ | .vsrlVv _ | .vsraVv _ | .vdivVv _ | .vdivnVv _ | .vremVv _
  | .vremnVv _ | .vsaddVv _ | .vsaddnVv _ | .vssubVv _ | .vssubnVv _ | .vmulVx _ | .vmulhVx _ | .vmulhnVx _ | .vmaccVx _
  | .vnmsacVx _ | .vminVx _ | .vmaxVx _ | .vminnVx _ | .vmaxnVx _ | .vandVx _ | .vorVx _ | .vxorVx _ | .vsllVx _
  | .vsrlVx _ | .vsraVx _ | .vdivVx _ | .vdivnVx _ | .vremVx _ | .vremnVx _ | .vsaddVx _ | .vsaddnVx _ | .vssubVx _
  | .vssubnVx _ | .vandVi _ | .vorVi _ | .vxorVi _ | .vsllVi _ | .vsrlVi _ | .vsraVi _ | .vsaddVi _ | .vsaddnVi _
  | .vfaddVv _ | .vfsubVv _ | .vfmulVv _ | .vfdivVv _ | .vfminVv _ | .vfmaxVv _ | .vfmaccVv _ | .vfnmaccVv _
  | .vfmsacVv _ | .vfnmsacVv _ | .vfsgnjVv _ | .vfsgnjnVv _ | .vfsgnjxVv _ | .vfsqrt _ | .vfrece _ | .vfrsqe _
  | .vfclass _ | .vfaddVf _ | .vfsubVf _ | .vfmulVf _ | .vfdivVf _ | .vfminVf _ | .vfmaxVf _ | .vfmaccVf _ | .vfnmaccVf _
  | .vfmsacVf _ | .vfnmsacVf _ | .vfsgnjVf _ | .vfsgnjnVf _ | .vfsgnjxVf _ | .vfrsubVf _ | .vfrdivVf _ | .vfsplat ..
  | .vredsum _ | .vredmax _ | .vredmin _ | .vredmaxn _ | .vredminn _ | .vredand _ | .vredor _ | .vfredo _ | .vfredt _
  | .vfredmax _ | .vfredmin _ | .vfredamax _ | .vmvfs .. | .vmseqVv _ | .vmsneVv _ | .vmsltVv _ | .vmsltnVv _ | .vmsleVv _
  | .vmslenVv _ | .vmseqVx _ | .vmsneVx _ | .vmsltVx _ | .vmsltnVx _ | .vmsleVx _ | .vmslenVx _ | .vmseqVi _ | .vmsneVi _
  | .vmsleVi _ | .vmslenVi _ | .vmfeqVv _ | .vmfneVv _ | .vmfltVv _ | .vmfleVv _ | .vmfordVv _ | .vmfeqVf _ | .vmfneVf _
  | .vmfltVf _ | .vmfleVf _ | .vmfordVf _ | .vslideupVx _ | .vslideupVi _ | .vslidednVx _ | .vslidednVi _ | .vpermVv _
  | .vcompress .. | .vexpand .. | .lfork _ | .ljoin | .vamoadd _ | .vamomin _ | .vamomax _ | .vamominn _ | .vamomaxn _
  | .vamoand _ | .vamoor _ | .vamoxor _ | .vamoswp _ | .vamocas _ | .vamofadd _ | .vwaitEq _ | .vwaitNe _ | .vwaitLt _
  | .vwaitGe _ | .vgl _ | .vsc _ => some [.vector]
  | .mmr .. | .mmrz .. | .mmrs .. | .accrd .. | .accwr .. | .accz .. | .wclr _ | .wdesc .. | .cpw .. => some [.array]
  | .frz .. | .thaw .. | .thaww _ | .frzq .. => some [.control, .vector]
  | .lnch .. | .cpost .. | .fenceI => some [.control]
  | _ => none

/-- The classes that implement a scalar instruction which some class does not (R55, R59). -/
def scalarClassTable : Scalar → Option (List Cls)
  | .alu .czeroEqz .. | .alu .czeroNez .. => some [.control]
  | .alu .bclr .. | .alu .bext .. | .alu .binv .. | .alu .bset .. | .shI .bclri .. | .shI .bexti .. | .shI .binvi ..
  | .shI .bseti .. | .lr .. | .sc .. | .amo .. | .fload .. | .fstore .. | .fbin .. | .fsqrt .. | .fma .. | .fsgn ..
  | .fminmax .. | .fcmp .. | .fclass .. | .fcvtToInt .. | .fcvtFromInt .. | .fcvtSD .. | .fcvtDS .. | .fmvXF ..
  | .fmvFX .. => some [.control, .vector]
  | .csr a => if a.csr = 1 ∨ a.csr = 2 ∨ a.csr = 3 then some [.control, .vector] else none
  | _ => none

/-- What a lane thread executes (R133), the vector atomics in their lane form. -/
def laneRuns : Instr → Bool
  | .rv64ScalarInstruction _ op =>
    match op with
    | .alu .czeroEqz .. | .alu .czeroNez .. => false
    | .lui .. | .auipc .. | .jal .. | .jalr .. | .branch .. | .load .. | .store .. | .aluI .. | .shI .. | .shIW ..
    | .alu .. | .aluW .. | .un .. => true
    | _ => false
  | .ordVv _ | .ljoin | .laneFormAtomic .. | .vamoadd _ | .vamomin _ | .vamomax _ | .vamominn _ | .vamomaxn _ | .vamoand _
  | .vamoor _ | .vamoxor _ | .vamoswp _ | .vamocas _ | .vamofadd _ => true
  | _ => false

/-- Rows whose class is judged before the replies on their way are in the registers: those that send one themselves, and
`ljoin`. -/
def gateFirst : Instr → Bool
  | .vmvxs .. | .vmvfs .. | .kpop .. | .kfirst .. | .ljoin => true
  | _ => false

/-! ### Integer element functions (R94, R98, R117) -/

/-- An element function over bit vectors of the element width: a = vs2.e[i], b = Op1(i), d = vd.e[i]; the result, and
whether it was clamped (SAT). -/
abbrev BvOp := (w : Nat) → BitVec w → BitVec w → BitVec w → BitVec w × Bool

/-- A row of the integer page: the classes, whether vd is read, and the function. -/
structure IntRow where
  cs : List Cls
  useD : Bool
  f : BvOp

def bvAdd : BvOp := fun _ a b _ => (a + b, false)
def bvSub : BvOp := fun _ a b _ => (a - b, false)
def bvRsub : BvOp := fun _ a b _ => (b - a, false)
def bvMul : BvOp := fun _ a b _ => (a * b, false)
def bvMulh : BvOp := fun w a b _ => ((a.signExtend (2 * w) * b.signExtend (2 * w)).extractLsb' w w, false)
def bvMulhn : BvOp := fun w a b _ => ((a.setWidth (2 * w) * b.setWidth (2 * w)).extractLsb' w w, false)
def bvMacc : BvOp := fun _ a b d => (d + a * b, false)
def bvNmsac : BvOp := fun _ a b d => (d - a * b, false)
def bvMin : BvOp := fun _ a b _ => (if b.slt a then b else a, false)
def bvMax : BvOp := fun _ a b _ => (if a.slt b then b else a, false)
def bvMinn : BvOp := fun _ a b _ => (if b.ult a then b else a, false)
def bvMaxn : BvOp := fun _ a b _ => (if a.ult b then b else a, false)
def bvAnd : BvOp := fun _ a b _ => (a &&& b, false)
def bvOr : BvOp := fun _ a b _ => (a ||| b, false)
def bvXor : BvOp := fun _ a b _ => (a ^^^ b, false)
def bvSll : BvOp := fun w a b _ => (a <<< (b.toNat % w), false)
def bvSrl : BvOp := fun w a b _ => (a >>> (b.toNat % w), false)
def bvSra : BvOp := fun w a b _ => (a.sshiftRight (b.toNat % w), false)
def bvDiv : BvOp := fun w a b _ => (if b = 0 then BitVec.allOnes w else a.sdiv b, false)
def bvDivn : BvOp := fun w a b _ => (if b = 0 then BitVec.allOnes w else a.udiv b, false)
def bvRem : BvOp := fun _ a b _ => (if b = 0 then a else a.srem b, false)
def bvRemn : BvOp := fun _ a b _ => (if b = 0 then a else a.umod b, false)
/-- The INT bound on the side of a sign. -/
def bvBound (w : Nat) (neg : Bool) : BitVec w := if neg then BitVec.intMin w else BitVec.intMax w
def bvSadd : BvOp := fun w a b _ => if a.saddOverflow b then (bvBound w a.msb, true) else (a + b, false)
def bvSaddn : BvOp := fun w a b _ => if a.uaddOverflow b then (BitVec.allOnes w, true) else (a + b, false)
def bvSsub : BvOp := fun w a b _ => if a.ssubOverflow b then (bvBound w a.msb, true) else (a - b, false)
def bvSsubn : BvOp := fun _ a b _ => if a.ult b then (0, true) else (a - b, false)

def vvRows : List ((FVV → Instr) × IntRow) :=
  [(.vaddVv, ⟨clsVA, false, bvAdd⟩), (.vsubVv, ⟨clsVA, false, bvSub⟩), (.vmulVv, ⟨clsV, false, bvMul⟩),
   (.vmulhVv, ⟨clsV, false, bvMulh⟩), (.vmulhnVv, ⟨clsV, false, bvMulhn⟩), (.vmaccVv, ⟨clsV, true, bvMacc⟩),
   (.vnmsacVv, ⟨clsV, true, bvNmsac⟩), (.vminVv, ⟨clsV, false, bvMin⟩), (.vmaxVv, ⟨clsV, false, bvMax⟩),
   (.vminnVv, ⟨clsV, false, bvMinn⟩), (.vmaxnVv, ⟨clsV, false, bvMaxn⟩), (.vandVv, ⟨clsV, false, bvAnd⟩),
   (.vorVv, ⟨clsV, false, bvOr⟩), (.vxorVv, ⟨clsV, false, bvXor⟩), (.vsllVv, ⟨clsV, false, bvSll⟩),
   (.vsrlVv, ⟨clsV, false, bvSrl⟩), (.vsraVv, ⟨clsV, false, bvSra⟩), (.vdivVv, ⟨clsV, false, bvDiv⟩),
   (.vdivnVv, ⟨clsV, false, bvDivn⟩), (.vremVv, ⟨clsV, false, bvRem⟩), (.vremnVv, ⟨clsV, false, bvRemn⟩),
   (.vsaddVv, ⟨clsV, false, bvSadd⟩), (.vsaddnVv, ⟨clsV, false, bvSaddn⟩), (.vssubVv, ⟨clsV, false, bvSsub⟩),
   (.vssubnVv, ⟨clsV, false, bvSsubn⟩)]

def vxRows : List ((FVX → Instr) × IntRow) :=
  [(.vaddVx, ⟨clsVA, false, bvAdd⟩), (.vsubVx, ⟨clsVA, false, bvSub⟩), (.vmulVx, ⟨clsV, false, bvMul⟩),
   (.vmulhVx, ⟨clsV, false, bvMulh⟩), (.vmulhnVx, ⟨clsV, false, bvMulhn⟩), (.vmaccVx, ⟨clsV, true, bvMacc⟩),
   (.vnmsacVx, ⟨clsV, true, bvNmsac⟩), (.vminVx, ⟨clsV, false, bvMin⟩), (.vmaxVx, ⟨clsV, false, bvMax⟩),
   (.vminnVx, ⟨clsV, false, bvMinn⟩), (.vmaxnVx, ⟨clsV, false, bvMaxn⟩), (.vandVx, ⟨clsV, false, bvAnd⟩),
   (.vorVx, ⟨clsV, false, bvOr⟩), (.vxorVx, ⟨clsV, false, bvXor⟩), (.vsllVx, ⟨clsV, false, bvSll⟩),
   (.vsrlVx, ⟨clsV, false, bvSrl⟩), (.vsraVx, ⟨clsV, false, bvSra⟩), (.vdivVx, ⟨clsV, false, bvDiv⟩),
   (.vdivnVx, ⟨clsV, false, bvDivn⟩), (.vremVx, ⟨clsV, false, bvRem⟩), (.vremnVx, ⟨clsV, false, bvRemn⟩),
   (.vsaddVx, ⟨clsV, false, bvSadd⟩), (.vsaddnVx, ⟨clsV, false, bvSaddn⟩), (.vssubVx, ⟨clsV, false, bvSsub⟩),
   (.vssubnVx, ⟨clsV, false, bvSsubn⟩), (.vrsubVx, ⟨clsVA, false, bvRsub⟩)]

/-- Rows with an immediate, and whether it is a shift count of 0 to 31. -/
def viRows : List ((FVI → Instr) × Bool × IntRow) :=
  [(.vaddVi, false, ⟨clsVA, false, bvAdd⟩), (.vandVi, false, ⟨clsV, false, bvAnd⟩), (.vorVi, false, ⟨clsV, false, bvOr⟩),
   (.vxorVi, false, ⟨clsV, false, bvXor⟩), (.vsllVi, true, ⟨clsV, false, bvSll⟩), (.vsrlVi, true, ⟨clsV, false, bvSrl⟩),
   (.vsraVi, true, ⟨clsV, false, bvSra⟩), (.vsaddVi, false, ⟨clsV, false, bvSadd⟩),
   (.vsaddnVi, false, ⟨clsV, false, bvSaddn⟩), (.vrsubVi, false, ⟨clsVA, false, bvRsub⟩)]

/-- Element i of a register, as a bit vector of the element width. -/
def Strand.bvElem (t : Strand) (r : Reg) (i : Nat) : BitVec t.ew := BitVec.ofNat t.ew (t.elem r t.ew i)

/-- The result and flags of a row for element i, with Op1(i) given. -/
def IntRow.at (row : IntRow) (t : Strand) (vs2 vd : Reg) (b : BitVec t.ew) (i : Nat) : Nat × Nat :=
  let r := row.f t.ew (t.bvElem vs2 i) b (t.bvElem vd i)
  (r.1.toNat, if r.2 then flSAT else 0)

/-- A 5-bit immediate as Op1 (R108). -/
def immOp (shift : Bool) (imm : BitVec 5) (w : Nat) : BitVec w := if shift then imm.setWidth w else imm.signExtend w

/-! ### Floating-point element functions (R95, R118, R119) -/

/-- A row of the float pages: whether it rounds by VRND, whether vd is read, and its function of the format, the rounding,
a, b and d. -/
structure FloatRow where
  rounds : Bool
  useD : Bool
  f : Fmt → Round → Nat → Nat → Nat → Nat × Nat

/-- The sign of a pattern. -/
def Fmt.negative (f : Fmt) (a : Nat) : Bool := f.signBit ≤ a
/-- A pattern with its sign replaced. -/
def Fmt.withSign (f : Fmt) (a : Nat) (neg : Bool) : Nat := a % f.signBit + if neg then f.signBit else 0

/-- A pattern's magnitude, its sign bit left out (R84). -/
def Fmt.magnitude (f : Fmt) (p : Nat) : ℚ :=
  if p / 2 ^ f.fb = 0 then p * 2 ^ (f.emin - f.fb)
  else ((2 ^ f.fb + p % 2 ^ f.fb : Nat) : ℚ) * 2 ^ ((p / 2 ^ f.fb : Nat) - (f.bias : Int) - f.fb)

/-- n is y, a magnitude of a sign, rounded to an integer in a mode (R86). -/
def RoundsInt (rm : Rm) (neg : Bool) (y : ℚ) (n : Nat) : Prop :=
  let down : Prop := n ≤ y ∧ y < n + 1
  let up : Prop := y ≤ n ∧ (n : ℚ) < y + 1
  match rm with
  | .rne => |y - n| ≤ 1 / 2 ∧ (|y - n| = 1 / 2 → n % 2 = 0)
  | .rtz => down
  | .rdn => if neg then up else down
  | .rup => if neg then down else up
  | .rmm => |y - n| ≤ 1 / 2 ∧ (|y - n| = 1 / 2 → y < n)

/-- `res` is ± x, x > 0, rounded into a format, with its flags (R86 to R89): first as if the exponent were unbounded; a tiny
result again on the subnormal grid, or flushed; one beyond the largest finite value by the table of R87. -/
def RoundsTo (f : Fmt) (r : Round) (neg : Bool) (x : ℚ) (res : Nat × Nat) : Prop :=
  ∀ (ex : Int) (k : Nat), (2 : ℚ) ^ ex ≤ x → x < (2 : ℚ) ^ (ex + 1) → RoundsInt r.rm neg (x / 2 ^ (ex - f.fb)) k →
    let y : ℚ := k * 2 ^ (ex - f.fb)
    (y < 2 ^ f.emin → r.ftz = true → res = (f.signed neg 0, flUF ||| flNX))
    ∧ (y < 2 ^ f.emin → r.ftz = false → ∀ k1 : Nat, RoundsInt r.rm neg (x / 2 ^ (f.emin - f.fb)) k1 →
        res.1 = f.signed neg k1
        ∧ (k1 * (2 : ℚ) ^ (f.emin - f.fb) = x → res.2 = 0) ∧ (k1 * (2 : ℚ) ^ (f.emin - f.fb) ≠ x → res.2 = flUF ||| flNX))
    ∧ ((2 : ℚ) ^ f.emin ≤ y → y ≤ f.magnitude f.maxBits →
        ∃ p, p ≤ f.maxBits ∧ f.magnitude p = y ∧ res.1 = f.signed neg p ∧ (y = x → res.2 = 0) ∧ (y ≠ x → res.2 = flNX))
    ∧ (f.magnitude f.maxBits < y →
        (r.sat = true → res = (f.signed neg f.maxBits, flSAT ||| flNX))
        ∧ (r.sat = false →
            let inf : Bool := match r.rm with | .rne => true | .rmm => true | .rtz => false | .rdn => neg | .rup => !neg
            res = (f.signed neg (if inf then f.infBits else f.maxBits), flOF ||| flNX)))

/-- The number that a finite value is. -/
def FVal.toQ : FVal → ℚ
  | .fin n m e => (if n then -1 else 1) * m * 2 ^ e
  | _ => 0

/-- The value of a pattern as an instruction reads it: under FTZ a subnormal is a zero of its sign (R88). -/
def Fmt.reads (f : Fmt) (ftz : Bool) (x : Nat) : FVal :=
  f.val (if ftz = true ∧ 0 < x % f.signBit ∧ x % f.signBit < 2 ^ f.fb then x / f.signBit * f.signBit else x)

/-- The pattern of a magnitude beyond the finite ones that is an infinity; above it stand the NaNs (R84). -/
def Fmt.infPattern (f : Fmt) : Nat := (2 ^ f.eb - 1) * 2 ^ f.fb

/-- The value that a pattern encodes (R84, R85). -/
def Encodes (f : Fmt) (a : Nat) : Prop :=
  let m := a % f.signBit
  (m ≤ f.maxBits → (∃ k e, f.val a = .fin (f.negative a) k e)
    ∧ (f.val a).toQ = (if f.negative a then -1 else 1) * f.magnitude m)
  ∧ (f.hasInf = true → m = f.infPattern → f.val a = .inf (f.negative a))
  ∧ (f.maxBits < m → (f.hasInf = true → m ≠ f.infPattern) →
      ∃ s, f.val a = .nan s ∧ (s = true ↔ 8 < f.width ∧ m / 2 ^ (f.fb - 1) % 2 = 0))

/-- Finite numbers are ordered as their patterns are, −0 below +0 (R90). -/
def Fmt.order (f : Fmt) (a : Nat) : Int :=
  if f.negative a then -((a % f.signBit : Nat) : Int) - 1 else (a % f.signBit : Nat)

/-- `res` is the root of x > 0, rounded, with its flags (R86, R89): a normal number between whose neighbours, or whose
midpoints with them, the root lies; no root of a number of the format lies on a midpoint. -/
def RootOf (f : Fmt) (rm : Rm) (x : ℚ) (res : Nat × Nat) : Prop :=
  ∃ p, 0 < p ∧ p < f.maxBits ∧ res.1 = p ∧
    let y := f.magnitude p
    let lo := f.magnitude (p - 1)
    let hi := f.magnitude (p + 1)
    (y ^ 2 = x → res.2 = 0) ∧ (y ^ 2 ≠ x → res.2 = flNX)
    ∧ match rm with
      | .rup => lo ^ 2 < x ∧ x ≤ y ^ 2
      | .rtz => y ^ 2 ≤ x ∧ x < hi ^ 2
      | .rdn => y ^ 2 ≤ x ∧ x < hi ^ 2
      | _ => ((lo + y) / 2) ^ 2 < x ∧ x < ((y + hi) / 2) ^ 2

/-- `res` is the estimate of a magnitude (R95), with its sign and flags: truncated to 12 significant bits, or the format's
own precision, or to the subnormal grid where that is coarser. Which numbers do not exceed the magnitude, and which equals
it, tells `below` and `equals`. -/
def EstimateOf (f : Fmt) (neg : Bool) (below equals : ℚ → Prop) (res : Nat × Nat) : Prop :=
  ∀ (ex : Int) (k : Nat), below (2 ^ ex) → ¬below (2 ^ (ex + 1)) →
    let bits : Int := if 23 ≤ f.fb then 12 else f.fb + 1
    let unit : ℚ := 2 ^ max (ex - (bits - 1)) (f.emin - f.fb)
    below (k * unit) → ¬below ((k + 1 : Nat) * unit) →
    (f.magnitude f.maxBits < 2 ^ ex → res = (f.signed neg f.infBits, flOF ||| flNX))
    ∧ ((2 : ℚ) ^ ex ≤ f.magnitude f.maxBits → ∃ p, p ≤ f.maxBits ∧ f.magnitude p = k * unit ∧ res.1 = f.signed neg p
        ∧ (equals (k * unit) → res.2 = 0)
        ∧ (¬equals (k * unit) → res.2 = if ex < f.emin then flUF ||| flNX else flNX))

/-- A number as a value of a format: a zero has the sign given and no flag, any other is rounded (R86 to R88). -/
def RoundsQ (f : Fmt) (r : Round) (neg : Bool) (q : ℚ) (res : Nat × Nat) : Prop :=
  (q = 0 → res = (f.signed neg 0, 0)) ∧ (q ≠ 0 → RoundsTo f r neg |q| res)

/-- An infinity where it is converted: the largest finite value, with SAT, in a format without infinities or with SATI
(R91, R93). -/
def Fmt.infinity (f : Fmt) (sat neg : Bool) : Nat × Nat :=
  if f.hasInf = false ∨ sat = true then (f.signed neg f.maxBits, flSAT) else (f.signed neg f.infBits, 0)

/-- The result, with the array status, of finite terms summed through a window (R100, R101, R103): each cut toward zero to
a multiple of 2^(E − window), E the exponent of the largest; the sum rounded to nearest even. -/
def WindowSum (f : Fmt) (window : Nat) (terms : List FVal) (res : Nat × Nat) : Prop :=
  ((∀ t ∈ terms, t.toQ = 0) → res = (f.signed (terms.all FVal.neg?) 0, 0))
  ∧ ∀ E : Int, (∀ t ∈ terms, |t.toQ| < (2 : ℚ) ^ (E + 1)) → (∃ t ∈ terms, (2 : ℚ) ^ E ≤ |t.toQ|) →
    let unit : ℚ := 2 ^ (E - window)
    let cut (t : FVal) : Int := if t.toQ < 0 then -⌊-t.toQ / unit⌋ else ⌊t.toQ / unit⌋
    let w : Int := (terms.map cut).sum
    let lost : Prop := ∃ t ∈ terms, cut t * unit ≠ t.toQ
    (w = 0 → res.1 = 0 ∧ (lost → res.2 = 1) ∧ (¬lost → res.2 = 0))
    ∧ (w ≠ 0 → ∃ r, RoundsTo f { rm := .rne, sat := false, ftz := false } (decide (w < 0)) (|(w : ℚ)| * unit) r
        ∧ res.1 = r.1
        ∧ ∃ st : BitVec 3, res.2 = st.toNat ∧ st.getLsbD 2 = false ∧ st.getLsbD 1 = decide (r.2 / flOF % 2 = 1)
          ∧ (st.getLsbD 0 = true ↔ lost ∨ r.2 / flNX % 2 = 1))

def rowFadd : FloatRow := ⟨true, false, fun f r a b _ => f.add r a b⟩
def rowFsub : FloatRow := ⟨true, false, fun f r a b _ => f.sub r a b⟩
def rowFmul : FloatRow := ⟨true, false, fun f r a b _ => f.mul r a b⟩
def rowFdiv : FloatRow := ⟨true, false, fun f r a b _ => f.div r a b⟩
def rowFmin : FloatRow := ⟨false, false, fun f r a b _ => f.minmax false (f.flushIn r.ftz a) (f.flushIn r.ftz b)⟩
def rowFmax : FloatRow := ⟨false, false, fun f r a b _ => f.minmax true (f.flushIn r.ftz a) (f.flushIn r.ftz b)⟩
def rowFmacc : FloatRow := ⟨true, true, fun f r a b d => f.fma r false false a b d⟩
def rowFnmacc : FloatRow := ⟨true, true, fun f r a b d => f.fma r true true a b d⟩
def rowFmsac : FloatRow := ⟨true, true, fun f r a b d => f.fma r false true a b d⟩
def rowFnmsac : FloatRow := ⟨true, true, fun f r a b d => f.fma r true false a b d⟩
def rowFsgnj : FloatRow := ⟨false, false, fun f _ a b _ => (f.withSign a (f.negative b), 0)⟩
def rowFsgnjn : FloatRow := ⟨false, false, fun f _ a b _ => (f.withSign a (!(f.negative b)), 0)⟩
def rowFsgnjx : FloatRow := ⟨false, false, fun f _ a b _ => (f.withSign a (f.negative a != f.negative b), 0)⟩

def fvvRows : List ((FVV → Instr) × FloatRow) :=
  [(.vfaddVv, rowFadd), (.vfsubVv, rowFsub), (.vfmulVv, rowFmul), (.vfdivVv, rowFdiv), (.vfminVv, rowFmin),
   (.vfmaxVv, rowFmax), (.vfmaccVv, rowFmacc), (.vfnmaccVv, rowFnmacc), (.vfmsacVv, rowFmsac),
   (.vfnmsacVv, rowFnmsac), (.vfsgnjVv, rowFsgnj), (.vfsgnjnVv, rowFsgnjn), (.vfsgnjxVv, rowFsgnjx)]

def fvfRows : List ((FVX → Instr) × FloatRow) :=
  [(.vfaddVf, rowFadd), (.vfsubVf, rowFsub), (.vfmulVf, rowFmul), (.vfdivVf, rowFdiv), (.vfminVf, rowFmin),
   (.vfmaxVf, rowFmax), (.vfmaccVf, rowFmacc), (.vfnmaccVf, rowFnmacc), (.vfmsacVf, rowFmsac),
   (.vfnmsacVf, rowFnmsac), (.vfsgnjVf, rowFsgnj), (.vfsgnjnVf, rowFsgnjn), (.vfsgnjxVf, rowFsgnjx),
   (.vfrsubVf, ⟨true, false, fun f r a b _ => f.sub r b a⟩), (.vfrdivVf, ⟨true, false, fun f r a b _ => f.div r b a⟩)]

def fuRows : List ((FVU → Instr) × FloatRow) :=
  [(.vfsqrt, ⟨true, false, fun f r a _ _ => f.sqrt r a⟩), (.vfrece, ⟨false, false, fun f _ a _ _ => f.recip a⟩),
   (.vfrsqe, ⟨false, false, fun f _ a _ _ => f.rsqrt a⟩), (.vfclass, ⟨false, false, fun f _ a _ _ => (f.classify a, 0)⟩)]

/-- VTYPE and VRND allow a row of the float pages (R109, R86). -/
def FloatRow.allowed (row : FloatRow) (t : Strand) : Prop := t.fmtFloat = true ∧ (row.rounds = true → t.rmOk = true)

/-! ### Reductions (R97, R98) -/

/-- Combine of R97, with the flags of its addition. -/
def combine (add : Nat → Nat → Nat × Nat) (a b : Option Nat) : Option Nat × Nat :=
  match a, b with
  | some x, some y => (some (add x y).1, (add x y).2)
  | none, y => (y, 0)
  | x, none => (x, 0)

/-- The tree of R97 over 2^n positions from `lo`: its value, EMPTY when every position is, and the flags of its sums. -/
def treeOver (add : Nat → Nat → Nat × Nat) (leaf : Nat → Option Nat) : Nat → Nat → Option Nat × Nat
  | 0, lo => (leaf lo, 0)
  | n + 1, lo =>
    let l := treeOver add leaf n lo
    let r := treeOver add leaf n (lo + 2 ^ n)
    let c := combine add l.1 r.1
    (c.1, l.2 ||| r.2 ||| c.2)

/-- `vfredt`: the tree, and the seed added last. -/
def treeWithSeed (add : Nat → Nat → Nat × Nat) (seed : Nat) (leaf : Nat → Option Nat) (n : Nat) : Nat × Nat :=
  let t := treeOver add leaf n 0
  match t.1 with
  | some v => ((add seed v).1, t.2 ||| (add seed v).2)
  | none => (seed, t.2)

/-- A fold from the seed in ascending order, flags together. -/
def foldRed (op : Nat → Nat → Nat × Nat) : Nat → List Nat → Nat × Nat
  | acc, [] => (acc, 0)
  | acc, e :: es => let r := op acc e; let q := foldRed op r.1 es; (q.1, r.2 ||| q.2)

def intRedRows : List ((FVV → Instr) × BvOp) :=
  [(.vredsum, bvAdd), (.vredmax, bvMax), (.vredmin, bvMin), (.vredmaxn, bvMaxn), (.vredminn, bvMinn), (.vredand, bvAnd),
   (.vredor, bvOr)]

/-- The elements that take part, in ascending order. -/
def Strand.parts (t : Strand) (a : FVV) : List Nat := (t.actives a.vm).map fun i => t.elem a.vs2 t.ew i

/-- The result of an integer reduction (R98). -/
def intRedOf (f : BvOp) (t : Strand) (a : FVV) : Nat × Nat :=
  ((t.parts a).foldl (fun acc e => (f t.ew (BitVec.ofNat t.ew acc) (BitVec.ofNat t.ew e) 0).1.toNat) (t.elem a.vs1 t.ew 0), 0)

/-- The result of `vfredmax` and `vfredmin` (R98): without a part the seed bit for bit. -/
def minmaxRedOf (isMax : Bool) (t : Strand) (a : FVV) : Nat × Nat :=
  let fl (x : Nat) : Nat := t.fmt.flushIn t.round.ftz x
  let seed := t.elem a.vs1 t.ew 0
  match t.parts a with
  | [] => (seed, 0)
  | es => foldRed (t.fmt.minmax isMax) (fl seed) (es.map fl)

/-- The result of `vfredamax` (R98): magnitudes; without a part the seed's, or the canonical NaN. -/
def amaxRedOf (t : Strand) (a : FVV) : Nat × Nat :=
  let fl (x : Nat) : Nat := t.fmt.flushIn t.round.ftz (x % t.fmt.signBit)
  let seed := t.elem a.vs1 t.ew 0
  match t.parts a with
  | [] =>
    if (t.fmt.val seed).isNan then (t.fmt.nanBits, if (t.fmt.val seed).isSnan then flNV else 0)
    else (seed % t.fmt.signBit, 0)
  | es => foldRed (t.fmt.minmax true) (fl seed) (es.map fl)

/-! ### Compares (R90, R120) -/

abbrev BvRel := (w : Nat) → BitVec w → BitVec w → Bool

def bvEq : BvRel := fun _ a b => a == b
def bvNe : BvRel := fun _ a b => a != b
def bvLt : BvRel := fun _ a b => a.slt b
def bvLtn : BvRel := fun _ a b => a.ult b
def bvLe : BvRel := fun _ a b => a.sle b
def bvLen : BvRel := fun _ a b => a.ule b

def kvvRows : List ((FKVV → Instr) × BvRel) :=
  [(.vmseqVv, bvEq), (.vmsneVv, bvNe), (.vmsltVv, bvLt), (.vmsltnVv, bvLtn), (.vmsleVv, bvLe), (.vmslenVv, bvLen)]
def kvxRows : List ((FKVX → Instr) × BvRel) :=
  [(.vmseqVx, bvEq), (.vmsneVx, bvNe), (.vmsltVx, bvLt), (.vmsltnVx, bvLtn), (.vmsleVx, bvLe), (.vmslenVx, bvLen)]
def kviRows : List ((FKVI → Instr) × BvRel) := [(.vmseqVi, bvEq), (.vmsneVi, bvNe), (.vmsleVi, bvLe), (.vmslenVi, bvLen)]

/-- A float relation with its invalid-operation flag: quiet ones raise NV for a signalling NaN, ordered ones for any. -/
abbrev FRel := FVal → FVal → Bool × Nat

/-- NV when some operand is a signalling NaN, or any NaN. -/
def nvQuiet (a b : FVal) : Nat := if a.isSnan || b.isSnan then flNV else 0
def nvLoud (a b : FVal) : Nat := if a.isNan || b.isNan then flNV else 0

def fkvvRows : List ((FKVV → Instr) × FRel) :=
  [(.vmfeqVv, fun a b => (a.eq b, nvQuiet a b)), (.vmfneVv, fun a b => (!(a.eq b), nvQuiet a b)),
   (.vmfltVv, fun a b => (a.lt b, nvLoud a b)), (.vmfleVv, fun a b => (a.le b, nvLoud a b)),
   (.vmfordVv, fun a b => (!(a.isNan || b.isNan), nvQuiet a b))]
def fkvfRows : List ((FKVX → Instr) × FRel) :=
  [(.vmfeqVf, fun a b => (a.eq b, nvQuiet a b)), (.vmfneVf, fun a b => (!(a.eq b), nvQuiet a b)),
   (.vmfltVf, fun a b => (a.lt b, nvLoud a b)), (.vmfleVf, fun a b => (a.le b, nvLoud a b)),
   (.vmfordVf, fun a b => (!(a.isNan || b.isNan), nvQuiet a b))]

/-- A float operand under FTZ (R88). -/
def Strand.fpIn (t : Strand) (x : Nat) : FVal := t.fmt.val (t.fmt.flushIn t.round.ftz x)

/-! ### Conversions (R91 to R93, R122) -/

/-- Whether VTYPE takes a conversion of integers between widths: INT4 to INT8 and back, or EW 8 to 32 of FAM 00 or 01. -/
def iwOk (t : Strand) : Prop := (t.ew = 4 ∧ vtFam t.vtype = 0) ∨ ((t.ew = 8 ∨ t.ew = 16 ∨ t.ew = 32) ∧ vtFam t.vtype ≠ 2)
/-- VTYPE of the float conversions between widths. -/
def fwOk (t : Strand) : Prop := (t.ew = 8 ∨ t.ew = 16 ∨ t.ew = 32) ∧ vtFam t.vtype = 2
/-- VTYPE of the conversions between integers and floats of one width. -/
def fiOk (t : Strand) : Prop := (t.ew = 16 ∨ t.ew = 32 ∨ t.ew = 64) ∧ vtFam t.vtype ≠ 2

/-- Issue of a conversion: factors of the widths and groups of source and destination (R107, R122). -/
def CvtIssue (s s1 : State) (vm : Bool) (vs2 vd : Reg) (fs fd : Nat) : Prop :=
  VIssue s s1 clsVA (maskOf vm) [vs2] [vd] ∧ s.cur.vill = false ∧ fs * s.cur.grp ≤ 8 ∧ fd * s.cur.grp ≤ 8
    ∧ vs2.val % (fs * s.cur.grp) = 0 ∧ vd.val % (fd * s.cur.grp) = 0
    ∧ (fs = fd ∨ vs2.val + fs * s.cur.grp ≤ vd.val ∨ vd.val + fd * s.cur.grp ≤ vs2.val)

/-- An integer clamped to a signed or unsigned width, with SAT (R93). -/
def bvClamp (w : Nat) (isSigned : Bool) (x : BitVec (2 * w)) : Nat × Nat :=
  if isSigned then
    if x.toInt < (BitVec.intMin w).toInt then ((BitVec.intMin w).toNat, flSAT)
    else if (BitVec.intMax w).toInt < x.toInt then ((BitVec.intMax w).toNat, flSAT)
    else ((x.setWidth w).toNat, 0)
  else if 2 ^ w ≤ x.toNat then ((BitVec.allOnes w).toNat, flSAT) else ((x.setWidth w).toNat, 0)

/-! ### Memory -/

/-- A strand's stores of bytes are in canonical form. -/
def Strand.MemWf (t : Strand) : Prop := t.acc.wf = true ∧ t.act.wf = true ∧ t.scratch.wf = true

/-- Every memory of the machine is in canonical form (log 1). -/
def MemWf (s : State) : Prop :=
  s.dev.wf = true ∧ s.host.wf = true ∧ s.peer.wf = true ∧ s.cur.MemWf ∧ ∀ t ∈ s.others, t.MemWf

/-- The same cores but for the lines in their caches. -/
def LinesOnly (cs cs' : List Core) : Prop :=
  cs'.map (fun c : Core => { c with lines := [] }) = cs.map fun c : Core => { c with lines := [] }

/-- `s'` with the caches, the directory and the traffic of the notification network as in `s` (R182, R183): what accesses
that write no memory may change. -/
def State.trafficOf (s s' : State) : State :=
  { s' with cores := s.cores, coh := { s'.coh with dir := s.coh.dir, snoops := s.coh.snoops, queued := s.coh.queued },
            die0 := { s'.die0 with notifs := s.die0.notifs }, die1 := { s'.die1 with notifs := s.die1.notifs } }

/-- Two machines alike but for lines in caches, the directory and the traffic of the network. -/
def CachesOnly (s s' : State) : Prop := s.trafficOf s' = s ∧ LinesOnly s.cores s'.cores

/-- An access of n bytes of an agent goes through, with nothing to mark in a table, and reads x, lowest byte first (R6,
R264, R268, R270, R292). -/
def Reads (s : State) (vec : Bool) (a : Int) (n x : Nat) : Prop :=
  ∃ ps s1, s.places a n .load = .ok (ps, s1) ∧ CachesOnly s s1 ∧ (∀ p ∈ ps, s.badPiece p = false)
    ∧ x = leNat (ps.flatMap (s.readPiece vec))

/-- The formats of a vector load or store (R139). -/
def MemFormat (t : Strand) (w : Fin 4) : Prop :=
  t.vill = false ∧ t.ew ≠ 4 ∧ memBits w t.ew ≤ t.ew ∧ (vtFam t.vtype = 2 → memBits w t.ew = t.ew)

/-- A loaded value of wb bits in an element: extended by sign for FAM 00, by zero else (R139). -/
def widened (t : Strand) (wb x : Nat) : Nat :=
  if vtFam t.vtype = 0 then ((BitVec.ofNat wb x).signExtend t.ew).toNat else x

/-- Issue of a vector load or store (R53, R111, R142, R156). -/
def MemIssue (s s1 : State) (vm : Bool) (w : Fin 4) (vd : Reg) (reads writes : List Reg) : Prop :=
  VIssue s s1 clsVA (7 :: maskOf vm) reads writes ∧ MemFormat s.cur w ∧ Grouped s.cur.grp [vd]

/-- What a vector load leaves (R142, R145): the active elements below `vl'`, VL, k7, VDIRTY, where VL was trimmed, caches
and coherence; nothing else but the strip of an output stream and what retiring does. -/
def LoadsElements (i : Instr) (s s1 : State) (vm : Bool) (vd : Reg) (vl' : Nat) (w : Nat → Nat) : Prop :=
  ∃ c v', ∃ k' : KReg, CachesOnly s1 c
    ∧ ElemsWritten s1.cur.v v' s1.cur.g vd.val s1.cur.ew (fun j => if s1.cur.active vm j ∧ j < vl' then some (w j) else none)
    ∧ (∀ j, j < 4096 → k'.getLsbD j =
        if s1.cur.vstart ≤ j ∧ j < s1.cur.vl then decide (vl' ≤ j) else (s1.cur.k[7]).getLsbD j)
    ∧ exec i s = .next (State.vRetire (State.streamOut
        { c with cur := { s1.cur with
            v := v', k := s1.cur.k.set 7 k', vl := vl', trimAt := if vl' < s1.cur.vl then some vl' else none
            vdirty := dirtyIf s1.cur (decide (s1.cur.vstart < s1.cur.vl)) vd s1.cur.grp } } [vd]))

/-- Completion of a vector instruction whose pc is behind it already. -/
def State.vSettle (s : State) : State :=
  s.onCur fun t => { t with vstart := 0, popped := false, vq := min 16 (t.vq + 1) }

/-- Elements stored one after another by the vector agent: what each element's address translates to (`marks`: with A and D
bits set on the way), the bytes stored there, `post`. `ws` are the pieces. -/
def StoreRun (marks : Bool) (addr : Nat → Int) (n : Nat) (val : Nat → Nat) (post : Nat → Strand → Strand) :
    List Nat → State → List (Phys × Nat) → State → Prop
  | [], s, ws, s' => ws = [] ∧ s' = s
  | i :: is, s, ws, s' => ∃ ps s1 rest, s.places (addr i) n .store = .ok (ps, s1) ∧ (marks = true ∨ CachesOnly s s1) ∧ ws = ps ++ rest
      ∧ StoreRun marks addr n val post is ((s1.storeList true ps (leBytes n (val i))).onCur (post i)) rest s'

/-- A strand but for what stores of any strand touch: write-combining buffers, elements not performed, reservations. -/
def Strand.kept (t : Strand) : Strand :=
  { t with wcS := [], wcV := [], pend := Vector.replicate 32 0, res := [], lrRes := none }

/-- Two machines alike but for memory, caches and coherence, and what `kept` leaves out. -/
def SameButMemory (s s' : State) : Prop :=
  { s.trafficOf s' with cur := s.cur, others := s.others, dev := s.dev, host := s.host, peer := s.peer,
                        lineKeys := s.lineKeys } = s
  ∧ s'.cur.kept = s.cur.kept ∧ s'.others.map Strand.kept = s.others.map Strand.kept ∧ LinesOnly s.cores s'.cores

/-- Every byte outside a set reads as before. -/
def SameOutside (s s' : State) (inside : Space → Nat → Prop) : Prop :=
  ∀ sp a, ¬inside sp a → (s'.space sp).get a = (s.space sp).get a

/-- A byte lies in one of the pieces. -/
def InPieces (ws : List (Phys × Nat)) (sp : Space) (a : Nat) : Prop :=
  ∃ p ∈ ws, p.1.space = sp ∧ p.1.addr ≤ a ∧ a < p.1.addr + p.2

/-- A byte lies in one of the write-combining buffers. -/
def InBuffers (bs : List WcBuf) (sp : Space) (a : Nat) : Prop := ∃ b ∈ bs, b.space = sp ∧ ∃ c ∈ b.cells, c.1 = a

/-- The device lines of the pieces and buffers hold data under the same key as the stores to them (R306), and no write-back
of a buffer is held back (R305). -/
def StoresOpen (s : State) (ws : List (Phys × Nat)) (bs : List WcBuf) : Prop :=
  (∀ p ∈ ws, p.1.space = .dev → ∀ a, p.1.addr ≤ a → a < p.1.addr + p.2 → s.lineKey (lineOf a) = p.1.key)
  ∧ (∀ b ∈ bs, b.space = .dev → ∀ c ∈ b.cells, s.lineKey (lineOf c.1) = b.key)
  ∧ ∀ b ∈ bs, s.backHeld b = false

/-- What a vector store leaves (R139, R142, R184, R202, R270): the elements stored in ascending order, k7 cleared over
[VSTART, VL), nothing else; and where no table is marked, every byte outside the stored ones and the agent's buffers
reads as before. -/
def StoresElements (i : Instr) (s s1 : State) (vm : Bool) (addr : Nat → Int) (n : Nat) (val : Nat → Nat) : Prop :=
  ∀ marks ws s2,
    StoreRun marks addr n val (fun j t => t.issueTo (j % (8 * s1.cur.g))) (s1.cur.actives vm) (s1.pcBehind 4) ws s2 →
    ∃ k' : KReg,
      (∀ j, j < 4096 → k'.getLsbD j = if s1.cur.vstart ≤ j ∧ j < s1.cur.vl then false else (s1.cur.k[7]).getLsbD j)
      ∧ exec i s = .next (State.vSettle { s2 with cur := { s2.cur with k := s1.cur.k.set 7 k', trimAt := none } })
      ∧ (marks = false → MemWf s1 → StoresOpen s1 ws s1.cur.wcV →
          SameButMemory (s1.pcBehind 4) s2
          ∧ SameOutside s1 s2 fun sp a => InPieces ws sp a ∨ InBuffers s1.cur.wcV sp a)

/-- No element's store meets a page under collection (R191). -/
def NoStall (s : State) (is : List Nat) (addr : Nat → Int) (n : Nat) : Prop :=
  ∀ i ∈ is, ∀ w, s.places (addr i) n .store ≠ .error (.wait w)

/-- The mask bits 8j to 8j + 7 below VL, as a byte (R147). -/
def maskByte (k : KReg) (vl j : Nat) : Nat :=
  ((List.range 8).map fun b => if 8 * j + b < vl ∧ k.getLsbD (8 * j + b) = true then 2 ^ b else 0).sum

/-! ### Atomics (R194 to R199) -/

/-- Stores of the scalar agent of a strand, of its vector agent, or of both, are held back by the sweep's window or by a
page move: write-backs that stand by, and requests that stalled (R303, R305). -/
def StandsByOf (s : State) (uid : Nat) (scalar vector : Bool) : Prop :=
  ∃ r ∈ s.coh.stalled, r.uid = uid ∧ r.engine = none
    ∧ match r.combined with | some vec => (if vec then vector else scalar) = true | none => r.uid ≠ 0

/-- The same of the current strand. -/
def StandsBy (s : State) (scalar vector : Bool) : Prop := StandsByOf s s.cur.uid scalar vector

/-- An instruction waits, on a machine as it leaves it (R215). -/
def Waits (i : Instr) (s s' : State) (w : Wait) : Prop := exec i s = .next { s' with cur := { s'.cur with status := .waiting w } }

/-- A row of the vector atomics: the FAMs it takes, whether only EW 32 fits, and what an element stores from the old value,
d and the swap value; none: nothing (R195). -/
structure AmoRow where
  fam : Nat → Bool
  only32 : Bool
  f : (w : Nat) → BitVec w → BitVec w → BitVec w → Option (BitVec w)

/-- The fp32 sum of `vamofadd`: round to nearest even, no flags, no FTZ. -/
def amoFadd (w : Nat) (old d : BitVec w) : BitVec w :=
  BitVec.ofNat w (fp32.add { rm := .rne, sat := false, ftz := false } old.toNat d.toNat).1

/-- The vector atomics, in the order of their operation codes. -/
def amoRows : List ((FAmo → Instr) × AmoRow) :=
  [(.vamoadd, ⟨(· < 2), false, fun _ o d _ => some (o + d)⟩),
   (.vamomin, ⟨(· < 2), false, fun _ o d _ => some (if d.slt o then d else o)⟩),
   (.vamomax, ⟨(· < 2), false, fun _ o d _ => some (if o.slt d then d else o)⟩),
   (.vamominn, ⟨(· < 2), false, fun _ o d _ => some (if d.ult o then d else o)⟩),
   (.vamomaxn, ⟨(· < 2), false, fun _ o d _ => some (if o.ult d then d else o)⟩),
   (.vamoand, ⟨(· < 2), false, fun _ o d _ => some (o &&& d)⟩),
   (.vamoor, ⟨(· < 2), false, fun _ o d _ => some (o ||| d)⟩),
   (.vamoxor, ⟨(· < 2), false, fun _ o d _ => some (o ^^^ d)⟩),
   (.vamoswp, ⟨fun _ => true, false, fun _ _ d _ => some d⟩),
   (.vamocas, ⟨fun _ => true, false, fun _ o d sw => if o = d then some sw else none⟩),
   (.vamofadd, ⟨(· == 2), true, fun w o d _ => some (amoFadd w o d)⟩)]

/-- VTYPE fits a row. -/
def AmoRow.fits (row : AmoRow) (t : Strand) : Prop :=
  (t.ew = 32 ∨ (t.ew = 64 ∧ row.only32 = false)) ∧ row.fam (vtFam t.vtype) = true

/-- What a row stores, as numbers. -/
def AmoRow.new (row : AmoRow) (w old d sw : Nat) : Option Nat :=
  (row.f w (BitVec.ofNat w old) (BitVec.ofNat w d) (BitVec.ofNat w sw)).map BitVec.toNat

/-- The addresses of some elements translate one after another, to pieces of which `ok` holds; `s'` has what the walks mark
in the tables and leave of the copies of their lines (R268, R270). -/
def Walks (acc : Acc) (ok : Phys × Nat → Prop) (addr : Nat → Int) (n : Nat) : List Nat → State → State → Prop
  | [], s, s' => s' = s
  | i :: is, s, s' => ∃ ps s1, s.places (addr i) n acc = .ok (ps, s1) ∧ (∀ p ∈ ps, ok p) ∧ Walks acc ok addr n is s1 s'

/-- The addresses are aligned, and translate one after another into no peer memory (R196). -/
def AtomicPlaces (acc : Acc) (addr : Nat → Int) (n : Nat) (is : List Nat) (s s' : State) : Prop :=
  (∀ i ∈ is, addr i % n = 0) ∧ Walks acc (fun p => p.1.space ≠ .peer) addr n is s s'

/-- The elements of a vector atomic one after another: each one indivisible access, its old value in vd. -/
def AmoRun (row : AmoRow) (vd sw : Reg) (addr : Nat → Int) : List Nat → State → State → Prop
  | [], s, s' => s' = s
  | i :: is, s, s' => ∃ old s1,
      s.atomicMem true (addr i) (s.cur.ew / 8) (fun o => row.new s.cur.ew o (s.cur.elem vd s.cur.ew i) (s.cur.elem sw s.cur.ew i))
        = .ok (old, s1)
      ∧ AmoRun row vd sw addr is
          (s1.onCur fun t => ({ t with v := setElem t.v t.g vd.val t.ew i old }).issueTo (i % (8 * t.g))) s'

/-- Issue of the vector atomics and links (R194): VILL 0, VSTART 0, GRP 1. -/
def AtomIssue (s s1 : State) (ks : List MReg) (reads writes : List Reg) : Prop :=
  VIssue s s1 clsV ks reads writes ∧ s.cur.vill = false ∧ s.cur.vstart = 0 ∧ s.cur.grp = 1

/-- The elements of `vsc` one after another: checked and stored in one step, with bit i of k6 set and the line's
reservations ended, where the element's reservation stands. -/
def ScRun (vs3 : Reg) (addr : Nat → Int) : List Nat → State → State → Prop
  | [], s, s' => s' = s
  | i :: is, s, s' => ∃ p ps walked, s.places (addr i) (s.cur.ew / 8) .load = .ok (p :: ps, walked) ∧
      if s.cur.res.contains (i, p.1.space, lineOf p.1.addr) then
        ∃ old s1, s.atomicMem true (addr i) (s.cur.ew / 8) (fun _ => some (s.cur.elem vs3 s.cur.ew i)) = .ok (old, s1)
          ∧ ScRun vs3 addr is (s1.onCur fun t => ({ t with
              k := t.k.set 6 (setBits t.k[6] [(i, true)])
              res := t.res.filter fun q => !(q.2.1 == p.1.space && q.2.2 == lineOf p.1.addr) }).issueTo (i % (8 * t.g))) s'
      else ScRun vs3 addr is s s'

/-- The comparisons of `vwait` over bit vectors: signed for FAM 00. -/
def waitRows : List ((FWait → Instr) × (Bool → BvRel)) :=
  [(.vwaitEq, fun _ => bvEq), (.vwaitNe, fun _ => bvNe), (.vwaitLt, fun isSigned => if isSigned then bvLt else bvLtn),
   (.vwaitGe, fun isSigned _ a b => if isSigned then b.sle a else b.ule a)]

/-! ### Vector configuration (R31, R34, R63, R115) -/

/-- The VTYPE images that R63 allows, bits [13:12] (LGREQ) aside. -/
def LegalImage (t : Word) : Prop :=
  t.extractLsb' 14 50 = 0 ∧ t.getLsbD 11 = false
    ∧ (t.extractLsb' 0 3).toNat ≤ 4 ∧ (t.extractLsb' 3 2).toNat ≤ 2
    ∧ (t.getLsbD 5 = true → (t.extractLsb' 3 2).toNat = 2 ∧ (t.extractLsb' 0 3).toNat ≤ 1)
    ∧ ((t.extractLsb' 0 3).toNat = 4 → (t.extractLsb' 3 2).toNat ≠ 2)
    ∧ (t.extractLsb' 8 3).toNat ≠ 1
    ∧ ((t.extractLsb' 8 3).toNat ≠ 0 → (t.extractLsb' 0 3).toNat = 3 ∧ (t.extractLsb' 3 2).toNat = 2)

/-- Elements that a group of registers holds under a grant: 1,024 bytes a lane group and register, at most 4,096 (R31). -/
def vlMaxOf (g : Nat) (t : Word) : Nat :=
  let ew := match (t.extractLsb' 0 3).toNat with | 0 => 8 | 1 => 16 | 2 => 32 | 3 => 64 | _ => 4
  min 4096 (g * 8192 * 2 ^ (t.extractLsb' 6 2).toNat / ew)

/-- `u` is `t` with VTYPE, VL, VSTART and rd as `vsetl` leaves them: VTYPE without LGREQ, VL the lesser of AVL and VLMAX,
no longer a trimmed one; for an image R63 does not allow, VILL alone and VL 0. -/
def VtypeSet (t u : Strand) (rd : Reg) (image : Word) (avl : Option Word) : Prop :=
  (LegalImage image → ∃ vl : Nat,
      vl = min ((avl.map BitVec.toNat).getD (vlMaxOf t.g image)) (vlMaxOf t.g image)
      ∧ u = { t with vtype := image &&& 0xFFFFFFFFFFFFCFFF, vl := vl, vstart := 0, trimAt := none
                     x := if rd = 0 then t.x else t.x.set rd (BitVec.ofNat 64 vl) })
  ∧ (¬LegalImage image →
      u = { t with vtype := 0x8000000000000000, vl := 0, vstart := 0, trimAt := none, x := if rd = 0 then t.x else t.x.set rd 0 })

/-- Lane groups held and free on a core add up: four places, and the strand's grant is what it holds (R31, R33). -/
def LanesHeld (s : State) (t : Strand) : Prop :=
  (s.core t.core).lat.length = 4 ∧ ((s.core t.core).lanesOf t.slot).length = t.g
    ∧ (∃ c ∈ s.cores, c.id = t.core) ∧ s.cores.Pairwise fun a b => a.id ≠ b.id

/-! ### Array (R220 to R228) -/

/-- Rows r to r + n − 1 are declared and lie in no ring of a stream (R224, R228). -/
def RowsFree (t : Strand) (r n : Nat) : Prop :=
  r + n ≤ t.accRows ∧ ∀ i, r ≤ i → i < r + n → ∀ (q : QReg) (h : Stream), t.q[q] = some h → h.kind ≠ 2 → h.space = 2 →
    ¬(h.rbase ≤ 512 * i ∧ 512 * i < h.rbase + h.nslot * h.slotBytes)

/-- A declared tile slot that no `cpw` is loading (R166, R227). -/
def SlotReady (t : Strand) (slot : QReg) (w : Tile) : Prop := t.tiles[slot.val]? = some w ∧ w.loading = false

/-- An array instruction of 8 bytes retires into the matrix queue of four. -/
def State.mRetire (s : State) : State := s.onCur fun t => { t with pc := t.pc + 8, mq := min 4 (t.mq + 1) }

/-- A row number: an x register plus the row field, modulo 2^64 (log 42). -/
def rowAt (t : Strand) (rs : Option Reg) (row : BitVec 10) : Nat :=
  ((match rs with | some r => t.getX r | none => 0) + row.setWidth 64).toNat

/-- The numbers of a descriptor's words, as the vector agent reads them at an address (R152, R165). -/
def ReadsDesc (s : State) (a : Word) (d : Desc) : Prop :=
  d.length = 8 ∧ ∀ i, i < 8 → Reads s true (a.toInt + 8 * (i : Nat)) 8 (d.getD i 0)

/-! ### Scalar instructions (R55 to R59) -/

/-- A scalar instruction issues: its class implements it, and a lane thread may execute it (R53, R133). -/
def ScalarIssue (s : State) (cs : List Cls) (inLane : Bool) : Prop := s.cur.cls ∈ cs ∧ (s.cur.fork = none ∨ inLane = true)

/-- Bytes of a form (R52). -/
def bytesOf : Form → Nat
  | .full => 4
  | .compressed _ => 2

/-- A scalar instruction writes an x register of the running thread (x0 discards) and retires; nothing else changes. -/
def WritesX (i : Instr) (s : State) (f : Form) (rd : Reg) (v : Word) : Prop :=
  exec i s = .next (State.pcBehind { s.delivered with cur := s.delivered.cur.putX rd v } (bytesOf f))

/-- Register-register operations of RV64I, M, Zba, Zbb, Zbs and Zicond. -/
def aluSpec (op : AluOp) (a b : Word) : Word :=
  let sh := b.toNat % 64
  match op with
  | .add => a + b
  | .sub => a - b
  | .sll => a <<< sh
  | .slt => if a.toInt < b.toInt then 1 else 0
  | .sltu => if a.toNat < b.toNat then 1 else 0
  | .xor => a ^^^ b
  | .srl => a >>> sh
  | .sra => a.sshiftRight sh
  | .or => a ||| b
  | .and => a &&& b
  | .mul => a * b
  | .mulh => (a.signExtend 128 * b.signExtend 128).extractLsb' 64 64
  | .mulhsu => (a.signExtend 128 * b.setWidth 128).extractLsb' 64 64
  | .mulhu => (a.setWidth 128 * b.setWidth 128).extractLsb' 64 64
  | .div => if b = 0 then BitVec.allOnes 64 else a.sdiv b
  | .divu => if b = 0 then BitVec.allOnes 64 else a.udiv b
  | .rem => if b = 0 then a else a.srem b
  | .remu => if b = 0 then a else a.umod b
  | .sh1add => 2 * a + b
  | .sh2add => 4 * a + b
  | .sh3add => 8 * a + b
  | .addUw => (a.setWidth 32).setWidth 64 + b
  | .sh1addUw => 2 * (a.setWidth 32).setWidth 64 + b
  | .sh2addUw => 4 * (a.setWidth 32).setWidth 64 + b
  | .sh3addUw => 8 * (a.setWidth 32).setWidth 64 + b
  | .andn => a &&& ~~~b
  | .orn => a ||| ~~~b
  | .xnor => ~~~(a ^^^ b)
  | .max => if a.toInt < b.toInt then b else a
  | .maxu => if a.toNat < b.toNat then b else a
  | .min => if b.toInt < a.toInt then b else a
  | .minu => if b.toNat < a.toNat then b else a
  | .rol => a.rotateLeft sh
  | .ror => a.rotateRight sh
  | .bclr => a &&& ~~~(BitVec.twoPow 64 sh)
  | .bext => if a.getLsbD sh then 1 else 0
  | .binv => a ^^^ BitVec.twoPow 64 sh
  | .bset => a ||| BitVec.twoPow 64 sh
  | .czeroEqz => if b = 0 then 0 else a
  | .czeroNez => if b ≠ 0 then 0 else a

/-- Register-register operations on the low 32 bits, before the sign extension. -/
def aluWSpec (op : AluWOp) (x y : BitVec 32) : BitVec 32 :=
  let sh := y.toNat % 32
  match op with
  | .addw => x + y
  | .subw => x - y
  | .sllw => x <<< sh
  | .srlw => x >>> sh
  | .sraw => x.sshiftRight sh
  | .mulw => x * y
  | .divw => if y = 0 then BitVec.allOnes 32 else x.sdiv y
  | .divuw => if y = 0 then BitVec.allOnes 32 else x.udiv y
  | .remw => if y = 0 then x else x.srem y
  | .remuw => if y = 0 then x else x.umod y
  | .rolw => x.rotateLeft sh
  | .rorw => x.rotateRight sh

/-- Operations with an immediate, as the operations on registers they are. -/
def aluISpec (op : AluIOp) (a i : Word) : Word :=
  match op with
  | .addi => a + i
  | .slti => if a.toInt < i.toInt then 1 else 0
  | .sltiu => if a.toNat < i.toNat then 1 else 0
  | .xori => a ^^^ i
  | .ori => a ||| i
  | .andi => a &&& i
  | .addiw => ((a + i).setWidth 32).signExtend 64

def shISpec (op : ShIOp) (a : Word) (sh : Nat) : Word :=
  match op with
  | .slli => a <<< sh
  | .srli => a >>> sh
  | .srai => a.sshiftRight sh
  | .rori => a.rotateRight sh
  | .bclri => a &&& ~~~(BitVec.twoPow 64 sh)
  | .bexti => if a.getLsbD sh then 1 else 0
  | .binvi => a ^^^ BitVec.twoPow 64 sh
  | .bseti => a ||| BitVec.twoPow 64 sh
  | .slliUw => (a.setWidth 32).setWidth 64 <<< sh

def shIWSpec (op : ShIWOp) (x : BitVec 32) (sh : Nat) : BitVec 32 :=
  match op with
  | .slliw => x <<< sh
  | .srliw => x >>> sh
  | .sraiw => x.sshiftRight sh
  | .roriw => x.rotateRight sh

/-- Operations on one register: what the result is. -/
def UnSpec (op : UnOp) (a r : Word) : Prop :=
  match op with
  | .clz => r = a.clz
  | .ctz => r = a.ctz
  | .cpop => r = a.cpop
  | .clzw => r = (a.setWidth 32).clz.setWidth 64
  | .ctzw => r = (a.setWidth 32).ctz.setWidth 64
  | .cpopw => r = (a.setWidth 32).cpop.setWidth 64
  | .sextB => r = (a.setWidth 8).signExtend 64
  | .sextH => r = (a.setWidth 16).signExtend 64
  | .zextH => r = (a.setWidth 16).setWidth 64
  | .orcB => ∀ i, i < 8 → r.extractLsb' (8 * i) 8 = if a.extractLsb' (8 * i) 8 = 0 then 0 else 0xFF
  | .rev8 => ∀ i, i < 8 → r.extractLsb' (8 * i) 8 = a.extractLsb' (56 - 8 * i) 8

def takenSpec (op : BrOp) (a b : Word) : Prop :=
  match op with
  | .beq => a = b
  | .bne => a ≠ b
  | .blt => a.toInt < b.toInt
  | .bge => b.toInt ≤ a.toInt
  | .bltu => a.toNat < b.toNat
  | .bgeu => b.toNat ≤ a.toNat

/-- Bytes of a load, and the register value for the number read. -/
def loadSpec (op : LdOp) (x : Nat) : Nat × Word :=
  match op with
  | .lb => (1, (BitVec.ofNat 8 x).signExtend 64)
  | .lbu => (1, BitVec.ofNat 64 x)
  | .lh => (2, (BitVec.ofNat 16 x).signExtend 64)
  | .lhu => (2, BitVec.ofNat 64 x)
  | .lw => (4, (BitVec.ofNat 32 x).signExtend 64)
  | .lwu => (4, BitVec.ofNat 64 x)
  | .ld => (8, BitVec.ofNat 64 x)

def storeBytes : StOp → Nat
  | .sb => 1
  | .sh => 2
  | .sw => 4
  | .sd => 8

/-- A load of the running thread reads x (little-endian), the machine then `s0` but for caches and coherence:
translated, with A set on the way (R264, R270); or Bare, from device memory or a register block (R307, R310). -/
def ScalarReads (s s0 : State) (a : Word) (n x : Nat) : Prop :=
  (s.bare = false ∧ ∃ ps, s.places a.toInt n .load = .ok (ps, s0) ∧ (∀ p ∈ ps, s0.badPiece p = false)
    ∧ x = leNat (ps.flatMap (s0.readPiece s.laneMode)))
  ∨ (s.bare = true ∧ a.toNat < blockBase ∧ s0 = s ∧ ∃ ps, s.barePlaces a.toNat n = some ps
    ∧ s.bareHeld ps = false ∧ (∀ p ∈ ps, s.badPiece p = false) ∧ x = leNat (ps.flatMap fun p => s.readPhys p.1 p.2))
  ∨ (s.bare = true ∧ blockBase ≤ a.toNat ∧ x = (s.blockRead s.via (a.toNat - blockBase) n).1.toNat
    ∧ s0 = (s.blockRead s.via (a.toNat - blockBase) n).2)

/-- A store of n bytes of the running thread goes to the pieces `ws` of the machine `s0`: translated, with A and D set on the
way, or Bare to device memory that no freeze, collection, lock or sweep holds, with the page key table's entries asked of the
copies (R182, R210, R270, R290, R303). -/
def ScalarTarget (s s0 : State) (a : Word) (n : Nat) (ws : List (Phys × Nat)) : Prop :=
  (s.bare = false ∧ s.places a.toInt n .store = .ok (ws, s0))
  ∨ (s.bare = true ∧ a.toNat < blockBase ∧ s0 = s.tablesTouch ws ∧ s.barePlaces a.toNat n = some ws ∧ s.bareGate a n = .ok ())

/-- The memory frame of stores to pieces by an agent: nothing but memory, caches, its buffers and reservations changes, and
every byte outside the pieces and the agent's buffers reads as before. -/
def StoreFrame (s0 s1 : State) (vec : Bool) (ws : List (Phys × Nat)) : Prop :=
  MemWf s0 → StoresOpen s0 ws (s0.cur.wc vec) →
    SameButMemory s0 s1 ∧ SameOutside s0 s1 fun sp a => InPieces ws sp a ∨ InBuffers (s0.cur.wc vec) sp a

/-- A scalar FP instruction writes an f register (32-bit values in a NaN box) and ORs flags into `fflags` (R57). -/
def WritesF (op : Scalar) (s : State) (f : Form) (dbl : Bool) (rd : Reg) (v fl : Nat) : Prop :=
  exec (.rv64ScalarInstruction f op) s = .next (State.pcBehind { s.delivered with cur := { s.delivered.cur with
    f := s.delivered.cur.f.set rd (if dbl then BitVec.ofNat 64 v else BitVec.allOnes 32 ++ BitVec.ofNat 32 v)
    fflags := s.cur.fflags ||| BitVec.ofNat 5 fl } } (bytesOf f))

/-- An FP operand: an f register, or, for 32 bits, its low half when the box is whole and the canonical NaN else (R57). -/
def Strand.fpArg (t : Strand) (dbl : Bool) (r : Reg) : Nat :=
  if dbl then (t.f[r]).toNat
  else if (t.f[r]).extractLsb' 32 32 = BitVec.allOnes 32 then ((t.f[r]).extractLsb' 0 32).toNat else 0x7FC00000

/-- Rounding of an FP instruction: its rm field, or `frm` for the dynamic mode 7. -/
def FpRounds (t : Strand) (rm : Fin 8) (r : Round) : Prop :=
  ∃ m, rmOf (if rm = 7 then t.frm.toNat else rm.val) = some m ∧ r = { rm := m, sat := false, ftz := false }

/-! ### Groups (R201) -/

/-- A user strand of the group of the current one, not exited. -/
def InGroup (s : State) (t : Strand) : Prop :=
  t.lid = s.cur.lid ∧ t.glin = s.cur.glin ∧ t.system = false ∧ t.status ≠ .gone

/-- A strand behind a barrier it has passed. -/
def Strand.pastBarrier (t : Strand) : Strand :=
  { t with barK := t.barK + 1, barArrived := false, pc := t.pc + 4
           status := if t.status = .waiting .barrier then .running else t.status }

/-! ### Events -/

/-- An event makes strand `uid` into `t'`; no other strand changes, and nothing of the machine but strands. -/
def StrandBecomes (i : Instr) (s : State) (uid : Nat) (t' : Strand) : Prop :=
  ∃ s', exec i s = .next s' ∧ s'.strand uid = some t' ∧ (∀ v, v ≠ uid → s'.strand v = s.strand v)
    ∧ s' = { s with cur := s'.cur, others := s'.others }

/-- An event at which a unit meets a launch fault while its strand does not execute: its generation is counted up, its record
is posted, and the launch is killed with the class (R271, R272, R281). -/
def UnitFaults (i : Instr) (s : State) (core unit lid ctx sid cls addr acc : Nat) : Prop :=
  let die := s.die (coreDie core)
  ∃ s' : State, exec i s = .next (s'.killFault lid cls) ∧ s'.cur = s.cur ∧ s'.others = s.others ∧ s'.wire = s.wire
    ∧ ((∃ c ∈ s.cores, c.id = core) → unit < (s.core core).gen.length → s'.gen core unit = s.gen core unit + 1)
    ∧ (s'.die (coreDie core)).batches = die.batches ++
        [batchOf die.batch.toNat lid ctx sid (tokenWord (s'.gen core unit) core unit) [(addr, 2, acc)]]

/-- An event makes the queue slot or the record of a user queue into something else; no other queue or slot changes, and
nothing else of the machine. -/
def QueueBecomes (i : Instr) (s : State) (slot uq : Nat) (p : QSlot) (q : UQueue) : Prop :=
  ∃ s', exec i s = .next s' ∧ s'.qslot slot = p ∧ s'.uqueue uq = some q ∧ (∀ n, n ≠ slot → s'.qslot n = s.qslot n)
    ∧ (∀ n, n ≠ uq → s'.uqueue n = s.uqueue n)
    ∧ s' = { s with lu := { s.lu with slots := s'.lu.slots, uqs := s'.lu.uqs } }

/-- An event of the outside waits for what it reads: it stands, once, among those that are made again (R303; log 60). -/
def EventWaits (i : Instr) (s : State) (e : Event) : Prop :=
  (e ∈ s.lu.waiting → exec i s = .next s)
  ∧ (e ∉ s.lu.waiting → exec i s = .next { s with lu := { s.lu with waiting := s.lu.waiting ++ [e] } })

/-- An event that has waited is made as it would have been, and waits no more. -/
def EventAgain (i : Instr) (s : State) (e : Event) : Prop :=
  ∀ w1 w2, s.lu.waiting = w1 ++ e :: w2 → e ∉ w1 ++ w2 → exec i s = exec i { s with lu := { s.lu with waiting := w1 ++ w2 } }

/-- The record of a queue can be written now, keeps its line's key, and the numbers fit its words (R290, R303, R306, R315). -/
def RecordOpen (s : State) (q : UQueue) : Prop :=
  MemWf s ∧ (∀ i, i < 40 → s.held (q.recAddr + 8 + i) false = false ∧ s.writeGate (pageOf (q.recAddr + 8 + i)) = .free)
    ∧ StoresOpen s [(devPhys (q.recAddr + 8), 40)] [] ∧ q.ssn < 2 ^ 64 ∧ q.csn < 2 ^ 64 ∧ q.notified < 2 ^ 64 ∧ q.fsn < 2 ^ 64

/-- The numbers of a queue's record from SSN on, and PEND and HOLD in its QCTL, whose other bits stay (R315). -/
def RecordHolds (s s' : State) (q : UQueue) : Prop :=
  s'.devNat (q.recAddr + 0x10) 8 = q.ssn ∧ s'.devNat (q.recAddr + 0x18) 8 = q.csn
    ∧ s'.devNat (q.recAddr + 0x20) 8 = q.notified ∧ s'.devNat (q.recAddr + 0x28) 8 = q.fsn
    ∧ (∀ b, b < 64 → (s'.devNat (q.recAddr + 8) 8).testBit b =
        if b = 8 then q.pend else if b = 9 then q.hold else (s.unitNat (q.recAddr + 8) 8).testBit b)

/-- An event makes the queue slot and the numbers of a user queue into something else, and its record in memory with them
(R263, R315): no other queue or slot changes, no byte beside the record, and of the rest what a store to it touches. -/
def QueueWrites (i : Instr) (s : State) (slot uq : Nat) (p : QSlot) (q : UQueue) : Prop :=
  ∃ s', exec i s = .next s' ∧ s'.qslot slot = p ∧ s'.uqueue uq = some q ∧ (∀ n, n ≠ slot → s'.qslot n = s.qslot n)
    ∧ (∀ n, n ≠ uq → s'.uqueue n = s.uqueue n)
    ∧ s'.lu = { s.lu with slots := s'.lu.slots, uqs := s'.lu.uqs }
    ∧ (RecordOpen s q → SameOutside s s' (InPieces [(devPhys (q.recAddr + 8), 40)]) ∧ RecordHolds s s' q
        ∧ SameButMemory { s with lu := s'.lu } s')

/-- Grants and the lane groups of stages are at most the four of a core (R32). -/
def GrantsOk (s : State) : Prop :=
  (∀ t ∈ s.strands, t.g ≤ 4 ∧ t.lstage ≤ 4) ∧ ∀ l ∈ s.lu.launches, ∀ g ∈ l.lrec.stages, g.l ≤ 4

end Sys2Proof.Machine
end

