-- ==== Sys2Proof/WellFormed.lean ====
section
/-! DEFINITION. Which terms of `Instr` an encoding of the spec can name (R52 to R58, R71 to R75). Limits that
R53 checks at step 4 (an odd `recv` destination, a register group) are not here: such a word decodes, and its
execution is an illegal instruction. -/

namespace Sys2Proof

/-- A rounding-mode field that the standard defines: 0 to 4, or 7 for the dynamic mode. -/
def rmDefined (rm : Fin 8) : Bool := rm.val != 5 && rm.val != 6

/-- A `vdirtyWrite` names VDIRTY and writes it. -/
def FCsr.wfDirty (a : FCsr) : Bool := a.csr.toNat == 0x803 && a.writes

/-- A Quelan CSR access that is no write of VDIRTY. -/
def FCsr.wfQuelan (a : FCsr) : Bool := isQuelanCsr a.csr.toNat && !a.wfDirty

/-- A scalar instruction that a 32-bit word can name: even branch offsets, defined rounding modes, and CSR numbers
outside the Quelan set, which have rows of their own. -/
def Scalar.wf : Scalar → Bool
  | .jal _ off => off.toNat % 2 == 0
  | .branch _ _ _ off => off.toNat % 2 == 0
  | .fbin _ _ rm _ _ _ => rmDefined rm
  | .fsqrt _ rm _ _ => rmDefined rm
  | .fma _ _ rm _ _ _ _ => rmDefined rm
  | .fcvtToInt _ _ rm _ _ => rmDefined rm
  | .fcvtFromInt _ _ rm _ _ => rmDefined rm
  | .fcvtSD rm _ _ => rmDefined rm
  | .fcvtDS rm _ _ => rmDefined rm
  | .csr a => !(isQuelanCsr a.csr.toNat)
  | _ => true

/-- A compressed form carries a parcel of the C extension that stands for the instruction. -/
def Form.wf (f : Form) (op : Scalar) : Bool :=
  match f with
  | .full => op.wf
  | .compressed p => p.toNat != 0x9002 && expandC p.toNat == some op

/-- An instruction that some word encodes; an event is well formed whatever its particulars. -/
def Instr.wf : Instr → Bool
  | .fence fm pred succ _ _ => !(fm == 8 && pred == 3 && succ == 3)
  | .quelanCsrAccess a => a.wfQuelan
  | .vdirtyWrite a => a.wfDirty
  | .rv64ScalarInstruction f op => f.wf op
  | _ => true

end Sys2Proof
end

