-- ==== Sys2Proof/Certificates/Slice0/Obligations.lean ====
section
/-! DEFINITION. The statements for the provers. -/

open Sys2Proof
open Sys2Proof.Machine

/-! ### Vector computation -/

/-- R94, R105, R107, R108, R117: an integer instruction of two vectors writes f(vs2.e[i], vs1.e[i], vd.e[i]) to each active
element and nothing else of any vector register, ORs SAT into VFLAGS when an active element is clamped, marks the group in
VDIRTY when VSTART < VL, and retires. -/
def Obligations.IntVectorVector : Prop :=
  ∀ p ∈ vvRows, ∀ (a : FVV) (s s1 : State),
    VIssue s s1 p.2.cs (maskOf a.vm) ([a.vs2, a.vs1] ++ if p.2.useD then [a.vd] else []) [a.vd] →
    s.cur.fmtInt = true → Grouped s.cur.grp [a.vd, a.vs2, a.vs1] →
    MapsElements (p.1 a) s s1 a.vm a.vd s1.cur.ew s1.cur.grp fun i =>
      p.2.at s1.cur a.vs2 a.vd (s1.cur.bvElem a.vs1 i) i

/-- R94, R105, R107, R108, R117: the forms with an x register (its low EW bits) or a 5-bit immediate (sign-extended; a shift
count as it stands) as the second operand of every element. -/
def Obligations.IntVectorScalar : Prop :=
  (∀ p ∈ vxRows, ∀ (a : FVX) (s s1 : State),
    VIssue s s1 p.2.cs (maskOf a.vm) ([a.vs2] ++ if p.2.useD then [a.vd] else []) [a.vd] →
    s.cur.fmtInt = true → Grouped s.cur.grp [a.vd, a.vs2] →
    MapsElements (p.1 a) s s1 a.vm a.vd s1.cur.ew s1.cur.grp fun i =>
      p.2.at s1.cur a.vs2 a.vd ((s1.cur.getX a.rs1).setWidth s1.cur.ew) i)
  ∧ ∀ p ∈ viRows, ∀ (a : FVI) (s s1 : State),
    VIssue s s1 p.2.2.cs (maskOf a.vm) [a.vs2] [a.vd] →
    s.cur.fmtInt = true → Grouped s.cur.grp [a.vd, a.vs2] →
    MapsElements (p.1 a) s s1 a.vm a.vd s1.cur.ew s1.cur.grp fun i =>
      p.2.2.at s1.cur a.vs2 a.vd (immOp p.2.1 a.imm s1.cur.ew) i

/-- R125, R126, R127, R131: the splats write Op1 to each active element; `vmerge` writes every element of [VSTART, VL), from
Op1 where k0 is set and from vs2 elsewhere; `vid` writes i modulo 2^EW. -/
def Obligations.SplatMergeIndex : Prop :=
  (∀ (vm : Bool) (vd rs1 : Reg) (s s1 : State), VIssue s s1 clsVA (maskOf vm) [] [vd] → s.cur.fmtAny = true →
    Grouped s.cur.grp [vd] →
    MapsElements (.vsplatVx vm vd rs1) s s1 vm vd s1.cur.ew s1.cur.grp fun _ =>
      (((s1.cur.getX rs1).setWidth s1.cur.ew).toNat, 0))
  ∧ (∀ (vm : Bool) (vd : Reg) (imm : BitVec 5) (s s1 : State), VIssue s s1 clsVA (maskOf vm) [] [vd] →
    s.cur.fmtAny = true → Grouped s.cur.grp [vd] →
    MapsElements (.vsplatVi vm vd imm) s s1 vm vd s1.cur.ew s1.cur.grp fun _ => ((imm.signExtend s1.cur.ew).toNat, 0))
  ∧ (∀ (vm : Bool) (vd rs1 : Reg) (s s1 : State), VIssue s s1 clsV (maskOf vm) [] [vd] → s.cur.fmtFloat = true →
    Grouped s.cur.grp [vd] →
    MapsElements (.vfsplat vm vd rs1) s s1 vm vd s1.cur.ew s1.cur.grp fun _ =>
      (fOperand s1.cur.f[rs1] s1.cur.fmt, 0))
  ∧ (∀ (c2 c1 : Bool) (vd vs2 vs1 : Reg) (s s1 : State), VIssue s s1 clsVA [0] [vs2, vs1] [vd] → s.cur.fmtAny = true →
    Grouped s.cur.grp [vd, vs2, vs1] →
    MapsElements (.vmergeVv c2 c1 vd vs2 vs1) s s1 false vd s1.cur.ew s1.cur.grp fun i =>
      (if s1.cur.kbit 0 i then s1.cur.elem vs1 s1.cur.ew i else s1.cur.elem vs2 s1.cur.ew i, 0))
  ∧ (∀ (c2 : Bool) (vd vs2 rs1 : Reg) (s s1 : State), VIssue s s1 clsVA [0] [vs2] [vd] → s.cur.fmtAny = true →
    Grouped s.cur.grp [vd, vs2] →
    MapsElements (.vmergeVx c2 vd vs2 rs1) s s1 false vd s1.cur.ew s1.cur.grp fun i =>
      (if s1.cur.kbit 0 i then ((s1.cur.getX rs1).setWidth s1.cur.ew).toNat else s1.cur.elem vs2 s1.cur.ew i, 0))
  ∧ (∀ (c2 : Bool) (vd vs2 : Reg) (imm : BitVec 5) (s s1 : State), VIssue s s1 clsVA [0] [vs2] [vd] →
    s.cur.fmtAny = true → Grouped s.cur.grp [vd, vs2] →
    MapsElements (.vmergeVi c2 vd vs2 imm) s s1 false vd s1.cur.ew s1.cur.grp fun i =>
      (if s1.cur.kbit 0 i then (imm.signExtend s1.cur.ew).toNat else s1.cur.elem vs2 s1.cur.ew i, 0))
  ∧ ∀ (vm : Bool) (vd : Reg) (s s1 : State), VIssue s s1 clsVA (maskOf vm) [] [vd] → s.cur.fmtInt = true →
    Grouped s.cur.grp [vd] →
    MapsElements (.vid vm vd) s s1 vm vd s1.cur.ew s1.cur.grp fun i => (i % 2 ^ s1.cur.ew, 0)

/-- R84, R86 to R90, R95, R108, R118, R119: the float instructions write the value of their function in VTYPE's format, under
VRND's mode and FTZ, to each active element, and OR its flags into VFLAGS. A pattern encodes the value of R84. Rounding into a
format, of any exact magnitude, is that of R86 and R87, with the flags of R89; sums, products, quotients and the fused forms of
finite operands are exact before it, a root is the rounded one, a zero result has no flag; an operand's subnormal is a zero of
its sign under FTZ (R88); invalid operations give the canonical NaN and NV, and a finite value other than zero divided by zero
an infinity and DZ. Minimum and maximum are those of R90, the estimates those of R95, the classes those of R119. -/
def Obligations.FloatElementwise : Prop :=
  (∀ p ∈ fvvRows, ∀ (a : FVV) (s s1 : State),
    VIssue s s1 clsV (maskOf a.vm) ([a.vs2, a.vs1] ++ if p.2.useD then [a.vd] else []) [a.vd] →
    p.2.allowed s.cur → Grouped s.cur.grp [a.vd, a.vs2, a.vs1] →
    MapsElements (p.1 a) s s1 a.vm a.vd s1.cur.ew s1.cur.grp fun i =>
      p.2.f s1.cur.fmt s1.cur.round (s1.cur.elem a.vs2 s1.cur.ew i) (s1.cur.elem a.vs1 s1.cur.ew i)
        (s1.cur.elem a.vd s1.cur.ew i))
  ∧ (∀ p ∈ fvfRows, ∀ (a : FVX) (s s1 : State),
    VIssue s s1 clsV (maskOf a.vm) ([a.vs2] ++ if p.2.useD then [a.vd] else []) [a.vd] →
    p.2.allowed s.cur → Grouped s.cur.grp [a.vd, a.vs2] →
    MapsElements (p.1 a) s s1 a.vm a.vd s1.cur.ew s1.cur.grp fun i =>
      p.2.f s1.cur.fmt s1.cur.round (s1.cur.elem a.vs2 s1.cur.ew i) (fOperand s1.cur.f[a.rs1] s1.cur.fmt)
        (s1.cur.elem a.vd s1.cur.ew i))
  ∧ (∀ p ∈ fuRows, ∀ (a : FVU) (s s1 : State),
    VIssue s s1 clsV (maskOf a.vm) [a.vs2] [a.vd] → p.2.allowed s.cur → Grouped s.cur.grp [a.vd, a.vs2] →
    MapsElements (p.1 a) s s1 a.vm a.vd s1.cur.ew s1.cur.grp fun i =>
      p.2.f s1.cur.fmt s1.cur.round (s1.cur.elem a.vs2 s1.cur.ew i) 0 0)
  ∧ ∀ f ∈ [fp64, fp32, fp16, bf16, e5m2, e4m3], ∀ r : Round, (f.hasInf = true ∨ r.sat = true) →
    (∀ (neg : Bool) (m : Nat) (e : Int), m ≠ 0 → RoundsTo f r neg (m * 2 ^ e) (f.round r neg m e))
    ∧ ∀ a b : Nat, a < 2 ^ f.width → b < 2 ^ f.width →
      let in' : Nat → FVal := f.reads r.ftz
      let exact (q : ℚ) (res : Nat × Nat) : Prop :=
        (q ≠ 0 → RoundsTo f r (decide (q < 0)) |q| res) ∧ (q = 0 → res.1 % f.signBit = 0 ∧ res.2 = 0)
      let invalid (res : Nat × Nat) : Prop := res = (f.nanBits, flNV)
      (∀ n m e n' m' e', in' a = .fin n m e → in' b = .fin n' m' e' →
        exact ((in' a).toQ + (in' b).toQ) (f.add r a b) ∧ exact ((in' a).toQ - (in' b).toQ) (f.sub r a b)
        ∧ exact ((in' a).toQ * (in' b).toQ) (f.mul r a b)
        ∧ (m' ≠ 0 → exact ((in' a).toQ / (in' b).toQ) (f.div r a b))
        ∧ (n = false → m ≠ 0 → RootOf f r.rm (in' a).toQ (f.sqrt r a))
        ∧ (∀ c, c < 2 ^ f.width → (∃ k l e, in' c = .fin k l e) → ∀ negP negC : Bool,
            exact ((if negP then -1 else 1) * ((in' a).toQ * (in' b).toQ) + (if negC then -1 else 1) * (in' c).toQ)
              (f.fma r negP negC a b c))
        ∧ (m' = 0 → m = 0 → invalid (f.div r a b))
        ∧ (f.hasInf = true → r.sat = false → m' = 0 → m ≠ 0 → f.div r a b = (f.signed (n != n') f.infBits, flDZ))
        ∧ (n = true → m ≠ 0 → invalid (f.sqrt r a)))
      ∧ ((∃ n, in' a = .inf n ∧ in' b = .inf (!n)) → invalid (f.add r a b))
      ∧ ((∃ n k, in' a = .inf n ∧ in' b = .inf k) → invalid (f.div r a b))
      ∧ (∀ n k e, in' a = .inf n → in' b = .fin k 0 e → invalid (f.mul r a b)
          ∧ ∀ negP negC c, invalid (f.fma r negP negC a b c))
      ∧ (f.val a = .nan true → invalid (f.add r a b) ∧ invalid (f.mul r a b) ∧ invalid (f.div r a b) ∧ invalid (f.sqrt r a))
      ∧ Encodes f a
      ∧ (let nan (x : Nat) : Prop := (f.val x).isNan = true
        let nv : Nat := if f.val a = .nan true ∨ f.val b = .nan true then flNV else 0
        let picks (isMax : Bool) (x : Nat) : Prop := f.minmax isMax a b = (x, nv)
        (nan a → nan b → ∀ isMax, picks isMax f.nanBits) ∧ (nan a → ¬nan b → ∀ isMax, picks isMax b)
        ∧ (¬nan a → nan b → ∀ isMax, picks isMax a)
        ∧ (¬nan a → ¬nan b → picks false (if f.order a ≤ f.order b then a else b)
            ∧ picks true (if f.order a ≤ f.order b then b else a)))
      ∧ (f.hasInf = true → 8 < f.width →
        let neg := f.negative a
        let m := a % f.signBit
        let q : ℚ := f.magnitude m
        let nan : Prop := f.infPattern < m
        (nan → f.recip a = (f.nanBits, if f.val a = .nan true then flNV else 0) ∧ f.rsqrt a = f.recip a)
        ∧ (m = f.infPattern → f.recip a = (f.signed neg 0, 0)
            ∧ f.rsqrt a = if neg = true then (f.nanBits, flNV) else (0, 0))
        ∧ (m = 0 → f.recip a = (f.signed neg f.infBits, flDZ) ∧ f.rsqrt a = (f.signed neg f.infBits, flDZ))
        ∧ (0 < m → m < f.infPattern → EstimateOf f neg (fun y => y * q ≤ 1) (fun y => y * q = 1) (f.recip a)
            ∧ (neg = true → f.rsqrt a = (f.nanBits, flNV))
            ∧ (neg = false → EstimateOf f false (fun y => y ^ 2 * q ≤ 1) (fun y => y ^ 2 * q = 1) (f.rsqrt a)))
        ∧ f.classify a = 2 ^ (if m = 0 then if neg then 3 else 4 else if m < 2 ^ f.fb then if neg then 2 else 5
            else if m < f.infPattern then if neg then 1 else 6 else if m = f.infPattern then if neg then 0 else 7
            else if m / 2 ^ (f.fb - 1) % 2 = 0 then 8 else 9))

/-- R91, R92, R93, R107, R121, R122: the conversions, element by element between groups of the widths of both sides. A float
becomes an integer rounded by the mode, clamped with NV and SAT, NX when inexact; it becomes a wider float exactly, a narrower
one rounded, an 8-bit one saturating at every finite overflow; the scaled forms round the exact quotient and product once. FTZ
acts on what they read, on the results of `vfncvt` and `vdqcvt`, and not on those of `vqcvt` or on the 8-bit source of
`vdqcvt` (log 62). -/
def Obligations.Conversions : Prop :=
  (∀ (a : FVU) (s s1 : State), CvtIssue s s1 a.vm a.vs2 a.vd 1 1 → fiOk s.cur → s.cur.rmOk = true →
    MapsElements (.vfcvtfi a) s s1 a.vm a.vd s1.cur.ew s1.cur.grp fun i =>
      let x := s1.cur.bvElem a.vs2 i
      (fmtOf s1.cur.ew false).roundVal s1.cur.round
        (FVal.ofInt (if vtFam s1.cur.vtype = 0 then x.toInt else (x.toNat : Int))))
  ∧ (∀ (a : FVU) (s s1 : State), CvtIssue s s1 a.vm a.vs2 a.vd 1 1 → fiOk s.cur → s.cur.rmOk = true →
    MapsElements (.vfcvtif a) s s1 a.vm a.vd s1.cur.ew s1.cur.grp fun i =>
      cvtToInt (fmtOf s1.cur.ew false) s1.cur.round (decide (vtFam s1.cur.vtype = 0)) s1.cur.ew
        (s1.cur.elem a.vs2 s1.cur.ew i))
  ∧ (∀ (a : FVU) (s s1 : State), CvtIssue s s1 a.vm a.vs2 a.vd 1 2 → fwOk s.cur →
    MapsElements (.vfwcvt a) s s1 a.vm a.vd (2 * s1.cur.ew) (2 * s1.cur.grp) fun i =>
      cvtWiden s1.cur.fmt (wideFmt s1.cur.ew) (s1.cur.elem a.vs2 s1.cur.ew i))
  ∧ (∀ (a : FVUS) (s s1 : State), CvtIssue s s1 a.vm a.vs2 a.vd 2 1 → fwOk s.cur → s.cur.rmOk = true →
    MapsElements (.vfncvt a) s s1 a.vm a.vd s1.cur.ew s1.cur.grp fun i =>
      cvtNarrow (wideFmt s1.cur.ew) s1.cur.fmt s1.cur.round a.sat (s1.cur.elem a.vs2 (2 * s1.cur.ew) i))
  ∧ (∀ (a : FVXS) (s s1 : State), CvtIssue s s1 a.vm a.vs2 a.vd 4 1 → s.cur.ew = 8 → vtFam s.cur.vtype = 2 →
    s.cur.rmOk = true →
    MapsElements (.vqcvt a) s s1 a.vm a.vd s1.cur.ew s1.cur.grp fun i =>
      cvtQuant s1.cur.fmt s1.cur.round a.sat ((s1.cur.getX a.rs1).setWidth 32).toNat
        (s1.cur.elem a.vs2 (4 * s1.cur.ew) i))
  ∧ (∀ (a : FVX) (s s1 : State), CvtIssue s s1 a.vm a.vs2 a.vd 1 4 → s.cur.ew = 8 → vtFam s.cur.vtype = 2 →
    s.cur.rmOk = true →
    MapsElements (.vdqcvt a) s s1 a.vm a.vd (4 * s1.cur.ew) (4 * s1.cur.grp) fun i =>
      cvtDequant s1.cur.fmt s1.cur.round ((s1.cur.getX a.rs1).setWidth 32).toNat (s1.cur.elem a.vs2 s1.cur.ew i))
  ∧ (∀ (a : FVU) (s s1 : State), CvtIssue s s1 a.vm a.vs2 a.vd 2 1 → iwOk s.cur →
    MapsElements (.vncvti a) s s1 a.vm a.vd s1.cur.ew s1.cur.grp fun i =>
      bvClamp s1.cur.ew (decide (vtFam s1.cur.vtype = 0)) (BitVec.ofNat _ (s1.cur.elem a.vs2 (2 * s1.cur.ew) i)))
  ∧ (∀ (a : FVU) (s s1 : State), CvtIssue s s1 a.vm a.vs2 a.vd 1 2 → iwOk s.cur →
    MapsElements (.vwcvti a) s s1 a.vm a.vd (2 * s1.cur.ew) (2 * s1.cur.grp) fun i =>
      let x := s1.cur.bvElem a.vs2 i
      (if vtFam s1.cur.vtype = 0 then (x.signExtend (2 * s1.cur.ew)).toNat else x.toNat, 0))
  ∧ ∀ r : Round, r.sat = false →
    (∀ f ∈ [fp16, fp32, fp64], ∀ (isSigned : Bool) (x : Nat), x < 2 ^ f.width →
      let lo : BitVec f.width := if isSigned then BitVec.intMin f.width else 0
      let hi : BitVec f.width := if isSigned then BitVec.intMax f.width else BitVec.allOnes f.width
      let num (b : BitVec f.width) : Int := if isSigned then b.toInt else b.toNat
      let res := cvtToInt f r isSigned f.width x
      ((f.val x).isNan = true → res = (hi.toNat, flNV ||| flSAT))
      ∧ (∀ n, f.val x = .inf n → res = ((if n then lo else hi).toNat, flNV ||| flSAT))
      ∧ ∀ n m e k, f.reads r.ftz x = .fin n m e → RoundsInt r.rm n |(f.reads r.ftz x).toQ| k →
        let i : Int := if n then -(k : Int) else k
        (i < num lo → res = (lo.toNat, flNV ||| flSAT)) ∧ (num hi < i → res = (hi.toNat, flNV ||| flSAT))
        ∧ (num lo ≤ i → i ≤ num hi →
            res = ((BitVec.ofInt f.width i).toNat, if (i : ℚ) = (f.reads r.ftz x).toQ then 0 else flNX)))
    ∧ (∀ p ∈ [(e4m3, fp16), (e5m2, fp16), (fp16, fp32), (bf16, fp32), (fp32, fp64)],
      let f := p.1
      let d := p.2
      (∀ x, x < 2 ^ f.width →
        let res := cvtWiden f d x
        ((f.val x).isNan = true → res = (d.nanBits, if f.val x = .nan true then flNV else 0))
        ∧ (∀ n, f.val x = .inf n → res = (d.signed n d.infBits, 0))
        ∧ (x % f.signBit ≤ f.maxBits → ∃ p, p ≤ d.maxBits ∧ d.magnitude p = f.magnitude (x % f.signBit)
            ∧ res = (d.signed (f.negative x) p, 0)))
      ∧ ∀ (sati : Bool) (x : Nat), x < 2 ^ d.width →
        let res := cvtNarrow d f r sati x
        ((d.val x).isNan = true → res = (f.nanBits, if d.val x = .nan true then flNV else 0))
        ∧ (∀ n, d.val x = .inf n → res = f.infinity sati n)
        ∧ ∀ n m e, d.reads r.ftz x = .fin n m e →
            RoundsQ f { r with sat := sati || f.width == 8 } n (d.reads r.ftz x).toQ res)
    ∧ ∀ d ∈ [e4m3, e5m2], ∀ (sati : Bool) (scale x : Nat), scale < 2 ^ 32 →
      let sv := fp32.reads r.ftz scale
      (x < 2 ^ 32 →
        let xv := fp32.reads r.ftz x
        let res := cvtQuant d r sati scale x
        ((xv.isNan = true ∨ sv.isNan = true) → res = (d.nanBits, nvQuiet xv sv))
        ∧ (∀ n k, xv = .inf n → sv = .inf k → res = (d.nanBits, flNV))
        ∧ (∀ n k m e, xv = .inf n → sv = .fin k m e → res = d.infinity sati (n != k))
        ∧ (∀ n k m e, xv = .fin n m e → sv = .inf k → res = (d.signed (n != k) 0, 0))
        ∧ (∀ n k m e e', xv = .fin n m e → sv = .fin k 0 e' →
            (m = 0 → res = (d.nanBits, flNV))
            ∧ (m ≠ 0 → res = ((d.infinity sati (n != k)).1, (d.infinity sati (n != k)).2 ||| flDZ)))
        ∧ ∀ n k m e m' e', xv = .fin n m e → sv = .fin k m' e' → m' ≠ 0 →
            RoundsQ d { rm := r.rm, sat := true, ftz := false } (n != k) (xv.toQ / sv.toQ) res)
      ∧ (x < 2 ^ 8 →
        let q := d.val x
        let res := cvtDequant d r scale x
        ((q.isNan = true ∨ sv.isNan = true) → res = (fp32.nanBits, nvQuiet q sv))
        ∧ (∀ n k, q = .inf n → sv = .inf k → res = (fp32.signed (n != k) fp32.infBits, 0))
        ∧ (∀ n k m e, ((q = .inf n ∧ sv = .fin k m e) ∨ (q = .fin k m e ∧ sv = .inf n)) →
            (m = 0 → res = (fp32.nanBits, flNV)) ∧ (m ≠ 0 → res = (fp32.signed (n != k) fp32.infBits, 0)))
        ∧ ∀ n k m e m' e', q = .fin n m e → sv = .fin k m' e' → RoundsQ fp32 r (n != k) (q.toQ * sv.toQ) res)

/-- R98, R106, R123: the integer reductions fold the seed vs1.e[0] and the active elements into vd.e[0]. -/
def Obligations.IntReductions : Prop :=
  ∀ p ∈ intRedRows, ∀ (a : FVV) (s s1 : State), VIssue s s1 clsV (maskOf a.vm) [a.vs2, a.vs1] [a.vd] →
    s.cur.fmtInt = true → s.cur.vstart = 0 → Grouped s.cur.grp [a.vd, a.vs2, a.vs1] →
    Reduces (p.1 a) s s1 a.vd (intRedOf p.2 s1.cur a)

/-- R96 to R98, R106, R123: the float reductions: in order from the seed (`vfredo`); by the tree of R97 over any power of two
not below VL, inactive and padding positions EMPTY, the seed last (`vfredt`); maximum, minimum and maximum magnitude. -/
def Obligations.FloatReductions : Prop :=
  ∀ (a : FVV) (s s1 : State), VIssue s s1 clsV (maskOf a.vm) [a.vs2, a.vs1] [a.vd] →
    s.cur.fmtFloat = true → s.cur.vstart = 0 → Grouped s.cur.grp [a.vd, a.vs2, a.vs1] →
    (s.cur.rmOk = true → Reduces (.vfredo a) s s1 a.vd
        (foldRed (s1.cur.fmt.add s1.cur.round) (s1.cur.elem a.vs1 s1.cur.ew 0) (s1.cur.parts a)))
    ∧ (s.cur.rmOk = true → ∀ n, s1.cur.vl ≤ 2 ^ n → Reduces (.vfredt a) s s1 a.vd
        (treeWithSeed (s1.cur.fmt.add s1.cur.round) (s1.cur.elem a.vs1 s1.cur.ew 0)
          (fun i => if s1.cur.active a.vm i then some (s1.cur.elem a.vs2 s1.cur.ew i) else none) n))
    ∧ Reduces (.vfredmax a) s s1 a.vd (minmaxRedOf true s1.cur a)
    ∧ Reduces (.vfredmin a) s s1 a.vd (minmaxRedOf false s1.cur a)
    ∧ Reduces (.vfredamax a) s s1 a.vd (amaxRedOf s1.cur a)

/-- R90, R105, R120: the compares write one bit of kd for each active element; the float ones raise NV for a signalling
NaN, and `vmflt` and `vmfle` for any NaN. -/
def Obligations.Compares : Prop :=
  (∀ p ∈ kvvRows, ∀ (a : FKVV) (s s1 : State), VIssue s s1 clsV (a.kd :: maskOf a.vm) [a.vs2, a.vs1] [] →
    s.cur.fmtInt = true → Grouped s.cur.grp [a.vs2, a.vs1] →
    MapsBits (p.1 a) s s1 a.vm a.kd fun i => (p.2 s1.cur.ew (s1.cur.bvElem a.vs2 i) (s1.cur.bvElem a.vs1 i), 0))
  ∧ (∀ p ∈ kvxRows, ∀ (a : FKVX) (s s1 : State), VIssue s s1 clsV (a.kd :: maskOf a.vm) [a.vs2] [] →
    s.cur.fmtInt = true → Grouped s.cur.grp [a.vs2] →
    MapsBits (p.1 a) s s1 a.vm a.kd fun i =>
      (p.2 s1.cur.ew (s1.cur.bvElem a.vs2 i) ((s1.cur.getX a.rs1).setWidth s1.cur.ew), 0))
  ∧ (∀ p ∈ kviRows, ∀ (a : FKVI) (s s1 : State), VIssue s s1 clsV (a.kd :: maskOf a.vm) [a.vs2] [] →
    s.cur.fmtInt = true → Grouped s.cur.grp [a.vs2] →
    MapsBits (p.1 a) s s1 a.vm a.kd fun i =>
      (p.2 s1.cur.ew (s1.cur.bvElem a.vs2 i) (a.imm.signExtend s1.cur.ew), 0))
  ∧ (∀ p ∈ fkvvRows, ∀ (a : FKVV) (s s1 : State), VIssue s s1 clsV (a.kd :: maskOf a.vm) [a.vs2, a.vs1] [] →
    s.cur.fmtFloat = true → Grouped s.cur.grp [a.vs2, a.vs1] →
    MapsBits (p.1 a) s s1 a.vm a.kd fun i =>
      p.2 (s1.cur.fpIn (s1.cur.elem a.vs2 s1.cur.ew i)) (s1.cur.fpIn (s1.cur.elem a.vs1 s1.cur.ew i)))
  ∧ ∀ p ∈ fkvfRows, ∀ (a : FKVX) (s s1 : State), VIssue s s1 clsV (a.kd :: maskOf a.vm) [a.vs2] [] →
    s.cur.fmtFloat = true → Grouped s.cur.grp [a.vs2] →
    MapsBits (p.1 a) s s1 a.vm a.kd fun i =>
      p.2 (s1.cur.fpIn (s1.cur.elem a.vs2 s1.cur.ew i)) (s1.cur.fpIn (fOperand s1.cur.f[a.rs1] s1.cur.fmt))

/-- R128: the mask logic acts on all 4,096 bits, whatever VL, VTYPE and VSTART, with a grant of at least one lane group. -/
def Obligations.MaskLogic : Prop :=
  ∀ (kd ks2 ks1 : MReg) (s : State),
    let done (f : Bool → Bool → Bool) (k' : KReg) : Prop :=
      ∀ j, j < 4096 → k'.getLsbD j = f ((s.cur.k[ks2]).getLsbD j) ((s.cur.k[ks1]).getLsbD j)
    let aft (k' : KReg) : State :=
      State.vRetire { s.delivered with cur := { s.delivered.cur with
        k := s.cur.k.set kd k', trimAt := if kd = 7 then none else s.cur.trimAt } }
    (Issues s clsVA [kd, ks2, ks1] → s.cur.g ≠ 0 →
      (∃ k', done (· && ·) k' ∧ exec (.kand kd ks2 ks1) s = .next (aft k'))
      ∧ (∃ k', done (· || ·) k' ∧ exec (.kor kd ks2 ks1) s = .next (aft k'))
      ∧ (∃ k', done (· != ·) k' ∧ exec (.kxor kd ks2 ks1) s = .next (aft k'))
      ∧ (∃ k', done (fun a b => a && !b) k' ∧ exec (.kandn kd ks2 ks1) s = .next (aft k')))
    ∧ (Issues s clsVA [kd, ks2] → s.cur.g ≠ 0 →
      (∃ k', done (fun a _ => !a) k' ∧ exec (.knot kd ks2) s = .next (aft k'))
      ∧ exec (.kmov kd ks2) s = .next (aft s.cur.k[ks2]))

/-- R111, R124, R128, R145: `vmvxs`, `vmvfs`, `kpop` and `kfirst` reply through the queue; once every reply is delivered
their register holds element 0 (extended by sign, or by zero for FAM 01, or NaN-boxed), the number of set bits below VL, or
the lowest of them (all ones without one); after a trim of VL, `kfirst` of k7 gives the element that faulted, which stands at
VL, until k7 is written again (log 38). -/
def Obligations.Replies : Prop :=
  let replied (i : Instr) (s s1 : State) (fl : Bool) (rd : Reg) (v : Word) : Prop :=
    exec i s = .next (State.vRetire { s1 with cur := s1.cur.pushReply { float := fl, rd := rd, val := v } })
    ∧ let t := (s1.cur.pushReply { float := fl, rd := rd, val := v }).replyAll
      (if fl then t.f[rd] else t.getX rd) = if !fl && rd == 0 then 0 else v
  (∀ (c2 : Bool) (rd vs2 : Reg) (s s1 : State), Issues s clsVA [] → s.cur.fmtAny = true → Grouped s.cur.grp [vs2] →
    s.streamIn [vs2] [] = .ok s1 →
    replied (.vmvxs c2 rd vs2) s s1 false rd
      (if vtFam s1.cur.vtype = 1 then (s1.cur.bvElem vs2 0).setWidth 64 else (s1.cur.bvElem vs2 0).signExtend 64))
  ∧ (∀ (c2 : Bool) (rd vs2 : Reg) (s s1 : State), Issues s clsV [] → s.cur.fmtFloat = true → Grouped s.cur.grp [vs2] →
    s.streamIn [vs2] [] = .ok s1 →
    replied (.vmvfs c2 rd vs2) s s1 true rd
      ((s1.cur.bvElem vs2 0).setWidth 64 ||| (BitVec.allOnes 64 <<< s1.cur.ew)))
  ∧ ∀ (rd : Reg) (ks2 : MReg) (s : State), Issues s clsVA [ks2] → s.cur.vtypeOk = true → s.cur.g ≠ 0 →
    s.cur.vstart = 0 → s.cur.vl ≤ 4096 →
    (∃ n : Nat, n = ((List.range s.cur.vl).filter fun i => (s.cur.k[ks2]).getLsbD i).length ∧
      replied (.kpop rd ks2) s s false rd (BitVec.ofNat 64 n))
    ∧ (∀ i, i < s.cur.vl → (s.cur.k[ks2]).getLsbD i = true → (∀ j, j < i → (s.cur.k[ks2]).getLsbD j = false) →
      replied (.kfirst rd ks2) s s false rd (BitVec.ofNat 64 i))
    ∧ ((∀ i, i < s.cur.vl → (s.cur.k[ks2]).getLsbD i = false) →
      ¬(ks2 = 7 ∧ s.cur.trimAt = some s.cur.vl ∧ (s.cur.k[ks2]).getLsbD s.cur.vl = true) →
      replied (.kfirst rd ks2) s s false rd (BitVec.allOnes 64))
    ∧ ((∀ i, i < s.cur.vl → (s.cur.k[ks2]).getLsbD i = false) →
      ks2 = 7 → s.cur.trimAt = some s.cur.vl → (s.cur.k[ks2]).getLsbD s.cur.vl = true →
      replied (.kfirst rd ks2) s s false rd (BitVec.ofNat 64 s.cur.vl))

/-- R129, R130: slides, permutation, compression and expansion. An offset is all 64 bits of an x register, or 0 to 31; a
source position at or above VLMAX gives 0. -/
def Obligations.PermuteForms : Prop :=
  let up (t : Strand) (vm : Bool) (vs2 : Reg) (off i : Nat) : Option Nat :=
    if t.active vm i ∧ off ≤ i then some (t.elem vs2 t.ew (i - off)) else none
  let down (t : Strand) (vm : Bool) (vs2 : Reg) (off i : Nat) : Option Nat :=
    if t.active vm i then some (if i + off < t.vlmax then t.elem vs2 t.ew (i + off) else 0) else none
  let issue (s s1 : State) (ks : List MReg) (srcs : List Reg) (vd : Reg) : Prop :=
    VIssue s s1 clsV ks srcs [vd] ∧ s.cur.fmtAny = true ∧ s.cur.vstart = 0 ∧ Grouped s.cur.grp (vd :: srcs)
      ∧ ∀ r ∈ srcs, r ≠ vd
  (∀ (a : FVX) (s s1 : State), issue s s1 (maskOf a.vm) [a.vs2] a.vd →
    Permutes (.vslideupVx a) s s1 a.vd (up s1.cur a.vm a.vs2 (s1.cur.getX a.rs1).toNat)
    ∧ Permutes (.vslidednVx a) s s1 a.vd (down s1.cur a.vm a.vs2 (s1.cur.getX a.rs1).toNat))
  ∧ (∀ (a : FVI) (s s1 : State), issue s s1 (maskOf a.vm) [a.vs2] a.vd →
    Permutes (.vslideupVi a) s s1 a.vd (up s1.cur a.vm a.vs2 a.imm.toNat)
    ∧ Permutes (.vslidednVi a) s s1 a.vd (down s1.cur a.vm a.vs2 a.imm.toNat))
  ∧ (∀ (a : FVV) (s s1 : State), issue s s1 (maskOf a.vm) [a.vs2, a.vs1] a.vd →
    Permutes (.vpermVv a) s s1 a.vd fun i =>
      if s1.cur.active a.vm i then
        some (if s1.cur.elem a.vs1 s1.cur.ew i < s1.cur.vlmax then
          s1.cur.elem a.vs2 s1.cur.ew (s1.cur.elem a.vs1 s1.cur.ew i) else 0)
      else none)
  ∧ ∀ (c2 : Bool) (vd vs2 : Reg) (ks1 : MReg) (s s1 : State), issue s s1 [ks1] [vs2] vd →
    (Permutes (.vcompress c2 vd vs2 ks1) s s1 vd fun j =>
      (((List.range s1.cur.vl).filter fun i => (s1.cur.k[ks1]).getLsbD i)[j]?).map fun i => s1.cur.elem vs2 s1.cur.ew i)
    ∧ (Permutes (.vexpand c2 vd vs2 ks1) s s1 vd fun i =>
      if i < s1.cur.vl ∧ (s1.cur.k[ks1]).getLsbD i = true then
        some (s1.cur.elem vs2 s1.cur.ew ((List.range i).filter fun j => (s1.cur.k[ks1]).getLsbD j).length)
      else none)

/-! ### Vector memory -/

/-- R138, R139, R141, R142: the loads. Element i comes from the bytes at its exact address: base + i × element bytes;
base + i × stride; base + unsigned index element. The base and the stride are signed 64-bit values. -/
def Obligations.Loads : Prop :=
  let read (s1 : State) (vm : Bool) (w : Fin 4) (addr : Nat → Int) (x : Nat → Nat) : Prop :=
    ∀ i, s1.cur.active vm i = true → Reads s1 true (addr i) (memBits w s1.cur.ew / 8) (x i)
  (∀ (a : FVM) (s s1 : State) (x : Nat → Nat), MemIssue s s1 a.vm a.w a.vd [] [a.vd] →
    read s1 a.vm a.w (fun i => (s1.cur.getX a.base).toInt + i * (memBits a.w s1.cur.ew / 8 : Nat)) x →
    LoadsElements (.vld a) s s1 a.vm a.vd s1.cur.vl fun i => widened s1.cur (memBits a.w s1.cur.ew) (x i))
  ∧ (∀ (a : FVM2) (s s1 : State) (x : Nat → Nat), MemIssue s s1 a.vm a.w a.vd [] [a.vd] →
    read s1 a.vm a.w (fun i => (s1.cur.getX a.base).toInt + i * (s1.cur.getX a.src2).toInt) x →
    LoadsElements (.vlds a) s s1 a.vm a.vd s1.cur.vl fun i => widened s1.cur (memBits a.w s1.cur.ew) (x i))
  ∧ ∀ (a : FVM2C) (s s1 : State) (x : Nat → Nat), MemIssue s s1 a.vm a.w a.vd [a.src2] [a.vd] →
    Grouped s.cur.grp [a.src2] → a.src2 ≠ a.vd →
    read s1 a.vm a.w (fun i => (s1.cur.getX a.base).toInt + s1.cur.elem a.src2 s1.cur.ew i) x →
    LoadsElements (.vldx a) s s1 a.vm a.vd s1.cur.vl (fun i => widened s1.cur (memBits a.w s1.cur.ew) (x i))
    ∧ LoadsElements (.vldxO a) s s1 a.vm a.vd s1.cur.vl fun i => widened s1.cur (memBits a.w s1.cur.ew) (x i)

/-- R138, R139, R141, R142, R184: the stores, element by element in ascending order, each the low bits of its element,
with their memory frame. Which of two overlapping elements of the unordered form lands last is the model's order (log 8). -/
def Obligations.Stores : Prop :=
  let val (t : Strand) (w : Fin 4) (vd : Reg) (i : Nat) : Nat := t.elem vd t.ew i % 2 ^ memBits w t.ew
  (∀ (a : FVMC) (s s1 : State), MemIssue s s1 a.vm a.w a.vd [a.vd] [] →
    let addr := fun i : Nat => (s1.cur.getX a.base).toInt + i * (memBits a.w s1.cur.ew / 8 : Nat)
    NoStall s1 (s1.cur.actives a.vm) addr (memBits a.w s1.cur.ew / 8) →
    StoresElements (.vst a) s s1 a.vm addr (memBits a.w s1.cur.ew / 8) (val s1.cur a.w a.vd))
  ∧ (∀ (a : FVM2C) (s s1 : State), MemIssue s s1 a.vm a.w a.vd [a.vd] [] →
    let addr := fun i : Nat => (s1.cur.getX a.base).toInt + i * (s1.cur.getX a.src2).toInt
    NoStall s1 (s1.cur.actives a.vm) addr (memBits a.w s1.cur.ew / 8) →
    StoresElements (.vsts a) s s1 a.vm addr (memBits a.w s1.cur.ew / 8) (val s1.cur a.w a.vd))
  ∧ ∀ (a : FVM2C) (s s1 : State), MemIssue s s1 a.vm a.w a.vd [a.vd, a.src2] [] → Grouped s.cur.grp [a.src2] →
    let addr := fun i : Nat => (s1.cur.getX a.base).toInt + s1.cur.elem a.src2 s1.cur.ew i
    NoStall s1 (s1.cur.actives a.vm) addr (memBits a.w s1.cur.ew / 8) →
    StoresElements (.vstx a) s s1 a.vm addr (memBits a.w s1.cur.ew / 8) (val s1.cur a.w a.vd)
    ∧ StoresElements (.vstxO a) s s1 a.vm addr (memBits a.w s1.cur.ew / 8) (val s1.cur a.w a.vd)

/-- R145: `vldff` loads as `vld` does when nothing faults; where the lowest element at which a fault is detected is f, above
VSTART, it loads the elements below f, trims VL to f, and sets the k7 bits from f up to the old VL (log 38). A fault at
VSTART trims nothing and traps as it does in `vld`: a repairable one with the other elements loaded and its own pending, one
that ends the launch with no element done. -/
def Obligations.FaultFirstLoad : Prop :=
  ∀ (a : FVM) (s s1 : State) (x : Nat → Nat), MemIssue s s1 a.vm a.w a.vd [] [a.vd] →
    let n := memBits a.w s1.cur.ew / 8
    let addr := fun i : Nat => (s1.cur.getX a.base).toInt + i * (n : Nat)
    ((∀ i, s1.cur.active a.vm i = true → Reads s1 true (addr i) n (x i)) →
      LoadsElements (.vldff a) s s1 a.vm a.vd s1.cur.vl fun i => widened s1.cur (memBits a.w s1.cur.ew) (x i))
    ∧ (∀ f, s1.cur.active a.vm f = true → s1.cur.vstart < f →
      (∀ i, s1.cur.active a.vm i = true → i < f → Reads s1 true (addr i) n (x i)) →
      ((∃ pages, s1.loadMem true (addr f) n = .error (.trans pages none))
        ∨ ∃ c ad k, s1.loadMem true (addr f) n = .error (.launch c ad k none) ∧ (c = 0x06 ∨ c = 0x14)) →
      LoadsElements (.vldff a) s s1 a.vm a.vd f fun i => widened s1.cur (memBits a.w s1.cur.ew) (x i))
    ∧ (s1.cur.active a.vm s1.cur.vstart = true →
      let dirty := dirtyIf s1.cur true a.vd s1.cur.grp
      let entry (e : BmEntry) : Prop := e.enc = encOf (.vldff a) ∧ e.vtype = s1.cur.vtype ∧ e.vl = s1.cur.vl
        ∧ e.ipc = s1.cur.pc ∧ e.xbase = s1.cur.getX a.base
      (∀ p ps, s1.loadMem true (addr s1.cur.vstart) n = .error (.trans (p :: ps) none) →
        (∀ i, s1.cur.active a.vm i = true → i ≠ s1.cur.vstart → Reads s1 true (addr i) n (x i)) →
        ∃ c v' e, ∃ k' : KReg, CachesOnly s1 c ∧ entry e
          ∧ ElemsWritten s1.cur.v v' s1.cur.g a.vd.val s1.cur.ew (fun j =>
              if s1.cur.active a.vm j ∧ j ≠ s1.cur.vstart then some (widened s1.cur (memBits a.w s1.cur.ew) (x j)) else none)
          ∧ (∀ j, j < 4096 → k'.getLsbD j = if s1.cur.vstart ≤ j ∧ j < s1.cur.vl then decide (j = s1.cur.vstart)
              else (s1.cur.k[7]).getLsbD j)
          ∧ (e.st = 2 → ∀ j, j < 4096 → e.mask.getLsbD j = decide (j = s1.cur.vstart))
          ∧ ((∃ i, s1.cur.active a.vm i = true ∧ i ≠ s1.cur.vstart) → e.st = 2)
          ∧ exec (.vldff a) s = .next { c with cur := { s1.cur with
              v := v', k := s1.cur.k.set 7 k', vdirty := dirty, trimAt := none, pc := s1.cur.pc + 4
              status := .trapping { cause := 1, cls := 0, pages := (p :: ps).foldl addPage [], entry := some e } } })
      ∧ ∀ c ad k, s1.loadMem true (addr s1.cur.vstart) n = .error (.launch c ad k none) → (c = 0x06 ∨ c = 0x14) →
        s.cur.mode = .u → s.cur.system = false →
        ∃ m e, ∃ k' : KReg, CachesOnly s1 m ∧ entry e ∧ e.st = 0
          ∧ (∀ j, j < 4096 → k'.getLsbD j = if s1.cur.vstart ≤ j ∧ j < s1.cur.vl then s1.cur.active a.vm j
              else (s1.cur.k[7]).getLsbD j)
          ∧ exec (.vldff a) s = .next { m with cur := { s1.cur with
          vdirty := dirty, k := s1.cur.k.set 7 k', trimAt := none, pc := s1.cur.pc + 4
          status := .trapping { cause := 2, cls := c, pages := [(ad, 2, k)], entry := some e } } })

/-- R146: `vldl` and `vstl` move elements between registers and the strand's scratch (one lane's slice for each lane) or
activation region, at the base's offset; every other byte of the region's space stays. -/
def Obligations.CoreLocalAccesses : Prop :=
  let at' (t : Strand) (base : Reg) (n i : Nat) : Nat :=
    if t.cls = .vector then i % (8 * t.g) * 16384 + (t.getX base).toNat + i / (8 * t.g) * n else (t.getX base).toNat + i * n
  let inside (t : Strand) (base : Reg) (vm : Bool) (n : Nat) : Prop :=
    ∀ i, t.active vm i = true →
      (t.getX base).toNat + (if t.cls = .vector then i / (8 * t.g) else i) * n + n ≤
        (if t.cls = .vector then t.scratchBytes else t.actBytes)
  (∀ (a : FVM) (s s1 : State), VIssue s s1 clsVA (maskOf a.vm) [] [a.vd] → MemFormat s.cur a.w → Grouped s.cur.grp [a.vd] →
    inside s1.cur a.base a.vm (memBits a.w s1.cur.ew / 8) →
    MapsElements (.vldl a) s s1 a.vm a.vd s1.cur.ew s1.cur.grp fun i =>
      (widened s1.cur (memBits a.w s1.cur.ew) ((s1.cur.loc s1.cur.localSpace).readNat
        (at' s1.cur a.base (memBits a.w s1.cur.ew / 8) i) (memBits a.w s1.cur.ew / 8)), 0))
  ∧ ∀ (a : FVMC) (s s1 : State), VIssue s s1 clsVA (maskOf a.vm) [a.vd] [] → MemFormat s.cur a.w →
    Grouped s.cur.grp [a.vd] → inside s1.cur a.base a.vm (memBits a.w s1.cur.ew / 8) → s1.cur.scratchBytes ≤ 16384 →
      s1.cur.MemWf →
    let n := memBits a.w s1.cur.ew / 8
    ∃ m : Mem,
      (∀ i j, s1.cur.active a.vm i = true → j < n →
        m.get (at' s1.cur a.base n i + j) = BitVec.ofNat 8 (s1.cur.elem a.vd s1.cur.ew i / 2 ^ (8 * j)))
      ∧ (∀ b, (∀ i, s1.cur.active a.vm i = true → ¬(at' s1.cur a.base n i ≤ b ∧ b < at' s1.cur a.base n i + n)) →
        m.get b = (s1.cur.loc s1.cur.localSpace).get b)
      ∧ exec (.vstl a) s = .next (State.vRetire { s1 with cur := s1.cur.putLoc s1.cur.localSpace m })

/-- R147: `kld` fills the mask bits below VL from memory, one bit an element, the others unchanged; `kst` stores them, the
bits above VL in its last byte zero. -/
def Obligations.MaskMemory : Prop :=
  ∀ (k : MReg) (base : Reg) (s : State), Issues s clsVA [k] → s.cur.g ≠ 0 → InGrant s.cur → s.cur.vtypeOk = true →
    s.cur.vstart = 0 →
    let t := s.delivered
    let a := (t.cur.getX base).toInt
    (∀ x : Nat → Nat, (∀ j, j < (t.cur.vl + 7) / 8 → Reads t true (a + j) 1 (x j)) →
      ∃ c, ∃ k' : KReg, CachesOnly t c
        ∧ (∀ j, j < 4096 → k'.getLsbD j = if j < t.cur.vl then (x (j / 8)).testBit (j % 8) else (t.cur.k[k]).getLsbD j)
        ∧ exec (.kld k base) s = .next (State.vRetire { c with cur := { t.cur with
            k := t.cur.k.set k k', trimAt := if k = 7 then none else t.cur.trimAt } }))
    ∧ ∀ t1, Walks .store (fun _ => True) (fun j : Nat => a + j) 1 (List.range ((t.cur.vl + 7) / 8)) (t.pcBehind 4) t1 →
      ∀ ws t', StoreRun true (fun j : Nat => a + j) 1 (maskByte t.cur.k[k] t.cur.vl) (fun _ u => u)
          (List.range ((t.cur.vl + 7) / 8)) t1 ws t' →
        exec (.kst k base) s = .next t'.vSettle
        ∧ (StoreRun false (fun j : Nat => a + j) 1 (maskByte t.cur.k[k] t.cur.vl) (fun _ u => u)
            (List.range ((t.cur.vl + 7) / 8)) t1 ws t' → MemWf t1 → StoresOpen t1 ws t1.cur.wcV → SameButMemory t1 t'
            ∧ SameOutside t1 t' fun sp b => InPieces ws sp b ∨ InBuffers t1.cur.wcV sp b)

/-! ### Atomics -/

/-- R194 to R196: one indivisible access of an agent whose buffers are empty reads the old bytes and stores the new ones,
and no other byte; a vector atomic makes one for each active element, in ascending order, after every address has
translated; the old value goes to vd. With rl the strand's buffered stores come first, and it waits while one of them is
held back (R188); aq and the scope have no further effect, accesses taking place one at a time in one order (log 3). A lane
thread's atomic (R134) acts on the element at base plus offset register, modulo 2^64 (log 29), with its own x registers, the
old value sign-extended. -/
def Obligations.VectorAtomics : Prop :=
  (∀ (s walked : State) (vec : Bool) (a : Int) (n : Nat) (f : Nat → Option Nat) (p : Phys), s.cur.wcS = [] →
    s.cur.wcV = [] → s.places a n .atomic = .ok ([(p, n)], walked) → CachesOnly s walked → s.badPiece (p, n) = false →
      StoresOpen s [(p, n)] [] → MemWf s →
    ∃ s', s.atomicMem vec a n f = .ok (leNat (s.readPhys p n), s') ∧ SameButMemory s s'
      ∧ (SameOutside s s' fun sp b => f (leNat (s.readPhys p n)) ≠ none ∧ InPieces [(p, n)] sp b)
      ∧ ∀ v, f (leNat (s.readPhys p n)) = some v → s'.readPhys p n = leBytes n v)
  ∧ (∀ r ∈ amoRows, ∀ (a : FAmo) (s s1 : State),
    let cas := r.1 a = .vamocas a
    AtomIssue s s1 (maskOf a.vm) ((if cas then [a.vd, a.vd + 1] else [a.vd]) ++ [a.vs2]) [a.vd] → r.2.fits s.cur →
    (cas → a.vd.val % 2 = 0) →
    let addr := fun i : Nat => (s1.cur.getX a.base).toInt + s1.cur.elem a.vs2 s1.cur.ew i
    let sF := (s1.pcBehind 4).flushCur true true
    let sB := if a.rl then sF else s1.pcBehind 4
    (a.rl = true → StandsBy sF true true → Waits (r.1 a) s s.delivered .fence)
    ∧ ((a.rl = true → ¬StandsBy sF true true) → ∀ sT s2, AtomicPlaces .atomic addr (s1.cur.ew / 8) (s1.cur.actives a.vm) sB sT →
      AmoRun r.2 a.vd (a.vd + 1) addr (s1.cur.actives a.vm)
        (sT.onCur fun t => { t with vdirty := dirtyIf t (decide (0 < t.vl)) a.vd 1 }) s2 →
      exec (r.1 a) s = .next (s2.streamOut [a.vd]).vSettle))
  ∧ ∀ (op : Fin 11) (r : (FAmo → Instr) × AmoRow), amoRows[op.val]? = some r →
  ∀ (a : FAmo) (s : State) (l : LaneThread), s.cur.laneTurn = some l → a.vm = false → s.cur.vill = false → r.2.fits s.cur →
    (op = 9 → a.vd.val % 2 = 0) →
    let n := s.cur.ew / 8
    let ad := s.cur.getX a.base + s.cur.getX a.vs2
    (∃ sT, AtomicPlaces .atomic (fun _ => ad.toInt) n [0] s sT) →
    let sF := s.flushCur false true
    let sB := if a.rl then sF else s
    (a.rl = true → StandsBy sF false true → Waits (.laneFormAtomic op a) s sF .fence)
    ∧ ((a.rl = true → ¬StandsBy sF false true) →
      ∀ old s2, sB.atomicMem true ad.toInt n (fun o => r.2.new s.cur.ew o ((s.cur.getX a.vd).toNat % 2 ^ s.cur.ew)
        ((s.cur.getX (a.vd + 1)).toNat % 2 ^ s.cur.ew)) = .ok (old, s2) →
      exec (.laneFormAtomic op a) s = .next ((s2.onCur fun t =>
        (t.putX a.vd ((BitVec.ofNat s.cur.ew old).signExtend 64)).issueTo l.lane).pcBehind 4))

/-- R184, R197, R198: `vgl` and `vsc` come after the strand's own earlier vector stores (`vgl` and the release form after
its scalar ones too), which end reservations as any store does, and wait while one of them is held back. `vgl` loads the
active elements as an indexed load does and makes reservations of their lines, the strand's earlier ones gone: of every
element when no other strand holds any and the elements lie in at most 8 lines, which leaves every set 8 ways (log 46);
`vsc` stores each element whose reservation stands, the check and the store one step, writes k6 over [0, VL) and ends every
reservation. -/
def Obligations.GatherLinks : Prop :=
  (∀ (a : FLink) (s s1 : State) (x : Nat → Nat) (l : Nat → Space × Nat),
    AtomIssue s s1 (maskOf a.vm) [a.vs2] [a.vd] → (s.cur.ew = 32 ∨ s.cur.ew = 64) →
    let addr := fun i : Nat => (s1.cur.getX a.base).toInt + s1.cur.elem a.vs2 s1.cur.ew i
    let sF := (s1.pcBehind 4).flushCur true true
    (StandsBy sF true true → Waits (.vgl a) s s.delivered .fence)
    ∧ (¬StandsBy sF true true → (∃ sT, AtomicPlaces .load addr (s1.cur.ew / 8) (s1.cur.actives a.vm) sF sT) →
    (∀ i, s1.cur.active a.vm i = true → Reads sF true (addr i) (s1.cur.ew / 8) (x i)
      ∧ ∃ p ps walked, sF.places (addr i) (s1.cur.ew / 8) .load = .ok (p :: ps, walked)
        ∧ l i = (p.1.space, lineOf p.1.addr)) →
    ∃ c v' rs r2, CachesOnly sF c
      ∧ ElemsWritten s1.cur.v v' s1.cur.g a.vd.val s1.cur.ew (fun j => if s1.cur.active a.vm j then some (x j) else none)
      ∧ (∀ r ∈ rs, s1.cur.active a.vm r.1 = true ∧ r.2 = l r.1)
      ∧ (∀ k ∈ r2, ∃ r ∈ rs, r.2 = k)
      ∧ ((∀ o ∈ sF.others, o.res = []) → (((s1.cur.actives a.vm).map l).eraseDups.length ≤ 8) →
          ∀ i, s1.cur.active a.vm i = true → (i, l i) ∈ rs)
      ∧ exec (.vgl a) s = .next (State.vSettle (State.streamOut { c with cur := { sF.cur with
          v := v', res := rs, resL2 := r2, vdirty := dirtyIf s1.cur (decide (0 < s1.cur.vl)) a.vd 1 } } [a.vd]))))
  ∧ ∀ (a : FLink) (s s1 : State), AtomIssue s s1 (6 :: maskOf a.vm) [a.vd, a.vs2] [] → (s.cur.ew = 32 ∨ s.cur.ew = 64) →
    let addr := fun i : Nat => (s1.cur.getX a.base).toInt + s1.cur.elem a.vs2 s1.cur.ew i
    let sF := (s1.pcBehind 4).flushCur a.ord true
    (StandsBy sF a.ord true → Waits (.vsc a) s s.delivered .fence)
    ∧ (¬StandsBy sF a.ord true →
    ∀ (sT : State), AtomicPlaces .atomic addr (s1.cur.ew / 8) (s1.cur.actives a.vm) sF sT →
    ∀ (k' : KReg) (s2 : State), (∀ j, j < 4096 → k'.getLsbD j = if j < s1.cur.vl then false else (s1.cur.k[6]).getLsbD j) →
      ScRun a.vd addr (s1.cur.actives a.vm) (sT.onCur fun t => { t with k := t.k.set 6 k' }) s2 →
      exec (.vsc a) s = .next (State.vSettle (s2.onCur fun t => { t with res := [] })))

/-- R199, R278: `vwait` reads every active element; where each satisfies the comparison with vs3 it completes, writing no
register; else the strand sleeps at it, the loads of that evaluation made, and a stream's elements popped at its first issue
are not popped again: the strand keeps that they were popped. Replayed from a bookmark it reads at the entry's base, and the
strand goes on where the bookmark's header leaves off. -/
def Obligations.VectorWait : Prop :=
  ∀ r ∈ waitRows, ∀ (a : FWait) (s s1 : State) (x : Nat → Nat),
    Issues s clsV (maskOf a.vm) → InGrant s.cur → s.cur.vill = false → s.cur.vstart = 0 → s.cur.grp = 1 →
    (s.cur.ew = 32 ∨ s.cur.ew = 64) → vtFam s.cur.vtype < 2 →
    (if s.cur.popped then s1 = s.delivered else s.delivered.streamIn [a.vs3, a.vs2] [] = .ok s1) →
    let replayed := s.cur.replaying.bind fun b => b.entries.head?
    let base : Word := match replayed with | some e => e.xbase | none => s1.cur.getX a.base
    let addr : Nat → Int := fun i => base.toInt + s1.cur.elem a.vs2 s1.cur.ew i
    (∃ sT, AtomicPlaces .load addr (s1.cur.ew / 8) (s1.cur.actives a.vm) s1 sT) →
    (∀ i, s1.cur.active a.vm i = true → Reads s1 true (addr i) (s1.cur.ew / 8) (x i)) →
    let holds (i : Nat) : Bool :=
      r.2 (decide (vtFam s1.cur.vtype = 0)) s1.cur.ew (BitVec.ofNat _ (x i)) (s1.cur.bvElem a.vs3 i)
    ((∀ i, s1.cur.active a.vm i = true → holds i = true) →
      ∃ c, CachesOnly s1 c ∧ exec (r.1 a) s = .next { State.vRetire c with cur := { (State.vRetire c).cur with
        pc := match s.cur.replaying with | some b => b.pc | none => s1.cur.pc + 4
        replaying := none } })
    ∧ ((∃ i, s1.cur.active a.vm i = true ∧ holds i = false) →
      ∃ c, CachesOnly s1 c ∧ exec (r.1 a) s = .next { c with cur := { s1.cur with
        popped := decide (s.cur.inputs [a.vs3, a.vs2] ≠ []), status := .waiting .memory } })

/-! ### Vector configuration and lane threads -/

/-- R31, R34, R63, R115, R116: `vsetl` and `vsetli` (whose image is VTYPE[7:0] and LGREQ). LGREQ 0 with a grant keeps it.
Any other request (0 without a grant asks for one lane group) is not served while VDIRTY is not 0: NR is set, the grant
stays. Served, the grant becomes what `offer` gives, with the vectors zeroed when there was none. Then VTYPE, VL, VSTART and
rd; lane groups freed go to waiting strands. With no lane group to be had the strand enters lane wait, nothing written.
A strand that owns scratch and came to its core without a grant notes where its groups stand (log 56). `vrel` clears VL and
VSTART and sets VTYPE to VILL alone; with a grant it also clears VDIRTY, NR and SHORT and gives the lane groups up (R36). -/
def Obligations.VectorConfiguration : Prop :=
  let vset (i : Instr) (s : State) (rd : Reg) (image : Word) (avl : Option Word) : Prop :=
    let t := s.delivered.cur
    let req := (image.extractLsb' 12 2).toNat
    let w := if req = 0 then t else { t with vq := 0 }
    let next (s' : State) (u : Strand) : Prop := ∃ u', VtypeSet u u' rd image avl ∧
      exec i s = .next (State.laneGrant { s' with cur := { u' with pc := u'.pc + 4 } } t.core)
    (req = 0 → t.g ≠ 0 → next s.delivered { w with nr := false, short := false })
    ∧ ((req ≠ 0 ∨ t.g = 0) → t.vdirty ≠ 0 → next s.delivered { w with nr := true, short := false })
    ∧ ((req ≠ 0 ∨ t.g = 0) → t.vdirty = 0 →
        let q := if req = 0 then 1 else req
        (∀ g', s.delivered.offer t q = some g' →
          ∀ z, z = (if t.g = 0 then { w with v := Vector.replicate 32 0, k := Vector.replicate 8 0 } else w) →
          let sR := s.delivered.regrant w g'
          next sR { z with
            g := g', nr := false, short := !t.ownsScratch && q != 3 && decide (g' < q)
            lanes0 := if t.ownsScratch = true ∧ t.lanes0.length ≠ t.lstage then (sR.core t.core).lanesOf t.slot
                      else t.lanes0 })
        ∧ (s.delivered.offer t q = none → ∃ o, exec i s = .next { s.delivered with cur :=
            { w with status := .waiting (.lane o (t.wants q) { rd := rd, image := image, avl := avl }) } }))
  (∀ (rd rs1 : Reg) (lgreq : BitVec 2) (vt : BitVec 8) (s : State), Issues s clsVA [] →
    vset (.vsetli rd rs1 lgreq vt) s rd (lgreq.setWidth 64 <<< 12 ||| vt.setWidth 64)
      (if rs1 = 0 then none else some (s.delivered.cur.getX rs1)))
  ∧ (∀ (rd rs1 rs2 : Reg) (s : State), Issues s clsVA [] →
    vset (.vsetl rd rs1 rs2) s rd (s.delivered.cur.getX rs2) (if rs1 = 0 then none else some (s.delivered.cur.getX rs1)))
  ∧ ∀ s : State, Issues s clsVA [] →
    let t := s.delivered.cur
    let s' := if t.cls = .vector then s.delivered.updCore t.core fun c => c.dropLanes (c.lanesOf t.slot) else s.delivered
    let u : Strand := { t with vl := 0, vstart := 0, vtype := 0x8000000000000000, trimAt := none, vq := 0, pc := t.pc + 4 }
    (t.g ≠ 0 → exec .vrel s = .next (State.laneGrant
      { s' with cur := { u with vdirty := 0, g := 0, nr := false, short := false } } t.core))
    ∧ (t.g = 0 → exec .vrel s = .next (State.laneGrant { s' with cur := u } t.core))

/-- R33, R34: on a vector core, for a strand without scratch, a request is offered the lesser of itself (3 asks for all
four) and the lane groups held and free, none when there are none; a regrant leaves the strand with exactly what was offered,
and every other slot with what it held. A strand that owns scratch is offered its placement's groups once those are free, and
a regrant leaves it with those and no other. -/
def Obligations.GrantArithmetic : Prop :=
  ∀ (s : State) (t : Strand), t.cls = .vector → LanesHeld s t →
    let avail := t.g + ((s.core t.core).lat.filter (· == none)).length
    (t.ownsScratch = false →
      (∀ req, 1 ≤ req → req ≤ 3 →
        s.offer t req = if avail = 0 then none else some (min (if req = 3 then 4 else req) avail))
      ∧ ∀ g', 1 ≤ g' → g' ≤ avail →
        (((s.regrant t g').core t.core).lanesOf t.slot).length = g'
        ∧ ∀ slot, slot ≠ t.slot → ((s.regrant t g').core t.core).lanesOf slot = (s.core t.core).lanesOf slot)
    ∧ (t.ownsScratch = true → t.lanes0.length = t.lstage → (∀ p ∈ t.lanes0, p < 4) →
      let free : Prop := ∀ p ∈ t.lanes0, (s.core t.core).lat.getD p none = none ∨ (s.core t.core).lat.getD p none = some t.slot
      (¬free → ∀ req, s.offer t req = none)
      ∧ (free → (∀ req, s.offer t req = some t.lstage)
        ∧ (∀ p, p ∈ ((s.regrant t t.lstage).core t.core).lanesOf t.slot ↔ p ∈ t.lanes0)
        ∧ ∀ slot, slot ≠ t.slot → ((s.regrant t t.lstage).core t.core).lanesOf slot = (s.core t.core).lanesOf slot))

/-- R38, R132, R135: `lfork` starts a thread in each lane below VL (under the mask) with xn from element l of vn; a thread
stops at `ljoin`, and the last to do so writes xn to element l of vn for n from 1, marks v1 to v31 in VDIRTY and goes on
behind its `ljoin` (log 24). -/
def Obligations.LaneThreads : Prop :=
  (∀ (vm : Bool) (s : State), Issues s clsV (maskOf vm) → s.cur.vtypeOk = true → s.cur.vstart = 0 →
    let t := s.delivered.cur
    let runs (l : Nat) : Bool := decide (l < t.vl) && (!vm || (t.k[0]).getLsbD l)
    (∃ l, l < 8 * t.g ∧ runs l = true) →
    exec (.lfork vm) s = .next { s.delivered with cur := { t with
      vq := 0
      fork := some { turn := 0, joinPc := 0, threads := ((List.range (8 * t.g)).filter runs).map fun l =>
        { lane := l, pc := t.pc + 4, joined := false
          x := Vector.ofFn fun n : Fin 32 => if n = 0 then 0 else BitVec.ofNat 64 (t.elem n 64 l) } } } })
  ∧ ∀ (s : State) (f : Fork) (l : LaneThread), s.cur.fork = some f → f.threads[f.turn]? = some l →
    let ls := f.threads.set f.turn { l with joined := true, pc := l.pc + 4 }
    ((∃ o ∈ ls, o.joined = false) →
      exec .ljoin s = .next { s with cur := { s.cur with fork := some { f with threads := ls, joinPc := l.pc + 4 } } })
    ∧ ((∀ o ∈ ls, o.joined = true) → s.cur.g ≤ 4 → (ls.map (·.lane)).Nodup → (∀ o ∈ ls, o.lane < 8 * s.cur.g) →
      ∃ v', (∀ o ∈ ls, ∀ n : Fin 32, n ≠ 0 → getElem v' s.cur.g n.val 64 o.lane = (o.x[n]).toNat)
        ∧ (∀ (r : Fin 32) (b : Nat), (r = 0 ∨ ∀ o ∈ ls, ¬(64 * o.lane ≤ b ∧ b < 64 * o.lane + 64)) →
            (v'[r]).getLsbD b = (s.cur.v[r]).getLsbD b)
        ∧ exec .ljoin s = .next { s with cur := { s.cur with
            v := v', vdirty := s.cur.vdirty ||| 0xFFFFFFFE, pc := l.pc + 4, fork := none } })

/-! ### Streams -/

/-- R152, R154, R161, R189: `qdef` of an undefined handle reads a 64-byte descriptor after the strand's stores, and waits while
one of them is held back; without a
fault in it the handle is defined, empty and not bound, with the descriptor's fields. A memory stream needs no more; a
stage stream is matched, or waits for its mate. -/
def Obligations.StreamDefinition : Prop :=
  ∀ (q : QReg) (base : Reg) (s : State) (d : Desc), Issues s clsVA [] → s.cur.q[q] = none →
    let a := s.delivered.cur.getX base
    let sF := s.delivered.flushCur true true
    a.toNat % 64 = 0 → (StandsBy sF true true → Waits (.qdef q base) s sF .fence)
    ∧ (¬StandsBy sF true true → ReadsDesc sF a d → sF.descFault d = none →
    ∃ h : Stream, ∃ c, CachesOnly sF c
      ∧ h.base.toNat = d.getD 0 0 % 2 ^ 64 ∧ h.kind = d.getD 5 0 / 2 ^ 8 % 4 ∧ h.eb = 2 ^ (d.getD 5 0 % 4)
      ∧ h.link = d.getD 5 0 / 2 ^ 20 % 16 ∧ h.peer = d.getD 5 0 / 2 ^ 16 % 16 ∧ h.tag = d.getD 5 0 / 2 ^ 48 % 2 ^ 16
      ∧ h.ch.val = d.getD 5 0 / 2 ^ 32 % 16 ∧ (h.kind < 2 → h.dims.length = d.getD 5 0 / 2 ^ 12 % 4 + 1)
      ∧ (h.kind ≠ 2 → h.nslot = d.getD 6 0 / 2 ^ 48 % 2 ^ 8 ∧ h.slotBytes = d.getD 6 0 / 2 ^ 32 % 2 ^ 16 * 16)
      ∧ h.filled = [] ∧ h.reserved = 0 ∧ h.done = 0 ∧ h.ended = false ∧ h.ovr = false ∧ h.binding = none ∧ h.mate = none
      ∧ let s1 : State := { c with cur := { sF.cur with q := sF.cur.q.set q (some h), pc := sF.cur.pc + 4 } }
        (h.kind < 2 → exec (.qdef q base) s = .next s1)
        ∧ (h.kind = 2 → ∀ s2, s1.matchProducer q h = some s2 → exec (.qdef q base) s = .next s2)
        ∧ (h.kind = 3 → ∀ s2, s1.matchConsumer q h = some s2 → exec (.qdef q base) s = .next s2)
        ∧ (h.kind = 3 → (∀ c ∈ s1.groupStreams s.cur.lid s.cur.glin h.link 3, c.1.uid = s.cur.uid →
            c.2.2.peer = h.peer → c.2.1 = q) →
          (∀ p ∈ s1.groupStreams s.cur.lid s.cur.glin h.link 2, p.2.2.peer = s.cur.six → p.2.2.mate.isSome = true) →
          ∀ e, s1.endedOuts s.cur.lid s.cur.glin h.link = [e] → e.peer = s.cur.six → e.six = h.peer → e.eb = h.eb →
          ∃ s2, exec (.qdef q base) s = .next s2 ∧ s2.endedOuts s.cur.lid s.cur.glin h.link = []
            ∧ s2.cur.q[q] = some { h with mate := some (0, q), mateEnded := true, wire := h.wire ++ [.ended] }))

/-- R155, R158, R162: `qbind` binds a defined handle to a register no other is bound to; `qunb` unbinds every handle of a
register; `qavail` gives END, direction, OVR, FREE, FILLED and AVAIL, 0 for an undefined handle; `qwait` completes once
enough is there, or at the end, and otherwise waits, as for an output of a stage that is not matched yet. -/
def Obligations.StreamBindingsAndQueries : Prop :=
  ∀ s : State, Issues s clsVA [] →
    (∀ (vd : Reg) (q : QReg) (h : Stream), s.cur.q[q] = some h →
      (∀ (q' : QReg) (h' : Stream), s.cur.q[q'] = some h' → h'.binding = some vd → q' = q) →
      exec (.qbind vd q) s = .next (State.pcBehind
        { s.delivered with cur := { s.delivered.cur with q := s.cur.q.set q (some { h with binding := some vd }) } } 4))
    ∧ (∀ (vd : Reg), ∃ q' : Vector (Option Stream) 16,
      (∀ r : QReg, q'[r] = (s.cur.q[r]).map fun h : Stream => if h.binding = some vd then { h with binding := none } else h)
      ∧ exec (.qunb vd) s = .next (State.pcBehind { s.delivered with cur := { s.delivered.cur with q := q' } } 4))
    ∧ (∀ (rd : Reg) (q : QReg), ∃ w : Word,
      (s.cur.q[q] = none → w = 0)
      ∧ (∀ h, s.cur.q[q] = some h →
        w.getLsbD 63 = h.isEnd ∧ w.getLsbD 62 = !h.isInput ∧ w.getLsbD 61 = h.ovr ∧ w.extractLsb' 48 13 = 0
        ∧ (w.extractLsb' 40 8).toNat = s.delivered.freeSlots h % 256
        ∧ (w.extractLsb' 32 8).toNat = s.delivered.filledSlots h % 256
        ∧ (w.extractLsb' 0 32).toNat = s.delivered.streamAvail h % 2 ^ 32)
      ∧ exec (.qavail rd q) s = .next (State.pcBehind { s.delivered with cur := s.delivered.cur.setX rd w } 4))
    ∧ ∀ (q : QReg) (rs1 : Reg) (h : Stream), s.cur.q[q] = some h →
      let n := (s.delivered.cur.getX rs1).toNat
      ((n = 0 ∨ h.isEnd = true ∨ (h.kind ≠ 2 ∧ min n (h.nslot * h.se) ≤ s.delivered.streamAvail h)
          ∨ ∃ c, h.kind = 2 ∧ s.delivered.mateOf h = some c ∧ min n (c.nslot * c.se) ≤ s.delivered.streamAvail h) →
        exec (.qwait q rs1) s = .next (s.delivered.pcBehind 4))
      ∧ (n ≠ 0 → h.isEnd = false → h.kind ≠ 2 → s.delivered.streamAvail h < min n (h.nslot * h.se) →
        exec (.qwait q rs1) s = .next { s.delivered with cur := { s.delivered.cur with status := .waiting .query } })
      ∧ (n ≠ 0 → h.isEnd = false → h.kind = 2 → (∀ c, s.delivered.mateOf h = some c →
          s.delivered.streamAvail h < min n (c.nslot * c.se)) →
        exec (.qwait q rs1) s = .next { s.delivered with cur := { s.delivered.cur with status := .waiting .query } })

/-- R159: `qend` marks the end of an output handle, once; `qrst` does so too, and makes the handle undefined, for a store
stream once its drain is done and its message posted (until then it waits); it does nothing to an undefined handle. -/
def Obligations.StreamEndAndReset : Prop :=
  ∀ (s : State) (q : QReg), Issues s clsVA [] →
    let sD := s.delivered
    (s.cur.q[q] = none → exec (.qrst q) s = .next (sD.pcBehind 4))
    ∧ ∀ h, s.cur.q[q] = some h →
      (h.isInput = false → exec (.qend q) s = .next ((sD.endStream sD.cur.uid q).pcBehind 4))
      ∧ (h.isInput = false → h.ended = true → sD.endStream sD.cur.uid q = sD)
      ∧ (h.kind = 1 → h.ended = false → (∀ o ∈ s.others, o.uid ≠ s.cur.uid) →
          sD.endStream sD.cur.uid q = { sD with cur := { sD.cur with q := sD.cur.q.set q (some { h with ended := true }) } })
      ∧ (h.kind = 0 → exec (.qrst q) s = .next (State.pcBehind
          { sD with cur := { sD.cur with q := sD.cur.q.set q none } } 4))
      ∧ (h.kind = 1 → h.ended = true → h.mateEnded = true → exec (.qrst q) s = .next (State.pcBehind
          { sD with cur := { sD.cur with q := sD.cur.q.set q none } } 4))
      ∧ (h.kind = 1 → h.ended = true → h.mateEnded = false →
          exec (.qrst q) s = .next { sD with cur := { sD.cur with status := .waiting .drain } })
      ∧ (h.kind = 1 → h.ended = false → h.mateEnded = false → (∀ o ∈ s.others, o.uid ≠ s.cur.uid) →
          exec (.qrst q) s = .next { sD with cur := { sD.cur with
            q := sD.cur.q.set q (some { h with ended := true }), status := .waiting .drain } })
      ∧ (h.kind ≥ 2 → h.kind ≤ 3 → ∀ h', (sD.endStream sD.cur.uid q).cur.q[q] = some h' →
          exec (.qrst q) s = .next (((sD.endStream sD.cur.uid q).resetStream q h').pcBehind 4))

/-! ### The copy engine -/

/-- R156, R164 to R168: the engine reads a copy command's descriptor after the strand's buffered stores, and the command
enters the queue of its core's engine with the rows, grant and VL of that moment; the strand goes on, its mask register and
tile slot not to be used until the command is done. With two commands in the queue, a store of the strand held back, or a
repairable fault of the descriptor read, it waits, the elements it popped noted. -/
def Obligations.CopyCommands : Prop :=
  let issue (i : Instr) (s s1 : State) (kind : CopyKind) (ch : QReg) (kd : Option MReg) (base : Reg) (rows : List Int)
      (slot : QReg) (popped : Bool) : Prop :=
    let op : CopyOp := { kind := kind, ch := ch, kd := kd, addr := s1.cur.getX base, rows := rows, slot := slot }
    (s1.cur.getX base).toNat % 64 = 0 →
    let sF := s1.flushCur true true
    let sW : State := { sF with cur := { sF.cur with popped := popped } }
    (∀ d, (s1.core s1.cur.core).engine.length < 2 → ¬StandsBy sF true true → ReadsDesc sF (s1.cur.getX base) d →
      sF.cur.cpNoLanes op d = false →
      sF.cur.cpOk op d = true →
      ∃ c, CachesOnly sF c ∧ exec i s = .next (State.pcBehind
        { (State.updCore c s1.cur.core fun c => { c with engine := c.engine ++
            [{ uid := s1.cur.uid, lid := s1.cur.lid, ctx := s1.cur.ctx, op := op, desc := d, g := s1.cur.g, vl := s1.cur.vl }] }) with
          cur := { sF.cur with
            kdPend := (match kd with | some k => [k] | none => []) ++ s1.cur.kdPend
            popped := false, vstart := if kind = .cpgr ∨ kind = .cpsc then 0 else s1.cur.vstart
            tiles := if kind = .cpw then s1.cur.tiles.modify slot.val fun w => { w with loading := true }
                     else s1.cur.tiles } } 8))
    ∧ (2 ≤ (s1.core s1.cur.core).engine.length →
      Waits i s { s1 with cur := { s1.cur with popped := popped } } (.copy op))
    ∧ ((s1.core s1.cur.core).engine.length < 2 →
      (StandsBy sF true true ∨ ∃ p ps, sF.places (s1.cur.getX base).toInt 8 .load = .error (.trans (p :: ps) none)) →
      Waits i s sW (.copy op))
  let masks (kd : Option MReg) : List MReg := match kd with | some k => [k] | none => []
  (∀ (a : FCopy) (s : State), Issues s clsVA (masks a.kd) → s.cur.popped = false →
    issue (.cpt a) s s.delivered .cpt a.ch a.kd a.base [] 0 false
    ∧ issue (.cpf a) s s.delivered .cpf a.ch a.kd a.base [] 0 false)
  ∧ (∀ (a : FCopy) (slot : QReg) (s : State), Issues s clsA (masks a.kd) → s.cur.popped = false →
    slot.val < s.cur.tiles.length → issue (.cpw a slot) s s.delivered .cpw a.ch a.kd a.base [] slot false)
  ∧ ∀ (a : FCopyV) (s s1 : State), Issues s clsVA (masks a.kd) → s.cur.vill = false → s.cur.ew = 32 → s.cur.vstart = 0 →
    Grouped s.cur.grp [a.vs2] →
    (if s.cur.popped then s1 = s.delivered else s.delivered.streamIn [a.vs2] [] = .ok s1) →
    let rows := (List.range s1.cur.vl).map fun i => (BitVec.ofNat 32 (s1.cur.elem a.vs2 32 i)).toInt
    let popped := s.cur.popped || decide (s.cur.inputs [a.vs2] ≠ [])
    issue (.cpgr a) s s1 .cpgr a.ch a.kd a.base rows 0 popped ∧ issue (.cpsc a) s s1 .cpsc a.ch a.kd a.base rows 0 popped

/-! ### The matrix array -/

/-- R100, R101, R103, R220, R222: `mmr`, `mmrz` and `mmrs` multiply the 96 bytes at an offset of the activation region with
the tile, into columns 0 to 127 of one accumulator row (two for FP64 slices), added to it or in its place, and OR the status;
no other accumulator byte changes. The row of `mmrs` is an x register plus its field, modulo 2^64 (log 42). The value of a
float column: a NaN among elements and accumulator, or an invalid product or opposite infinities (with NV), gives the
canonical NaN; else an infinity among the terms that infinity; else the window's sum, in FP64 split mode of the products of
the significands' top slices. -/
def Obligations.MatrixMultiply : Prop :=
  let runs (i : Instr) (s : State) (slot : QReg) (base : Reg) (r : Nat) (add : Bool) : Prop :=
    ∀ (w : Tile) (p : Pair), Issues s clsA [] → SlotReady s.cur slot w → pairOf s.cur w = some p →
      (pairRows p = 1 ∨ r % 2 = 0) → RowsFree s.cur r (pairRows p) →
      (s.delivered.cur.getX base).toNat + 96 ≤ s.cur.actBytes → s.cur.MemWf →
      let col (c : Nat) : Nat × Nat := column p (s.cur.act.readNat (s.delivered.cur.getX base).toNat 96) w c
        (if add then some (s.cur.accValue p r c) else none)
      ∃ m : Mem, (∀ c, c < 128 → Strand.accValue { s.cur with acc := m } p r c = (col c).1 % 2 ^ (32 * pairRows p))
        ∧ (∀ b, ¬(512 * r ≤ b ∧ b < 512 * (r + pairRows p)) → m.get b = s.cur.acc.get b)
        ∧ exec i s = .next (State.mRetire { s.delivered with cur := { s.delivered.cur with
            acc := m
            astat := (List.range 128).foldl (fun a c => a ||| BitVec.ofNat 3 (col c).2) s.cur.astat } })
  (∀ row slot base s, runs (.mmr row slot base) s slot base (rowAt s.delivered.cur none row) true)
  ∧ (∀ row slot base s, runs (.mmrz row slot base) s slot base (rowAt s.delivered.cur none row) false)
  ∧ (∀ row slot base rs3 s, runs (.mmrs row slot base rs3) s slot base (rowAt s.delivered.cur (some rs3) row) true)
  ∧ ∀ (p : Pair) (fa fb f : Fmt) (k window row c : Nat) (w : Tile) (init : Option Nat),
    (p = .float fa fb k ∧ f = fp32 ∧ window = 55)
      ∨ (∃ sl, 2 ≤ sl ∧ sl ≤ 7 ∧ p = .split sl ∧ fa = fp64 ∧ fb = fp64 ∧ f = fp64 ∧ k = 12 ∧ window = 122) →
    let a (i : Nat) : FVal := fa.val (row / 2 ^ (fa.width * i) % 2 ^ fa.width)
    let b (i : Nat) : FVal := fb.val (w.elems.getD (i * 128 + c) 0)
    let sliced (v : FVal) : FVal :=
      match p, v with
      | .split sl, .fin n m e => .fin n (m * 8 / 2 ^ (56 - 8 * sl) * 2 ^ (56 - 8 * sl)) (e - 3)
      | _, v => v
    let acc : List FVal := (init.map f.val).toList
    let products : List FVal := (List.range k).map fun i => ((a i).mul (b i)).1
    let nan : Prop := (∃ i, i < k ∧ ((a i).isNan = true ∨ (b i).isNan = true)) ∨ ∃ v ∈ acc, v.isNan = true
    let res := column p row w c init
    (nan → res = (f.nanBits, 0))
    ∧ (¬nan → ((∃ t ∈ products, t.isNan = true) ∨ (.inf false ∈ products ++ acc ∧ .inf true ∈ products ++ acc)) →
        res = (f.nanBits, 4))
    ∧ (¬nan → (∀ t ∈ products, t.isNan = false) → ∀ n, FVal.inf n ∈ products ++ acc → FVal.inf (!n) ∉ products ++ acc →
        res = (f.signed n f.infBits, 0))
    ∧ ((∀ t ∈ products ++ acc, ∃ n m e, t = .fin n m e) →
        WindowSum f window (((List.range k).map fun i => ((sliced (a i)).mul (sliced (b i))).1) ++ acc) res)

/-- R102: an integer column is the sum of the products of signed elements, and of the accumulator when it adds, modulo 2^32;
OF tells that the exact sum left the range, and the array status keeps it. -/
def Obligations.IntegerColumn : Prop :=
  (∀ (wa wb k row : Nat) (w : Tile) (c : Nat) (acc : Option (BitVec 32)), 1 ≤ wa → 1 ≤ wb →
    let x : Int := ((List.range k).map fun i =>
        (BitVec.ofNat wa (row / 2 ^ (wa * i))).toInt * (BitVec.ofNat wb (w.elems.getD (i * 128 + c) 0)).toInt).sum
      + (acc.map BitVec.toInt).getD 0
    column (.int wa wb k) row w c (acc.map BitVec.toNat)
      = ((BitVec.ofInt 32 x).toNat, if -(2 ^ 31) ≤ x ∧ x < 2 ^ 31 then 0 else 2))
  ∧ ∀ (row : BitVec 10) (slot : QReg) (base : Reg) (s : State) (w : Tile) (wa wb k c : Nat), Issues s clsA [] →
    SlotReady s.cur slot w → pairOf s.cur w = some (.int wa wb k) → RowsFree s.cur (rowAt s.delivered.cur none row) 1 →
    (s.delivered.cur.getX base).toNat + 96 ≤ s.cur.actBytes → c < 128 →
    (column (.int wa wb k) (s.cur.act.readNat (s.delivered.cur.getX base).toNat 96) w c
      (some (s.cur.accValue (.int wa wb k) (rowAt s.delivered.cur none row) c))).2 = 2 →
    ∃ t : State, exec (.mmr row slot base) s = .next t ∧ t.cur.astat.getLsbD 1 = true

/-- R224, R228: `accrd` copies a row's 128 words to elements 0 to 127 of vd, `accwr` the other way, `accz` zeroes n + 1 rows;
the row is an x register plus the field, modulo 2^64 (log 42). -/
def Obligations.AccumulatorRows : Prop :=
  ∀ (rs1 : Reg) (row : BitVec 10) (s : State), Issues s clsA [] → 1 ≤ s.cur.g → s.cur.g ≤ 4 →
    let r := rowAt s.delivered.cur (some rs1) row
    (∀ (vd : Reg) (s1 : State), RowsFree s.cur r 1 → s.delivered.streamIn [] [vd] = .ok s1 →
      ∃ v', ElemsWritten s1.cur.v v' s1.cur.g vd.val 32 (fun c => if c < 128 then some (s1.cur.accWord r c) else none)
        ∧ exec (.accrd vd rs1 row) s = .next (State.mRetire ((State.streamOut { s1 with cur := { s1.cur with
            v := v', vdirty := dirty s1.cur.vdirty vd.val 1 } } [vd]).onCur fun t => { t with vstart := 0 })))
    ∧ (∀ (vs2 : Reg), RowsFree s.cur r 1 → (∀ (q : QReg) h, s.cur.q[q] = some h → h.binding ≠ some vs2) → s.cur.MemWf →
      ∃ m : Mem, (∀ c, c < 128 → Strand.accWord { s.cur with acc := m } r c = s.cur.elem vs2 32 c)
        ∧ (∀ b, ¬(512 * r ≤ b ∧ b < 512 * r + 512) → m.get b = s.cur.acc.get b)
        ∧ exec (.accwr rs1 row vs2) s = .next (State.mRetire
            { s.delivered with cur := { s.delivered.cur with acc := m, vstart := 0 } }))
    ∧ ∀ n : BitVec 10, RowsFree s.cur r (n.toNat + 1) → s.cur.MemWf →
      ∃ m : Mem, (∀ b, m.get b = if 512 * r ≤ b ∧ b < 512 * (r + n.toNat + 1) then 0 else s.cur.acc.get b)
        ∧ exec (.accz rs1 row n) s = .next (State.mRetire
            { s.delivered with cur := { s.delivered.cur with acc := m, vstart := 0 } })

/-- R219, R225 to R227: `wclr` empties a tile slot; `wdesc` gives BFMT, VALID, KROWS and the array status, and clears the
status. A slot that the stage does not declare is launch fault 0x09 of every instruction that names it, before every wait
and every other check. The address and the access bits of that fault are 0 (log 37). -/
def Obligations.WeightSlots : Prop :=
  (∀ (slot : QReg) (s : State), s.cur.cls = .array → s.cur.mode = .u → s.cur.system = false → s.cur.fork = none →
    s.cur.tiles.length ≤ slot.val →
    let stops (i : Instr) : Prop := exec i s = .next { s.delivered with cur := { s.delivered.cur with
      status := .trapping { cause := 2, cls := 0x09, pages := [(0, 2, 0)], entry := none } } }
    stops (.wclr slot) ∧ (∀ rd, stops (.wdesc rd slot)) ∧ (∀ a, stops (.cpw a slot))
    ∧ ∀ row base, stops (.mmr row slot base) ∧ stops (.mmrz row slot base) ∧ ∀ rs3, stops (.mmrs row slot base rs3))
  ∧ ∀ (slot : QReg) (s : State) (w : Tile), Issues s clsA [] → SlotReady s.cur slot w →
    exec (.wclr slot) s = .next (State.mRetire { s.delivered with cur := { s.delivered.cur with
        tiles := s.cur.tiles.set slot.val { loading := false, valid := false, bfmt := 0, krows := 0, elems := [] } } })
    ∧ ∀ rd : Reg, w.bfmt < 16 → w.krows < 256 →
      ∃ d : Word, d.extractLsb' 0 4 = BitVec.ofNat 4 w.bfmt ∧ d.getLsbD 4 = w.valid ∧ d.extractLsb' 5 3 = 0
        ∧ d.extractLsb' 8 8 = BitVec.ofNat 8 w.krows ∧ d.extractLsb' 16 3 = s.cur.astat ∧ d.extractLsb' 19 45 = 0
        ∧ exec (.wdesc rd slot) s = .next (State.mRetire
            { s.delivered with cur := { s.delivered.cur.setX rd d with astat := 0 } })

/-! ### The scalar base -/

/-- R55, R57: the integer instructions of the base on registers and immediates, in a strand or in a lane thread. -/
def Obligations.ScalarArithmetic : Prop :=
  ∀ (f : Form) (rd rs1 rs2 : Reg) (s : State),
    let a := s.delivered.cur.getX rs1
    let b := s.delivered.cur.getX rs2
    (∀ op, ScalarIssue s (scalarClasses (.alu op rd rs1 rs2)) (op != .czeroEqz && op != .czeroNez) →
      WritesX (.rv64ScalarInstruction f (.alu op rd rs1 rs2)) s f rd (aluSpec op a b))
    ∧ (∀ op, ScalarIssue s anyCls true →
      WritesX (.rv64ScalarInstruction f (.aluW op rd rs1 rs2)) s f rd
        ((aluWSpec op (a.setWidth 32) (b.setWidth 32)).signExtend 64))
    ∧ (∀ op (imm : BitVec 12), ScalarIssue s anyCls true →
      WritesX (.rv64ScalarInstruction f (.aluI op rd rs1 imm)) s f rd (aluISpec op a (imm.signExtend 64)))
    ∧ (∀ op (sh : BitVec 6), ScalarIssue s (scalarClasses (.shI op rd rs1 sh)) true →
      WritesX (.rv64ScalarInstruction f (.shI op rd rs1 sh)) s f rd (shISpec op a sh.toNat))
    ∧ (∀ op (sh : BitVec 5), ScalarIssue s anyCls true →
      WritesX (.rv64ScalarInstruction f (.shIW op rd rs1 sh)) s f rd ((shIWSpec op (a.setWidth 32) sh.toNat).signExtend 64))
    ∧ (∀ op, ScalarIssue s anyCls true →
      ∃ r, UnSpec op a r ∧ WritesX (.rv64ScalarInstruction f (.un op rd rs1)) s f rd r)
    ∧ ∀ imm : BitVec 20, ScalarIssue s anyCls true →
      WritesX (.rv64ScalarInstruction f (.lui rd imm)) s f rd ((imm ++ (0 : BitVec 12)).signExtend 64)
      ∧ WritesX (.rv64ScalarInstruction f (.auipc rd imm)) s f rd
          (s.cur.getPc + (imm ++ (0 : BitVec 12)).signExtend 64)

/-- R55: jumps write the address behind them to rd and go to pc + offset, or to rs1 + immediate with bit 0 cleared; branches
go to pc + offset when their condition holds. -/
def Obligations.JumpsAndBranches : Prop :=
  ∀ (f : Form) (s : State), ScalarIssue s anyCls true →
    let d := s.delivered
    let back : Word := s.cur.getPc + BitVec.ofNat 64 (bytesOf f)
    let jump (op : Scalar) (rd : Reg) (target : Word) : Prop :=
      exec (.rv64ScalarInstruction f op) s = .next { d with cur := (d.cur.putX rd back).putPc target }
    (∀ (rd : Reg) (off : BitVec 21), jump (.jal rd off) rd (s.cur.getPc + off.signExtend 64))
    ∧ (∀ (rd rs1 : Reg) (imm : BitVec 12),
      jump (.jalr rd rs1 imm) rd ((d.cur.getX rs1 + imm.signExtend 64) &&& 0xFFFFFFFFFFFFFFFE))
    ∧ ∀ (op : BrOp) (rs1 rs2 : Reg) (off : BitVec 13),
      (takenSpec op (d.cur.getX rs1) (d.cur.getX rs2) →
        exec (.rv64ScalarInstruction f (.branch op rs1 rs2 off)) s =
          .next { d with cur := d.cur.putPc (s.cur.getPc + off.signExtend 64) })
      ∧ (¬takenSpec op (d.cur.getX rs1) (d.cur.getX rs2) →
        exec (.rv64ScalarInstruction f (.branch op rs1 rs2 off)) s = .next (d.pcBehind (bytesOf f)))

/-- R6, R55, R57: scalar loads and stores of integer and FP registers, in U-mode and Bare, with their memory frame. -/
def Obligations.ScalarMemory : Prop :=
  ∀ (f : Form) (s : State),
    let d := s.delivered
    let ea (rs1 : Reg) (imm : BitVec 12) : Word := d.cur.getX rs1 + imm.signExtend 64
    (ScalarIssue s anyCls true →
      (∀ (op : LdOp) (rd rs1 : Reg) (imm : BitVec 12) (x : Nat) (s0 : State),
        ScalarReads d s0 (ea rs1 imm) (loadSpec op x).1 x →
        ∃ c, CachesOnly s0 c ∧ exec (.rv64ScalarInstruction f (.load op rd rs1 imm)) s =
          .next (State.pcBehind { c with cur := s0.cur.putX rd (loadSpec op x).2 } (bytesOf f)))
      ∧ (∀ (op : StOp) (rs1 rs2 : Reg) (imm : BitVec 12) (ws : List (Phys × Nat)) (s0 : State),
        ScalarTarget d s0 (ea rs1 imm) (storeBytes op) ws →
        let vec := s.laneMode && !d.bare
        let s1 := s0.storeList vec ws (leBytes (storeBytes op) ((d.cur.getX rs2).toNat % 2 ^ (8 * storeBytes op)))
        exec (.rv64ScalarInstruction f (.store op rs1 rs2 imm)) s = .next (s1.pcBehind (bytesOf f))
        ∧ StoreFrame s0 s1 vec ws)
      ∧ ∀ (op : StOp) (rs1 rs2 : Reg) (imm : BitVec 12), d.bare = true → blockBase ≤ (ea rs1 imm).toNat →
        exec (.rv64ScalarInstruction f (.store op rs1 rs2 imm)) s = .next (State.pcBehind
          (d.blockWrite d.via ((ea rs1 imm).toNat - blockBase) (storeBytes op)
            (BitVec.ofNat 64 ((d.cur.getX rs2).toNat % 2 ^ (8 * storeBytes op)))) (bytesOf f)))
    ∧ (ScalarIssue s [.control, .vector] false →
      (∀ (dbl : Bool) (rd rs1 : Reg) (imm : BitVec 12) (x : Nat) (s0 : State),
        ScalarReads d s0 (ea rs1 imm) (if dbl then 8 else 4) x →
        let w : Word := if dbl then BitVec.ofNat 64 x else BitVec.allOnes 32 ++ BitVec.ofNat 32 x
        ∃ c, CachesOnly s0 c ∧ exec (.rv64ScalarInstruction f (.fload dbl rd rs1 imm)) s = .next (State.pcBehind
          { c with cur := { s0.cur with f := s0.cur.f.set rd w } } (bytesOf f)))
      ∧ ∀ (dbl : Bool) (rs1 rs2 : Reg) (imm : BitVec 12) (ws : List (Phys × Nat)) (s0 : State),
        let n := if dbl then 8 else 4
        ScalarTarget d s0 (ea rs1 imm) n ws →
        let s1 := s0.storeList false ws (leBytes n ((d.cur.f[rs2]).toNat % 2 ^ (8 * n)))
        exec (.rv64ScalarInstruction f (.fstore dbl rs1 rs2 imm)) s = .next (s1.pcBehind (bytesOf f))
        ∧ StoreFrame s0 s1 false ws)

/-- R56, R188: LR, SC and AMOs flush the scalar agent's buffers for aq and rl, and with rl wait while a store of it is held
back. LR loads and watches the granule of its address; SC stores and gives 0 while that watch stands, gives 1 and stores
nothing else, and ends it; AMOs store the new value and give the old one, sign-extended. What the granule is, and that an SC
to the same granule succeeds, is log 14 (DESIGN CHOICE). -/
def Obligations.ScalarAtomics : Prop :=
  ∀ (f : Form) (dbl aq rl : Bool) (rd rs1 rs2 : Reg) (s : State), ScalarIssue s [.control, .vector] false →
    let n := if dbl then 8 else 4
    let d := if aq || rl then s.delivered.flushCur true false else s.delivered
    let a := s.delivered.cur.getX rs1
    let y := (s.delivered.cur.getX rs2).toNat % 2 ^ (8 * n)
    let sx (x : Nat) : Word := (BitVec.ofNat (8 * n) x).signExtend 64
    a.toNat % n = 0 →
    (rl = true → StandsBy d true false → ∀ i ∈ [Scalar.lr dbl aq rl rd rs1, .sc dbl aq rl rd rs1 rs2] ++
        [AmoOp.swap, .add, .xor, .and, .or, .min, .max, .minu, .maxu].map fun op => .amo op dbl aq rl rd rs1 rs2,
      Waits (.rv64ScalarInstruction f i) s d .fence)
    ∧ ((rl = true → ¬StandsBy d true false) → (∀ gr x s1, d.granule a n .load = .ok gr → d.load a n = .ok (x, s1) →
      exec (.rv64ScalarInstruction f (.lr dbl aq rl rd rs1)) s = .next (State.pcBehind
        { s1 with cur := { s1.cur.putX rd (sx x) with lrRes := some gr } } (bytesOf f)))
    ∧ (∀ gr x s1, d.granule a n .atomic = .ok gr → d.cur.lrRes = some gr → d.atomic a n (fun _ => some y) = .ok (x, s1) →
      exec (.rv64ScalarInstruction f (.sc dbl aq rl rd rs1 rs2)) s = .next (State.pcBehind
        { s1 with cur := { s1.cur.putX rd 0 with lrRes := none } } (bytesOf f)))
    ∧ (∀ gr x s1, d.granule a n .atomic = .ok gr → d.cur.lrRes ≠ some gr → d.atomic a n (fun _ => none) = .ok (x, s1) →
      exec (.rv64ScalarInstruction f (.sc dbl aq rl rd rs1 rs2)) s = .next (State.pcBehind
        { s1 with cur := { s1.cur.putX rd 1 with lrRes := none } } (bytesOf f)))
    ∧ ∀ op x s1, d.atomic a n (fun o => some ((match op with
          | .swap => BitVec.ofNat (8 * n) y
          | .add => BitVec.ofNat (8 * n) o + BitVec.ofNat _ y
          | .xor => BitVec.ofNat (8 * n) o ^^^ BitVec.ofNat _ y
          | .and => BitVec.ofNat (8 * n) o &&& BitVec.ofNat _ y
          | .or => BitVec.ofNat (8 * n) o ||| BitVec.ofNat _ y
          | .min => if (BitVec.ofNat (8 * n) y).slt (BitVec.ofNat _ o) then BitVec.ofNat _ y else BitVec.ofNat _ o
          | .max => if (BitVec.ofNat (8 * n) o).slt (BitVec.ofNat _ y) then BitVec.ofNat _ y else BitVec.ofNat _ o
          | .minu => if (BitVec.ofNat (8 * n) y).ult (BitVec.ofNat _ o) then BitVec.ofNat _ y else BitVec.ofNat _ o
          | .maxu => if (BitVec.ofNat (8 * n) o).ult (BitVec.ofNat _ y) then BitVec.ofNat _ y else BitVec.ofNat _ o
          : BitVec (8 * n))).toNat) = .ok (x, s1) →
      exec (.rv64ScalarInstruction f (.amo op dbl aq rl rd rs1 rs2)) s = .next (State.pcBehind
        { s1 with cur := s1.cur.putX rd (sx x) } (bytesOf f)))

/-- R55, R57: the scalar F and D instructions, rounded by their rm field or `frm`. -/
def Obligations.ScalarFloat : Prop :=
  ∀ (f : Form) (s : State), ScalarIssue s [.control, .vector] false →
    let t := s.delivered.cur
    let fm (dbl : Bool) : Fmt := if dbl then fp64 else fp32
    let cmp (dbl : Bool) (rs1 rs2 : Reg) : FVal × FVal := ((fm dbl).val (t.fpArg dbl rs1), (fm dbl).val (t.fpArg dbl rs2))
    let writesX (op : Scalar) (rd : Reg) (v : Word) (fl : Nat) : Prop :=
      exec (.rv64ScalarInstruction f op) s = .next (State.pcBehind { s.delivered with cur :=
        { t.putX rd v with fflags := s.cur.fflags ||| BitVec.ofNat 5 fl } } (bytesOf f))
    (∀ (rm : Fin 8) (r : Round), FpRounds s.cur rm r → ∀ (dbl : Bool) (rd rs1 rs2 rs3 : Reg),
      let a := t.fpArg dbl rs1
      let b := t.fpArg dbl rs2
      let c := t.fpArg dbl rs3
      let w (op : Scalar) (v : Nat × Nat) : Prop := WritesF op s f dbl rd v.1 v.2
      w (.fbin .fadd dbl rm rd rs1 rs2) ((fm dbl).add r a b) ∧ w (.fbin .fsub dbl rm rd rs1 rs2) ((fm dbl).sub r a b)
      ∧ w (.fbin .fmul dbl rm rd rs1 rs2) ((fm dbl).mul r a b) ∧ w (.fbin .fdiv dbl rm rd rs1 rs2) ((fm dbl).div r a b)
      ∧ w (.fsqrt dbl rm rd rs1) ((fm dbl).sqrt r a)
      ∧ w (.fma .fmadd dbl rm rd rs1 rs2 rs3) ((fm dbl).fma r false false a b c)
      ∧ w (.fma .fmsub dbl rm rd rs1 rs2 rs3) ((fm dbl).fma r false true a b c)
      ∧ w (.fma .fnmsub dbl rm rd rs1 rs2 rs3) ((fm dbl).fma r true false a b c)
      ∧ w (.fma .fnmadd dbl rm rd rs1 rs2 rs3) ((fm dbl).fma r true true a b c)
      ∧ (∀ i : IFmt, w (.fcvtFromInt i dbl rm rd rs1) ((fm dbl).roundVal r (FVal.ofInt (xInt i (t.getX rs1)))))
      ∧ (∀ i : IFmt, writesX (.fcvtToInt i dbl rm rd rs1) rd (fToInt i r.rm ((fm dbl).val a)).1
          (fToInt i r.rm ((fm dbl).val a)).2)
      ∧ (dbl = false → w (.fcvtSD rm rd rs1)
          (fp32.out r (fp64.val (t.fpArg true rs1), if (fp64.val (t.fpArg true rs1)).isSnan then flNV else 0)))
      ∧ (dbl = true → w (.fcvtDS rm rd rs1)
          (fp64.out r (fp32.val (t.fpArg false rs1), if (fp32.val (t.fpArg false rs1)).isSnan then flNV else 0))))
    ∧ ∀ (dbl : Bool) (rd rs1 rs2 : Reg),
      let a := t.fpArg dbl rs1
      let b := t.fpArg dbl rs2
      WritesF (.fsgn .sgnj dbl rd rs1 rs2) s f dbl rd ((fm dbl).withSign a ((fm dbl).negative b)) 0
      ∧ WritesF (.fsgn .sgnjn dbl rd rs1 rs2) s f dbl rd ((fm dbl).withSign a (!(fm dbl).negative b)) 0
      ∧ WritesF (.fsgn .sgnjx dbl rd rs1 rs2) s f dbl rd
          ((fm dbl).withSign a ((fm dbl).negative a != (fm dbl).negative b)) 0
      ∧ (∀ isMax, WritesF (.fminmax isMax dbl rd rs1 rs2) s f dbl rd ((fm dbl).minmax isMax a b).1
          ((fm dbl).minmax isMax a b).2)
      ∧ writesX (.fcmp .feq dbl rd rs1 rs2) rd (if (cmp dbl rs1 rs2).1.eq (cmp dbl rs1 rs2).2 then 1 else 0)
          (nvQuiet (cmp dbl rs1 rs2).1 (cmp dbl rs1 rs2).2)
      ∧ writesX (.fcmp .flt dbl rd rs1 rs2) rd (if (cmp dbl rs1 rs2).1.lt (cmp dbl rs1 rs2).2 then 1 else 0)
          (nvLoud (cmp dbl rs1 rs2).1 (cmp dbl rs1 rs2).2)
      ∧ writesX (.fcmp .fle dbl rd rs1 rs2) rd (if (cmp dbl rs1 rs2).1.le (cmp dbl rs1 rs2).2 then 1 else 0)
          (nvLoud (cmp dbl rs1 rs2).1 (cmp dbl rs1 rs2).2)
      ∧ writesX (.fclass dbl rd rs1) rd (BitVec.ofNat 64 ((fm dbl).classify a)) 0
      ∧ writesX (.fmvXF dbl rd rs1) rd (if dbl then t.f[rs1] else ((t.f[rs1]).setWidth 32).signExtend 64) 0
      ∧ WritesF (.fmvFX dbl rd rs1) s f dbl rd (t.getX rs1).toNat 0

/-! ### Control and status registers, privilege, exceptions -/

/-- R28, R36, R59, R60, R64, R65: a read of a Quelan CSR gives its value with earlier replies delivered and vector
work complete, field by field where it has fields; a write sets the defined bits of VSTART, VRND, VFLAGS, VDIRTY and
KTHR; a write of VDIRTY zeroes each register whose bit becomes 0. With them `fflags`, `frm` and `fcsr`. -/
def Obligations.QuelanCsrs : Prop :=
  (∀ (a : FCsr) (s : State), Issues s anyCls [] →
    let t : Strand := { s.delivered.cur with vq := 0 }
    let d : State := { s.delivered with cur := t }
    let old := d.quelanRead a.csr.toNat
    let src : Word := if a.imm then BitVec.ofNat 64 a.src.val else t.getX a.src
    let new : Word := match a.op with | .rw => src | .rs => old ||| src | .rc => old &&& ~~~src
    let ends (u : Strand) : Prop :=
      exec (.quelanCsrAccess a) s = .next (State.pcBehind { d with cur := u.setX a.rd old } 4)
    (a.writes = false → ends t)
    ∧ (a.writes = true → a.csr = 0x800 → ends { t with vstart := (new.setWidth 12).toNat })
    ∧ (a.writes = true → a.csr = 0x801 → ends { t with vrnd := new.setWidth 4 })
    ∧ (a.writes = true → a.csr = 0x802 → ends { t with vflags := new.setWidth 6 })
    ∧ (a.writes = true → a.csr = 0x803 → ∃ v', (∀ r : Fin 32, v'[r] = if new.getLsbD r.val then t.v[r] else 0) ∧
        let u : Strand := { t with vdirty := new.setWidth 32, v := v' }
        ends u ∧ exec (.vdirtyWrite a) s = .next (State.pcBehind { d with cur := u.setX a.rd old } 4))
    ∧ (a.writes = true → a.csr = 0x804 → ends { t with kthr := new.setWidth 13 })
    ∧ (∀ n, n = a.csr.toNat →
        (n = 0x800 → old = BitVec.ofNat 64 s.cur.vstart) ∧ (n = 0x801 → old = s.cur.vrnd.setWidth 64)
        ∧ (n = 0x802 → old = s.cur.vflags.setWidth 64) ∧ (n = 0x803 → old = s.cur.vdirty.setWidth 64)
        ∧ (n = 0x804 → old = s.cur.kthr.setWidth 64) ∧ (n = 0xCC0 → old = BitVec.ofNat 64 s.cur.vl)
        ∧ (n = 0xCC1 → old = s.cur.vtype) ∧ (n = 0xCC2 → old = BitVec.ofNat 64 (1024 * s.cur.g))
        ∧ (n = 0xCC5 → old = BitVec.ofNat 64 s.cur.gx) ∧ (n = 0xCC6 → old = BitVec.ofNat 64 s.cur.gy)
        ∧ (n = 0xCC7 → old = BitVec.ofNat 64 s.cur.gz) ∧ (n = 0xCC8 → old = BitVec.ofNat 64 s.cur.stage)
        ∧ (n = 0xCC9 → old = BitVec.ofNat 64 s.cur.six) ∧ (n = 0xCCB → old = BitVec.ofNat 64 s.cur.core)
        ∧ (n = 0xCCC → old = 0x02000200) ∧ (n = 0xCD0 → old = s.cur.migcnt) ∧ (n = 0xCD1 → old = BitVec.ofNat 64 s.cur.lid)
        ∧ (n = 0xCC3 → s.cur.g ≤ 4 → old.extractLsb' 0 3 = BitVec.ofNat 3 s.cur.g ∧ old.getLsbD 3 = s.cur.nr
            ∧ old.getLsbD 4 = s.cur.short ∧ old.extractLsb' 5 59 = 0)
        ∧ (n = 0xCC4 → s.cur.glin < 2 ^ 24 → s.cur.stage < 8 → s.cur.six < 16 →
            old.extractLsb' 8 24 = BitVec.ofNat 24 s.cur.glin ∧ old.getLsbD 7 = false
            ∧ old.extractLsb' 4 3 = BitVec.ofNat 3 s.cur.stage ∧ old.extractLsb' 0 4 = BitVec.ofNat 4 s.cur.six
            ∧ old.extractLsb' 32 32 = 0)
        ∧ (n = 0xCCA → old = match s.cur.cls with | .control => 1 | .vector => 2 | .array => 3)
        ∧ (n = 0xCCD → (s.core s.cur.core).engine.length ≤ 2 →
            (old.extractLsb' 0 2).toNat = (if s.cur.cls = .control then 0 else 2 - (s.core s.cur.core).engine.length)
            ∧ old.extractLsb' 2 6 = 0 ∧ old.extractLsb' 16 48 = 0
            ∧ (old.extractLsb' 8 8).toNat =
                min 255 ((s.cores.map fun c => (c.engine.filter fun k => k.uid == s.cur.uid).length).sum))
        ∧ (n = 0xCCE → s.cur.inbox.length ≤ 64 →
            (old.extractLsb' 16 7).toNat = s.cur.inbox.length ∧ old.extractLsb' 23 41 = 0
            ∧ ∀ c : QReg, old.getLsbD c.val = s.cur.inbox.any fun m => m.ch == c)
        ∧ (n = 0xCCF → old = if s.cur.cls = .vector then
            BitVec.ofNat 64 ((s.core s.cur.core).lines.filter fun l => l.owner == some s.cur.slot).length else 0)
        ∧ (n = 0xCD2 → old = if s.cur.cls = .vector then ((s.core s.cur.core).wmask.getD s.cur.slot 0).setWidth 64 else 0xFFFF)))
  ∧ ∀ (f : Form) (a : FCsr) (s : State), ScalarIssue s [.control, .vector] false →
    let t := s.delivered.cur
    let src : Word := if a.imm then BitVec.ofNat 64 a.src.val else t.getX a.src
    let new (old : Word) : Word := match a.op with | .rw => src | .rs => old ||| src | .rc => old &&& ~~~src
    let ends (old : Word) (u : Strand) : Prop :=
      exec (.rv64ScalarInstruction f (.csr a)) s = .next (State.pcBehind
        { s.delivered with cur := (if a.writes then u else t).putX a.rd old } (bytesOf f))
    let fc : Word := t.frm.setWidth 64 <<< 5 ||| t.fflags.setWidth 64
    (a.csr = 1 → ends (t.fflags.setWidth 64) { t with fflags := (new (t.fflags.setWidth 64)).setWidth 5 })
    ∧ (a.csr = 2 → ends (t.frm.setWidth 64) { t with frm := (new (t.frm.setWidth 64)).setWidth 3 })
    ∧ (a.csr = 3 → ends fc { t with fflags := (new fc).setWidth 5, frm := (new fc).extractLsb' 5 3 })

/-- R56 and log 6 (the privileged architecture of the family): returns from traps, `wfi`, `sfence.vma` and the privileged
CSRs in the modes that may use them. -/
def Obligations.PrivilegedInstructions : Prop :=
  ∀ (f : Form) (s : State), ScalarIssue s anyCls false →
    let d := s.delivered
    let c := s.csrs
    let st (i : Nat) : Bool := c.mstatus.getLsbD i
    let run (op : Scalar) (t : State) : Prop := exec (.rv64ScalarInstruction f op) s = .next t
    ((s.cur.mode = .m ∨ (s.cur.mode = .s ∧ st 22 = false)) → ∃ c' : Csrs,
      c' = { c with mstatus := c'.mstatus } ∧ c'.mstatus.getLsbD 1 = st 5 ∧ c'.mstatus.getLsbD 5 = true
      ∧ c'.mstatus.getLsbD 8 = false ∧ c'.mstatus.getLsbD 17 = false
      ∧ (∀ i, i < 64 → i ≠ 1 → i ≠ 5 → i ≠ 8 → i ≠ 17 → c'.mstatus.getLsbD i = st i)
      ∧ run .sret { d.putCsrs c' with cur := { d.cur with mode := if st 8 then .s else .u, pc := c.sepc } })
    ∧ (s.cur.mode = .m → c.mstatus.extractLsb' 11 2 ≠ 2 → ∃ c' : Csrs,
      c' = { c with mstatus := c'.mstatus } ∧ c'.mstatus.getLsbD 3 = st 7 ∧ c'.mstatus.getLsbD 7 = true
      ∧ c'.mstatus.extractLsb' 11 2 = 0
      ∧ c'.mstatus.getLsbD 17 = (st 17 && (c.mstatus.extractLsb' 11 2 == 3))
      ∧ (∀ i, i < 64 → i ≠ 3 → i ≠ 7 → i ≠ 11 → i ≠ 12 → i ≠ 17 → c'.mstatus.getLsbD i = st i)
      ∧ run .mret { d.putCsrs c' with cur := { d.cur with
          mode := if c.mstatus.extractLsb' 11 2 = 0 then .u else if c.mstatus.extractLsb' 11 2 = 1 then .s else .m
          pc := c.mepc } })
    ∧ ((s.cur.mode = .m ∨ (s.cur.mode = .s ∧ st 21 = false)) →
      (d.mip ≠ 0 → run .wfi (d.pcBehind (bytesOf f)))
      ∧ (d.mip = 0 → run .wfi { d with cur := { d.cur with status := .waiting .interrupt } }))
    ∧ ((s.cur.mode = .m ∨ (s.cur.mode = .s ∧ st 20 = false)) →
      ∀ rs1 rs2, run (.sfenceVma rs1 rs2) (d.pcBehind (bytesOf f)))
    ∧ ∀ a : FCsr, s.csrAllowed a = true → a.csr.toNat ≠ 1 → a.csr.toNat ≠ 2 → a.csr.toNat ≠ 3 →
      ∀ old, d.privRead a.csr.toNat = some old →
      let src : Word := if a.imm then BitVec.ofNat 64 a.src.val else d.cur.getX a.src
      let new : Word := match a.op with | .rw => src | .rs => old ||| src | .rc => old &&& ~~~src
      let s' := if a.writes then d.putCsrs (c.write a.csr.toNat new) else d
      run (.csr a) (State.pcBehind { s' with cur := s'.cur.putX a.rd old } (bytesOf f))

/-- R53, R56, R274, R279: `ecall` and `ebreak`. On a vector or array core the strand stops to trap with cause 3. On a control
core the trap is precise and goes to S-mode from U-mode, and from S-mode as `medeleg` says (log 6): the pc is saved, the
cause written, the mode and the interrupt enable stacked, the pc at the vector. The address and the access bits of the page
record are 0 (log 37); a trap ends the LR reservation (log 14). -/
def Obligations.EnvironmentCalls : Prop :=
  ∀ (s : State), s.cur.fork = none →
    let d := s.delivered
    let c := s.csrs
    let rows : List (Instr × Nat) := [(.ecall, match s.cur.mode with | .u => 8 | .s => 9 | .m => 11), (.ebreak, 3)]
    ∀ r ∈ rows,
      (s.cur.cls ≠ .control → exec r.1 s = .next { d with cur := { d.cur with
        status := .trapping { cause := 3, cls := 0, pages := [(0, 3, 0)], entry := none } } })
      ∧ (s.cur.cls = .control → (s.cur.mode = .u ∨ (s.cur.mode = .s ∧ c.medeleg.getLsbD r.2 = true)) → ∃ c' : Csrs,
        c' = { c with sepc := s.cur.pc, scause := BitVec.ofNat 64 r.2, stval := 0, mstatus := c'.mstatus }
        ∧ c'.mstatus.getLsbD 8 = decide (s.cur.mode ≠ .u) ∧ c'.mstatus.getLsbD 5 = c.mstatus.getLsbD 1
        ∧ c'.mstatus.getLsbD 1 = false
        ∧ (∀ i, i < 64 → i ≠ 1 → i ≠ 5 → i ≠ 8 → c'.mstatus.getLsbD i = c.mstatus.getLsbD i)
        ∧ exec r.1 s = .next { d.putCsrs c' with cur := { d.cur with
            mode := .s, pc := c.stvec &&& 0xFFFFFFFFFFFFFFFC, status := .running, lrRes := none } })
      ∧ (s.cur.cls = .control → (s.cur.mode = .m ∨ (s.cur.mode = .s ∧ c.medeleg.getLsbD r.2 = false)) → ∃ c' : Csrs,
        c' = { c with mepc := s.cur.pc, mcause := BitVec.ofNat 64 r.2, mtval := 0, mstatus := c'.mstatus }
        ∧ (c'.mstatus.extractLsb' 11 2).toNat = (if s.cur.mode = .m then 3 else 1)
        ∧ c'.mstatus.getLsbD 7 = c.mstatus.getLsbD 3 ∧ c'.mstatus.getLsbD 3 = false
        ∧ (∀ i, i < 64 → i ≠ 3 → i ≠ 7 → i ≠ 11 → i ≠ 12 → c'.mstatus.getLsbD i = c.mstatus.getLsbD i)
        ∧ exec r.1 s = .next { d.putCsrs c' with cur := { d.cur with
            mode := .m, pc := c.mtvec &&& 0xFFFFFFFFFFFFFFFC, status := .running, lrRes := none } })

/-- R24, R41, R53, R55, R56, R59, R82, R133, R279, R280: where an instruction of U-mode does not complete. Every
instruction of the opcode map and of the scalar base on a class that does not implement it: the carrier is asked to move
the strand, in the order of the requests, or, when no core of a class that does is in service, or for a strand that is
pinned, the launch fault of its class stops it, and on a control core kills its launch. Every instruction that no lane
thread may execute: launch fault 0x04 of a lane thread. A supervisor instruction, or one privileged by its CSR, or one that
would read no format under EW 100 with FAM 01: illegal, precise on a control core, a stop with class 0x01 elsewhere. The
address and the access bits of a fault without an address are 0 (log 37). -/
def Obligations.IssueExceptions : Prop :=
  ∀ (s : State), s.cur.mode = .u → s.cur.system = false →
    let stop (d : State) (cls : Nat) : State :=
      { d with cur := { d.cur with status := .trapping { cause := 2, cls := cls, pages := [(0, 2, 0)], entry := none } } }
    let d := s.delivered
    let fault (d : State) (cls : Nat) : State := if s.cur.cls = .control then d.killFault s.cur.lid cls else stop d cls
    let misses (i : Instr) (d : State) (cs : List Cls) : Prop :=
      s.cur.fork = none → s.cur.cls ∉ cs →
      (s.cur.pinned = false → (∃ c ∈ cs, s.classPresent c = true) → exec i s = .next { d with
        nextAsk := s.nextAsk + 1, cur := { d.cur with status := .moving (.classes cs), asked := s.nextAsk } })
      ∧ ((∀ c ∈ cs, s.classPresent c = false) → exec i s = .next (fault d 0x02))
      ∧ (s.cur.pinned = true → (∃ c ∈ cs, s.classPresent c = true) → exec i s = .next (fault d 0x03))
    (∀ i cs, classTable i = some cs →
      misses i (if gateFirst i then s else d) cs)
    ∧ (∀ f op cs, scalarClassTable op = some cs → misses (.rv64ScalarInstruction f op) s cs)
    ∧ (s.cur.fork.isSome = true → s.cur.cls = .vector → s.cur.replyQ = [] →
        ∀ i, (encode i).isSome = true → laneRuns i = false → exec i s = .next (stop s 0x04))
    ∧ (s.cur.fork = none → s.cur.cls = .vector → s.cur.kdPend = [] → s.cur.vill = false → s.cur.ew = 4 →
        vtFam s.cur.vtype = 1 → ∀ (rd base : Reg) (k : MReg) (vm : Bool),
        exec (.kpop rd k) s = .next (stop s 0x01) ∧ exec (.kfirst rd k) s = .next (stop s 0x01)
        ∧ exec (.kld k base) s = .next (stop d 0x01) ∧ exec (.kst k base) s = .next (stop d 0x01)
        ∧ exec (.lfork vm) s = .next (stop { d with cur := { d.cur with vq := 0 } } 0x01))
    ∧ (s.cur.cls ≠ .control → s.cur.fork = none → ∀ rs1 rs2, exec (.latw rs1 rs2) s = .next (stop s 0x01)
        ∧ exec (.bkrd 1 rs1 rs2) s = .next (stop s 0x01) ∧ exec (.thrset rs1 rs2) s = .next (stop s 0x01)
        ∧ exec (.rv64ScalarInstruction .full .mret) s = .next (stop s 0x01)
        ∧ exec (.rv64ScalarInstruction .full .sret) s = .next (stop s 0x01))
    ∧ (s.cur.cls = .control → s.cur.fork = none → ∀ rs1 rs2, exec (.latw rs1 rs2) s = .next (s.trapS false 2 0)
        ∧ exec (.bkrsm rs1) s = .next (s.trapS false 2 0) ∧ exec (.frqpop rs1 rs2) s = .next (s.trapS false 2 0)
        ∧ exec (.rv64ScalarInstruction .full .mret) s = .next (s.trapS false 2 0))

/-! ### Order, groups, messages -/

/-- R184, R185, R187, R188, R200, R202, R216, R305: every fence flushes the write-combining buffers of the agents it orders,
whatever its sets, and a flush puts each buffered byte where it belongs and changes no other; that of a buffer that the
sweep or a page move holds back stands by, and the fence waits for it. One of the vector agent also lands the strips it has
on their way. `ord.vs`, `ord.vv` and `ord.all` at package scope or beyond complete once every vector store and atomic
element is performed there, and wait till then. What else fences order, accesses taking place one at a time in one order
already do (log 3); no prefetched instruction is held for `fence.i` to discard (log 12). -/
def Obligations.Fences : Prop :=
  (∀ (s : State) (scalar vector : Bool),
    let bs := (if scalar then s.cur.wcS else []) ++ if vector then s.cur.wcV else []
    MemWf s → StoresOpen s [] bs →
    let s' := s.flushCur scalar vector
    (scalar = true → s'.cur.wcS = []) ∧ (vector = true → s'.cur.wcV = [])
    ∧ SameOutside s s' (InBuffers bs)
    ∧ ∀ b ∈ bs, ∀ c ∈ b.cells, (∀ b' ∈ bs, b'.space = b.space → ∀ c' ∈ b'.cells, c'.1 = c.1 → c' = c) →
        (s'.space b.space).get c.1 = c.2)
  ∧ (∀ (s : State) (b : WcBuf) (vec : Bool), s.backHeld b = true →
      s.flushBuf b s.cur vec = { s with coh := { s.coh with stalled := s.coh.stalled ++ b.cells.map fun c =>
        { stack := 0, dla := c.1, lid := s.cur.lid, write := some [c.2], key := b.key, uid := s.cur.uid, combined := some vec } } })
  ∧ (∀ (s : State) (o : Strand) (q cq : QReg) (h k : Stream) (scalar : Bool), s.others = [o] → o.uid ≠ s.cur.uid →
      s.cur.q[q] = some h → h.kind = 2 → h.mate = some (o.uid, cq) → o.q[cq] = some k →
      (∀ r : QReg, r ≠ q → ∀ g, s.cur.q[r] = some g → g.kind ≠ 2) →
      ∀ p g, (s.flushCur scalar true).others = [p] → p.q[cq] = some g → g.wire = [])
  ∧ ∀ s : State,
    let f (i : Instr) (scalar vector : Bool) (last : Prop) : Prop :=
      let sF := s.delivered.flushCur scalar vector
      (last → ¬StandsBy sF scalar vector → exec i s = .next (sF.pcBehind 4))
      ∧ ((¬last ∨ StandsBy sF scalar vector) → Waits i s sF .fence)
    let performed : Prop := s.cur.g = 0 ∨ s.cur.cls = .control ∨ ∀ i : Fin 32, s.cur.pend[i] = 0
    let vec (i : Instr) (sc : Fin 5) (scalar : Bool) : Prop := f i scalar true (sc.val < 3 ∨ performed)
    (∀ sc, vec (.ordVv sc) sc false)
    ∧ (s.cur.fork = none → (∀ sc, f (.ordSv sc) true false True ∧ vec (.ordVs sc) sc false ∧ vec (.ordAll sc) sc true)
        ∧ f .fenceTso true false True
        ∧ (s.cur.cls = .control → f .fenceI true false True)
        ∧ ∀ (fm pred succ : Fin 16) (rs1 rd : Reg), f (.fence fm pred succ rs1 rd) true false True)

/-- R189, R201, R202, R203: `bar` releases, waiting while a store of the strand is held back, and completes for the whole
group when every other strand of it has arrived, else it waits; that of system code, which belongs to no group, passes (log
31); `phend` completes when every store and atomic element of every lane is performed, none of them held back; `wfe` takes
the latch, or waits; `sev` sets the latch of the strand its STRANDID names. -/
def Obligations.BarriersAndEvents : Prop :=
  ∀ s : State, s.cur.fork = none →
    let d := s.delivered
    let sF := d.flushCur true true
    let sV := d.flushCur false true
    let open' : Prop := ¬StandsBy sF true true
    (StandsBy sF true true → Waits .bar s sF .fence)
    ∧ (open' → s.cur.system = true → exec .bar s = .next (sF.pcBehind 4))
    ∧ (open' → s.cur.system = false → (∀ o ∈ s.others, InGroup s o → o.barK = s.cur.barK ∧ o.barArrived = true) →
        ∃ os : List Strand, os.length = sF.others.length
          ∧ (∀ (i : Nat) (o : Strand), sF.others[i]? = some o →
              (InGroup s o → os[i]? = some o.pastBarrier) ∧ (¬InGroup s o → os[i]? = some o))
          ∧ exec .bar s = .next { sF with others := os, cur := { sF.cur with
              barK := s.cur.barK + 1, barArrived := false, status := .running, pc := s.cur.pc + 4 } })
    ∧ (open' → s.cur.system = false → (∀ o ∈ s.others, InGroup s o → o.barK = s.cur.barK) →
        (∃ o ∈ s.others, InGroup s o ∧ o.barArrived = false) →
        exec .bar s = .next { sF with cur := { sF.cur with barArrived := true, status := .waiting .barrier } })
    ∧ ((s.cur.g = 0 ∨ s.cur.cls = .control ∨ ∀ i : Fin 32, s.cur.pend[i] = 0) → ¬StandsBy sV false true →
        exec .phend s = .next (sV.pcBehind 4))
    ∧ ((StandsBy sV false true ∨ s.cur.g ≠ 0 ∧ s.cur.cls ≠ .control ∧ ∃ i : Fin 32, s.cur.pend[i] ≠ 0) →
        Waits .phend s sV .phaseEnd)
    ∧ (s.cur.latch = true → exec .wfe s = .next (State.pcBehind { d with cur := { d.cur with latch := false } } 4))
    ∧ (s.cur.latch = false → exec .wfe s = .next { d with cur := { d.cur with status := .waiting .event } })
    ∧ ∀ (rs1 : Reg) (l : Launch), s.cur.system = false → s.launch s.cur.lid = some l →
        let w := (d.cur.getX rs1).toNat
        l.sidOk w = true →
        (∀ t, d.strandAt l.lid (w / 2 ^ 8 % 2 ^ 24) (w / 2 ^ 4 % 8) (w % 16) = some t →
          exec (.sev rs1) s = .next ((d.updStrand t.uid fun t => { t with latch := true }).pcBehind 4))
        ∧ (d.strandAt l.lid (w / 2 ^ 8 % 2 ^ 24) (w / 2 ^ 4 % 8) (w % 16) = none →
          exec (.sev rs1) s = .next (d.pcBehind 4))

/-- R189, R204, R205, R206, R207: `send` flushes the scalar agent's buffers, waits while a store of it is held back, and
puts a message with its header at the end of the target's inbox when there is room, else, and where the target is not placed
yet, in the launch's overflow pool, where it takes a free entry of 32 bytes whose layout the spec does not give (log 57),
or, with the pool full, ends in launch fault 0x0E; one to a strand that has exited comes back; `recv` and `recvnb` take the
oldest message of a channel into a register pair; without one `recv` waits and `recvnb` gives zeroes. -/
def Obligations.Messages : Prop :=
  ∀ s : State, s.cur.fork = none →
    let d := s.delivered
    (∀ (rs1 rs2 : Reg) (ch : QReg) (l : Launch), s.cur.system = false → s.launch s.cur.lid = some l →
      let w := (d.cur.getX rs1).toNat
      let sF := d.flushCur true false
      let m : Msg := { ch := ch, payload := d.cur.getX rs2
                       hdr := BitVec.ofNat 64 (2 ^ 60 + ch.val * 2 ^ 56 +
                         (s.cur.glin * 256 + s.cur.stage * 16 + s.cur.six) % 2 ^ 32) }
      l.sidOk w = true → (StandsBy sF true false → Waits (.send rs1 rs2 ch) s sF .fence)
      ∧ (¬StandsBy sF true false →
      let glin := w / 2 ^ 8 % 2 ^ 24
      let target := sF.strandAt l.lid glin (w / 2 ^ 4 % 8) (w % 16)
      let dispatched : Prop := glin ∈ l.placed ∨ glin ∈ l.retired
      (∀ t, target = some t → sF.canDeliver l t ch = true → exec (.send rs1 rs2 ch) s = .next ((sF.updStrand t.uid fun t =>
            { t with inbox := t.inbox ++ [m] }).pcBehind 4))
      ∧ (((∃ t, target = some t ∧ sF.canDeliver l t ch = false) ∨ (target = none ∧ ¬dispatched)) →
        (l.pool.length < l.lrec.ovflN →
          let h : HeldMsg := { glin := glin, stage := w / 2 ^ 4 % 8, six := w % 16, msg := m, slot := 0 }
          exec (.send rs1 rs2 ch) s = .next ((sF.hold l h).pcBehind 4)
          ∧ ∃ k, k < l.lrec.ovflN ∧ (∀ o ∈ l.pool, o.slot ≠ k)
            ∧ (sF.hold l h).lu = (sF.updLaunch l.lid fun l => { l with pool := l.pool ++ [{ h with slot := k }] }).lu)
        ∧ (l.lrec.ovflN ≤ l.pool.length → s.cur.mode = .u → s.cur.cls ≠ .control →
          exec (.send rs1 rs2 ch) s = .next { sF with cur := { sF.cur with
            status := .trapping { cause := 2, cls := 0x0E, pages := [(0, 2, 0)], entry := none } } }))
      ∧ (target = none → dispatched → exec (.send rs1 rs2 ch) s = .next (State.pcBehind { sF with wire := sF.wire ++
          [{ lid := s.cur.lid, glin := s.cur.glin, stage := s.cur.stage, six := s.cur.six
             msg := { ch := 0, payload := d.cur.getX rs2
                      hdr := BitVec.ofNat 64 (8 * 2 ^ 60 + ch.val * 2 ^ 56 + w % 2 ^ 32) } }] } 4))))
    ∧ ∀ (rd : Reg) (ch : QReg), rd.val % 2 = 0 → rd ≠ 0 →
      let pair (i : Instr) (h p : Word) (inbox : List Msg) : Prop :=
        exec i s = .next (State.pcBehind
          { d with cur := { (d.cur.setX rd h).setX (rd + 1) p with inbox := inbox } } 4)
      (∀ (before after : List Msg) (m : Msg), s.cur.inbox = before ++ m :: after → m.ch = ch → (∀ o ∈ before, o.ch ≠ ch) →
        pair (.recv rd ch) m.hdr m.payload (before ++ after) ∧ pair (.recvnb rd ch) m.hdr m.payload (before ++ after))
      ∧ ((∀ o ∈ s.cur.inbox, o.ch ≠ ch) →
        pair (.recvnb rd ch) 0 0 s.cur.inbox
        ∧ exec (.recv rd ch) s = .next { d with cur := { d.cur with status := .waiting (.message ch) } })

/-- R189, R208 to R213, R215, R303: `frz` waits while a store of its strand is held back; over pages that hold no device
memory, or a range it does not allow, gives its status, and waits while the sweep or a page move holds an entry of its
tables back; else the freeze begins, not to be interrupted, and its freeze point, which waits while a page of it is being
collected or a write-back to one stands by, makes the entry, turns every tracked copy of its pages into a reference copy and
writes the handle; what stalled on them, requests and the host's accesses, comes again next. Of two freezes that met one
free entry the second gets the status of none (log 66). `thaw` starts the thaw, whose message is posted to nobody for system
code (log 31); `thaww` waits while the handle stands; `frzq` gives the state, count and handle of a page. -/
def Obligations.Freezing : Prop :=
  (∀ s : State, Issues s clsFreeze [] →
    let d := s.delivered
    let sF := d.flushCur true true
    (∀ rd rs1 rs2 : Reg,
      let a := (sF.cur.getX rs1).toNat
      let n := (sF.cur.getX rs2).toNat
      let gives (st : Word) : Prop := exec (.frz rd rs1 rs2) s = .next (State.pcBehind { sF with cur := sF.cur.setX rd st } 4)
      (StandsBy sF true true → Waits (.frz rd rs1 rs2) s sF .fence)
      ∧ (¬StandsBy sF true true →
      let ranged := a % 65536 = 0 ∧ canonical a = true ∧ n ≠ 0 ∧ n % 65536 = 0 ∧ n ≤ 2 ^ 40
      (¬ranged → gives 0x8000000000000001)
      ∧ (ranged → sF.freeEntry = none → gives 0x8000000000000002)
      ∧ (ranged → sF.freeEntry.isSome = true →
        let walks := sF.rangeWalk a n
        (.held ∈ walks → exec (.frz rd rs1 rs2) s = .next { sF with cur := { sF.cur with status := .waiting .store } })
        ∧ (.held ∉ walks → .none ∈ walks → gives 0x8000000000000003)
        ∧ ∀ ps : List Nat, walks = ps.map DevPage.page → exec (.frz rd rs1 rs2) s = .next
          { sF with cat := { sF.cat with
                      jobs := sF.cat.jobs ++ [{ uid := s.cur.uid, ctx := s.cur.ctx, pages := ps.eraseDups, rd := rd }] }
                    cur := { sF.cur with status := .freezing } })))
    ∧ (∀ (rs1 : Reg) (ch : QReg) (e : FrzEntry), d.entryOf s.cur.ctx (d.cur.getX rs1) = some e → e.thawing = false →
      exec (.thaw rs1 ch) s = .next ((d.startThaw e ch
        (if s.cur.system then none else some (s.cur.lid, s.cur.glin, s.cur.stage, s.cur.six))).pcBehind 4))
    ∧ (∀ rs1 : Reg, (d.entryOf s.cur.ctx (d.cur.getX rs1) = none → exec (.thaww rs1) s = .next (d.pcBehind 4))
      ∧ ∀ e, d.entryOf s.cur.ctx (d.cur.getX rs1) = some e →
          exec (.thaww rs1) s = .next { d with cur := { d.cur with status := .waiting .thaw } })
    ∧ ∀ rd rs1 : Reg,
      let gives (w : Word) : Prop := exec (.frzq rd rs1) s = .next (State.pcBehind { d with cur := d.cur.setX rd w } 4)
      (d.devicePage (d.cur.getX rs1).toNat = .none → gives 0xC000000000000000)
      ∧ (d.devicePage (d.cur.getX rs1).toNat = .held →
          exec (.frzq rd rs1) s = .next { d with cur := { d.cur with status := .waiting .store } })
      ∧ ∀ p, d.devicePage (d.cur.getX rs1).toNat = .page p → d.freezeCount p < 2 ^ 14 → ∃ w : Word, gives w
        ∧ (w.extractLsb' 62 2).toNat = (if d.freezeCount p > 0 then 1 else if d.collecting p then 2 else 0)
        ∧ (w.extractLsb' 48 14).toNat = d.freezeCount p
        ∧ (∀ e, (d.cat.entries.find? fun e => e.ctx == s.cur.ctx && e.pages.contains p) = some e →
            w.setWidth 48 = (handleWord e.gen e.idx).setWidth 48))
  ∧ (∀ (s : State) (j : FrzJob), s.cat.jobs.find? (fun j => j.uid == s.arg.uid) = some j → j.uid = s.cur.uid →
      (s.launch s.cur.lid).bind (·.dying) = none → (∃ p ∈ j.pages, s.collecting p = true) → exec .freezePoint s = .next s)
  ∧ ∀ (s : State) (j : FrzJob), s.cat.jobs.find? (fun j => j.uid == s.arg.uid) = some j → j.uid = s.cur.uid →
      (s.launch s.cur.lid).bind (·.dying) = none → (∀ p ∈ j.pages, s.collecting p = false) →
      let stands : Prop := ∃ r ∈ s.coh.stalled, r.combined.isSome = true ∧ pageOf r.dla ∈ j.pages
      let open' : Prop := ¬stands ∧ ∀ t ∈ s.strands, ∀ b ∈ t.wcS ++ t.wcV, s.backHeld b = false
      let done (t : State) (w : Word) : Prop := exec .freezePoint s = .next t ∧ t.cur.status = .running
        ∧ t.cur.pc = s.cur.pc + 4 ∧ t.cur.x = (s.cur.setX j.rd w).x ∧ (∀ k ∈ t.cat.jobs, k.uid ≠ j.uid)
        ∧ (∀ r ∈ s.coh.stalled, pageOf r.dla ∈ j.pages → r ∉ t.coh.stalled ∧ ∃ e ∈ t.agenda, e.row = .memoryRequestArrival
            ∧ e.arg.memReq = { r with stack := s.mem.stackOf (r.dla / 4096) })
        ∧ ∀ r ∈ s.coh.hostReqs, pageOf r.addr ∈ j.pages → r ∉ t.coh.hostReqs ∧ ∃ e ∈ t.agenda,
            e.row = (if r.write.isSome then .hostCxlMemWrite else .hostCxlMemRead) ∧ e.arg.addr = r.addr ∧ e.arg.n = r.n
            ∧ e.arg.bytes = r.write.getD []
      (stands → ∃ t : State, exec .freezePoint s = .next t ∧ t.cat = s.cat ∧ t.cur.status = s.cur.status
        ∧ t.cur.pc = s.cur.pc ∧ t.cur.x = s.cur.x)
      ∧ (open' → s.freeEntry = none → ∃ t, done t 0x8000000000000002 ∧ t.cat.entries = s.cat.entries)
      ∧ ∀ i, open' → s.freeEntry = some i → ∃ t : State, done t (handleWord (s.nextGen i) i)
        ∧ (∀ c ∈ t.cores, ∀ l ∈ c.lines, l.space = .dev → l.line / 512 ∈ j.pages → l.coh = .z)
        ∧ (∀ d ∈ t.coh.dir, d.space = .dev → d.line / 512 ∉ j.pages)
        ∧ ∃ e ∈ t.cat.entries, e.idx = i ∧ e.ctx = j.ctx ∧ e.pages = j.pages ∧ e.gen = s.nextGen i ∧ e.thawing = false

/-! ### Supervisor instructions -/

/-- R189, R271, R280 to R283, R285 to R287, R293: in S-mode and M-mode `bkrd` reads a word of the bookmark its token names,
or gives an error word; `bkrsm` resumes or kills what its token names, a strand or a paused copy engine (log 32), with class
0x17 for a class that is 0 or no code of R271 (log 62), and does nothing for a stale token; it waits while a store of its
strand is held back, to resume a unit whose batch still waits for room, and while a replay must wait (log 49); `frqpop`
stores the oldest fault record of its die and gives the number left, or all ones; `latw` writes an entry of the lane
allocation table whose grants may change, the strands' grants following; `thrset` writes an entry of the thermal ranking
table. -/
def Obligations.SupervisorInstructions : Prop :=
  (∀ (b : Bookmark), b.word 0x000 = b.token ∧ b.word 0x008 = b.lid ∧ b.word 0x018 = b.pc ∧ b.word 0x020 = b.lpc
    ∧ b.word 0x030 = b.vtype ∧ b.word 0x038 = BitVec.ofNat 64 b.vl
    ∧ ∀ i : Fin 32, b.word (0x100 + 8 * i.val) = b.xreg[i])
  ∧ ∀ (s : State), Issues s clsC [] → s.cur.mode ≠ .u →
    let d := s.delivered
    let gives (i : Instr) (rd : Reg) (u : State) (w : Word) : Prop :=
      exec i s = .next (State.pcBehind { u with cur := u.cur.putX rd w } 4)
    (∀ rd rs1 rs2 : Reg,
      let off := (d.cur.getX rs2).toNat
      ((off % 8 ≠ 0 ∨ 9728 ≤ off) → gives (.bkrd rd rs1 rs2) rd d 0x8000000000000001)
      ∧ (off % 8 = 0 → off < 9728 →
        (d.tokenUnit (d.cur.getX rs1) = none → gives (.bkrd rd rs1 rs2) rd d 0x8000000000000002)
        ∧ (∀ c l, d.tokenUnit (d.cur.getX rs1) = some (.engine c l) → gives (.bkrd rd rs1 rs2) rd d 0x8000000000000003)
        ∧ ∀ t, d.tokenUnit (d.cur.getX rs1) = some (.strand t) → gives (.bkrd rd rs1 rs2) rd d (t.bookmark.word off)))
    ∧ (∀ rs1 : Reg,
      let sF := d.flushCur true false
      let w := sF.cur.getX rs1
      let n := (w.extractLsb' 48 8).toNat
      let cls := if n = 0 ∨ 0x18 < n then 0x17 else n
      let waits : Prop := Waits (.bkrsm rs1) s sF .store
      (StandsBy sF true false → Waits (.bkrsm rs1) s sF .fence)
      ∧ (¬StandsBy sF true false → (sF.tokenUnit w = none → exec (.bkrsm rs1) s = .next (sF.pcBehind 4))
      ∧ (∀ c l, sF.tokenUnit w = some (.engine c l) →
        (w.getLsbD 63 = true → exec (.bkrsm rs1) s = .next ((sF.killFault l cls).pcBehind 4))
        ∧ (w.getLsbD 63 = false → sF.batchWaits c 4 = true → waits)
        ∧ (w.getLsbD 63 = false → sF.batchWaits c 4 = false →
            exec (.bkrsm rs1) s = .next ((sF.updCore c fun k => { k with park := none }).pcBehind 4)))
      ∧ ∀ t, sF.tokenUnit w = some (.strand t) →
        (w.getLsbD 63 = true → exec (.bkrsm rs1) s = .next ((sF.killFault t.lid cls).pcBehind 4))
        ∧ (w.getLsbD 63 = false → (sF.batchWaits t.core t.slot = true ∨ sF.replay t.uid t.bookmark = none) → waits)
        ∧ ∀ s', w.getLsbD 63 = false → sF.batchWaits t.core t.slot = false → sF.replay t.uid t.bookmark = some s' →
            exec (.bkrsm rs1) s = .next (s'.pcBehind 4)))
    ∧ (∀ rd rs1 : Reg, (d.cur.getX rs1).toNat % 32 ≠ 0 → exec (.frqpop rd rs1) s = .next (d.takeExc .illegal))
    ∧ (∀ rd rs1 : Reg, (d.cur.getX rs1).toNat % 32 = 0 →
      ((d.die (coreDie s.cur.core)).frq = [] → gives (.frqpop rd rs1) rd d (BitVec.allOnes 64))
      ∧ ∀ r rest s1, (d.die (coreDie s.cur.core)).frq = r :: rest →
        d.storeWords (d.cur.getX rs1) [r.addr.toNat, r.lid.toNat, r.token.toNat, r.strandid % 2 ^ 32 + r.info * 2 ^ 32] = .ok s1 →
        gives (.frqpop rd rs1) rd (s1.updDie (coreDie s.cur.core) fun k => { k with frq := rest })
          (BitVec.ofNat 64 rest.length))
    ∧ (∀ rs1 rs2 : Reg,
      let a := d.cur.getX rs1
      let v := d.cur.getX rs2
      ((a.extractLsb' 18 46 ≠ 0 ∨ v.extractLsb' 8 56 ≠ 0 ∨ v.extractLsb' 2 5 ≠ 0) →
        exec (.latw rs1 rs2) s = .next (d.pcBehind 4))
      ∧ ∀ (id p : Nat) (new old : Option Nat), a.extractLsb' 18 46 = 0 → v.extractLsb' 8 56 = 0 → v.extractLsb' 2 5 = 0 →
        id = (a.extractLsb' 0 16).toNat → p = (a.extractLsb' 16 2).toNat →
        new = (if v.getLsbD 7 then some (v.extractLsb' 0 2).toNat else none) → old = (d.core id).lat.getD p none →
        coreIds.contains id = true → coreClass id = .vector → old ≠ new →
          LanesHeld d { s.cur with core := id, g := ((d.core id).lanesOf s.cur.slot).length } →
        (∀ sl, (old = some sl ∨ new = some sl) → d.grantFree id sl = true) →
        (∀ t ∈ d.strands, ∀ o n q, t.status ≠ .waiting (.lane o n q)) →
        ∃ t : State, exec (.latw rs1 rs2) s = .next t ∧ (t.core id).lat = (d.core id).lat.set p new
          ∧ ∀ u ∈ t.strands, ∀ sl, (old = some sl ∨ new = some sl) → u.place = some (id, sl) →
              u.g = ((t.core id).lanesOf sl).length)
    ∧ ∀ rs1 rs2 : Reg,
      let a := d.cur.getX rs1
      let v := d.cur.getX rs2
      ((a.extractLsb' 9 55 ≠ 0 ∨ v.extractLsb' 17 47 ≠ 0) → exec (.thrset rs1 rs2) s = .next (d.pcBehind 4))
      ∧ (a.extractLsb' 9 55 = 0 → v.extractLsb' 17 47 = 0 →
        let n := (a.extractLsb' 0 8).toNat
        ∃ r : List (Nat × Nat),
          (∀ m c, (m, c) ∈ r ↔ (if m = n then v.getLsbD 16 = true ∧ c = (v.extractLsb' 0 16).toNat
            else (m, c) ∈ (d.die (a.extractLsb' 8 1).toNat).rank))
          ∧ exec (.thrset rs1 rs2) s = .next ((d.updDie (a.extractLsb' 8 1).toNat fun k => { k with rank := r }).pcBehind 4))

/-- R189, R284, R288: the commands of `ccmove`, each its own row by the OP of its block (log 7): a malformed block, among
them one with a non-zero argument that the OP does not use (log 33), a stale token or an unknown launch gives an error word
in rd and does nothing; else the command takes place and rd holds 0, or for OP 0 the new token (log 15), which OP 0 waits
for, its place in the carrier's queue kept, while the carrier has no room or an earlier request, or an append of the strand
cannot land (R163); OP 4 waits while the context's descriptor is held back (R303), OP 6 flushes the scalar agent's buffers first
and waits while a store of it is. -/
def Obligations.CcmoveCommands : Prop :=
  ∀ (s s1 : State) (rd rs1 : Reg) (b : CcBlock), Issues s clsC [] → s.cur.mode ≠ .u → s.arg.rd = rd → s.arg.rs1 = rs1 →
    let d := s.delivered
    let gives (i : Instr) (u : State) (w : Word) : Prop :=
      exec i s = .next (State.pcBehind { u with cur := { u.cur.putX rd w with asked := 0 } } 4)
    let rows : List Instr := [.ccmoveMove rd rs1, .ccmoveWriteBookmark, .ccmoveKill, .ccmoveCancel, .ccmovePreempt,
      .ccmoveResume, .ccmovePostMessage]
    (d.readBlock (d.cur.getX rs1) = .ok (none, s1) → ∀ i ∈ rows, gives i s1 0x8000000000000001)
    ∧ (d.readBlock (d.cur.getX rs1) = .ok (some b, s1) →
      (b.op = 0 →
        (b.c ≠ 0 → gives (.ccmoveMove rd rs1) s1 0x8000000000000001)
        ∧ (b.c = 0 → s1.tokenUnit b.a = none → gives (.ccmoveMove rd rs1) s1 0x8000000000000002)
        ∧ ∀ t, b.c = 0 → s1.tokenUnit b.a = some (.strand t) →
          let id := b.b.toNat
          (¬(coreIds.contains id = true ∧ coreDie id = coreDie t.core ∧ coreClass id = t.cls) →
            gives (.ccmoveMove rd rs1) s1 0x8000000000000003)
          ∧ (s1.placeAt t id = none → gives (.ccmoveMove rd rs1) s1 0x8000000000000003)
          ∧ (∀ slot, coreIds.contains id = true → coreDie id = coreDie t.core → coreClass id = t.cls →
            s1.placeAt t id = some (id, slot) →
            let turn := s1.carrierFor (coreDie t.core) (if s1.cur.asked = 0 then s1.nextAsk else s1.cur.asked) && !s1.stripsHeld t
            (turn = true → gives (.ccmoveMove rd rs1) (s1.moveParked t id slot).2 (s1.moveParked t id slot).1)
            ∧ (turn = false → s1.cur.asked = 0 → exec (.ccmoveMove rd rs1) s = .next { s1 with
                nextAsk := s1.nextAsk + 1
                cur := { s1.cur with asked := s1.nextAsk, status := .waiting (.carrier (coreDie t.core)) } })
            ∧ (turn = false → s1.cur.asked ≠ 0 → exec (.ccmoveMove rd rs1) s = .next { s1 with
                cur := { s1.cur with status := .waiting (.carrier (coreDie t.core)) } })))
      ∧ (b.op = 1 →
        (s1.tokenUnit b.a = none → gives .ccmoveWriteBookmark s1 0x8000000000000002)
        ∧ ∀ t, s1.tokenUnit b.a = some (.strand t) →
          (∀ n : Nat, 1 ≤ n → n < 32 → b.b.toNat = 0x100 + 8 * n → gives .ccmoveWriteBookmark
            (s1.updStrand t.uid fun u => { u with bookmark := { t.bookmark with xreg := t.bookmark.xreg.setIfInBounds n b.c } }) 0)
          ∧ (b.b.toNat = 0x18 → t.bookmark.cause = 3 → gives .ccmoveWriteBookmark
            (s1.updStrand t.uid fun u => { u with bookmark := { t.bookmark with pc := b.c } }) 0)
          ∧ (b.b.toNat = 0x18 → t.bookmark.cause ≠ 3 → gives .ccmoveWriteBookmark s1 0x8000000000000004))
      ∧ (b.op = 2 →
        (0x18 < b.c.toNat → gives .ccmoveKill s1 0x8000000000000001)
        ∧ (b.c.toNat ≤ 0x18 → s1.liveLaunch b.a.toNat b.b.toNat = none → gives .ccmoveKill s1 0x8000000000000002)
        ∧ (b.c.toNat ≤ 0x18 → (s1.liveLaunch b.a.toNat b.b.toNat).isSome = true →
            gives .ccmoveKill (s1.killFault b.b.toNat (if b.c = 0 then 0x17 else b.c.toNat)) 0))
      ∧ (b.op = 3 → b.c = 0 →
        (s1.liveLaunch b.a.toNat b.b.toNat = none → gives .ccmoveCancel s1 0x8000000000000002)
        ∧ ((s1.liveLaunch b.a.toNat b.b.toNat).isSome = true → gives .ccmoveCancel (s1.kill b.b.toNat 0x03 0) 0))
      ∧ (b.op = 4 → b.c = 0 →
        (s1.liveLaunch b.a.toNat b.b.toNat = none → gives .ccmovePreempt s1 0x8000000000000002)
        ∧ ((s1.liveLaunch b.a.toNat b.b.toNat).isSome = true → s1.ctxHeld b.a.toNat = true → Waits .ccmovePreempt s s1 .store)
        ∧ ((s1.liveLaunch b.a.toNat b.b.toNat).isSome = true → s1.ctxHeld b.a.toNat = false →
          (s1.preempt b.b.toNat none = none → gives .ccmovePreempt s1 0x8000000000000005)
          ∧ ∀ s2, s1.preempt b.b.toNat none = some s2 → gives .ccmovePreempt s2 0))
      ∧ (b.op = 5 → b.c = 0 →
        (s1.liveLaunch b.a.toNat b.b.toNat = none → gives .ccmoveResume s1 0x8000000000000002)
        ∧ ∀ l, s1.liveLaunch b.a.toNat b.b.toNat = some l → (l.st = .preempted ∨ l.st = .preempting) →
            gives .ccmoveResume (s1.updLaunch b.b.toNat fun l => { l with resuming := true }) 0)
      ∧ (b.op = 6 → StandsBy (s1.flushCur true false) true false → Waits .ccmovePostMessage s (s1.flushCur true false) .fence)
      ∧ (b.op = 6 → b.a.extractLsb' 12 4 = 0 → b.a.extractLsb' 20 12 = 0 → ¬StandsBy (s1.flushCur true false) true false →
        let s1 := s1.flushCur true false
        (s1.liveLaunch (b.a.extractLsb' 0 12).toNat b.b.toNat = none → gives .ccmovePostMessage s1 0x8000000000000002)
        ∧ ∀ l, s1.liveLaunch (b.a.extractLsb' 0 12).toNat b.b.toNat = some l →
          let sid := (b.a.extractLsb' 32 32).toNat
          let ch : QReg := Fin.ofNat 16 (b.a.extractLsb' 16 4).toNat
          let m : Msg := { ch := ch, hdr := BitVec.ofNat 64 (6 * 2 ^ 60 + ch.val * 2 ^ 56), payload := b.c }
          let out := s1.deliver l (sid / 2 ^ 8) (sid / 2 ^ 4 % 8) (sid % 16) m
          l.sidOk sid = true →
          (∀ s2, out = .done s2 → gives .ccmovePostMessage s2 0) ∧ (out = .exited → gives .ccmovePostMessage s1 0)
          ∧ (out = .poolFull → gives .ccmovePostMessage s1 0x8000000000000006)))

/-- R189, R250, R292, R303, R320, R322: `sysc.n` posts a call on a free slip and gives its address, or gives 0; `sysc.b`
posts and waits, and with the reply there takes it and frees the slip; `lnch` submits a launch and gives its LAUNCHID, or an
error word; `cpost` queues a collective command, or gives an error word. Each waits while a store of its strand is held
back, or what is read of its context, communicator, record or scoreboard; a descriptor or a communicator that reads
uncorrectable is launch fault 0x14. -/
def Obligations.ServicesAndSubmissions : Prop :=
  ∀ (s : State), s.cur.fork = none →
    let d := s.delivered
    let gives (i : Instr) (rd : Reg) (u : State) (w : Word) (n : Nat) : Prop :=
      exec i s = .next (State.pcBehind { u with cur := u.cur.putX rd w } n)
    let dT := d.unitTouch (d.ctxAddr s.cur.ctx) 64
    let reads : Prop := d.ctxHeld s.cur.ctx = false ∧ d.ctxBad s.cur.ctx = false
    (∀ rd rs1 : Reg, ∀ i ∈ [Instr.syscB rd rs1, .syscN rd rs1],
      (d.ctxHeld s.cur.ctx = true → Waits i s d .store)
      ∧ (d.ctxHeld s.cur.ctx = false → d.ctxBad s.cur.ctx = true → exec i s = .next (dT.launchFault 0x14 0 1 none)))
    ∧ (∀ rd rs1 : Reg, reads →
      (dT.slipFor = none → gives (.syscN rd rs1) rd dT 0 4)
      ∧ ∀ i, dT.slipFor = some i →
        let sI : State := { dT with cur := { dT.cur with slip := some i } }
        ∀ st s2, sI.load (sI.slipAddr i) 8 = .ok (st, s2) →
          (st % 4 = 1 → gives (.syscN rd rs1) rd s2 0 4)
          ∧ (st % 4 ≠ 1 → StandsBy (s2.flushCur true true) true true → Waits (.syscN rd rs1) s (s2.flushCur true true) .fence)
          ∧ (st % 4 ≠ 1 → ¬StandsBy (s2.flushCur true true) true true →
            ∀ s3, (s2.flushCur true true).syscPost (sI.slipAddr i) ((s2.flushCur true true).cur.getX rs1) = .ok s3 →
            gives (.syscN rd rs1) rd s3 (sI.slipAddr i) 4
            ∧ (s.cur.posted = false → exec (.syscB rd rs1) s =
                .next { s3 with cur := { s3.cur with posted := true, status := .waiting .service } })))
    ∧ (∀ (rd rs1 : Reg) (i st x : Nat) (s1 s2 s3 : State), reads → s.cur.posted = true → s.cur.slip = some i →
      dT.load (d.slipAddr i) 8 = .ok (st, s1) → st % 4 = 2 → s1.load (d.slipAddr i + 16) 8 = .ok (x, s2) →
      s2.store (d.slipAddr i) 8 (st - 2) = .ok s3 →
      exec (.syscB rd rs1) s = .next (State.pcBehind
        { s3 with cur := { s3.cur.putX rd (BitVec.ofNat 64 x) with posted := false } } 4))
    ∧ (s.cur.cls = .control → ∀ (rd rs1 : Reg) (ch : QReg),
      let sF := d.flushCur true true
      let a := d.cur.getX rs1
      let sR := sF.recordRead s.cur.ctx a
      let open' : Prop := ¬StandsBy sF true true
      (StandsBy sF true true → (a.toNat % 256 = 0 → Waits (.lnch rd rs1 ch) s sF .fence)
        ∧ (a.toNat % 64 = 0 → Waits (.cpost rd rs1 ch) s sF .fence))
      ∧ (open' → a.toNat % 256 = 0 → sF.acceptHeld s.cur.ctx a = true → Waits (.lnch rd rs1 ch) s sF .store)
      ∧ (open' → a.toNat % 256 = 0 → sF.acceptHeld s.cur.ctx a = false →
        (∀ lid s', sR.accept s.cur.ctx a none (some (s.cur.lid, s.cur.sid, ch)) = .ok (lid, s') →
          gives (.lnch rd rs1 ch) rd s' (BitVec.ofNat 64 lid) 8)
        ∧ ∀ st, sR.accept s.cur.ctx a none (some (s.cur.lid, s.cur.sid, ch)) = .error st →
          gives (.lnch rd rs1 ch) rd sR (BitVec.ofNat 64 (2 ^ 63 + st)) 8)
      ∧ (open' → a.toNat % 64 = 0 → 64 ≤ (sF.die (coreDie s.cur.core)).coll.length →
        Waits (.cpost rd rs1 ch) s sF (.collective a ch rd))
      ∧ (open' → a.toNat % 64 = 0 → (sF.die (coreDie s.cur.core)).coll.length < 64 →
        ∀ w s', sF.loadWords a 8 = .ok (w, s') →
          let sC := s'.commTouch s.cur.ctx w
          let held := s'.commHeld s.cur.ctx w
          let bad := s'.commBad s.cur.ctx w
          (collFormed w = false → gives (.cpost rd rs1 ch) rd s' 0x8000000000000001 8)
          ∧ (collFormed w = true → held = true → Waits (.cpost rd rs1 ch) s s' (.collective a ch rd))
          ∧ (collFormed w = true → held = false → bad = true →
              exec (.cpost rd rs1 ch) s = .next (sC.launchFault 0x14 0 1 none))
          ∧ (collFormed w = true → held = false → bad = false →
            (∀ e, sC.collFault s.cur.ctx w = some e → gives (.cpost rd rs1 ch) rd sC (BitVec.ofNat 64 (2 ^ 63 + e)) 8)
            ∧ (sC.collFault s.cur.ctx w = none → gives (.cpost rd rs1 ch) rd
                (sC.updDie (coreDie s.cur.core) fun k => { k with coll := k.coll ++ [sC.collCmd w ch] }) 0 8))))

/-- R40 to R47, R163, R249, R288, R295: exit, by `gexit` or a fetch from the exit address, when what was issued has
completed and no store of the strand is held back; `yld` and its end; `mig` and the carrier, which has eight moves of a die
under way at a time and makes the others in the order of their requests: the strand is taken with what its registers hold
(vector registers never written are zero, the scalar reservation stays), its appends landed, and resumes at its new place
with MIGCNT one more; a stage output that its strand leaves unmatched is ended for the consumer to come (R161); without a
target it is in migration wait, or, asked to a core, goes on where it is. System code is never moved (log 31). -/
def Obligations.StrandControl : Prop :=
  ∀ (s : State),
    let d := s.delivered
    let sF := d.flushCur true true
    (s.cur.fork = none →
      let done := { sF.cur.complete with status := Status.exiting }
      done.vq = 0 ∧ done.mq = 0 ∧ done.replyQ = []
      ∧ exec .gexit s = .next { sF with cur := done } ∧ exec .exitAddressFetch s = .next { sF with cur := done }
      ∧ ((∀ o ∈ s.others, o.core = s.cur.core → o.status ≠ .running) → exec .yld s = .next (d.pcBehind 4))
      ∧ (∀ us, us = ((s.others.filter fun o => o.core == s.cur.core && o.status == .running).map (·.uid)) → us ≠ [] →
          exec .yld s = .next { d with cur := { d.cur with pc := s.cur.pc + 4, status := .yielding us } })
      ∧ ∀ r ∈ [(Instr.migControl, Cls.control), (.migVector, .vector), (.migArray, .array)],
        ((s.cur.system = true ∨ s.cur.cls = r.2 ∨ s.classPresent r.2 = false ∨ s.cur.pinned = true
            ∨ (d.pcBehind 4).nearestFit (d.pcBehind 4).cur [r.2] (fun _ => true) = none) →
          exec r.1 s = .next (d.pcBehind 4))
        ∧ (s.cur.system = false → s.cur.cls ≠ r.2 → s.classPresent r.2 = true → s.cur.pinned = false →
          ∀ id slot, (d.pcBehind 4).nearestFit (d.pcBehind 4).cur [r.2] (fun _ => true) = some (id, slot) →
            let takes := (d.pcBehind 4).canTake (d.pcBehind 4).cur s.nextAsk
            (takes = true →
              exec r.1 s = .next ((d.pcBehind 4).depart s.cur.uid id slot))
            ∧ (takes = false →
              exec r.1 s = .next ({ d.pcBehind 4 with nextAsk := s.nextAsk + 1 }.mapStrands fun t =>
                if t.uid = s.cur.uid then { t with status := .moving (.core id), asked := s.nextAsk } else t))))
    ∧ exec .yldTimeout s = .next (s.mapStrands fun t =>
        if t.uid = s.arg.uid then (match t.status with | .yielding _ => { t with status := .running } | _ => t) else t)
    ∧ (∀ die : Nat, s.carrierRoom die = true ↔
        (s.strands.filter fun t => match t.status with | .transit id _ => coreDie id == die | _ => false).length < 8)
    ∧ (∀ k, s.cur.status = .moving k → s.arg.uid = s.cur.uid →
        let first := s.carrierRoom (coreDie s.cur.core) = true
          ∧ (∀ o ∈ s.strands, o.queuedOn (coreDie s.cur.core) = true → s.cur.asked ≤ o.asked)
          ∧ (∀ l ∈ s.lu.launches, s.saveQueued l (coreDie s.cur.core) = true → s.cur.asked ≤ l.asked)
          ∧ s.stripsHeld s.cur = false
        (¬first → exec .carrierMove s = .next s)
        ∧ (first → s.moveTarget s.cur k = none →
          exec .carrierMove s = .next (s.mapStrands fun t =>
            if t.uid = s.cur.uid then
              { t with asked := 0, status := (match k with | .core _ => .running | k => .migWait k) }
            else t))
        ∧ ∀ id slot, first → s.moveTarget s.cur k = some (id, slot) → (∀ o ∈ s.others, o.uid ≠ s.cur.uid) →
          ∃ t : State, exec .carrierMove s = .next t ∧ t.cur.status = .transit id slot ∧ t.cur.pc = s.cur.pc
            ∧ t.cur.x = s.cur.replyAll.x ∧ t.cur.f = s.cur.replyAll.f ∧ t.cur.k = s.cur.k ∧ t.cur.vl = s.cur.vl
            ∧ t.cur.vtype = s.cur.vtype ∧ t.cur.g = s.cur.g
            ∧ t.cur.lrRes = (s.flushWc s.cur.uid true true).cur.lrRes
            ∧ ∀ r : Fin 32, t.cur.v[r] = if s.cur.vdirty.getLsbD r.val then s.cur.v[r] else 0)
    ∧ (∀ id slot, s.cur.status = .transit id slot → s.arg.uid = s.cur.uid →
        ∃ t : State, exec .strandArrival s = .next t ∧ t.cur.core = id ∧ t.cur.slot = slot ∧ t.cur.status = .running
          ∧ t.cur.migcnt = s.cur.migcnt + 1 ∧ t.cur.pc = s.cur.pc ∧ t.cur.x = s.cur.x ∧ t.cur.v = s.cur.v)
    ∧ (∀ t : Strand, s.canTake t s.nextAsk = true ↔ s.carrierFor (coreDie t.core) s.nextAsk = true ∧
        ((∃ r ∈ s.coh.stalled, r.uid = t.uid ∧ r.engine = none ∧ (r.combined = some true ∨ r.combined = none ∧ t.uid ≠ 0)) →
          ∀ (q : QReg) h c, t.q[q] = some h → h.kind = 2 → s.mateOf h = some c → c.wire = []))
    ∧ (s.cur.status = .exiting → s.arg.uid = s.cur.uid → StandsBy s true true → exec .strandExit s = .next s)
    ∧ (s.cur.status = .exiting → s.arg.uid = s.cur.uid → s.inFlight s.cur.uid = false → ¬StandsBy s true true →
        (∀ q : QReg, s.cur.q[q] = none) →
        let s1 := s.dismiss s.cur.uid
        exec .strandExit s = .next (if s.cur.system then s1
          else if s1.groupEnded s.cur.lid s.cur.glin then s1.retire s.cur.lid s.cur.glin
          else s1.barrierCheck s.cur.lid s.cur.glin))
    ∧ (s.cur.status = .exiting → s.arg.uid = s.cur.uid → s.inFlight s.cur.uid = false → ¬StandsBy s true true →
        (∀ (q : QReg) h, s.cur.q[q] = some h → h.kind = 2 ∧ h.mate = none) → s.cur.system = false →
        (∃ o ∈ s.others, o.uid ≠ s.cur.uid ∧ o.lid = s.cur.lid ∧ o.glin = s.cur.glin ∧ o.system = false ∧ o.status ≠ .gone) →
        (s.launch s.cur.lid).isSome = true →
        ∃ t l, exec .strandExit s = .next t ∧ t.cur.status = .gone ∧ t.launch s.cur.lid = some l
          ∧ ∀ (q : QReg) h, s.cur.q[q] = some h →
              EndedOut.mk s.cur.glin h.link s.cur.six h.peer h.eb ∈ l.endedOuts)

/-! ### Events -/

/-- R111, R158 to R161, R164, R167, R168, R184, R185, R198, R199, R202, R272 to R277, R293: the completions and pauses of a
strand's agents: the oldest reply reaches its register; an element, an instruction, a command is over; a stream slot is
filled, drained, or takes a strip in order; a write-combining buffer becomes visible; a reservation ends; a trap writes its
bookmark, with the entries of what had issued behind the instruction that faulted, as far as a free number below 16 of them
went (log 10), posts its batch and parks; a batch enters the queue when all of it has room; an engine's access that faults
parks the whole engine (log 32). Where the header PC stands is log 28, the address of a record log 37. -/
def Obligations.VectorAgentEvents : Prop :=
  ∀ (s : State) (t : Strand), s.strand s.arg.uid = some t →
    let u := s.arg.uid
    (∀ r rest, t.replyQ = r :: rest → StrandBecomes .replyQueueDelivery s u { t with
      replyQ := rest, x := if r.float = true ∨ r.rd = 0 then t.x else t.x.set r.rd r.val
      f := if r.float = true then t.f.set r.rd r.val else t.f })
    ∧ (∀ l : Fin 32, s.arg.lane = l.val → t.wcV = [] → ¬StandsByOf s u false true →
        StrandBecomes .vectorAccessPerformed s u { t with pend := t.pend.set l (t.pend[l] - 1) })
    ∧ ((t.wcV ≠ [] ∨ StandsByOf s u false true) → exec .vectorAccessPerformed s = .next s)
    ∧ (0 < t.vq → StrandBecomes .vectorInstructionCompletion s u { t with vq := t.vq - 1 })
    ∧ (t.vq = 0 → StrandBecomes .vectorInstructionCompletion s u { t with mq := t.mq - 1 })
    ∧ StrandBecomes .reservationExpiry s u { t with res := [] }
    ∧ (t.status = .waiting .memory → StrandBecomes .vwaitReevaluation s u { t with status := .running })
    ∧ (t.status ≠ .waiting .memory → StrandBecomes .vwaitReevaluation s u t)
    ∧ (∀ (q : QReg) (h : Stream), s.arg.q = q.val → t.q[q] = some h →
      (h.wire = [] → StrandBecomes .stageStripArrival s u t)
      ∧ (∀ w, h.wire = .ended :: w →
          StrandBecomes .stageStripArrival s u { t with q := t.q.set q (some { h with wire := w, ended := true }) })
      ∧ (∀ p, h.mate = some p → StandsByOf s p.1 false true → ∀ es w, h.wire = .data es :: w →
          StrandBecomes .stageStripArrival s u t)
      ∧ ((∀ p, h.mate = some p → ¬StandsByOf s p.1 false true) → ∀ es w, h.wire = .data es :: w →
        ∃ t', StrandBecomes .stageStripArrival s u t'
          ∧ t'.x = t.x ∧ t'.v = t.v ∧ t'.pc = t.pc
          ∧ t'.q = t.q.set q (some { h with
              wire := w, reserved := h.reserved - 1, next := (h.next + 1) % h.nslot
              filled := h.filled ++ [{ pos := h.next, count := es.length, off := 0 }] })
          ∧ ∀ sp, t'.loc sp = (t.fillSlot h h.next es).loc sp)
      ∧ ((s.core t.core).park = none → h.kind = 0 → h.ended = false → h.filled.length + h.reserved < h.nslot →
          ∀ s1, s.engCheck t.ctx h.eb ((h.nextAddrs (min h.se (h.total - h.done))).map fun a => (a, .load)) = .ok s1 →
          let n := min h.se (h.total - h.done)
          let es := (h.nextAddrs n).map fun a => s1.engRead t.ctx a h.eb
          exec .streamSlotFill s = .next (s1.updStrand u fun t => (t.fillSlot h h.next es).putStream q (some { h with
            done := h.done + n, ended := decide (h.total ≤ h.done + n), next := (h.next + 1) % h.nslot
            filled := h.filled ++ [{ pos := h.next, count := n, off := 0 }] })))
      ∧ ((s.core t.core).park = none → h.kind = 1 → ∀ p ps, h.filled = p :: ps →
          let m := min p.count (h.total - h.done)
          ∀ s1, s.engCheck t.ctx h.eb ((h.nextAddrs m).map fun a => (a, .store)) = .ok s1 →
          exec .streamDrainWrite s = .next
            (((((h.nextAddrs m).zip (t.slotElems h p.pos 0 m)).foldl (fun s e => s.engWrite t.ctx e.1 h.eb e.2) s1)).updStream
              u q fun h => { h with filled := ps, done := h.done + m, ovr := h.ovr || decide (m < p.count) }))
      ∧ ((s.core t.core).park = none → h.kind = 1 → h.filled = [] → h.ended = true → h.reserved = 0 → h.mateEnded = false →
          exec .streamDrainWrite s = .next { s.updStream u q fun h => { h with mateEnded := true } with
            wire := s.wire ++ [{ lid := t.lid, glin := t.glin, stage := t.stage, six := t.six
                                 msg := { ch := h.ch, hdr := msgHdr 2 h.ch.val (t.sid % 2 ^ 32)
                                          payload := BitVec.ofNat 64 (h.tag * 2 ^ 32 + 2 ^ 25) } }] }))
    ∧ (2 ≤ (s.core s.arg.core).engine.length → exec .copyCommandAccept s = .next s)
    ∧ (∀ id op ws s2, s.arg.core = id → (s.core id).engine.length < 2 → u = s.cur.uid →
        s.copyWaiters id = (s.cur.slot, u, op) :: ws →
        State.acceptCopy { s with cur := { s.cur with status := .running } } op = .ok s2 → s2.cur.uid = u →
        exec .copyCommandAccept s = .next { s2 with others := s2.others.filter fun o => o.status != .gone })
    ∧ (∀ c rest s1, (s.core s.arg.core).park = none → (s.core s.arg.core).engine = c :: rest →
        s.engCheck c.ctx (cpEwb c.desc) c.accesses = .ok s1 →
        ∃ s', exec .copyCommandComplete s = .next s' ∧ (s'.core s.arg.core).engine = rest
          ∧ (c.op.kind = .cpf → c.op.kd = none → c.uid = u →
              s'.wire = s1.wire ++ [{ lid := t.lid, glin := t.glin, stage := t.stage, six := t.six
                                      msg := { ch := c.op.ch, hdr := msgHdr 2 c.op.ch.val (t.sid % 2 ^ 32), payload := c.payload } }]))
    ∧ (t.wc s.arg.flag = [] → exec .wcBufferDrain s = .next s)
    ∧ (∀ b rest, t.wc s.arg.flag = b :: rest → exec .wcBufferDrain s = .next
        ((s.flushBuf b t s.arg.flag).updStrand u fun t => t.putWc s.arg.flag rest))
    ∧ (∀ i, t.status = .trapping i →
        let r := s.stopped u i
        ((i.entry = none ∨ i.replay = true ∨ i.cause ≠ 1 ∨ t.fork.isSome = true) → r = (s, i.entry.toList ++ i.rest, i.pages))
        ∧ (∀ e, i.entry = some e → i.rest = [] →
          (∃ more, r.2.1 = e :: more ∧ more.length < 16) ∧ ∀ p ∈ i.pages, ∃ p' ∈ r.2.2, p'.1 = p.1)
        ∧ ∀ a c, r.1.strand u = some a → c ∈ r.1.cores → c.id = t.core → t.slot < (r.1.core t.core).gen.length →
          let gen := (r.1.core t.core).gen.getD t.slot 0 + 1
          let die := r.1.die (coreDie t.core)
          let tok := tokenWord gen t.core t.slot
          ∃ s', exec .impreciseTrap s = .next (if i.cause = 2 then s'.killFault t.lid i.cls else s')
            ∧ s'.gen t.core t.slot = gen
            ∧ (s'.die (coreDie t.core)).batches = die.batches ++ [batchOf die.batch.toNat t.lid t.ctx t.sid tok r.2.2]
            ∧ (s'.die (coreDie t.core)).batch = die.batch + 1
            ∧ (∀ v, v ≠ u → s'.strand v = r.1.strand v)
            ∧ s'.strand u = some { a.replyAll with
                vq := 0, mq := 0, res := [], status := .parked
                bookmark :=
                  { token := tok, lid := BitVec.ofNat 64 a.lid, strandid := a.sid % 2 ^ 32, cause := i.cause, cls := i.cls
                    lt := a.ltCode, pc := a.pc, lpc := if a.fork.isSome then a.getPc else 0, batch := die.batch.toNat
                    vtype := a.vtype, vl := a.vl, xreg := a.replyAll.x.set 0 0, entries := r.2.1 } })
    ∧ ((s.die s.arg.die).batches = [] → exec .faultBatchPost s = .next s)
    ∧ (∀ b bs, (s.die s.arg.die).batches = b :: bs →
      ((s.die s.arg.die).frq.length + b.length ≤ 4096 → exec .faultBatchPost s = .next
        (s.updDie s.arg.die fun d => { d with frq := d.frq ++ b, batches := bs }))
      ∧ (4096 < (s.die s.arg.die).frq.length + b.length → exec .faultBatchPost s = .next s))
    ∧ (s.plat.d3 = false → ∀ c ∈ s.cores, c.engine ≠ [] → { row := .engineFaultPause, arg := { core := c.id } } ∈ s.candidates)
    ∧ ((s.core s.arg.core).park.isSome = true → exec .engineFaultPause s = .next s)
    ∧ (∀ (w : EngineWork) cls addr acc, (s.core s.arg.core).park = none →
        (s.engineWork s.arg.core).find? (fun w => w.result.faulted) = some w → w.result = .kill cls addr acc →
        UnitFaults .engineFaultPause s s.arg.core 4 w.lid w.ctx w.sid cls addr acc)
    ∧ ∀ (w : EngineWork) ps c, (s.core s.arg.core).park = none → c ∈ s.cores → c.id = s.arg.core →
        (s.engineWork s.arg.core).find? (fun w => w.result.faulted) = some w → w.result = .pages ps →
        let die := s.die (coreDie s.arg.core)
        ∃ s', exec .engineFaultPause s = .next s' ∧ (s'.core s.arg.core).park = some w.lid
          ∧ s'.cur = s.cur ∧ s'.others = s.others ∧ s'.wire = s.wire
          ∧ (s'.die (coreDie s.arg.core)).batches = die.batches ++
              [batchOf die.batch.toNat w.lid w.ctx w.sid (tokenWord (s'.gen s.arg.core 4) s.arg.core 4) ps]
          ∧ s'.gen s.arg.core 4 = (if 4 < (s.core s.arg.core).gen.length then s.gen s.arg.core 4 + 1 else 0)

/-- R8, R235, R263, R315, R316: a notify of a mapped queue moves QSSN, or sets BADN beyond the ring, or is ignored; of an
unmapped one it sets PEND in the record; the next notified entry is fetched, and completes with LS_RECORD when it is
malformed; mapping reads the record, refuses one with a reserved bit set (log 60), and applies a pending notify. The record in
device memory follows the numbers, its address and the ring's space given at the first mapping (log 34); which queue the
scheduler maps first is log 16. What is held back of these reads waits, and one from an uncorrectable line reads zero (R292,
R303, log 60): a notify, a mapping and a scan are made again, notifies of a slot in their order; a completion whose place or
whose queue's record is held back is kept, its number not passed by CSN, until both can be written. -/
def Obligations.QueueEvents : Prop :=
  ∀ s : State,
    let n := s.arg.word.toNat
    let q := s.qslot s.arg.slot
    let e : Event := { row := .qnotifyWrite, arg := { slot := s.arg.slot, word := s.arg.word } }
    let same (k : Event) : Prop := k.row = .qnotifyWrite ∧ k.arg.slot = s.arg.slot
    ((s.plat.d3 = true ∨ (∀ p ∈ s.lu.slots, p.slot ≠ s.arg.slot)) → exec .qnotifyWrite s = .next s)
    ∧ (∀ u, s.plat.d3 = false → (∃ p ∈ s.lu.slots, p.slot = s.arg.slot) → s.uqueue q.uq = some u →
      (q.mapped = false → s.recHeld u.recAddr = true → EventWaits .qnotifyWrite s e)
      ∧ ((∃ k ∈ s.lu.waiting, same k) → e ∉ s.lu.waiting →
          exec .qnotifyWrite s = .next { s with lu := { s.lu with waiting := s.lu.waiting ++ [e] } })
      ∧ (∀ w1 w2, s.lu.waiting = w1 ++ e :: w2 → e ∉ w1 → (∃ k ∈ w1, same k) → exec .qnotifyWrite s = .next s)
      ∧ (∀ w1 w2, s.lu.waiting = w1 ++ e :: w2 → (∀ k ∈ w1 ++ w2, ¬same k) → (q.mapped = true ∨ s.recHeld u.recAddr = false) →
          exec .qnotifyWrite s = exec .qnotifyWrite { s with lu := { s.lu with waiting := w1 ++ w2 } })
      ∧ ((∀ k ∈ s.lu.waiting, ¬same k) → q.mapped = true →
        (n ≤ u.ssn → exec .qnotifyWrite s = .next s)
        ∧ (u.ssn < n → 2 ^ u.rlog < n - u.csn → QueueBecomes .qnotifyWrite s s.arg.slot q.uq { q with badn := true } u)
        ∧ (u.ssn < n → n - u.csn ≤ 2 ^ u.rlog →
            QueueWrites .qnotifyWrite s s.arg.slot q.uq { q with badn := false } { u with ssn := n }))
      ∧ ((∀ k ∈ s.lu.waiting, ¬same k) → q.mapped = false → s.recHeld u.recAddr = false →
        (∀ p ∈ s.lu.slots, p.mapped = true → p.uq ≠ q.uq) →
        let r := s.reread u
        (r.ssn < n → r.notified < n →
          QueueWrites .qnotifyWrite s s.arg.slot q.uq q { r with pend := true, notified := n })
        ∧ ((n ≤ r.ssn ∨ n ≤ r.notified) → ∃ c, CachesOnly s c ∧ exec .qnotifyWrite s = .next c)))
    ∧ (∀ u : UQueue, let r := s.reread u
      r.ring = s.unitNat u.recAddr 8 / 32 * 32 ∧ r.rlog = s.unitNat (u.recAddr + 8) 8 % 32
      ∧ r.pend = (s.unitNat (u.recAddr + 8) 8).testBit 8
      ∧ r.hold = ((s.unitNat (u.recAddr + 8) 8).testBit 9 || !s.hc.present)
      ∧ r.ctx = s.unitNat (u.recAddr + 8) 8 / 2 ^ 16 % 2 ^ 12 ∧ r.ssn = s.unitNat (u.recAddr + 0x10) 8
      ∧ r.csn = s.unitNat (u.recAddr + 0x18) 8 ∧ r.notified = s.unitNat (u.recAddr + 0x20) 8
      ∧ r.fsn = max u.fsn (s.unitNat (u.recAddr + 0x28) 8))
    ∧ (∀ a, s.coh.stalled = [] → (∀ i, i < 8 → lineOf (a + i) ∉ s.bad) → s.unitNat a 8 = s.devNat a 8)
    ∧ (∀ u, s.uqueue s.arg.uq = some u → q.mapped = true →
        QueueBecomes .queueUnmap s s.arg.slot s.arg.uq { q with mapped := false } u)
    ∧ (q.mapped = false → exec .queueUnmap s = .next s)
    ∧ (∀ u0 : UQueue, (s.uqueue s.arg.uq = some u0 ∨ (s.uqueue s.arg.uq = none ∧ u0 =
          { uq := s.arg.uq, recAddr := s.arg.addr, ring := 0, space := s.arg.space, rlog := 0, pend := false, hold := false
            ctx := 0, ssn := 0, csn := 0, notified := 0, fsn := 0, doneAbove := [], held := [] })) →
        s.arg.slot < 1024 → q.mapped = false → (∀ p ∈ s.lu.slots, p.mapped = true → p.uq ≠ s.arg.uq) →
      let c := s.unitNat (u0.recAddr + 8) 8
      let clean : Prop := lineOf u0.recAddr ∉ s.bad ∧ c / 2 ^ 5 % 2 ^ 3 = 0 ∧ c / 2 ^ 10 % 2 ^ 6 = 0 ∧ c / 2 ^ 28 = 0
        ∧ s.unitNat (u0.recAddr + 0x30) 16 = 0
      let u := s.reread u0
      let m : QSlot := { q with mapped := true, uq := s.arg.uq }
      let e : Event := { row := .queueMap, arg := s.arg }
      (s.recHeld u0.recAddr = true → EventWaits .queueMap s e)
      ∧ (s.recHeld u0.recAddr = false → EventAgain .queueMap s e)
      ∧ (s.recHeld u0.recAddr = false → e ∉ s.lu.waiting → ¬clean → exec .queueMap s = .next s)
      ∧ (s.recHeld u0.recAddr = false → e ∉ s.lu.waiting → clean →
        (u.pend = false → QueueWrites .queueMap s s.arg.slot s.arg.uq m u)
        ∧ (u.pend = true → u.notified ≤ u.ssn → QueueWrites .queueMap s s.arg.slot s.arg.uq m { u with pend := false })
        ∧ (u.pend = true → u.ssn < u.notified → u.notified - u.csn ≤ 2 ^ u.rlog → QueueWrites .queueMap s s.arg.slot s.arg.uq
            { m with badn := false } { u with pend := false, ssn := u.notified })
        ∧ (u.pend = true → u.ssn < u.notified → 2 ^ u.rlog < u.notified - u.csn → QueueWrites .queueMap s s.arg.slot s.arg.uq
            { m with badn := true } { u with pend := false })))
    ∧ (let e : Event := { row := .pendScan, arg := {} }
      let free : Prop := ∀ u ∈ s.lu.uqs, s.uqMapped u.uq = true ∨ s.recHeld u.recAddr = false
      let passed (u : UQueue) : Prop := s.uqMapped u.uq = true ∨ (s.reread u).pend = false ∨ s.recClean u.recAddr = false
      (¬free → EventWaits .pendScan s e) ∧ (free → EventAgain .pendScan s e)
      ∧ (free → e ∉ s.lu.waiting → (∀ u ∈ s.lu.uqs, passed u) → ∃ c, CachesOnly s c ∧ exec .pendScan s = .next c)
      ∧ ∀ us u k, free → e ∉ s.lu.waiting → s.lu.uqs = us ++ [u] → (∀ x ∈ us, x.uq ≠ u.uq ∧ passed x) →
        (s.reread u).pend = true → s.recClean u.recAddr = true → k < 1024 →
        (s.qslot k).mapped = false →
        (∀ j, j < k → (s.qslot j).mapped = true) → (∀ p ∈ s.lu.slots, p.mapped = true → p.uq ≠ u.uq) →
        let r := s.reread u
        r.ssn < r.notified → r.notified - r.csn ≤ 2 ^ r.rlog →
        QueueWrites .pendScan s k u.uq { s.qslot k with mapped := true, uq := u.uq, badn := false }
          { r with pend := false, ssn := r.notified })
    ∧ (s.plat.d3 = false → ∀ e ∈ s.lu.waiting, e ∈ s.candidates)
    ∧ (∀ (u : UQueue) seq,
      let a := u.ring + 32 * (seq % 2 ^ u.rlog)
      (s.canComplete u seq = true ↔ s.recHeld u.recAddr = false ∧ s.writeGate (pageOf u.recAddr) ≠ .stall
        ∧ (u.space = .host → s.hc.present = true)
        ∧ (u.space = .dev → s.held a false = false ∧ s.writeGate (pageOf a) ≠ .stall))
      ∧ ∀ code cls r, s.uqueue u.uq = some u → s.canComplete u seq = false →
          s.completeEntry u.uq seq code cls r = { s with lu := { s.lu with
            entries := s.lu.entries.filter fun e => !(e.uq == u.uq && e.seq == seq)
            uqs := s.lu.uqs.map fun k => if k.uq = u.uq then { k with held := k.held ++ [(seq, code + 256 * cls, r)] } else k } })
    ∧ (∀ u seq st r, s.uqueue s.arg.uq = some u → u.held = [(seq, st, r)] → s.canComplete u seq = true →
        let s1 : State := { s with lu := { s.lu with uqs := s.lu.uqs.map fun k =>
          if k.uq = s.arg.uq then { k with held := [] } else k } }
        exec .queueEntryFetch s = exec .queueEntryFetch (s1.writeCompletion { u with held := [] } seq st r))
    ∧ ∀ u, s.uqueue s.arg.uq = some u → (∀ h ∈ u.held, s.canComplete u h.1 = false) →
      ((s.fetching u = false ∨ u.ssn ≤ u.fsn) → exec .queueEntryFetch s = .next s)
      ∧ (s.fetching u = true → u.fsn < u.ssn →
        let seq := u.fsn + 1
        let p : Phys := { space := u.space, addr := u.ring + 32 * (seq % 2 ^ u.rlog), key := 0, unt := false }
        let bs := s.readPhys p 32
        let ctl := leNat ((bs.drop 16).take 4)
        let a := leNat ((bs.drop 8).take 8)
        let d := s.plat.ctxbase.toNat + 64 * u.ctx
        let s1 := ((s.l2Touch (p, 32) false).unitTouch d 64).updUq s.arg.uq fun u => { u with fsn := seq }
        let waits : Prop := (u.space = .dev ∧ s.held p.addr false = true) ∨ s.held d false = true
          ∨ s.recHeld u.recAddr = true ∨ s.writeGate (pageOf u.recAddr) = .stall
        (waits → exec .queueEntryFetch s = .next s)
        ∧ (¬waits →
        (s.badPiece (p, 32) = true → exec .queueEntryFetch s = .next (s1.completeEntry s.arg.uq seq 0x10 0 0))
        ∧ (s.badPiece (p, 32) = false →
        (leNat (bs.take 8) = seq → ctl % 16 ≤ 2 → ctl / 32 = 0 → (ctl % 16 = 0 → a % 256 = 0) → (ctl % 16 = 1 → a % 64 = 0) →
          s.ctxValid u.ctx = true →
          exec .queueEntryFetch s = .next { s1 with lu := { s1.lu with entries := s.lu.entries ++
            [{ uq := s.arg.uq, seq := seq, typ := ctl % 16, order := decide (ctl / 16 % 2 = 1), addr := BitVec.ofNat 64 a
               lid := none }] } })
        ∧ ((s.ctxValid u.ctx = false ∨ leNat (bs.take 8) ≠ seq ∨ 2 < ctl % 16 ∨ ctl / 32 ≠ 0 ∨ (ctl % 16 = 0 ∧
          a % 256 ≠ 0) ∨ (ctl % 16 = 1 ∧ a % 64 ≠ 0)) →
            exec .queueEntryFetch s = .next (s1.completeEntry s.arg.uq seq 0x10 0 0)))))

/-- R48, R205, R207, R237, R239, R240, R241: a launch record is accepted, its launch with a LAUNCHID of its own and its ready
groups released, or its entry completes with a status; code objects are registered and unregistered; a message reaches an
inbox with room, else a free entry of the pool (log 57), and a full pool ends its launch; what a target that has exited was
to have is discarded. What is held back of the reads waits (R303). Numbers of launches and handles are the model's
(log 9), and so is the status of an object that cannot be read (log 60). -/
def Obligations.LaunchEvents : Prop :=
  ∀ s : State,
    let uq := s.arg.uq
    let seq := s.arg.seq
    (∀ e, s.acceptable uq seq 0 = some e →
      let sR := s.recordRead (s.uqCtx uq) e.addr
      let m : State := { sR with lu := { sR.lu with entries := sR.lu.entries.map fun k =>
        if k.uq = uq ∧ k.seq = seq then { k with lid := some sR.lu.nextLid } else k } }
      (canonical e.addr.toNat = false → exec .launchAccept s = .next (s.completeEntry uq seq 0x10 0 0))
      ∧ (s.acceptHeld (s.uqCtx uq) e.addr = true → exec .launchAccept s = .next s)
      ∧ (s.acceptHeld (s.uqCtx uq) e.addr = false → e.addr.toNat % 2 ^ 55 = e.addr.toNat →
        ∀ bs s1, m.loadVirt (s.uqCtx uq) e.addr.toNat 256 = .ok (bs, s1) →
        canonical e.addr.toNat = true →
        (∀ st, m.recordFault (s.uqCtx uq) e.addr.toNat bs false = some st →
          exec .launchAccept s = .next (sR.completeEntry uq seq st 0 0))
        ∧ (m.recordFault (s.uqCtx uq) e.addr.toNat bs false = none →
          let r := parseRec bs
          let l : Launch :=
            { lid := m.lu.nextLid, ctx := s.uqCtx uq, recAddr := e.addr.toNat, lrec := r
              text := match m.codeObj (s.uqCtx uq) r.codeh.toNat with | some c => c.text | none => 0
              entry := some (uq, seq), issuer := none, st := .running
              retired := m.presetGroups (s.uqCtx uq) r.sbrd r.groups, released := [], placed := []
              bins := List.replicate 64 [], curBin := 0, age := 0, starved := false, dispatched := false, npre := 0
              resuming := false, madeRoomFor := none, pool := [], dying := none, final := none, asked := 0, endedOuts := [] }
          let mT := m.touchRange (s.uqCtx uq) r.sbrd ((r.groups + 511) / 512 * 64)
          let made : State := { mT with lu := { mT.lu with launches := mT.lu.launches ++ [l], nextLid := l.lid + 1 } }
          (l.retired.length ≠ r.groups → exec .launchAccept s = .next ((made.bumpLstate l.lid).releaseReady l.lid))
          ∧ (l.retired.length = r.groups → exec .launchAccept s = .next (made.endLaunch l.lid .complete 0x01 0)))))
    ∧ (∀ (c a : Nat), (s.readBytes c a 64 = none → s.loadObject c a = .error 0x21)
      ∧ ∀ h, s.readBytes c a 64 = some h → canonical a = true →
        (cloferOk h = false → s.loadObject c a = .error 0x21)
        ∧ (cloferOk h = true → canonical ((a + rb h 0x10 8) % 2 ^ 64) = false → s.loadObject c a = .error 0x21)
        ∧ (cloferOk h = true → ∀ ks, s.readBytes c (a + rb h 0x10 8) (256 * rb h 6 2) = some ks →
          (kernelsClean ks (rb h 6 2) = false → s.loadObject c a = .error 0x21)
          ∧ (kernelsClean ks (rb h 6 2) = true → profOk h = false → s.loadObject c a = .error 0x20)
          ∧ (kernelsClean ks (rb h 6 2) = true → profOk h = true → kernelsOk ks (rb h 6 2) = false →
              s.loadObject c a = .error 0x1A)))
    ∧ (∀ e, s.acceptable uq seq 1 = some e →
      let sO := s.objectRead (s.uqCtx uq) e.addr.toNat
      let ctx := sO.uqCtx uq
      (s.objectHeld (s.uqCtx uq) e.addr.toNat = true → exec .codeObjectRegister s = .next s)
      ∧ (s.objectHeld (s.uqCtx uq) e.addr.toNat = false → ∀ st, sO.loadObject ctx e.addr.toNat = .error st →
        exec .codeObjectRegister s = .next (sO.completeEntry uq seq st 0 0))
      ∧ ∀ text size n, s.objectHeld (s.uqCtx uq) e.addr.toNat = false → sO.loadObject ctx e.addr.toNat = .ok (text, size, n) →
        exec .codeObjectRegister s = .next (State.completeEntry { sO with lu := { sO.lu with
          code := sO.lu.code ++ [{ handle := sO.lu.nextHandle, ctx := ctx, text := text, size := size, nkern := n }]
          nextHandle := sO.lu.nextHandle + 1 } } uq seq 0x01 0 (BitVec.ofNat 64 sO.lu.nextHandle)))
    ∧ (∀ e, s.acceptable uq seq 2 = some e →
      (s.codeObj (s.uqCtx uq) e.addr.toNat = none →
        exec .codeObjectUnregister s = .next (s.completeEntry uq seq 0x1C 0 0))
      ∧ ∀ c, s.codeObj (s.uqCtx uq) e.addr.toNat = some c →
        ((∃ l ∈ s.lu.launches, l.live = true ∧ l.ctx = s.uqCtx uq ∧ l.lrec.codeh.toNat = c.handle) →
          exec .codeObjectUnregister s = .next (s.completeEntry uq seq 0x1B 0 0))
        ∧ ((∀ l ∈ s.lu.launches, l.live = true → l.ctx = s.uqCtx uq → l.lrec.codeh.toNat ≠ c.handle) →
          exec .codeObjectUnregister s = .next (State.completeEntry
            { s with lu := { s.lu with code := s.lu.code.filter fun k => k.handle != c.handle } } uq seq 0x01 0 0)))
    ∧ (∀ m rest, s.wire = m :: rest →
      let s1 : State := { s with wire := rest }
      (s.launch m.lid = none → exec .messageArrival s = .next s1)
      ∧ ∀ l, s.launch m.lid = some l →
        (l.live = false → exec .messageArrival s = .next s1)
        ∧ (l.live = true →
          (s.hasExited l m.glin m.stage m.six = true → exec .messageArrival s = .next s1)
          ∧ (s.hasExited l m.glin m.stage m.six = false →
            (∀ t, s.strandAt m.lid m.glin m.stage m.six = some t → s.canDeliver l t m.msg.ch = true →
              exec .messageArrival s = .next (s1.updStrand t.uid fun t => { t with inbox := t.inbox ++ [m.msg] }))
            ∧ ((∀ t, s.strandAt m.lid m.glin m.stage m.six = some t → s.canDeliver l t m.msg.ch = false) →
              (l.pool.length < l.lrec.ovflN →
                let h : HeldMsg := { glin := m.glin, stage := m.stage, six := m.six, msg := m.msg, slot := 0 }
                exec .messageArrival s = .next (s1.hold l h)
                ∧ ∃ k, k < l.lrec.ovflN ∧ (∀ o ∈ l.pool, o.slot ≠ k)
                  ∧ (s1.hold l h).lu = (s1.updLaunch m.lid fun l => { l with pool := l.pool ++ [{ h with slot := k }] }).lu)
              ∧ (l.lrec.ovflN ≤ l.pool.length → exec .messageArrival s = .next (s1.kill m.lid 0x02 0x0E))))))
    ∧ (∀ l, s.launch s.arg.lid = some l → l.pool = [] → exec .overflowDelivery s = .next s)
    ∧ (∀ l h rest, s.launch s.arg.lid = some l → l.pool = h :: rest → s.hasExited l h.glin h.stage h.six = true →
        exec .overflowDelivery s = .next (s.updLaunch l.lid fun l => { l with pool := rest }))
    ∧ ∀ l h rest t, s.launch s.arg.lid = some l → l.pool = h :: rest →
        s.strandAt l.lid h.glin h.stage h.six = some t → (∀ p e n, t.status ≠ .saved p e n) → t.inbox.length < 64 →
        exec .overflowDelivery s = .next ((s.updLaunch l.lid fun l => { l with pool := rest }).updStrand t.uid fun t =>
          { t with inbox := t.inbox ++ [h.msg] })

/-- R46, R243 to R246, R255, R257 to R262: aging, halving and the reserve; the choice among launches and the strands that
a group places, with their registers as R30 gives them; the start of a pre-emption, the save with the bookmarks of CAUSE 6,
one strand after another through the carrier (R288), with the scalar reservation kept (log 14) and the image in the pool, in
bytes that no other image holds (log 58), the resumption, in which a replay that must wait holds up no other group (log 49);
the moves out of lane wait,
with the lane groups they want, and of the mix window, in the carrier's queue while it has no room (R288). -/
def Obligations.DispatchEvents : Prop :=
  ∀ s : State,
    (∀ l, s.launch s.arg.lid = some l → l.live = true → (∀ k ∈ s.lu.launches, k.lid = s.arg.lid → k = l) →
      exec .agingStep s = .next (s.updLaunch s.arg.lid fun _ => { l with age := l.age + 1 }))
    ∧ ((s.lu.counts.map (·.1)).Nodup → ∃ t, exec .dispatchCountHalving s = .next t
        ∧ (∀ n, t.dcount n = s.dcount n / 2) ∧ t = { s with lu := { s.lu with counts := t.lu.counts } })
    ∧ CachesOnly s s.schedTouch
    ∧ (let e : Event := { row := .dieReserve, arg := { lid := s.arg.lid } }
      (s.schedHeld = true → EventWaits .dieReserve s e) ∧ (s.schedHeld = false → EventAgain .dieReserve s e)
      ∧ ∀ l g, s.schedHeld = false → e ∉ s.lu.waiting → s.launch s.arg.lid = some l → l.nextGroup = some g →
      (l.st = .running → 6 ≤ s.levelE l → s.weight l ≠ 0 → s.dieFor l g = none →
        exec .dieReserve s = .next (s.schedTouch.updLaunch s.arg.lid fun l => { l with starved := true }))
      ∧ ((l.st ≠ .running ∨ s.levelE l < 6 ∨ s.weight l = 0 ∨ s.dieFor l g ≠ none) →
          exec .dieReserve s = .next s.schedTouch))
    ∧ (s.schedHeld = true → exec .dispatchDecision s = .next s)
    ∧ (∀ l : Launch, ((∀ b, b < 64 → l.bins.getD b [] = []) → l.moveBin = l ∧ l.nextGroup = none)
      ∧ ∀ k, k < 64 → (∀ j, j < k → l.bins.getD ((l.curBin + j) % 64) [] = []) →
          ∀ g gs, l.bins.getD ((l.curBin + k) % 64) [] = g :: gs →
          l.moveBin = { l with curBin := (l.curBin + k) % 64 } ∧ l.nextGroup = some g
          ∧ (l.take g).curBin = (l.curBin + k) % 64 ∧ ((l.curBin + k) % 64 < l.bins.length →
              (l.take g).bins.getD ((l.curBin + k) % 64) [] = gs))
    ∧ (let sT := s.schedTouch
      let s0 : State := { sT with lu := { sT.lu with launches := sT.lu.launches.map fun l =>
        if l.st = .running then l.moveBin else l } }
      s.schedHeld = false → (∀ l ∈ s0.lu.launches, s0.level7 l = s0) →
      let cs := s0.lu.launches.filterMap fun l => (s0.candidate s.arg.die l).map fun g => (l, g)
      (cs = [] → exec .dispatchDecision s = .next s0)
      ∧ ∀ a b : Launch × Nat,
        (cs = [a] → exec .dispatchDecision s = .next (s0.dispatch a.1 s.arg.die a.2))
        ∧ ((cs = [a, b] ∨ cs = [b, a]) →
          (s0.levelE b.1 < s0.levelE a.1 → exec .dispatchDecision s = .next (s0.dispatch a.1 s.arg.die a.2))
          ∧ (s0.levelE b.1 = s0.levelE a.1 →
              s0.dcount (s0.ctxTenant a.1.ctx) * s0.weight b.1 < s0.dcount (s0.ctxTenant b.1.ctx) * s0.weight a.1 →
              exec .dispatchDecision s = .next (s0.dispatch a.1 s.arg.die a.2))))
    ∧ (∀ (l : Launch) uid glin stage six core slot lanes stack (g : StageRec),
      let t := l.newStrand uid glin stage six core slot lanes stack g
      t.pc = BitVec.ofNat 64 (l.text + g.entry) ∧ t.x[0] = 0 ∧ t.x[1] = 0x003FFFFFFFFFFFF0
      ∧ t.x[2] = (match stack with | some k => BitVec.ofNat 64 (l.lrec.stkBase + (k + 1) * l.lrec.stkSz) | none => 0)
      ∧ t.x[10] = l.lrec.args ∧ t.x[11] = BitVec.ofNat 64 (glin * 256 + stage * 16 + six)
      ∧ (∀ r : Fin 32, r ≠ 1 → r ≠ 2 → r ≠ 10 → r ≠ 11 → t.x[r] = 0) ∧ t.g = g.l ∧ t.vl = 0
      ∧ t.vtype = 0x8000000000000000 ∧ t.vdirty = 0 ∧ t.vflags = 0 ∧ t.inbox = [] ∧ t.migcnt = 0 ∧ t.mode = .u)
    ∧ (∀ l, s.launch s.arg.lid = some l →
      let e : Event := { row := .preemptionStart, arg := { lid := s.arg.lid } }
      let d := s.plat.ctxbase.toNat + 64 * l.ctx
      (s.held d false = true → EventWaits .preemptionStart s e) ∧ (s.held d false = false → EventAgain .preemptionStart s e)
      ∧ (s.held d false = false → e ∉ s.lu.waiting →
      (l.st ≠ .running → exec .preemptionStart s = .next s)
      ∧ (l.st = .running → s.poolHolds l = false → exec .preemptionStart s = .next s)
      ∧ (l.st = .running → s.poolHolds l = true → exec .preemptionStart s = .next
          (({ s.unitTouch d 64 with nextAsk := s.nextAsk + 1 }.updLaunch s.arg.lid fun l =>
            { l with st := .preempting, madeRoomFor := none, resuming := false, asked := s.nextAsk }).bumpLstate s.arg.lid))))
    ∧ (∀ l, s.launch s.arg.lid = some l →
      ((l.st ≠ .preempting ∨ s.canSave s.arg.lid = false ∨ s.ctxHeld l.ctx = true) → exec .preemptionSave s = .next s)
      ∧ (l.st = .preempting → s.canSave s.arg.lid = true → s.ctxHeld l.ctx = false →
        let here := s.strands.filter fun t => t.lid == s.arg.lid && !t.system && t.status != .gone && !t.inPool
        (∀ pre t post, here = pre ++ t :: post → s.carrierFor (coreDie t.core) l.asked = true →
          (∀ p ∈ pre, s.carrierFor (coreDie p.core) l.asked = false) → exec .preemptionSave s = .next (s.saveStrand t.uid))
        ∧ (here ≠ [] → (∀ t ∈ here, s.carrierFor (coreDie t.core) l.asked = false) → exec .preemptionSave s = .next s)
        ∧ (here = [] → s.writeScoreboard l = none → exec .preemptionSave s = .next (s.killFault s.arg.lid 0x0A))
        ∧ ∀ s2, here = [] → s.writeScoreboard l = some s2 → exec .preemptionSave s = .next ((s2.updLaunch s.arg.lid fun l =>
            { l with st := .preempted, npre := l.npre + 1 }).bumpLstate s.arg.lid)))
    ∧ (∀ (die before : Nat), s.carrierFor die before = true ↔ s.carrierRoom die = true
        ∧ (∀ t ∈ s.strands, t.queuedOn die = true → before ≤ t.asked)
        ∧ ∀ l ∈ s.lu.launches, l.st = .preempting → s.canSave l.lid = true →
            (∃ t ∈ s.strands, t.lid = l.lid ∧ t.system = false ∧ t.status ≠ .gone ∧ t.inPool = false ∧ coreDie t.core = die) →
            before ≤ l.asked)
    ∧ (∀ (ctx n : Nat), ∀ q ∈ s.poolParts ctx n, q.1 + q.2 ≤ s.ctxSaveSz ctx
        ∧ ∀ u ∈ s.strands, u.ctx = ctx → u.inPool = true → ∀ h ∈ u.savedAt, q.1 + q.2 ≤ h.1 ∨ h.1 + h.2 ≤ q.1)
    ∧ (∀ u t, s.strand u = some t → ∃ t' p e n, (s.saveStrand u).strand u = some t' ∧ t'.status = .saved p e n
        ∧ t'.bookmark.cause = 6 ∧ t'.x = t.replyAll.x ∧ t'.f = t.replyAll.f ∧ t'.pc = t.pc ∧ t'.k = t.k ∧ t'.vl = t.vl
        ∧ t'.res = [] ∧ (∀ r, t'.lrRes = some r → t.lrRes = some r) ∧ t'.scratch = t.scratch ∧ t'.acc = t.acc ∧ t'.act = t.act
        ∧ ∀ r : Fin 32, t'.v[r] = if t.vdirty.getLsbD r.val then t.v[r] else 0)
    ∧ (∀ l, s.launch s.arg.lid = some l →
      (l.st = .preempted → l.resuming = true → exec .resumption s = .next ((s.updLaunch s.arg.lid fun l =>
        { l with st := .running, resuming := false, madeRoomFor := none }).bumpLstate s.arg.lid))
      ∧ ((l.st ≠ .preempted ∨ (l.resuming = false ∧ l.madeRoomFor ≠ some 0)) → exec .resumption s = .next s)
      ∧ (l.st = .preempted → l.resuming = false → l.madeRoomFor = some 0 →
        ((s.savedGroups s.arg.lid = [] ∨ (s.placeSaved s.arg.lid).isSome = true) → exec .resumption s = .next
          ((s.updLaunch s.arg.lid fun l =>
            { l with st := .running, resuming := false, madeRoomFor := none }).bumpLstate s.arg.lid))
        ∧ (s.savedGroups s.arg.lid ≠ [] → s.placeSaved s.arg.lid = none → exec .resumption s = .next s))
      ∧ (l.st ≠ .running → exec .savedGroupPlacement s = .next s)
      ∧ (l.st = .running → (∀ t ∈ s.strands, t.lid = s.arg.lid → t.status ≠ .waiting .replay) →
        (s.placeSaved s.arg.lid = none → exec .savedGroupPlacement s = .next s)
        ∧ ∀ s1, s.placeSaved s.arg.lid = some s1 → s1.poolLength s.arg.lid = 0 → exec .savedGroupPlacement s = .next s1)
      ∧ (l.st = .running → ∀ t s1, (s.strands.filter fun t => t.lid == s.arg.lid && t.status == .waiting .replay) = [t] →
          s.replay t.uid (t.replaying.getD t.bookmark) = some s1 → s1.placeSaved s.arg.lid = none →
          exec .savedGroupPlacement s = .next s1))
    ∧ (∀ lid, s.canSave lid = true ↔
        (∀ t ∈ s.strands, t.lid = lid → t.system = false → t.status ≠ .gone → t.inPool = false →
          t.stands = true ∧ (t.status = .parked → s.batchWaits t.core t.slot = false))
        ∧ (∀ c ∈ s.cores, ∀ k ∈ c.engine, k.lid ≠ lid)
        ∧ ∀ m ∈ s.wire, m.lid = lid → m.msg.hdr.extractLsb' 60 4 ≠ 2)
    ∧ (∀ (t : Strand) v, (t.mixN + 1 < 65536 →
          t.mixCount v = { t with mixN := t.mixN + 1, mixV := t.mixV + if v = true then 1 else 0 })
        ∧ (t.mixN = 65535 →
          t.mixCount v = { t with mixN := 0, mixV := 0, mixDone := some (t.mixV + if v = true then 1 else 0) }))
    ∧ ∀ t, s.strand s.arg.uid = some t →
      (∀ i ∈ [Instr.migrationWaitTimeout, .savePoolRetry],
        let e : Event := { row := i, arg := { uid := s.arg.uid } }
        (t.waitClasses = [] → e ∉ s.lu.waiting → exec i s = .next s)
        ∧ (t.waitClasses ≠ [] → s.schedHeld = true → EventWaits i s e)
        ∧ (s.schedHeld = false → EventAgain i s e)
        ∧ (t.waitClasses ≠ [] → s.schedHeld = false → e ∉ s.lu.waiting →
          let sT := s.schedTouch
          (∀ pre v post s1, sT.migVictims t = pre ++ v :: post → (∀ p ∈ pre, sT.preempt p.lid (some 0) = none) →
            sT.preempt v.lid (some 0) = some s1 → exec i s = .next s1)
          ∧ ((∀ v ∈ sT.migVictims t, sT.preempt v.lid (some 0) = none) → exec i s = .next sT)))
      ∧ (∀ o want r, t.status = .waiting (.lane o want r) →
        ((t.pinned = true ∨ t.asked ≠ 0) → exec .laneWaitCheck s = .next s)
        ∧ (t.pinned = false → t.asked = 0 → ∀ id slot,
          s.nearestFit t [.vector] (fun id => id != t.core && decide (want ≤ (s.core id).freeLanes.length)) = some (id, slot) →
          (s.canTake t s.nextAsk = true → exec .laneWaitCheck s = .next (s.departWith s.arg.uid id slot want))
          ∧ (s.canTake t s.nextAsk = false → exec .laneWaitCheck s = .next
              ({ s with nextAsk := s.nextAsk + 1 }.updStrand s.arg.uid fun t => { t with asked := s.nextAsk }))))
      ∧ (t.mixDone = none → exec .mixWindowEnd s = .next s)
      ∧ (∀ n, t.mixDone = some n →
        let s1 := s.updStrand s.arg.uid fun t => { t with mixDone := none }
        ((t.cls ≠ .vector ∨ (s.core t.core).men = false ∨ (s.core t.core).mthr.toNat ≤ n ∨ t.pinned = true
            ∨ t.fork.isSome = true ∨ s.plat.locked = true ∨ s1.nearestFit t [.control] (fun _ => true) = none) →
          StrandBecomes .mixWindowEnd s s.arg.uid { t with mixDone := none })
        ∧ (t.cls = .vector → (s.core t.core).men = true → n < (s.core t.core).mthr.toNat → t.pinned = false →
          t.fork = none → s.plat.locked = false → t.status = .running →
          ∀ id slot, s1.nearestFit t [.control] (fun _ => true) = some (id, slot) →
          let takes := s1.canTake { t with mixDone := none } s.nextAsk
          (takes = true → exec .mixWindowEnd s = .next (s1.depart s.arg.uid id slot))
          ∧ (takes = false → exec .mixWindowEnd s = .next
              ({ s1 with nextAsk := s.nextAsk + 1 }.updStrand s.arg.uid fun t =>
                { t with status := .moving (.core id), asked := s.nextAsk }))))

/-- R182, R183, R210, R211, R265, R269, R270, R290, R297, R303, R307, R308, R314: a walk marks its leaf; invalidation
requests are counted in and out; broadcasts, snoops and the directory; reads and writes of the host and of peers, refused
and logged on a frozen page; a request judged against the sweep, and a write-back of combined stores that stood by; a fault
whose strand does not execute posts its record (R271), and a unit's own store meets its fault as log 60 says; page locks;
acknowledgements, the end of a collection, the end of a context. The states of copies, an access within one line, a lock's
release and what waits for it are the model's (log 18, log 52, log 55); no translation is kept (log 12). -/
def Obligations.CoherenceEvents : Prop :=
  ∀ s : State,
    let asked (c : State) : Prop := CachesOnly s c ∧ (s.plat.pktbase.getLsbD 0 = false → c = s)
    (let va := s.arg.word.toNat % 2 ^ 55;
      let d := s.plat.ctxbase.toNat + 64 * s.arg.ctx;
      (s.held d false = true → s.walkFrom s.arg.ctx va = .held)
      ∧ (s.held d false = false → lineOf d ∈ s.bad → s.walkFrom s.arg.ctx va = .bad)
      ∧ (s.held d false = false → lineOf d ∉ s.bad →
          s.walkFrom s.arg.ctx va = s.walk s.arg.ctx va (s.unitNat d 8 / 65536 * 65536) 3)
      ∧ (∀ a e n, s.walkFrom s.arg.ctx va = .leaf a e n → permitted s.arg.acc e = true →
        s.gate (leafPhys s va e n) (accWrites s.arg.acc) = none →
        let marked := e ||| 64 ||| (if s.arg.acc = .store ∨ s.arg.acc = .atomic then 128 else 0)
        (marked ≠ e → s.writeGate (pageOf a) = .free) →
        ∃ c, CachesOnly s c ∧ exec .pageTableWalk s = .next (if marked = e then c else c.setDevNat a 8 marked)
          ∧ (marked ≠ e → ∀ k ∈ c.cores, ∀ l ∈ k.lines, l.space = .dev → l.line = lineOf a → l.coh = .z))
      ∧ (s.walkFrom s.arg.ctx va = .held → exec .pageTableWalk s = .next s)
      ∧ ((∀ a e n, s.walkFrom s.arg.ctx va ≠ .leaf a e n) → ∃ c, CachesOnly s c ∧ exec .pageTableWalk s = .next c)
      ∧ (∀ a e n, s.walkFrom s.arg.ctx va = .leaf a e n →
        (permitted s.arg.acc e = false ∨ s.gate (leafPhys s va e n) (accWrites s.arg.acc) ≠ none
          ∨ ((pteA e = false ∨ (accWrites s.arg.acc = true ∧ pteD e = false)) ∧ s.writeGate (pageOf a) ≠ .free)) →
        ∃ c, CachesOnly s c ∧ exec .pageTableWalk s = .next c))
    ∧ exec .tlbinvAll s = .next { s with xl := { s.xl with
        sub := s.xl.sub + 1, requests := s.xl.requests ++ [(s.arg.ctx, none)] } }
    ∧ exec .tlbinvPage s = .next { s with xl := { s.xl with
        sub := s.xl.sub + 1, requests := s.xl.requests ++ [(s.arg.ctx, some s.arg.page)] } }
    ∧ (s.xl.requests = [] → exec .tlbInvalidationComplete s = .next s)
    ∧ (∀ r rest, s.xl.requests = r :: rest → ∃ sF : State,
        ((s.strands.map (·.uid)).Nodup → ∀ t ∈ sF.strands, t.wcS = [] ∧ t.wcV = [])
        ∧ ((∀ t ∈ s.strands, t.wcS = [] ∧ t.wcV = []) → sF = s)
        ∧ ((∃ k ∈ sF.coh.stalled, k.lid ≠ 0 ∨ k.combined.isSome = true) → exec .tlbInvalidationComplete s = .next sF)
        ∧ ((∀ k ∈ sF.coh.stalled, k.lid = 0 ∧ k.combined = none) →
            exec .tlbInvalidationComplete s = .next { sF.mapStrands (fun t => { t with pend := Vector.replicate 32 0 }) with
              xl := { s.xl with requests := rest, done := s.xl.done + 1 } }))
    ∧ ((s.die s.arg.die).notifs = [] → exec .notificationDelivery s = .next s)
    ∧ (∀ n rest, (s.die s.arg.die).notifs = n :: rest → ∃ t, exec .notificationDelivery s = .next t
        ∧ (n.invZ = true → (t.die s.arg.die).notifs = rest ∧ t.coh = s.coh
          ∧ (∀ c ∈ t.cores, coreDie c.id = s.arg.die → ∀ l ∈ c.lines,
              ¬(l.space = .dev ∧ l.line / 512 = n.req.line / 512 ∧ l.coh = .z))
          ∧ t.cores.map (·.id) = s.cores.map (·.id))
        ∧ (n.invZ = false → (∀ r ∈ s.coh.queued, ¬(r.space = n.req.space ∧ r.line = n.req.line)) →
          (t.die s.arg.die).notifs = rest ∧ t.cores = s.cores
          ∧ t.coh = { s.coh with snoops := s.coh.snoops ++ (s.snooped s.arg.die n.req).map fun id => (id, n) }))
    ∧ ((∀ p ∈ s.coh.snoops, p.1 ≠ s.arg.core) → exec .snoopAnswer s = .next s)
    ∧ (∀ n rest, s.coh.snoops = (s.arg.core, n) :: rest → s.coh.queued = [] → n.req.src ≠ .core s.arg.core →
      ∃ t, exec .snoopAnswer s = .next t
        ∧ t.coh = { s.coh with snoops := rest }
        ∧ (∀ c ∈ t.cores, c.id = s.arg.core → n.req.write = true → ∀ l ∈ c.lines,
            l.space = n.req.space → l.line = n.req.line → l.coh = .z)
        ∧ (t.cores.filter fun c => c.id != s.arg.core) = s.cores.filter fun c => c.id != s.arg.core)
    ∧ (let r : CohReq := { src := s.arg.req, space := s.arg.space, line := s.arg.addr, write := s.arg.flag };
      ((∃ n, s.arg.req = .peer n) → exec .directoryRequest s = .next s)
      ∧ ((∀ n, s.arg.req ≠ .peer n) → s.lineBusy r.space r.line = true →
          exec .directoryRequest s = .next { s with coh := { s.coh with queued := s.coh.queued ++ [r] } })
      ∧ ((∀ n, s.arg.req ≠ .peer n) → s.lineBusy r.space r.line = false → ∃ t, exec .directoryRequest s = .next t
          ∧ t.lineBusy r.space r.line = true ∧ t.coh.queued = s.coh.queued ∧ t.cores = s.cores ∧ t.dev = s.dev))
    ∧ (∀ p, inLine s.arg.addr s.arg.n = true → s.plat.booted = true → s.arg.addr < s.mem.lim * 65536 →
      s.tablePhys s.arg.addr = some p →
      ((s.held s.arg.addr true = true ∨ s.tableHeld s.arg.addr = true) →
        exec .hostCxlMemRead s = .next { s with coh := { s.coh with
        hostReqs := s.coh.hostReqs ++ [{ addr := s.arg.addr, n := s.arg.n, write := none }] } })
      ∧ (s.held s.arg.addr true = false → s.tableHeld s.arg.addr = false → s.badPiece (p, s.arg.n) = true → ∃ c, asked c
        ∧ exec .hostCxlMemRead s = .next { c with hc := { s.hc with reads := none :: s.hc.reads } })
      ∧ (s.held s.arg.addr true = false → s.tableHeld s.arg.addr = false → s.badPiece (p, s.arg.n) = false →
        ∃ t, exec .hostCxlMemRead s = .next t
        ∧ t.hc.reads = some (s.readPhys p s.arg.n) :: s.hc.reads ∧ t.dev = s.dev
        ∧ (0 < s.freezeCount (pageOf s.arg.addr) →
            (∀ e ∈ t.cat.entries, e.pages.contains (pageOf s.arg.addr) = true → e.holders.getLsbD 0 = true)
            ∧ (s.plat.pktbase.getLsbD 0 = false → t.coh = s.coh))))
    ∧ (inLine s.arg.addr s.arg.n = true → s.plat.booted = true → s.arg.addr < s.mem.lim * 65536 →
        s.tableHeld s.arg.addr = true → s.tablePhys s.arg.addr = none →
        exec .hostCxlMemRead s = .next { s with coh := { s.coh with
          hostReqs := s.coh.hostReqs ++ [{ addr := s.arg.addr, n := s.arg.n, write := none }] } })
    ∧ (inLine s.arg.addr s.arg.n = true → (s.plat.booted = false ∨ s.mem.lim * 65536 ≤ s.arg.addr) →
        exec .hostCxlMemRead s = .next { s with hc := { s.hc with reads := none :: s.hc.reads } })
    ∧ (inLine s.arg.addr s.arg.n = true → s.plat.booted = true → s.arg.addr < s.mem.lim * 65536 →
        s.tableHeld s.arg.addr = false → s.tablePhys s.arg.addr = none →
        ∃ c, asked c ∧ exec .hostCxlMemRead s = .next { c with hc := { s.hc with reads := none :: s.hc.reads } })
    ∧ (inLine s.arg.addr s.arg.bytes.length = true →
      let refused (c : State) : State := { c with
        hc := { s.hc with herra := BitVec.ofNat 64 s.arg.addr, herrn := s.hc.herrn + 1 }
        plat := { s.plat with merr := s.plat.merr ||| 32 } }
      let waits : Prop := exec .hostCxlMemWrite s = .next { s with coh := { s.coh with hostReqs := s.coh.hostReqs ++
        [{ addr := s.arg.addr, n := s.arg.bytes.length, write := some s.arg.bytes }] } }
      (s.plat.booted = false → exec .hostCxlMemWrite s = .next s)
      ∧ (s.plat.booted = true → s.arg.addr < s.mem.lim * 65536 → s.tableHeld s.arg.addr = true →
          s.tablePhys s.arg.addr = none → waits)
      ∧ (s.plat.booted = true → s.mem.lim * 65536 ≤ s.arg.addr → exec .hostCxlMemWrite s = .next (refused s))
      ∧ (s.plat.booted = true → s.arg.addr < s.mem.lim * 65536 → s.tableHeld s.arg.addr = false →
          s.tablePhys s.arg.addr = none → ∃ c, asked c ∧ exec .hostCxlMemWrite s = .next (refused c))
      ∧ ∀ p, s.plat.booted = true → s.arg.addr < s.mem.lim * 65536 → s.tablePhys s.arg.addr = some p →
        (s.locked (pageOf s.arg.addr) = true → waits)
        ∧ (s.locked (pageOf s.arg.addr) = false → 0 < s.freezeCount (pageOf s.arg.addr) →
            exec .hostCxlMemWrite s = .next (refused s))
        ∧ (s.freezeCount (pageOf s.arg.addr) = 0 → s.collecting (pageOf s.arg.addr) = true → waits)
        ∧ (s.writeGate (pageOf s.arg.addr) = .free →
            (s.held s.arg.addr true = true ∨ s.tableHeld s.arg.addr = true) → waits)
        ∧ (s.writeGate (pageOf s.arg.addr) = .free → s.held s.arg.addr true = false → s.tableHeld s.arg.addr = false →
          ∃ c, asked c ∧ exec .hostCxlMemWrite s = .next
            ((c.writePhys p s.arg.bytes none).dirArrive { src := .host, space := .dev, line := lineOf s.arg.addr, write := true })))
    ∧ ((1 ≤ s.arg.peer ∧ s.arg.peer ≤ 63 ∧ 0 < s.freezeCount (pageOf s.arg.addr) → ∃ t, exec .peerRead s = .next t
        ∧ t = { s with cat := { s.cat with entries := t.cat.entries } }
        ∧ t.cat.entries = s.cat.entries.map fun e => if e.pages.contains (pageOf s.arg.addr) then
            { e with holders := e.holders ||| BitVec.ofNat 64 (2 ^ s.arg.peer) } else e)
      ∧ (s.freezeCount (pageOf s.arg.addr) = 0 → exec .peerRead s = .next s))
    ∧ (let r := s.arg.memReq;
      let g := r.dla / 4096;
      let n := (r.write.map List.length).getD 1;
      inLine r.dla n = true →
      let mine (t : Strand) : Prop :=
        r.uid ≠ 0 ∧ t.uid = r.uid ∧ t.lid = r.lid ∧ t.system = false ∧ t.status ≠ .gone
      let stands : Prop := s.cur.status = .running ∨ (∃ w, s.cur.status = .waiting w) ∨ (∃ us, s.cur.status = .yielding us)
        ∨ (∃ k, s.cur.status = .moving k) ∨ ∃ k, s.cur.status = .migWait k
      let acc := if r.write.isSome = true then 2 else 1
      let ctx := ((s.launch r.lid).map (·.ctx)).getD 0
      let faulted (cls : Nat) : Prop :=
        let faults (core unit sid : Nat) : Prop := UnitFaults .memoryRequestArrival s core unit r.lid ctx sid cls r.dla acc
        (r.unit = true → (r.lid = 0 → exec .memoryRequestArrival s = .next s)
          ∧ (r.lid ≠ 0 → exec .memoryRequestArrival s = .next (s.killFault r.lid 0x0A)))
        ∧ (r.unit = false → r.lid = 0 →
        (r.write = none → exec .memoryRequestArrival s = .next { s with hc := { s.hc with reads := none :: s.hc.reads } })
        ∧ (r.write ≠ none → exec .memoryRequestArrival s = .next { s with
            hc := { s.hc with herra := BitVec.ofNat 64 r.dla, herrn := s.hc.herrn + 1 }
            plat := { s.plat with merr := s.plat.merr ||| 32 } }))
        ∧ (r.unit = false → r.lid ≠ 0 →
        ((∀ t ∈ s.strands, ¬mine t) →
          (r.engine = none → exec .memoryRequestArrival s = .next (s.killFault r.lid cls))
          ∧ ∀ c, r.engine = some c → faults c 4 0)
        ∧ (mine s.cur → ∀ c, r.engine = some c → faults c 4 s.cur.sid)
        ∧ (mine s.cur → r.engine = none → ¬stands → faults s.cur.core s.cur.slot s.cur.sid)
        ∧ (mine s.cur → r.engine = none → stands → s.cur.cls = .control →
            exec .memoryRequestArrival s = .next (s.killFault r.lid cls))
        ∧ (mine s.cur → r.engine = none → stands → s.cur.cls ≠ .control →
            exec .memoryRequestArrival s = .next (s.mapStrands fun t =>
              if t.uid = r.uid then
                { t with status := .trapping { cause := 2, cls := cls, entry := none, pages := [(r.dla, 2, acc)] } }
              else t)))
      (s.mem.lim * 65536 ≤ r.dla → faulted 0x15)
      ∧ (r.dla < s.mem.lim * 65536 →
        let waits := (s.mem.st ≠ 0 ∧ s.mem.p - 64 ≤ g ∧ g < s.mem.p)
          ∨ ∃ k ∈ s.xl.locks, (k.page = pageOf r.dla ∨ k.target = pageOf r.dla) ∧ (k.byHost = true ∨ (r.lid = 0 ∧ r.unit = false))
        (waits → exec .memoryRequestArrival s = .next { s with coh := { s.coh with stalled := s.coh.stalled ++ [r] } })
        ∧ (¬waits →
          (s.mem.stackOf g ≠ r.stack → exec .memoryRequestArrival s = .next { s with agenda :=
            { row := .memoryRequestArrival, arg := { memReq := { r with stack := s.mem.stackOf g } } } :: s.agenda })
          ∧ (s.mem.stackOf g = r.stack →
            let counted (t : State) : Prop := t = { s with plat := t.plat }
              ∧ t.plat = { s.plat with stkce := t.plat.stkce } ∧ (r.corrected = false → t = s)
              ∧ (r.corrected = true → r.stack < s.plat.stkce.length → t.plat.stkce[r.stack]? = s.plat.stkce[r.stack]?.map (· + 1))
            (r.write ≠ none → r.combined = none → s.writeGate (pageOf r.dla) = .frozen → faulted 0x10)
            ∧ (r.write = none → ∃ c t, counted c ∧ CachesOnly c t ∧ exec .memoryRequestArrival s = .next t)
            ∧ (∀ bs vec, r.write = some bs → r.combined = some vec → s.locked (pageOf r.dla) = false → ∃ c, counted c
                ∧ exec .memoryRequestArrival s = .next (c.writePhys { space := .dev, addr := r.dla, key := r.key, unt := true }
                    bs (if vec = true then none else some r.uid)))
            ∧ (r.write ≠ none → (if r.combined = none then s.writeGate (pageOf r.dla) = .stall else s.locked (pageOf r.dla) = true) →
                exec .memoryRequestArrival s = .next { s with coh := { s.coh with stalled := s.coh.stalled ++ [r] } })
            ∧ ∀ bs, r.write = some bs → r.combined = none → s.writeGate (pageOf r.dla) = .free → ∃ c t, counted c ∧ CachesOnly c t
                ∧ exec .memoryRequestArrival s =
                  .next (t.writePhys { space := .dev, addr := r.dla, key := r.key, unt := false } bs none)))))
    ∧ ((∀ l ∈ s.xl.locks, l.page ≠ s.arg.page) → exec .pageMigrationRequest s = .next { s with xl := { s.xl with
        locks := s.xl.locks ++ [{ page := s.arg.page, byHost := s.arg.flag, target := s.arg.addr }] } })
    ∧ (∀ l rest, s.xl.locks = l :: rest → l.page = s.arg.page →
        (l.byHost = s.arg.flag → s.coh.hostReqs = [] → s.coh.stalled = [] →
          let f (p : Nat) : Nat := if p = l.page then l.target else p
          exec .pageMigrationRequest s = .next { s with
            xl := { s.xl with locks := rest }
            cat := { s.cat with
              entries := s.cat.entries.map fun e => { e with pages := e.pages.map f }
              jobs := s.cat.jobs.map fun j => { j with pages := j.pages.map f }
              collecting := s.cat.collecting.map fun e => (e.1, f e.2) } })
        ∧ (l.byHost ≠ s.arg.flag → exec .pageMigrationRequest s = .next s))
    ∧ exec .backInvalidationAck s = .next { s with cat := { s.cat with
        acks := s.cat.acks.filter fun a => !(a == (s.arg.entry, s.arg.peer)) } }
    ∧ (s.arg.peer ≠ 0 → (∃ a ∈ s.cat.acks, a.2 = s.arg.peer) → exec .peerAckTimeout s = .next { s with
        cat := { s.cat with acks := s.cat.acks.filter fun a => !(a.2 == s.arg.peer) }
        plat := { s.plat with
          peerst := s.plat.peerst ||| BitVec.ofNat 64 (2 ^ s.arg.peer), merr := s.plat.merr ||| 16 } })
    ∧ ((∀ a ∈ s.cat.acks, a.2 ≠ s.arg.peer) → exec .peerAckTimeout s = .next s)
    ∧ ((∃ a ∈ s.cat.acks, a.2 = 0) → exec .hostBiTimeout s = .next { s with
        cat := { s.cat with acks := s.cat.acks.filter fun a => !(a.2 == 0) }
        plat := { s.plat with merr := s.plat.merr ||| 64 } })
    ∧ ((∀ a ∈ s.cat.acks, a.2 ≠ 0) → exec .hostBiTimeout s = .next s)
    ∧ (∀ e, (s.cat.entries.find? fun e => e.idx == s.arg.entry) = some e →
      (s.collectionOver e = false → exec .collectionComplete s = .next s)
      ∧ (s.collectionOver e = true → s.coh.hostReqs = [] → s.coh.stalled = [] → ∃ t, exec .collectionComplete s = .next t
        ∧ (∀ f ∈ t.cat.entries, f.idx ≠ s.arg.entry) ∧ (∀ c ∈ t.cat.collecting, c.1 ≠ s.arg.entry)
        ∧ (∀ lid glin stage six, e.thawer = some (lid, glin, stage, six) → t.wire = s.wire ++
            [{ lid := lid, glin := glin, stage := stage, six := six
               msg := { ch := e.ch, hdr := msgHdr 4 e.ch.val (strandId glin stage six)
                        payload := BitVec.ofNat 64 (e.gen.toNat * 2 ^ 16 + e.idx) } }])))
    ∧ ((∃ l ∈ s.lu.launches, l.ctx = s.arg.ctx ∧ l.live = true) → exec .contextDestroy s = .next s)
    ∧ ((∀ l ∈ s.lu.launches, l.ctx = s.arg.ctx → l.live = false) → (∀ e ∈ s.cat.entries, e.ctx ≠ s.arg.ctx) →
        ∃ t, exec .contextDestroy s = .next t
          ∧ (∀ k ∈ t.keys, k.owner.toNat = s.arg.ctx → k.en = false) ∧ (∀ c ∈ t.lu.code, c.ctx ≠ s.arg.ctx)
          ∧ t = { s with keys := t.keys, lu := { s.lu with code := t.lu.code } })
    ∧ (s.arg.space ≠ .dev → ∃ t, exec .ownerBackInvalidation s = .next t
        ∧ (∀ c ∈ t.cores, ∀ l ∈ c.lines, ¬(l.space = s.arg.space ∧ l.line = s.arg.addr))
        ∧ (t.dirEntry s.arg.space s.arg.addr).other = none
        ∧ (t.dirEntry s.arg.space s.arg.addr).host = (s.dirEntry s.arg.space s.arg.addr).host
        ∧ t = { s with cores := t.cores, coh := { s.coh with dir := t.coh.dir } })

/-- R253, R256, R311, R312, R324 to R328: a temperature is stored, leaves locked-clock mode at TTRIP and is a machine error
10 above it with one slot left (at the first update that finds it: log 62); slots are disabled from the highest and enabled
from the lowest; a failed core leaves service; clocks, links, whose loss every accepted collective of the port meets (log 36),
power, a boot that fails, and attestation, whose measurements the spec gives no values (log 59). TTRIP is `Config.ttrip`
(log 50); which slot goes when is also the model's (log 48), and so is what a reset leaves where R324 names no value (log 1,
log 5). -/
def Obligations.ThermalAndPower : Prop :=
  ∀ (s : State) (c : Core), c ∈ s.cores → (∀ d ∈ s.cores, d.id = c.id → d = c) → s.arg.core = c.id →
    let temp := s.arg.word.setWidth 8
    let put (c' : Core) : State := { s with cores := s.cores.map fun d => if d.id = c.id then c' else d }
    let one : Prop := ((List.range 4).filter fun n => c.sen.getLsbD n).length ≤ 1
    (temp.toNat < Config.ttrip → exec .thermalSensorUpdate s = .next (put { c with temp := temp }))
    ∧ (s.plat.locked = false → ¬(one ∧ Config.ttrip + 10 ≤ temp.toNat) →
        exec .thermalSensorUpdate s = .next (put { c with temp := temp }))
    ∧ (s.plat.locked = true → one → Config.ttrip + 10 ≤ temp.toNat →
        exec .thermalSensorUpdate s = .next { put { c with temp := temp } with plat := { s.plat with
          lock := false, locked := false, changing := false, merrCore := BitVec.ofNat 16 c.id
          merr := s.plat.merr ||| 4 ||| 2 } })
    ∧ (Config.ttrip ≤ temp.toNat → s.plat.locked = true → ¬(one ∧ Config.ttrip + 10 ≤ temp.toNat) →
        exec .thermalSensorUpdate s = .next { put { c with temp := temp } with plat := { s.plat with
          lock := false, locked := false, changing := false, merr := s.plat.merr ||| 4 } })
    ∧ (s.plat.locked = false → one → Config.ttrip + 10 ≤ temp.toNat →
        exec .thermalSensorUpdate s = .next { put { c with temp := temp } with plat := { s.plat with
          merrCore := BitVec.ofNat 16 c.id, merr := s.plat.merr ||| 2 } })
    ∧ (∀ n, n < clsSlots (coreClass c.id) → c.sen.getLsbD n = true →
        (∀ m, n < m → m < clsSlots (coreClass c.id) → c.sen.getLsbD m = false) →
        Config.ttrip ≤ c.temp.toNat → s.plat.locked = false →
        ((∃ m, m < n ∧ c.sen.getLsbD m = true) →
          exec .thermalSlotDisable s = .next (put { c with sen := c.sen &&& ~~~(1#4 <<< n) }))
        ∧ ((∀ m, m < n → c.sen.getLsbD m = false) → exec .thermalSlotDisable s = .next s))
    ∧ ((c.temp.toNat < Config.ttrip ∨ s.plat.locked = true) → exec .thermalSlotDisable s = .next s)
    ∧ (∀ n, n < clsSlots (coreClass c.id) → c.sen.getLsbD n = false → (∀ m, m < n → c.sen.getLsbD m = true) →
        c.temp.toNat + 5 ≤ Config.ttrip →
        exec .thermalSlotEnable s = .next (put { c with sen := c.sen ||| 1#4 <<< n }))
    ∧ (Config.ttrip < c.temp.toNat + 5 → exec .thermalSlotEnable s = .next s)
    ∧ exec .selftestFailure s = .next { put { c with inService := false } with plat := { s.plat with
        merrCore := BitVec.ofNat 16 c.id, merr := s.plat.merr ||| 1 } }
    ∧ (s.plat.booted = true →
      ((∀ d ∈ s.cores, d.temp.toNat < Config.ttrip) →
        exec .platctlLock s = .next { s with plat := { s.plat with lock := true, changing := !s.plat.locked } })
      ∧ ((∃ d ∈ s.cores, Config.ttrip ≤ d.temp.toNat) → exec .platctlLock s = .next s)
      ∧ exec .platctlUnlock s = .next { s with plat := { s.plat with lock := false, changing := s.plat.locked } })
    ∧ (s.plat.changing = true → exec .clockChangeComplete s = .next { s with plat := { s.plat with
        locked := s.plat.lock, changing := false } })
    ∧ (s.plat.changing = false → exec .clockChangeComplete s = .next s)
    ∧ (∃ b : BitVec 8, (∀ n, n < 8 → b.getLsbD n = if n = s.arg.n % 8 then s.arg.flag else s.plat.netst.getLsbD n)
        ∧ (s.arg.flag = true → exec .ethernetLinkChange s = .next { s with plat := { s.plat with netst := b } })
        ∧ (s.arg.flag = false →
            let f (k : CollCmd) : CollCmd := if k.port = s.arg.n % 8 then { k with lost := true } else k
            exec .ethernetLinkChange s = .next { s with
              die0 := { s.die0 with coll := s.die0.coll.map f }, die1 := { s.die1 with coll := s.die1.coll.map f }
              plat := { s.plat with netst := b } }))
    ∧ (s.msix0 = true ↔ s.plat.merr ≠ 0)
    ∧ ((∃ q ∈ s.lu.uqs, q.csn ≠ q.ssn) → exec .d3hotEntry s = .next s)
    ∧ ((∀ q ∈ s.lu.uqs, q.csn = q.ssn) → exec .d3hotEntry s = .next { s with plat := { s.plat with d3 := true } })
    ∧ exec .d0Entry s = .next { s with plat := { s.plat with d3 := false } }
    ∧ exec .spdmRequest s = .next { s with plat := { s.plat with spdm := s.plat.spdm ++ [
        if s.plat.booted = true then
          some { firmware := Config.firmwareDigest, config := Config.configDigest, version := Config.securityVersion
                 signature := Config.signature s.plat.spdm.length }
        else none] } }
    ∧ (s.arg.boot = .failed → exec .powerOnReset s = .next { State.reset with
        host := s.host, peer := s.peer, agenda := s.agenda, free := s.free
        cur := { Strand.firmware with status := .gone }, plat := { State.reset.plat with booted := false } })
    ∧ (s.plat.booted = false → ∀ off n w,
        (8 ≤ off → (s.blockRead .host off n).1 = 0) ∧ (s.blockRead .host off n).2 = s ∧ s.blockWrite .host off n w = s)
    ∧ (s.arg.boot = .ok [] → exec .powerOnReset s = .next { State.reset with
        host := s.host, peer := s.peer, agenda := s.agenda, free := s.free })
    ∧ ∀ id, s.arg.boot = .ok [id] → ∃ t, exec .powerOnReset s = .next t
        ∧ (∀ d ∈ t.cores, d.inService = decide (d.id ≠ id)) ∧ t.plat.merr = 1 ∧ t.plat.merrCore = BitVec.ofNat 16 id
        ∧ t.cur = Strand.firmware ∧ t.dev = []

/-- R171, R173, R175, R299 to R302, R309, R310, R312, R314, R317, R318, R320, R322, by a control core in M-mode or by the
host: what a write of each register with an effect does, what reads clear, the split applied to an empty core, a window of the
sweep, the snapshot, the host's presence with what its loss takes (R318: a dirty line's data) and its return writes, commands
to launches, keys, and the collective engine (with log 17, log 18 and log 36). -/
def Obligations.RegisterEvents : Prop :=
  ∀ (s : State), s.plat.booted = true →
    let w := s.arg.word
    let m := s.mem
    let mem (m' : MemSvc) : State := { s with mem := m' }
    let eA : Event := { row := .hostctlAttach, arg := {} }
    (∀ c ∈ s.cores, (∀ d ∈ s.cores, d.id = c.id → d = c) → s.arg.core = c.id → c.id < 8192 →
      let put (c' : Core) : State := { s with cores := s.cores.map fun d => if d.id = c.id then c' else d }
      (coreClass c.id = .vector →
        exec .lsplitWrite s = .next (put { c with csz := w.extractLsb' 0 2, pend := w.extractLsb' 0 2 != c.cur })
        ∧ exec .vpoolWrite s = .next (put { c with vway := w.extractLsb' 16 16, vsize := w.extractLsb' 0 2 })
        ∧ exec .wmaskWrite s = .next (put { c with wmask := c.wmask.set (s.arg.n % 4) (w.extractLsb' 0 16) }))
      ∧ (coreClass c.id ≠ .vector →
        exec .lsplitWrite s = .next s ∧ exec .vpoolWrite s = .next s ∧ exec .wmaskWrite s = .next s)
      ∧ (c.pend = true → s.onCore c.id = [] → ∃ t, exec .splitApply s = .next t
        ∧ t = { put { c with lines := [], cur := c.csz, pend := false } with coh := { s.coh with dir := t.coh.dir } })
      ∧ ((c.pend = false ∨ s.onCore c.id ≠ []) → exec .splitApply s = .next s))
    ∧ (let cap := (w.extractLsb' 16 24).toNat;
      ((m.st ≠ 0 ∨ ncap m.nActive < cap) → exec .memcapWrite s = .next (mem { m with refuse := true }))
      ∧ (m.st = 0 → cap ≤ ncap m.nActive → cap < m.lim → exec .memcapWrite s = .next (mem { m with cap := cap }))
      ∧ (m.st = 0 → cap ≤ ncap m.nActive → m.lim ≤ cap →
          exec .memcapWrite s = .next (mem { m with cap := cap, lim := cap })))
    ∧ (let f := (w.extractLsb' 16 4).toNat;
      let refused : Prop := m.st ≠ 0 ∨ m.active.getLsbD f = false ∨ m.nActive = 1 ∨ ncap (m.nActive - 1) < m.cap ∨
        m.snapBusy = true;
      (refused → exec .irmctlStart s = .next (mem { m with refuse := true }))
      ∧ (¬refused →
          let m' : MemSvc := { m with
            phase := m.phase + 1, active := m.active &&& ~~~(1#12 <<< f), fstk := w.extractLsb' 16 4, lim := m.cap
            p := 16 * m.cap, st := 1, share := if w.extractLsb' 8 4 = 0 then 4 else w.extractLsb' 8 4 }
          (m.cap = 0 → exec .irmctlStart s = .next { mem { m' with p := 0, st := 0, fstk := 0 } with
            plat := { s.plat with merr := s.plat.merr ||| 8 } })
          ∧ (m.cap ≠ 0 → exec .irmctlStart s = .next (mem { m' with st := if m'.staged m'.p = true then 2 else 1 }))))
    ∧ (m.st = 0 → exec .sweepWindow s = .next s)
    ∧ (m.st ≠ 0 → s.coh.stalled = [] → s.coh.hostReqs = [] → s.bad = [] → ∃ t, exec .sweepWindow s = .next t
      ∧ (m.p ≤ 64 → t = { mem { m with p := 0, st := 0, fstk := 0 } with
        plat := { s.plat with merr := s.plat.merr ||| 8 }, coh := { s.coh with dir := t.coh.dir } })
      ∧ (64 < m.p →
          let m' : MemSvc := { m with p := m.p - 64 }
          t = { mem { m' with st := if m'.staged m'.p = true then 2 else 1 } with coh := { s.coh with dir := t.coh.dir } })
      ∧ ∀ sp line, (t.homeDie sp line = s.homeDie sp line → t.dirEntry sp line = s.dirEntry sp line)
        ∧ (t.homeDie sp line ≠ s.homeDie sp line → (t.dirEntry sp line).host = (s.dirEntry sp line).host
          ∧ ((t.dirEntry sp line).other.isSome = true ↔ ∃ c ∈ t.cores, coreDie c.id ≠ t.homeDie sp line
              ∧ ∃ l ∈ c.lines, l.space = sp ∧ l.line = line ∧ l.coh ≠ .z)))
    ∧ ((m.snapBusy = true ∨ m.st ≠ 0 ∨ 2 ^ 48 < m.snapDst.toNat + m.lim * 65536) →
        exec .snapctlStart s = .next (mem { m with snapErr := true }))
    ∧ (m.snapBusy = false → m.st = 0 → m.snapDst.toNat + m.lim * 65536 ≤ 2 ^ 48 →
        exec .snapctlStart s = .next (mem { m with snapBusy := true, snapLim := m.lim, snapTo := m.snapDst }))
    ∧ (m.snapBusy = true →
      exec .snapshotFabricError s = .next (mem { m with snapErr := true, snapBusy := false })
      ∧ (s.peer.wf → ∃ p : Mem, exec .snapshotComplete s =
            .next { mem { m with snapDone := true, snapBusy := false } with peer := p }
          ∧ ∀ n i, n < m.snapLim * 512 → i < 128 → some (p.get (m.snapTo.toNat + n * 128 + i)) = (s.cipherLine n)[i]?))
    ∧ (m.snapBusy = false → exec .snapshotFabricError s = .next s ∧ exec .snapshotComplete s = .next s)
    ∧ ((∃ q ∈ s.lu.uqs, s.uqMapped q.uq = false ∧ s.recHeld q.recAddr = true) → EventWaits .hostctlAttach s eA)
    ∧ ((∀ q ∈ s.lu.uqs, s.uqMapped q.uq = true ∨ s.recHeld q.recAddr = false) → EventAgain .hostctlAttach s eA)
    ∧ (eA ∉ s.lu.waiting → (s.lu.uqs.map (·.uq)).Nodup → (∀ q ∈ s.lu.uqs, q.held = [] ∧ s.uqMapped q.uq = true) →
      ∃ t, exec .hostctlAttach s = .next t
        ∧ t.hc = { s.hc with present := true }
        ∧ t.lu = { s.lu with uqs := s.lu.uqs.map fun q => { q with hold := false } })
    ∧ (∀ u : UQueue, eA ∉ s.lu.waiting → s.lu.uqs = [u] → u.held = [] → s.uqMapped u.uq = false → s.recHeld u.recAddr = false →
        s.coh.stalled = [] → RecordOpen s (s.reread u) →
        ∃ t, exec .hostctlAttach s = .next t ∧ t.hc = { s.hc with present := true }
          ∧ t.lu = { s.lu with uqs := [{ s.reread u with hold := false }] })
    ∧ (∀ (u : UQueue) seq st r, eA ∉ s.lu.waiting → s.lu.uqs = [u] → s.uqMapped u.uq = true → s.recStalls u.recAddr = false →
        u.held = [(seq, st, r)] → u.space = .host →
        s.host.wf = true → st < 2 ^ 32 →
        let a := u.ring + 32 * (seq % 2 ^ u.rlog)
        let at_ (k : Nat) : Phys := { space := .host, addr := a + k, key := 0, unt := false }
        ∃ t, exec .hostctlAttach s = .next t ∧ t.hc = { s.hc with present := true }
          ∧ leNat (t.readPhys (at_ 0x18) 8) = r.toNat ∧ leNat (t.readPhys (at_ 0x14) 4) = st
          ∧ ∃ v, t.lu.uqs = [v] ∧ v.held = [] ∧ v.hold = false ∧ (seq = u.csn + 1 → u.doneAbove = [] → v.csn = seq))
    ∧ (∀ i ∈ [Instr.hostctlDetach, .hostLinkDown],
      let left := s.lu.waiting.filter fun e => e.row != .hostctlAttach
      (s.hc.present = false → exec i s = .next { s with lu := { s.lu with waiting := left } })
      ∧ (s.hc.present = true → (s.lu.uqs.map (·.uq)).Nodup →
        (∀ l ∈ s.lu.launches, l.live = true → s.ctxHapol l.ctx = false) → ∃ t, exec i s = .next t
        ∧ t.hc = { s.hc with present := false }
        ∧ (∀ c ∈ t.cores, ∀ l ∈ c.lines, l.space ≠ .host) ∧ (∀ e ∈ t.coh.dir, e.space ≠ .host)
        ∧ t.lu = { s.lu with waiting := left, uqs := s.lu.uqs.map (fun q =>
            if s.lu.slots.any (fun p => p.mapped && p.uq == q.uq) then { q with hold := true } else q) })
      ∧ (s.hc.present = true → (∀ p ∈ s.lu.slots, p.mapped = false) →
        ∃ c t, CachesOnly { s with lu := { s.lu with waiting := left } } c
          ∧ ((∀ l ∈ s.lu.launches, l.live = false) → c = { s with lu := { s.lu with waiting := left } })
          ∧ let lost := c.cores.flatMap fun c => c.lines.filter fun l => l.space == .host && l.coh == .m
          t = { c with hc := { s.hc with present := false }, host := t.host
                       cores := c.cores.map fun c => { c with lines := c.lines.filter fun l => l.space != .host }
                       coh := { c.coh with dir := c.coh.dir.filter fun e => e.space != .host } }
          ∧ (lost = [] → t.host = s.host)
          ∧ (∀ l, lost = [l] → s.host.wf = true →
            (∀ i, i < l.back.length → some (t.host.get (l.line * 128 + i)) = l.back[i]?)
            ∧ ∀ a, ¬(l.line * 128 ≤ a ∧ a < l.line * 128 + l.back.length) → t.host.get a = s.host.get a)
          ∧ ((∀ l ∈ s.lu.launches, l.live = true → s.ctxHapol l.ctx = false) → exec i s = .next t)
          ∧ ∀ l, s.lu.launches = [l] → l.live = true → s.ctxHapol l.ctx = true →
              (∃ o ∈ s.strands, o.lid = l.lid ∧ o.system = false ∧ o.status ≠ .gone) →
              exec i s = .next (t.killFault l.lid 0x16)))
    ∧ exec .svcnotifyWrite s = .next (s.mapStrands fun t =>
        if t.ctx = (w.extractLsb' 32 12).toNat ∧ t.slip = some (w.extractLsb' 0 16).toNat ∧ t.posted = true ∧
          t.status = .waiting .service
        then { t with status := .running } else t)
    ∧ (let ctx := s.arg.ctx % 4096;
      let lid := s.hc.hcmdid.toNat;
      (s.liveLaunch ctx lid = none → ∀ i ∈ [Instr.hcmdCancel, .hcmdPreempt, .hcmdResume], exec i s = .next s)
      ∧ ∀ l, s.liveLaunch ctx lid = some l →
        exec .hcmdCancel s = .next (s.kill lid 0x03 0)
        ∧ (let e : Event := { row := .preemptionStart, arg := { lid := lid } }
          (s.ctxHeld ctx = true → EventWaits .hcmdPreempt s e) ∧ (s.ctxHeld ctx = false → EventAgain .hcmdPreempt s e)
          ∧ (s.ctxHeld ctx = false → e ∉ s.lu.waiting →
            (s.preempt lid none = none → exec .hcmdPreempt s = .next s)
            ∧ ∀ s1, s.preempt lid none = some s1 → exec .hcmdPreempt s = .next s1))
        ∧ ((l.st = .preempted ∨ l.st = .preempting) →
            exec .hcmdResume s = .next (s.updLaunch lid fun l => { l with resuming := true }))
        ∧ (l.st = .running → exec .hcmdResume s = .next s))
    ∧ exec .herraRead s = .next { s with hc := { s.hc with
        herra := 0, reads := some (leBytes 8 s.hc.herra.toNat) :: s.hc.reads } }
    ∧ exec .herrnRead s = .next { s with hc := { s.hc with
        herrn := 0, reads := some (leBytes 8 s.hc.herrn.toNat) :: s.hc.reads } }
    ∧ exec .stkceRead s = .next { s with plat := { s.plat with stkce := s.plat.stkce.set (s.arg.n % 12) 0 } }
    ∧ exec .intrtWrite s = .next { s with plat := { s.plat with intrt := (w.extractLsb' 0 32).setWidth 64 } }
    ∧ (let n := s.arg.n % 4096;
      (n = 0 → exec .kctlWrite s = .next s ∧ exec .nonceWrite s = .next s)
      ∧ (n ≠ 0 →
        (∃ t, exec .kctlWrite s = .next t ∧ t = { s with keys := t.keys } ∧ (∀ k, k ≠ n → t.keySlot k = s.keySlot k)
          ∧ t.keySlot n = { slot := n, en := w.getLsbD 63, owner := w.extractLsb' 0 12
                            key := if w.getLsbD 63 then (s.keySlot n).key else none })
        ∧ ((s.keySlot n).en = true → exec .nonceWrite s = .next s)
        ∧ ((s.keySlot n).en = false → ∃ t, exec .nonceWrite s = .next t ∧ t = { s with keys := t.keys }
          ∧ (∀ k, k ≠ n → t.keySlot k = s.keySlot k) ∧ t.keySlot n = { s.keySlot n with key := some w })))
    ∧ (s.arg.flag = false →
      (s.arg.addr = 0x010000050000 → exec .registerWrite s = .next { s with plat := { s.plat with
        ctxbase := w &&& 0xFFFFFFFFFFFC0000 } })
      ∧ (s.arg.addr = 0x010000050008 → exec .registerWrite s = .next { s with plat := { s.plat with
        tenbase := w &&& 0xFFFFFFFFFFFFE000 } })
      ∧ (s.arg.addr = 0x010000050010 → exec .registerWrite s = exec .intrtWrite s)
      ∧ (s.arg.addr = 0x010000050018 →
          exec .registerWrite s = exec (if w.getLsbD 0 = true then .platctlLock else .platctlUnlock) s)
      ∧ (s.arg.addr = 0x010000050020 → exec .registerWrite s = .next { s with plat := { s.plat with
        merr := s.plat.merr &&& ~~~(w.extractLsb' 0 7) } })
      ∧ (s.arg.addr = 0x010000050028 → exec .registerWrite s = .next { s with plat := { s.plat with
        peerst := s.plat.peerst &&& ~~~w } })
      ∧ (s.arg.addr = 0x010000050038 → exec .registerWrite s = .next { s with plat := { s.plat with
        pktbase := w &&& 0xFFFFFFFFFFFF0001 } })
      ∧ (s.arg.addr = 0x010000040000 → exec .registerWrite s = exec .memcapWrite s)
      ∧ (s.arg.addr = 0x010000040018 → exec .registerWrite s = .next (mem { m with
        refuse := m.refuse && !(w.getLsbD 5), err := m.err && !(w.getLsbD 4) }))
      ∧ (s.arg.addr = 0x010000040020 →
          exec .registerWrite s = if w.getLsbD 63 = true then exec .irmctlStart s else .next s)
      ∧ (s.arg.addr = 0x010000040028 → exec .registerWrite s = .next (mem { m with snapDst := w &&& 0xFFFFFFFFFFFF0000 }))
      ∧ (s.arg.addr = 0x010000040030 →
          let cleared := mem { m with
            snapErr := m.snapErr && !(w.getLsbD 2), snapDone := m.snapDone && !(w.getLsbD 1) }
          (w.getLsbD 63 = false → exec .registerWrite s = .next cleared)
          ∧ (w = 0x8000000000000000 → exec .registerWrite s = exec .snapctlStart s))
      ∧ (s.arg.addr = 0x010000030000 → exec .registerWrite s = .next { s with xl := { s.xl with
          sub := s.xl.sub + 1
          requests := s.xl.requests ++ [((w.extractLsb' 40 12).toNat,
            if w.getLsbD 63 = true then none else some (w.extractLsb' 0 39).toNat)] } })
      ∧ (s.arg.n < 4096 → (s.arg.addr = 0x010000060000 + 16 * s.arg.n → exec .registerWrite s = exec .kctlWrite s)
        ∧ (s.arg.addr = 0x010000060008 + 16 * s.arg.n → exec .registerWrite s = exec .nonceWrite s))
      ∧ (s.arg.core < 8192 →
        let base := 0x010010000000 + 4096 * s.arg.core
        (s.arg.addr = base → exec .registerWrite s = exec .lsplitWrite s)
        ∧ (s.arg.addr = base + 8 → exec .registerWrite s = exec .vpoolWrite s)
        ∧ (s.arg.n < 4 → s.arg.addr = base + 0x10 + 8 * s.arg.n → exec .registerWrite s = exec .wmaskWrite s)
        ∧ (s.arg.addr = base + 0x60 → exec .registerWrite s = .next { s with cores := s.cores.map fun c =>
            if c.id = s.arg.core ∧ (coreClass c.id) = Cls.vector then
              { c with men := w.getLsbD 16, mthr := w.extractLsb' 0 16 } else c })))
    ∧ (s.arg.flag = true → 0x30000 ≤ s.arg.addr → exec .registerWrite s = .next s)
    ∧ (let here (off : Nat) : Prop := s.arg.addr = if s.arg.flag = true then off else 0x010000000000 + off;
      (s.arg.slot < 1024 → here (0x10000 + 0x20 * s.arg.slot) → exec .registerWrite s = exec .qnotifyWrite s)
      ∧ (here 0x20000 → (w = 1 → exec .registerWrite s = exec .hostctlDetach s)
          ∧ (w = 2 → exec .registerWrite s = exec .hostctlAttach s))
      ∧ (here 0x20008 → exec .registerWrite s = exec .svcnotifyWrite s)
      ∧ (here 0x20010 → exec .registerWrite s = .next { s with hc := { s.hc with hcmdid := w } })
      ∧ (here 0x20018 → s.arg.ctx = (w.extractLsb' 0 12).toNat →
          (w.extractLsb' 62 2 = 0 → exec .registerWrite s = .next s)
          ∧ (w.extractLsb' 62 2 = 1 → exec .registerWrite s = exec .hcmdCancel s)
          ∧ (w.extractLsb' 62 2 = 2 → exec .registerWrite s = exec .hcmdPreempt s)
          ∧ (w.extractLsb' 62 2 = 3 → exec .registerWrite s = exec .hcmdResume s)))
    ∧ (64 ≤ (s.die s.arg.die).coll.length → exec .collectiveQueueAccept s = .next s)
    ∧ (s.collWaiters s.arg.die = [] → exec .collectiveQueueAccept s = .next s)
    ∧ (∀ n a ch rd rest s1, (s.die s.arg.die).coll.length < 64 →
        s.collWaiters s.arg.die = (n, s.cur.uid, a, ch, rd) :: rest →
        State.acceptColl { s with cur := { s.cur with status := .running } } a ch rd = .ok s1 → s1.cur.uid = s.cur.uid →
        exec .collectiveQueueAccept s = .next { s1 with others := s1.others.filter fun o => o.status != .gone })
    ∧ ((s.die s.arg.die).coll = [] → exec .collectiveComplete s = .next s)
    ∧ (∀ c rest cls addr acc, s.arg.die < 2 → (s.core (s.arg.die * 4096)).park = none → (s.die s.arg.die).coll = c :: rest →
        c.fits s.arg.coll = true → s.collJudge c = .error (.kill cls addr acc) →
        UnitFaults .collectiveComplete s (s.arg.die * 4096) 4 c.lid c.ctx c.strandid cls addr acc)
    ∧ ∀ c rest s1, s.arg.die < 2 → (s.core (s.arg.die * 4096)).park = none → (s.die s.arg.die).coll = c :: rest →
        c.fits s.arg.coll = true → s.collJudge c = .ok s1 → ∃ t, exec .collectiveComplete s = .next t
          ∧ (t.die s.arg.die).coll = rest
          ∧ t.wire = s1.wire ++ [{ lid := c.lid, glin := c.glin, stage := c.stage, six := c.six
                                   msg := { ch := c.ch, hdr := msgHdr 3 c.ch.val (c.strandid % 2 ^ 32)
                                            payload := BitVec.ofNat 64 (c.tag * 2 ^ 32 +
                                              (if c.lost = true then 2 else s.arg.coll.stat) * 2 ^ 24) } }]

/-! ### The step, the encoding, the invariants -/

/-- R47, R52, R255 (the order of turns is the model's, log 2): when the parcels at the pc of a running current strand decode to
an instruction, the step executes the row it belongs to, counts it in the mix window and passes the turn. -/
def Obligations.StepRunsDecodedInstruction : Prop :=
  ∀ (s s1 s2 : State) (w n w' : Nat) (i : Instr),
    s.agenda = [] → s.evTurn = false → s.plat.d3 = false → s.ready s.cur = true → s.cur.status = .running → s.irq = none →
    ¬(s.cur.mode = .u ∧ s.cur.getPc = exitAddr) →
    s.fetchParcel s.cur.getPc = .ok (w, s1) → parcelLength w = .ok n → s1.fetchParcels s.cur.getPc (n / 2) = .ok (w', s2) →
    decodeWord n w' = .ok i →
    (∀ t, exec (s2.resolve i).1 (s2.resolve i).2 = .next t → step s = .next
      { (t.issued s.cur.uid s.cur.core s.cur.fork.isSome (isVectorInstr i)).rotate with evTurn := true })
    ∧ (s2.cur.fork = none → (∀ rd rs1, i ≠ .ccmoveMove rd rs1) → s2.resolve i = (i, s2))
    ∧ (s.cur.cls = .control → s.cur.mode ≠ .u → CachesOnly s s2 ∧ (s.plat.pktbase.getLsbD 0 = false → s2 = s))

/-- R52, R66 to R75: the words that the spec writes out decode to the instructions they stand for (`vfmacc.vv v4, v2, v3!, k0`
of R66 and `vmslt.vx`, `vlds`, `recv`, `cpt` of the encoding notes; `vsetli`, `vamoadd`, `vsc.rl`, `bar`, `mig`, `sysc.b`,
`lnch`, `frqpop`, `mmrz`, `cpw`, `qdef`, `accrd` of their own rules and listings). -/
def Obligations.DecodeWords : Prop :=
  decodeTableWord 32 0x6C21B20B = some (.vfmaccVv { vm := true, c2 := true, c1 := false, vs2 := 2, vs1 := 3, vd := 4 })
  ∧ decodeTableWord 32 0xAC44817B = some (.vmsltVx { vm := true, c2 := true, vs2 := 4, rs1 := 9, kd := 2 })
  ∧ decodeTableWord 32 0x20B5042B = some (.vlds { vm := false, w := 0, src2 := 11, base := 10, vd := 8 })
  ∧ decodeTableWord 32 0x2201E65B = some (.recv 12 3)
  ∧ decodeTableWord 64 0x014000000005203F = some (.cpt { ch := 5, base := 10, kd := none })
  ∧ decodeTableWord 64 0x01400000400521BF = some (.cpt { ch := 5, base := 10, kd := some 3 })
  ∧ decodeTableWord 32 0x6686140B = some (.vsaddnVx { vm := false, c2 := true, vs2 := 8, rs1 := 12, vd := 8 })
  ∧ decodeTableWord 32 0xA120507B = some (.vsetli 0 0 2 0x12)
  ∧ decodeTableWord 32 0x0685325B =
      some (.vamoadd { vm := false, aq := true, rl := true, vs2 := 8, base := 10, scope := 3, vd := 4 })
  ∧ decodeTableWord 32 0x5285535B = some (.vsc { vm := false, ord := true, vs2 := 8, base := 10, vd := 6 })
  ∧ decodeTableWord 32 0x1000605B = some .bar
  ∧ decodeTableWord 32 0x4430605B = some .migArray
  ∧ decodeTableWord 32 0x4808E55B = some (.syscB 10 17)
  ∧ decodeTableWord 64 0x01800000000532BF = some (.lnch 5 10 6)
  ∧ decodeTableWord 32 0x060562FB = some (.frqpop 5 10)
  ∧ decodeTableWord 64 0x040000000002803F = some (.mmrz 0 0 5)
  ∧ decodeTableWord 64 0x0C8000000006A03F = some (.cpw { ch := 2, base := 13, kd := none } 0)
  ∧ decodeTableWord 32 0xC008002B = some (.qdef 0 16)
  ∧ decodeTableWord 64 0x000000000000123F = some (.accrd 4 0 0)

/-- R52, R55, R66 to R75: the words of every well-formed instruction decode to it, with every operand at every value; a lane
thread's atomic, to the vector atomic that shares its words (R134). -/
def Obligations.DecodeEncode : Prop :=
  ∀ (i : Instr) (n w : Nat), i.wf = true → encode i = some (n, w) → decodeTableWord n w = some i.canonical

/-- Every step keeps every memory, those of the strands among them, in canonical form (the form is the model's own, log 1). -/
def Obligations.StepKeepsMemory : Prop :=
  ∀ s s' : State, MemWf s → step s = .next s' → MemWf s'

/-- R31, R32, R238, R239, R286: no strand ever has more than the four lane groups of a core, whatever steps are taken. -/
def Obligations.StepKeepsGrants : Prop :=
  ∀ s s' : State, GrantsOk s → step s = .next s' → GrantsOk s'

/-- R7, R12, R171, R173, R175, R253, R255, R299, R311, R318, R324: what reset leaves, where the spec gives it, and that the two
invariants hold of it. -/
def Obligations.Reset : Prop :=
  let s := State.reset
  s.cur.core = 0x0000 ∧ s.cur.mode = .m ∧ s.others = [] ∧ s.cores.length = 480
  ∧ (∀ c ∈ s.cores, c.inService = true ∧ c.cur = 1 ∧ c.csz = 1 ∧ c.pend = false ∧ c.vway = 0xFFFF ∧ c.vsize = 0
      ∧ c.wmask = List.replicate 4 0xFFFF ∧ c.lines = [] ∧ c.temp = 0 ∧ c.men = false ∧ c.mthr = 0
      ∧ c.sen = if coreClass c.id = .vector then 0xF else 0x3)
  ∧ s.mem.lim = 0xB2D05E ∧ s.mem.cap = 0xB2D05E ∧ s.mem.phase = 0 ∧ s.mem.p = 0 ∧ s.mem.active = 0xFFF ∧ s.mem.st = 0
  ∧ s.mem.refuse = false ∧ s.mem.err = false ∧ s.mem.snapBusy = false ∧ s.mem.snapDone = false ∧ s.mem.snapErr = false
  ∧ s.plat.ctxbase = 0 ∧ s.plat.tenbase = 0 ∧ s.plat.intrt = 0x10000000 ∧ s.plat.lock = false ∧ s.plat.locked = false
  ∧ s.plat.merr = 0 ∧ s.plat.peerst = 0 ∧ s.plat.netst = 0 ∧ s.plat.pktbase = 0 ∧ s.hc.present = false
  ∧ (∀ n, s.qslot n = { slot := n, badn := false, mapped := false, uq := 0 })
  ∧ (∀ n, (s.keySlot n).en = decide (n = 0)) ∧ MemWf s ∧ GrantsOk s
end

