-- ==== Sys2Proof/Laws/Coherence.lean ====
section
/-! SUPPORT. What the coherence network and the caches can do: an access that passes them changes caches, directory and
network only, so that memory, strands and every other part of the machine stand (R172 to R183). -/

namespace Sys2Proof.Machine

/-- Two machines that differ in the cores, the coherence records and the dies only. -/
def State.SameButCaches (s t : State) : Prop :=
  ∃ cs k d0 d1, t = { s with cores := cs, coh := k, die0 := d0, die1 := d1 }

/-! ### A preorder -/

theorem State.SameButCaches.refl (s : State) : s.SameButCaches s := ⟨_, _, _, _, rfl⟩

theorem State.SameButCaches.trans {s t u : State} (h : s.SameButCaches t) (h' : t.SameButCaches u) : s.SameButCaches u := by
  obtain ⟨_, _, _, _, rfl⟩ := h
  obtain ⟨c, k, d, e, rfl⟩ := h'
  exact ⟨c, k, d, e, rfl⟩

theorem State.SameButCaches.foldl {α : Type} {f : State → α → State} (hf : ∀ (s : State) (a : α), s.SameButCaches (f s a)) :
    ∀ (l : List α) (s : State), s.SameButCaches (l.foldl f s)
  | [], s => .refl s
  | a :: l, s => (hf s a).trans (foldl hf l (f s a))

/-! ### What such a change leaves -/

theorem State.SameButCaches.cur_eq {s t : State} (h : s.SameButCaches t) : t.cur = s.cur := by
  obtain ⟨_, _, _, _, rfl⟩ := h; rfl

theorem State.SameButCaches.others_eq {s t : State} (h : s.SameButCaches t) : t.others = s.others := by
  obtain ⟨_, _, _, _, rfl⟩ := h; rfl

theorem State.SameButCaches.dev_eq {s t : State} (h : s.SameButCaches t) : t.dev = s.dev := by
  obtain ⟨_, _, _, _, rfl⟩ := h; rfl

theorem State.SameButCaches.host_eq {s t : State} (h : s.SameButCaches t) : t.host = s.host := by
  obtain ⟨_, _, _, _, rfl⟩ := h; rfl

theorem State.SameButCaches.peer_eq {s t : State} (h : s.SameButCaches t) : t.peer = s.peer := by
  obtain ⟨_, _, _, _, rfl⟩ := h; rfl

theorem State.SameButCaches.lu_eq {s t : State} (h : s.SameButCaches t) : t.lu = s.lu := by
  obtain ⟨_, _, _, _, rfl⟩ := h; rfl

theorem State.SameButCaches.cat_eq {s t : State} (h : s.SameButCaches t) : t.cat = s.cat := by
  obtain ⟨_, _, _, _, rfl⟩ := h; rfl

/-! ### The directory and the network (R182, R183, R297) -/

theorem State.updDie_caches (s : State) (d : Nat) (f : Die → Die) : s.SameButCaches (s.updDie d f) := by
  unfold State.updDie
  split <;> exact ⟨_, _, _, _, rfl⟩

theorem State.updCore_caches (s : State) (id : Nat) (f : Core → Core) : s.SameButCaches (s.updCore id f) := ⟨_, _, _, _, rfl⟩

theorem State.putDir_caches (s : State) (e : DirEntry) : s.SameButCaches (s.putDir e) := ⟨_, _, _, _, rfl⟩

theorem State.dirSync_caches (s : State) (sp : Space) (line : Nat) (host : Option Bool) :
    s.SameButCaches (s.dirSync sp line host) := s.putDir_caches _

theorem State.serveCoh_caches (s : State) (r : CohReq) : s.SameButCaches (s.serveCoh r) :=
  (State.SameButCaches.foldl (fun t d => t.updDie_caches d _) _ s).trans (State.putDir_caches _ _)

theorem State.dirNext_caches (s : State) (sp : Space) (line : Nat) : s.SameButCaches (s.dirNext sp line) := by
  unfold State.dirNext
  split
  · exact .refl s
  · split
    · exact State.SameButCaches.trans ⟨_, _, _, _, rfl⟩ (State.serveCoh_caches _ _)
    · exact .refl s

theorem State.dirArrive_caches (s : State) (r : CohReq) : s.SameButCaches (s.dirArrive r) := by
  unfold State.dirArrive
  split
  · exact .refl s
  · split
    · exact ⟨_, _, _, _, rfl⟩
    · exact s.serveCoh_caches r

theorem State.notifDeliver_caches (s : State) (die : Nat) : s.SameButCaches (s.notifDeliver die) := by
  unfold State.notifDeliver
  split
  · exact .refl s
  · dsimp only
    split
    · exact (s.updDie_caches die _).trans ⟨_, _, _, _, rfl⟩
    · exact (s.updDie_caches die _).trans <| State.SameButCaches.trans ⟨_, _, _, _, rfl⟩ (State.dirNext_caches _ _ _)

theorem State.snoopReply_caches (s : State) (core : Nat) : s.SameButCaches (s.snoopReply core) := by
  unfold State.snoopReply
  split
  · exact .refl s
  · exact State.SameButCaches.trans ⟨_, _, _, _, rfl⟩ (State.dirNext_caches _ _ _)

theorem State.settleStep_caches (s : State) : s.SameButCaches s.settleStep := by
  unfold State.settleStep
  split
  · exact s.snoopReply_caches _
  · exact s.notifDeliver_caches 0
  · exact s.notifDeliver_caches 1

theorem State.settleN_caches : ∀ (n : Nat) (s : State), s.SameButCaches (s.settleN n)
  | 0, s => .refl s
  | n + 1, s => by
    rw [State.settleN]
    split
    · exact .refl s
    · exact s.settleStep_caches.trans (settleN_caches n _)

theorem State.settle_caches (s : State) : s.SameButCaches s.settle := by
  unfold State.settle
  split
  · exact .refl s
  · exact s.settleN_caches _

theorem State.answerAll_caches (s : State) (r : CohReq) : s.SameButCaches (s.answerAll r) := by
  unfold State.answerAll
  split
  · exact ⟨_, _, _, _, rfl⟩
  · exact .refl s

theorem State.l2Request_caches (s : State) (sp : Space) (line : Nat) (write : Bool) :
    s.SameButCaches (s.l2Request sp line write) := by
  unfold State.l2Request
  split
  · exact .refl s
  · refine s.settle_caches.trans ?_
    dsimp only
    split
    · exact State.answerAll_caches _ _
    · exact (State.answerAll_caches _ _).trans (State.dirSync_caches _ _ _ _)

theorem State.l2Touch_caches (s : State) (p : Phys × Nat) (write : Bool) : s.SameButCaches (s.l2Touch p write) := by
  unfold State.l2Touch
  split
  · exact .refl s
  · exact State.SameButCaches.foldl (fun s l => s.l2Request_caches _ l _) _ s

/-! ### The cache of a core (R172, R175) -/

theorem State.writeBack_caches (s : State) (l : CLine) : s.SameButCaches (s.writeBack l) := by
  unfold State.writeBack
  split
  · exact s.dirSync_caches _ _ _
  · exact .refl s

theorem State.installVictim_caches (s : State) (id : Nat) (v : CLine) : s.SameButCaches (s.installVictim id v) := by
  unfold State.installVictim
  dsimp only
  split
  · exact s.writeBack_caches v
  · split
    · exact (s.updCore_caches _ _).trans (State.writeBack_caches _ _)
    · exact s.updCore_caches _ _

theorem State.leavePool_caches (s : State) (id : Nat) (sp : Space) (line : Nat) : s.SameButCaches (s.leavePool id sp line) :=
  ⟨_, _, _, _, rfl⟩

theorem State.hit_caches (s : State) (id : Nat) (l : CLine) (coh : Coh) : s.SameButCaches (s.hit id l coh) := s.updCore_caches _ _

theorem State.putLine_caches (s : State) (id : Nat) (l : CLine) (out : Option CLine) :
    s.SameButCaches (s.putLine id l out) := by
  unfold State.putLine
  split
  · exact (s.updCore_caches _ _).trans (State.installVictim_caches _ _ _)
  · exact s.updCore_caches _ _

theorem State.coreRequest_caches (s : State) (id : Nat) (sp : Space) (line : Nat) (write : Bool) {f : State → Coh → State}
    (hf : ∀ (t : State) (c : Coh), t.SameButCaches (f t c)) : s.SameButCaches (s.coreRequest id sp line write f) := by
  unfold State.coreRequest
  dsimp only
  split
  · exact hf s _
  · split
    · exact (s.answerAll_caches _).trans (hf _ _)
    · exact ((s.answerAll_caches _).trans (hf _ _)).trans (State.dirSync_caches _ _ _ _)

theorem State.fill_caches (s : State) (id slot : Nat) (sp : Space) (line : Nat) (write : Bool) :
    s.SameButCaches (s.fill id slot sp line write) := by
  unfold State.fill
  dsimp only
  split
  · exact s.l2Request_caches _ _ _
  · split
    · split
      · exact (s.leavePool_caches _ _ _).trans (State.putLine_caches _ _ _ _)
      · exact (s.leavePool_caches _ _ _).trans (State.coreRequest_caches _ _ _ _ _ fun t _ => t.putLine_caches _ _ _)
    · exact s.coreRequest_caches _ _ _ _ fun t _ => t.putLine_caches _ _ _

theorem State.cacheAccess_caches (s : State) (id slot : Nat) (sp : Space) (line : Nat) (write : Bool) :
    s.SameButCaches (s.cacheAccess id slot sp line write) := by
  unfold State.cacheAccess
  dsimp only
  split
  · split
    · exact s.hit_caches _ _ _
    · refine s.settle_caches.trans ?_
      split
      · exact State.coreRequest_caches _ _ _ _ _ fun t _ => t.hit_caches _ _ _
      · exact State.fill_caches _ _ _ _ _ _
  · exact s.settle_caches.trans (State.fill_caches _ _ _ _ _ _)

/-- What an access of a strand to a piece of memory does to the machine before its bytes move. -/
theorem State.touch_caches (s : State) (vec : Bool) (p : Phys × Nat) (write : Bool) :
    s.SameButCaches (s.touch vec p write) := by
  unfold State.touch
  split
  · exact .refl s
  · split
    · exact s.l2Touch_caches p write
    · exact State.SameButCaches.foldl (fun s l => s.cacheAccess_caches _ _ _ l _) _ s

theorem State.touchAtomic_caches (s : State) (vec : Bool) (p : Phys × Nat) : s.SameButCaches (s.touchAtomic vec p) := by
  unfold State.touchAtomic
  split
  · exact s.l2Touch_caches p true
  · exact s.touch_caches vec p true

end Sys2Proof.Machine
end

