-- ==== Sys2Proof/Laws/Elements.lean ====
section
/-! SUPPORT. Fields of numbers and elements of register groups: what is read after a write. -/

namespace Sys2Proof.Machine

/-! ### Fields of a number -/

/-- A number cut at a field: what lies above, the field, what lies below. -/
theorem putNat_eq (w lo n v : Nat) :
    putNat w lo n v = 2 ^ lo * (2 ^ n * (w / 2 ^ lo / 2 ^ n) + v % 2 ^ n) + w % 2 ^ lo := by
  have h1 := Nat.div_add_mod w (2 ^ lo)
  have h2 := Nat.div_add_mod (w / 2 ^ lo) (2 ^ n)
  have h3 : w = 2 ^ lo * (2 ^ n * (w / 2 ^ lo / 2 ^ n)) + 2 ^ lo * (w / 2 ^ lo % 2 ^ n) + w % 2 ^ lo := by
    rw [← Nat.mul_add, h2, h1]
  unfold putNat fld
  rw [Nat.mul_comm (w / 2 ^ lo % 2 ^ n), Nat.mul_comm (v % 2 ^ n), Nat.mul_add]
  omega

theorem putNat_div (w lo n v : Nat) : putNat w lo n v / 2 ^ lo = 2 ^ n * (w / 2 ^ lo / 2 ^ n) + v % 2 ^ n := by
  rw [putNat_eq, Nat.mul_add_div (Nat.two_pow_pos lo), Nat.div_eq_of_lt (Nat.mod_lt _ (Nat.two_pow_pos lo)), Nat.add_zero]

theorem fld_putNat_same (w lo n v : Nat) : fld (putNat w lo n v) lo n = v % 2 ^ n := by
  unfold fld
  rw [putNat_div, Nat.mul_add_mod, Nat.mod_mod]

theorem fld_putNat_below {w lo n v lo' n' : Nat} (h : lo' + n' ≤ lo) : fld (putNat w lo n v) lo' n' = fld w lo' n' := by
  obtain ⟨k, rfl⟩ := Nat.exists_eq_add_of_le h
  have key : ∀ q r, (2 ^ (lo' + n' + k) * q + r) / 2 ^ lo' % 2 ^ n' = r / 2 ^ lo' % 2 ^ n' := by
    intro q r
    rw [Nat.pow_add, Nat.pow_add, Nat.mul_assoc, Nat.mul_assoc, Nat.mul_add_div (Nat.two_pow_pos lo'), Nat.mul_add_mod]
  unfold fld
  rw [putNat_eq, key]
  conv_rhs => rw [← Nat.div_add_mod w (2 ^ (lo' + n' + k)), key]

theorem fld_putNat_above {w lo n v lo' n' : Nat} (h : lo + n ≤ lo') : fld (putNat w lo n v) lo' n' = fld w lo' n' := by
  obtain ⟨k, rfl⟩ := Nat.exists_eq_add_of_le h
  unfold fld
  rw [Nat.pow_add, Nat.pow_add, ← Nat.div_div_eq_div_mul, ← Nat.div_div_eq_div_mul, ← Nat.div_div_eq_div_mul,
    ← Nat.div_div_eq_div_mul, putNat_div, Nat.mul_add_div (Nat.two_pow_pos n),
    Nat.div_eq_of_lt (Nat.mod_lt _ (Nat.two_pow_pos n)), Nat.add_zero]

/-- A field that does not overlap the one replaced keeps its value. -/
theorem fld_putNat_other {w lo n v lo' n' : Nat} (h : lo' + n' ≤ lo ∨ lo + n ≤ lo') :
    fld (putNat w lo n v) lo' n' = fld w lo' n' := h.elim fld_putNat_below fld_putNat_above

theorem putNat_lt {w lo n m : Nat} (v : Nat) (hw : w < 2 ^ m) (h : lo + n ≤ m) : putNat w lo n v < 2 ^ m := by
  obtain ⟨k, rfl⟩ := Nat.exists_eq_add_of_le h
  have hd : w / 2 ^ lo / 2 ^ n < 2 ^ k := by
    rw [Nat.div_div_eq_div_mul, ← Nat.pow_add, Nat.div_lt_iff_lt_mul (Nat.two_pow_pos _), ← Nat.pow_add, Nat.add_comm k]
    exact hw
  have h1 : 2 ^ n * (w / 2 ^ lo / 2 ^ n) + v % 2 ^ n + 1 ≤ 2 ^ n * 2 ^ k :=
    calc _ ≤ 2 ^ n * (w / 2 ^ lo / 2 ^ n) + 2 ^ n := by
            have := Nat.mod_lt v (Nat.two_pow_pos n); omega
      _ = 2 ^ n * (w / 2 ^ lo / 2 ^ n + 1) := by rw [Nat.mul_add, Nat.mul_one]
      _ ≤ 2 ^ n * 2 ^ k := Nat.mul_le_mul_left _ hd
  rw [putNat_eq, Nat.pow_add, Nat.pow_add, Nat.mul_assoc]
  calc _ < 2 ^ lo * (2 ^ n * (w / 2 ^ lo / 2 ^ n) + v % 2 ^ n) + 2 ^ lo :=
        Nat.add_lt_add_left (Nat.mod_lt _ (Nat.two_pow_pos lo)) _
    _ = 2 ^ lo * (2 ^ n * (w / 2 ^ lo / 2 ^ n) + v % 2 ^ n + 1) := by rw [Nat.mul_add (2 ^ lo) _ 1, Nat.mul_one]
    _ ≤ 2 ^ lo * (2 ^ n * 2 ^ k) := Nat.mul_le_mul_left _ h1

/-- A field replaced within a bit vector. -/
theorem toNat_putNat {k : Nat} (w : BitVec k) {lo n : Nat} (x : Nat) (h : lo + n ≤ k) :
    (BitVec.ofNat k (putNat w.toNat lo n x)).toNat = putNat w.toNat lo n x := by
  rw [BitVec.toNat_ofNat, Nat.mod_eq_of_lt (putNat_lt x w.isLt h)]

theorem getD_setIfInBounds {α : Type} {k : Nat} (v : Vector α k) (i j : Nat) (a d : α) :
    (v.setIfInBounds i a).getD j d = if j = i ∧ i < k then a else v.getD j d := by
  obtain ⟨v, rfl⟩ := v
  simp only [Vector.getD, Vector.setIfInBounds_mk, Vector.toArray_mk, Array.getD_eq_getD_getElem?,
    Array.getElem?_setIfInBounds]
  by_cases h : i = j
  · subst h
    by_cases h' : i < v.size <;> simp [h']
  · simp [h, Ne.symm h]

/-! ### Elements of register groups -/

/-- An element of a register lies within the register's bits under a legal grant. -/
theorem elem_room {g eb i : Nat} (hg : g ≤ 4) (hp : 0 < perReg g eb) : i % perReg g eb * eb + eb ≤ 32768 := by
  have h1 : i % perReg g eb + 1 ≤ perReg g eb := Nat.mod_lt _ hp
  have h2 : perReg g eb * eb ≤ g * 8192 := Nat.div_mul_le_self _ _
  have h3 := Nat.mul_le_mul_right eb h1
  rw [Nat.add_mul, Nat.one_mul] at h3
  omega

/-- An element read after one was written, in the same view of the registers. -/
theorem getElem_setElem {v : Vector VReg 32} {g n eb i x : Nat} (hg : g ≤ 4) (hp : 0 < perReg g eb)
    (hr : n + i / perReg g eb < 32) (j : Nat) :
    getElem (setElem v g n eb i x) g n eb j = if j = i then x % 2 ^ eb else getElem v g n eb j := by
  have hroom := elem_room (i := i) hg hp
  simp only [getElem, setElem]
  by_cases hreg : n + j / perReg g eb = n + i / perReg g eb
  · rw [getD_setIfInBounds, if_pos ⟨hreg, hr⟩, toNat_putNat _ _ hroom]
    by_cases hij : j = i
    · subst hij; rw [if_pos rfl, fld_putNat_same]
    · rw [if_neg hij, hreg]
      have hq : j / perReg g eb = i / perReg g eb := by omega
      have hm : j % perReg g eb ≠ i % perReg g eb := by
        intro he
        apply hij
        rw [← Nat.div_add_mod j (perReg g eb), hq, he, Nat.div_add_mod]
      apply fld_putNat_other
      rcases Nat.lt_or_gt_of_ne hm with h | h
      · left
        have := Nat.mul_le_mul_right eb (Nat.succ_le_of_lt h)
        rwa [Nat.succ_mul] at this
      · right
        have := Nat.mul_le_mul_right eb (Nat.succ_le_of_lt h)
        rwa [Nat.succ_mul] at this
  · rw [if_neg (by rintro rfl; exact hreg rfl)]
    rw [getD_setIfInBounds, if_neg fun e => hreg e.1]

theorem getElem_setElem_same {v : Vector VReg 32} {g n eb i x : Nat} (hg : g ≤ 4) (hp : 0 < perReg g eb)
    (hr : n + i / perReg g eb < 32) : getElem (setElem v g n eb i x) g n eb i = x % 2 ^ eb := by
  rw [getElem_setElem hg hp hr, if_pos rfl]

/-- A register outside the one that holds the element is untouched. -/
theorem getD_setElem_other {v : Vector VReg 32} {g n eb i x r : Nat} (h : r ≠ n + i / perReg g eb) :
    (setElem v g n eb i x).getD r 0 = v.getD r 0 := by
  rw [setElem, getD_setIfInBounds, if_neg fun e => h e.1]

/-- Elements written leave every register outside the group. -/
theorem getD_setElems_other {g n eb r : Nat} (l : List (Nat × Nat)) (h : ∀ p ∈ l, r ≠ n + p.1 / perReg g eb)
    (v : Vector VReg 32) : (setElems v g n eb l).getD r 0 = v.getD r 0 := by
  induction l generalizing v with
  | nil => rfl
  | cons p l ih =>
    show (setElems (setElem v g n eb p.1 p.2) g n eb l).getD r 0 = _
    rw [ih (fun q hq => h q (List.mem_cons_of_mem p hq)), getD_setElem_other (h p List.mem_cons_self)]

/-- An element that is not in the list keeps its value. -/
theorem getElem_setElems_other {g n eb j : Nat} (hg : g ≤ 4) (hp : 0 < perReg g eb) (l : List (Nat × Nat))
    (hl : ∀ p ∈ l, n + p.1 / perReg g eb < 32) (hj : ∀ p ∈ l, p.1 ≠ j) (v : Vector VReg 32) :
    getElem (setElems v g n eb l) g n eb j = getElem v g n eb j := by
  induction l generalizing v with
  | nil => rfl
  | cons p l ih =>
    show getElem (setElems (setElem v g n eb p.1 p.2) g n eb l) g n eb j = _
    rw [ih (fun q hq => hl q (List.mem_cons_of_mem p hq)) (fun q hq => hj q (List.mem_cons_of_mem p hq)),
      getElem_setElem hg hp (hl p List.mem_cons_self), if_neg (Ne.symm (hj p List.mem_cons_self))]

/-- Elements written with distinct indexes read back. -/
theorem getElem_setElems {g n eb : Nat} (hg : g ≤ 4) (hp : 0 < perReg g eb) (l : List (Nat × Nat))
    (hl : ∀ p ∈ l, n + p.1 / perReg g eb < 32) (hd : (l.map (·.1)).Nodup) (v : Vector VReg 32) :
    ∀ p ∈ l, getElem (setElems v g n eb l) g n eb p.1 = p.2 % 2 ^ eb := by
  induction l generalizing v with
  | nil => intro p hp'; cases hp'
  | cons q l ih =>
    rw [List.map_cons, List.nodup_cons] at hd
    intro p hpl
    show getElem (setElems (setElem v g n eb q.1 q.2) g n eb l) g n eb p.1 = _
    rcases List.mem_cons.1 hpl with rfl | hpl
    · rw [getElem_setElems_other hg hp l (fun r hr => hl r (List.mem_cons_of_mem _ hr))
        (fun r hr he => hd.1 (List.mem_map.2 ⟨r, hr, he⟩)), getElem_setElem_same hg hp (hl _ List.mem_cons_self)]
    · exact ih (fun r hr => hl r (List.mem_cons_of_mem _ hr)) hd.2 _ p hpl

end Sys2Proof.Machine
end

