-- ==== Sys2Proof/Laws/State.lean ====
section
/-! SUPPORT. What each update of the state leaves as it was, field by field, so that no proof unfolds a record update. -/

namespace Sys2Proof.Machine

/-! ### The whole state -/

@[simp] theorem State.onCur_cur (s : State) (f : Strand → Strand) : (s.onCur f).cur = f s.cur := rfl
@[simp] theorem State.onCur_others (s : State) (f : Strand → Strand) : (s.onCur f).others = s.others := rfl
@[simp] theorem State.onCur_dev (s : State) (f : Strand → Strand) : (s.onCur f).dev = s.dev := rfl
@[simp] theorem State.onCur_host (s : State) (f : Strand → Strand) : (s.onCur f).host = s.host := rfl
@[simp] theorem State.onCur_peer (s : State) (f : Strand → Strand) : (s.onCur f).peer = s.peer := rfl
@[simp] theorem State.onCur_lineKeys (s : State) (f : Strand → Strand) : (s.onCur f).lineKeys = s.lineKeys := rfl
@[simp] theorem State.onCur_bad (s : State) (f : Strand → Strand) : (s.onCur f).bad = s.bad := rfl
@[simp] theorem State.onCur_cores (s : State) (f : Strand → Strand) : (s.onCur f).cores = s.cores := rfl
@[simp] theorem State.onCur_lu (s : State) (f : Strand → Strand) : (s.onCur f).lu = s.lu := rfl
@[simp] theorem State.onCur_cat (s : State) (f : Strand → Strand) : (s.onCur f).cat = s.cat := rfl
@[simp] theorem State.onCur_die0 (s : State) (f : Strand → Strand) : (s.onCur f).die0 = s.die0 := rfl
@[simp] theorem State.onCur_die1 (s : State) (f : Strand → Strand) : (s.onCur f).die1 = s.die1 := rfl
@[simp] theorem State.onCur_wire (s : State) (f : Strand → Strand) : (s.onCur f).wire = s.wire := rfl
@[simp] theorem State.onCur_coh (s : State) (f : Strand → Strand) : (s.onCur f).coh = s.coh := rfl
@[simp] theorem State.onCur_xl (s : State) (f : Strand → Strand) : (s.onCur f).xl = s.xl := rfl
@[simp] theorem State.onCur_mem (s : State) (f : Strand → Strand) : (s.onCur f).mem = s.mem := rfl
@[simp] theorem State.onCur_plat (s : State) (f : Strand → Strand) : (s.onCur f).plat = s.plat := rfl
@[simp] theorem State.onCur_hc (s : State) (f : Strand → Strand) : (s.onCur f).hc = s.hc := rfl
@[simp] theorem State.onCur_keys (s : State) (f : Strand → Strand) : (s.onCur f).keys = s.keys := rfl
@[simp] theorem State.onCur_agenda (s : State) (f : Strand → Strand) : (s.onCur f).agenda = s.agenda := rfl
@[simp] theorem State.onCur_evTurn (s : State) (f : Strand → Strand) : (s.onCur f).evTurn = s.evTurn := rfl
@[simp] theorem State.onCur_round (s : State) (f : Strand → Strand) : (s.onCur f).round = s.round := rfl
@[simp] theorem State.onCur_arg (s : State) (f : Strand → Strand) : (s.onCur f).arg = s.arg := rfl
@[simp] theorem State.onCur_free (s : State) (f : Strand → Strand) : (s.onCur f).free = s.free := rfl
@[simp] theorem State.onCur_nextUid (s : State) (f : Strand → Strand) : (s.onCur f).nextUid = s.nextUid := rfl
@[simp] theorem State.onCur_nextAsk (s : State) (f : Strand → Strand) : (s.onCur f).nextAsk = s.nextAsk := rfl

@[simp] theorem State.mapStrands_cur (s : State) (f : Strand → Strand) : (s.mapStrands f).cur = f s.cur := rfl
@[simp] theorem State.mapStrands_others (s : State) (f : Strand → Strand) :
    (s.mapStrands f).others = s.others.map f := rfl
@[simp] theorem State.mapStrands_dev (s : State) (f : Strand → Strand) : (s.mapStrands f).dev = s.dev := rfl
@[simp] theorem State.mapStrands_host (s : State) (f : Strand → Strand) : (s.mapStrands f).host = s.host := rfl
@[simp] theorem State.mapStrands_peer (s : State) (f : Strand → Strand) : (s.mapStrands f).peer = s.peer := rfl
@[simp] theorem State.mapStrands_lineKeys (s : State) (f : Strand → Strand) :
    (s.mapStrands f).lineKeys = s.lineKeys := rfl
@[simp] theorem State.mapStrands_bad (s : State) (f : Strand → Strand) : (s.mapStrands f).bad = s.bad := rfl
@[simp] theorem State.mapStrands_cores (s : State) (f : Strand → Strand) : (s.mapStrands f).cores = s.cores := rfl
@[simp] theorem State.mapStrands_lu (s : State) (f : Strand → Strand) : (s.mapStrands f).lu = s.lu := rfl
@[simp] theorem State.mapStrands_cat (s : State) (f : Strand → Strand) : (s.mapStrands f).cat = s.cat := rfl
@[simp] theorem State.mapStrands_die0 (s : State) (f : Strand → Strand) : (s.mapStrands f).die0 = s.die0 := rfl
@[simp] theorem State.mapStrands_die1 (s : State) (f : Strand → Strand) : (s.mapStrands f).die1 = s.die1 := rfl
@[simp] theorem State.mapStrands_wire (s : State) (f : Strand → Strand) : (s.mapStrands f).wire = s.wire := rfl
@[simp] theorem State.mapStrands_coh (s : State) (f : Strand → Strand) : (s.mapStrands f).coh = s.coh := rfl
@[simp] theorem State.mapStrands_xl (s : State) (f : Strand → Strand) : (s.mapStrands f).xl = s.xl := rfl
@[simp] theorem State.mapStrands_mem (s : State) (f : Strand → Strand) : (s.mapStrands f).mem = s.mem := rfl
@[simp] theorem State.mapStrands_plat (s : State) (f : Strand → Strand) : (s.mapStrands f).plat = s.plat := rfl
@[simp] theorem State.mapStrands_hc (s : State) (f : Strand → Strand) : (s.mapStrands f).hc = s.hc := rfl
@[simp] theorem State.mapStrands_keys (s : State) (f : Strand → Strand) : (s.mapStrands f).keys = s.keys := rfl
@[simp] theorem State.mapStrands_agenda (s : State) (f : Strand → Strand) : (s.mapStrands f).agenda = s.agenda := rfl
@[simp] theorem State.mapStrands_evTurn (s : State) (f : Strand → Strand) : (s.mapStrands f).evTurn = s.evTurn := rfl
@[simp] theorem State.mapStrands_round (s : State) (f : Strand → Strand) : (s.mapStrands f).round = s.round := rfl
@[simp] theorem State.mapStrands_arg (s : State) (f : Strand → Strand) : (s.mapStrands f).arg = s.arg := rfl
@[simp] theorem State.mapStrands_free (s : State) (f : Strand → Strand) : (s.mapStrands f).free = s.free := rfl
@[simp] theorem State.mapStrands_nextUid (s : State) (f : Strand → Strand) :
    (s.mapStrands f).nextUid = s.nextUid := rfl
@[simp] theorem State.mapStrands_nextAsk (s : State) (f : Strand → Strand) :
    (s.mapStrands f).nextAsk = s.nextAsk := rfl

@[simp] theorem State.updStrand_cur (s : State) (u : Nat) (f : Strand → Strand) :
    (s.updStrand u f).cur = if s.cur.uid = u then f s.cur else s.cur := rfl
@[simp] theorem State.updStrand_dev (s : State) (u : Nat) (f : Strand → Strand) : (s.updStrand u f).dev = s.dev := rfl
@[simp] theorem State.updStrand_host (s : State) (u : Nat) (f : Strand → Strand) :
    (s.updStrand u f).host = s.host := rfl
@[simp] theorem State.updStrand_peer (s : State) (u : Nat) (f : Strand → Strand) :
    (s.updStrand u f).peer = s.peer := rfl
@[simp] theorem State.updStrand_lineKeys (s : State) (u : Nat) (f : Strand → Strand) :
    (s.updStrand u f).lineKeys = s.lineKeys := rfl
@[simp] theorem State.updStrand_bad (s : State) (u : Nat) (f : Strand → Strand) : (s.updStrand u f).bad = s.bad := rfl
@[simp] theorem State.updStrand_cores (s : State) (u : Nat) (f : Strand → Strand) :
    (s.updStrand u f).cores = s.cores := rfl
@[simp] theorem State.updStrand_lu (s : State) (u : Nat) (f : Strand → Strand) : (s.updStrand u f).lu = s.lu := rfl
@[simp] theorem State.updStrand_cat (s : State) (u : Nat) (f : Strand → Strand) : (s.updStrand u f).cat = s.cat := rfl
@[simp] theorem State.updStrand_die0 (s : State) (u : Nat) (f : Strand → Strand) :
    (s.updStrand u f).die0 = s.die0 := rfl
@[simp] theorem State.updStrand_die1 (s : State) (u : Nat) (f : Strand → Strand) :
    (s.updStrand u f).die1 = s.die1 := rfl
@[simp] theorem State.updStrand_wire (s : State) (u : Nat) (f : Strand → Strand) :
    (s.updStrand u f).wire = s.wire := rfl
@[simp] theorem State.updStrand_coh (s : State) (u : Nat) (f : Strand → Strand) : (s.updStrand u f).coh = s.coh := rfl
@[simp] theorem State.updStrand_xl (s : State) (u : Nat) (f : Strand → Strand) : (s.updStrand u f).xl = s.xl := rfl
@[simp] theorem State.updStrand_mem (s : State) (u : Nat) (f : Strand → Strand) : (s.updStrand u f).mem = s.mem := rfl
@[simp] theorem State.updStrand_plat (s : State) (u : Nat) (f : Strand → Strand) :
    (s.updStrand u f).plat = s.plat := rfl
@[simp] theorem State.updStrand_hc (s : State) (u : Nat) (f : Strand → Strand) : (s.updStrand u f).hc = s.hc := rfl
@[simp] theorem State.updStrand_keys (s : State) (u : Nat) (f : Strand → Strand) :
    (s.updStrand u f).keys = s.keys := rfl
@[simp] theorem State.updStrand_agenda (s : State) (u : Nat) (f : Strand → Strand) :
    (s.updStrand u f).agenda = s.agenda := rfl
@[simp] theorem State.updStrand_evTurn (s : State) (u : Nat) (f : Strand → Strand) :
    (s.updStrand u f).evTurn = s.evTurn := rfl
@[simp] theorem State.updStrand_round (s : State) (u : Nat) (f : Strand → Strand) :
    (s.updStrand u f).round = s.round := rfl
@[simp] theorem State.updStrand_arg (s : State) (u : Nat) (f : Strand → Strand) : (s.updStrand u f).arg = s.arg := rfl
@[simp] theorem State.updStrand_free (s : State) (u : Nat) (f : Strand → Strand) :
    (s.updStrand u f).free = s.free := rfl
@[simp] theorem State.updStrand_nextUid (s : State) (u : Nat) (f : Strand → Strand) :
    (s.updStrand u f).nextUid = s.nextUid := rfl
@[simp] theorem State.updStrand_nextAsk (s : State) (u : Nat) (f : Strand → Strand) :
    (s.updStrand u f).nextAsk = s.nextAsk := rfl

@[simp] theorem State.updCore_cores (s : State) (id : Nat) (f : Core → Core) :
    (s.updCore id f).cores = s.cores.map fun c => if c.id = id then f c else c := rfl
@[simp] theorem State.updCore_cur (s : State) (id : Nat) (f : Core → Core) : (s.updCore id f).cur = s.cur := rfl
@[simp] theorem State.updCore_others (s : State) (id : Nat) (f : Core → Core) :
    (s.updCore id f).others = s.others := rfl
@[simp] theorem State.updCore_dev (s : State) (id : Nat) (f : Core → Core) : (s.updCore id f).dev = s.dev := rfl
@[simp] theorem State.updCore_host (s : State) (id : Nat) (f : Core → Core) : (s.updCore id f).host = s.host := rfl
@[simp] theorem State.updCore_peer (s : State) (id : Nat) (f : Core → Core) : (s.updCore id f).peer = s.peer := rfl
@[simp] theorem State.updCore_lineKeys (s : State) (id : Nat) (f : Core → Core) :
    (s.updCore id f).lineKeys = s.lineKeys := rfl
@[simp] theorem State.updCore_bad (s : State) (id : Nat) (f : Core → Core) : (s.updCore id f).bad = s.bad := rfl
@[simp] theorem State.updCore_lu (s : State) (id : Nat) (f : Core → Core) : (s.updCore id f).lu = s.lu := rfl
@[simp] theorem State.updCore_cat (s : State) (id : Nat) (f : Core → Core) : (s.updCore id f).cat = s.cat := rfl
@[simp] theorem State.updCore_die0 (s : State) (id : Nat) (f : Core → Core) : (s.updCore id f).die0 = s.die0 := rfl
@[simp] theorem State.updCore_die1 (s : State) (id : Nat) (f : Core → Core) : (s.updCore id f).die1 = s.die1 := rfl
@[simp] theorem State.updCore_wire (s : State) (id : Nat) (f : Core → Core) : (s.updCore id f).wire = s.wire := rfl
@[simp] theorem State.updCore_coh (s : State) (id : Nat) (f : Core → Core) : (s.updCore id f).coh = s.coh := rfl
@[simp] theorem State.updCore_xl (s : State) (id : Nat) (f : Core → Core) : (s.updCore id f).xl = s.xl := rfl
@[simp] theorem State.updCore_mem (s : State) (id : Nat) (f : Core → Core) : (s.updCore id f).mem = s.mem := rfl
@[simp] theorem State.updCore_plat (s : State) (id : Nat) (f : Core → Core) : (s.updCore id f).plat = s.plat := rfl
@[simp] theorem State.updCore_hc (s : State) (id : Nat) (f : Core → Core) : (s.updCore id f).hc = s.hc := rfl
@[simp] theorem State.updCore_keys (s : State) (id : Nat) (f : Core → Core) : (s.updCore id f).keys = s.keys := rfl
@[simp] theorem State.updCore_agenda (s : State) (id : Nat) (f : Core → Core) :
    (s.updCore id f).agenda = s.agenda := rfl
@[simp] theorem State.updCore_evTurn (s : State) (id : Nat) (f : Core → Core) :
    (s.updCore id f).evTurn = s.evTurn := rfl
@[simp] theorem State.updCore_round (s : State) (id : Nat) (f : Core → Core) : (s.updCore id f).round = s.round := rfl
@[simp] theorem State.updCore_arg (s : State) (id : Nat) (f : Core → Core) : (s.updCore id f).arg = s.arg := rfl
@[simp] theorem State.updCore_free (s : State) (id : Nat) (f : Core → Core) : (s.updCore id f).free = s.free := rfl
@[simp] theorem State.updCore_nextUid (s : State) (id : Nat) (f : Core → Core) :
    (s.updCore id f).nextUid = s.nextUid := rfl
@[simp] theorem State.updCore_nextAsk (s : State) (id : Nat) (f : Core → Core) :
    (s.updCore id f).nextAsk = s.nextAsk := rfl

@[simp] theorem State.putCsrs_cur (s : State) (c : Csrs) : (s.putCsrs c).cur = s.cur := rfl
@[simp] theorem State.putCsrs_others (s : State) (c : Csrs) : (s.putCsrs c).others = s.others := rfl
@[simp] theorem State.putCsrs_dev (s : State) (c : Csrs) : (s.putCsrs c).dev = s.dev := rfl
@[simp] theorem State.putCsrs_host (s : State) (c : Csrs) : (s.putCsrs c).host = s.host := rfl
@[simp] theorem State.putCsrs_peer (s : State) (c : Csrs) : (s.putCsrs c).peer = s.peer := rfl
@[simp] theorem State.putCsrs_lineKeys (s : State) (c : Csrs) : (s.putCsrs c).lineKeys = s.lineKeys := rfl
@[simp] theorem State.putCsrs_bad (s : State) (c : Csrs) : (s.putCsrs c).bad = s.bad := rfl
@[simp] theorem State.putCsrs_lu (s : State) (c : Csrs) : (s.putCsrs c).lu = s.lu := rfl
@[simp] theorem State.putCsrs_cat (s : State) (c : Csrs) : (s.putCsrs c).cat = s.cat := rfl
@[simp] theorem State.putCsrs_die0 (s : State) (c : Csrs) : (s.putCsrs c).die0 = s.die0 := rfl
@[simp] theorem State.putCsrs_die1 (s : State) (c : Csrs) : (s.putCsrs c).die1 = s.die1 := rfl
@[simp] theorem State.putCsrs_wire (s : State) (c : Csrs) : (s.putCsrs c).wire = s.wire := rfl
@[simp] theorem State.putCsrs_coh (s : State) (c : Csrs) : (s.putCsrs c).coh = s.coh := rfl
@[simp] theorem State.putCsrs_xl (s : State) (c : Csrs) : (s.putCsrs c).xl = s.xl := rfl
@[simp] theorem State.putCsrs_mem (s : State) (c : Csrs) : (s.putCsrs c).mem = s.mem := rfl
@[simp] theorem State.putCsrs_plat (s : State) (c : Csrs) : (s.putCsrs c).plat = s.plat := rfl
@[simp] theorem State.putCsrs_hc (s : State) (c : Csrs) : (s.putCsrs c).hc = s.hc := rfl
@[simp] theorem State.putCsrs_keys (s : State) (c : Csrs) : (s.putCsrs c).keys = s.keys := rfl
@[simp] theorem State.putCsrs_agenda (s : State) (c : Csrs) : (s.putCsrs c).agenda = s.agenda := rfl
@[simp] theorem State.putCsrs_evTurn (s : State) (c : Csrs) : (s.putCsrs c).evTurn = s.evTurn := rfl
@[simp] theorem State.putCsrs_round (s : State) (c : Csrs) : (s.putCsrs c).round = s.round := rfl
@[simp] theorem State.putCsrs_arg (s : State) (c : Csrs) : (s.putCsrs c).arg = s.arg := rfl
@[simp] theorem State.putCsrs_free (s : State) (c : Csrs) : (s.putCsrs c).free = s.free := rfl
@[simp] theorem State.putCsrs_nextUid (s : State) (c : Csrs) : (s.putCsrs c).nextUid = s.nextUid := rfl
@[simp] theorem State.putCsrs_nextAsk (s : State) (c : Csrs) : (s.putCsrs c).nextAsk = s.nextAsk := rfl

@[simp] theorem State.scalarDone_others (s : State) (n : Nat) : (s.scalarDone n).others = s.others := rfl
@[simp] theorem State.scalarDone_dev (s : State) (n : Nat) : (s.scalarDone n).dev = s.dev := rfl
@[simp] theorem State.scalarDone_host (s : State) (n : Nat) : (s.scalarDone n).host = s.host := rfl
@[simp] theorem State.scalarDone_peer (s : State) (n : Nat) : (s.scalarDone n).peer = s.peer := rfl
@[simp] theorem State.scalarDone_lineKeys (s : State) (n : Nat) : (s.scalarDone n).lineKeys = s.lineKeys := rfl
@[simp] theorem State.scalarDone_bad (s : State) (n : Nat) : (s.scalarDone n).bad = s.bad := rfl
@[simp] theorem State.scalarDone_cores (s : State) (n : Nat) : (s.scalarDone n).cores = s.cores := rfl
@[simp] theorem State.scalarDone_lu (s : State) (n : Nat) : (s.scalarDone n).lu = s.lu := rfl
@[simp] theorem State.scalarDone_cat (s : State) (n : Nat) : (s.scalarDone n).cat = s.cat := rfl
@[simp] theorem State.scalarDone_die0 (s : State) (n : Nat) : (s.scalarDone n).die0 = s.die0 := rfl
@[simp] theorem State.scalarDone_die1 (s : State) (n : Nat) : (s.scalarDone n).die1 = s.die1 := rfl
@[simp] theorem State.scalarDone_wire (s : State) (n : Nat) : (s.scalarDone n).wire = s.wire := rfl
@[simp] theorem State.scalarDone_coh (s : State) (n : Nat) : (s.scalarDone n).coh = s.coh := rfl
@[simp] theorem State.scalarDone_xl (s : State) (n : Nat) : (s.scalarDone n).xl = s.xl := rfl
@[simp] theorem State.scalarDone_mem (s : State) (n : Nat) : (s.scalarDone n).mem = s.mem := rfl
@[simp] theorem State.scalarDone_plat (s : State) (n : Nat) : (s.scalarDone n).plat = s.plat := rfl
@[simp] theorem State.scalarDone_hc (s : State) (n : Nat) : (s.scalarDone n).hc = s.hc := rfl
@[simp] theorem State.scalarDone_keys (s : State) (n : Nat) : (s.scalarDone n).keys = s.keys := rfl
@[simp] theorem State.scalarDone_agenda (s : State) (n : Nat) : (s.scalarDone n).agenda = s.agenda := rfl
@[simp] theorem State.scalarDone_evTurn (s : State) (n : Nat) : (s.scalarDone n).evTurn = s.evTurn := rfl
@[simp] theorem State.scalarDone_round (s : State) (n : Nat) : (s.scalarDone n).round = s.round := rfl
@[simp] theorem State.scalarDone_arg (s : State) (n : Nat) : (s.scalarDone n).arg = s.arg := rfl
@[simp] theorem State.scalarDone_free (s : State) (n : Nat) : (s.scalarDone n).free = s.free := rfl
@[simp] theorem State.scalarDone_nextUid (s : State) (n : Nat) : (s.scalarDone n).nextUid = s.nextUid := rfl
@[simp] theorem State.scalarDone_nextAsk (s : State) (n : Nat) : (s.scalarDone n).nextAsk = s.nextAsk := rfl

@[simp] theorem State.vectorDone_others (s : State) (n : Nat) : (s.vectorDone n).others = s.others := rfl
@[simp] theorem State.vectorDone_dev (s : State) (n : Nat) : (s.vectorDone n).dev = s.dev := rfl
@[simp] theorem State.vectorDone_host (s : State) (n : Nat) : (s.vectorDone n).host = s.host := rfl
@[simp] theorem State.vectorDone_peer (s : State) (n : Nat) : (s.vectorDone n).peer = s.peer := rfl
@[simp] theorem State.vectorDone_lineKeys (s : State) (n : Nat) : (s.vectorDone n).lineKeys = s.lineKeys := rfl
@[simp] theorem State.vectorDone_bad (s : State) (n : Nat) : (s.vectorDone n).bad = s.bad := rfl
@[simp] theorem State.vectorDone_cores (s : State) (n : Nat) : (s.vectorDone n).cores = s.cores := rfl
@[simp] theorem State.vectorDone_lu (s : State) (n : Nat) : (s.vectorDone n).lu = s.lu := rfl
@[simp] theorem State.vectorDone_cat (s : State) (n : Nat) : (s.vectorDone n).cat = s.cat := rfl
@[simp] theorem State.vectorDone_die0 (s : State) (n : Nat) : (s.vectorDone n).die0 = s.die0 := rfl
@[simp] theorem State.vectorDone_die1 (s : State) (n : Nat) : (s.vectorDone n).die1 = s.die1 := rfl
@[simp] theorem State.vectorDone_wire (s : State) (n : Nat) : (s.vectorDone n).wire = s.wire := rfl
@[simp] theorem State.vectorDone_coh (s : State) (n : Nat) : (s.vectorDone n).coh = s.coh := rfl
@[simp] theorem State.vectorDone_xl (s : State) (n : Nat) : (s.vectorDone n).xl = s.xl := rfl
@[simp] theorem State.vectorDone_mem (s : State) (n : Nat) : (s.vectorDone n).mem = s.mem := rfl
@[simp] theorem State.vectorDone_plat (s : State) (n : Nat) : (s.vectorDone n).plat = s.plat := rfl
@[simp] theorem State.vectorDone_hc (s : State) (n : Nat) : (s.vectorDone n).hc = s.hc := rfl
@[simp] theorem State.vectorDone_keys (s : State) (n : Nat) : (s.vectorDone n).keys = s.keys := rfl
@[simp] theorem State.vectorDone_agenda (s : State) (n : Nat) : (s.vectorDone n).agenda = s.agenda := rfl
@[simp] theorem State.vectorDone_evTurn (s : State) (n : Nat) : (s.vectorDone n).evTurn = s.evTurn := rfl
@[simp] theorem State.vectorDone_round (s : State) (n : Nat) : (s.vectorDone n).round = s.round := rfl
@[simp] theorem State.vectorDone_arg (s : State) (n : Nat) : (s.vectorDone n).arg = s.arg := rfl
@[simp] theorem State.vectorDone_free (s : State) (n : Nat) : (s.vectorDone n).free = s.free := rfl
@[simp] theorem State.vectorDone_nextUid (s : State) (n : Nat) : (s.vectorDone n).nextUid = s.nextUid := rfl
@[simp] theorem State.vectorDone_nextAsk (s : State) (n : Nat) : (s.vectorDone n).nextAsk = s.nextAsk := rfl

/-! ### A strand -/

@[simp] theorem Strand.accrue_uid (t : Strand) (fl : Nat) : (t.accrue fl).uid = t.uid := rfl
@[simp] theorem Strand.accrue_system (t : Strand) (fl : Nat) : (t.accrue fl).system = t.system := rfl
@[simp] theorem Strand.accrue_lid (t : Strand) (fl : Nat) : (t.accrue fl).lid = t.lid := rfl
@[simp] theorem Strand.accrue_ctx (t : Strand) (fl : Nat) : (t.accrue fl).ctx = t.ctx := rfl
@[simp] theorem Strand.accrue_gx (t : Strand) (fl : Nat) : (t.accrue fl).gx = t.gx := rfl
@[simp] theorem Strand.accrue_gy (t : Strand) (fl : Nat) : (t.accrue fl).gy = t.gy := rfl
@[simp] theorem Strand.accrue_gz (t : Strand) (fl : Nat) : (t.accrue fl).gz = t.gz := rfl
@[simp] theorem Strand.accrue_glin (t : Strand) (fl : Nat) : (t.accrue fl).glin = t.glin := rfl
@[simp] theorem Strand.accrue_stage (t : Strand) (fl : Nat) : (t.accrue fl).stage = t.stage := rfl
@[simp] theorem Strand.accrue_six (t : Strand) (fl : Nat) : (t.accrue fl).six = t.six := rfl
@[simp] theorem Strand.accrue_core (t : Strand) (fl : Nat) : (t.accrue fl).core = t.core := rfl
@[simp] theorem Strand.accrue_slot (t : Strand) (fl : Nat) : (t.accrue fl).slot = t.slot := rfl
@[simp] theorem Strand.accrue_status (t : Strand) (fl : Nat) : (t.accrue fl).status = t.status := rfl
@[simp] theorem Strand.accrue_mode (t : Strand) (fl : Nat) : (t.accrue fl).mode = t.mode := rfl
@[simp] theorem Strand.accrue_pc (t : Strand) (fl : Nat) : (t.accrue fl).pc = t.pc := rfl
@[simp] theorem Strand.accrue_x (t : Strand) (fl : Nat) : (t.accrue fl).x = t.x := rfl
@[simp] theorem Strand.accrue_f (t : Strand) (fl : Nat) : (t.accrue fl).f = t.f := rfl
@[simp] theorem Strand.accrue_frm (t : Strand) (fl : Nat) : (t.accrue fl).frm = t.frm := rfl
@[simp] theorem Strand.accrue_fflags (t : Strand) (fl : Nat) : (t.accrue fl).fflags = t.fflags := rfl
@[simp] theorem Strand.accrue_v (t : Strand) (fl : Nat) : (t.accrue fl).v = t.v := rfl
@[simp] theorem Strand.accrue_k (t : Strand) (fl : Nat) : (t.accrue fl).k = t.k := rfl
@[simp] theorem Strand.accrue_vl (t : Strand) (fl : Nat) : (t.accrue fl).vl = t.vl := rfl
@[simp] theorem Strand.accrue_vtype (t : Strand) (fl : Nat) : (t.accrue fl).vtype = t.vtype := rfl
@[simp] theorem Strand.accrue_g (t : Strand) (fl : Nat) : (t.accrue fl).g = t.g := rfl
@[simp] theorem Strand.accrue_nr (t : Strand) (fl : Nat) : (t.accrue fl).nr = t.nr := rfl
@[simp] theorem Strand.accrue_short (t : Strand) (fl : Nat) : (t.accrue fl).short = t.short := rfl
@[simp] theorem Strand.accrue_vstart (t : Strand) (fl : Nat) : (t.accrue fl).vstart = t.vstart := rfl
@[simp] theorem Strand.accrue_vrnd (t : Strand) (fl : Nat) : (t.accrue fl).vrnd = t.vrnd := rfl
@[simp] theorem Strand.accrue_vdirty (t : Strand) (fl : Nat) : (t.accrue fl).vdirty = t.vdirty := rfl
@[simp] theorem Strand.accrue_kthr (t : Strand) (fl : Nat) : (t.accrue fl).kthr = t.kthr := rfl
@[simp] theorem Strand.accrue_lstage (t : Strand) (fl : Nat) : (t.accrue fl).lstage = t.lstage := rfl
@[simp] theorem Strand.accrue_lanes0 (t : Strand) (fl : Nat) : (t.accrue fl).lanes0 = t.lanes0 := rfl
@[simp] theorem Strand.accrue_q (t : Strand) (fl : Nat) : (t.accrue fl).q = t.q := rfl
@[simp] theorem Strand.accrue_fork (t : Strand) (fl : Nat) : (t.accrue fl).fork = t.fork := rfl
@[simp] theorem Strand.accrue_inbox (t : Strand) (fl : Nat) : (t.accrue fl).inbox = t.inbox := rfl
@[simp] theorem Strand.accrue_latch (t : Strand) (fl : Nat) : (t.accrue fl).latch = t.latch := rfl
@[simp] theorem Strand.accrue_slip (t : Strand) (fl : Nat) : (t.accrue fl).slip = t.slip := rfl
@[simp] theorem Strand.accrue_posted (t : Strand) (fl : Nat) : (t.accrue fl).posted = t.posted := rfl
@[simp] theorem Strand.accrue_astat (t : Strand) (fl : Nat) : (t.accrue fl).astat = t.astat := rfl
@[simp] theorem Strand.accrue_tiles (t : Strand) (fl : Nat) : (t.accrue fl).tiles = t.tiles := rfl
@[simp] theorem Strand.accrue_accRows (t : Strand) (fl : Nat) : (t.accrue fl).accRows = t.accRows := rfl
@[simp] theorem Strand.accrue_acc (t : Strand) (fl : Nat) : (t.accrue fl).acc = t.acc := rfl
@[simp] theorem Strand.accrue_actBytes (t : Strand) (fl : Nat) : (t.accrue fl).actBytes = t.actBytes := rfl
@[simp] theorem Strand.accrue_act (t : Strand) (fl : Nat) : (t.accrue fl).act = t.act := rfl
@[simp] theorem Strand.accrue_scratchBytes (t : Strand) (fl : Nat) :
    (t.accrue fl).scratchBytes = t.scratchBytes := rfl
@[simp] theorem Strand.accrue_scratch (t : Strand) (fl : Nat) : (t.accrue fl).scratch = t.scratch := rfl
@[simp] theorem Strand.accrue_stack (t : Strand) (fl : Nat) : (t.accrue fl).stack = t.stack := rfl
@[simp] theorem Strand.accrue_migcnt (t : Strand) (fl : Nat) : (t.accrue fl).migcnt = t.migcnt := rfl
@[simp] theorem Strand.accrue_res (t : Strand) (fl : Nat) : (t.accrue fl).res = t.res := rfl
@[simp] theorem Strand.accrue_lrRes (t : Strand) (fl : Nat) : (t.accrue fl).lrRes = t.lrRes := rfl
@[simp] theorem Strand.accrue_pend (t : Strand) (fl : Nat) : (t.accrue fl).pend = t.pend := rfl
@[simp] theorem Strand.accrue_replyQ (t : Strand) (fl : Nat) : (t.accrue fl).replyQ = t.replyQ := rfl
@[simp] theorem Strand.accrue_vq (t : Strand) (fl : Nat) : (t.accrue fl).vq = t.vq := rfl
@[simp] theorem Strand.accrue_mq (t : Strand) (fl : Nat) : (t.accrue fl).mq = t.mq := rfl
@[simp] theorem Strand.accrue_wcS (t : Strand) (fl : Nat) : (t.accrue fl).wcS = t.wcS := rfl
@[simp] theorem Strand.accrue_wcV (t : Strand) (fl : Nat) : (t.accrue fl).wcV = t.wcV := rfl
@[simp] theorem Strand.accrue_barK (t : Strand) (fl : Nat) : (t.accrue fl).barK = t.barK := rfl
@[simp] theorem Strand.accrue_barArrived (t : Strand) (fl : Nat) : (t.accrue fl).barArrived = t.barArrived := rfl
@[simp] theorem Strand.accrue_bookmark (t : Strand) (fl : Nat) : (t.accrue fl).bookmark = t.bookmark := rfl
@[simp] theorem Strand.accrue_mixN (t : Strand) (fl : Nat) : (t.accrue fl).mixN = t.mixN := rfl
@[simp] theorem Strand.accrue_mixV (t : Strand) (fl : Nat) : (t.accrue fl).mixV = t.mixV := rfl
@[simp] theorem Strand.accrue_kdPend (t : Strand) (fl : Nat) : (t.accrue fl).kdPend = t.kdPend := rfl
@[simp] theorem Strand.accrue_popped (t : Strand) (fl : Nat) : (t.accrue fl).popped = t.popped := rfl
@[simp] theorem Strand.accrue_trimAt (t : Strand) (fl : Nat) : (t.accrue fl).trimAt = t.trimAt := rfl
@[simp] theorem Strand.accrue_only (t : Strand) (fl : Nat) : (t.accrue fl).only = t.only := rfl
@[simp] theorem Strand.accrue_resL2 (t : Strand) (fl : Nat) : (t.accrue fl).resL2 = t.resL2 := rfl
@[simp] theorem Strand.accrue_replaying (t : Strand) (fl : Nat) : (t.accrue fl).replaying = t.replaying := rfl
@[simp] theorem Strand.accrue_asked (t : Strand) (fl : Nat) : (t.accrue fl).asked = t.asked := rfl
@[simp] theorem Strand.accrue_savedAt (t : Strand) (fl : Nat) : (t.accrue fl).savedAt = t.savedAt := rfl

@[simp] theorem Strand.accrueF_uid (t : Strand) (fl : Nat) : (t.accrueF fl).uid = t.uid := rfl
@[simp] theorem Strand.accrueF_system (t : Strand) (fl : Nat) : (t.accrueF fl).system = t.system := rfl
@[simp] theorem Strand.accrueF_lid (t : Strand) (fl : Nat) : (t.accrueF fl).lid = t.lid := rfl
@[simp] theorem Strand.accrueF_ctx (t : Strand) (fl : Nat) : (t.accrueF fl).ctx = t.ctx := rfl
@[simp] theorem Strand.accrueF_gx (t : Strand) (fl : Nat) : (t.accrueF fl).gx = t.gx := rfl
@[simp] theorem Strand.accrueF_gy (t : Strand) (fl : Nat) : (t.accrueF fl).gy = t.gy := rfl
@[simp] theorem Strand.accrueF_gz (t : Strand) (fl : Nat) : (t.accrueF fl).gz = t.gz := rfl
@[simp] theorem Strand.accrueF_glin (t : Strand) (fl : Nat) : (t.accrueF fl).glin = t.glin := rfl
@[simp] theorem Strand.accrueF_stage (t : Strand) (fl : Nat) : (t.accrueF fl).stage = t.stage := rfl
@[simp] theorem Strand.accrueF_six (t : Strand) (fl : Nat) : (t.accrueF fl).six = t.six := rfl
@[simp] theorem Strand.accrueF_core (t : Strand) (fl : Nat) : (t.accrueF fl).core = t.core := rfl
@[simp] theorem Strand.accrueF_slot (t : Strand) (fl : Nat) : (t.accrueF fl).slot = t.slot := rfl
@[simp] theorem Strand.accrueF_status (t : Strand) (fl : Nat) : (t.accrueF fl).status = t.status := rfl
@[simp] theorem Strand.accrueF_mode (t : Strand) (fl : Nat) : (t.accrueF fl).mode = t.mode := rfl
@[simp] theorem Strand.accrueF_pc (t : Strand) (fl : Nat) : (t.accrueF fl).pc = t.pc := rfl
@[simp] theorem Strand.accrueF_x (t : Strand) (fl : Nat) : (t.accrueF fl).x = t.x := rfl
@[simp] theorem Strand.accrueF_f (t : Strand) (fl : Nat) : (t.accrueF fl).f = t.f := rfl
@[simp] theorem Strand.accrueF_frm (t : Strand) (fl : Nat) : (t.accrueF fl).frm = t.frm := rfl
@[simp] theorem Strand.accrueF_v (t : Strand) (fl : Nat) : (t.accrueF fl).v = t.v := rfl
@[simp] theorem Strand.accrueF_k (t : Strand) (fl : Nat) : (t.accrueF fl).k = t.k := rfl
@[simp] theorem Strand.accrueF_vl (t : Strand) (fl : Nat) : (t.accrueF fl).vl = t.vl := rfl
@[simp] theorem Strand.accrueF_vtype (t : Strand) (fl : Nat) : (t.accrueF fl).vtype = t.vtype := rfl
@[simp] theorem Strand.accrueF_g (t : Strand) (fl : Nat) : (t.accrueF fl).g = t.g := rfl
@[simp] theorem Strand.accrueF_nr (t : Strand) (fl : Nat) : (t.accrueF fl).nr = t.nr := rfl
@[simp] theorem Strand.accrueF_short (t : Strand) (fl : Nat) : (t.accrueF fl).short = t.short := rfl
@[simp] theorem Strand.accrueF_vstart (t : Strand) (fl : Nat) : (t.accrueF fl).vstart = t.vstart := rfl
@[simp] theorem Strand.accrueF_vrnd (t : Strand) (fl : Nat) : (t.accrueF fl).vrnd = t.vrnd := rfl
@[simp] theorem Strand.accrueF_vflags (t : Strand) (fl : Nat) : (t.accrueF fl).vflags = t.vflags := rfl
@[simp] theorem Strand.accrueF_vdirty (t : Strand) (fl : Nat) : (t.accrueF fl).vdirty = t.vdirty := rfl
@[simp] theorem Strand.accrueF_kthr (t : Strand) (fl : Nat) : (t.accrueF fl).kthr = t.kthr := rfl
@[simp] theorem Strand.accrueF_lstage (t : Strand) (fl : Nat) : (t.accrueF fl).lstage = t.lstage := rfl
@[simp] theorem Strand.accrueF_lanes0 (t : Strand) (fl : Nat) : (t.accrueF fl).lanes0 = t.lanes0 := rfl
@[simp] theorem Strand.accrueF_q (t : Strand) (fl : Nat) : (t.accrueF fl).q = t.q := rfl
@[simp] theorem Strand.accrueF_fork (t : Strand) (fl : Nat) : (t.accrueF fl).fork = t.fork := rfl
@[simp] theorem Strand.accrueF_inbox (t : Strand) (fl : Nat) : (t.accrueF fl).inbox = t.inbox := rfl
@[simp] theorem Strand.accrueF_latch (t : Strand) (fl : Nat) : (t.accrueF fl).latch = t.latch := rfl
@[simp] theorem Strand.accrueF_slip (t : Strand) (fl : Nat) : (t.accrueF fl).slip = t.slip := rfl
@[simp] theorem Strand.accrueF_posted (t : Strand) (fl : Nat) : (t.accrueF fl).posted = t.posted := rfl
@[simp] theorem Strand.accrueF_astat (t : Strand) (fl : Nat) : (t.accrueF fl).astat = t.astat := rfl
@[simp] theorem Strand.accrueF_tiles (t : Strand) (fl : Nat) : (t.accrueF fl).tiles = t.tiles := rfl
@[simp] theorem Strand.accrueF_accRows (t : Strand) (fl : Nat) : (t.accrueF fl).accRows = t.accRows := rfl
@[simp] theorem Strand.accrueF_acc (t : Strand) (fl : Nat) : (t.accrueF fl).acc = t.acc := rfl
@[simp] theorem Strand.accrueF_actBytes (t : Strand) (fl : Nat) : (t.accrueF fl).actBytes = t.actBytes := rfl
@[simp] theorem Strand.accrueF_act (t : Strand) (fl : Nat) : (t.accrueF fl).act = t.act := rfl
@[simp] theorem Strand.accrueF_scratchBytes (t : Strand) (fl : Nat) :
    (t.accrueF fl).scratchBytes = t.scratchBytes := rfl
@[simp] theorem Strand.accrueF_scratch (t : Strand) (fl : Nat) : (t.accrueF fl).scratch = t.scratch := rfl
@[simp] theorem Strand.accrueF_stack (t : Strand) (fl : Nat) : (t.accrueF fl).stack = t.stack := rfl
@[simp] theorem Strand.accrueF_migcnt (t : Strand) (fl : Nat) : (t.accrueF fl).migcnt = t.migcnt := rfl
@[simp] theorem Strand.accrueF_res (t : Strand) (fl : Nat) : (t.accrueF fl).res = t.res := rfl
@[simp] theorem Strand.accrueF_lrRes (t : Strand) (fl : Nat) : (t.accrueF fl).lrRes = t.lrRes := rfl
@[simp] theorem Strand.accrueF_pend (t : Strand) (fl : Nat) : (t.accrueF fl).pend = t.pend := rfl
@[simp] theorem Strand.accrueF_replyQ (t : Strand) (fl : Nat) : (t.accrueF fl).replyQ = t.replyQ := rfl
@[simp] theorem Strand.accrueF_vq (t : Strand) (fl : Nat) : (t.accrueF fl).vq = t.vq := rfl
@[simp] theorem Strand.accrueF_mq (t : Strand) (fl : Nat) : (t.accrueF fl).mq = t.mq := rfl
@[simp] theorem Strand.accrueF_wcS (t : Strand) (fl : Nat) : (t.accrueF fl).wcS = t.wcS := rfl
@[simp] theorem Strand.accrueF_wcV (t : Strand) (fl : Nat) : (t.accrueF fl).wcV = t.wcV := rfl
@[simp] theorem Strand.accrueF_barK (t : Strand) (fl : Nat) : (t.accrueF fl).barK = t.barK := rfl
@[simp] theorem Strand.accrueF_barArrived (t : Strand) (fl : Nat) : (t.accrueF fl).barArrived = t.barArrived := rfl
@[simp] theorem Strand.accrueF_bookmark (t : Strand) (fl : Nat) : (t.accrueF fl).bookmark = t.bookmark := rfl
@[simp] theorem Strand.accrueF_mixN (t : Strand) (fl : Nat) : (t.accrueF fl).mixN = t.mixN := rfl
@[simp] theorem Strand.accrueF_mixV (t : Strand) (fl : Nat) : (t.accrueF fl).mixV = t.mixV := rfl
@[simp] theorem Strand.accrueF_kdPend (t : Strand) (fl : Nat) : (t.accrueF fl).kdPend = t.kdPend := rfl
@[simp] theorem Strand.accrueF_popped (t : Strand) (fl : Nat) : (t.accrueF fl).popped = t.popped := rfl
@[simp] theorem Strand.accrueF_trimAt (t : Strand) (fl : Nat) : (t.accrueF fl).trimAt = t.trimAt := rfl
@[simp] theorem Strand.accrueF_only (t : Strand) (fl : Nat) : (t.accrueF fl).only = t.only := rfl
@[simp] theorem Strand.accrueF_resL2 (t : Strand) (fl : Nat) : (t.accrueF fl).resL2 = t.resL2 := rfl
@[simp] theorem Strand.accrueF_replaying (t : Strand) (fl : Nat) : (t.accrueF fl).replaying = t.replaying := rfl
@[simp] theorem Strand.accrueF_asked (t : Strand) (fl : Nat) : (t.accrueF fl).asked = t.asked := rfl
@[simp] theorem Strand.accrueF_savedAt (t : Strand) (fl : Nat) : (t.accrueF fl).savedAt = t.savedAt := rfl

@[simp] theorem Strand.accrueA_uid (t : Strand) (fl : Nat) : (t.accrueA fl).uid = t.uid := rfl
@[simp] theorem Strand.accrueA_system (t : Strand) (fl : Nat) : (t.accrueA fl).system = t.system := rfl
@[simp] theorem Strand.accrueA_lid (t : Strand) (fl : Nat) : (t.accrueA fl).lid = t.lid := rfl
@[simp] theorem Strand.accrueA_ctx (t : Strand) (fl : Nat) : (t.accrueA fl).ctx = t.ctx := rfl
@[simp] theorem Strand.accrueA_gx (t : Strand) (fl : Nat) : (t.accrueA fl).gx = t.gx := rfl
@[simp] theorem Strand.accrueA_gy (t : Strand) (fl : Nat) : (t.accrueA fl).gy = t.gy := rfl
@[simp] theorem Strand.accrueA_gz (t : Strand) (fl : Nat) : (t.accrueA fl).gz = t.gz := rfl
@[simp] theorem Strand.accrueA_glin (t : Strand) (fl : Nat) : (t.accrueA fl).glin = t.glin := rfl
@[simp] theorem Strand.accrueA_stage (t : Strand) (fl : Nat) : (t.accrueA fl).stage = t.stage := rfl
@[simp] theorem Strand.accrueA_six (t : Strand) (fl : Nat) : (t.accrueA fl).six = t.six := rfl
@[simp] theorem Strand.accrueA_core (t : Strand) (fl : Nat) : (t.accrueA fl).core = t.core := rfl
@[simp] theorem Strand.accrueA_slot (t : Strand) (fl : Nat) : (t.accrueA fl).slot = t.slot := rfl
@[simp] theorem Strand.accrueA_status (t : Strand) (fl : Nat) : (t.accrueA fl).status = t.status := rfl
@[simp] theorem Strand.accrueA_mode (t : Strand) (fl : Nat) : (t.accrueA fl).mode = t.mode := rfl
@[simp] theorem Strand.accrueA_pc (t : Strand) (fl : Nat) : (t.accrueA fl).pc = t.pc := rfl
@[simp] theorem Strand.accrueA_x (t : Strand) (fl : Nat) : (t.accrueA fl).x = t.x := rfl
@[simp] theorem Strand.accrueA_f (t : Strand) (fl : Nat) : (t.accrueA fl).f = t.f := rfl
@[simp] theorem Strand.accrueA_frm (t : Strand) (fl : Nat) : (t.accrueA fl).frm = t.frm := rfl
@[simp] theorem Strand.accrueA_fflags (t : Strand) (fl : Nat) : (t.accrueA fl).fflags = t.fflags := rfl
@[simp] theorem Strand.accrueA_v (t : Strand) (fl : Nat) : (t.accrueA fl).v = t.v := rfl
@[simp] theorem Strand.accrueA_k (t : Strand) (fl : Nat) : (t.accrueA fl).k = t.k := rfl
@[simp] theorem Strand.accrueA_vl (t : Strand) (fl : Nat) : (t.accrueA fl).vl = t.vl := rfl
@[simp] theorem Strand.accrueA_vtype (t : Strand) (fl : Nat) : (t.accrueA fl).vtype = t.vtype := rfl
@[simp] theorem Strand.accrueA_g (t : Strand) (fl : Nat) : (t.accrueA fl).g = t.g := rfl
@[simp] theorem Strand.accrueA_nr (t : Strand) (fl : Nat) : (t.accrueA fl).nr = t.nr := rfl
@[simp] theorem Strand.accrueA_short (t : Strand) (fl : Nat) : (t.accrueA fl).short = t.short := rfl
@[simp] theorem Strand.accrueA_vstart (t : Strand) (fl : Nat) : (t.accrueA fl).vstart = t.vstart := rfl
@[simp] theorem Strand.accrueA_vrnd (t : Strand) (fl : Nat) : (t.accrueA fl).vrnd = t.vrnd := rfl
@[simp] theorem Strand.accrueA_vflags (t : Strand) (fl : Nat) : (t.accrueA fl).vflags = t.vflags := rfl
@[simp] theorem Strand.accrueA_vdirty (t : Strand) (fl : Nat) : (t.accrueA fl).vdirty = t.vdirty := rfl
@[simp] theorem Strand.accrueA_kthr (t : Strand) (fl : Nat) : (t.accrueA fl).kthr = t.kthr := rfl
@[simp] theorem Strand.accrueA_lstage (t : Strand) (fl : Nat) : (t.accrueA fl).lstage = t.lstage := rfl
@[simp] theorem Strand.accrueA_lanes0 (t : Strand) (fl : Nat) : (t.accrueA fl).lanes0 = t.lanes0 := rfl
@[simp] theorem Strand.accrueA_q (t : Strand) (fl : Nat) : (t.accrueA fl).q = t.q := rfl
@[simp] theorem Strand.accrueA_fork (t : Strand) (fl : Nat) : (t.accrueA fl).fork = t.fork := rfl
@[simp] theorem Strand.accrueA_inbox (t : Strand) (fl : Nat) : (t.accrueA fl).inbox = t.inbox := rfl
@[simp] theorem Strand.accrueA_latch (t : Strand) (fl : Nat) : (t.accrueA fl).latch = t.latch := rfl
@[simp] theorem Strand.accrueA_slip (t : Strand) (fl : Nat) : (t.accrueA fl).slip = t.slip := rfl
@[simp] theorem Strand.accrueA_posted (t : Strand) (fl : Nat) : (t.accrueA fl).posted = t.posted := rfl
@[simp] theorem Strand.accrueA_tiles (t : Strand) (fl : Nat) : (t.accrueA fl).tiles = t.tiles := rfl
@[simp] theorem Strand.accrueA_accRows (t : Strand) (fl : Nat) : (t.accrueA fl).accRows = t.accRows := rfl
@[simp] theorem Strand.accrueA_acc (t : Strand) (fl : Nat) : (t.accrueA fl).acc = t.acc := rfl
@[simp] theorem Strand.accrueA_actBytes (t : Strand) (fl : Nat) : (t.accrueA fl).actBytes = t.actBytes := rfl
@[simp] theorem Strand.accrueA_act (t : Strand) (fl : Nat) : (t.accrueA fl).act = t.act := rfl
@[simp] theorem Strand.accrueA_scratchBytes (t : Strand) (fl : Nat) :
    (t.accrueA fl).scratchBytes = t.scratchBytes := rfl
@[simp] theorem Strand.accrueA_scratch (t : Strand) (fl : Nat) : (t.accrueA fl).scratch = t.scratch := rfl
@[simp] theorem Strand.accrueA_stack (t : Strand) (fl : Nat) : (t.accrueA fl).stack = t.stack := rfl
@[simp] theorem Strand.accrueA_migcnt (t : Strand) (fl : Nat) : (t.accrueA fl).migcnt = t.migcnt := rfl
@[simp] theorem Strand.accrueA_res (t : Strand) (fl : Nat) : (t.accrueA fl).res = t.res := rfl
@[simp] theorem Strand.accrueA_lrRes (t : Strand) (fl : Nat) : (t.accrueA fl).lrRes = t.lrRes := rfl
@[simp] theorem Strand.accrueA_pend (t : Strand) (fl : Nat) : (t.accrueA fl).pend = t.pend := rfl
@[simp] theorem Strand.accrueA_replyQ (t : Strand) (fl : Nat) : (t.accrueA fl).replyQ = t.replyQ := rfl
@[simp] theorem Strand.accrueA_vq (t : Strand) (fl : Nat) : (t.accrueA fl).vq = t.vq := rfl
@[simp] theorem Strand.accrueA_mq (t : Strand) (fl : Nat) : (t.accrueA fl).mq = t.mq := rfl
@[simp] theorem Strand.accrueA_wcS (t : Strand) (fl : Nat) : (t.accrueA fl).wcS = t.wcS := rfl
@[simp] theorem Strand.accrueA_wcV (t : Strand) (fl : Nat) : (t.accrueA fl).wcV = t.wcV := rfl
@[simp] theorem Strand.accrueA_barK (t : Strand) (fl : Nat) : (t.accrueA fl).barK = t.barK := rfl
@[simp] theorem Strand.accrueA_barArrived (t : Strand) (fl : Nat) : (t.accrueA fl).barArrived = t.barArrived := rfl
@[simp] theorem Strand.accrueA_bookmark (t : Strand) (fl : Nat) : (t.accrueA fl).bookmark = t.bookmark := rfl
@[simp] theorem Strand.accrueA_mixN (t : Strand) (fl : Nat) : (t.accrueA fl).mixN = t.mixN := rfl
@[simp] theorem Strand.accrueA_mixV (t : Strand) (fl : Nat) : (t.accrueA fl).mixV = t.mixV := rfl
@[simp] theorem Strand.accrueA_kdPend (t : Strand) (fl : Nat) : (t.accrueA fl).kdPend = t.kdPend := rfl
@[simp] theorem Strand.accrueA_popped (t : Strand) (fl : Nat) : (t.accrueA fl).popped = t.popped := rfl
@[simp] theorem Strand.accrueA_trimAt (t : Strand) (fl : Nat) : (t.accrueA fl).trimAt = t.trimAt := rfl
@[simp] theorem Strand.accrueA_only (t : Strand) (fl : Nat) : (t.accrueA fl).only = t.only := rfl
@[simp] theorem Strand.accrueA_resL2 (t : Strand) (fl : Nat) : (t.accrueA fl).resL2 = t.resL2 := rfl
@[simp] theorem Strand.accrueA_replaying (t : Strand) (fl : Nat) : (t.accrueA fl).replaying = t.replaying := rfl
@[simp] theorem Strand.accrueA_asked (t : Strand) (fl : Nat) : (t.accrueA fl).asked = t.asked := rfl
@[simp] theorem Strand.accrueA_savedAt (t : Strand) (fl : Nat) : (t.accrueA fl).savedAt = t.savedAt := rfl

@[simp] theorem Strand.setStatus_status (t : Strand) (st : Status) : (t.setStatus st).status = st := rfl
@[simp] theorem Strand.setStatus_uid (t : Strand) (st : Status) : (t.setStatus st).uid = t.uid := rfl
@[simp] theorem Strand.setStatus_system (t : Strand) (st : Status) : (t.setStatus st).system = t.system := rfl
@[simp] theorem Strand.setStatus_lid (t : Strand) (st : Status) : (t.setStatus st).lid = t.lid := rfl
@[simp] theorem Strand.setStatus_ctx (t : Strand) (st : Status) : (t.setStatus st).ctx = t.ctx := rfl
@[simp] theorem Strand.setStatus_gx (t : Strand) (st : Status) : (t.setStatus st).gx = t.gx := rfl
@[simp] theorem Strand.setStatus_gy (t : Strand) (st : Status) : (t.setStatus st).gy = t.gy := rfl
@[simp] theorem Strand.setStatus_gz (t : Strand) (st : Status) : (t.setStatus st).gz = t.gz := rfl
@[simp] theorem Strand.setStatus_glin (t : Strand) (st : Status) : (t.setStatus st).glin = t.glin := rfl
@[simp] theorem Strand.setStatus_stage (t : Strand) (st : Status) : (t.setStatus st).stage = t.stage := rfl
@[simp] theorem Strand.setStatus_six (t : Strand) (st : Status) : (t.setStatus st).six = t.six := rfl
@[simp] theorem Strand.setStatus_core (t : Strand) (st : Status) : (t.setStatus st).core = t.core := rfl
@[simp] theorem Strand.setStatus_slot (t : Strand) (st : Status) : (t.setStatus st).slot = t.slot := rfl
@[simp] theorem Strand.setStatus_mode (t : Strand) (st : Status) : (t.setStatus st).mode = t.mode := rfl
@[simp] theorem Strand.setStatus_pc (t : Strand) (st : Status) : (t.setStatus st).pc = t.pc := rfl
@[simp] theorem Strand.setStatus_x (t : Strand) (st : Status) : (t.setStatus st).x = t.x := rfl
@[simp] theorem Strand.setStatus_f (t : Strand) (st : Status) : (t.setStatus st).f = t.f := rfl
@[simp] theorem Strand.setStatus_frm (t : Strand) (st : Status) : (t.setStatus st).frm = t.frm := rfl
@[simp] theorem Strand.setStatus_fflags (t : Strand) (st : Status) : (t.setStatus st).fflags = t.fflags := rfl
@[simp] theorem Strand.setStatus_v (t : Strand) (st : Status) : (t.setStatus st).v = t.v := rfl
@[simp] theorem Strand.setStatus_k (t : Strand) (st : Status) : (t.setStatus st).k = t.k := rfl
@[simp] theorem Strand.setStatus_vl (t : Strand) (st : Status) : (t.setStatus st).vl = t.vl := rfl
@[simp] theorem Strand.setStatus_vtype (t : Strand) (st : Status) : (t.setStatus st).vtype = t.vtype := rfl
@[simp] theorem Strand.setStatus_g (t : Strand) (st : Status) : (t.setStatus st).g = t.g := rfl
@[simp] theorem Strand.setStatus_nr (t : Strand) (st : Status) : (t.setStatus st).nr = t.nr := rfl
@[simp] theorem Strand.setStatus_short (t : Strand) (st : Status) : (t.setStatus st).short = t.short := rfl
@[simp] theorem Strand.setStatus_vstart (t : Strand) (st : Status) : (t.setStatus st).vstart = t.vstart := rfl
@[simp] theorem Strand.setStatus_vrnd (t : Strand) (st : Status) : (t.setStatus st).vrnd = t.vrnd := rfl
@[simp] theorem Strand.setStatus_vflags (t : Strand) (st : Status) : (t.setStatus st).vflags = t.vflags := rfl
@[simp] theorem Strand.setStatus_vdirty (t : Strand) (st : Status) : (t.setStatus st).vdirty = t.vdirty := rfl
@[simp] theorem Strand.setStatus_kthr (t : Strand) (st : Status) : (t.setStatus st).kthr = t.kthr := rfl
@[simp] theorem Strand.setStatus_lstage (t : Strand) (st : Status) : (t.setStatus st).lstage = t.lstage := rfl
@[simp] theorem Strand.setStatus_lanes0 (t : Strand) (st : Status) : (t.setStatus st).lanes0 = t.lanes0 := rfl
@[simp] theorem Strand.setStatus_q (t : Strand) (st : Status) : (t.setStatus st).q = t.q := rfl
@[simp] theorem Strand.setStatus_fork (t : Strand) (st : Status) : (t.setStatus st).fork = t.fork := rfl
@[simp] theorem Strand.setStatus_inbox (t : Strand) (st : Status) : (t.setStatus st).inbox = t.inbox := rfl
@[simp] theorem Strand.setStatus_latch (t : Strand) (st : Status) : (t.setStatus st).latch = t.latch := rfl
@[simp] theorem Strand.setStatus_slip (t : Strand) (st : Status) : (t.setStatus st).slip = t.slip := rfl
@[simp] theorem Strand.setStatus_posted (t : Strand) (st : Status) : (t.setStatus st).posted = t.posted := rfl
@[simp] theorem Strand.setStatus_astat (t : Strand) (st : Status) : (t.setStatus st).astat = t.astat := rfl
@[simp] theorem Strand.setStatus_tiles (t : Strand) (st : Status) : (t.setStatus st).tiles = t.tiles := rfl
@[simp] theorem Strand.setStatus_accRows (t : Strand) (st : Status) : (t.setStatus st).accRows = t.accRows := rfl
@[simp] theorem Strand.setStatus_acc (t : Strand) (st : Status) : (t.setStatus st).acc = t.acc := rfl
@[simp] theorem Strand.setStatus_actBytes (t : Strand) (st : Status) : (t.setStatus st).actBytes = t.actBytes := rfl
@[simp] theorem Strand.setStatus_act (t : Strand) (st : Status) : (t.setStatus st).act = t.act := rfl
@[simp] theorem Strand.setStatus_scratchBytes (t : Strand) (st : Status) :
    (t.setStatus st).scratchBytes = t.scratchBytes := rfl
@[simp] theorem Strand.setStatus_scratch (t : Strand) (st : Status) : (t.setStatus st).scratch = t.scratch := rfl
@[simp] theorem Strand.setStatus_stack (t : Strand) (st : Status) : (t.setStatus st).stack = t.stack := rfl
@[simp] theorem Strand.setStatus_migcnt (t : Strand) (st : Status) : (t.setStatus st).migcnt = t.migcnt := rfl
@[simp] theorem Strand.setStatus_res (t : Strand) (st : Status) : (t.setStatus st).res = t.res := rfl
@[simp] theorem Strand.setStatus_lrRes (t : Strand) (st : Status) : (t.setStatus st).lrRes = t.lrRes := rfl
@[simp] theorem Strand.setStatus_pend (t : Strand) (st : Status) : (t.setStatus st).pend = t.pend := rfl
@[simp] theorem Strand.setStatus_replyQ (t : Strand) (st : Status) : (t.setStatus st).replyQ = t.replyQ := rfl
@[simp] theorem Strand.setStatus_vq (t : Strand) (st : Status) : (t.setStatus st).vq = t.vq := rfl
@[simp] theorem Strand.setStatus_mq (t : Strand) (st : Status) : (t.setStatus st).mq = t.mq := rfl
@[simp] theorem Strand.setStatus_wcS (t : Strand) (st : Status) : (t.setStatus st).wcS = t.wcS := rfl
@[simp] theorem Strand.setStatus_wcV (t : Strand) (st : Status) : (t.setStatus st).wcV = t.wcV := rfl
@[simp] theorem Strand.setStatus_barK (t : Strand) (st : Status) : (t.setStatus st).barK = t.barK := rfl
@[simp] theorem Strand.setStatus_barArrived (t : Strand) (st : Status) :
    (t.setStatus st).barArrived = t.barArrived := rfl
@[simp] theorem Strand.setStatus_bookmark (t : Strand) (st : Status) : (t.setStatus st).bookmark = t.bookmark := rfl
@[simp] theorem Strand.setStatus_mixN (t : Strand) (st : Status) : (t.setStatus st).mixN = t.mixN := rfl
@[simp] theorem Strand.setStatus_mixV (t : Strand) (st : Status) : (t.setStatus st).mixV = t.mixV := rfl
@[simp] theorem Strand.setStatus_kdPend (t : Strand) (st : Status) : (t.setStatus st).kdPend = t.kdPend := rfl
@[simp] theorem Strand.setStatus_popped (t : Strand) (st : Status) : (t.setStatus st).popped = t.popped := rfl
@[simp] theorem Strand.setStatus_trimAt (t : Strand) (st : Status) : (t.setStatus st).trimAt = t.trimAt := rfl
@[simp] theorem Strand.setStatus_only (t : Strand) (st : Status) : (t.setStatus st).only = t.only := rfl
@[simp] theorem Strand.setStatus_resL2 (t : Strand) (st : Status) : (t.setStatus st).resL2 = t.resL2 := rfl
@[simp] theorem Strand.setStatus_replaying (t : Strand) (st : Status) :
    (t.setStatus st).replaying = t.replaying := rfl
@[simp] theorem Strand.setStatus_asked (t : Strand) (st : Status) : (t.setStatus st).asked = t.asked := rfl
@[simp] theorem Strand.setStatus_savedAt (t : Strand) (st : Status) : (t.setStatus st).savedAt = t.savedAt := rfl

@[simp] theorem Strand.putF_uid (t : Strand) (r : Reg) (v : Word) : (t.putF r v).uid = t.uid := rfl
@[simp] theorem Strand.putF_system (t : Strand) (r : Reg) (v : Word) : (t.putF r v).system = t.system := rfl
@[simp] theorem Strand.putF_lid (t : Strand) (r : Reg) (v : Word) : (t.putF r v).lid = t.lid := rfl
@[simp] theorem Strand.putF_ctx (t : Strand) (r : Reg) (v : Word) : (t.putF r v).ctx = t.ctx := rfl
@[simp] theorem Strand.putF_gx (t : Strand) (r : Reg) (v : Word) : (t.putF r v).gx = t.gx := rfl
@[simp] theorem Strand.putF_gy (t : Strand) (r : Reg) (v : Word) : (t.putF r v).gy = t.gy := rfl
@[simp] theorem Strand.putF_gz (t : Strand) (r : Reg) (v : Word) : (t.putF r v).gz = t.gz := rfl
@[simp] theorem Strand.putF_glin (t : Strand) (r : Reg) (v : Word) : (t.putF r v).glin = t.glin := rfl
@[simp] theorem Strand.putF_stage (t : Strand) (r : Reg) (v : Word) : (t.putF r v).stage = t.stage := rfl
@[simp] theorem Strand.putF_six (t : Strand) (r : Reg) (v : Word) : (t.putF r v).six = t.six := rfl
@[simp] theorem Strand.putF_core (t : Strand) (r : Reg) (v : Word) : (t.putF r v).core = t.core := rfl
@[simp] theorem Strand.putF_slot (t : Strand) (r : Reg) (v : Word) : (t.putF r v).slot = t.slot := rfl
@[simp] theorem Strand.putF_status (t : Strand) (r : Reg) (v : Word) : (t.putF r v).status = t.status := rfl
@[simp] theorem Strand.putF_mode (t : Strand) (r : Reg) (v : Word) : (t.putF r v).mode = t.mode := rfl
@[simp] theorem Strand.putF_pc (t : Strand) (r : Reg) (v : Word) : (t.putF r v).pc = t.pc := rfl
@[simp] theorem Strand.putF_x (t : Strand) (r : Reg) (v : Word) : (t.putF r v).x = t.x := rfl
@[simp] theorem Strand.putF_frm (t : Strand) (r : Reg) (v : Word) : (t.putF r v).frm = t.frm := rfl
@[simp] theorem Strand.putF_fflags (t : Strand) (r : Reg) (v : Word) : (t.putF r v).fflags = t.fflags := rfl
@[simp] theorem Strand.putF_v (t : Strand) (r : Reg) (v : Word) : (t.putF r v).v = t.v := rfl
@[simp] theorem Strand.putF_k (t : Strand) (r : Reg) (v : Word) : (t.putF r v).k = t.k := rfl
@[simp] theorem Strand.putF_vl (t : Strand) (r : Reg) (v : Word) : (t.putF r v).vl = t.vl := rfl
@[simp] theorem Strand.putF_vtype (t : Strand) (r : Reg) (v : Word) : (t.putF r v).vtype = t.vtype := rfl
@[simp] theorem Strand.putF_g (t : Strand) (r : Reg) (v : Word) : (t.putF r v).g = t.g := rfl
@[simp] theorem Strand.putF_nr (t : Strand) (r : Reg) (v : Word) : (t.putF r v).nr = t.nr := rfl
@[simp] theorem Strand.putF_short (t : Strand) (r : Reg) (v : Word) : (t.putF r v).short = t.short := rfl
@[simp] theorem Strand.putF_vstart (t : Strand) (r : Reg) (v : Word) : (t.putF r v).vstart = t.vstart := rfl
@[simp] theorem Strand.putF_vrnd (t : Strand) (r : Reg) (v : Word) : (t.putF r v).vrnd = t.vrnd := rfl
@[simp] theorem Strand.putF_vflags (t : Strand) (r : Reg) (v : Word) : (t.putF r v).vflags = t.vflags := rfl
@[simp] theorem Strand.putF_vdirty (t : Strand) (r : Reg) (v : Word) : (t.putF r v).vdirty = t.vdirty := rfl
@[simp] theorem Strand.putF_kthr (t : Strand) (r : Reg) (v : Word) : (t.putF r v).kthr = t.kthr := rfl
@[simp] theorem Strand.putF_lstage (t : Strand) (r : Reg) (v : Word) : (t.putF r v).lstage = t.lstage := rfl
@[simp] theorem Strand.putF_lanes0 (t : Strand) (r : Reg) (v : Word) : (t.putF r v).lanes0 = t.lanes0 := rfl
@[simp] theorem Strand.putF_q (t : Strand) (r : Reg) (v : Word) : (t.putF r v).q = t.q := rfl
@[simp] theorem Strand.putF_fork (t : Strand) (r : Reg) (v : Word) : (t.putF r v).fork = t.fork := rfl
@[simp] theorem Strand.putF_inbox (t : Strand) (r : Reg) (v : Word) : (t.putF r v).inbox = t.inbox := rfl
@[simp] theorem Strand.putF_latch (t : Strand) (r : Reg) (v : Word) : (t.putF r v).latch = t.latch := rfl
@[simp] theorem Strand.putF_slip (t : Strand) (r : Reg) (v : Word) : (t.putF r v).slip = t.slip := rfl
@[simp] theorem Strand.putF_posted (t : Strand) (r : Reg) (v : Word) : (t.putF r v).posted = t.posted := rfl
@[simp] theorem Strand.putF_astat (t : Strand) (r : Reg) (v : Word) : (t.putF r v).astat = t.astat := rfl
@[simp] theorem Strand.putF_tiles (t : Strand) (r : Reg) (v : Word) : (t.putF r v).tiles = t.tiles := rfl
@[simp] theorem Strand.putF_accRows (t : Strand) (r : Reg) (v : Word) : (t.putF r v).accRows = t.accRows := rfl
@[simp] theorem Strand.putF_acc (t : Strand) (r : Reg) (v : Word) : (t.putF r v).acc = t.acc := rfl
@[simp] theorem Strand.putF_actBytes (t : Strand) (r : Reg) (v : Word) : (t.putF r v).actBytes = t.actBytes := rfl
@[simp] theorem Strand.putF_act (t : Strand) (r : Reg) (v : Word) : (t.putF r v).act = t.act := rfl
@[simp] theorem Strand.putF_scratchBytes (t : Strand) (r : Reg) (v : Word) :
    (t.putF r v).scratchBytes = t.scratchBytes := rfl
@[simp] theorem Strand.putF_scratch (t : Strand) (r : Reg) (v : Word) : (t.putF r v).scratch = t.scratch := rfl
@[simp] theorem Strand.putF_stack (t : Strand) (r : Reg) (v : Word) : (t.putF r v).stack = t.stack := rfl
@[simp] theorem Strand.putF_migcnt (t : Strand) (r : Reg) (v : Word) : (t.putF r v).migcnt = t.migcnt := rfl
@[simp] theorem Strand.putF_res (t : Strand) (r : Reg) (v : Word) : (t.putF r v).res = t.res := rfl
@[simp] theorem Strand.putF_lrRes (t : Strand) (r : Reg) (v : Word) : (t.putF r v).lrRes = t.lrRes := rfl
@[simp] theorem Strand.putF_pend (t : Strand) (r : Reg) (v : Word) : (t.putF r v).pend = t.pend := rfl
@[simp] theorem Strand.putF_replyQ (t : Strand) (r : Reg) (v : Word) : (t.putF r v).replyQ = t.replyQ := rfl
@[simp] theorem Strand.putF_vq (t : Strand) (r : Reg) (v : Word) : (t.putF r v).vq = t.vq := rfl
@[simp] theorem Strand.putF_mq (t : Strand) (r : Reg) (v : Word) : (t.putF r v).mq = t.mq := rfl
@[simp] theorem Strand.putF_wcS (t : Strand) (r : Reg) (v : Word) : (t.putF r v).wcS = t.wcS := rfl
@[simp] theorem Strand.putF_wcV (t : Strand) (r : Reg) (v : Word) : (t.putF r v).wcV = t.wcV := rfl
@[simp] theorem Strand.putF_barK (t : Strand) (r : Reg) (v : Word) : (t.putF r v).barK = t.barK := rfl
@[simp] theorem Strand.putF_barArrived (t : Strand) (r : Reg) (v : Word) :
    (t.putF r v).barArrived = t.barArrived := rfl
@[simp] theorem Strand.putF_bookmark (t : Strand) (r : Reg) (v : Word) : (t.putF r v).bookmark = t.bookmark := rfl
@[simp] theorem Strand.putF_mixN (t : Strand) (r : Reg) (v : Word) : (t.putF r v).mixN = t.mixN := rfl
@[simp] theorem Strand.putF_mixV (t : Strand) (r : Reg) (v : Word) : (t.putF r v).mixV = t.mixV := rfl
@[simp] theorem Strand.putF_kdPend (t : Strand) (r : Reg) (v : Word) : (t.putF r v).kdPend = t.kdPend := rfl
@[simp] theorem Strand.putF_popped (t : Strand) (r : Reg) (v : Word) : (t.putF r v).popped = t.popped := rfl
@[simp] theorem Strand.putF_trimAt (t : Strand) (r : Reg) (v : Word) : (t.putF r v).trimAt = t.trimAt := rfl
@[simp] theorem Strand.putF_only (t : Strand) (r : Reg) (v : Word) : (t.putF r v).only = t.only := rfl
@[simp] theorem Strand.putF_resL2 (t : Strand) (r : Reg) (v : Word) : (t.putF r v).resL2 = t.resL2 := rfl
@[simp] theorem Strand.putF_replaying (t : Strand) (r : Reg) (v : Word) : (t.putF r v).replaying = t.replaying := rfl
@[simp] theorem Strand.putF_asked (t : Strand) (r : Reg) (v : Word) : (t.putF r v).asked = t.asked := rfl
@[simp] theorem Strand.putF_savedAt (t : Strand) (r : Reg) (v : Word) : (t.putF r v).savedAt = t.savedAt := rfl

@[simp] theorem Strand.setX_uid (t : Strand) (r : Reg) (v : Word) : (t.setX r v).uid = t.uid := by
  unfold Strand.setX; split <;> rfl
@[simp] theorem Strand.setX_system (t : Strand) (r : Reg) (v : Word) : (t.setX r v).system = t.system := by
  unfold Strand.setX; split <;> rfl
@[simp] theorem Strand.setX_lid (t : Strand) (r : Reg) (v : Word) : (t.setX r v).lid = t.lid := by
  unfold Strand.setX; split <;> rfl
@[simp] theorem Strand.setX_ctx (t : Strand) (r : Reg) (v : Word) : (t.setX r v).ctx = t.ctx := by
  unfold Strand.setX; split <;> rfl
@[simp] theorem Strand.setX_gx (t : Strand) (r : Reg) (v : Word) : (t.setX r v).gx = t.gx := by
  unfold Strand.setX; split <;> rfl
@[simp] theorem Strand.setX_gy (t : Strand) (r : Reg) (v : Word) : (t.setX r v).gy = t.gy := by
  unfold Strand.setX; split <;> rfl
@[simp] theorem Strand.setX_gz (t : Strand) (r : Reg) (v : Word) : (t.setX r v).gz = t.gz := by
  unfold Strand.setX; split <;> rfl
@[simp] theorem Strand.setX_glin (t : Strand) (r : Reg) (v : Word) : (t.setX r v).glin = t.glin := by
  unfold Strand.setX; split <;> rfl
@[simp] theorem Strand.setX_stage (t : Strand) (r : Reg) (v : Word) : (t.setX r v).stage = t.stage := by
  unfold Strand.setX; split <;> rfl
@[simp] theorem Strand.setX_six (t : Strand) (r : Reg) (v : Word) : (t.setX r v).six = t.six := by
  unfold Strand.setX; split <;> rfl
@[simp] theorem Strand.setX_core (t : Strand) (r : Reg) (v : Word) : (t.setX r v).core = t.core := by
  unfold Strand.setX; split <;> rfl
@[simp] theorem Strand.setX_slot (t : Strand) (r : Reg) (v : Word) : (t.setX r v).slot = t.slot := by
  unfold Strand.setX; split <;> rfl
@[simp] theorem Strand.setX_status (t : Strand) (r : Reg) (v : Word) : (t.setX r v).status = t.status := by
  unfold Strand.setX; split <;> rfl
@[simp] theorem Strand.setX_mode (t : Strand) (r : Reg) (v : Word) : (t.setX r v).mode = t.mode := by
  unfold Strand.setX; split <;> rfl
@[simp] theorem Strand.setX_pc (t : Strand) (r : Reg) (v : Word) : (t.setX r v).pc = t.pc := by
  unfold Strand.setX; split <;> rfl
@[simp] theorem Strand.setX_f (t : Strand) (r : Reg) (v : Word) : (t.setX r v).f = t.f := by
  unfold Strand.setX; split <;> rfl
@[simp] theorem Strand.setX_frm (t : Strand) (r : Reg) (v : Word) : (t.setX r v).frm = t.frm := by
  unfold Strand.setX; split <;> rfl
@[simp] theorem Strand.setX_fflags (t : Strand) (r : Reg) (v : Word) : (t.setX r v).fflags = t.fflags := by
  unfold Strand.setX; split <;> rfl
@[simp] theorem Strand.setX_v (t : Strand) (r : Reg) (v : Word) : (t.setX r v).v = t.v := by
  unfold Strand.setX; split <;> rfl
@[simp] theorem Strand.setX_k (t : Strand) (r : Reg) (v : Word) : (t.setX r v).k = t.k := by
  unfold Strand.setX; split <;> rfl
@[simp] theorem Strand.setX_vl (t : Strand) (r : Reg) (v : Word) : (t.setX r v).vl = t.vl := by
  unfold Strand.setX; split <;> rfl
@[simp] theorem Strand.setX_vtype (t : Strand) (r : Reg) (v : Word) : (t.setX r v).vtype = t.vtype := by
  unfold Strand.setX; split <;> rfl
@[simp] theorem Strand.setX_g (t : Strand) (r : Reg) (v : Word) : (t.setX r v).g = t.g := by
  unfold Strand.setX; split <;> rfl
@[simp] theorem Strand.setX_nr (t : Strand) (r : Reg) (v : Word) : (t.setX r v).nr = t.nr := by
  unfold Strand.setX; split <;> rfl
@[simp] theorem Strand.setX_short (t : Strand) (r : Reg) (v : Word) : (t.setX r v).short = t.short := by
  unfold Strand.setX; split <;> rfl
@[simp] theorem Strand.setX_vstart (t : Strand) (r : Reg) (v : Word) : (t.setX r v).vstart = t.vstart := by
  unfold Strand.setX; split <;> rfl
@[simp] theorem Strand.setX_vrnd (t : Strand) (r : Reg) (v : Word) : (t.setX r v).vrnd = t.vrnd := by
  unfold Strand.setX; split <;> rfl
@[simp] theorem Strand.setX_vflags (t : Strand) (r : Reg) (v : Word) : (t.setX r v).vflags = t.vflags := by
  unfold Strand.setX; split <;> rfl
@[simp] theorem Strand.setX_vdirty (t : Strand) (r : Reg) (v : Word) : (t.setX r v).vdirty = t.vdirty := by
  unfold Strand.setX; split <;> rfl
@[simp] theorem Strand.setX_kthr (t : Strand) (r : Reg) (v : Word) : (t.setX r v).kthr = t.kthr := by
  unfold Strand.setX; split <;> rfl
@[simp] theorem Strand.setX_lstage (t : Strand) (r : Reg) (v : Word) : (t.setX r v).lstage = t.lstage := by
  unfold Strand.setX; split <;> rfl
@[simp] theorem Strand.setX_lanes0 (t : Strand) (r : Reg) (v : Word) : (t.setX r v).lanes0 = t.lanes0 := by
  unfold Strand.setX; split <;> rfl
@[simp] theorem Strand.setX_q (t : Strand) (r : Reg) (v : Word) : (t.setX r v).q = t.q := by
  unfold Strand.setX; split <;> rfl
@[simp] theorem Strand.setX_fork (t : Strand) (r : Reg) (v : Word) : (t.setX r v).fork = t.fork := by
  unfold Strand.setX; split <;> rfl
@[simp] theorem Strand.setX_inbox (t : Strand) (r : Reg) (v : Word) : (t.setX r v).inbox = t.inbox := by
  unfold Strand.setX; split <;> rfl
@[simp] theorem Strand.setX_latch (t : Strand) (r : Reg) (v : Word) : (t.setX r v).latch = t.latch := by
  unfold Strand.setX; split <;> rfl
@[simp] theorem Strand.setX_slip (t : Strand) (r : Reg) (v : Word) : (t.setX r v).slip = t.slip := by
  unfold Strand.setX; split <;> rfl
@[simp] theorem Strand.setX_posted (t : Strand) (r : Reg) (v : Word) : (t.setX r v).posted = t.posted := by
  unfold Strand.setX; split <;> rfl
@[simp] theorem Strand.setX_astat (t : Strand) (r : Reg) (v : Word) : (t.setX r v).astat = t.astat := by
  unfold Strand.setX; split <;> rfl
@[simp] theorem Strand.setX_tiles (t : Strand) (r : Reg) (v : Word) : (t.setX r v).tiles = t.tiles := by
  unfold Strand.setX; split <;> rfl
@[simp] theorem Strand.setX_accRows (t : Strand) (r : Reg) (v : Word) : (t.setX r v).accRows = t.accRows := by
  unfold Strand.setX; split <;> rfl
@[simp] theorem Strand.setX_acc (t : Strand) (r : Reg) (v : Word) : (t.setX r v).acc = t.acc := by
  unfold Strand.setX; split <;> rfl
@[simp] theorem Strand.setX_actBytes (t : Strand) (r : Reg) (v : Word) : (t.setX r v).actBytes = t.actBytes := by
  unfold Strand.setX; split <;> rfl
@[simp] theorem Strand.setX_act (t : Strand) (r : Reg) (v : Word) : (t.setX r v).act = t.act := by
  unfold Strand.setX; split <;> rfl
@[simp] theorem Strand.setX_scratchBytes (t : Strand) (r : Reg) (v : Word) : (t.setX r v).scratchBytes = t.scratchBytes := by
  unfold Strand.setX; split <;> rfl
@[simp] theorem Strand.setX_scratch (t : Strand) (r : Reg) (v : Word) : (t.setX r v).scratch = t.scratch := by
  unfold Strand.setX; split <;> rfl
@[simp] theorem Strand.setX_stack (t : Strand) (r : Reg) (v : Word) : (t.setX r v).stack = t.stack := by
  unfold Strand.setX; split <;> rfl
@[simp] theorem Strand.setX_migcnt (t : Strand) (r : Reg) (v : Word) : (t.setX r v).migcnt = t.migcnt := by
  unfold Strand.setX; split <;> rfl
@[simp] theorem Strand.setX_res (t : Strand) (r : Reg) (v : Word) : (t.setX r v).res = t.res := by
  unfold Strand.setX; split <;> rfl
@[simp] theorem Strand.setX_lrRes (t : Strand) (r : Reg) (v : Word) : (t.setX r v).lrRes = t.lrRes := by
  unfold Strand.setX; split <;> rfl
@[simp] theorem Strand.setX_pend (t : Strand) (r : Reg) (v : Word) : (t.setX r v).pend = t.pend := by
  unfold Strand.setX; split <;> rfl
@[simp] theorem Strand.setX_replyQ (t : Strand) (r : Reg) (v : Word) : (t.setX r v).replyQ = t.replyQ := by
  unfold Strand.setX; split <;> rfl
@[simp] theorem Strand.setX_vq (t : Strand) (r : Reg) (v : Word) : (t.setX r v).vq = t.vq := by
  unfold Strand.setX; split <;> rfl
@[simp] theorem Strand.setX_mq (t : Strand) (r : Reg) (v : Word) : (t.setX r v).mq = t.mq := by
  unfold Strand.setX; split <;> rfl
@[simp] theorem Strand.setX_wcS (t : Strand) (r : Reg) (v : Word) : (t.setX r v).wcS = t.wcS := by
  unfold Strand.setX; split <;> rfl
@[simp] theorem Strand.setX_wcV (t : Strand) (r : Reg) (v : Word) : (t.setX r v).wcV = t.wcV := by
  unfold Strand.setX; split <;> rfl
@[simp] theorem Strand.setX_barK (t : Strand) (r : Reg) (v : Word) : (t.setX r v).barK = t.barK := by
  unfold Strand.setX; split <;> rfl
@[simp] theorem Strand.setX_barArrived (t : Strand) (r : Reg) (v : Word) : (t.setX r v).barArrived = t.barArrived := by
  unfold Strand.setX; split <;> rfl
@[simp] theorem Strand.setX_bookmark (t : Strand) (r : Reg) (v : Word) : (t.setX r v).bookmark = t.bookmark := by
  unfold Strand.setX; split <;> rfl
@[simp] theorem Strand.setX_mixN (t : Strand) (r : Reg) (v : Word) : (t.setX r v).mixN = t.mixN := by
  unfold Strand.setX; split <;> rfl
@[simp] theorem Strand.setX_mixV (t : Strand) (r : Reg) (v : Word) : (t.setX r v).mixV = t.mixV := by
  unfold Strand.setX; split <;> rfl
@[simp] theorem Strand.setX_kdPend (t : Strand) (r : Reg) (v : Word) : (t.setX r v).kdPend = t.kdPend := by
  unfold Strand.setX; split <;> rfl
@[simp] theorem Strand.setX_popped (t : Strand) (r : Reg) (v : Word) : (t.setX r v).popped = t.popped := by
  unfold Strand.setX; split <;> rfl
@[simp] theorem Strand.setX_trimAt (t : Strand) (r : Reg) (v : Word) : (t.setX r v).trimAt = t.trimAt := by
  unfold Strand.setX; split <;> rfl
@[simp] theorem Strand.setX_only (t : Strand) (r : Reg) (v : Word) : (t.setX r v).only = t.only := by
  unfold Strand.setX; split <;> rfl
@[simp] theorem Strand.setX_resL2 (t : Strand) (r : Reg) (v : Word) : (t.setX r v).resL2 = t.resL2 := by
  unfold Strand.setX; split <;> rfl
@[simp] theorem Strand.setX_replaying (t : Strand) (r : Reg) (v : Word) : (t.setX r v).replaying = t.replaying := by
  unfold Strand.setX; split <;> rfl
@[simp] theorem Strand.setX_asked (t : Strand) (r : Reg) (v : Word) : (t.setX r v).asked = t.asked := by
  unfold Strand.setX; split <;> rfl
@[simp] theorem Strand.setX_savedAt (t : Strand) (r : Reg) (v : Word) : (t.setX r v).savedAt = t.savedAt := by
  unfold Strand.setX; split <;> rfl

@[simp] theorem Strand.putX_uid (t : Strand) (r : Reg) (v : Word) : (t.putX r v).uid = t.uid := by
  unfold Strand.putX; split
  · exact Strand.setX_uid t r v
  · split <;> rfl
@[simp] theorem Strand.putX_system (t : Strand) (r : Reg) (v : Word) : (t.putX r v).system = t.system := by
  unfold Strand.putX; split
  · exact Strand.setX_system t r v
  · split <;> rfl
@[simp] theorem Strand.putX_lid (t : Strand) (r : Reg) (v : Word) : (t.putX r v).lid = t.lid := by
  unfold Strand.putX; split
  · exact Strand.setX_lid t r v
  · split <;> rfl
@[simp] theorem Strand.putX_ctx (t : Strand) (r : Reg) (v : Word) : (t.putX r v).ctx = t.ctx := by
  unfold Strand.putX; split
  · exact Strand.setX_ctx t r v
  · split <;> rfl
@[simp] theorem Strand.putX_gx (t : Strand) (r : Reg) (v : Word) : (t.putX r v).gx = t.gx := by
  unfold Strand.putX; split
  · exact Strand.setX_gx t r v
  · split <;> rfl
@[simp] theorem Strand.putX_gy (t : Strand) (r : Reg) (v : Word) : (t.putX r v).gy = t.gy := by
  unfold Strand.putX; split
  · exact Strand.setX_gy t r v
  · split <;> rfl
@[simp] theorem Strand.putX_gz (t : Strand) (r : Reg) (v : Word) : (t.putX r v).gz = t.gz := by
  unfold Strand.putX; split
  · exact Strand.setX_gz t r v
  · split <;> rfl
@[simp] theorem Strand.putX_glin (t : Strand) (r : Reg) (v : Word) : (t.putX r v).glin = t.glin := by
  unfold Strand.putX; split
  · exact Strand.setX_glin t r v
  · split <;> rfl
@[simp] theorem Strand.putX_stage (t : Strand) (r : Reg) (v : Word) : (t.putX r v).stage = t.stage := by
  unfold Strand.putX; split
  · exact Strand.setX_stage t r v
  · split <;> rfl
@[simp] theorem Strand.putX_six (t : Strand) (r : Reg) (v : Word) : (t.putX r v).six = t.six := by
  unfold Strand.putX; split
  · exact Strand.setX_six t r v
  · split <;> rfl
@[simp] theorem Strand.putX_core (t : Strand) (r : Reg) (v : Word) : (t.putX r v).core = t.core := by
  unfold Strand.putX; split
  · exact Strand.setX_core t r v
  · split <;> rfl
@[simp] theorem Strand.putX_slot (t : Strand) (r : Reg) (v : Word) : (t.putX r v).slot = t.slot := by
  unfold Strand.putX; split
  · exact Strand.setX_slot t r v
  · split <;> rfl
@[simp] theorem Strand.putX_status (t : Strand) (r : Reg) (v : Word) : (t.putX r v).status = t.status := by
  unfold Strand.putX; split
  · exact Strand.setX_status t r v
  · split <;> rfl
@[simp] theorem Strand.putX_mode (t : Strand) (r : Reg) (v : Word) : (t.putX r v).mode = t.mode := by
  unfold Strand.putX; split
  · exact Strand.setX_mode t r v
  · split <;> rfl
@[simp] theorem Strand.putX_pc (t : Strand) (r : Reg) (v : Word) : (t.putX r v).pc = t.pc := by
  unfold Strand.putX; split
  · exact Strand.setX_pc t r v
  · split <;> rfl
@[simp] theorem Strand.putX_f (t : Strand) (r : Reg) (v : Word) : (t.putX r v).f = t.f := by
  unfold Strand.putX; split
  · exact Strand.setX_f t r v
  · split <;> rfl
@[simp] theorem Strand.putX_frm (t : Strand) (r : Reg) (v : Word) : (t.putX r v).frm = t.frm := by
  unfold Strand.putX; split
  · exact Strand.setX_frm t r v
  · split <;> rfl
@[simp] theorem Strand.putX_fflags (t : Strand) (r : Reg) (v : Word) : (t.putX r v).fflags = t.fflags := by
  unfold Strand.putX; split
  · exact Strand.setX_fflags t r v
  · split <;> rfl
@[simp] theorem Strand.putX_v (t : Strand) (r : Reg) (v : Word) : (t.putX r v).v = t.v := by
  unfold Strand.putX; split
  · exact Strand.setX_v t r v
  · split <;> rfl
@[simp] theorem Strand.putX_k (t : Strand) (r : Reg) (v : Word) : (t.putX r v).k = t.k := by
  unfold Strand.putX; split
  · exact Strand.setX_k t r v
  · split <;> rfl
@[simp] theorem Strand.putX_vl (t : Strand) (r : Reg) (v : Word) : (t.putX r v).vl = t.vl := by
  unfold Strand.putX; split
  · exact Strand.setX_vl t r v
  · split <;> rfl
@[simp] theorem Strand.putX_vtype (t : Strand) (r : Reg) (v : Word) : (t.putX r v).vtype = t.vtype := by
  unfold Strand.putX; split
  · exact Strand.setX_vtype t r v
  · split <;> rfl
@[simp] theorem Strand.putX_g (t : Strand) (r : Reg) (v : Word) : (t.putX r v).g = t.g := by
  unfold Strand.putX; split
  · exact Strand.setX_g t r v
  · split <;> rfl
@[simp] theorem Strand.putX_nr (t : Strand) (r : Reg) (v : Word) : (t.putX r v).nr = t.nr := by
  unfold Strand.putX; split
  · exact Strand.setX_nr t r v
  · split <;> rfl
@[simp] theorem Strand.putX_short (t : Strand) (r : Reg) (v : Word) : (t.putX r v).short = t.short := by
  unfold Strand.putX; split
  · exact Strand.setX_short t r v
  · split <;> rfl
@[simp] theorem Strand.putX_vstart (t : Strand) (r : Reg) (v : Word) : (t.putX r v).vstart = t.vstart := by
  unfold Strand.putX; split
  · exact Strand.setX_vstart t r v
  · split <;> rfl
@[simp] theorem Strand.putX_vrnd (t : Strand) (r : Reg) (v : Word) : (t.putX r v).vrnd = t.vrnd := by
  unfold Strand.putX; split
  · exact Strand.setX_vrnd t r v
  · split <;> rfl
@[simp] theorem Strand.putX_vflags (t : Strand) (r : Reg) (v : Word) : (t.putX r v).vflags = t.vflags := by
  unfold Strand.putX; split
  · exact Strand.setX_vflags t r v
  · split <;> rfl
@[simp] theorem Strand.putX_vdirty (t : Strand) (r : Reg) (v : Word) : (t.putX r v).vdirty = t.vdirty := by
  unfold Strand.putX; split
  · exact Strand.setX_vdirty t r v
  · split <;> rfl
@[simp] theorem Strand.putX_kthr (t : Strand) (r : Reg) (v : Word) : (t.putX r v).kthr = t.kthr := by
  unfold Strand.putX; split
  · exact Strand.setX_kthr t r v
  · split <;> rfl
@[simp] theorem Strand.putX_lstage (t : Strand) (r : Reg) (v : Word) : (t.putX r v).lstage = t.lstage := by
  unfold Strand.putX; split
  · exact Strand.setX_lstage t r v
  · split <;> rfl
@[simp] theorem Strand.putX_lanes0 (t : Strand) (r : Reg) (v : Word) : (t.putX r v).lanes0 = t.lanes0 := by
  unfold Strand.putX; split
  · exact Strand.setX_lanes0 t r v
  · split <;> rfl
@[simp] theorem Strand.putX_q (t : Strand) (r : Reg) (v : Word) : (t.putX r v).q = t.q := by
  unfold Strand.putX; split
  · exact Strand.setX_q t r v
  · split <;> rfl
@[simp] theorem Strand.putX_inbox (t : Strand) (r : Reg) (v : Word) : (t.putX r v).inbox = t.inbox := by
  unfold Strand.putX; split
  · exact Strand.setX_inbox t r v
  · split <;> rfl
@[simp] theorem Strand.putX_latch (t : Strand) (r : Reg) (v : Word) : (t.putX r v).latch = t.latch := by
  unfold Strand.putX; split
  · exact Strand.setX_latch t r v
  · split <;> rfl
@[simp] theorem Strand.putX_slip (t : Strand) (r : Reg) (v : Word) : (t.putX r v).slip = t.slip := by
  unfold Strand.putX; split
  · exact Strand.setX_slip t r v
  · split <;> rfl
@[simp] theorem Strand.putX_posted (t : Strand) (r : Reg) (v : Word) : (t.putX r v).posted = t.posted := by
  unfold Strand.putX; split
  · exact Strand.setX_posted t r v
  · split <;> rfl
@[simp] theorem Strand.putX_astat (t : Strand) (r : Reg) (v : Word) : (t.putX r v).astat = t.astat := by
  unfold Strand.putX; split
  · exact Strand.setX_astat t r v
  · split <;> rfl
@[simp] theorem Strand.putX_tiles (t : Strand) (r : Reg) (v : Word) : (t.putX r v).tiles = t.tiles := by
  unfold Strand.putX; split
  · exact Strand.setX_tiles t r v
  · split <;> rfl
@[simp] theorem Strand.putX_accRows (t : Strand) (r : Reg) (v : Word) : (t.putX r v).accRows = t.accRows := by
  unfold Strand.putX; split
  · exact Strand.setX_accRows t r v
  · split <;> rfl
@[simp] theorem Strand.putX_acc (t : Strand) (r : Reg) (v : Word) : (t.putX r v).acc = t.acc := by
  unfold Strand.putX; split
  · exact Strand.setX_acc t r v
  · split <;> rfl
@[simp] theorem Strand.putX_actBytes (t : Strand) (r : Reg) (v : Word) : (t.putX r v).actBytes = t.actBytes := by
  unfold Strand.putX; split
  · exact Strand.setX_actBytes t r v
  · split <;> rfl
@[simp] theorem Strand.putX_act (t : Strand) (r : Reg) (v : Word) : (t.putX r v).act = t.act := by
  unfold Strand.putX; split
  · exact Strand.setX_act t r v
  · split <;> rfl
@[simp] theorem Strand.putX_scratchBytes (t : Strand) (r : Reg) (v : Word) : (t.putX r v).scratchBytes = t.scratchBytes := by
  unfold Strand.putX; split
  · exact Strand.setX_scratchBytes t r v
  · split <;> rfl
@[simp] theorem Strand.putX_scratch (t : Strand) (r : Reg) (v : Word) : (t.putX r v).scratch = t.scratch := by
  unfold Strand.putX; split
  · exact Strand.setX_scratch t r v
  · split <;> rfl
@[simp] theorem Strand.putX_stack (t : Strand) (r : Reg) (v : Word) : (t.putX r v).stack = t.stack := by
  unfold Strand.putX; split
  · exact Strand.setX_stack t r v
  · split <;> rfl
@[simp] theorem Strand.putX_migcnt (t : Strand) (r : Reg) (v : Word) : (t.putX r v).migcnt = t.migcnt := by
  unfold Strand.putX; split
  · exact Strand.setX_migcnt t r v
  · split <;> rfl
@[simp] theorem Strand.putX_res (t : Strand) (r : Reg) (v : Word) : (t.putX r v).res = t.res := by
  unfold Strand.putX; split
  · exact Strand.setX_res t r v
  · split <;> rfl
@[simp] theorem Strand.putX_lrRes (t : Strand) (r : Reg) (v : Word) : (t.putX r v).lrRes = t.lrRes := by
  unfold Strand.putX; split
  · exact Strand.setX_lrRes t r v
  · split <;> rfl
@[simp] theorem Strand.putX_pend (t : Strand) (r : Reg) (v : Word) : (t.putX r v).pend = t.pend := by
  unfold Strand.putX; split
  · exact Strand.setX_pend t r v
  · split <;> rfl
@[simp] theorem Strand.putX_replyQ (t : Strand) (r : Reg) (v : Word) : (t.putX r v).replyQ = t.replyQ := by
  unfold Strand.putX; split
  · exact Strand.setX_replyQ t r v
  · split <;> rfl
@[simp] theorem Strand.putX_vq (t : Strand) (r : Reg) (v : Word) : (t.putX r v).vq = t.vq := by
  unfold Strand.putX; split
  · exact Strand.setX_vq t r v
  · split <;> rfl
@[simp] theorem Strand.putX_mq (t : Strand) (r : Reg) (v : Word) : (t.putX r v).mq = t.mq := by
  unfold Strand.putX; split
  · exact Strand.setX_mq t r v
  · split <;> rfl
@[simp] theorem Strand.putX_wcS (t : Strand) (r : Reg) (v : Word) : (t.putX r v).wcS = t.wcS := by
  unfold Strand.putX; split
  · exact Strand.setX_wcS t r v
  · split <;> rfl
@[simp] theorem Strand.putX_wcV (t : Strand) (r : Reg) (v : Word) : (t.putX r v).wcV = t.wcV := by
  unfold Strand.putX; split
  · exact Strand.setX_wcV t r v
  · split <;> rfl
@[simp] theorem Strand.putX_barK (t : Strand) (r : Reg) (v : Word) : (t.putX r v).barK = t.barK := by
  unfold Strand.putX; split
  · exact Strand.setX_barK t r v
  · split <;> rfl
@[simp] theorem Strand.putX_barArrived (t : Strand) (r : Reg) (v : Word) : (t.putX r v).barArrived = t.barArrived := by
  unfold Strand.putX; split
  · exact Strand.setX_barArrived t r v
  · split <;> rfl
@[simp] theorem Strand.putX_bookmark (t : Strand) (r : Reg) (v : Word) : (t.putX r v).bookmark = t.bookmark := by
  unfold Strand.putX; split
  · exact Strand.setX_bookmark t r v
  · split <;> rfl
@[simp] theorem Strand.putX_mixN (t : Strand) (r : Reg) (v : Word) : (t.putX r v).mixN = t.mixN := by
  unfold Strand.putX; split
  · exact Strand.setX_mixN t r v
  · split <;> rfl
@[simp] theorem Strand.putX_mixV (t : Strand) (r : Reg) (v : Word) : (t.putX r v).mixV = t.mixV := by
  unfold Strand.putX; split
  · exact Strand.setX_mixV t r v
  · split <;> rfl
@[simp] theorem Strand.putX_kdPend (t : Strand) (r : Reg) (v : Word) : (t.putX r v).kdPend = t.kdPend := by
  unfold Strand.putX; split
  · exact Strand.setX_kdPend t r v
  · split <;> rfl
@[simp] theorem Strand.putX_popped (t : Strand) (r : Reg) (v : Word) : (t.putX r v).popped = t.popped := by
  unfold Strand.putX; split
  · exact Strand.setX_popped t r v
  · split <;> rfl
@[simp] theorem Strand.putX_trimAt (t : Strand) (r : Reg) (v : Word) : (t.putX r v).trimAt = t.trimAt := by
  unfold Strand.putX; split
  · exact Strand.setX_trimAt t r v
  · split <;> rfl
@[simp] theorem Strand.putX_only (t : Strand) (r : Reg) (v : Word) : (t.putX r v).only = t.only := by
  unfold Strand.putX; split
  · exact Strand.setX_only t r v
  · split <;> rfl
@[simp] theorem Strand.putX_resL2 (t : Strand) (r : Reg) (v : Word) : (t.putX r v).resL2 = t.resL2 := by
  unfold Strand.putX; split
  · exact Strand.setX_resL2 t r v
  · split <;> rfl
@[simp] theorem Strand.putX_replaying (t : Strand) (r : Reg) (v : Word) : (t.putX r v).replaying = t.replaying := by
  unfold Strand.putX; split
  · exact Strand.setX_replaying t r v
  · split <;> rfl
@[simp] theorem Strand.putX_asked (t : Strand) (r : Reg) (v : Word) : (t.putX r v).asked = t.asked := by
  unfold Strand.putX; split
  · exact Strand.setX_asked t r v
  · split <;> rfl
@[simp] theorem Strand.putX_savedAt (t : Strand) (r : Reg) (v : Word) : (t.putX r v).savedAt = t.savedAt := by
  unfold Strand.putX; split
  · exact Strand.setX_savedAt t r v
  · split <;> rfl

@[simp] theorem Strand.putPc_uid (t : Strand) (a : Word) : (t.putPc a).uid = t.uid := by
  unfold Strand.putPc; split <;> rfl
@[simp] theorem Strand.putPc_system (t : Strand) (a : Word) : (t.putPc a).system = t.system := by
  unfold Strand.putPc; split <;> rfl
@[simp] theorem Strand.putPc_lid (t : Strand) (a : Word) : (t.putPc a).lid = t.lid := by
  unfold Strand.putPc; split <;> rfl
@[simp] theorem Strand.putPc_ctx (t : Strand) (a : Word) : (t.putPc a).ctx = t.ctx := by
  unfold Strand.putPc; split <;> rfl
@[simp] theorem Strand.putPc_gx (t : Strand) (a : Word) : (t.putPc a).gx = t.gx := by
  unfold Strand.putPc; split <;> rfl
@[simp] theorem Strand.putPc_gy (t : Strand) (a : Word) : (t.putPc a).gy = t.gy := by
  unfold Strand.putPc; split <;> rfl
@[simp] theorem Strand.putPc_gz (t : Strand) (a : Word) : (t.putPc a).gz = t.gz := by
  unfold Strand.putPc; split <;> rfl
@[simp] theorem Strand.putPc_glin (t : Strand) (a : Word) : (t.putPc a).glin = t.glin := by
  unfold Strand.putPc; split <;> rfl
@[simp] theorem Strand.putPc_stage (t : Strand) (a : Word) : (t.putPc a).stage = t.stage := by
  unfold Strand.putPc; split <;> rfl
@[simp] theorem Strand.putPc_six (t : Strand) (a : Word) : (t.putPc a).six = t.six := by
  unfold Strand.putPc; split <;> rfl
@[simp] theorem Strand.putPc_core (t : Strand) (a : Word) : (t.putPc a).core = t.core := by
  unfold Strand.putPc; split <;> rfl
@[simp] theorem Strand.putPc_slot (t : Strand) (a : Word) : (t.putPc a).slot = t.slot := by
  unfold Strand.putPc; split <;> rfl
@[simp] theorem Strand.putPc_status (t : Strand) (a : Word) : (t.putPc a).status = t.status := by
  unfold Strand.putPc; split <;> rfl
@[simp] theorem Strand.putPc_mode (t : Strand) (a : Word) : (t.putPc a).mode = t.mode := by
  unfold Strand.putPc; split <;> rfl
@[simp] theorem Strand.putPc_x (t : Strand) (a : Word) : (t.putPc a).x = t.x := by
  unfold Strand.putPc; split <;> rfl
@[simp] theorem Strand.putPc_f (t : Strand) (a : Word) : (t.putPc a).f = t.f := by
  unfold Strand.putPc; split <;> rfl
@[simp] theorem Strand.putPc_frm (t : Strand) (a : Word) : (t.putPc a).frm = t.frm := by
  unfold Strand.putPc; split <;> rfl
@[simp] theorem Strand.putPc_fflags (t : Strand) (a : Word) : (t.putPc a).fflags = t.fflags := by
  unfold Strand.putPc; split <;> rfl
@[simp] theorem Strand.putPc_v (t : Strand) (a : Word) : (t.putPc a).v = t.v := by
  unfold Strand.putPc; split <;> rfl
@[simp] theorem Strand.putPc_k (t : Strand) (a : Word) : (t.putPc a).k = t.k := by
  unfold Strand.putPc; split <;> rfl
@[simp] theorem Strand.putPc_vl (t : Strand) (a : Word) : (t.putPc a).vl = t.vl := by
  unfold Strand.putPc; split <;> rfl
@[simp] theorem Strand.putPc_vtype (t : Strand) (a : Word) : (t.putPc a).vtype = t.vtype := by
  unfold Strand.putPc; split <;> rfl
@[simp] theorem Strand.putPc_g (t : Strand) (a : Word) : (t.putPc a).g = t.g := by
  unfold Strand.putPc; split <;> rfl
@[simp] theorem Strand.putPc_nr (t : Strand) (a : Word) : (t.putPc a).nr = t.nr := by
  unfold Strand.putPc; split <;> rfl
@[simp] theorem Strand.putPc_short (t : Strand) (a : Word) : (t.putPc a).short = t.short := by
  unfold Strand.putPc; split <;> rfl
@[simp] theorem Strand.putPc_vstart (t : Strand) (a : Word) : (t.putPc a).vstart = t.vstart := by
  unfold Strand.putPc; split <;> rfl
@[simp] theorem Strand.putPc_vrnd (t : Strand) (a : Word) : (t.putPc a).vrnd = t.vrnd := by
  unfold Strand.putPc; split <;> rfl
@[simp] theorem Strand.putPc_vflags (t : Strand) (a : Word) : (t.putPc a).vflags = t.vflags := by
  unfold Strand.putPc; split <;> rfl
@[simp] theorem Strand.putPc_vdirty (t : Strand) (a : Word) : (t.putPc a).vdirty = t.vdirty := by
  unfold Strand.putPc; split <;> rfl
@[simp] theorem Strand.putPc_kthr (t : Strand) (a : Word) : (t.putPc a).kthr = t.kthr := by
  unfold Strand.putPc; split <;> rfl
@[simp] theorem Strand.putPc_lstage (t : Strand) (a : Word) : (t.putPc a).lstage = t.lstage := by
  unfold Strand.putPc; split <;> rfl
@[simp] theorem Strand.putPc_lanes0 (t : Strand) (a : Word) : (t.putPc a).lanes0 = t.lanes0 := by
  unfold Strand.putPc; split <;> rfl
@[simp] theorem Strand.putPc_q (t : Strand) (a : Word) : (t.putPc a).q = t.q := by
  unfold Strand.putPc; split <;> rfl
@[simp] theorem Strand.putPc_inbox (t : Strand) (a : Word) : (t.putPc a).inbox = t.inbox := by
  unfold Strand.putPc; split <;> rfl
@[simp] theorem Strand.putPc_latch (t : Strand) (a : Word) : (t.putPc a).latch = t.latch := by
  unfold Strand.putPc; split <;> rfl
@[simp] theorem Strand.putPc_slip (t : Strand) (a : Word) : (t.putPc a).slip = t.slip := by
  unfold Strand.putPc; split <;> rfl
@[simp] theorem Strand.putPc_posted (t : Strand) (a : Word) : (t.putPc a).posted = t.posted := by
  unfold Strand.putPc; split <;> rfl
@[simp] theorem Strand.putPc_astat (t : Strand) (a : Word) : (t.putPc a).astat = t.astat := by
  unfold Strand.putPc; split <;> rfl
@[simp] theorem Strand.putPc_tiles (t : Strand) (a : Word) : (t.putPc a).tiles = t.tiles := by
  unfold Strand.putPc; split <;> rfl
@[simp] theorem Strand.putPc_accRows (t : Strand) (a : Word) : (t.putPc a).accRows = t.accRows := by
  unfold Strand.putPc; split <;> rfl
@[simp] theorem Strand.putPc_acc (t : Strand) (a : Word) : (t.putPc a).acc = t.acc := by
  unfold Strand.putPc; split <;> rfl
@[simp] theorem Strand.putPc_actBytes (t : Strand) (a : Word) : (t.putPc a).actBytes = t.actBytes := by
  unfold Strand.putPc; split <;> rfl
@[simp] theorem Strand.putPc_act (t : Strand) (a : Word) : (t.putPc a).act = t.act := by
  unfold Strand.putPc; split <;> rfl
@[simp] theorem Strand.putPc_scratchBytes (t : Strand) (a : Word) : (t.putPc a).scratchBytes = t.scratchBytes := by
  unfold Strand.putPc; split <;> rfl
@[simp] theorem Strand.putPc_scratch (t : Strand) (a : Word) : (t.putPc a).scratch = t.scratch := by
  unfold Strand.putPc; split <;> rfl
@[simp] theorem Strand.putPc_stack (t : Strand) (a : Word) : (t.putPc a).stack = t.stack := by
  unfold Strand.putPc; split <;> rfl
@[simp] theorem Strand.putPc_migcnt (t : Strand) (a : Word) : (t.putPc a).migcnt = t.migcnt := by
  unfold Strand.putPc; split <;> rfl
@[simp] theorem Strand.putPc_res (t : Strand) (a : Word) : (t.putPc a).res = t.res := by
  unfold Strand.putPc; split <;> rfl
@[simp] theorem Strand.putPc_lrRes (t : Strand) (a : Word) : (t.putPc a).lrRes = t.lrRes := by
  unfold Strand.putPc; split <;> rfl
@[simp] theorem Strand.putPc_pend (t : Strand) (a : Word) : (t.putPc a).pend = t.pend := by
  unfold Strand.putPc; split <;> rfl
@[simp] theorem Strand.putPc_replyQ (t : Strand) (a : Word) : (t.putPc a).replyQ = t.replyQ := by
  unfold Strand.putPc; split <;> rfl
@[simp] theorem Strand.putPc_vq (t : Strand) (a : Word) : (t.putPc a).vq = t.vq := by
  unfold Strand.putPc; split <;> rfl
@[simp] theorem Strand.putPc_mq (t : Strand) (a : Word) : (t.putPc a).mq = t.mq := by
  unfold Strand.putPc; split <;> rfl
@[simp] theorem Strand.putPc_wcS (t : Strand) (a : Word) : (t.putPc a).wcS = t.wcS := by
  unfold Strand.putPc; split <;> rfl
@[simp] theorem Strand.putPc_wcV (t : Strand) (a : Word) : (t.putPc a).wcV = t.wcV := by
  unfold Strand.putPc; split <;> rfl
@[simp] theorem Strand.putPc_barK (t : Strand) (a : Word) : (t.putPc a).barK = t.barK := by
  unfold Strand.putPc; split <;> rfl
@[simp] theorem Strand.putPc_barArrived (t : Strand) (a : Word) : (t.putPc a).barArrived = t.barArrived := by
  unfold Strand.putPc; split <;> rfl
@[simp] theorem Strand.putPc_bookmark (t : Strand) (a : Word) : (t.putPc a).bookmark = t.bookmark := by
  unfold Strand.putPc; split <;> rfl
@[simp] theorem Strand.putPc_mixN (t : Strand) (a : Word) : (t.putPc a).mixN = t.mixN := by
  unfold Strand.putPc; split <;> rfl
@[simp] theorem Strand.putPc_mixV (t : Strand) (a : Word) : (t.putPc a).mixV = t.mixV := by
  unfold Strand.putPc; split <;> rfl
@[simp] theorem Strand.putPc_kdPend (t : Strand) (a : Word) : (t.putPc a).kdPend = t.kdPend := by
  unfold Strand.putPc; split <;> rfl
@[simp] theorem Strand.putPc_popped (t : Strand) (a : Word) : (t.putPc a).popped = t.popped := by
  unfold Strand.putPc; split <;> rfl
@[simp] theorem Strand.putPc_trimAt (t : Strand) (a : Word) : (t.putPc a).trimAt = t.trimAt := by
  unfold Strand.putPc; split <;> rfl
@[simp] theorem Strand.putPc_only (t : Strand) (a : Word) : (t.putPc a).only = t.only := by
  unfold Strand.putPc; split <;> rfl
@[simp] theorem Strand.putPc_resL2 (t : Strand) (a : Word) : (t.putPc a).resL2 = t.resL2 := by
  unfold Strand.putPc; split <;> rfl
@[simp] theorem Strand.putPc_replaying (t : Strand) (a : Word) : (t.putPc a).replaying = t.replaying := by
  unfold Strand.putPc; split <;> rfl
@[simp] theorem Strand.putPc_asked (t : Strand) (a : Word) : (t.putPc a).asked = t.asked := by
  unfold Strand.putPc; split <;> rfl
@[simp] theorem Strand.putPc_savedAt (t : Strand) (a : Word) : (t.putPc a).savedAt = t.savedAt := by
  unfold Strand.putPc; split <;> rfl

@[simp] theorem Strand.adv_uid (t : Strand) (n : Nat) : (t.adv n).uid = t.uid := Strand.putPc_uid t _
@[simp] theorem Strand.adv_system (t : Strand) (n : Nat) : (t.adv n).system = t.system := Strand.putPc_system t _
@[simp] theorem Strand.adv_lid (t : Strand) (n : Nat) : (t.adv n).lid = t.lid := Strand.putPc_lid t _
@[simp] theorem Strand.adv_ctx (t : Strand) (n : Nat) : (t.adv n).ctx = t.ctx := Strand.putPc_ctx t _
@[simp] theorem Strand.adv_gx (t : Strand) (n : Nat) : (t.adv n).gx = t.gx := Strand.putPc_gx t _
@[simp] theorem Strand.adv_gy (t : Strand) (n : Nat) : (t.adv n).gy = t.gy := Strand.putPc_gy t _
@[simp] theorem Strand.adv_gz (t : Strand) (n : Nat) : (t.adv n).gz = t.gz := Strand.putPc_gz t _
@[simp] theorem Strand.adv_glin (t : Strand) (n : Nat) : (t.adv n).glin = t.glin := Strand.putPc_glin t _
@[simp] theorem Strand.adv_stage (t : Strand) (n : Nat) : (t.adv n).stage = t.stage := Strand.putPc_stage t _
@[simp] theorem Strand.adv_six (t : Strand) (n : Nat) : (t.adv n).six = t.six := Strand.putPc_six t _
@[simp] theorem Strand.adv_core (t : Strand) (n : Nat) : (t.adv n).core = t.core := Strand.putPc_core t _
@[simp] theorem Strand.adv_slot (t : Strand) (n : Nat) : (t.adv n).slot = t.slot := Strand.putPc_slot t _
@[simp] theorem Strand.adv_status (t : Strand) (n : Nat) : (t.adv n).status = t.status := Strand.putPc_status t _
@[simp] theorem Strand.adv_mode (t : Strand) (n : Nat) : (t.adv n).mode = t.mode := Strand.putPc_mode t _
@[simp] theorem Strand.adv_x (t : Strand) (n : Nat) : (t.adv n).x = t.x := Strand.putPc_x t _
@[simp] theorem Strand.adv_f (t : Strand) (n : Nat) : (t.adv n).f = t.f := Strand.putPc_f t _
@[simp] theorem Strand.adv_frm (t : Strand) (n : Nat) : (t.adv n).frm = t.frm := Strand.putPc_frm t _
@[simp] theorem Strand.adv_fflags (t : Strand) (n : Nat) : (t.adv n).fflags = t.fflags := Strand.putPc_fflags t _
@[simp] theorem Strand.adv_v (t : Strand) (n : Nat) : (t.adv n).v = t.v := Strand.putPc_v t _
@[simp] theorem Strand.adv_k (t : Strand) (n : Nat) : (t.adv n).k = t.k := Strand.putPc_k t _
@[simp] theorem Strand.adv_vl (t : Strand) (n : Nat) : (t.adv n).vl = t.vl := Strand.putPc_vl t _
@[simp] theorem Strand.adv_vtype (t : Strand) (n : Nat) : (t.adv n).vtype = t.vtype := Strand.putPc_vtype t _
@[simp] theorem Strand.adv_g (t : Strand) (n : Nat) : (t.adv n).g = t.g := Strand.putPc_g t _
@[simp] theorem Strand.adv_nr (t : Strand) (n : Nat) : (t.adv n).nr = t.nr := Strand.putPc_nr t _
@[simp] theorem Strand.adv_short (t : Strand) (n : Nat) : (t.adv n).short = t.short := Strand.putPc_short t _
@[simp] theorem Strand.adv_vstart (t : Strand) (n : Nat) : (t.adv n).vstart = t.vstart := Strand.putPc_vstart t _
@[simp] theorem Strand.adv_vrnd (t : Strand) (n : Nat) : (t.adv n).vrnd = t.vrnd := Strand.putPc_vrnd t _
@[simp] theorem Strand.adv_vflags (t : Strand) (n : Nat) : (t.adv n).vflags = t.vflags := Strand.putPc_vflags t _
@[simp] theorem Strand.adv_vdirty (t : Strand) (n : Nat) : (t.adv n).vdirty = t.vdirty := Strand.putPc_vdirty t _
@[simp] theorem Strand.adv_kthr (t : Strand) (n : Nat) : (t.adv n).kthr = t.kthr := Strand.putPc_kthr t _
@[simp] theorem Strand.adv_lstage (t : Strand) (n : Nat) : (t.adv n).lstage = t.lstage := Strand.putPc_lstage t _
@[simp] theorem Strand.adv_lanes0 (t : Strand) (n : Nat) : (t.adv n).lanes0 = t.lanes0 := Strand.putPc_lanes0 t _
@[simp] theorem Strand.adv_q (t : Strand) (n : Nat) : (t.adv n).q = t.q := Strand.putPc_q t _
@[simp] theorem Strand.adv_inbox (t : Strand) (n : Nat) : (t.adv n).inbox = t.inbox := Strand.putPc_inbox t _
@[simp] theorem Strand.adv_latch (t : Strand) (n : Nat) : (t.adv n).latch = t.latch := Strand.putPc_latch t _
@[simp] theorem Strand.adv_slip (t : Strand) (n : Nat) : (t.adv n).slip = t.slip := Strand.putPc_slip t _
@[simp] theorem Strand.adv_posted (t : Strand) (n : Nat) : (t.adv n).posted = t.posted := Strand.putPc_posted t _
@[simp] theorem Strand.adv_astat (t : Strand) (n : Nat) : (t.adv n).astat = t.astat := Strand.putPc_astat t _
@[simp] theorem Strand.adv_tiles (t : Strand) (n : Nat) : (t.adv n).tiles = t.tiles := Strand.putPc_tiles t _
@[simp] theorem Strand.adv_accRows (t : Strand) (n : Nat) : (t.adv n).accRows = t.accRows := Strand.putPc_accRows t _
@[simp] theorem Strand.adv_acc (t : Strand) (n : Nat) : (t.adv n).acc = t.acc := Strand.putPc_acc t _
@[simp] theorem Strand.adv_actBytes (t : Strand) (n : Nat) :
    (t.adv n).actBytes = t.actBytes := Strand.putPc_actBytes t _
@[simp] theorem Strand.adv_act (t : Strand) (n : Nat) : (t.adv n).act = t.act := Strand.putPc_act t _
@[simp] theorem Strand.adv_scratchBytes (t : Strand) (n : Nat) :
    (t.adv n).scratchBytes = t.scratchBytes := Strand.putPc_scratchBytes t _
@[simp] theorem Strand.adv_scratch (t : Strand) (n : Nat) : (t.adv n).scratch = t.scratch := Strand.putPc_scratch t _
@[simp] theorem Strand.adv_stack (t : Strand) (n : Nat) : (t.adv n).stack = t.stack := Strand.putPc_stack t _
@[simp] theorem Strand.adv_migcnt (t : Strand) (n : Nat) : (t.adv n).migcnt = t.migcnt := Strand.putPc_migcnt t _
@[simp] theorem Strand.adv_res (t : Strand) (n : Nat) : (t.adv n).res = t.res := Strand.putPc_res t _
@[simp] theorem Strand.adv_lrRes (t : Strand) (n : Nat) : (t.adv n).lrRes = t.lrRes := Strand.putPc_lrRes t _
@[simp] theorem Strand.adv_pend (t : Strand) (n : Nat) : (t.adv n).pend = t.pend := Strand.putPc_pend t _
@[simp] theorem Strand.adv_replyQ (t : Strand) (n : Nat) : (t.adv n).replyQ = t.replyQ := Strand.putPc_replyQ t _
@[simp] theorem Strand.adv_vq (t : Strand) (n : Nat) : (t.adv n).vq = t.vq := Strand.putPc_vq t _
@[simp] theorem Strand.adv_mq (t : Strand) (n : Nat) : (t.adv n).mq = t.mq := Strand.putPc_mq t _
@[simp] theorem Strand.adv_wcS (t : Strand) (n : Nat) : (t.adv n).wcS = t.wcS := Strand.putPc_wcS t _
@[simp] theorem Strand.adv_wcV (t : Strand) (n : Nat) : (t.adv n).wcV = t.wcV := Strand.putPc_wcV t _
@[simp] theorem Strand.adv_barK (t : Strand) (n : Nat) : (t.adv n).barK = t.barK := Strand.putPc_barK t _
@[simp] theorem Strand.adv_barArrived (t : Strand) (n : Nat) :
    (t.adv n).barArrived = t.barArrived := Strand.putPc_barArrived t _
@[simp] theorem Strand.adv_bookmark (t : Strand) (n : Nat) :
    (t.adv n).bookmark = t.bookmark := Strand.putPc_bookmark t _
@[simp] theorem Strand.adv_mixN (t : Strand) (n : Nat) : (t.adv n).mixN = t.mixN := Strand.putPc_mixN t _
@[simp] theorem Strand.adv_mixV (t : Strand) (n : Nat) : (t.adv n).mixV = t.mixV := Strand.putPc_mixV t _
@[simp] theorem Strand.adv_kdPend (t : Strand) (n : Nat) : (t.adv n).kdPend = t.kdPend := Strand.putPc_kdPend t _
@[simp] theorem Strand.adv_popped (t : Strand) (n : Nat) : (t.adv n).popped = t.popped := Strand.putPc_popped t _
@[simp] theorem Strand.adv_trimAt (t : Strand) (n : Nat) : (t.adv n).trimAt = t.trimAt := Strand.putPc_trimAt t _
@[simp] theorem Strand.adv_only (t : Strand) (n : Nat) : (t.adv n).only = t.only := Strand.putPc_only t _
@[simp] theorem Strand.adv_resL2 (t : Strand) (n : Nat) : (t.adv n).resL2 = t.resL2 := Strand.putPc_resL2 t _
@[simp] theorem Strand.adv_replaying (t : Strand) (n : Nat) :
    (t.adv n).replaying = t.replaying := Strand.putPc_replaying t _
@[simp] theorem Strand.adv_asked (t : Strand) (n : Nat) : (t.adv n).asked = t.asked := Strand.putPc_asked t _
@[simp] theorem Strand.adv_savedAt (t : Strand) (n : Nat) : (t.adv n).savedAt = t.savedAt := Strand.putPc_savedAt t _

@[simp] theorem Strand.mapElems_uid (t : Strand) (is : List Nat) (vd : Reg) (eb regs : Nat) (f : Nat → Nat × Nat) :
    (t.mapElems is vd eb regs f).uid = t.uid := rfl
@[simp] theorem Strand.mapElems_system (t : Strand) (is : List Nat) (vd : Reg) (eb regs : Nat) (f : Nat → Nat × Nat) :
    (t.mapElems is vd eb regs f).system = t.system := rfl
@[simp] theorem Strand.mapElems_lid (t : Strand) (is : List Nat) (vd : Reg) (eb regs : Nat) (f : Nat → Nat × Nat) :
    (t.mapElems is vd eb regs f).lid = t.lid := rfl
@[simp] theorem Strand.mapElems_ctx (t : Strand) (is : List Nat) (vd : Reg) (eb regs : Nat) (f : Nat → Nat × Nat) :
    (t.mapElems is vd eb regs f).ctx = t.ctx := rfl
@[simp] theorem Strand.mapElems_gx (t : Strand) (is : List Nat) (vd : Reg) (eb regs : Nat) (f : Nat → Nat × Nat) :
    (t.mapElems is vd eb regs f).gx = t.gx := rfl
@[simp] theorem Strand.mapElems_gy (t : Strand) (is : List Nat) (vd : Reg) (eb regs : Nat) (f : Nat → Nat × Nat) :
    (t.mapElems is vd eb regs f).gy = t.gy := rfl
@[simp] theorem Strand.mapElems_gz (t : Strand) (is : List Nat) (vd : Reg) (eb regs : Nat) (f : Nat → Nat × Nat) :
    (t.mapElems is vd eb regs f).gz = t.gz := rfl
@[simp] theorem Strand.mapElems_glin (t : Strand) (is : List Nat) (vd : Reg) (eb regs : Nat) (f : Nat → Nat × Nat) :
    (t.mapElems is vd eb regs f).glin = t.glin := rfl
@[simp] theorem Strand.mapElems_stage (t : Strand) (is : List Nat) (vd : Reg) (eb regs : Nat) (f : Nat → Nat × Nat) :
    (t.mapElems is vd eb regs f).stage = t.stage := rfl
@[simp] theorem Strand.mapElems_six (t : Strand) (is : List Nat) (vd : Reg) (eb regs : Nat) (f : Nat → Nat × Nat) :
    (t.mapElems is vd eb regs f).six = t.six := rfl
@[simp] theorem Strand.mapElems_core (t : Strand) (is : List Nat) (vd : Reg) (eb regs : Nat) (f : Nat → Nat × Nat) :
    (t.mapElems is vd eb regs f).core = t.core := rfl
@[simp] theorem Strand.mapElems_slot (t : Strand) (is : List Nat) (vd : Reg) (eb regs : Nat) (f : Nat → Nat × Nat) :
    (t.mapElems is vd eb regs f).slot = t.slot := rfl
@[simp] theorem Strand.mapElems_status (t : Strand) (is : List Nat) (vd : Reg) (eb regs : Nat) (f : Nat → Nat × Nat) :
    (t.mapElems is vd eb regs f).status = t.status := rfl
@[simp] theorem Strand.mapElems_mode (t : Strand) (is : List Nat) (vd : Reg) (eb regs : Nat) (f : Nat → Nat × Nat) :
    (t.mapElems is vd eb regs f).mode = t.mode := rfl
@[simp] theorem Strand.mapElems_pc (t : Strand) (is : List Nat) (vd : Reg) (eb regs : Nat) (f : Nat → Nat × Nat) :
    (t.mapElems is vd eb regs f).pc = t.pc := rfl
@[simp] theorem Strand.mapElems_x (t : Strand) (is : List Nat) (vd : Reg) (eb regs : Nat) (f : Nat → Nat × Nat) :
    (t.mapElems is vd eb regs f).x = t.x := rfl
@[simp] theorem Strand.mapElems_f (t : Strand) (is : List Nat) (vd : Reg) (eb regs : Nat) (f : Nat → Nat × Nat) :
    (t.mapElems is vd eb regs f).f = t.f := rfl
@[simp] theorem Strand.mapElems_frm (t : Strand) (is : List Nat) (vd : Reg) (eb regs : Nat) (f : Nat → Nat × Nat) :
    (t.mapElems is vd eb regs f).frm = t.frm := rfl
@[simp] theorem Strand.mapElems_fflags (t : Strand) (is : List Nat) (vd : Reg) (eb regs : Nat) (f : Nat → Nat × Nat) :
    (t.mapElems is vd eb regs f).fflags = t.fflags := rfl
@[simp] theorem Strand.mapElems_k (t : Strand) (is : List Nat) (vd : Reg) (eb regs : Nat) (f : Nat → Nat × Nat) :
    (t.mapElems is vd eb regs f).k = t.k := rfl
@[simp] theorem Strand.mapElems_vl (t : Strand) (is : List Nat) (vd : Reg) (eb regs : Nat) (f : Nat → Nat × Nat) :
    (t.mapElems is vd eb regs f).vl = t.vl := rfl
@[simp] theorem Strand.mapElems_vtype (t : Strand) (is : List Nat) (vd : Reg) (eb regs : Nat) (f : Nat → Nat × Nat) :
    (t.mapElems is vd eb regs f).vtype = t.vtype := rfl
@[simp] theorem Strand.mapElems_g (t : Strand) (is : List Nat) (vd : Reg) (eb regs : Nat) (f : Nat → Nat × Nat) :
    (t.mapElems is vd eb regs f).g = t.g := rfl
@[simp] theorem Strand.mapElems_nr (t : Strand) (is : List Nat) (vd : Reg) (eb regs : Nat) (f : Nat → Nat × Nat) :
    (t.mapElems is vd eb regs f).nr = t.nr := rfl
@[simp] theorem Strand.mapElems_short (t : Strand) (is : List Nat) (vd : Reg) (eb regs : Nat) (f : Nat → Nat × Nat) :
    (t.mapElems is vd eb regs f).short = t.short := rfl
@[simp] theorem Strand.mapElems_vstart (t : Strand) (is : List Nat) (vd : Reg) (eb regs : Nat) (f : Nat → Nat × Nat) :
    (t.mapElems is vd eb regs f).vstart = t.vstart := rfl
@[simp] theorem Strand.mapElems_vrnd (t : Strand) (is : List Nat) (vd : Reg) (eb regs : Nat) (f : Nat → Nat × Nat) :
    (t.mapElems is vd eb regs f).vrnd = t.vrnd := rfl
@[simp] theorem Strand.mapElems_kthr (t : Strand) (is : List Nat) (vd : Reg) (eb regs : Nat) (f : Nat → Nat × Nat) :
    (t.mapElems is vd eb regs f).kthr = t.kthr := rfl
@[simp] theorem Strand.mapElems_lstage (t : Strand) (is : List Nat) (vd : Reg) (eb regs : Nat) (f : Nat → Nat × Nat) :
    (t.mapElems is vd eb regs f).lstage = t.lstage := rfl
@[simp] theorem Strand.mapElems_lanes0 (t : Strand) (is : List Nat) (vd : Reg) (eb regs : Nat) (f : Nat → Nat × Nat) :
    (t.mapElems is vd eb regs f).lanes0 = t.lanes0 := rfl
@[simp] theorem Strand.mapElems_q (t : Strand) (is : List Nat) (vd : Reg) (eb regs : Nat) (f : Nat → Nat × Nat) :
    (t.mapElems is vd eb regs f).q = t.q := rfl
@[simp] theorem Strand.mapElems_fork (t : Strand) (is : List Nat) (vd : Reg) (eb regs : Nat) (f : Nat → Nat × Nat) :
    (t.mapElems is vd eb regs f).fork = t.fork := rfl
@[simp] theorem Strand.mapElems_inbox (t : Strand) (is : List Nat) (vd : Reg) (eb regs : Nat) (f : Nat → Nat × Nat) :
    (t.mapElems is vd eb regs f).inbox = t.inbox := rfl
@[simp] theorem Strand.mapElems_latch (t : Strand) (is : List Nat) (vd : Reg) (eb regs : Nat) (f : Nat → Nat × Nat) :
    (t.mapElems is vd eb regs f).latch = t.latch := rfl
@[simp] theorem Strand.mapElems_slip (t : Strand) (is : List Nat) (vd : Reg) (eb regs : Nat) (f : Nat → Nat × Nat) :
    (t.mapElems is vd eb regs f).slip = t.slip := rfl
@[simp] theorem Strand.mapElems_posted (t : Strand) (is : List Nat) (vd : Reg) (eb regs : Nat) (f : Nat → Nat × Nat) :
    (t.mapElems is vd eb regs f).posted = t.posted := rfl
@[simp] theorem Strand.mapElems_astat (t : Strand) (is : List Nat) (vd : Reg) (eb regs : Nat) (f : Nat → Nat × Nat) :
    (t.mapElems is vd eb regs f).astat = t.astat := rfl
@[simp] theorem Strand.mapElems_tiles (t : Strand) (is : List Nat) (vd : Reg) (eb regs : Nat) (f : Nat → Nat × Nat) :
    (t.mapElems is vd eb regs f).tiles = t.tiles := rfl
@[simp] theorem Strand.mapElems_accRows (t : Strand) (is : List Nat) (vd : Reg) (eb regs : Nat) (f : Nat → Nat × Nat) :
    (t.mapElems is vd eb regs f).accRows = t.accRows := rfl
@[simp] theorem Strand.mapElems_acc (t : Strand) (is : List Nat) (vd : Reg) (eb regs : Nat) (f : Nat → Nat × Nat) :
    (t.mapElems is vd eb regs f).acc = t.acc := rfl
@[simp] theorem Strand.mapElems_actBytes (t : Strand) (is : List Nat) (vd : Reg) (eb regs : Nat) (f : Nat → Nat × Nat) :
    (t.mapElems is vd eb regs f).actBytes = t.actBytes := rfl
@[simp] theorem Strand.mapElems_act (t : Strand) (is : List Nat) (vd : Reg) (eb regs : Nat) (f : Nat → Nat × Nat) :
    (t.mapElems is vd eb regs f).act = t.act := rfl
@[simp] theorem Strand.mapElems_scratchBytes (t : Strand) (is : List Nat) (vd : Reg) (eb regs : Nat) (f : Nat → Nat × Nat) :
    (t.mapElems is vd eb regs f).scratchBytes = t.scratchBytes := rfl
@[simp] theorem Strand.mapElems_scratch (t : Strand) (is : List Nat) (vd : Reg) (eb regs : Nat) (f : Nat → Nat × Nat) :
    (t.mapElems is vd eb regs f).scratch = t.scratch := rfl
@[simp] theorem Strand.mapElems_stack (t : Strand) (is : List Nat) (vd : Reg) (eb regs : Nat) (f : Nat → Nat × Nat) :
    (t.mapElems is vd eb regs f).stack = t.stack := rfl
@[simp] theorem Strand.mapElems_migcnt (t : Strand) (is : List Nat) (vd : Reg) (eb regs : Nat) (f : Nat → Nat × Nat) :
    (t.mapElems is vd eb regs f).migcnt = t.migcnt := rfl
@[simp] theorem Strand.mapElems_res (t : Strand) (is : List Nat) (vd : Reg) (eb regs : Nat) (f : Nat → Nat × Nat) :
    (t.mapElems is vd eb regs f).res = t.res := rfl
@[simp] theorem Strand.mapElems_lrRes (t : Strand) (is : List Nat) (vd : Reg) (eb regs : Nat) (f : Nat → Nat × Nat) :
    (t.mapElems is vd eb regs f).lrRes = t.lrRes := rfl
@[simp] theorem Strand.mapElems_pend (t : Strand) (is : List Nat) (vd : Reg) (eb regs : Nat) (f : Nat → Nat × Nat) :
    (t.mapElems is vd eb regs f).pend = t.pend := rfl
@[simp] theorem Strand.mapElems_replyQ (t : Strand) (is : List Nat) (vd : Reg) (eb regs : Nat) (f : Nat → Nat × Nat) :
    (t.mapElems is vd eb regs f).replyQ = t.replyQ := rfl
@[simp] theorem Strand.mapElems_vq (t : Strand) (is : List Nat) (vd : Reg) (eb regs : Nat) (f : Nat → Nat × Nat) :
    (t.mapElems is vd eb regs f).vq = t.vq := rfl
@[simp] theorem Strand.mapElems_mq (t : Strand) (is : List Nat) (vd : Reg) (eb regs : Nat) (f : Nat → Nat × Nat) :
    (t.mapElems is vd eb regs f).mq = t.mq := rfl
@[simp] theorem Strand.mapElems_wcS (t : Strand) (is : List Nat) (vd : Reg) (eb regs : Nat) (f : Nat → Nat × Nat) :
    (t.mapElems is vd eb regs f).wcS = t.wcS := rfl
@[simp] theorem Strand.mapElems_wcV (t : Strand) (is : List Nat) (vd : Reg) (eb regs : Nat) (f : Nat → Nat × Nat) :
    (t.mapElems is vd eb regs f).wcV = t.wcV := rfl
@[simp] theorem Strand.mapElems_barK (t : Strand) (is : List Nat) (vd : Reg) (eb regs : Nat) (f : Nat → Nat × Nat) :
    (t.mapElems is vd eb regs f).barK = t.barK := rfl
@[simp] theorem Strand.mapElems_barArrived (t : Strand) (is : List Nat) (vd : Reg) (eb regs : Nat) (f : Nat → Nat × Nat) :
    (t.mapElems is vd eb regs f).barArrived = t.barArrived := rfl
@[simp] theorem Strand.mapElems_bookmark (t : Strand) (is : List Nat) (vd : Reg) (eb regs : Nat) (f : Nat → Nat × Nat) :
    (t.mapElems is vd eb regs f).bookmark = t.bookmark := rfl
@[simp] theorem Strand.mapElems_mixN (t : Strand) (is : List Nat) (vd : Reg) (eb regs : Nat) (f : Nat → Nat × Nat) :
    (t.mapElems is vd eb regs f).mixN = t.mixN := rfl
@[simp] theorem Strand.mapElems_mixV (t : Strand) (is : List Nat) (vd : Reg) (eb regs : Nat) (f : Nat → Nat × Nat) :
    (t.mapElems is vd eb regs f).mixV = t.mixV := rfl
@[simp] theorem Strand.mapElems_kdPend (t : Strand) (is : List Nat) (vd : Reg) (eb regs : Nat) (f : Nat → Nat × Nat) :
    (t.mapElems is vd eb regs f).kdPend = t.kdPend := rfl
@[simp] theorem Strand.mapElems_popped (t : Strand) (is : List Nat) (vd : Reg) (eb regs : Nat) (f : Nat → Nat × Nat) :
    (t.mapElems is vd eb regs f).popped = t.popped := rfl
@[simp] theorem Strand.mapElems_trimAt (t : Strand) (is : List Nat) (vd : Reg) (eb regs : Nat) (f : Nat → Nat × Nat) :
    (t.mapElems is vd eb regs f).trimAt = t.trimAt := rfl
@[simp] theorem Strand.mapElems_only (t : Strand) (is : List Nat) (vd : Reg) (eb regs : Nat) (f : Nat → Nat × Nat) :
    (t.mapElems is vd eb regs f).only = t.only := rfl
@[simp] theorem Strand.mapElems_resL2 (t : Strand) (is : List Nat) (vd : Reg) (eb regs : Nat) (f : Nat → Nat × Nat) :
    (t.mapElems is vd eb regs f).resL2 = t.resL2 := rfl
@[simp] theorem Strand.mapElems_replaying (t : Strand) (is : List Nat) (vd : Reg) (eb regs : Nat) (f : Nat → Nat × Nat) :
    (t.mapElems is vd eb regs f).replaying = t.replaying := rfl
@[simp] theorem Strand.mapElems_asked (t : Strand) (is : List Nat) (vd : Reg) (eb regs : Nat) (f : Nat → Nat × Nat) :
    (t.mapElems is vd eb regs f).asked = t.asked := rfl
@[simp] theorem Strand.mapElems_savedAt (t : Strand) (is : List Nat) (vd : Reg) (eb regs : Nat) (f : Nat → Nat × Nat) :
    (t.mapElems is vd eb regs f).savedAt = t.savedAt := rfl

@[simp] theorem Strand.mapBits_uid (t : Strand) (vm : Bool) (kd : MReg) (f : Nat → Bool × Nat) :
    (t.mapBits vm kd f).uid = t.uid := rfl
@[simp] theorem Strand.mapBits_system (t : Strand) (vm : Bool) (kd : MReg) (f : Nat → Bool × Nat) :
    (t.mapBits vm kd f).system = t.system := rfl
@[simp] theorem Strand.mapBits_lid (t : Strand) (vm : Bool) (kd : MReg) (f : Nat → Bool × Nat) :
    (t.mapBits vm kd f).lid = t.lid := rfl
@[simp] theorem Strand.mapBits_ctx (t : Strand) (vm : Bool) (kd : MReg) (f : Nat → Bool × Nat) :
    (t.mapBits vm kd f).ctx = t.ctx := rfl
@[simp] theorem Strand.mapBits_gx (t : Strand) (vm : Bool) (kd : MReg) (f : Nat → Bool × Nat) :
    (t.mapBits vm kd f).gx = t.gx := rfl
@[simp] theorem Strand.mapBits_gy (t : Strand) (vm : Bool) (kd : MReg) (f : Nat → Bool × Nat) :
    (t.mapBits vm kd f).gy = t.gy := rfl
@[simp] theorem Strand.mapBits_gz (t : Strand) (vm : Bool) (kd : MReg) (f : Nat → Bool × Nat) :
    (t.mapBits vm kd f).gz = t.gz := rfl
@[simp] theorem Strand.mapBits_glin (t : Strand) (vm : Bool) (kd : MReg) (f : Nat → Bool × Nat) :
    (t.mapBits vm kd f).glin = t.glin := rfl
@[simp] theorem Strand.mapBits_stage (t : Strand) (vm : Bool) (kd : MReg) (f : Nat → Bool × Nat) :
    (t.mapBits vm kd f).stage = t.stage := rfl
@[simp] theorem Strand.mapBits_six (t : Strand) (vm : Bool) (kd : MReg) (f : Nat → Bool × Nat) :
    (t.mapBits vm kd f).six = t.six := rfl
@[simp] theorem Strand.mapBits_core (t : Strand) (vm : Bool) (kd : MReg) (f : Nat → Bool × Nat) :
    (t.mapBits vm kd f).core = t.core := rfl
@[simp] theorem Strand.mapBits_slot (t : Strand) (vm : Bool) (kd : MReg) (f : Nat → Bool × Nat) :
    (t.mapBits vm kd f).slot = t.slot := rfl
@[simp] theorem Strand.mapBits_status (t : Strand) (vm : Bool) (kd : MReg) (f : Nat → Bool × Nat) :
    (t.mapBits vm kd f).status = t.status := rfl
@[simp] theorem Strand.mapBits_mode (t : Strand) (vm : Bool) (kd : MReg) (f : Nat → Bool × Nat) :
    (t.mapBits vm kd f).mode = t.mode := rfl
@[simp] theorem Strand.mapBits_pc (t : Strand) (vm : Bool) (kd : MReg) (f : Nat → Bool × Nat) :
    (t.mapBits vm kd f).pc = t.pc := rfl
@[simp] theorem Strand.mapBits_x (t : Strand) (vm : Bool) (kd : MReg) (f : Nat → Bool × Nat) :
    (t.mapBits vm kd f).x = t.x := rfl
@[simp] theorem Strand.mapBits_f (t : Strand) (vm : Bool) (kd : MReg) (f : Nat → Bool × Nat) :
    (t.mapBits vm kd f).f = t.f := rfl
@[simp] theorem Strand.mapBits_frm (t : Strand) (vm : Bool) (kd : MReg) (f : Nat → Bool × Nat) :
    (t.mapBits vm kd f).frm = t.frm := rfl
@[simp] theorem Strand.mapBits_fflags (t : Strand) (vm : Bool) (kd : MReg) (f : Nat → Bool × Nat) :
    (t.mapBits vm kd f).fflags = t.fflags := rfl
@[simp] theorem Strand.mapBits_v (t : Strand) (vm : Bool) (kd : MReg) (f : Nat → Bool × Nat) :
    (t.mapBits vm kd f).v = t.v := rfl
@[simp] theorem Strand.mapBits_vl (t : Strand) (vm : Bool) (kd : MReg) (f : Nat → Bool × Nat) :
    (t.mapBits vm kd f).vl = t.vl := rfl
@[simp] theorem Strand.mapBits_vtype (t : Strand) (vm : Bool) (kd : MReg) (f : Nat → Bool × Nat) :
    (t.mapBits vm kd f).vtype = t.vtype := rfl
@[simp] theorem Strand.mapBits_g (t : Strand) (vm : Bool) (kd : MReg) (f : Nat → Bool × Nat) :
    (t.mapBits vm kd f).g = t.g := rfl
@[simp] theorem Strand.mapBits_nr (t : Strand) (vm : Bool) (kd : MReg) (f : Nat → Bool × Nat) :
    (t.mapBits vm kd f).nr = t.nr := rfl
@[simp] theorem Strand.mapBits_short (t : Strand) (vm : Bool) (kd : MReg) (f : Nat → Bool × Nat) :
    (t.mapBits vm kd f).short = t.short := rfl
@[simp] theorem Strand.mapBits_vstart (t : Strand) (vm : Bool) (kd : MReg) (f : Nat → Bool × Nat) :
    (t.mapBits vm kd f).vstart = t.vstart := rfl
@[simp] theorem Strand.mapBits_vrnd (t : Strand) (vm : Bool) (kd : MReg) (f : Nat → Bool × Nat) :
    (t.mapBits vm kd f).vrnd = t.vrnd := rfl
@[simp] theorem Strand.mapBits_vdirty (t : Strand) (vm : Bool) (kd : MReg) (f : Nat → Bool × Nat) :
    (t.mapBits vm kd f).vdirty = t.vdirty := rfl
@[simp] theorem Strand.mapBits_kthr (t : Strand) (vm : Bool) (kd : MReg) (f : Nat → Bool × Nat) :
    (t.mapBits vm kd f).kthr = t.kthr := rfl
@[simp] theorem Strand.mapBits_lstage (t : Strand) (vm : Bool) (kd : MReg) (f : Nat → Bool × Nat) :
    (t.mapBits vm kd f).lstage = t.lstage := rfl
@[simp] theorem Strand.mapBits_lanes0 (t : Strand) (vm : Bool) (kd : MReg) (f : Nat → Bool × Nat) :
    (t.mapBits vm kd f).lanes0 = t.lanes0 := rfl
@[simp] theorem Strand.mapBits_q (t : Strand) (vm : Bool) (kd : MReg) (f : Nat → Bool × Nat) :
    (t.mapBits vm kd f).q = t.q := rfl
@[simp] theorem Strand.mapBits_fork (t : Strand) (vm : Bool) (kd : MReg) (f : Nat → Bool × Nat) :
    (t.mapBits vm kd f).fork = t.fork := rfl
@[simp] theorem Strand.mapBits_inbox (t : Strand) (vm : Bool) (kd : MReg) (f : Nat → Bool × Nat) :
    (t.mapBits vm kd f).inbox = t.inbox := rfl
@[simp] theorem Strand.mapBits_latch (t : Strand) (vm : Bool) (kd : MReg) (f : Nat → Bool × Nat) :
    (t.mapBits vm kd f).latch = t.latch := rfl
@[simp] theorem Strand.mapBits_slip (t : Strand) (vm : Bool) (kd : MReg) (f : Nat → Bool × Nat) :
    (t.mapBits vm kd f).slip = t.slip := rfl
@[simp] theorem Strand.mapBits_posted (t : Strand) (vm : Bool) (kd : MReg) (f : Nat → Bool × Nat) :
    (t.mapBits vm kd f).posted = t.posted := rfl
@[simp] theorem Strand.mapBits_astat (t : Strand) (vm : Bool) (kd : MReg) (f : Nat → Bool × Nat) :
    (t.mapBits vm kd f).astat = t.astat := rfl
@[simp] theorem Strand.mapBits_tiles (t : Strand) (vm : Bool) (kd : MReg) (f : Nat → Bool × Nat) :
    (t.mapBits vm kd f).tiles = t.tiles := rfl
@[simp] theorem Strand.mapBits_accRows (t : Strand) (vm : Bool) (kd : MReg) (f : Nat → Bool × Nat) :
    (t.mapBits vm kd f).accRows = t.accRows := rfl
@[simp] theorem Strand.mapBits_acc (t : Strand) (vm : Bool) (kd : MReg) (f : Nat → Bool × Nat) :
    (t.mapBits vm kd f).acc = t.acc := rfl
@[simp] theorem Strand.mapBits_actBytes (t : Strand) (vm : Bool) (kd : MReg) (f : Nat → Bool × Nat) :
    (t.mapBits vm kd f).actBytes = t.actBytes := rfl
@[simp] theorem Strand.mapBits_act (t : Strand) (vm : Bool) (kd : MReg) (f : Nat → Bool × Nat) :
    (t.mapBits vm kd f).act = t.act := rfl
@[simp] theorem Strand.mapBits_scratchBytes (t : Strand) (vm : Bool) (kd : MReg) (f : Nat → Bool × Nat) :
    (t.mapBits vm kd f).scratchBytes = t.scratchBytes := rfl
@[simp] theorem Strand.mapBits_scratch (t : Strand) (vm : Bool) (kd : MReg) (f : Nat → Bool × Nat) :
    (t.mapBits vm kd f).scratch = t.scratch := rfl
@[simp] theorem Strand.mapBits_stack (t : Strand) (vm : Bool) (kd : MReg) (f : Nat → Bool × Nat) :
    (t.mapBits vm kd f).stack = t.stack := rfl
@[simp] theorem Strand.mapBits_migcnt (t : Strand) (vm : Bool) (kd : MReg) (f : Nat → Bool × Nat) :
    (t.mapBits vm kd f).migcnt = t.migcnt := rfl
@[simp] theorem Strand.mapBits_res (t : Strand) (vm : Bool) (kd : MReg) (f : Nat → Bool × Nat) :
    (t.mapBits vm kd f).res = t.res := rfl
@[simp] theorem Strand.mapBits_lrRes (t : Strand) (vm : Bool) (kd : MReg) (f : Nat → Bool × Nat) :
    (t.mapBits vm kd f).lrRes = t.lrRes := rfl
@[simp] theorem Strand.mapBits_pend (t : Strand) (vm : Bool) (kd : MReg) (f : Nat → Bool × Nat) :
    (t.mapBits vm kd f).pend = t.pend := rfl
@[simp] theorem Strand.mapBits_replyQ (t : Strand) (vm : Bool) (kd : MReg) (f : Nat → Bool × Nat) :
    (t.mapBits vm kd f).replyQ = t.replyQ := rfl
@[simp] theorem Strand.mapBits_vq (t : Strand) (vm : Bool) (kd : MReg) (f : Nat → Bool × Nat) :
    (t.mapBits vm kd f).vq = t.vq := rfl
@[simp] theorem Strand.mapBits_mq (t : Strand) (vm : Bool) (kd : MReg) (f : Nat → Bool × Nat) :
    (t.mapBits vm kd f).mq = t.mq := rfl
@[simp] theorem Strand.mapBits_wcS (t : Strand) (vm : Bool) (kd : MReg) (f : Nat → Bool × Nat) :
    (t.mapBits vm kd f).wcS = t.wcS := rfl
@[simp] theorem Strand.mapBits_wcV (t : Strand) (vm : Bool) (kd : MReg) (f : Nat → Bool × Nat) :
    (t.mapBits vm kd f).wcV = t.wcV := rfl
@[simp] theorem Strand.mapBits_barK (t : Strand) (vm : Bool) (kd : MReg) (f : Nat → Bool × Nat) :
    (t.mapBits vm kd f).barK = t.barK := rfl
@[simp] theorem Strand.mapBits_barArrived (t : Strand) (vm : Bool) (kd : MReg) (f : Nat → Bool × Nat) :
    (t.mapBits vm kd f).barArrived = t.barArrived := rfl
@[simp] theorem Strand.mapBits_bookmark (t : Strand) (vm : Bool) (kd : MReg) (f : Nat → Bool × Nat) :
    (t.mapBits vm kd f).bookmark = t.bookmark := rfl
@[simp] theorem Strand.mapBits_mixN (t : Strand) (vm : Bool) (kd : MReg) (f : Nat → Bool × Nat) :
    (t.mapBits vm kd f).mixN = t.mixN := rfl
@[simp] theorem Strand.mapBits_mixV (t : Strand) (vm : Bool) (kd : MReg) (f : Nat → Bool × Nat) :
    (t.mapBits vm kd f).mixV = t.mixV := rfl
@[simp] theorem Strand.mapBits_kdPend (t : Strand) (vm : Bool) (kd : MReg) (f : Nat → Bool × Nat) :
    (t.mapBits vm kd f).kdPend = t.kdPend := rfl
@[simp] theorem Strand.mapBits_popped (t : Strand) (vm : Bool) (kd : MReg) (f : Nat → Bool × Nat) :
    (t.mapBits vm kd f).popped = t.popped := rfl
@[simp] theorem Strand.mapBits_only (t : Strand) (vm : Bool) (kd : MReg) (f : Nat → Bool × Nat) :
    (t.mapBits vm kd f).only = t.only := rfl
@[simp] theorem Strand.mapBits_resL2 (t : Strand) (vm : Bool) (kd : MReg) (f : Nat → Bool × Nat) :
    (t.mapBits vm kd f).resL2 = t.resL2 := rfl
@[simp] theorem Strand.mapBits_replaying (t : Strand) (vm : Bool) (kd : MReg) (f : Nat → Bool × Nat) :
    (t.mapBits vm kd f).replaying = t.replaying := rfl
@[simp] theorem Strand.mapBits_asked (t : Strand) (vm : Bool) (kd : MReg) (f : Nat → Bool × Nat) :
    (t.mapBits vm kd f).asked = t.asked := rfl
@[simp] theorem Strand.mapBits_savedAt (t : Strand) (vm : Bool) (kd : MReg) (f : Nat → Bool × Nat) :
    (t.mapBits vm kd f).savedAt = t.savedAt := rfl

@[simp] theorem Strand.putK_uid (t : Strand) (kd : MReg) (w : KReg) : (t.putK kd w).uid = t.uid := rfl
@[simp] theorem Strand.putK_system (t : Strand) (kd : MReg) (w : KReg) : (t.putK kd w).system = t.system := rfl
@[simp] theorem Strand.putK_lid (t : Strand) (kd : MReg) (w : KReg) : (t.putK kd w).lid = t.lid := rfl
@[simp] theorem Strand.putK_ctx (t : Strand) (kd : MReg) (w : KReg) : (t.putK kd w).ctx = t.ctx := rfl
@[simp] theorem Strand.putK_gx (t : Strand) (kd : MReg) (w : KReg) : (t.putK kd w).gx = t.gx := rfl
@[simp] theorem Strand.putK_gy (t : Strand) (kd : MReg) (w : KReg) : (t.putK kd w).gy = t.gy := rfl
@[simp] theorem Strand.putK_gz (t : Strand) (kd : MReg) (w : KReg) : (t.putK kd w).gz = t.gz := rfl
@[simp] theorem Strand.putK_glin (t : Strand) (kd : MReg) (w : KReg) : (t.putK kd w).glin = t.glin := rfl
@[simp] theorem Strand.putK_stage (t : Strand) (kd : MReg) (w : KReg) : (t.putK kd w).stage = t.stage := rfl
@[simp] theorem Strand.putK_six (t : Strand) (kd : MReg) (w : KReg) : (t.putK kd w).six = t.six := rfl
@[simp] theorem Strand.putK_core (t : Strand) (kd : MReg) (w : KReg) : (t.putK kd w).core = t.core := rfl
@[simp] theorem Strand.putK_slot (t : Strand) (kd : MReg) (w : KReg) : (t.putK kd w).slot = t.slot := rfl
@[simp] theorem Strand.putK_status (t : Strand) (kd : MReg) (w : KReg) : (t.putK kd w).status = t.status := rfl
@[simp] theorem Strand.putK_mode (t : Strand) (kd : MReg) (w : KReg) : (t.putK kd w).mode = t.mode := rfl
@[simp] theorem Strand.putK_pc (t : Strand) (kd : MReg) (w : KReg) : (t.putK kd w).pc = t.pc := rfl
@[simp] theorem Strand.putK_x (t : Strand) (kd : MReg) (w : KReg) : (t.putK kd w).x = t.x := rfl
@[simp] theorem Strand.putK_f (t : Strand) (kd : MReg) (w : KReg) : (t.putK kd w).f = t.f := rfl
@[simp] theorem Strand.putK_frm (t : Strand) (kd : MReg) (w : KReg) : (t.putK kd w).frm = t.frm := rfl
@[simp] theorem Strand.putK_fflags (t : Strand) (kd : MReg) (w : KReg) : (t.putK kd w).fflags = t.fflags := rfl
@[simp] theorem Strand.putK_v (t : Strand) (kd : MReg) (w : KReg) : (t.putK kd w).v = t.v := rfl
@[simp] theorem Strand.putK_vl (t : Strand) (kd : MReg) (w : KReg) : (t.putK kd w).vl = t.vl := rfl
@[simp] theorem Strand.putK_vtype (t : Strand) (kd : MReg) (w : KReg) : (t.putK kd w).vtype = t.vtype := rfl
@[simp] theorem Strand.putK_g (t : Strand) (kd : MReg) (w : KReg) : (t.putK kd w).g = t.g := rfl
@[simp] theorem Strand.putK_nr (t : Strand) (kd : MReg) (w : KReg) : (t.putK kd w).nr = t.nr := rfl
@[simp] theorem Strand.putK_short (t : Strand) (kd : MReg) (w : KReg) : (t.putK kd w).short = t.short := rfl
@[simp] theorem Strand.putK_vstart (t : Strand) (kd : MReg) (w : KReg) : (t.putK kd w).vstart = t.vstart := rfl
@[simp] theorem Strand.putK_vrnd (t : Strand) (kd : MReg) (w : KReg) : (t.putK kd w).vrnd = t.vrnd := rfl
@[simp] theorem Strand.putK_vflags (t : Strand) (kd : MReg) (w : KReg) : (t.putK kd w).vflags = t.vflags := rfl
@[simp] theorem Strand.putK_vdirty (t : Strand) (kd : MReg) (w : KReg) : (t.putK kd w).vdirty = t.vdirty := rfl
@[simp] theorem Strand.putK_kthr (t : Strand) (kd : MReg) (w : KReg) : (t.putK kd w).kthr = t.kthr := rfl
@[simp] theorem Strand.putK_lstage (t : Strand) (kd : MReg) (w : KReg) : (t.putK kd w).lstage = t.lstage := rfl
@[simp] theorem Strand.putK_lanes0 (t : Strand) (kd : MReg) (w : KReg) : (t.putK kd w).lanes0 = t.lanes0 := rfl
@[simp] theorem Strand.putK_q (t : Strand) (kd : MReg) (w : KReg) : (t.putK kd w).q = t.q := rfl
@[simp] theorem Strand.putK_fork (t : Strand) (kd : MReg) (w : KReg) : (t.putK kd w).fork = t.fork := rfl
@[simp] theorem Strand.putK_inbox (t : Strand) (kd : MReg) (w : KReg) : (t.putK kd w).inbox = t.inbox := rfl
@[simp] theorem Strand.putK_latch (t : Strand) (kd : MReg) (w : KReg) : (t.putK kd w).latch = t.latch := rfl
@[simp] theorem Strand.putK_slip (t : Strand) (kd : MReg) (w : KReg) : (t.putK kd w).slip = t.slip := rfl
@[simp] theorem Strand.putK_posted (t : Strand) (kd : MReg) (w : KReg) : (t.putK kd w).posted = t.posted := rfl
@[simp] theorem Strand.putK_astat (t : Strand) (kd : MReg) (w : KReg) : (t.putK kd w).astat = t.astat := rfl
@[simp] theorem Strand.putK_tiles (t : Strand) (kd : MReg) (w : KReg) : (t.putK kd w).tiles = t.tiles := rfl
@[simp] theorem Strand.putK_accRows (t : Strand) (kd : MReg) (w : KReg) : (t.putK kd w).accRows = t.accRows := rfl
@[simp] theorem Strand.putK_acc (t : Strand) (kd : MReg) (w : KReg) : (t.putK kd w).acc = t.acc := rfl
@[simp] theorem Strand.putK_actBytes (t : Strand) (kd : MReg) (w : KReg) : (t.putK kd w).actBytes = t.actBytes := rfl
@[simp] theorem Strand.putK_act (t : Strand) (kd : MReg) (w : KReg) : (t.putK kd w).act = t.act := rfl
@[simp] theorem Strand.putK_scratchBytes (t : Strand) (kd : MReg) (w : KReg) :
    (t.putK kd w).scratchBytes = t.scratchBytes := rfl
@[simp] theorem Strand.putK_scratch (t : Strand) (kd : MReg) (w : KReg) : (t.putK kd w).scratch = t.scratch := rfl
@[simp] theorem Strand.putK_stack (t : Strand) (kd : MReg) (w : KReg) : (t.putK kd w).stack = t.stack := rfl
@[simp] theorem Strand.putK_migcnt (t : Strand) (kd : MReg) (w : KReg) : (t.putK kd w).migcnt = t.migcnt := rfl
@[simp] theorem Strand.putK_res (t : Strand) (kd : MReg) (w : KReg) : (t.putK kd w).res = t.res := rfl
@[simp] theorem Strand.putK_lrRes (t : Strand) (kd : MReg) (w : KReg) : (t.putK kd w).lrRes = t.lrRes := rfl
@[simp] theorem Strand.putK_pend (t : Strand) (kd : MReg) (w : KReg) : (t.putK kd w).pend = t.pend := rfl
@[simp] theorem Strand.putK_replyQ (t : Strand) (kd : MReg) (w : KReg) : (t.putK kd w).replyQ = t.replyQ := rfl
@[simp] theorem Strand.putK_vq (t : Strand) (kd : MReg) (w : KReg) : (t.putK kd w).vq = t.vq := rfl
@[simp] theorem Strand.putK_mq (t : Strand) (kd : MReg) (w : KReg) : (t.putK kd w).mq = t.mq := rfl
@[simp] theorem Strand.putK_wcS (t : Strand) (kd : MReg) (w : KReg) : (t.putK kd w).wcS = t.wcS := rfl
@[simp] theorem Strand.putK_wcV (t : Strand) (kd : MReg) (w : KReg) : (t.putK kd w).wcV = t.wcV := rfl
@[simp] theorem Strand.putK_barK (t : Strand) (kd : MReg) (w : KReg) : (t.putK kd w).barK = t.barK := rfl
@[simp] theorem Strand.putK_barArrived (t : Strand) (kd : MReg) (w : KReg) :
    (t.putK kd w).barArrived = t.barArrived := rfl
@[simp] theorem Strand.putK_bookmark (t : Strand) (kd : MReg) (w : KReg) : (t.putK kd w).bookmark = t.bookmark := rfl
@[simp] theorem Strand.putK_mixN (t : Strand) (kd : MReg) (w : KReg) : (t.putK kd w).mixN = t.mixN := rfl
@[simp] theorem Strand.putK_mixV (t : Strand) (kd : MReg) (w : KReg) : (t.putK kd w).mixV = t.mixV := rfl
@[simp] theorem Strand.putK_kdPend (t : Strand) (kd : MReg) (w : KReg) : (t.putK kd w).kdPend = t.kdPend := rfl
@[simp] theorem Strand.putK_popped (t : Strand) (kd : MReg) (w : KReg) : (t.putK kd w).popped = t.popped := rfl
@[simp] theorem Strand.putK_only (t : Strand) (kd : MReg) (w : KReg) : (t.putK kd w).only = t.only := rfl
@[simp] theorem Strand.putK_resL2 (t : Strand) (kd : MReg) (w : KReg) : (t.putK kd w).resL2 = t.resL2 := rfl
@[simp] theorem Strand.putK_replaying (t : Strand) (kd : MReg) (w : KReg) :
    (t.putK kd w).replaying = t.replaying := rfl
@[simp] theorem Strand.putK_asked (t : Strand) (kd : MReg) (w : KReg) : (t.putK kd w).asked = t.asked := rfl
@[simp] theorem Strand.putK_savedAt (t : Strand) (kd : MReg) (w : KReg) : (t.putK kd w).savedAt = t.savedAt := rfl

@[simp] theorem Strand.putStream_uid (t : Strand) (q : QReg) (h : Option Stream) :
    (t.putStream q h).uid = t.uid := rfl
@[simp] theorem Strand.putStream_system (t : Strand) (q : QReg) (h : Option Stream) :
    (t.putStream q h).system = t.system := rfl
@[simp] theorem Strand.putStream_lid (t : Strand) (q : QReg) (h : Option Stream) :
    (t.putStream q h).lid = t.lid := rfl
@[simp] theorem Strand.putStream_ctx (t : Strand) (q : QReg) (h : Option Stream) :
    (t.putStream q h).ctx = t.ctx := rfl
@[simp] theorem Strand.putStream_gx (t : Strand) (q : QReg) (h : Option Stream) : (t.putStream q h).gx = t.gx := rfl
@[simp] theorem Strand.putStream_gy (t : Strand) (q : QReg) (h : Option Stream) : (t.putStream q h).gy = t.gy := rfl
@[simp] theorem Strand.putStream_gz (t : Strand) (q : QReg) (h : Option Stream) : (t.putStream q h).gz = t.gz := rfl
@[simp] theorem Strand.putStream_glin (t : Strand) (q : QReg) (h : Option Stream) :
    (t.putStream q h).glin = t.glin := rfl
@[simp] theorem Strand.putStream_stage (t : Strand) (q : QReg) (h : Option Stream) :
    (t.putStream q h).stage = t.stage := rfl
@[simp] theorem Strand.putStream_six (t : Strand) (q : QReg) (h : Option Stream) :
    (t.putStream q h).six = t.six := rfl
@[simp] theorem Strand.putStream_core (t : Strand) (q : QReg) (h : Option Stream) :
    (t.putStream q h).core = t.core := rfl
@[simp] theorem Strand.putStream_slot (t : Strand) (q : QReg) (h : Option Stream) :
    (t.putStream q h).slot = t.slot := rfl
@[simp] theorem Strand.putStream_status (t : Strand) (q : QReg) (h : Option Stream) :
    (t.putStream q h).status = t.status := rfl
@[simp] theorem Strand.putStream_mode (t : Strand) (q : QReg) (h : Option Stream) :
    (t.putStream q h).mode = t.mode := rfl
@[simp] theorem Strand.putStream_pc (t : Strand) (q : QReg) (h : Option Stream) : (t.putStream q h).pc = t.pc := rfl
@[simp] theorem Strand.putStream_x (t : Strand) (q : QReg) (h : Option Stream) : (t.putStream q h).x = t.x := rfl
@[simp] theorem Strand.putStream_f (t : Strand) (q : QReg) (h : Option Stream) : (t.putStream q h).f = t.f := rfl
@[simp] theorem Strand.putStream_frm (t : Strand) (q : QReg) (h : Option Stream) :
    (t.putStream q h).frm = t.frm := rfl
@[simp] theorem Strand.putStream_fflags (t : Strand) (q : QReg) (h : Option Stream) :
    (t.putStream q h).fflags = t.fflags := rfl
@[simp] theorem Strand.putStream_v (t : Strand) (q : QReg) (h : Option Stream) : (t.putStream q h).v = t.v := rfl
@[simp] theorem Strand.putStream_k (t : Strand) (q : QReg) (h : Option Stream) : (t.putStream q h).k = t.k := rfl
@[simp] theorem Strand.putStream_vl (t : Strand) (q : QReg) (h : Option Stream) : (t.putStream q h).vl = t.vl := rfl
@[simp] theorem Strand.putStream_vtype (t : Strand) (q : QReg) (h : Option Stream) :
    (t.putStream q h).vtype = t.vtype := rfl
@[simp] theorem Strand.putStream_g (t : Strand) (q : QReg) (h : Option Stream) : (t.putStream q h).g = t.g := rfl
@[simp] theorem Strand.putStream_nr (t : Strand) (q : QReg) (h : Option Stream) : (t.putStream q h).nr = t.nr := rfl
@[simp] theorem Strand.putStream_short (t : Strand) (q : QReg) (h : Option Stream) :
    (t.putStream q h).short = t.short := rfl
@[simp] theorem Strand.putStream_vstart (t : Strand) (q : QReg) (h : Option Stream) :
    (t.putStream q h).vstart = t.vstart := rfl
@[simp] theorem Strand.putStream_vrnd (t : Strand) (q : QReg) (h : Option Stream) :
    (t.putStream q h).vrnd = t.vrnd := rfl
@[simp] theorem Strand.putStream_vflags (t : Strand) (q : QReg) (h : Option Stream) :
    (t.putStream q h).vflags = t.vflags := rfl
@[simp] theorem Strand.putStream_vdirty (t : Strand) (q : QReg) (h : Option Stream) :
    (t.putStream q h).vdirty = t.vdirty := rfl
@[simp] theorem Strand.putStream_kthr (t : Strand) (q : QReg) (h : Option Stream) :
    (t.putStream q h).kthr = t.kthr := rfl
@[simp] theorem Strand.putStream_lstage (t : Strand) (q : QReg) (h : Option Stream) :
    (t.putStream q h).lstage = t.lstage := rfl
@[simp] theorem Strand.putStream_lanes0 (t : Strand) (q : QReg) (h : Option Stream) :
    (t.putStream q h).lanes0 = t.lanes0 := rfl
@[simp] theorem Strand.putStream_fork (t : Strand) (q : QReg) (h : Option Stream) :
    (t.putStream q h).fork = t.fork := rfl
@[simp] theorem Strand.putStream_inbox (t : Strand) (q : QReg) (h : Option Stream) :
    (t.putStream q h).inbox = t.inbox := rfl
@[simp] theorem Strand.putStream_latch (t : Strand) (q : QReg) (h : Option Stream) :
    (t.putStream q h).latch = t.latch := rfl
@[simp] theorem Strand.putStream_slip (t : Strand) (q : QReg) (h : Option Stream) :
    (t.putStream q h).slip = t.slip := rfl
@[simp] theorem Strand.putStream_posted (t : Strand) (q : QReg) (h : Option Stream) :
    (t.putStream q h).posted = t.posted := rfl
@[simp] theorem Strand.putStream_astat (t : Strand) (q : QReg) (h : Option Stream) :
    (t.putStream q h).astat = t.astat := rfl
@[simp] theorem Strand.putStream_tiles (t : Strand) (q : QReg) (h : Option Stream) :
    (t.putStream q h).tiles = t.tiles := rfl
@[simp] theorem Strand.putStream_accRows (t : Strand) (q : QReg) (h : Option Stream) :
    (t.putStream q h).accRows = t.accRows := rfl
@[simp] theorem Strand.putStream_acc (t : Strand) (q : QReg) (h : Option Stream) :
    (t.putStream q h).acc = t.acc := rfl
@[simp] theorem Strand.putStream_actBytes (t : Strand) (q : QReg) (h : Option Stream) :
    (t.putStream q h).actBytes = t.actBytes := rfl
@[simp] theorem Strand.putStream_act (t : Strand) (q : QReg) (h : Option Stream) :
    (t.putStream q h).act = t.act := rfl
@[simp] theorem Strand.putStream_scratchBytes (t : Strand) (q : QReg) (h : Option Stream) :
    (t.putStream q h).scratchBytes = t.scratchBytes := rfl
@[simp] theorem Strand.putStream_scratch (t : Strand) (q : QReg) (h : Option Stream) :
    (t.putStream q h).scratch = t.scratch := rfl
@[simp] theorem Strand.putStream_stack (t : Strand) (q : QReg) (h : Option Stream) :
    (t.putStream q h).stack = t.stack := rfl
@[simp] theorem Strand.putStream_migcnt (t : Strand) (q : QReg) (h : Option Stream) :
    (t.putStream q h).migcnt = t.migcnt := rfl
@[simp] theorem Strand.putStream_res (t : Strand) (q : QReg) (h : Option Stream) :
    (t.putStream q h).res = t.res := rfl
@[simp] theorem Strand.putStream_lrRes (t : Strand) (q : QReg) (h : Option Stream) :
    (t.putStream q h).lrRes = t.lrRes := rfl
@[simp] theorem Strand.putStream_pend (t : Strand) (q : QReg) (h : Option Stream) :
    (t.putStream q h).pend = t.pend := rfl
@[simp] theorem Strand.putStream_replyQ (t : Strand) (q : QReg) (h : Option Stream) :
    (t.putStream q h).replyQ = t.replyQ := rfl
@[simp] theorem Strand.putStream_vq (t : Strand) (q : QReg) (h : Option Stream) : (t.putStream q h).vq = t.vq := rfl
@[simp] theorem Strand.putStream_mq (t : Strand) (q : QReg) (h : Option Stream) : (t.putStream q h).mq = t.mq := rfl
@[simp] theorem Strand.putStream_wcS (t : Strand) (q : QReg) (h : Option Stream) :
    (t.putStream q h).wcS = t.wcS := rfl
@[simp] theorem Strand.putStream_wcV (t : Strand) (q : QReg) (h : Option Stream) :
    (t.putStream q h).wcV = t.wcV := rfl
@[simp] theorem Strand.putStream_barK (t : Strand) (q : QReg) (h : Option Stream) :
    (t.putStream q h).barK = t.barK := rfl
@[simp] theorem Strand.putStream_barArrived (t : Strand) (q : QReg) (h : Option Stream) :
    (t.putStream q h).barArrived = t.barArrived := rfl
@[simp] theorem Strand.putStream_bookmark (t : Strand) (q : QReg) (h : Option Stream) :
    (t.putStream q h).bookmark = t.bookmark := rfl
@[simp] theorem Strand.putStream_mixN (t : Strand) (q : QReg) (h : Option Stream) :
    (t.putStream q h).mixN = t.mixN := rfl
@[simp] theorem Strand.putStream_mixV (t : Strand) (q : QReg) (h : Option Stream) :
    (t.putStream q h).mixV = t.mixV := rfl
@[simp] theorem Strand.putStream_kdPend (t : Strand) (q : QReg) (h : Option Stream) :
    (t.putStream q h).kdPend = t.kdPend := rfl
@[simp] theorem Strand.putStream_popped (t : Strand) (q : QReg) (h : Option Stream) :
    (t.putStream q h).popped = t.popped := rfl
@[simp] theorem Strand.putStream_trimAt (t : Strand) (q : QReg) (h : Option Stream) :
    (t.putStream q h).trimAt = t.trimAt := rfl
@[simp] theorem Strand.putStream_only (t : Strand) (q : QReg) (h : Option Stream) :
    (t.putStream q h).only = t.only := rfl
@[simp] theorem Strand.putStream_resL2 (t : Strand) (q : QReg) (h : Option Stream) :
    (t.putStream q h).resL2 = t.resL2 := rfl
@[simp] theorem Strand.putStream_replaying (t : Strand) (q : QReg) (h : Option Stream) :
    (t.putStream q h).replaying = t.replaying := rfl
@[simp] theorem Strand.putStream_asked (t : Strand) (q : QReg) (h : Option Stream) :
    (t.putStream q h).asked = t.asked := rfl
@[simp] theorem Strand.putStream_savedAt (t : Strand) (q : QReg) (h : Option Stream) :
    (t.putStream q h).savedAt = t.savedAt := rfl

end Sys2Proof.Machine
end

