-- ==== Sys2Proof/Laws/Issue.lean ====
section
/-! SUPPORT. What the shared operations of issue and completion answer: gates, requirements, streams when none is bound,
and what writing a list of elements does to a register file. -/

namespace Sys2Proof.Machine

/-! ### Results -/

theorem Res.bind_ok {α β : Type} (a : α) (f : α → Res β) : ((Except.ok a : Res α) >>= f) = f a := rfl

theorem Res.bind_error {α β : Type} (e : Exc × State) (f : α → Res β) : ((Except.error e : Res α) >>= f) = .error e := rfl

/-- A sequence that answers comes from a first part that answers. -/
theorem Res.bind_eq_ok {α β : Type} {x : Res α} {f : α → Res β} {b : β} (h : x >>= f = .ok b) :
    ∃ a, x = .ok a ∧ f a = .ok b := by
  cases x with
  | ok a => exact ⟨a, rfl, h⟩
  | error e => exact nomatch h

theorem finish_ok (s : State) : finish (.ok s) = .next s := rfl

theorem finish_error (e : Exc) (s : State) : finish (.error (e, s)) = .next (s.takeExc e) := rfl

/-- Every instruction that ends in `finish` answers a next state: its effect, or its exception taken. -/
theorem finish_eq_next {r : Res State} {s' : State} :
    finish r = .next s' ↔ r = .ok s' ∨ ∃ e s, r = .error (e, s) ∧ s' = s.takeExc e := by
  cases r with
  | ok s => simp [finish]
  | error p => obtain ⟨e, s⟩ := p; simp [finish, eq_comm]

theorem require_true (e : Exc) (s : State) : require true e s = .ok () := rfl

theorem require_eq_ok {c : Bool} {e : Exc} {s : State} {u : Unit} : require c e s = .ok u ↔ c = true := by
  cases c <;> simp [require]

/-! ### Gates -/

theorem State.classGate_ok {s : State} {cs : List Cls} (hf : s.cur.fork = none) (hc : s.cur.cls ∈ cs) :
    s.classGate cs = .ok s := by simp [State.classGate, hf, hc]

theorem State.classGate_eq_ok {s s' : State} {cs : List Cls} (h : s.classGate cs = .ok s') :
    s.cur.fork = none ∧ s.cur.cls ∈ cs ∧ s' = s := by
  unfold State.classGate at h
  split at h
  · exact nomatch h
  · split at h
    · exact ⟨by simpa using ‹¬s.cur.fork.isSome = true›, by simpa using ‹cs.contains s.cur.cls = true›, (Except.ok.inj h).symm⟩
    · exact nomatch h

/-- Delivering replies writes x and f registers and empties the queue. -/
theorem Strand.replyAll_eq (t : Strand) : ∃ x f, t.replyAll = { t with x := x, f := f, replyQ := [] } := by
  have one : ∀ (t : Strand) (r : Reply), ∃ x f, t.deliverReply r = { t with x := x, f := f } := by
    intro t r
    unfold Strand.deliverReply Strand.putF Strand.setX
    split
    · exact ⟨_, _, rfl⟩
    · split <;> exact ⟨_, _, rfl⟩
  have all : ∀ (l : List Reply) (t : Strand), ∃ x f, l.foldl (fun t r => t.deliverReply r) t = { t with x := x, f := f } := by
    intro l
    induction l with
    | nil => exact fun t => ⟨_, _, rfl⟩
    | cons r l ih =>
      intro t
      obtain ⟨x, f, h⟩ := one t r
      obtain ⟨x', f', h'⟩ := ih (t.deliverReply r)
      exact ⟨x', f', by rw [List.foldl_cons, h', h]⟩
  obtain ⟨x, f, h⟩ := all t.replyQ t
  exact ⟨x, f, by rw [Strand.replyAll, h]⟩

/-- A strand with no reply waiting keeps its registers. -/
theorem Strand.replyAll_nil {t : Strand} (h : t.replyQ = []) : t.replyAll = t := by
  unfold Strand.replyAll
  rw [h]
  cases t; cases h; rfl

theorem State.replyGate_ok {s : State} {cs : List Cls} {ks : List MReg} (h : Issues s cs ks) : s.replyGate cs ks = .ok s := by
  have hk : (ks.any fun k => s.cur.kdPend.contains k) = false := by
    simpa [List.any_eq_false] using h.2.2
  unfold State.replyGate
  rw [State.classGate_ok h.1 h.2.1, Res.bind_ok, hk]
  rfl

/-- A vector instruction whose issue has nothing in its way finds every earlier reply delivered. -/
theorem State.vectorGate_ok {s : State} {cs : List Cls} {ks : List MReg} (h : Issues s cs ks) :
    s.vectorGate cs ks = .ok s.delivered := by
  refine State.replyGate_ok ?_
  obtain ⟨x, f, e⟩ := s.cur.replyAll_eq
  unfold Issues State.onCur
  rw [e]
  exact h

theorem State.scalarGate_ok {s : State} {cs : List Cls} (hf : s.cur.fork = none) (hc : s.cur.cls ∈ cs) :
    s.scalarGate cs = .ok s.delivered := by
  obtain ⟨x, f, e⟩ := s.cur.replyAll_eq
  refine State.classGate_ok ?_ ?_ <;> simp only [State.onCur, e]
  · exact hf
  · exact hc

/-! ### Streams -/

theorem Strand.inputs_nil {t : Strand} {rs : List Reg} (h : ∀ r ∈ rs, t.boundTo r = none) : t.inputs rs = [] := by
  unfold Strand.inputs
  rw [List.filterMap_eq_nil_iff]
  intro r hr
  rw [h r (List.mem_eraseDups.1 hr)]

theorem Strand.outputs_nil {t : Strand} {rs : List Reg} (h : ∀ r ∈ rs, t.boundTo r = none) : t.outputs rs = [] := by
  unfold Strand.outputs
  rw [List.filterMap_eq_nil_iff]
  intro r hr
  rw [h r (List.mem_eraseDups.1 hr)]

/-- With no stream bound to a register of the instruction, issue changes nothing. -/
theorem State.streamIn_unbound {s : State} {reads writes : List Reg} (hr : ∀ r ∈ reads, s.cur.boundTo r = none)
    (hw : ∀ r ∈ writes, s.cur.boundTo r = none) : s.streamIn reads writes = .ok s := by
  have h1 := Strand.inputs_nil hr
  have h2 := Strand.outputs_nil hw
  have h3 := Strand.outputs_nil hr
  have h4 := Strand.inputs_nil hw
  simp [State.streamIn, h1, h2, h3, h4, State.onCur]

theorem State.streamOut_unbound {s : State} {writes : List Reg} (hw : ∀ r ∈ writes, s.cur.boundTo r = none) :
    s.streamOut writes = s := by
  simp [State.streamOut, Strand.outputs_nil hw]

/-- A vector computation instruction that issues, whose own check holds. -/
theorem State.vectorOp_ok {s s1 : State} {cs : List Cls} {ks : List MReg} {reads writes : List Reg} {ok : Strand → Bool}
    {body : Strand → Strand} (h : Issues s cs ks) (hok : ok s.delivered.cur = true)
    (hs : s.delivered.streamIn reads writes = .ok s1) :
    s.vectorOp cs ks reads writes ok body = .ok (((s1.onCur body).streamOut writes).vectorDone) := by
  unfold State.vectorOp
  rw [State.vectorGate_ok h, Res.bind_ok, hok, require_true, Res.bind_ok, hs]
  rfl

/-! ### Registers of the scalar agent -/

/-- x0 reads zero, whatever the strand runs. -/
@[simp] theorem Strand.getX_zero (t : Strand) : t.getX 0 = 0 := by simp [Strand.getX]

theorem Strand.getX_of_unforked {t : Strand} (h : t.fork = none) (r : Reg) : t.getX r = if r = 0 then 0 else t.x[r] := by
  simp [Strand.getX, h]

theorem Strand.putX_of_unforked {t : Strand} (h : t.fork = none) (r : Reg) (v : Word) :
    t.putX r v = if r = 0 then t else { t with x := t.x.set r v } := by
  simp [Strand.putX, h, Strand.setX]

/-- A write of x0 is discarded. -/
theorem Strand.putX_zero (t : Strand) (v : Word) : t.putX 0 v = t := by
  unfold Strand.putX Strand.setX
  split <;> rfl

/-! ### Releases (R188, R189) -/

theorem State.standsBy_iff (s : State) (u : Nat) (scalar vector : Bool) :
    s.standsBy u scalar vector = true ↔ StandsByOf s u scalar vector := by
  simp only [State.standsBy, StandsByOf, List.any_eq_true, Bool.and_eq_true, beq_iff_eq, Option.isNone_iff_eq_none]
  refine exists_congr fun r => and_congr_right fun _ => ⟨fun ⟨⟨hu, he⟩, hc⟩ => ⟨hu, he, ?_⟩, fun ⟨hu, he, hc⟩ => ⟨⟨hu, he⟩, ?_⟩⟩ <;>
    revert hc <;> cases r.combined <;> simp [hu]

/-- A release goes on once nothing that it covers stands by. -/
theorem State.releaseCur_ok {s : State} {scalar vector : Bool} (h : ¬StandsBy (s.flushCur scalar vector) scalar vector) :
    s.releaseCur scalar vector = .ok (s.flushCur scalar vector) :=
  if_neg (mt (State.standsBy_iff _ _ _ _).1 h)

/-- A release waits while something that it covers stands by, its buffers flushed. -/
theorem State.releaseCur_waits {s : State} {scalar vector : Bool} (h : StandsBy (s.flushCur scalar vector) scalar vector) :
    s.releaseCur scalar vector = .error (.wait .fence, s.flushCur scalar vector) :=
  if_pos ((State.standsBy_iff _ _ _ _).2 h)

/-- With nothing stalled nothing stands by. -/
theorem StandsByOf.not_of_nil {s : State} (h : s.coh.stalled = []) (u : Nat) (scalar vector : Bool) :
    ¬StandsByOf s u scalar vector := by
  rintro ⟨r, hr, -⟩
  simp [h] at hr

/-! ### Lists of elements written -/

theorem testBit_eq_fld (x b : Nat) : x.testBit b = (fld x b 1 == 1) := by
  rw [Nat.testBit_eq_decide_div_mod_eq, fld, Nat.pow_one]
  rfl

/-- A bit of a register outside an element written stays as it was. -/
theorem bit_setElem_other {v : Vector VReg 32} {g n eb i x : Nat} (hg : g ≤ 4) (hp : 0 < perReg g eb) {r : Fin 32} {b : Nat}
    (h : ¬(n + i / perReg g eb = r.val ∧ i % perReg g eb * eb ≤ b ∧ b < i % perReg g eb * eb + eb)) :
    ((setElem v g n eb i x)[r]).getLsbD b = (v[r]).getLsbD b := by
  have toD : ∀ w : Vector VReg 32, w[r] = w.getD r.val 0 := by intro w; simp [Vector.getD, Array.getD]
  rw [toD, toD]
  by_cases hr : r.val = n + i / perReg g eb
  · have hb : b + 1 ≤ i % perReg g eb * eb ∨ i % perReg g eb * eb + eb ≤ b := by omega
    rw [setElem, getD_setIfInBounds, if_pos ⟨hr, by omega⟩, ← hr]
    simp only [BitVec.getLsbD]
    rw [toNat_putNat _ _ (elem_room hg hp), testBit_eq_fld, testBit_eq_fld, fld_putNat_other hb]
  · rw [getD_setElem_other hr]

/-- Distinct elements of a group, written in any order, are exactly what `ElemsWritten` says. -/
theorem elemsWritten_setElems {g n eb : Nat} (hg : g ≤ 4) (hp : 0 < perReg g eb) (l : List (Nat × Nat))
    (hl : ∀ p ∈ l, n + p.1 / perReg g eb < 32) (hd : (l.map (·.1)).Nodup) (v : Vector VReg 32) (w : Nat → Option Nat)
    (hw : ∀ i x, w i = some x ↔ (i, x) ∈ l) : ElemsWritten v (setElems v g n eb l) g n eb w := by
  refine ⟨fun i x h => getElem_setElems hg hp l hl hd v (i, x) ((hw i x).1 h), fun r b h => ?_⟩
  have h' : ∀ p ∈ l,
      ¬(n + p.1 / perReg g eb = r.val ∧ p.1 % perReg g eb * eb ≤ b ∧ b < p.1 % perReg g eb * eb + eb) :=
    fun p hpl => h p.1 (by rw [(hw p.1 p.2).2 hpl]; rfl)
  clear hw h hl hd
  induction l generalizing v with
  | nil => rfl
  | cons p l ih =>
    show ((setElems (setElem v g n eb p.1 p.2) g n eb l)[r]).getLsbD b = _
    rw [ih _ (fun q hq => h' q (List.mem_cons_of_mem p hq)), bit_setElem_other hg hp (h' p List.mem_cons_self)]

end Sys2Proof.Machine
end

