-- ==== Sys2Proof/Laws/Launches.lean ====
section
/-! SUPPORT. What shared operations of the launch unit can do: the entry a held message takes (R207), and what an exception
and a class-miss make of the machine (R41, R274). -/

namespace Sys2Proof.Machine

/-! ### The overflow pool (R207) -/

/-- Some entry up to the number of held messages is free. -/
theorem Launch.exists_freeEntry (l : Launch) : ∃ i ≤ l.pool.length, ∀ h ∈ l.pool, h.slot ≠ i := by
  by_contra hc
  have hsub : Finset.range (l.pool.length + 1) ⊆ (l.pool.map (·.slot)).toFinset := by
    intro i hi
    by_contra hn
    refine hc ⟨i, Nat.lt_succ_iff.mp (Finset.mem_range.mp hi), fun h hm he => hn ?_⟩
    exact List.mem_toFinset.mpr (List.mem_map.mpr ⟨h, hm, he⟩)
  have := (Finset.card_le_card hsub).trans (List.toFinset_card_le _)
  simp at this

/-- No held message stands in the entry that the next one takes, and the entries taken stay below the messages held. -/
theorem Launch.freeEntry_spec (l : Launch) : l.freeEntry ≤ l.pool.length ∧ ∀ h ∈ l.pool, h.slot ≠ l.freeEntry := by
  obtain ⟨i, hi, hf⟩ := l.exists_freeEntry
  unfold Launch.freeEntry
  cases he : (List.range (l.pool.length + 1)).find? fun i => !(l.pool.any fun h => h.slot == i) with
  | none =>
    have := List.find?_eq_none.mp he i (List.mem_range.mpr (by omega))
    simp only [Bool.not_eq_true, Bool.not_eq_false', List.any_eq_true, beq_iff_eq] at this
    obtain ⟨h, hm, hs⟩ := this
    exact absurd hs (hf h hm)
  | some j =>
    have hj := List.mem_range.mp (List.mem_of_find?_eq_some he)
    have hn := List.find?_some he
    simp only [Bool.not_eq_true', List.any_eq_false, beq_iff_eq] at hn
    exact ⟨by simpa using Nat.lt_succ_iff.mp hj, hn⟩

/-! ### Events that wait (R303) -/

theorem State.orWait_held {s : State} {e : Event} (f : State → State) (h : e ∉ s.lu.waiting) :
    s.orWait e true f = { s with lu := { s.lu with waiting := s.lu.waiting ++ [e] } } := by
  simp [State.orWait, h]

theorem State.orWait_stands {s : State} {e : Event} (f : State → State) (h : e ∈ s.lu.waiting) : s.orWait e true f = s := by
  simp [State.orWait, h]

theorem State.orWait_free {s : State} {e : Event} (f : State → State) (h : e ∉ s.lu.waiting) :
    s.orWait e false f = f s := by
  simp [State.orWait, List.erase_of_not_mem h]

/-! ### Exceptions -/

theorem State.takeExc_wait (s : State) (w : Wait) : s.takeExc (.wait w) = s.onCur (·.setStatus (.waiting w)) := rfl

theorem State.takeExc_classMiss (s : State) (cs : List Cls) : s.takeExc (.classMiss cs) = s.classMissed cs := rfl

theorem State.takeExc_launch (s : State) (cls addr acc : Nat) (entry : Option BmEntry) :
    s.takeExc (.launch cls addr acc entry) = (s.faultWalk s.cur.ctx cls addr).launchFault cls addr acc entry := rfl

/-- A class-miss of a program's strand that no fork holds: class absent, pinned, or a request to the carrier (R24, R41). -/
theorem State.classMissed_user {s : State} (cs : List Cls) (hm : s.cur.mode = .u) (hs : s.cur.system = false)
    (hf : s.cur.fork = none) :
    s.classMissed cs =
      if !(cs.any fun c => s.classPresent c) then s.launchFault 0x02 0 0 none
      else if s.cur.pinned then s.launchFault 0x03 0 0 none
      else
        { (s.onCur fun t => { t with status := .moving (.classes cs), asked := s.nextAsk }) with nextAsk := s.nextAsk + 1 } := by
  simp [State.classMissed, hm, hs, hf]

/-- A launch fault of a program's strand off the control cores stops it before its trap (R274). -/
theorem State.launchFault_stops {s : State} (cls addr acc : Nat) (entry : Option BmEntry) (hm : s.cur.mode = .u)
    (hs : s.cur.system = false) (hc : s.cur.cls ≠ .control) :
    s.launchFault cls addr acc entry = s.stopAt 2 cls [(addr, 2, acc)] entry := by
  simp [State.launchFault, hm, hs, hc]

end Sys2Proof.Machine
end

