-- ==== Sys2Proof/Laws/Memory.lean ====
section
/-! SUPPORT. Memory in canonical form: every operation keeps the form, and what is read after a write. -/

namespace Sys2Proof.Machine

/-! ### The canonical form is kept -/

theorem Mem.wfAbove_mono {lo lo' : Nat} (h : lo' ≤ lo) : ∀ {m : Mem}, Mem.wfAbove lo m = true → Mem.wfAbove lo' m = true
  | [], _ => rfl
  | (a, b) :: m, hw => by
    simp only [Mem.wfAbove, Bool.and_eq_true, decide_eq_true_eq] at hw ⊢
    exact ⟨⟨by omega, hw.1.2⟩, hw.2⟩

theorem Mem.wfAbove_set {lo a : Nat} {v : Byte} (h : lo ≤ a) :
    ∀ {m : Mem}, Mem.wfAbove lo m = true → Mem.wfAbove lo (m.set a v) = true := by
  intro m
  induction m generalizing lo with
  | nil => intro _; by_cases e : v = unlisted <;> simp [Mem.set, Mem.wfAbove, e, h]
  | cons c m ih =>
    obtain ⟨b, w⟩ := c
    intro hw
    simp only [Mem.wfAbove, Bool.and_eq_true, decide_eq_true_eq] at hw
    obtain ⟨⟨h1, h2⟩, h3⟩ := hw
    simp only [Mem.set]
    split
    · split <;> simp only [Mem.wfAbove, Bool.and_eq_true, decide_eq_true_eq, bne_iff_ne]
      · exact ⟨⟨h1, by simpa using h2⟩, h3⟩
      · exact ⟨⟨h, ‹_›⟩, ⟨by omega, by simpa using h2⟩, h3⟩
    · split
      · split
        · exact Mem.wfAbove_mono (by omega) h3
        · simp only [Mem.wfAbove, Bool.and_eq_true, decide_eq_true_eq, bne_iff_ne]
          subst b
          exact ⟨⟨h, ‹_›⟩, h3⟩
      · simp only [Mem.wfAbove, Bool.and_eq_true, decide_eq_true_eq]
        exact ⟨⟨h1, h2⟩, ih (by omega) h3⟩

theorem Mem.wf_nil : Mem.wf [] = true := rfl

theorem Mem.wf_set {m : Mem} (a : Nat) (v : Byte) (h : m.wf = true) : (m.set a v).wf = true :=
  Mem.wfAbove_set (Nat.zero_le a) h

theorem Mem.wf_write {m : Mem} (a : Nat) (bs : List Byte) (h : m.wf = true) : (m.write a bs).wf = true := by
  induction bs generalizing m a with
  | nil => exact h
  | cons b bs ih => exact ih (a + 1) (Mem.wf_set a b h)

theorem Mem.wf_writeNat {m : Mem} (a n v : Nat) (h : m.wf = true) : (m.writeNat a n v).wf = true := Mem.wf_write a _ h

theorem Mem.wfAbove_filter (p : Host.Cell → Bool) {lo : Nat} : ∀ {m : Mem}, Mem.wfAbove lo m = true →
    Mem.wfAbove lo (m.filter p) = true := by
  intro m
  induction m generalizing lo with
  | nil => intro _; rfl
  | cons c m ih =>
    obtain ⟨b, w⟩ := c
    intro hw
    simp only [Mem.wfAbove, Bool.and_eq_true, decide_eq_true_eq] at hw
    simp only [List.filter_cons]
    split
    · simp only [Mem.wfAbove, Bool.and_eq_true, decide_eq_true_eq]
      exact ⟨hw.1, ih hw.2⟩
    · exact Mem.wfAbove_mono (by omega) (ih hw.2)

theorem Mem.wf_filter {m : Mem} (p : Host.Cell → Bool) (h : m.wf = true) : Mem.wf (m.filter p) = true :=
  Mem.wfAbove_filter p h

theorem Mem.wf_zero {m : Mem} (a n : Nat) (h : m.wf = true) : (m.zero a n).wf = true := Mem.wf_filter _ h

/-! ### Reading after writing -/

theorem Mem.get_below {lo a : Nat} (h : a < lo) : ∀ {m : Mem}, Mem.wfAbove lo m = true → m.get a = unlisted
  | [], _ => rfl
  | (b, w) :: m, hw => by
    simp only [Mem.wfAbove, Bool.and_eq_true, decide_eq_true_eq] at hw
    simp only [Mem.get, if_neg (show a ≠ b by omega), if_pos (show a < b by omega)]

/-- A byte read after a byte written: the value written at its address, and elsewhere what was there. -/
theorem Mem.get_set {a : Nat} (v : Byte) (b : Nat) :
    ∀ {lo : Nat} {m : Mem}, Mem.wfAbove lo m = true → (m.set a v).get b = if b = a then v else m.get b := by
  intro lo m
  induction m generalizing lo with
  | nil =>
    intro _
    by_cases e : v = unlisted <;> by_cases h : b = a <;> simp [Mem.set, Mem.get, e, h]
  | cons c m ih =>
    obtain ⟨d, w⟩ := c
    intro hw
    simp only [Mem.wfAbove, Bool.and_eq_true, decide_eq_true_eq] at hw
    obtain ⟨⟨_, _⟩, h3⟩ := hw
    simp only [Mem.set]
    split
    · split
      · by_cases h : b = a
        · subst h
          simp only [if_true, Mem.get, if_neg (show b ≠ d by omega), if_pos (show b < d by omega)]
          exact (‹v = unlisted›).symm
        · simp only [if_neg h]
      · by_cases h : b = a
        · simp [Mem.get, h]
        · simp only [Mem.get, if_neg h]
          by_cases h' : b < a
          · simp only [if_pos h', if_neg (show b ≠ d by omega), if_pos (show b < d by omega)]
          · simp only [if_neg h']
    · split
      · subst d
        split
        · by_cases h : b = a
          · subst h
            rw [if_pos rfl, Mem.get_below (Nat.lt_succ_self b) h3]
            exact (‹v = unlisted›).symm
          · simp only [if_neg h, Mem.get]
            by_cases h' : b < a
            · simp only [if_pos h']
              exact Mem.get_below (by omega) h3
            · simp only [if_neg h']
        · by_cases h : b = a <;> simp [Mem.get, h]
      · simp only [Mem.get]
        by_cases h : b = a
        · subst h
          simp only [if_neg (show b ≠ d by omega), if_neg (show ¬ b < d by omega), if_true]
          rw [ih h3, if_pos rfl]
        · rw [ih h3, if_neg h, if_neg h]

theorem Mem.get_set_same {m : Mem} (a : Nat) (v : Byte) (h : m.wf = true) : (m.set a v).get a = v := by
  rw [Mem.get_set v a h, if_pos rfl]

theorem Mem.get_set_other {m : Mem} {a b : Nat} (v : Byte) (hb : b ≠ a) (h : m.wf = true) : (m.set a v).get b = m.get b := by
  rw [Mem.get_set v b h, if_neg hb]

/-- A byte read after bytes written: the byte written there, and outside them what was there. -/
theorem Mem.get_write {m : Mem} (a : Nat) (bs : List Byte) (h : m.wf = true) (b : Nat) :
    (m.write a bs).get b = if a ≤ b ∧ b < a + bs.length then bs.getD (b - a) unlisted else m.get b := by
  induction bs generalizing m a with
  | nil => simp [Mem.write, show ¬ (a ≤ b ∧ b < a) by omega]
  | cons c bs ih =>
    rw [Mem.write, ih (a + 1) (Mem.wf_set a c h)]
    by_cases h1 : a + 1 ≤ b ∧ b < a + 1 + bs.length
    · rw [if_pos h1, if_pos (by simp only [List.length_cons]; omega)]
      obtain ⟨k, hk⟩ : ∃ k, b - a = k + 1 := ⟨b - a - 1, by omega⟩
      rw [hk, show b - (a + 1) = k by omega, List.getD_cons_succ]
    · rw [if_neg h1]
      by_cases h2 : b = a
      · subst h2
        rw [Mem.get_set_same b c h, if_pos (by simp only [List.length_cons]; omega), Nat.sub_self, List.getD_cons_zero]
      · rw [Mem.get_set_other c h2 h, if_neg (by simp only [List.length_cons]; omega)]

/-- A write leaves every byte outside it. -/
theorem Mem.get_write_other {m : Mem} {a b : Nat} (bs : List Byte) (h : m.wf = true) (hb : b < a ∨ a + bs.length ≤ b) :
    (m.write a bs).get b = m.get b := by
  rw [Mem.get_write a bs h, if_neg (by omega)]

theorem Mem.read_eq (m : Mem) (a n : Nat) : m.read a n = (List.range n).map fun i => m.get (a + i) := by
  induction n generalizing a with
  | zero => rfl
  | succ n ih =>
    rw [Mem.read, ih, List.range_succ_eq_map]
    simp [Function.comp_def, Nat.add_comm, Nat.add_left_comm]

theorem Mem.length_read (m : Mem) (a n : Nat) : (m.read a n).length = n := by simp [Mem.read_eq]

/-- Bytes written are the bytes read back. -/
theorem Mem.read_write_same {m : Mem} (a : Nat) (bs : List Byte) (h : m.wf = true) :
    (m.write a bs).read a bs.length = bs := by
  refine List.ext_getElem (by simp [Mem.length_read]) fun i h1 h2 => ?_
  simp only [Mem.read_eq, List.getElem_map, List.getElem_range]
  rw [Mem.get_write a bs h, if_pos (by omega), Nat.add_sub_cancel_left]
  simp [List.getD_eq_getElem?_getD, h2]

/-- A range that a write does not touch reads as before. -/
theorem Mem.read_write_other {m : Mem} {a b n : Nat} (bs : List Byte) (h : m.wf = true)
    (hb : b + n ≤ a ∨ a + bs.length ≤ b) : (m.write a bs).read b n = m.read b n := by
  simp only [Mem.read_eq]
  refine List.map_congr_left fun i hi => ?_
  have := List.mem_range.1 hi
  exact Mem.get_write_other bs h (by omega)

/-! ### The three physical spaces -/

/-- The three spaces are in canonical form. -/
def State.SpacesWf (s : State) : Prop := s.dev.wf = true ∧ s.host.wf = true ∧ s.peer.wf = true

theorem State.spacesWf_rekeyLine {s : State} (line key : Nat) (h : s.SpacesWf) : (s.rekeyLine line key).SpacesWf := by
  unfold State.rekeyLine
  split
  · exact h
  · generalize (List.range 128).map _ = bs
    exact ⟨Mem.wf_write _ bs h.1, h.2⟩

theorem State.spacesWf_foldl {α : Type} {f : State → α → State} (hf : ∀ (s : State) (a : α), s.SpacesWf → (f s a).SpacesWf) :
    ∀ (l : List α) {s : State}, s.SpacesWf → (l.foldl f s).SpacesWf
  | [], _, h => h
  | a :: l, s, h => State.spacesWf_foldl hf l (hf s a h)

theorem State.spacesWf_rekey {s : State} (a n key : Nat) (h : s.SpacesWf) : (s.rekey a n key).SpacesWf := by
  unfold State.rekey
  split
  · exact h
  · exact State.spacesWf_foldl (fun _ i hs => State.spacesWf_rekeyLine (lineOf a + i) key hs) _ h

theorem State.spacesWf_mapStrands {s : State} (f : Strand → Strand) (h : s.SpacesWf) : (s.mapStrands f).SpacesWf := h

theorem State.spacesWf_breakRes {s : State} (sp : Space) (a n : Nat) (who : Option Nat) (h : s.SpacesWf) :
    (s.breakRes sp a n who).SpacesWf :=
  State.spacesWf_foldl (fun _ _ hs => State.spacesWf_mapStrands _ hs) _ h

/-- A write at a physical place keeps every space in canonical form. -/
theorem State.spacesWf_writePhys {s : State} (p : Phys) (bs : List Byte) (who : Option Nat) (h : s.SpacesWf) :
    (s.writePhys p bs who).SpacesWf := by
  unfold State.writePhys
  split
  · exact State.spacesWf_breakRes _ _ _ _
      ⟨Mem.wf_write _ _ (State.spacesWf_rekey _ _ _ h).1, (State.spacesWf_rekey _ _ _ h).2⟩
  · refine State.spacesWf_breakRes _ _ _ _ ?_
    cases p.space
    · exact ⟨Mem.wf_write _ _ h.1, h.2⟩
    · exact ⟨h.1, Mem.wf_write _ _ h.2.1, h.2.2⟩
    · exact ⟨h.1, h.2.1, Mem.wf_write _ _ h.2.2⟩

theorem State.spacesWf_reset : State.reset.SpacesWf := ⟨rfl, rfl, rfl⟩

/-! ### Lists in order -/

theorem insertBy_length {α : Type} (lt : α → α → Bool) (a : α) (l : List α) : (insertBy lt a l).length = l.length + 1 := by
  induction l with
  | nil => rfl
  | cons b l ih => unfold insertBy; split <;> simp [ih]

theorem mem_insertBy {α : Type} (lt : α → α → Bool) (a x : α) (l : List α) : x ∈ insertBy lt a l ↔ x = a ∨ x ∈ l := by
  induction l with
  | nil => simp [insertBy]
  | cons b l ih =>
    unfold insertBy
    split
    · simp
    · simp only [List.mem_cons, ih]; constructor <;> rintro (h | h | h) <;> simp [h]

/-- Putting a list in order keeps its elements. -/
theorem mem_sortBy {α : Type} (lt : α → α → Bool) (l : List α) (x : α) : x ∈ sortBy lt l ↔ x ∈ l := by
  have go : ∀ (l acc : List α), x ∈ l.foldl (fun acc a => insertBy lt a acc) acc ↔ x ∈ l ∨ x ∈ acc := by
    intro l
    induction l with
    | nil => simp
    | cons a l ih =>
      intro acc
      rw [List.foldl_cons, ih, mem_insertBy, List.mem_cons]
      tauto
  simpa [sortBy] using go l []

end Sys2Proof.Machine
end

