-- ==== Sys2Proof/Laws/PerInstr.lean ====
section
/-! SUPPORT. Statements made once for each instruction as syntax: an instruction's words fit the length that
their own low bits announce (R47). -/

namespace Sys2Proof.Laws.EncodeFits

open Sys2Proof

/-- The words encode gives fit their length: 32-bit words carry the low bits of a 32-bit parcel, 64-bit words the
low bits of a 64-bit one (R47). -/
def Statement (i : Instr) : Prop :=
  ∀ n w : Nat, encode i = some (n, w) →
    (n = 32 ∧ w < 2 ^ 32 ∧ w % 4 = 3 ∧ w / 4 % 8 ≠ 7) ∨ (n = 64 ∧ w < 2 ^ 64 ∧ w % 128 = 63) ∨ (n = 16 ∧ w < 2 ^ 16)

/-- A 32-bit word with the low bits of a 32-bit parcel. -/
def Fits32 (x : Nat) : Prop := x < 2 ^ 32 ∧ x % 4 = 3 ∧ x / 4 % 8 ≠ 7

/-- A 64-bit word with the low bits of a 64-bit parcel. -/
def Fits64 (x : Nat) : Prop := x < 2 ^ 64 ∧ x % 128 = 63

theorem of32 {i : Instr} {x : Nat} (h : encode i = some (32, x)) (p : Fits32 x) : Statement i := by
  intro n w e
  obtain ⟨rfl, rfl⟩ := Prod.mk.inj (Option.some.inj (h.symm.trans e))
  exact .inl ⟨rfl, p⟩

theorem of64 {i : Instr} {x : Nat} (h : encode i = some (64, x)) (p : Fits64 x) : Statement i := by
  intro n w e
  obtain ⟨rfl, rfl⟩ := Prod.mk.inj (Option.some.inj (h.symm.trans e))
  exact .inr (.inl ⟨rfl, p⟩)

theorem ofNone {i : Instr} (h : encode i = none) : Statement i := by
  intro n w e
  exact absurd (h.symm.trans e) (by simp)

/-! ### Fields -/

/-- A base whose fields, at most m in all, leave it a 32-bit word. -/
def Room (base m : Nat) : Prop := base + m < 2 ^ 32 ∧ base % 4 = 3 ∧ base / 4 % 8 ≠ 7

/-! ### Operand forms -/

theorem packVV_fits {base : Nat} (a : FVV) (h : Room base 0xFFF8F80) : Fits32 (packVV base a) := by
  have h0 := Bool.toNat_le a.vm
  have h1 := Bool.toNat_le a.c2
  have h2 := Bool.toNat_le a.c1
  have h3 := a.vs2.isLt
  have h4 := a.vs1.isLt
  have h5 := a.vd.isLt
  simp only [packVV, bit, reg, Room, Fits32] at *; omega

theorem packVX_fits {base : Nat} (a : FVX) (h : Room base 0xDFF8F80) : Fits32 (packVX base a) := by
  have h0 := Bool.toNat_le a.vm
  have h1 := Bool.toNat_le a.c2
  have h2 := a.vs2.isLt
  have h3 := a.rs1.isLt
  have h4 := a.vd.isLt
  simp only [packVX, bit, reg, Room, Fits32] at *; omega

theorem packVI_fits {base : Nat} (a : FVI) (h : Room base 0xDFF8F80) : Fits32 (packVI base a) := by
  have h0 := Bool.toNat_le a.vm
  have h1 := Bool.toNat_le a.c2
  have h2 := a.vs2.isLt
  have h3 := a.imm.isLt
  have h4 := a.vd.isLt
  simp only [packVI, bit, bits, reg, Room, Fits32] at *; omega

theorem packVU_fits {base : Nat} (a : FVU) (h : Room base 0xDF00F80) : Fits32 (packVU base a) := by
  have h0 := Bool.toNat_le a.vm
  have h1 := Bool.toNat_le a.c2
  have h2 := a.vs2.isLt
  have h3 := a.vd.isLt
  simp only [packVU, bit, reg, Room, Fits32] at *; omega

theorem packVUS_fits {base : Nat} (a : FVUS) (h : Room base 0xFF00F80) : Fits32 (packVUS base a) := by
  have h0 := Bool.toNat_le a.vm
  have h1 := Bool.toNat_le a.c2
  have h2 := Bool.toNat_le a.sat
  have h3 := a.vs2.isLt
  have h4 := a.vd.isLt
  simp only [packVUS, bit, reg, Room, Fits32] at *; omega

theorem packVXS_fits {base : Nat} (a : FVXS) (h : Room base 0xFFF8F80) : Fits32 (packVXS base a) := by
  have h0 := Bool.toNat_le a.vm
  have h1 := Bool.toNat_le a.c2
  have h2 := Bool.toNat_le a.sat
  have h3 := a.vs2.isLt
  have h4 := a.rs1.isLt
  have h5 := a.vd.isLt
  simp only [packVXS, bit, reg, Room, Fits32] at *; omega

theorem packKVV_fits {base : Nat} (a : FKVV) (h : Room base 0xFFF8F80) : Fits32 (packKVV base a) := by
  have h0 := Bool.toNat_le a.vm
  have h1 := Bool.toNat_le a.c2
  have h2 := Bool.toNat_le a.c1
  have h3 := a.vs2.isLt
  have h4 := a.vs1.isLt
  have h5 := a.kd.isLt
  simp only [packKVV, bit, reg, Room, Fits32] at *; omega

theorem packKVX_fits {base : Nat} (a : FKVX) (h : Room base 0xDFF8F80) : Fits32 (packKVX base a) := by
  have h0 := Bool.toNat_le a.vm
  have h1 := Bool.toNat_le a.c2
  have h2 := a.vs2.isLt
  have h3 := a.rs1.isLt
  have h4 := a.kd.isLt
  simp only [packKVX, bit, reg, Room, Fits32] at *; omega

theorem packKVI_fits {base : Nat} (a : FKVI) (h : Room base 0xDFF8F80) : Fits32 (packKVI base a) := by
  have h0 := Bool.toNat_le a.vm
  have h1 := Bool.toNat_le a.c2
  have h2 := a.vs2.isLt
  have h3 := a.imm.isLt
  have h4 := a.kd.isLt
  simp only [packKVI, bit, bits, reg, Room, Fits32] at *; omega

theorem packVM_fits {base : Nat} (a : FVM) (h : Room base 0x1E0F8F80) : Fits32 (packVM base a) := by
  have h0 := Bool.toNat_le a.vm
  have h1 := a.w.isLt
  have h2 := a.base.isLt
  have h3 := a.vd.isLt
  simp only [packVM, bit, reg, Room, Fits32] at *; omega

theorem packVMC_fits {base : Nat} (a : FVMC) (h : Room base 0x260F8F80) : Fits32 (packVMC base a) := by
  have h0 := Bool.toNat_le a.vm
  have h1 := Bool.toNat_le a.c
  have h2 := a.w.isLt
  have h3 := a.base.isLt
  have h4 := a.vd.isLt
  simp only [packVMC, bit, reg, Room, Fits32] at *; omega

theorem packVM2_fits {base : Nat} (a : FVM2) (h : Room base 0x1FFF8F80) : Fits32 (packVM2 base a) := by
  have h0 := Bool.toNat_le a.vm
  have h1 := a.w.isLt
  have h2 := a.src2.isLt
  have h3 := a.base.isLt
  have h4 := a.vd.isLt
  simp only [packVM2, bit, reg, Room, Fits32] at *; omega

theorem packVM2C_fits {base : Nat} (a : FVM2C) (h : Room base 0x27FF8F80) : Fits32 (packVM2C base a) := by
  have h0 := Bool.toNat_le a.vm
  have h1 := Bool.toNat_le a.c
  have h2 := a.w.isLt
  have h3 := a.src2.isLt
  have h4 := a.base.isLt
  have h5 := a.vd.isLt
  simp only [packVM2C, bit, reg, Room, Fits32] at *; omega

theorem packAmo_fits {base : Nat} (a : FAmo) (h : Room base 0xFFFFF80) : Fits32 (packAmo base a) := by
  have h0 := Bool.toNat_le a.vm
  have h1 := Bool.toNat_le a.aq
  have h2 := Bool.toNat_le a.rl
  have h3 := a.vs2.isLt
  have h4 := a.base.isLt
  have h5 := a.scope.isLt
  have h6 := a.vd.isLt
  simp only [packAmo, bit, reg, Room, Fits32] at *; omega

theorem packWait_fits {base : Nat} (a : FWait) (h : Room base 0x9FF8F80) : Fits32 (packWait base a) := by
  have h0 := Bool.toNat_le a.vm
  have h1 := a.vs2.isLt
  have h2 := a.base.isLt
  have h3 := a.vs3.isLt
  simp only [packWait, bit, reg, Room, Fits32] at *; omega

theorem packLink_fits (a : FLink) : Fits32 (packLink 0x4000505B 26 a) ∧ Fits32 (packLink 0x5000505B 25 a) := by
  have h0 := Bool.toNat_le a.vm
  have h1 := Bool.toNat_le a.ord
  have h2 := a.vs2.isLt
  have h3 := a.base.isLt
  have h4 := a.vd.isLt
  simp only [packLink, bit, reg, Fits32]; omega

/-! ### The scalar formats -/

/-- A major opcode of a 32-bit parcel. -/
def Major (op : Nat) : Prop := op < 128 ∧ op % 4 = 3 ∧ op / 4 % 8 ≠ 7

theorem fld_lt (w lo n : Nat) : fld w lo n < 2 ^ n := Nat.mod_lt _ (Nat.two_pow_pos n)

theorem packR_fits {op f3 f7 : Nat} (rd rs1 rs2 : Reg) (h : Major op) (h3 : f3 < 8) (h7 : f7 < 128) :
    Fits32 (packR op f3 f7 rd rs1 rs2) := by
  have a := rd.isLt; have b := rs1.isLt; have c := rs2.isLt
  simp only [packR, reg, Major, Fits32] at *; omega

theorem packI_fits {op f3 imm : Nat} (rd rs1 : Reg) (h : Major op) (h3 : f3 < 8) (hi : imm < 4096) :
    Fits32 (packI op f3 rd rs1 imm) := by
  have a := rd.isLt; have b := rs1.isLt
  simp only [packI, reg, Major, Fits32] at *; omega

theorem packS_fits {op f3 : Nat} (rs1 rs2 : Reg) (imm : BitVec 12) (h : Major op) (h3 : f3 < 8) :
    Fits32 (packS op f3 rs1 rs2 imm) := by
  have a := rs1.isLt; have b := rs2.isLt
  have c := fld_lt imm.toNat 5 7; have d := fld_lt imm.toNat 0 5
  simp only [packS, reg, Major, Fits32] at *; omega

theorem packB_fits {f3 : Nat} (rs1 rs2 : Reg) (off : BitVec 13) (h3 : f3 < 8) : Fits32 (packB f3 rs1 rs2 off) := by
  have a := rs1.isLt; have b := rs2.isLt
  have c := fld_lt off.toNat 12 1; have d := fld_lt off.toNat 5 6
  have e := fld_lt off.toNat 1 4; have f := fld_lt off.toNat 11 1
  simp only [packB, reg, Fits32] at *; omega

theorem packJ_fits (rd : Reg) (off : BitVec 21) : Fits32 (packJ rd off) := by
  have a := rd.isLt
  have c := fld_lt off.toNat 20 1; have d := fld_lt off.toNat 1 10
  have e := fld_lt off.toNat 11 1; have f := fld_lt off.toNat 12 8
  simp only [packJ, reg, Fits32] at *; omega

theorem packCsr_fits (a : FCsr) : Fits32 (packCsr a) :=
  packI_fits _ _ (by unfold Major; decide) (by cases a.op <;> cases a.imm <;> decide) a.csr.isLt

theorem fpCode_lt {f5 : Nat} (dbl : Bool) (h : f5 < 32) : fpCode f5 dbl < 128 := by
  have := Bool.toNat_le dbl; unfold fpCode; omega

theorem amoCode_lt {f5 : Nat} (aq rl : Bool) (h : f5 < 32) : amoCode f5 aq rl < 128 := by
  have := Bool.toNat_le aq; have := Bool.toNat_le rl; unfold amoCode; omega

theorem encodeScalar_fits (x : Scalar) : Fits32 (encodeScalar x) := by
  have mj : ∀ o : Nat, (o < 128 && o % 4 == 3 && o / 4 % 8 != 7) = true → Major o := by
    intro o h; simp at h; unfold Major; omega
  have dw : ∀ d : Bool, 2 + d.toNat < 8 := by intro d; cases d <;> decide
  cases x with
  | lui rd imm => have a := rd.isLt; have b := imm.isLt; simp only [encodeScalar, bits, reg, Fits32]; omega
  | auipc rd imm => have a := rd.isLt; have b := imm.isLt; simp only [encodeScalar, bits, reg, Fits32]; omega
  | jal rd off => exact packJ_fits rd off
  | jalr rd rs1 imm => exact packI_fits _ _ (mj _ rfl) (by decide) imm.isLt
  | branch op rs1 rs2 off => exact packB_fits _ _ _ (by cases op <;> decide)
  | load op rd rs1 imm => exact packI_fits _ _ (mj _ rfl) (by cases op <;> decide) imm.isLt
  | store op rs1 rs2 imm => exact packS_fits _ _ _ (mj _ rfl) (by cases op <;> decide)
  | aluI op rd rs1 imm => exact packI_fits _ _ (mj _ (by cases op <;> rfl)) (by cases op <;> decide) imm.isLt
  | shI op rd rs1 sh =>
    exact packI_fits _ _ (mj _ (by cases op <;> rfl)) (by cases op <;> decide)
      (by have := sh.isLt; cases op <;> simp only [ShIOp.code] <;> omega)
  | shIW op rd rs1 sh =>
    exact packI_fits _ _ (mj _ rfl) (by cases op <;> decide)
      (by have := sh.isLt; cases op <;> simp only [ShIWOp.code] <;> omega)
  | alu op rd rs1 rs2 =>
    exact packR_fits _ _ _ (mj _ (by cases op <;> rfl)) (by cases op <;> decide) (by cases op <;> decide)
  | aluW op rd rs1 rs2 => exact packR_fits _ _ _ (mj _ rfl) (by cases op <;> decide) (by cases op <;> decide)
  | un op rd rs1 => exact packI_fits _ _ (mj _ (by cases op <;> rfl)) (by cases op <;> decide) (by cases op <;> decide)
  | lr dbl aq rl rd rs1 => exact packR_fits _ _ _ (mj _ rfl) (dw dbl) (amoCode_lt _ _ (by decide))
  | sc dbl aq rl rd rs1 rs2 => exact packR_fits _ _ _ (mj _ rfl) (dw dbl) (amoCode_lt _ _ (by decide))
  | amo op dbl aq rl rd rs1 rs2 =>
    exact packR_fits _ _ _ (mj _ rfl) (dw dbl) (amoCode_lt _ _ (by cases op <;> decide))
  | fload dbl rd rs1 imm => exact packI_fits _ _ (mj _ rfl) (dw dbl) imm.isLt
  | fstore dbl rs1 rs2 imm => exact packS_fits _ _ _ (mj _ rfl) (dw dbl)
  | fbin op dbl rm rd rs1 rs2 =>
    exact packR_fits _ _ _ (mj _ rfl) rm.isLt (fpCode_lt _ (by cases op <;> decide))
  | fsqrt dbl rm rd rs1 => exact packR_fits _ _ _ (mj _ rfl) rm.isLt (fpCode_lt _ (by decide))
  | fma op dbl rm rd rs1 rs2 rs3 =>
    exact packR_fits _ _ _ (mj _ (by cases op <;> rfl)) rm.isLt
      (by have := rs3.isLt; have := Bool.toNat_le dbl; omega)
  | fsgn op dbl rd rs1 rs2 => exact packR_fits _ _ _ (mj _ rfl) (by cases op <;> decide) (fpCode_lt _ (by decide))
  | fminmax isMax dbl rd rs1 rs2 =>
    exact packR_fits _ _ _ (mj _ rfl) (by cases isMax <;> decide) (fpCode_lt _ (by decide))
  | fcmp op dbl rd rs1 rs2 => exact packR_fits _ _ _ (mj _ rfl) (by cases op <;> decide) (fpCode_lt _ (by decide))
  | fclass dbl rd rs1 => exact packR_fits _ _ _ (mj _ rfl) (by decide) (fpCode_lt _ (by decide))
  | fcvtToInt fmt dbl rm rd rs1 => exact packR_fits _ _ _ (mj _ rfl) rm.isLt (fpCode_lt _ (by decide))
  | fcvtFromInt fmt dbl rm rd rs1 => exact packR_fits _ _ _ (mj _ rfl) rm.isLt (fpCode_lt _ (by decide))
  | fcvtSD rm rd rs1 => exact packR_fits _ _ _ (mj _ rfl) rm.isLt (by decide)
  | fcvtDS rm rd rs1 => exact packR_fits _ _ _ (mj _ rfl) rm.isLt (by decide)
  | fmvXF dbl rd rs1 => exact packR_fits _ _ _ (mj _ rfl) (by decide) (fpCode_lt _ (by decide))
  | fmvFX dbl rd rs1 => exact packR_fits _ _ _ (mj _ rfl) (by decide) (fpCode_lt _ (by decide))
  | csr a => exact packCsr_fits a
  | sret => simp only [encodeScalar, Fits32]; decide
  | mret => simp only [encodeScalar, Fits32]; decide
  | wfi => simp only [encodeScalar, Fits32]; decide
  | sfenceVma rs1 rs2 => exact packR_fits _ _ _ (mj _ rfl) (by decide) (by decide)

theorem packMask_le (kd : Option MReg) : packMask kd ≤ 2 ^ 30 + 896 ∧ packMask kd % 128 = 0 := by
  cases kd with
  | none => decide
  | some k => have := k.isLt; simp only [packMask, reg]; omega

theorem packCopy_fits {fn6 : Nat} (a : FCopy) (h : fn6 < 64) : packCopy fn6 a < 2 ^ 64 - 2 ^ 48 ∧
    packCopy fn6 a % 128 = 63 := by
  have h0 := a.ch.isLt; have h1 := a.base.isLt; have h2 := packMask_le a.kd
  simp only [packCopy, packL, reg]; omega

theorem packCopyV_fits {fn6 : Nat} (a : FCopyV) (h : fn6 < 64) : Fits64 (packCopyV fn6 a) := by
  have h0 := a.ch.isLt; have h1 := a.base.isLt; have h2 := packMask_le a.kd
  have h3 := a.vs2.isLt; have h4 := Bool.toNat_le a.c
  simp only [packCopyV, packL, reg, bit, Fits64]; omega

/-! ### One lemma for each instruction -/

theorem vaddVv : ∀ a, Statement (.vaddVv a) := fun a => of32 rfl (packVV_fits a (by unfold Room; decide))
theorem vsubVv : ∀ a, Statement (.vsubVv a) := fun a => of32 rfl (packVV_fits a (by unfold Room; decide))
theorem vmulVv : ∀ a, Statement (.vmulVv a) := fun a => of32 rfl (packVV_fits a (by unfold Room; decide))
theorem vmulhVv : ∀ a, Statement (.vmulhVv a) := fun a => of32 rfl (packVV_fits a (by unfold Room; decide))
theorem vmulhnVv : ∀ a, Statement (.vmulhnVv a) := fun a => of32 rfl (packVV_fits a (by unfold Room; decide))
theorem vmaccVv : ∀ a, Statement (.vmaccVv a) := fun a => of32 rfl (packVV_fits a (by unfold Room; decide))
theorem vnmsacVv : ∀ a, Statement (.vnmsacVv a) := fun a => of32 rfl (packVV_fits a (by unfold Room; decide))
theorem vminVv : ∀ a, Statement (.vminVv a) := fun a => of32 rfl (packVV_fits a (by unfold Room; decide))
theorem vmaxVv : ∀ a, Statement (.vmaxVv a) := fun a => of32 rfl (packVV_fits a (by unfold Room; decide))
theorem vminnVv : ∀ a, Statement (.vminnVv a) := fun a => of32 rfl (packVV_fits a (by unfold Room; decide))
theorem vmaxnVv : ∀ a, Statement (.vmaxnVv a) := fun a => of32 rfl (packVV_fits a (by unfold Room; decide))
theorem vandVv : ∀ a, Statement (.vandVv a) := fun a => of32 rfl (packVV_fits a (by unfold Room; decide))
theorem vorVv : ∀ a, Statement (.vorVv a) := fun a => of32 rfl (packVV_fits a (by unfold Room; decide))
theorem vxorVv : ∀ a, Statement (.vxorVv a) := fun a => of32 rfl (packVV_fits a (by unfold Room; decide))
theorem vsllVv : ∀ a, Statement (.vsllVv a) := fun a => of32 rfl (packVV_fits a (by unfold Room; decide))
theorem vsrlVv : ∀ a, Statement (.vsrlVv a) := fun a => of32 rfl (packVV_fits a (by unfold Room; decide))
theorem vsraVv : ∀ a, Statement (.vsraVv a) := fun a => of32 rfl (packVV_fits a (by unfold Room; decide))
theorem vdivVv : ∀ a, Statement (.vdivVv a) := fun a => of32 rfl (packVV_fits a (by unfold Room; decide))
theorem vdivnVv : ∀ a, Statement (.vdivnVv a) := fun a => of32 rfl (packVV_fits a (by unfold Room; decide))
theorem vremVv : ∀ a, Statement (.vremVv a) := fun a => of32 rfl (packVV_fits a (by unfold Room; decide))
theorem vremnVv : ∀ a, Statement (.vremnVv a) := fun a => of32 rfl (packVV_fits a (by unfold Room; decide))
theorem vsaddVv : ∀ a, Statement (.vsaddVv a) := fun a => of32 rfl (packVV_fits a (by unfold Room; decide))
theorem vsaddnVv : ∀ a, Statement (.vsaddnVv a) := fun a => of32 rfl (packVV_fits a (by unfold Room; decide))
theorem vssubVv : ∀ a, Statement (.vssubVv a) := fun a => of32 rfl (packVV_fits a (by unfold Room; decide))
theorem vssubnVv : ∀ a, Statement (.vssubnVv a) := fun a => of32 rfl (packVV_fits a (by unfold Room; decide))
theorem vaddVx : ∀ a, Statement (.vaddVx a) := fun a => of32 rfl (packVX_fits a (by unfold Room; decide))
theorem vsubVx : ∀ a, Statement (.vsubVx a) := fun a => of32 rfl (packVX_fits a (by unfold Room; decide))
theorem vmulVx : ∀ a, Statement (.vmulVx a) := fun a => of32 rfl (packVX_fits a (by unfold Room; decide))
theorem vmulhVx : ∀ a, Statement (.vmulhVx a) := fun a => of32 rfl (packVX_fits a (by unfold Room; decide))
theorem vmulhnVx : ∀ a, Statement (.vmulhnVx a) := fun a => of32 rfl (packVX_fits a (by unfold Room; decide))
theorem vmaccVx : ∀ a, Statement (.vmaccVx a) := fun a => of32 rfl (packVX_fits a (by unfold Room; decide))
theorem vnmsacVx : ∀ a, Statement (.vnmsacVx a) := fun a => of32 rfl (packVX_fits a (by unfold Room; decide))
theorem vminVx : ∀ a, Statement (.vminVx a) := fun a => of32 rfl (packVX_fits a (by unfold Room; decide))
theorem vmaxVx : ∀ a, Statement (.vmaxVx a) := fun a => of32 rfl (packVX_fits a (by unfold Room; decide))
theorem vminnVx : ∀ a, Statement (.vminnVx a) := fun a => of32 rfl (packVX_fits a (by unfold Room; decide))
theorem vmaxnVx : ∀ a, Statement (.vmaxnVx a) := fun a => of32 rfl (packVX_fits a (by unfold Room; decide))
theorem vandVx : ∀ a, Statement (.vandVx a) := fun a => of32 rfl (packVX_fits a (by unfold Room; decide))
theorem vorVx : ∀ a, Statement (.vorVx a) := fun a => of32 rfl (packVX_fits a (by unfold Room; decide))
theorem vxorVx : ∀ a, Statement (.vxorVx a) := fun a => of32 rfl (packVX_fits a (by unfold Room; decide))
theorem vsllVx : ∀ a, Statement (.vsllVx a) := fun a => of32 rfl (packVX_fits a (by unfold Room; decide))
theorem vsrlVx : ∀ a, Statement (.vsrlVx a) := fun a => of32 rfl (packVX_fits a (by unfold Room; decide))
theorem vsraVx : ∀ a, Statement (.vsraVx a) := fun a => of32 rfl (packVX_fits a (by unfold Room; decide))
theorem vdivVx : ∀ a, Statement (.vdivVx a) := fun a => of32 rfl (packVX_fits a (by unfold Room; decide))
theorem vdivnVx : ∀ a, Statement (.vdivnVx a) := fun a => of32 rfl (packVX_fits a (by unfold Room; decide))
theorem vremVx : ∀ a, Statement (.vremVx a) := fun a => of32 rfl (packVX_fits a (by unfold Room; decide))
theorem vremnVx : ∀ a, Statement (.vremnVx a) := fun a => of32 rfl (packVX_fits a (by unfold Room; decide))
theorem vsaddVx : ∀ a, Statement (.vsaddVx a) := fun a => of32 rfl (packVX_fits a (by unfold Room; decide))
theorem vsaddnVx : ∀ a, Statement (.vsaddnVx a) := fun a => of32 rfl (packVX_fits a (by unfold Room; decide))
theorem vssubVx : ∀ a, Statement (.vssubVx a) := fun a => of32 rfl (packVX_fits a (by unfold Room; decide))
theorem vssubnVx : ∀ a, Statement (.vssubnVx a) := fun a => of32 rfl (packVX_fits a (by unfold Room; decide))
theorem vrsubVx : ∀ a, Statement (.vrsubVx a) := fun a => of32 rfl (packVX_fits a (by unfold Room; decide))
theorem vsplatVx : ∀ vm vd rs1, Statement (.vsplatVx vm vd rs1) := by
  intro vm vd rs1
  refine of32 rfl ?_
  have := Bool.toNat_le vm
  have := rs1.isLt
  have := vd.isLt
  simp only [Fits32, bit, reg]; omega
theorem vaddVi : ∀ a, Statement (.vaddVi a) := fun a => of32 rfl (packVI_fits a (by unfold Room; decide))
theorem vandVi : ∀ a, Statement (.vandVi a) := fun a => of32 rfl (packVI_fits a (by unfold Room; decide))
theorem vorVi : ∀ a, Statement (.vorVi a) := fun a => of32 rfl (packVI_fits a (by unfold Room; decide))
theorem vxorVi : ∀ a, Statement (.vxorVi a) := fun a => of32 rfl (packVI_fits a (by unfold Room; decide))
theorem vsllVi : ∀ a, Statement (.vsllVi a) := fun a => of32 rfl (packVI_fits a (by unfold Room; decide))
theorem vsrlVi : ∀ a, Statement (.vsrlVi a) := fun a => of32 rfl (packVI_fits a (by unfold Room; decide))
theorem vsraVi : ∀ a, Statement (.vsraVi a) := fun a => of32 rfl (packVI_fits a (by unfold Room; decide))
theorem vsaddVi : ∀ a, Statement (.vsaddVi a) := fun a => of32 rfl (packVI_fits a (by unfold Room; decide))
theorem vsaddnVi : ∀ a, Statement (.vsaddnVi a) := fun a => of32 rfl (packVI_fits a (by unfold Room; decide))
theorem vrsubVi : ∀ a, Statement (.vrsubVi a) := fun a => of32 rfl (packVI_fits a (by unfold Room; decide))
theorem vsplatVi : ∀ vm vd imm, Statement (.vsplatVi vm vd imm) := by
  intro vm vd imm
  refine of32 rfl ?_
  have := Bool.toNat_le vm
  have := imm.isLt
  have := vd.isLt
  simp only [Fits32, bit, bits, reg]; omega
theorem vfaddVv : ∀ a, Statement (.vfaddVv a) := fun a => of32 rfl (packVV_fits a (by unfold Room; decide))
theorem vfsubVv : ∀ a, Statement (.vfsubVv a) := fun a => of32 rfl (packVV_fits a (by unfold Room; decide))
theorem vfmulVv : ∀ a, Statement (.vfmulVv a) := fun a => of32 rfl (packVV_fits a (by unfold Room; decide))
theorem vfdivVv : ∀ a, Statement (.vfdivVv a) := fun a => of32 rfl (packVV_fits a (by unfold Room; decide))
theorem vfminVv : ∀ a, Statement (.vfminVv a) := fun a => of32 rfl (packVV_fits a (by unfold Room; decide))
theorem vfmaxVv : ∀ a, Statement (.vfmaxVv a) := fun a => of32 rfl (packVV_fits a (by unfold Room; decide))
theorem vfmaccVv : ∀ a, Statement (.vfmaccVv a) := fun a => of32 rfl (packVV_fits a (by unfold Room; decide))
theorem vfnmaccVv : ∀ a, Statement (.vfnmaccVv a) := fun a => of32 rfl (packVV_fits a (by unfold Room; decide))
theorem vfmsacVv : ∀ a, Statement (.vfmsacVv a) := fun a => of32 rfl (packVV_fits a (by unfold Room; decide))
theorem vfnmsacVv : ∀ a, Statement (.vfnmsacVv a) := fun a => of32 rfl (packVV_fits a (by unfold Room; decide))
theorem vfsgnjVv : ∀ a, Statement (.vfsgnjVv a) := fun a => of32 rfl (packVV_fits a (by unfold Room; decide))
theorem vfsgnjnVv : ∀ a, Statement (.vfsgnjnVv a) := fun a => of32 rfl (packVV_fits a (by unfold Room; decide))
theorem vfsgnjxVv : ∀ a, Statement (.vfsgnjxVv a) := fun a => of32 rfl (packVV_fits a (by unfold Room; decide))
theorem vfsqrt : ∀ a, Statement (.vfsqrt a) := fun a => of32 rfl (packVU_fits a (by unfold Room; decide))
theorem vfrece : ∀ a, Statement (.vfrece a) := fun a => of32 rfl (packVU_fits a (by unfold Room; decide))
theorem vfrsqe : ∀ a, Statement (.vfrsqe a) := fun a => of32 rfl (packVU_fits a (by unfold Room; decide))
theorem vfclass : ∀ a, Statement (.vfclass a) := fun a => of32 rfl (packVU_fits a (by unfold Room; decide))
theorem vfaddVf : ∀ a, Statement (.vfaddVf a) := fun a => of32 rfl (packVX_fits a (by unfold Room; decide))
theorem vfsubVf : ∀ a, Statement (.vfsubVf a) := fun a => of32 rfl (packVX_fits a (by unfold Room; decide))
theorem vfmulVf : ∀ a, Statement (.vfmulVf a) := fun a => of32 rfl (packVX_fits a (by unfold Room; decide))
theorem vfdivVf : ∀ a, Statement (.vfdivVf a) := fun a => of32 rfl (packVX_fits a (by unfold Room; decide))
theorem vfminVf : ∀ a, Statement (.vfminVf a) := fun a => of32 rfl (packVX_fits a (by unfold Room; decide))
theorem vfmaxVf : ∀ a, Statement (.vfmaxVf a) := fun a => of32 rfl (packVX_fits a (by unfold Room; decide))
theorem vfmaccVf : ∀ a, Statement (.vfmaccVf a) := fun a => of32 rfl (packVX_fits a (by unfold Room; decide))
theorem vfnmaccVf : ∀ a, Statement (.vfnmaccVf a) := fun a => of32 rfl (packVX_fits a (by unfold Room; decide))
theorem vfmsacVf : ∀ a, Statement (.vfmsacVf a) := fun a => of32 rfl (packVX_fits a (by unfold Room; decide))
theorem vfnmsacVf : ∀ a, Statement (.vfnmsacVf a) := fun a => of32 rfl (packVX_fits a (by unfold Room; decide))
theorem vfsgnjVf : ∀ a, Statement (.vfsgnjVf a) := fun a => of32 rfl (packVX_fits a (by unfold Room; decide))
theorem vfsgnjnVf : ∀ a, Statement (.vfsgnjnVf a) := fun a => of32 rfl (packVX_fits a (by unfold Room; decide))
theorem vfsgnjxVf : ∀ a, Statement (.vfsgnjxVf a) := fun a => of32 rfl (packVX_fits a (by unfold Room; decide))
theorem vfrsubVf : ∀ a, Statement (.vfrsubVf a) := fun a => of32 rfl (packVX_fits a (by unfold Room; decide))
theorem vfrdivVf : ∀ a, Statement (.vfrdivVf a) := fun a => of32 rfl (packVX_fits a (by unfold Room; decide))
theorem vfsplat : ∀ vm vd rs1, Statement (.vfsplat vm vd rs1) := by
  intro vm vd rs1
  refine of32 rfl ?_
  have := Bool.toNat_le vm
  have := rs1.isLt
  have := vd.isLt
  simp only [Fits32, bit, reg]; omega
theorem vredsum : ∀ a, Statement (.vredsum a) := fun a => of32 rfl (packVV_fits a (by unfold Room; decide))
theorem vredmax : ∀ a, Statement (.vredmax a) := fun a => of32 rfl (packVV_fits a (by unfold Room; decide))
theorem vredmin : ∀ a, Statement (.vredmin a) := fun a => of32 rfl (packVV_fits a (by unfold Room; decide))
theorem vredmaxn : ∀ a, Statement (.vredmaxn a) := fun a => of32 rfl (packVV_fits a (by unfold Room; decide))
theorem vredminn : ∀ a, Statement (.vredminn a) := fun a => of32 rfl (packVV_fits a (by unfold Room; decide))
theorem vredand : ∀ a, Statement (.vredand a) := fun a => of32 rfl (packVV_fits a (by unfold Room; decide))
theorem vredor : ∀ a, Statement (.vredor a) := fun a => of32 rfl (packVV_fits a (by unfold Room; decide))
theorem vfredo : ∀ a, Statement (.vfredo a) := fun a => of32 rfl (packVV_fits a (by unfold Room; decide))
theorem vfredt : ∀ a, Statement (.vfredt a) := fun a => of32 rfl (packVV_fits a (by unfold Room; decide))
theorem vfredmax : ∀ a, Statement (.vfredmax a) := fun a => of32 rfl (packVV_fits a (by unfold Room; decide))
theorem vfredmin : ∀ a, Statement (.vfredmin a) := fun a => of32 rfl (packVV_fits a (by unfold Room; decide))
theorem vfredamax : ∀ a, Statement (.vfredamax a) := fun a => of32 rfl (packVV_fits a (by unfold Room; decide))
theorem vmvxs : ∀ c2 rd vs2, Statement (.vmvxs c2 rd vs2) := by
  intro c2 rd vs2
  refine of32 rfl ?_
  have := Bool.toNat_le c2
  have := vs2.isLt
  have := rd.isLt
  simp only [Fits32, bit, reg]; omega
theorem vmvfs : ∀ c2 rd vs2, Statement (.vmvfs c2 rd vs2) := by
  intro c2 rd vs2
  refine of32 rfl ?_
  have := Bool.toNat_le c2
  have := vs2.isLt
  have := rd.isLt
  simp only [Fits32, bit, reg]; omega
theorem vfcvtfi : ∀ a, Statement (.vfcvtfi a) := fun a => of32 rfl (packVU_fits a (by unfold Room; decide))
theorem vfcvtif : ∀ a, Statement (.vfcvtif a) := fun a => of32 rfl (packVU_fits a (by unfold Room; decide))
theorem vfwcvt : ∀ a, Statement (.vfwcvt a) := fun a => of32 rfl (packVU_fits a (by unfold Room; decide))
theorem vfncvt : ∀ a, Statement (.vfncvt a) := fun a => of32 rfl (packVUS_fits a (by unfold Room; decide))
theorem vqcvt : ∀ a, Statement (.vqcvt a) := fun a => of32 rfl (packVXS_fits a (by unfold Room; decide))
theorem vdqcvt : ∀ a, Statement (.vdqcvt a) := fun a => of32 rfl (packVX_fits a (by unfold Room; decide))
theorem vncvti : ∀ a, Statement (.vncvti a) := fun a => of32 rfl (packVU_fits a (by unfold Room; decide))
theorem vwcvti : ∀ a, Statement (.vwcvti a) := fun a => of32 rfl (packVU_fits a (by unfold Room; decide))
theorem vmseqVv : ∀ a, Statement (.vmseqVv a) := fun a => of32 rfl (packKVV_fits a (by unfold Room; decide))
theorem vmsneVv : ∀ a, Statement (.vmsneVv a) := fun a => of32 rfl (packKVV_fits a (by unfold Room; decide))
theorem vmsltVv : ∀ a, Statement (.vmsltVv a) := fun a => of32 rfl (packKVV_fits a (by unfold Room; decide))
theorem vmsltnVv : ∀ a, Statement (.vmsltnVv a) := fun a => of32 rfl (packKVV_fits a (by unfold Room; decide))
theorem vmsleVv : ∀ a, Statement (.vmsleVv a) := fun a => of32 rfl (packKVV_fits a (by unfold Room; decide))
theorem vmslenVv : ∀ a, Statement (.vmslenVv a) := fun a => of32 rfl (packKVV_fits a (by unfold Room; decide))
theorem vmseqVx : ∀ a, Statement (.vmseqVx a) := fun a => of32 rfl (packKVX_fits a (by unfold Room; decide))
theorem vmsneVx : ∀ a, Statement (.vmsneVx a) := fun a => of32 rfl (packKVX_fits a (by unfold Room; decide))
theorem vmsltVx : ∀ a, Statement (.vmsltVx a) := fun a => of32 rfl (packKVX_fits a (by unfold Room; decide))
theorem vmsltnVx : ∀ a, Statement (.vmsltnVx a) := fun a => of32 rfl (packKVX_fits a (by unfold Room; decide))
theorem vmsleVx : ∀ a, Statement (.vmsleVx a) := fun a => of32 rfl (packKVX_fits a (by unfold Room; decide))
theorem vmslenVx : ∀ a, Statement (.vmslenVx a) := fun a => of32 rfl (packKVX_fits a (by unfold Room; decide))
theorem vmseqVi : ∀ a, Statement (.vmseqVi a) := fun a => of32 rfl (packKVI_fits a (by unfold Room; decide))
theorem vmsneVi : ∀ a, Statement (.vmsneVi a) := fun a => of32 rfl (packKVI_fits a (by unfold Room; decide))
theorem vmsleVi : ∀ a, Statement (.vmsleVi a) := fun a => of32 rfl (packKVI_fits a (by unfold Room; decide))
theorem vmslenVi : ∀ a, Statement (.vmslenVi a) := fun a => of32 rfl (packKVI_fits a (by unfold Room; decide))
theorem vmfeqVv : ∀ a, Statement (.vmfeqVv a) := fun a => of32 rfl (packKVV_fits a (by unfold Room; decide))
theorem vmfneVv : ∀ a, Statement (.vmfneVv a) := fun a => of32 rfl (packKVV_fits a (by unfold Room; decide))
theorem vmfltVv : ∀ a, Statement (.vmfltVv a) := fun a => of32 rfl (packKVV_fits a (by unfold Room; decide))
theorem vmfleVv : ∀ a, Statement (.vmfleVv a) := fun a => of32 rfl (packKVV_fits a (by unfold Room; decide))
theorem vmfordVv : ∀ a, Statement (.vmfordVv a) := fun a => of32 rfl (packKVV_fits a (by unfold Room; decide))
theorem vmfeqVf : ∀ a, Statement (.vmfeqVf a) := fun a => of32 rfl (packKVX_fits a (by unfold Room; decide))
theorem vmfneVf : ∀ a, Statement (.vmfneVf a) := fun a => of32 rfl (packKVX_fits a (by unfold Room; decide))
theorem vmfltVf : ∀ a, Statement (.vmfltVf a) := fun a => of32 rfl (packKVX_fits a (by unfold Room; decide))
theorem vmfleVf : ∀ a, Statement (.vmfleVf a) := fun a => of32 rfl (packKVX_fits a (by unfold Room; decide))
theorem vmfordVf : ∀ a, Statement (.vmfordVf a) := fun a => of32 rfl (packKVX_fits a (by unfold Room; decide))
theorem kand : ∀ kd ks2 ks1, Statement (.kand kd ks2 ks1) := by
  intro kd ks2 ks1
  refine of32 rfl ?_
  have := ks2.isLt
  have := ks1.isLt
  have := kd.isLt
  simp only [Fits32, reg]; omega
theorem kor : ∀ kd ks2 ks1, Statement (.kor kd ks2 ks1) := by
  intro kd ks2 ks1
  refine of32 rfl ?_
  have := ks2.isLt
  have := ks1.isLt
  have := kd.isLt
  simp only [Fits32, reg]; omega
theorem kxor : ∀ kd ks2 ks1, Statement (.kxor kd ks2 ks1) := by
  intro kd ks2 ks1
  refine of32 rfl ?_
  have := ks2.isLt
  have := ks1.isLt
  have := kd.isLt
  simp only [Fits32, reg]; omega
theorem kandn : ∀ kd ks2 ks1, Statement (.kandn kd ks2 ks1) := by
  intro kd ks2 ks1
  refine of32 rfl ?_
  have := ks2.isLt
  have := ks1.isLt
  have := kd.isLt
  simp only [Fits32, reg]; omega
theorem knot : ∀ kd ks2, Statement (.knot kd ks2) := by
  intro kd ks2
  refine of32 rfl ?_
  have := ks2.isLt
  have := kd.isLt
  simp only [Fits32, reg]; omega
theorem kmov : ∀ kd ks2, Statement (.kmov kd ks2) := by
  intro kd ks2
  refine of32 rfl ?_
  have := ks2.isLt
  have := kd.isLt
  simp only [Fits32, reg]; omega
theorem kpop : ∀ rd ks2, Statement (.kpop rd ks2) := by
  intro rd ks2
  refine of32 rfl ?_
  have := ks2.isLt
  have := rd.isLt
  simp only [Fits32, reg]; omega
theorem kfirst : ∀ rd ks2, Statement (.kfirst rd ks2) := by
  intro rd ks2
  refine of32 rfl ?_
  have := ks2.isLt
  have := rd.isLt
  simp only [Fits32, reg]; omega
theorem vslideupVx : ∀ a, Statement (.vslideupVx a) := fun a => of32 rfl (packVX_fits a (by unfold Room; decide))
theorem vslideupVi : ∀ a, Statement (.vslideupVi a) := fun a => of32 rfl (packVI_fits a (by unfold Room; decide))
theorem vslidednVx : ∀ a, Statement (.vslidednVx a) := fun a => of32 rfl (packVX_fits a (by unfold Room; decide))
theorem vslidednVi : ∀ a, Statement (.vslidednVi a) := fun a => of32 rfl (packVI_fits a (by unfold Room; decide))
theorem vpermVv : ∀ a, Statement (.vpermVv a) := fun a => of32 rfl (packVV_fits a (by unfold Room; decide))
theorem vcompress : ∀ c2 vd vs2 ks1, Statement (.vcompress c2 vd vs2 ks1) := by
  intro c2 vd vs2 ks1
  refine of32 rfl ?_
  have := Bool.toNat_le c2
  have := vs2.isLt
  have := ks1.isLt
  have := vd.isLt
  simp only [Fits32, bit, reg]; omega
theorem vexpand : ∀ c2 vd vs2 ks1, Statement (.vexpand c2 vd vs2 ks1) := by
  intro c2 vd vs2 ks1
  refine of32 rfl ?_
  have := Bool.toNat_le c2
  have := vs2.isLt
  have := ks1.isLt
  have := vd.isLt
  simp only [Fits32, bit, reg]; omega
theorem vmergeVv : ∀ c2 c1 vd vs2 vs1, Statement (.vmergeVv c2 c1 vd vs2 vs1) := by
  intro c2 c1 vd vs2 vs1
  refine of32 rfl ?_
  have := Bool.toNat_le c2
  have := Bool.toNat_le c1
  have := vs2.isLt
  have := vs1.isLt
  have := vd.isLt
  simp only [Fits32, bit, reg]; omega
theorem vmergeVx : ∀ c2 vd vs2 rs1, Statement (.vmergeVx c2 vd vs2 rs1) := by
  intro c2 vd vs2 rs1
  refine of32 rfl ?_
  have := Bool.toNat_le c2
  have := vs2.isLt
  have := rs1.isLt
  have := vd.isLt
  simp only [Fits32, bit, reg]; omega
theorem vmergeVi : ∀ c2 vd vs2 imm, Statement (.vmergeVi c2 vd vs2 imm) := by
  intro c2 vd vs2 imm
  refine of32 rfl ?_
  have := Bool.toNat_le c2
  have := vs2.isLt
  have := imm.isLt
  have := vd.isLt
  simp only [Fits32, bit, bits, reg]; omega
theorem vid : ∀ vm vd, Statement (.vid vm vd) := by
  intro vm vd
  refine of32 rfl ?_
  have := Bool.toNat_le vm
  have := vd.isLt
  simp only [Fits32, bit, reg]; omega
theorem vsetli : ∀ rd rs1 lgreq vt, Statement (.vsetli rd rs1 lgreq vt) := by
  intro rd rs1 lgreq vt
  refine of32 rfl ?_
  have := lgreq.isLt
  have := vt.isLt
  have := rs1.isLt
  have := rd.isLt
  simp only [Fits32, bits, reg]; omega
theorem vsetl : ∀ rd rs1 rs2, Statement (.vsetl rd rs1 rs2) := by
  intro rd rs1 rs2
  refine of32 rfl ?_
  have := rs2.isLt
  have := rs1.isLt
  have := rd.isLt
  simp only [Fits32, reg]; omega
theorem lfork : ∀ vm, Statement (.lfork vm) := by
  intro vm
  refine of32 rfl ?_
  have := Bool.toNat_le vm
  simp only [Fits32, bit]; omega
theorem bkrd : ∀ rd rs1 rs2, Statement (.bkrd rd rs1 rs2) := by
  intro rd rs1 rs2
  refine of32 rfl ?_
  have := rs2.isLt
  have := rs1.isLt
  have := rd.isLt
  simp only [Fits32, reg]; omega
theorem bkrsm : ∀ rs1, Statement (.bkrsm rs1) := by
  intro rs1
  refine of32 rfl ?_
  have := rs1.isLt
  simp only [Fits32, reg]; omega
theorem ccmoveMove : ∀ rd rs1, Statement (.ccmoveMove rd rs1) := by
  intro rd rs1
  refine of32 rfl ?_
  have := rs1.isLt
  have := rd.isLt
  simp only [Fits32, reg]; omega
theorem frqpop : ∀ rd rs1, Statement (.frqpop rd rs1) := by
  intro rd rs1
  refine of32 rfl ?_
  have := rs1.isLt
  have := rd.isLt
  simp only [Fits32, reg]; omega
theorem latw : ∀ rs1 rs2, Statement (.latw rs1 rs2) := by
  intro rs1 rs2
  refine of32 rfl ?_
  have := rs2.isLt
  have := rs1.isLt
  simp only [Fits32, reg]; omega
theorem thrset : ∀ rs1 rs2, Statement (.thrset rs1 rs2) := by
  intro rs1 rs2
  refine of32 rfl ?_
  have := rs2.isLt
  have := rs1.isLt
  simp only [Fits32, reg]; omega
theorem vld : ∀ a, Statement (.vld a) := fun a => of32 rfl (packVM_fits a (by unfold Room; decide))
theorem vst : ∀ a, Statement (.vst a) := fun a => of32 rfl (packVMC_fits a (by unfold Room; decide))
theorem kld : ∀ kd base, Statement (.kld kd base) := by
  intro kd base
  refine of32 rfl ?_
  have := base.isLt
  have := kd.isLt
  simp only [Fits32, reg]; omega
theorem kst : ∀ ks base, Statement (.kst ks base) := by
  intro ks base
  refine of32 rfl ?_
  have := base.isLt
  have := ks.isLt
  simp only [Fits32, reg]; omega
theorem vlds : ∀ a, Statement (.vlds a) := fun a => of32 rfl (packVM2_fits a (by unfold Room; decide))
theorem vsts : ∀ a, Statement (.vsts a) := fun a => of32 rfl (packVM2C_fits a (by unfold Room; decide))
theorem vldxO : ∀ a, Statement (.vldxO a) := fun a => of32 rfl (packVM2C_fits a (by unfold Room; decide))
theorem vstxO : ∀ a, Statement (.vstxO a) := fun a => of32 rfl (packVM2C_fits a (by unfold Room; decide))
theorem vldx : ∀ a, Statement (.vldx a) := fun a => of32 rfl (packVM2C_fits a (by unfold Room; decide))
theorem vstx : ∀ a, Statement (.vstx a) := fun a => of32 rfl (packVM2C_fits a (by unfold Room; decide))
theorem vldff : ∀ a, Statement (.vldff a) := fun a => of32 rfl (packVM_fits a (by unfold Room; decide))
theorem vldl : ∀ a, Statement (.vldl a) := fun a => of32 rfl (packVM_fits a (by unfold Room; decide))
theorem vstl : ∀ a, Statement (.vstl a) := fun a => of32 rfl (packVMC_fits a (by unfold Room; decide))
theorem qdef : ∀ q base, Statement (.qdef q base) := by
  intro q base
  refine of32 rfl ?_
  have := base.isLt
  have := q.isLt
  simp only [Fits32, reg]; omega
theorem qbind : ∀ vd q, Statement (.qbind vd q) := by
  intro vd q
  refine of32 rfl ?_
  have := q.isLt
  have := vd.isLt
  simp only [Fits32, reg]; omega
theorem qunb : ∀ vd, Statement (.qunb vd) := by
  intro vd
  refine of32 rfl ?_
  have := vd.isLt
  simp only [Fits32, reg]; omega
theorem qavail : ∀ rd q, Statement (.qavail rd q) := by
  intro rd q
  refine of32 rfl ?_
  have := q.isLt
  have := rd.isLt
  simp only [Fits32, reg]; omega
theorem qwait : ∀ q rs1, Statement (.qwait q rs1) := by
  intro q rs1
  refine of32 rfl ?_
  have := rs1.isLt
  have := q.isLt
  simp only [Fits32, reg]; omega
theorem qend : ∀ q, Statement (.qend q) := by
  intro q
  refine of32 rfl ?_
  have := q.isLt
  simp only [Fits32, reg]; omega
theorem qrst : ∀ q, Statement (.qrst q) := by
  intro q
  refine of32 rfl ?_
  have := q.isLt
  simp only [Fits32, reg]; omega
theorem vamoadd : ∀ a, Statement (.vamoadd a) := fun a => of32 rfl (packAmo_fits a (by unfold Room; decide))
theorem vamomin : ∀ a, Statement (.vamomin a) := fun a => of32 rfl (packAmo_fits a (by unfold Room; decide))
theorem vamomax : ∀ a, Statement (.vamomax a) := fun a => of32 rfl (packAmo_fits a (by unfold Room; decide))
theorem vamominn : ∀ a, Statement (.vamominn a) := fun a => of32 rfl (packAmo_fits a (by unfold Room; decide))
theorem vamomaxn : ∀ a, Statement (.vamomaxn a) := fun a => of32 rfl (packAmo_fits a (by unfold Room; decide))
theorem vamoand : ∀ a, Statement (.vamoand a) := fun a => of32 rfl (packAmo_fits a (by unfold Room; decide))
theorem vamoor : ∀ a, Statement (.vamoor a) := fun a => of32 rfl (packAmo_fits a (by unfold Room; decide))
theorem vamoxor : ∀ a, Statement (.vamoxor a) := fun a => of32 rfl (packAmo_fits a (by unfold Room; decide))
theorem vamoswp : ∀ a, Statement (.vamoswp a) := fun a => of32 rfl (packAmo_fits a (by unfold Room; decide))
theorem vamocas : ∀ a, Statement (.vamocas a) := fun a => of32 rfl (packAmo_fits a (by unfold Room; decide))
theorem vamofadd : ∀ a, Statement (.vamofadd a) := fun a => of32 rfl (packAmo_fits a (by unfold Room; decide))
theorem laneFormAtomic : ∀ op a, Statement (.laneFormAtomic op a) := by
  intro op a
  refine of32 rfl ?_
  have := op.isLt
  have h0 := Bool.toNat_le a.vm
  have h1 := Bool.toNat_le a.aq
  have h2 := Bool.toNat_le a.rl
  have h3 := a.vs2.isLt
  have h4 := a.base.isLt
  have h5 := a.scope.isLt
  have h6 := a.vd.isLt
  simp only [Fits32, packAmo, bit, reg]; omega
theorem vwaitEq : ∀ a, Statement (.vwaitEq a) := fun a => of32 rfl (packWait_fits a (by unfold Room; decide))
theorem vwaitNe : ∀ a, Statement (.vwaitNe a) := fun a => of32 rfl (packWait_fits a (by unfold Room; decide))
theorem vwaitLt : ∀ a, Statement (.vwaitLt a) := fun a => of32 rfl (packWait_fits a (by unfold Room; decide))
theorem vwaitGe : ∀ a, Statement (.vwaitGe a) := fun a => of32 rfl (packWait_fits a (by unfold Room; decide))
theorem vgl : ∀ a, Statement (.vgl a) := fun a => of32 rfl (packLink_fits a).1
theorem vsc : ∀ a, Statement (.vsc a) := fun a => of32 rfl (packLink_fits a).2
theorem ordSv : ∀ scope, Statement (.ordSv scope) := by
  intro scope
  refine of32 rfl ?_
  have := scope.isLt
  simp only [Fits32, reg]; omega
theorem ordVs : ∀ scope, Statement (.ordVs scope) := by
  intro scope
  refine of32 rfl ?_
  have := scope.isLt
  simp only [Fits32, reg]; omega
theorem ordVv : ∀ scope, Statement (.ordVv scope) := by
  intro scope
  refine of32 rfl ?_
  have := scope.isLt
  simp only [Fits32, reg]; omega
theorem ordAll : ∀ scope, Statement (.ordAll scope) := by
  intro scope
  refine of32 rfl ?_
  have := scope.isLt
  simp only [Fits32, reg]; omega
theorem sev : ∀ rs1, Statement (.sev rs1) := by
  intro rs1
  refine of32 rfl ?_
  have := rs1.isLt
  simp only [Fits32, reg]; omega
theorem send : ∀ rs1 rs2 ch, Statement (.send rs1 rs2 ch) := by
  intro rs1 rs2 ch
  refine of32 rfl ?_
  have := rs2.isLt
  have := rs1.isLt
  have := ch.isLt
  simp only [Fits32, reg]; omega
theorem recv : ∀ rd ch, Statement (.recv rd ch) := by
  intro rd ch
  refine of32 rfl ?_
  have := ch.isLt
  have := rd.isLt
  simp only [Fits32, reg]; omega
theorem recvnb : ∀ rd ch, Statement (.recvnb rd ch) := by
  intro rd ch
  refine of32 rfl ?_
  have := ch.isLt
  have := rd.isLt
  simp only [Fits32, reg]; omega
theorem frz : ∀ rd rs1 rs2, Statement (.frz rd rs1 rs2) := by
  intro rd rs1 rs2
  refine of32 rfl ?_
  have := rs2.isLt
  have := rs1.isLt
  have := rd.isLt
  simp only [Fits32, reg]; omega
theorem thaw : ∀ rs1 ch, Statement (.thaw rs1 ch) := by
  intro rs1 ch
  refine of32 rfl ?_
  have := rs1.isLt
  have := ch.isLt
  simp only [Fits32, reg]; omega
theorem thaww : ∀ rs1, Statement (.thaww rs1) := by
  intro rs1
  refine of32 rfl ?_
  have := rs1.isLt
  simp only [Fits32, reg]; omega
theorem frzq : ∀ rd rs1, Statement (.frzq rd rs1) := by
  intro rd rs1
  refine of32 rfl ?_
  have := rs1.isLt
  have := rd.isLt
  simp only [Fits32, reg]; omega
theorem syscB : ∀ rd rs1, Statement (.syscB rd rs1) := by
  intro rd rs1
  refine of32 rfl ?_
  have := rs1.isLt
  have := rd.isLt
  simp only [Fits32, reg]; omega
theorem syscN : ∀ rd rs1, Statement (.syscN rd rs1) := by
  intro rd rs1
  refine of32 rfl ?_
  have := rs1.isLt
  have := rd.isLt
  simp only [Fits32, reg]; omega
theorem mmr : ∀ row slot base, Statement (.mmr row slot base) := by
  intro row slot base
  refine of64 rfl ?_
  have := row.isLt
  have := slot.isLt
  have := base.isLt
  simp only [Fits64, packL, bits, reg]; omega
theorem mmrz : ∀ row slot base, Statement (.mmrz row slot base) := by
  intro row slot base
  refine of64 rfl ?_
  have := row.isLt
  have := slot.isLt
  have := base.isLt
  simp only [Fits64, packL, bits, reg]; omega
theorem mmrs : ∀ row slot base rs3, Statement (.mmrs row slot base rs3) := by
  intro row slot base rs3
  refine of64 rfl ?_
  have := row.isLt
  have := slot.isLt
  have := base.isLt
  have := rs3.isLt
  simp only [Fits64, packL, bits, reg]; omega
theorem accrd : ∀ vd rs1 row, Statement (.accrd vd rs1 row) := by
  intro vd rs1 row
  refine of64 rfl ?_
  have := row.isLt
  have := rs1.isLt
  have := vd.isLt
  simp only [Fits64, packL, bits, reg]; omega
theorem accwr : ∀ rs1 row vs2, Statement (.accwr rs1 row vs2) := by
  intro rs1 row vs2
  refine of64 rfl ?_
  have := row.isLt
  have := vs2.isLt
  have := rs1.isLt
  simp only [Fits64, packL, bits, reg]; omega
theorem accz : ∀ rs1 row n, Statement (.accz rs1 row n) := by
  intro rs1 row n
  refine of64 rfl ?_
  have := row.isLt
  have := n.isLt
  have := rs1.isLt
  simp only [Fits64, packL, bits, reg]; omega
theorem wclr : ∀ slot, Statement (.wclr slot) := by
  intro slot
  refine of64 rfl ?_
  have := slot.isLt
  simp only [Fits64, packL, reg]; omega
theorem wdesc : ∀ rd slot, Statement (.wdesc rd slot) := by
  intro rd slot
  refine of64 rfl ?_
  have := slot.isLt
  have := rd.isLt
  simp only [Fits64, packL, reg]; omega
theorem cpt : ∀ a, Statement (.cpt a) := by
  intro a
  refine of64 rfl ?_
  have := packCopy_fits (fn6 := 0) a (by decide)
  simp only [Fits64]; omega
theorem cpgr : ∀ a, Statement (.cpgr a) := fun a => of64 rfl (packCopyV_fits a (by decide))
theorem cpsc : ∀ a, Statement (.cpsc a) := fun a => of64 rfl (packCopyV_fits a (by decide))
theorem cpw : ∀ a slot, Statement (.cpw a slot) := by
  intro a slot
  refine of64 rfl ?_
  have := slot.isLt
  have := packCopy_fits (fn6 := 3) a (by decide)
  simp only [Fits64, reg]; omega
theorem cpf : ∀ a, Statement (.cpf a) := by
  intro a
  refine of64 rfl ?_
  have := packCopy_fits (fn6 := 4) a (by decide)
  simp only [Fits64]; omega
theorem lnch : ∀ rd rs1 ch, Statement (.lnch rd rs1 ch) := by
  intro rd rs1 ch
  refine of64 rfl ?_
  have := ch.isLt
  have := rs1.isLt
  have := rd.isLt
  simp only [Fits64, packL, reg]; omega
theorem cpost : ∀ rd rs1 ch, Statement (.cpost rd rs1 ch) := by
  intro rd rs1 ch
  refine of64 rfl ?_
  have := ch.isLt
  have := rs1.isLt
  have := rd.isLt
  simp only [Fits64, packL, reg]; omega
theorem fence : ∀ fm pred succ rs1 rd, Statement (.fence fm pred succ rs1 rd) := by
  intro fm pred succ rs1 rd
  refine of32 rfl ?_
  have := fm.isLt
  have := pred.isLt
  have := succ.isLt
  have := rs1.isLt
  have := rd.isLt
  simp only [Fits32, reg]; omega
theorem quelanCsrAccess : ∀ a, Statement (.quelanCsrAccess a) := fun a => of32 rfl (packCsr_fits a)
theorem vdirtyWrite : ∀ a, Statement (.vdirtyWrite a) := fun a => of32 rfl (packCsr_fits a)
theorem vrel : Statement .vrel := by
  refine of32 rfl ?_
  simp only [Fits32]; decide
theorem ljoin : Statement .ljoin := by
  refine of32 rfl ?_
  simp only [Fits32]; decide
theorem ccmoveWriteBookmark : Statement .ccmoveWriteBookmark := ofNone rfl
theorem ccmoveKill : Statement .ccmoveKill := ofNone rfl
theorem ccmoveCancel : Statement .ccmoveCancel := ofNone rfl
theorem ccmovePreempt : Statement .ccmovePreempt := ofNone rfl
theorem ccmoveResume : Statement .ccmoveResume := ofNone rfl
theorem ccmovePostMessage : Statement .ccmovePostMessage := ofNone rfl
theorem bar : Statement .bar := by
  refine of32 rfl ?_
  simp only [Fits32]; decide
theorem phend : Statement .phend := by
  refine of32 rfl ?_
  simp only [Fits32]; decide
theorem wfe : Statement .wfe := by
  refine of32 rfl ?_
  simp only [Fits32]; decide
theorem gexit : Statement .gexit := by
  refine of32 rfl ?_
  simp only [Fits32]; decide
theorem yld : Statement .yld := by
  refine of32 rfl ?_
  simp only [Fits32]; decide
theorem migControl : Statement .migControl := by
  refine of32 rfl ?_
  simp only [Fits32]; decide
theorem migVector : Statement .migVector := by
  refine of32 rfl ?_
  simp only [Fits32]; decide
theorem migArray : Statement .migArray := by
  refine of32 rfl ?_
  simp only [Fits32]; decide
theorem fenceTso : Statement .fenceTso := by
  refine of32 rfl ?_
  simp only [Fits32]; decide
theorem fenceI : Statement .fenceI := by
  refine of32 rfl ?_
  simp only [Fits32]; decide
theorem ecall : Statement .ecall := by
  refine of32 rfl ?_
  simp only [Fits32]; decide
theorem ebreak : Statement .ebreak := by
  refine of32 rfl ?_
  simp only [Fits32]; decide
theorem freezePoint : Statement .freezePoint := ofNone rfl
theorem exitAddressFetch : Statement .exitAddressFetch := ofNone rfl
theorem replyQueueDelivery : Statement .replyQueueDelivery := ofNone rfl
theorem vectorAccessPerformed : Statement .vectorAccessPerformed := ofNone rfl
theorem strandExit : Statement .strandExit := ofNone rfl
theorem qnotifyWrite : Statement .qnotifyWrite := ofNone rfl
theorem queueEntryFetch : Statement .queueEntryFetch := ofNone rfl
theorem launchAccept : Statement .launchAccept := ofNone rfl
theorem codeObjectRegister : Statement .codeObjectRegister := ofNone rfl
theorem codeObjectUnregister : Statement .codeObjectUnregister := ofNone rfl
theorem queueMap : Statement .queueMap := ofNone rfl
theorem queueUnmap : Statement .queueUnmap := ofNone rfl
theorem pendScan : Statement .pendScan := ofNone rfl
theorem dispatchDecision : Statement .dispatchDecision := ofNone rfl
theorem agingStep : Statement .agingStep := ofNone rfl
theorem dispatchCountHalving : Statement .dispatchCountHalving := ofNone rfl
theorem dieReserve : Statement .dieReserve := ofNone rfl
theorem preemptionStart : Statement .preemptionStart := ofNone rfl
theorem preemptionSave : Statement .preemptionSave := ofNone rfl
theorem resumption : Statement .resumption := ofNone rfl
theorem savedGroupPlacement : Statement .savedGroupPlacement := ofNone rfl
theorem migrationWaitTimeout : Statement .migrationWaitTimeout := ofNone rfl
theorem savePoolRetry : Statement .savePoolRetry := ofNone rfl
theorem laneWaitCheck : Statement .laneWaitCheck := ofNone rfl
theorem carrierMove : Statement .carrierMove := ofNone rfl
theorem strandArrival : Statement .strandArrival := ofNone rfl
theorem yldTimeout : Statement .yldTimeout := ofNone rfl
theorem thermalSensorUpdate : Statement .thermalSensorUpdate := ofNone rfl
theorem thermalSlotDisable : Statement .thermalSlotDisable := ofNone rfl
theorem thermalSlotEnable : Statement .thermalSlotEnable := ofNone rfl
theorem mixWindowEnd : Statement .mixWindowEnd := ofNone rfl
theorem selftestFailure : Statement .selftestFailure := ofNone rfl
theorem pageTableWalk : Statement .pageTableWalk := ofNone rfl
theorem impreciseTrap : Statement .impreciseTrap := ofNone rfl
theorem faultBatchPost : Statement .faultBatchPost := ofNone rfl
theorem engineFaultPause : Statement .engineFaultPause := ofNone rfl
theorem tlbinvAll : Statement .tlbinvAll := ofNone rfl
theorem tlbinvPage : Statement .tlbinvPage := ofNone rfl
theorem tlbInvalidationComplete : Statement .tlbInvalidationComplete := ofNone rfl
theorem notificationDelivery : Statement .notificationDelivery := ofNone rfl
theorem snoopAnswer : Statement .snoopAnswer := ofNone rfl
theorem directoryRequest : Statement .directoryRequest := ofNone rfl
theorem wcBufferDrain : Statement .wcBufferDrain := ofNone rfl
theorem memoryRequestArrival : Statement .memoryRequestArrival := ofNone rfl
theorem hostCxlMemRead : Statement .hostCxlMemRead := ofNone rfl
theorem hostCxlMemWrite : Statement .hostCxlMemWrite := ofNone rfl
theorem peerRead : Statement .peerRead := ofNone rfl
theorem pageMigrationRequest : Statement .pageMigrationRequest := ofNone rfl
theorem reservationExpiry : Statement .reservationExpiry := ofNone rfl
theorem vwaitReevaluation : Statement .vwaitReevaluation := ofNone rfl
theorem backInvalidationAck : Statement .backInvalidationAck := ofNone rfl
theorem peerAckTimeout : Statement .peerAckTimeout := ofNone rfl
theorem hostBiTimeout : Statement .hostBiTimeout := ofNone rfl
theorem collectionComplete : Statement .collectionComplete := ofNone rfl
theorem contextDestroy : Statement .contextDestroy := ofNone rfl
theorem copyCommandAccept : Statement .copyCommandAccept := ofNone rfl
theorem copyCommandComplete : Statement .copyCommandComplete := ofNone rfl
theorem streamSlotFill : Statement .streamSlotFill := ofNone rfl
theorem streamDrainWrite : Statement .streamDrainWrite := ofNone rfl
theorem stageStripArrival : Statement .stageStripArrival := ofNone rfl
theorem collectiveQueueAccept : Statement .collectiveQueueAccept := ofNone rfl
theorem collectiveComplete : Statement .collectiveComplete := ofNone rfl
theorem messageArrival : Statement .messageArrival := ofNone rfl
theorem overflowDelivery : Statement .overflowDelivery := ofNone rfl
theorem lsplitWrite : Statement .lsplitWrite := ofNone rfl
theorem splitApply : Statement .splitApply := ofNone rfl
theorem vpoolWrite : Statement .vpoolWrite := ofNone rfl
theorem wmaskWrite : Statement .wmaskWrite := ofNone rfl
theorem memcapWrite : Statement .memcapWrite := ofNone rfl
theorem irmctlStart : Statement .irmctlStart := ofNone rfl
theorem sweepWindow : Statement .sweepWindow := ofNone rfl
theorem snapctlStart : Statement .snapctlStart := ofNone rfl
theorem snapshotComplete : Statement .snapshotComplete := ofNone rfl
theorem snapshotFabricError : Statement .snapshotFabricError := ofNone rfl
theorem platctlLock : Statement .platctlLock := ofNone rfl
theorem platctlUnlock : Statement .platctlUnlock := ofNone rfl
theorem clockChangeComplete : Statement .clockChangeComplete := ofNone rfl
theorem hostctlAttach : Statement .hostctlAttach := ofNone rfl
theorem hostctlDetach : Statement .hostctlDetach := ofNone rfl
theorem hostLinkDown : Statement .hostLinkDown := ofNone rfl
theorem svcnotifyWrite : Statement .svcnotifyWrite := ofNone rfl
theorem hcmdCancel : Statement .hcmdCancel := ofNone rfl
theorem hcmdPreempt : Statement .hcmdPreempt := ofNone rfl
theorem hcmdResume : Statement .hcmdResume := ofNone rfl
theorem herraRead : Statement .herraRead := ofNone rfl
theorem herrnRead : Statement .herrnRead := ofNone rfl
theorem stkceRead : Statement .stkceRead := ofNone rfl
theorem kctlWrite : Statement .kctlWrite := ofNone rfl
theorem nonceWrite : Statement .nonceWrite := ofNone rfl
theorem intrtWrite : Statement .intrtWrite := ofNone rfl
theorem registerWrite : Statement .registerWrite := ofNone rfl
theorem ethernetLinkChange : Statement .ethernetLinkChange := ofNone rfl
theorem powerOnReset : Statement .powerOnReset := ofNone rfl
theorem spdmRequest : Statement .spdmRequest := ofNone rfl
theorem d3hotEntry : Statement .d3hotEntry := ofNone rfl
theorem d0Entry : Statement .d0Entry := ofNone rfl
theorem vectorInstructionCompletion : Statement .vectorInstructionCompletion := ofNone rfl
theorem ownerBackInvalidation : Statement .ownerBackInvalidation := ofNone rfl
theorem rv64ScalarInstruction : ∀ form op, Statement (.rv64ScalarInstruction form op) := by
  intro form op
  cases form with
  | full => exact of32 rfl (encodeScalar_fits op)
  | compressed c =>
    intro n w e
    have e : some (16, c.toNat) = some (n, w) := e
    obtain ⟨rfl, rfl⟩ := Prod.mk.inj (Option.some.inj e)
    exact .inr (.inr ⟨rfl, c.isLt⟩)

end Sys2Proof.Laws.EncodeFits
end

