-- ==== Sys2Proof/Tests/Slice0.lean ====
section
/-! SUPPORT. The model's own tests: ill-formed terms refused, words written field by field from R66 to R75 decoded,
single instructions on small states with results worked out by hand from the rules, and a witness for the hypotheses of
every statement. -/

namespace Sys2Proof.Tests

open Sys2Proof
open Sys2Proof.Machine

set_option Elab.async false

/-! ### Ill-formed terms -/

/-- Rounding modes 5 and 6 are reserved (R55). -/
theorem test_wf_rounding_mode :
    (Instr.rv64ScalarInstruction .full (.fbin .fadd true 5 1 2 3)).wf = false
    ∧ (Instr.rv64ScalarInstruction .full (.fsqrt false 6 1 2)).wf = false
    ∧ (Instr.rv64ScalarInstruction .full (.fma .fmadd true 5 1 2 3 4)).wf = false
    ∧ (Instr.rv64ScalarInstruction .full (.fcvtToInt .w true 6 1 2)).wf = false
    ∧ (Instr.rv64ScalarInstruction .full (.fcvtFromInt .w true 6 1 2)).wf = false
    ∧ (Instr.rv64ScalarInstruction .full (.fcvtSD 5 1 2)).wf = false
    ∧ (Instr.rv64ScalarInstruction .full (.fcvtDS 5 1 2)).wf = false
    ∧ (Instr.rv64ScalarInstruction .full (.fbin .fadd true 4 1 2 3)).wf = true := by decide

/-- Offsets of jumps and branches are even (R55). -/
theorem test_wf_odd_offset :
    (Instr.rv64ScalarInstruction .full (.jal 1 3)).wf = false
    ∧ (Instr.rv64ScalarInstruction .full (.branch .beq 1 2 5)).wf = false
    ∧ (Instr.rv64ScalarInstruction .full (.branch .beq 1 2 6)).wf = true := by decide

/-- A Quelan CSR has rows of its own, the write of VDIRTY one more (R59). -/
theorem test_wf_csr :
    (Instr.rv64ScalarInstruction .full (.csr { op := .rw, imm := false, rd := 1, src := 2, csr := 0x800 })).wf = false
    ∧ (Instr.quelanCsrAccess { op := .rw, imm := false, rd := 1, src := 2, csr := 0x001 }).wf = false
    ∧ (Instr.quelanCsrAccess { op := .rw, imm := false, rd := 1, src := 2, csr := 0x803 }).wf = false
    ∧ (Instr.vdirtyWrite { op := .rs, imm := false, rd := 1, src := 0, csr := 0x803 }).wf = false
    ∧ (Instr.vdirtyWrite { op := .rw, imm := false, rd := 1, src := 2, csr := 0x803 }).wf = true := by decide

/-- A compressed form carries a parcel that stands for its instruction: 0x0505 is `c.addi x10, 1` (R52). -/
theorem test_wf_compressed :
    (Instr.rv64ScalarInstruction (.compressed 0x0505) (.aluI .addi 11 11 1)).wf = false
    ∧ (Instr.rv64ScalarInstruction (.compressed 0x0000) (.aluI .addi 8 2 0)).wf = false
    ∧ (Instr.rv64ScalarInstruction (.compressed 0x0505) (.aluI .addi 10 10 1)).wf = true := by decide

/-- The fields of `fence.tso` are no plain fence (R187). -/
theorem test_wf_fence : (Instr.fence 8 3 3 0 0).wf = false ∧ (Instr.fence 0 3 3 0 0).wf = true := by decide

/-! ### Words, field by field -/

/-- Format VA (R66): op4, vm, c2, c1, src2, src1, f3, dst, major. -/
def va (op4 vm c2 c1 src2 src1 f3 dst major : Nat) : Nat :=
  op4 * 2 ^ 28 + vm * 2 ^ 27 + c2 * 2 ^ 26 + c1 * 2 ^ 25 + src2 * 2 ^ 20 + src1 * 2 ^ 15 + f3 * 2 ^ 12 + dst * 2 ^ 7 + major

/-- Format VM (R67): amode, vm, c, width, src2, base, f3, vd. -/
def vmw (amode vm c width src2 base f3 vd : Nat) : Nat :=
  amode * 2 ^ 29 + vm * 2 ^ 28 + c * 2 ^ 27 + width * 2 ^ 25 + src2 * 2 ^ 20 + base * 2 ^ 15 + f3 * 2 ^ 12 + vd * 2 ^ 7 + 0x2B

/-- Format QI, function layout (R68): fn7, xs2, xs1, f3, xd, major. -/
def qi (fn7 xs2 xs1 f3 xd major : Nat) : Nat :=
  fn7 * 2 ^ 25 + xs2 * 2 ^ 20 + xs1 * 2 ^ 15 + f3 * 2 ^ 12 + xd * 2 ^ 7 + major

/-- Format L (R69): fn6, bits [57:32] as a number, flags, src3, src2, src1, f3, dst. -/
def lw (fn6 mid flags src3 src2 src1 f3 dst : Nat) : Nat :=
  fn6 * 2 ^ 58 + mid * 2 ^ 32 + flags * 2 ^ 30 + src3 * 2 ^ 25 + src2 * 2 ^ 20 + src1 * 2 ^ 15 + f3 * 2 ^ 12 + dst * 2 ^ 7 + 0x3F

/-- Every word of a list decodes to its instruction. -/
def Decodes (nbits : Nat) (l : List (Nat × Instr)) : Prop := l.all (fun p => decodeTableWord nbits p.1 == some p.2) = true

def aVV : FVV := { vm := true, c2 := false, c1 := true, vs2 := 18, vs1 := 5, vd := 9 }
def aVX : FVX := { vm := true, c2 := true, vs2 := 18, rs1 := 5, vd := 9 }
def aVI : FVI := { vm := false, c2 := true, vs2 := 18, imm := 0x1D, vd := 9 }
def aVU : FVU := { vm := true, c2 := true, vs2 := 18, vd := 9 }
def aKVV : FKVV := { vm := true, c2 := false, c1 := true, vs2 := 18, vs1 := 5, kd := 6 }
def aKVX : FKVX := { vm := true, c2 := true, vs2 := 18, rs1 := 5, kd := 6 }
def aKVI : FKVI := { vm := false, c2 := true, vs2 := 18, imm := 0x1D, kd := 6 }

/-- R71, f3 000: op4 0 to 15. -/
theorem test_decode_integer_vv : Decodes 32 ((
    [.vaddVv aVV, .vsubVv aVV, .vmulVv aVV, .vmulhVv aVV, .vmulhnVv aVV, .vmaccVv aVV, .vnmsacVv aVV, .vminVv aVV,
     .vmaxVv aVV, .vminnVv aVV, .vmaxnVv aVV, .vandVv aVV, .vorVv aVV, .vxorVv aVV, .vsllVv aVV, .vsrlVv aVV] : List Instr).zipIdx.map
    fun p => (va p.2 1 0 1 18 5 0 9 0x0B, p.1)) := by unfold Decodes; decide +kernel

/-- R71, f3 111: op4 0 to 8. -/
theorem test_decode_integer_vv_second_page : Decodes 32 ((
    [.vsraVv aVV, .vdivVv aVV, .vdivnVv aVV, .vremVv aVV, .vremnVv aVV, .vsaddVv aVV, .vsaddnVv aVV, .vssubVv aVV,
     .vssubnVv aVV] : List Instr).zipIdx.map fun p => (va p.2 1 0 1 18 5 7 9 0x0B, p.1)) := by unfold Decodes; decide +kernel

/-- R71, f3 001: op5, whose bit 4 is bit 25, 0 to 25; 26 is the splat. -/
theorem test_decode_integer_vx : Decodes 32 (((
    [.vaddVx aVX, .vsubVx aVX, .vmulVx aVX, .vmulhVx aVX, .vmulhnVx aVX, .vmaccVx aVX, .vnmsacVx aVX, .vminVx aVX,
     .vmaxVx aVX, .vminnVx aVX, .vmaxnVx aVX, .vandVx aVX, .vorVx aVX, .vxorVx aVX, .vsllVx aVX, .vsrlVx aVX,
     .vsraVx aVX, .vdivVx aVX, .vdivnVx aVX, .vremVx aVX, .vremnVx aVX, .vsaddVx aVX, .vsaddnVx aVX, .vssubVx aVX,
     .vssubnVx aVX, .vrsubVx aVX] : List Instr).zipIdx.map fun p => (va (p.2 % 16) 1 1 (p.2 / 16) 18 5 1 9 0x0B, p.1))
    ++ [(va 10 1 0 1 0 5 1 9 0x0B, .vsplatVx true 9 5)]) := by unfold Decodes; decide +kernel

/-- R71, f3 010. -/
theorem test_decode_integer_vi : Decodes 32 (((
    [(0, .vaddVi aVI), (11, .vandVi aVI), (12, .vorVi aVI), (13, .vxorVi aVI), (14, .vsllVi aVI), (15, .vsrlVi aVI),
     (16, .vsraVi aVI), (21, .vsaddVi aVI), (22, .vsaddnVi aVI), (25, .vrsubVi aVI)] : List (Nat × Instr)).map
      fun p => (va (p.1 % 16) 0 1 (p.1 / 16) 18 0x1D 2 9 0x0B, p.2))
    ++ [(va 10 1 0 1 0 0x1D 2 9 0x0B, .vsplatVi true 9 0x1D)]) := by unfold Decodes; decide +kernel

/-- R71, f3 011, the unary forms under op4 13. -/
theorem test_decode_float_vv : Decodes 32 (((
    [.vfaddVv aVV, .vfsubVv aVV, .vfmulVv aVV, .vfdivVv aVV, .vfminVv aVV, .vfmaxVv aVV, .vfmaccVv aVV, .vfnmaccVv aVV,
     .vfmsacVv aVV, .vfnmsacVv aVV, .vfsgnjVv aVV, .vfsgnjnVv aVV, .vfsgnjxVv aVV] : List Instr).zipIdx.map
      fun p => (va p.2 1 0 1 18 5 3 9 0x0B, p.1))
    ++ ([.vfsqrt aVU, .vfrece aVU, .vfrsqe aVU, .vfclass aVU] : List Instr).zipIdx.map
      fun p => (va 13 1 1 0 18 p.2 3 9 0x0B, p.1)) := by unfold Decodes; decide +kernel

/-- R71, f3 100. -/
theorem test_decode_float_vf : Decodes 32 (((
    [.vfaddVf aVX, .vfsubVf aVX, .vfmulVf aVX, .vfdivVf aVX, .vfminVf aVX, .vfmaxVf aVX, .vfmaccVf aVX, .vfnmaccVf aVX,
     .vfmsacVf aVX, .vfnmsacVf aVX, .vfsgnjVf aVX, .vfsgnjnVf aVX, .vfsgnjxVf aVX, .vfrsubVf aVX, .vfrdivVf aVX]
       : List Instr).zipIdx.map fun p => (va p.2 1 1 0 18 5 4 9 0x0B, p.1))
    ++ [(va 15 1 0 0 0 5 4 9 0x0B, .vfsplat true 9 5)]) := by unfold Decodes; decide +kernel

/-- R71, f3 101. -/
theorem test_decode_reductions : Decodes 32 (((
    [.vredsum aVV, .vredmax aVV, .vredmin aVV, .vredmaxn aVV, .vredminn aVV, .vredand aVV, .vredor aVV, .vfredo aVV,
     .vfredt aVV, .vfredmax aVV, .vfredmin aVV, .vfredamax aVV] : List Instr).zipIdx.map
      fun p => (va p.2 1 0 1 18 5 5 9 0x0B, p.1))
    ++ [(va 12 0 1 0 18 0 5 9 0x0B, .vmvxs true 9 18), (va 13 0 1 0 18 0 5 9 0x0B, .vmvfs true 9 18)]) := by
  unfold Decodes; decide +kernel

/-- R71, f3 110, with SATI in bit 25. -/
theorem test_decode_conversions : Decodes 32
    [(va 0 1 1 0 18 0 6 9 0x0B, .vfcvtfi aVU), (va 1 1 1 0 18 0 6 9 0x0B, .vfcvtif aVU), (va 2 1 1 0 18 0 6 9 0x0B, .vfwcvt aVU),
     (va 3 1 1 1 18 0 6 9 0x0B, .vfncvt { vm := true, c2 := true, sat := true, vs2 := 18, vd := 9 }),
     (va 4 1 1 1 18 5 6 9 0x0B, .vqcvt { vm := true, c2 := true, sat := true, vs2 := 18, rs1 := 5, vd := 9 }),
     (va 5 1 1 0 18 5 6 9 0x0B, .vdqcvt aVX), (va 6 1 1 0 18 0 6 9 0x0B, .vncvti aVU),
     (va 7 1 1 0 18 0 6 9 0x0B, .vwcvti aVU)] := by unfold Decodes; decide +kernel

/-- R72, f3 000 to 010. -/
theorem test_decode_compares : Decodes 32 (
    (([.vmseqVv aKVV, .vmsneVv aKVV, .vmsltVv aKVV, .vmsltnVv aKVV, .vmsleVv aKVV, .vmslenVv aKVV] : List Instr).zipIdx.map
      fun p => (va p.2 1 0 1 18 5 0 6 0x7B, p.1))
    ++ (([.vmseqVx aKVX, .vmsneVx aKVX, .vmsltVx aKVX, .vmsltnVx aKVX, .vmsleVx aKVX, .vmslenVx aKVX] : List Instr).zipIdx.map
      fun p => (va (8 + p.2) 1 1 0 18 5 0 6 0x7B, p.1))
    ++ (([(0, .vmseqVi aKVI), (1, .vmsneVi aKVI), (4, .vmsleVi aKVI), (5, .vmslenVi aKVI)] : List (Nat × Instr)).map
      fun p => (va p.1 0 1 0 18 0x1D 1 6 0x7B, p.2))
    ++ (([.vmfeqVv aKVV, .vmfneVv aKVV, .vmfltVv aKVV, .vmfleVv aKVV, .vmfordVv aKVV] : List Instr).zipIdx.map
      fun p => (va p.2 1 0 1 18 5 2 6 0x7B, p.1))
    ++ ([.vmfeqVf aKVX, .vmfneVf aKVX, .vmfltVf aKVX, .vmfleVf aKVX, .vmfordVf aKVX] : List Instr).zipIdx.map
      fun p => (va (8 + p.2) 1 1 0 18 5 2 6 0x7B, p.1)) := by unfold Decodes; decide +kernel

/-- R72, f3 011 and 100. -/
theorem test_decode_masks_and_permutes : Decodes 32
    [(va 0 0 0 0 3 2 3 5 0x7B, .kand 5 3 2), (va 1 0 0 0 3 2 3 5 0x7B, .kor 5 3 2), (va 2 0 0 0 3 2 3 5 0x7B, .kxor 5 3 2),
     (va 3 0 0 0 3 2 3 5 0x7B, .kandn 5 3 2), (va 4 0 0 0 3 0 3 5 0x7B, .knot 5 3), (va 5 0 0 0 3 0 3 5 0x7B, .kmov 5 3),
     (va 6 0 0 0 3 0 3 25 0x7B, .kpop 25 3), (va 7 0 0 0 3 0 3 25 0x7B, .kfirst 25 3),
     (va 0 1 1 0 18 5 4 9 0x7B, .vslideupVx aVX), (va 1 0 1 0 18 0x1D 4 9 0x7B, .vslideupVi aVI),
     (va 2 1 1 0 18 5 4 9 0x7B, .vslidednVx aVX), (va 3 0 1 0 18 0x1D 4 9 0x7B, .vslidednVi aVI),
     (va 4 1 0 1 18 5 4 9 0x7B, .vpermVv aVV), (va 5 0 1 0 18 7 4 9 0x7B, .vcompress true 9 18 7),
     (va 6 0 1 0 18 7 4 9 0x7B, .vexpand true 9 18 7), (va 7 1 1 0 18 5 4 9 0x7B, .vmergeVv true false 9 18 5),
     (va 8 1 1 0 18 5 4 9 0x7B, .vmergeVx true 9 18 5), (va 9 1 1 0 18 0x1D 4 9 0x7B, .vmergeVi true 9 18 0x1D),
     (va 10 1 0 0 0 0 4 9 0x7B, .vid true 9)] := by unfold Decodes; decide +kernel

/-- R72, f3 101 and 110. -/
theorem test_decode_configuration_and_system : Decodes 32
    [(2 ^ 31 + 2 * 2 ^ 28 + 0x5A * 2 ^ 20 + 7 * 2 ^ 15 + 5 * 2 ^ 12 + 9 * 2 ^ 7 + 0x7B, .vsetli 9 7 2 0x5A),
     (qi 0 11 7 5 9 0x7B, .vsetl 9 7 11), (qi 1 0 0 5 0 0x7B, .vrel), (qi 2 1 0 5 0 0x7B, .lfork true),
     (qi 2 0 0 5 0 0x7B, .lfork false), (qi 3 0 0 5 0 0x7B, .ljoin),
     (qi 0 11 7 6 9 0x7B, .bkrd 9 7 11), (qi 1 0 7 6 0 0x7B, .bkrsm 7), (qi 2 0 7 6 9 0x7B, .ccmoveMove 9 7),
     (qi 3 0 7 6 9 0x7B, .frqpop 9 7), (qi 4 11 7 6 0 0x7B, .latw 7 11), (qi 5 11 7 6 0 0x7B, .thrset 7 11)] := by
  unfold Decodes; decide +kernel

/-- R73: the amodes of the loads and stores, and the mask forms. -/
theorem test_decode_vector_memory : Decodes 32
    [(vmw 0 1 0 2 0 7 0 9, .vld { vm := true, w := 2, base := 7, vd := 9 }),
     (vmw 0 1 1 2 0 7 1 9, .vst { vm := true, c := true, w := 2, base := 7, vd := 9 }),
     (vmw 0 0 0 0 0 7 2 6, .kld 6 7), (vmw 0 0 0 0 0 7 3 6, .kst 6 7),
     (vmw 1 1 0 3 11 7 0 9, .vlds { vm := true, w := 3, src2 := 11, base := 7, vd := 9 }),
     (vmw 1 1 1 3 11 7 1 9, .vsts { vm := true, c := true, w := 3, src2 := 11, base := 7, vd := 9 }),
     (vmw 2 0 1 1 18 7 0 9, .vldxO { vm := false, c := true, w := 1, src2 := 18, base := 7, vd := 9 }),
     (vmw 2 0 1 1 18 7 1 9, .vstxO { vm := false, c := true, w := 1, src2 := 18, base := 7, vd := 9 }),
     (vmw 3 0 1 1 18 7 0 9, .vldx { vm := false, c := true, w := 1, src2 := 18, base := 7, vd := 9 }),
     (vmw 3 0 1 1 18 7 1 9, .vstx { vm := false, c := true, w := 1, src2 := 18, base := 7, vd := 9 }),
     (vmw 4 1 0 2 0 7 0 9, .vldff { vm := true, w := 2, base := 7, vd := 9 }),
     (vmw 5 1 0 2 0 7 0 9, .vldl { vm := true, w := 2, base := 7, vd := 9 }),
     (vmw 5 1 1 2 0 7 1 9, .vstl { vm := true, c := true, w := 2, base := 7, vd := 9 })] := by unfold Decodes; decide +kernel

/-- R73: amode 110. -/
theorem test_decode_streams : Decodes 32
    [(vmw 6 0 0 0 0 7 0 13, .qdef 13 7), (vmw 6 0 0 0 13 0 1 25, .qbind 25 13), (vmw 6 0 0 0 0 0 2 25, .qunb 25),
     (vmw 6 0 0 0 13 0 3 25, .qavail 25 13), (vmw 6 0 0 0 0 7 4 13, .qwait 13 7), (vmw 6 0 0 0 0 0 5 13, .qend 13),
     (vmw 6 0 0 0 0 0 6 13, .qrst 13)] := by unfold Decodes; decide +kernel

/-- R74: the atomics at scope 2, and the waits and links. -/
theorem test_decode_vector_atomics : Decodes 32 (
    (let a : FAmo := { vm := true, aq := false, rl := true, vs2 := 18, base := 7, scope := 2, vd := 10 }
     ([.vamoadd a, .vamomin a, .vamomax a, .vamominn a, .vamomaxn a, .vamoand a, .vamoor a, .vamoxor a, .vamoswp a,
       .vamocas a, .vamofadd a] : List Instr).zipIdx.map fun p => (va p.2 1 0 1 18 7 2 10 0x5B, p.1))
    ++ (let a : FWait := { vm := true, vs2 := 18, base := 7, vs3 := 9 }
        ([.vwaitEq a, .vwaitNe a, .vwaitLt a, .vwaitGe a] : List Instr).zipIdx.map fun p => (va p.2 1 0 0 18 7 5 9 0x5B, p.1))
    ++ [(va 4 1 1 0 18 7 5 9 0x5B, .vgl { vm := true, ord := true, vs2 := 18, base := 7, vd := 9 }),
        (va 5 0 0 1 18 7 5 9 0x5B, .vsc { vm := false, ord := true, vs2 := 18, base := 7, vd := 9 })]) := by
  unfold Decodes; decide +kernel

/-- R74, f3 110. -/
theorem test_decode_scalar_sync : Decodes 32
    [(qi 0 2 0 6 0 0x5B, .ordSv 2), (qi 1 2 0 6 0 0x5B, .ordVs 2), (qi 2 2 0 6 0 0x5B, .ordVv 2), (qi 3 2 0 6 0 0x5B, .ordAll 2),
     (qi 8 0 0 6 0 0x5B, .bar), (qi 9 0 0 6 0 0x5B, .phend), (qi 10 0 0 6 0 0x5B, .wfe), (qi 11 0 7 6 0 0x5B, .sev 7),
     (qi 0x10 11 7 6 13 0x5B, .send 7 11 13), (qi 0x11 0 13 6 10 0x5B, .recv 10 13), (qi 0x12 0 13 6 10 0x5B, .recvnb 10 13),
     (qi 0x18 11 7 6 9 0x5B, .frz 9 7 11), (qi 0x19 0 7 6 13 0x5B, .thaw 7 13), (qi 0x1A 0 7 6 0 0x5B, .thaww 7),
     (qi 0x1B 0 7 6 9 0x5B, .frzq 9 7), (qi 0x20 0 0 6 0 0x5B, .gexit), (qi 0x21 0 0 6 0 0x5B, .yld),
     (qi 0x22 1 0 6 0 0x5B, .migControl), (qi 0x22 2 0 6 0 0x5B, .migVector), (qi 0x22 3 0 6 0 0x5B, .migArray),
     (qi 0x24 0 7 6 9 0x5B, .syscB 9 7), (qi 0x25 0 7 6 9 0x5B, .syscN 9 7)] := by unfold Decodes; decide +kernel

/-- R75: 64-bit words. -/
theorem test_decode_format_l : Decodes 64
    [(lw 0 (0x2A5 * 2 ^ 16) 0 0 13 7 0 0, .mmr 0x2A5 13 7), (lw 1 (0x2A5 * 2 ^ 16) 0 0 13 7 0 0, .mmrz 0x2A5 13 7),
     (lw 2 (0x2A5 * 2 ^ 16) 0 29 13 7 0 0, .mmrs 0x2A5 13 7 29), (lw 0 (0x2A5 * 2 ^ 16) 0 0 0 7 1 9, .accrd 9 7 0x2A5),
     (lw 1 (0x2A5 * 2 ^ 16) 0 0 18 7 1 0, .accwr 7 0x2A5 18), (lw 2 (0x2A5 * 2 ^ 16 + 0x155 * 2 ^ 6) 0 0 0 7 1 0, .accz 7 0x2A5 0x155),
     (lw 3 0 0 0 13 0 1 0, .wclr 13), (lw 4 0 0 0 13 0 1 9, .wdesc 9 13),
     (lw 0 (13 * 2 ^ 22) 1 0 0 7 2 6, .cpt { ch := 13, base := 7, kd := some 6 }),
     (lw 1 (13 * 2 ^ 22) 2 0 18 7 2 0, .cpgr { ch := 13, base := 7, kd := none, vs2 := 18, c := true }),
     (lw 2 (13 * 2 ^ 22) 3 0 18 7 2 6, .cpsc { ch := 13, base := 7, kd := some 6, vs2 := 18, c := true }),
     (lw 3 (13 * 2 ^ 22 + 9 * 2 ^ 12) 0 0 0 7 2 0, .cpw { ch := 13, base := 7, kd := none } 9),
     (lw 4 (13 * 2 ^ 22) 0 0 0 7 2 0, .cpf { ch := 13, base := 7, kd := none }),
     (lw 0 (13 * 2 ^ 22) 0 0 0 7 3 9, .lnch 9 7 13), (lw 0 (13 * 2 ^ 22) 0 0 0 7 4 9, .cpost 9 7 13)] := by
  unfold Decodes; decide +kernel

/-- R55, R59, R187: words of the base, in the layouts of RV64; the parcel 0x0505 is `c.addi x10, 1`. -/
theorem test_decode_base : Decodes 32
    [(0x0330000F, .fence 0 3 3 0 0), (0x8330000F, .fenceTso), (0x0000100F, .fenceI), (0x00000073, .ecall), (0x00100073, .ebreak),
     (0xCC0024F3, .quelanCsrAccess { op := .rs, imm := false, rd := 9, src := 0, csr := 0xCC0 }),
     (0x80301073, .vdirtyWrite { op := .rw, imm := false, rd := 0, src := 0, csr := 0x803 }),
     (0x00B50533, .rv64ScalarInstruction .full (.alu .add 10 10 11)),
     (0xFFF50513, .rv64ScalarInstruction .full (.aluI .addi 10 10 0xFFF)),
     (0x00853483, .rv64ScalarInstruction .full (.load .ld 9 10 8)),
     (0xFE953C23, .rv64ScalarInstruction .full (.store .sd 10 9 0xFF8)),
     (0xFE0510E3, .rv64ScalarInstruction .full (.branch .bne 10 0 0x1FE0)),
     (0x02C5F553, .rv64ScalarInstruction .full (.fbin .fadd true 7 10 11 12))]
    ∧ Decodes 16 [(0x0505, .rv64ScalarInstruction (.compressed 0x0505) (.aluI .addi 10 10 1))] := by
  unfold Decodes; decide +kernel

/-- Words that name no instruction: an unassigned code, a reserved bit, a 48-bit parcel, `mig` to class 0 (R52, R54). -/
theorem test_decode_refuses :
    decodeTableWord 32 (va 9 0 0 0 18 5 7 9 0x0B) = none ∧ decodeTableWord 32 (va 0 0 0 0 18 5 6 9 0x0B) = none
    ∧ decodeTableWord 32 (vmw 7 0 0 0 0 7 0 9) = none ∧ decodeTableWord 32 0x1F = none ∧ decodeTableWord 16 0 = none
    ∧ decodeTableWord 32 (qi 0x22 0 0 6 0 0x5B) = none ∧ decodeTableWord 64 (lw 5 0 0 0 0 0 1 0) = none := by decide +kernel

/-- The listing of R153: `qdef q3, [x14]` and `qbind v2, q3`. -/
theorem test_decode_listing :
    decodeTableWord 32 0xC00701AB = some (.qdef 3 14) ∧ decodeTableWord 32 0xC030112B = some (.qbind 2 3) := by decide

/-! ### Small machines -/

/-- A user strand on a core, with one lane group, an image of VTYPE and VL. -/
def strandOn (core : Nat) (vt : Word) (vl : Nat) : Strand :=
  { Strand.fresh 1 with core := core, lid := 1, g := 1, vtype := vt, vl := vl, pc := 0x1000 }

/-- A machine whose one core runs a strand. -/
def machineOn (t : Strand) : State := { State.reset with cur := t, cores := [Core.reset t.core], nextUid := 2 }

/-- All cores, these in service. -/
def coresIn (ids : List Nat) : List Core := coreIds.map fun id => { Core.reset id with inService := ids.contains id }
/-- One core of each class in service. -/
def cores3 : List Core := coresIn [0, 0x0100, 0x0300]

/-- Images of R63: INT32 signed, FP32, INT8 signed, FP16. -/
def vtI32 : Word := 2
def vtF32 : Word := 0x12
def vtI8 : Word := 0
def vtF16 : Word := 0x11
def vtF8 : Word := 0x10

/-- A vector core (0x0100), an array core (0x0300) and a control core (0x0000). -/
def onVector (vt : Word) : State := machineOn (strandOn 0x0100 vt 4)
def onArray (vt : Word) : State := machineOn (strandOn 0x0300 vt 4)
def onControl (md : Mode) : State := machineOn { strandOn 0 villOnly 0 with g := 0, mode := md }

/-- A vector register of 32-bit elements, from element 0 up. -/
def v32 (l : List Nat) : VReg := BitVec.ofNat 32768 (l.foldr (fun x a => a * 2 ^ 32 + x) 0)

/-- A page lock of the host's on device page 0. -/
def lockedBack (s : State) : State := { s with xl := { s.xl with locks := [{ page := 0, byHost := true, target := 9 }] } }

/-- Events of the outside that wait. -/
def waitingFor (es : List Event) (s : State) : State := { s with lu := { s.lu with waiting := es } }

/-- What a function gives on the state after an instruction. -/
def after {α : Type} (i : Instr) (s : State) (f : State → α) : Option α :=
  match exec i s with
  | .next t => some (f t)
  | _ => none

/-- The first n elements of a register of the current strand. -/
def els (n : Nat) (r : Reg) (s : State) : List Nat := (List.range n).map fun i => s.cur.elem r s.cur.ew i

/-- Registers given values. -/
def setV (r : Reg) (l : List Nat) (s : State) : State := s.onCur fun t => { t with v := t.v.set r (v32 l) }
def setX (r : Reg) (w : Word) (s : State) : State := s.onCur fun t => { t with x := t.x.set r w }
def setK (k : MReg) (w : KReg) (s : State) : State := s.onCur fun t => { t with k := t.k.set k w }

/-- Device memory from 0 up, readable, writable and executable by the user of context 0, at 2^42. -/
def mapped (s : State) : State := { s with dev := s.dev.write 8 (leBytes 8 0xCF) }

/-! ### Issue -/

/-- On a small machine nothing stands in the way of a vector instruction that its class implements. -/
theorem vIssue_of (s : State) (cs : List Cls) (ks : List MReg) (reads writes : List Reg) (hf : s.cur.fork = none)
    (hc : s.cur.cls ∈ cs) (hk : s.cur.kdPend = []) (hg : InGrant s.cur) (hr : s.cur.replyQ = [])
    (hq : ∀ r : Reg, s.cur.boundTo r = none) : VIssue s s cs ks reads writes := by
  have hd : s.delivered = s := by
    show { s with cur := s.cur.replyAll } = s
    rw [Strand.replyAll_nil hr]
  refine ⟨⟨hf, hc, fun k _ => by rw [hk]; exact List.not_mem_nil⟩, hg, ?_⟩
  rw [hd]
  exact State.streamIn_unbound (fun r _ => hq r) (fun r _ => hq r)

theorem cls_onVector (vt : Word) : (onVector vt).cur.cls = .vector := by
  show coreClass 0x0100 = .vector
  decide

theorem onVector_issues (vt : Word) (h : 4 ≤ (strandOn 0x0100 vt 4).vlmax) (ks : List MReg) (reads writes : List Reg)
    (cs : List Cls) (hc : cs.contains .vector = true) : VIssue (onVector vt) (onVector vt) cs ks reads writes :=
  vIssue_of _ _ _ _ _ rfl (by rw [cls_onVector]; exact List.contains_iff_mem.1 hc) rfl ⟨Nat.le_of_ble_eq_true rfl, h⟩ rfl (by intro r; rfl)

theorem cls_onArray (vt : Word) : (onArray vt).cur.cls = .array := by
  show coreClass 0x0300 = .array
  decide

theorem onArray_issues (vt : Word) (h : 4 ≤ (strandOn 0x0300 vt 4).vlmax) (ks : List MReg) (reads writes : List Reg)
    (cs : List Cls) (hc : cs.contains .array = true) : VIssue (onArray vt) (onArray vt) cs ks reads writes :=
  vIssue_of _ _ _ _ _ rfl (by rw [cls_onArray]; exact List.contains_iff_mem.1 hc) rfl ⟨Nat.le_of_ble_eq_true rfl, h⟩ rfl (by intro r; rfl)

/-- Groups of one register begin at any register. -/
theorem grouped_one {c : Nat} (h : c = 1) (rs : List Reg) : Grouped c rs := by
  subst h; exact fun r _ => Nat.mod_one _

theorem issuesV (vt : Word) (cs : List Cls) (ks : List MReg) (hc : cs.contains .vector = true) : Issues (onVector vt) cs ks :=
  ⟨rfl, by rw [cls_onVector]; exact List.contains_iff_mem.1 hc, fun _ _ => List.not_mem_nil⟩

theorem issuesA (vt : Word) (cs : List Cls) (ks : List MReg) (hc : cs.contains .array = true) : Issues (onArray vt) cs ks :=
  ⟨rfl, by rw [cls_onArray]; exact List.contains_iff_mem.1 hc, fun _ _ => List.not_mem_nil⟩

/-- The element count of a strand's VTYPE is at least 4. -/
theorem vlmax4 : 4 ≤ (strandOn 0x0100 vtI32 4).vlmax ∧ 4 ≤ (strandOn 0x0100 vtF32 4).vlmax
    ∧ 4 ≤ (strandOn 0x0100 vtI8 4).vlmax ∧ 4 ≤ (strandOn 0x0100 vtF16 4).vlmax ∧ 4 ≤ (strandOn 0x0100 vtF8 4).vlmax
    ∧ 4 ≤ (strandOn 0x0300 vtI32 4).vlmax := by decide

/-! ### Vector computation: witnesses -/

theorem witness_IntVectorVector : ∀ p ∈ vvRows, ∀ (a : FVV),
    VIssue (onVector vtI32) (onVector vtI32) p.2.cs (maskOf a.vm) ([a.vs2, a.vs1] ++ if p.2.useD then [a.vd] else []) [a.vd]
    ∧ (onVector vtI32).cur.fmtInt = true ∧ Grouped (onVector vtI32).cur.grp [a.vd, a.vs2, a.vs1] := by
  have h : vvRows.all (fun p => p.2.cs.contains .vector) = true := by decide
  intro p hp a
  exact ⟨onVector_issues _ vlmax4.1 _ _ _ _ (List.all_eq_true.1 h p hp), by decide, grouped_one (by decide) _⟩

theorem witness_IntVectorScalar :
    (∀ p ∈ vxRows, ∀ (a : FVX),
      VIssue (onVector vtI32) (onVector vtI32) p.2.cs (maskOf a.vm) ([a.vs2] ++ if p.2.useD then [a.vd] else []) [a.vd]
      ∧ (onVector vtI32).cur.fmtInt = true ∧ Grouped (onVector vtI32).cur.grp [a.vd, a.vs2])
    ∧ ∀ p ∈ viRows, ∀ (a : FVI), VIssue (onVector vtI32) (onVector vtI32) p.2.2.cs (maskOf a.vm) [a.vs2] [a.vd]
      ∧ Grouped (onVector vtI32).cur.grp [a.vd, a.vs2] := by
  have h : vxRows.all (fun p => p.2.cs.contains .vector) = true := by decide
  have h' : viRows.all (fun p => p.2.2.cs.contains .vector) = true := by decide
  exact ⟨fun p hp a => ⟨onVector_issues _ vlmax4.1 _ _ _ _ (List.all_eq_true.1 h p hp), by decide, grouped_one (by decide) _⟩,
    fun p hp a => ⟨onVector_issues _ vlmax4.1 _ _ _ _ (List.all_eq_true.1 h' p hp), grouped_one (by decide) _⟩⟩

theorem witness_SplatMergeIndex (ks : List MReg) (srcs : List Reg) (vd : Reg) :
    (VIssue (onVector vtI32) (onVector vtI32) clsVA ks srcs [vd] ∧ (onVector vtI32).cur.fmtAny = true
      ∧ (onVector vtI32).cur.fmtInt = true ∧ Grouped (onVector vtI32).cur.grp (vd :: srcs))
    ∧ VIssue (onVector vtF32) (onVector vtF32) clsV ks [] [vd] ∧ (onVector vtF32).cur.fmtFloat = true
      ∧ Grouped (onVector vtF32).cur.grp [vd] :=
  ⟨⟨onVector_issues _ vlmax4.1 _ _ _ _ rfl, by decide, by decide, grouped_one (by decide) _⟩,
    onVector_issues _ vlmax4.2.1 _ _ _ _ rfl, by decide, grouped_one (by decide) _⟩

theorem witness_FloatElementwise (ks : List MReg) (srcs : List Reg) (vd : Reg) :
    VIssue (onVector vtF32) (onVector vtF32) clsV ks srcs [vd] ∧ Grouped (onVector vtF32).cur.grp (vd :: srcs)
    ∧ ∀ row : FloatRow, row.allowed (onVector vtF32).cur :=
  ⟨onVector_issues _ vlmax4.2.1 _ _ _ _ rfl, grouped_one (by decide) _, fun _ => ⟨by decide, fun _ => by decide⟩⟩

/-- Operands of the scalar clauses of FloatElementwise in FP32: finite ones, a zero divisor, opposite infinities, a signalling
NaN, a subnormal that FTZ takes away; formats without an infinity saturate. -/
theorem witness_FloatElementwise_values :
    fp32.hasInf = true ∧ fp32.val 0x3F800000 = .fin false (2 ^ 23) (-23) ∧ fp32.val 0 = .fin false 0 (-149)
    ∧ fp32.val 0x7F800000 = .inf false ∧ fp32.val 0xFF800000 = .inf true ∧ fp32.val 0x7FA00000 = .nan true
    ∧ (0 < 0x80000001 % fp32.signBit ∧ 0x80000001 % fp32.signBit < 2 ^ fp32.fb) ∧ e4m3.hasInf = false
    ∧ ({ rm := .rne, sat := true, ftz := false } : Round).sat = true := by decide +kernel

/-- Operands of the other clauses of FloatElementwise, in FP16: a number with a root, a divisor, NaNs of both kinds, and the
magnitudes that the estimates tell apart: zero, subnormal, normal, infinite; 1 has the estimate 1, with exponent 0. -/
theorem witness_FloatElementwise_estimates :
    fp16.hasInf = true ∧ 8 < fp16.width ∧ fp16.reads false 0x3C00 = .fin false 1024 (-10) ∧ fp16.reads false 0xBC00 = .fin true 1024 (-10)
    ∧ fp16.reads true 0x8001 = .fin true 0 (-24) ∧ (fp16.val 0x7E00).isNan = true ∧ fp16.val 0x7D00 = .nan true
    ∧ (fp16.val 0x3C00).isNan = false
    ∧ 0x7C00 % fp16.signBit = fp16.infPattern ∧ 0x8000 % fp16.signBit = 0 ∧ fp16.infPattern < 0x7E00 % fp16.signBit
    ∧ (0 < 0x3C00 % fp16.signBit ∧ 0x3C00 % fp16.signBit < fp16.infPattern) ∧ fp16.negative 0xBC00 = true
    ∧ fp16.recip 0x3C00 = (0x3C00, 0) ∧ fp16.rsqrt 0x3C00 = (0x3C00, 0) := by decide +kernel

/-- Operands of the scalar clauses of Conversions: NaNs, infinities and numbers of FP16, E4M3 and FP32, scales 0, 1 and ∞. -/
theorem witness_Conversions_values :
    (fp16.val 0x7E00).isNan = true ∧ fp16.val 0xFC00 = .inf true ∧ fp16.reads false 0xC000 = .fin true 1024 (-9)
    ∧ (e4m3.val 0x7F).isNan = true ∧ 0x38 % e4m3.signBit ≤ e4m3.maxBits ∧ e5m2.val 0x7C = .inf false
    ∧ (fp32.reads false 0x7FC00000).isNan = true ∧ fp32.reads false 0x7F800000 = .inf false
    ∧ fp32.reads false 0 = .fin false 0 (-149) ∧ fp32.reads true 0x80000001 = .fin true 0 (-149)
    ∧ fp32.reads false 0x3F800000 = .fin false (2 ^ 23) (-23) ∧ ({ rm := .rup, sat := false, ftz := true } : Round).sat = false
    ∧ cvtToInt fp16 { rm := .rtz, sat := false, ftz := false } true 16 0xC100 = (0xFFFE, flNX)
    ∧ cvtWiden e4m3 fp16 0x38 = (0x3C00, 0) ∧ cvtNarrow fp16 e4m3 { rm := .rne, sat := false, ftz := false } false 0x3C00 = (0x38, 0) := by
  decide +kernel

/-- A number rounds to an integer in every mode: the premise of the last clause of Conversions, −2 in FP16. -/
theorem witness_Conversions_integer : ∀ rm : Rm, RoundsInt rm true |(fp16.reads false 0xC000).toQ| 2 := by
  have h : (fp16.reads false 0xC000).toQ = -2 := by
    have hv : fp16.reads false 0xC000 = .fin true 1024 (-9) := by decide +kernel
    rw [hv]; norm_num [FVal.toQ]
  intro rm
  rw [h]
  cases rm <;> norm_num [RoundsInt]

theorem witness_Conversions :
    (CvtIssue (onVector vtI32) (onVector vtI32) true 3 1 1 1 ∧ fiOk (onVector vtI32).cur ∧ (onVector vtI32).cur.rmOk = true)
    ∧ (CvtIssue (onVector vtF16) (onVector vtF16) true 3 4 1 2 ∧ CvtIssue (onVector vtF16) (onVector vtF16) true 4 3 2 1
      ∧ fwOk (onVector vtF16).cur ∧ (onVector vtF16).cur.rmOk = true)
    ∧ (CvtIssue (onVector vtF8) (onVector vtF8) true 4 3 4 1 ∧ CvtIssue (onVector vtF8) (onVector vtF8) true 3 4 1 4
      ∧ (onVector vtF8).cur.ew = 8 ∧ vtFam (onVector vtF8).cur.vtype = 2)
    ∧ CvtIssue (onVector vtI8) (onVector vtI8) true 4 3 2 1 ∧ CvtIssue (onVector vtI8) (onVector vtI8) true 3 4 1 2
    ∧ iwOk (onVector vtI8).cur := by
  refine ⟨⟨⟨onVector_issues _ vlmax4.1 _ _ _ _ rfl, ?_⟩, ?_⟩, ⟨⟨onVector_issues _ vlmax4.2.2.2.1 _ _ _ _ rfl, ?_⟩,
    ⟨onVector_issues _ vlmax4.2.2.2.1 _ _ _ _ rfl, ?_⟩, ?_⟩, ⟨⟨onVector_issues _ vlmax4.2.2.2.2.1 _ _ _ _ rfl, ?_⟩,
    ⟨onVector_issues _ vlmax4.2.2.2.2.1 _ _ _ _ rfl, ?_⟩, ?_⟩, ⟨onVector_issues _ vlmax4.2.2.1 _ _ _ _ rfl, ?_⟩,
    ⟨onVector_issues _ vlmax4.2.2.1 _ _ _ _ rfl, ?_⟩, ?_⟩
  all_goals first | decide | (unfold fiOk; decide) | (unfold fwOk; decide) | (unfold iwOk; decide)

/-- The hypotheses of IntReductions and FloatReductions. -/
theorem witness_Reductions (a : FVV) :
    (VIssue (onVector vtI32) (onVector vtI32) clsV (maskOf a.vm) [a.vs2, a.vs1] [a.vd] ∧ (onVector vtI32).cur.fmtInt = true
      ∧ (onVector vtI32).cur.vstart = 0 ∧ Grouped (onVector vtI32).cur.grp [a.vd, a.vs2, a.vs1])
    ∧ VIssue (onVector vtF32) (onVector vtF32) clsV (maskOf a.vm) [a.vs2, a.vs1] [a.vd] ∧ (onVector vtF32).cur.fmtFloat = true
    ∧ (onVector vtF32).cur.vstart = 0 ∧ Grouped (onVector vtF32).cur.grp [a.vd, a.vs2, a.vs1]
    ∧ (onVector vtF32).cur.rmOk = true ∧ (onVector vtF32).cur.vl ≤ 2 ^ 2 :=
  ⟨⟨onVector_issues _ vlmax4.1 _ _ _ _ rfl, by decide, rfl, grouped_one (by decide) _⟩,
    onVector_issues _ vlmax4.2.1 _ _ _ _ rfl, by decide, rfl, grouped_one (by decide) _, by decide, by decide⟩

theorem witness_Compares (kd : MReg) (ks : List MReg) (srcs : List Reg) :
    (VIssue (onVector vtI32) (onVector vtI32) clsV (kd :: ks) srcs [] ∧ (onVector vtI32).cur.fmtInt = true
      ∧ Grouped (onVector vtI32).cur.grp srcs)
    ∧ VIssue (onVector vtF32) (onVector vtF32) clsV (kd :: ks) srcs [] ∧ (onVector vtF32).cur.fmtFloat = true
    ∧ Grouped (onVector vtF32).cur.grp srcs :=
  ⟨⟨onVector_issues _ vlmax4.1 _ _ _ _ rfl, by decide, grouped_one (by decide) _⟩,
    onVector_issues _ vlmax4.2.1 _ _ _ _ rfl, by decide, grouped_one (by decide) _⟩

/-- The hypotheses of MaskLogic and Replies: k1 has bits 1 and 2 below VL, k2 none. -/
theorem witness_MaskLogic_Replies (kd ks2 ks1 : MReg) (vs2 : Reg) :
    Issues (onVector vtI32) clsVA [kd, ks2, ks1] ∧ (onVector vtI32).cur.g ≠ 0
    ∧ Issues (onVector vtI32) clsVA [] ∧ (onVector vtI32).cur.fmtAny = true ∧ Grouped (onVector vtI32).cur.grp [vs2]
    ∧ (onVector vtI32).streamIn [vs2] [] = .ok (onVector vtI32) ∧ Issues (onVector vtF32) clsV []
    ∧ (onVector vtF32).streamIn [vs2] [] = .ok (onVector vtF32)
    ∧ (onVector vtI32).cur.vill = false ∧ (onVector vtI32).cur.vstart = 0 ∧ (onVector vtI32).cur.vl ≤ 4096
    ∧ ((∀ j, j < 1 → ((setK 1 6 (onVector vtI32)).cur.k[(1 : MReg)]).getLsbD j = false)
      ∧ ((setK 1 6 (onVector vtI32)).cur.k[(1 : MReg)]).getLsbD 1 = true)
    ∧ ∀ i, i < 4 → ((onVector vtI32).cur.k[(2 : MReg)]).getLsbD i = false :=
  ⟨issuesV _ _ _ rfl, by decide, issuesV _ _ _ rfl, by decide, grouped_one (by decide) _,
    State.streamIn_unbound (fun r _ => rfl) (fun r _ => rfl), issuesV _ _ _ rfl,
    State.streamIn_unbound (fun r _ => rfl) (fun r _ => rfl), by decide, rfl, by decide, by decide +kernel, by decide +kernel⟩

/-- The trim that `kfirst` of k7 looks at in Replies: nothing set below VL, the element that faulted at VL. -/
theorem witness_Replies_trim : let s := (setK 7 0x30 (onVector vtI32)).onCur fun t => { t with trimAt := some 4 }
    (∀ i, i < s.cur.vl → (s.cur.k[(7 : MReg)]).getLsbD i = false) ∧ s.cur.trimAt = some s.cur.vl
    ∧ (s.cur.k[(7 : MReg)]).getLsbD s.cur.vl = true ∧ Issues s clsVA [7] := by
  exact ⟨by decide +kernel, rfl, by decide +kernel, rfl, by decide, fun _ _ => List.not_mem_nil⟩

theorem witness_PermuteForms (ks : List MReg) :
    VIssue (onVector vtI32) (onVector vtI32) clsV ks [2, 3] [1] ∧ (onVector vtI32).cur.fmtAny = true
    ∧ (onVector vtI32).cur.vstart = 0 ∧ Grouped (onVector vtI32).cur.grp [1, 2, 3] ∧ ∀ r ∈ [2, 3], r ≠ (1 : Reg) :=
  ⟨onVector_issues _ vlmax4.1 _ _ _ _ rfl, by decide, rfl, grouped_one (by decide) _, by decide⟩

/-! ### Vector computation: instructions on small states -/

/-- R94, R117: 0xFFFFFFFF + 2 wraps; the element behind VL stays. -/
theorem test_vadd_wraps : after (.vaddVv { vm := false, c2 := false, c1 := false, vs2 := 2, vs1 := 3, vd := 1 })
    (onVector vtI32 |> setV 2 [1, 2, 3, 0xFFFFFFFF, 9] |> setV 3 [10, 20, 30, 2, 9]) (els 5 1) = some [11, 22, 33, 1, 0] := by
  decide +kernel

/-- R105: under k0 an inactive element keeps its value; the source is also the destination. -/
theorem test_vsub_masked : after (.vsubVv { vm := true, c2 := false, c1 := false, vs2 := 1, vs1 := 3, vd := 1 })
    (onVector vtI32 |> setK 0 5 |> setV 1 [10, 20, 30, 40] |> setV 3 [1, 2, 40, 4]) (els 4 1)
      = some [9, 20, 0xFFFFFFF6, 40] := by decide +kernel

/-- R94: the high half of a signed and of an unsigned product of 0xFFFFFFFF and 2. -/
theorem test_vmulh_signs :
    after (.vmulhVx { vm := false, c2 := false, vs2 := 2, rs1 := 5, vd := 1 })
      (onVector vtI32 |> setV 2 [0xFFFFFFFF] |> setX 5 2) (els 1 1) = some [0xFFFFFFFF]
    ∧ after (.vmulhnVx { vm := false, c2 := false, vs2 := 2, rs1 := 5, vd := 1 })
      (onVector vtI32 |> setV 2 [0xFFFFFFFF] |> setX 5 2) (els 1 1) = some [1] := by decide +kernel

/-- R94: division by zero gives all ones, and the remainder the dividend; the most negative number over −1 is itself. -/
theorem test_vdiv_corners :
    after (.vdivVv { vm := false, c2 := false, c1 := false, vs2 := 2, vs1 := 3, vd := 1 })
      (onVector vtI32 |> setV 2 [7, 0x80000000, 0xFFFFFFF9, 9] |> setV 3 [0, 0xFFFFFFFF, 2, 2]) (els 4 1)
      = some [0xFFFFFFFF, 0x80000000, 0xFFFFFFFD, 4]
    ∧ after (.vremVv { vm := false, c2 := false, c1 := false, vs2 := 2, vs1 := 3, vd := 1 })
      (onVector vtI32 |> setV 2 [7, 0x80000000, 0xFFFFFFF9, 9] |> setV 3 [0, 0xFFFFFFFF, 2, 2]) (els 4 1)
      = some [7, 0, 0xFFFFFFFF, 1] := by decide +kernel

/-- R94, R89: saturation, with the SAT flag (bit 5 of VFLAGS). -/
theorem test_vsadd_saturates : after (.vsaddVi { vm := false, c2 := false, vs2 := 2, imm := 1, vd := 1 })
    (onVector vtI32 |> setV 2 [0x7FFFFFFF, 5]) (fun s => (els 2 1 s, s.cur.vflags)) = some ([0x7FFFFFFF, 6], 0x20) := by
  decide +kernel

/-- R108: a shift count of 31 is no −1; vrsub subtracts from the immediate. -/
theorem test_immediates :
    after (.vsraVi { vm := false, c2 := false, vs2 := 2, imm := 31, vd := 1 }) (onVector vtI32 |> setV 2 [0x80000000, 1]) (els 2 1)
      = some [0xFFFFFFFF, 0]
    ∧ after (.vrsubVi { vm := false, c2 := false, vs2 := 2, imm := 31, vd := 1 }) (onVector vtI32 |> setV 2 [1]) (els 1 1)
      = some [0xFFFFFFFE] := by decide +kernel

/-- R95: 1.0 + 2.0 = 3.0 and the overflow of the largest number, in FP32. -/
theorem test_vfadd : after (.vfaddVv { vm := false, c2 := false, c1 := false, vs2 := 2, vs1 := 3, vd := 1 })
    (onVector vtF32 |> setV 2 [0x3F800000, 0x7F7FFFFF, 0] |> setV 3 [0x40000000, 0x7F7FFFFF, 0x80000000])
    (fun s => els 3 1 s) = some [0x40400000, 0x7F800000, 0] := by decide +kernel

/-- R95, R118: vfmacc adds 2 × 3 to 1, rounded once. -/
theorem test_vfmacc : after (.vfmaccVf { vm := false, c2 := false, vs2 := 2, rs1 := 4, vd := 1 })
    ((onVector vtF32 |> setV 2 [0x40000000] |> setV 1 [0x3F800000]).onCur fun t =>
      { t with f := t.f.set 4 0xFFFFFFFF40400000 }) (els 1 1) = some [0x40E00000] := by decide +kernel

/-- R98, R123: the sum starts at the seed, element 0 of vs1. -/
theorem test_vredsum : after (.vredsum { vm := false, c2 := false, c1 := false, vs2 := 2, vs1 := 3, vd := 1 })
    (onVector vtI32 |> setV 2 [1, 2, 3, 4, 100] |> setV 3 [10, 1000]) (els 2 1) = some [20, 0] := by decide +kernel

/-- R97: ((2^24 + 1) + (−2^24 + 1)) = 1, the seed 1 last: 2; in order it would be 1. -/
theorem test_vfredt_tree : after (.vfredt { vm := false, c2 := false, c1 := false, vs2 := 2, vs1 := 3, vd := 1 })
    (onVector vtF32 |> setV 2 [0x4B800000, 0x3F800000, 0xCB800000, 0x3F800000] |> setV 3 [0x3F800000]) (els 1 1)
      = some [0x40000000] := by decide +kernel

/-- R120: a signed and an unsigned compare of −1 with 1; bits behind VL stay. -/
theorem test_compares :
    after (.vmsltVv { vm := false, c2 := false, c1 := false, vs2 := 2, vs1 := 3, kd := 4 })
      (onVector vtI32 |> setK 4 0xF0 |> setV 2 [0xFFFFFFFF, 1] |> setV 3 [1, 1]) (fun s => s.cur.k[(4 : MReg)]) = some 0xF1
    ∧ after (.vmsltnVv { vm := false, c2 := false, c1 := false, vs2 := 2, vs1 := 3, kd := 4 })
      (onVector vtI32 |> setV 2 [0xFFFFFFFF, 1] |> setV 3 [1, 2]) (fun s => s.cur.k[(4 : MReg)]) = some 2 := by decide +kernel

/-- R111, R128: kpop and kfirst reply; the reply reaches its register. -/
theorem test_mask_replies :
    after (.kpop 7 1) (onVector vtI32 |> setK 1 0x1C) (fun s => s.cur.replyAll.getX 7) = some 2
    ∧ after (.kfirst 7 1) (onVector vtI32 |> setK 1 0x1C) (fun s => s.cur.replyAll.getX 7) = some 2
    ∧ after (.kfirst 7 1) (onVector vtI32 |> setK 1 0x10) (fun s => s.cur.replyAll.getX 7) = some 0xFFFFFFFFFFFFFFFF := by
  decide +kernel

/-- R129, R130: a slide up keeps the elements below its offset; the others as their rules say. -/
theorem test_permutes :
    after (.vslideupVi { vm := false, c2 := false, vs2 := 2, imm := 1, vd := 1 })
      (onVector vtI32 |> setV 1 [7] |> setV 2 [1, 2, 3, 4]) (els 5 1) = some [7, 1, 2, 3, 0]
    ∧ after (.vcompress false 1 2 3) (onVector vtI32 |> setK 3 0xA |> setV 1 [9, 9, 9] |> setV 2 [1, 2, 3, 4]) (els 4 1)
      = some [2, 4, 9, 0]
    ∧ after (.vexpand false 1 2 3) (onVector vtI32 |> setK 3 0xA |> setV 1 [9, 9, 9, 9] |> setV 2 [1, 2, 3, 4]) (els 4 1)
      = some [9, 1, 9, 2]
    ∧ after (.vpermVv { vm := false, c2 := false, c1 := false, vs2 := 2, vs1 := 3, vd := 1 })
      (onVector vtI32 |> setV 2 [1, 2, 3, 4] |> setV 3 [3, 0, 0xFFFFFFFF, 1]) (els 4 1) = some [4, 1, 0, 2] := by decide +kernel

/-- R131: vmerge ignores k0 as a mask of the destination. -/
theorem test_vmerge : after (.vmergeVi false 1 2 0x1F) (onVector vtI32 |> setK 0 5 |> setV 2 [1, 2, 3, 4]) (els 4 1)
    = some [0xFFFFFFFF, 2, 0xFFFFFFFF, 4] := by decide +kernel

/-- R91, R93: −1 to FP32; 300 clamped to INT8 with SAT. -/
theorem test_conversions :
    after (.vfcvtfi { vm := false, c2 := false, vs2 := 2, vd := 1 }) (onVector vtI32 |> setV 2 [0xFFFFFFFF]) (els 1 1)
      = some [0xBF800000]
    ∧ after (.vncvti { vm := false, c2 := false, vs2 := 2, vd := 1 }) (onVector vtI8 |> setV 2 [0xFFFE012C])
        (fun s => (els 2 1 s, s.cur.vflags)) = some ([0x7F, 0xFE], 0x20) := by decide +kernel

/-! ### Memory -/

/-- Numbers of n bytes in device memory from an address up. -/
def putMem (n a : Nat) (l : List Nat) (s : State) : State := { s with dev := s.dev.write a (l.flatMap (leBytes n)) }

/-- A vector strand with VL elements whose x5 points to the device byte 0x2000. -/
def memV (vt : Word) (vl : Nat) : State :=
  mapped (machineOn { strandOn 0x0100 vt vl with x := (Vector.replicate 32 0).set 5 0x40000002000 })

/-- What `Reads` says, as a check. -/
def readsB (s : State) (vec : Bool) (a : Int) (n x : Nat) : Bool :=
  match s.places a n .load with
  | .ok (ps, t) => t == s && ps.all (fun p => !(s.badPiece p)) && x == leNat (ps.flatMap (s.readPiece vec))
  | .error _ => false

theorem cachesOnly_refl (s : State) : CachesOnly s s := ⟨rfl, rfl⟩

theorem reads_of {s : State} {vec : Bool} {a : Int} {n x : Nat} (h : readsB s vec a n x = true) : Reads s vec a n x := by
  unfold readsB at h
  split at h
  · rename_i ps t e
    simp only [Bool.and_eq_true, beq_iff_eq, List.all_eq_true, Bool.not_eq_true'] at h
    obtain ⟨⟨rfl, h2⟩, h3⟩ := h
    exact ⟨ps, _, e, cachesOnly_refl _, h2, h3⟩
  · cases h

/-- A translation with nothing to mark, as a check. -/
def placesB (s : State) (a : Int) (n : Nat) (acc : Acc) (ps : List (Phys × Nat)) : Bool :=
  match s.places a n acc with
  | .ok r => r == (ps, s)
  | .error _ => false

theorem places_of {s : State} {a : Int} {n : Nat} {acc : Acc} {ps : List (Phys × Nat)} (h : placesB s a n acc ps = true) :
    s.places a n acc = .ok (ps, s) := by
  unfold placesB at h
  split at h
  · rename_i r e; rw [e, beq_iff_eq.1 h]
  · cases h

/-- One page at 2^43, the next one not mapped: a walk through three tables (R264, R265). -/
def onePage (s : State) : State :=
  s |> putMem 8 16 [0x01000001] |> putMem 8 0x10000 [0x02000001] |> putMem 8 0x20000 [0x030000CF]

theorem memV_issues (ks : List MReg) (reads writes : List Reg) (cs : List Cls) (hc : cs.contains .vector = true) (n : Nat)
    (hn : n ≤ 4) : VIssue (memV vtI32 n) (memV vtI32 n) cs ks reads writes :=
  vIssue_of _ _ _ _ _ rfl (by rw [show (memV vtI32 n).cur.cls = .vector from cls_onVector vtI32]; exact List.contains_iff_mem.1 hc)
    rfl ⟨Nat.le_of_ble_eq_true rfl, Nat.le_trans hn vlmax4.1⟩ rfl (by intro r; rfl)

theorem memFormat_I32 (n : Nat) : MemFormat (memV vtI32 n).cur 0 :=
  show MemFormat (strandOn 0x0100 vtI32 4) 0 from by unfold MemFormat; decide

/-- The hypotheses of Loads: unit stride and stride 8 with the base in x5, indexed with offsets in v2. -/
theorem witness_Loads :
    let s := memV vtI32 4 |> putMem 4 0x2000 [1, 2, 3, 0x80000000, 5, 6, 7] |> setX 6 8 |> setV 2 [0, 12, 4, 4]
    (MemIssue (memV vtI32 4) (memV vtI32 4) false 0 1 [] [1] ∧ Grouped (memV vtI32 4).cur.grp [2])
    ∧ (∀ i : Nat, i < 4 → Reads s true (0x40000002000 + i * (4 : Nat)) 4 ([1, 2, 3, 0x80000000].getD i 0))
    ∧ (∀ i : Nat, i < 4 → Reads s true (0x40000002000 + i * (s.cur.getX 6).toInt) 4 ([1, 3, 5, 7].getD i 0))
    ∧ ∀ i : Nat, i < 4 → Reads s true (0x40000002000 + s.cur.elem 2 32 i) 4 ([1, 0x80000000, 2, 2].getD i 0) := by
  refine ⟨⟨⟨memV_issues _ _ _ _ rfl 4 (Nat.le_refl 4), memFormat_I32 4, grouped_one (by decide) _⟩, grouped_one (by decide) _⟩,
    fun i hi => reads_of ?_, fun i hi => reads_of ?_, fun i hi => reads_of ?_⟩
  all_goals revert i; decide +kernel

/-- R139, R141: a unit-stride load of 16-bit elements extends the sign; an ordered indexed load. -/
theorem test_vld :
    after (.vld { vm := false, w := 2, base := 5, vd := 1 })
      (memV vtI32 4 |> putMem 2 0x2000 [1, 0x8000, 3, 4]) (fun s => (els 4 1 s, s.cur.pc)) = some ([1, 0xFFFF8000, 3, 4], 0x1004)
    ∧ after (.vldxO { vm := false, c := false, w := 0, src2 := 2, base := 5, vd := 1 })
      (memV vtI32 4 |> putMem 4 0x2000 [1, 2, 3, 4] |> setV 2 [12, 0, 8, 4]) (els 4 1) = some [4, 1, 3, 2] := by decide +kernel

theorem storeRun_one {addr : Nat → Int} {n : Nat} {val : Nat → Nat} {post : Nat → Strand → Strand} {s : State}
    {ps : List (Phys × Nat)} (h : s.places (addr 0) n .store = .ok (ps, s)) :
    StoreRun false addr n val post [0] s ps ((s.storeList true ps (leBytes n (val 0))).onCur (post 0)) :=
  ⟨ps, s, [], h, .inr (cachesOnly_refl s), (List.append_nil ps).symm, rfl, rfl⟩

/-- The place of the four bytes at x5. -/
def at2000 : Phys := { space := .dev, addr := 0x2000, key := 0, unt := false }

/-- The hypotheses of Stores: one element of four bytes at the address in x5. -/
theorem witness_Stores (val : Nat → Nat) (post : Nat → Strand → Strand) :
    let s := memV vtI32 1
    let addr := fun i : Nat => (s.cur.getX 5).toInt + i * (4 : Nat)
    MemIssue s s false 0 1 [1] [] ∧ NoStall s (s.cur.actives false) addr 4
    ∧ StoreRun false addr 4 val post (s.cur.actives false) (s.pcBehind 4) [(at2000, 4)]
        (((s.pcBehind 4).storeList true [(at2000, 4)] (leBytes 4 (val 0))).onCur (post 0))
    ∧ MemWf s ∧ StoresOpen s [(at2000, 4)] s.cur.wcV := by
  have ha : (memV vtI32 1).cur.actives false = [0] := by decide
  refine ⟨⟨memV_issues _ _ _ _ rfl 1 (by decide), memFormat_I32 1, grouped_one (by decide) _⟩, ?_, ?_, ?_, ?_, ?_⟩
  · rw [ha]
    intro i hi w
    rw [List.mem_singleton.1 hi, places_of (ps := [(at2000, 4)]) (by decide +kernel)]
    exact nofun
  · rw [ha]
    exact storeRun_one (places_of (by decide +kernel))
  · unfold MemWf Strand.MemWf; decide +kernel
  · intro p hp _ a _ _
    rw [List.mem_singleton.1 hp]; rfl
  · exact ⟨nofun, nofun⟩

/-- R139, R142: a store of the low 16 bits of elements, under a mask; k7 is cleared over the elements. -/
theorem test_vst : after (.vst { vm := true, c := false, w := 2, base := 5, vd := 1 })
    (memV vtI32 4 |> setK 0 0xD |> setK 7 0xFF |> setV 1 [0x11111111, 2, 3, 4])
    (fun s => (s.dev.readNat 0x2000 8, s.cur.k[(7 : MReg)])) = some (0x0004000300001111, 0xF0) := by decide +kernel

/-- The hypotheses of FaultFirstLoad: the third element lies behind the mapped page. -/
theorem witness_FaultFirstLoad :
    let s := memV vtI32 4 |> onePage |> setX 5 (0x80000010000 - 8)
    MemIssue s s false 0 1 [] [1] ∧ s.cur.active false 2 = true ∧ s.cur.vstart < 2
    ∧ (∀ i : Nat, i < 2 → Reads s true ((s.cur.getX 5).toInt + i * (4 : Nat)) 4 0)
    ∧ ∃ pages, s.loadMem true ((s.cur.getX 5).toInt + (2 : Nat) * (4 : Nat)) 4 = .error (.trans pages none) := by
  refine ⟨⟨vIssue_of _ _ _ _ _ rfl (by decide) rfl ⟨by decide, by decide⟩ rfl (by intro r; rfl), memFormat_I32 4,
    grouped_one (by decide) _⟩, by decide, by decide,
    fun i : Nat => fun hi => reads_of ?_, [(0x80000010000, 0, 1)], by decide +kernel⟩
  revert i; decide +kernel

/-- The fault at VSTART in FaultFirstLoad: a page that is not mapped, the next element on a page that is; an uncorrectable
line. -/
theorem witness_FaultFirstLoad_first :
    (let s := memV vtI32 2 |> onePage |> putMem 8 0x20000 [0, 0x030000CF] |> setX 5 (0x80000010000 - 4)
     MemIssue s s false 0 1 [] [1] ∧ s.cur.active false s.cur.vstart = true
     ∧ s.loadMem true (s.cur.getX 5).toInt 4 = .error (.trans [(0x8000000FFFC, 0, 1)] none)
     ∧ ∀ i, s.cur.active false i = true → i ≠ s.cur.vstart → Reads s true ((s.cur.getX 5).toInt + i * (4 : Nat)) 4 0)
    ∧ (let s : State := { memV vtI32 1 with bad := [0x40] }
       MemIssue s s false 0 1 [] [1] ∧ s.cur.mode = .u ∧ s.cur.system = false ∧ s.cur.active false s.cur.vstart = true
       ∧ ∃ ad k, s.loadMem true (s.cur.getX 5).toInt 4 = .error (.launch 0x14 ad k none)) := by
  refine ⟨⟨⟨vIssue_of _ _ _ _ _ rfl (by decide) rfl ⟨by decide, by decide⟩ rfl (by intro r; rfl), memFormat_I32 2,
    grouped_one (by decide) _⟩, by decide, by decide +kernel, fun i ha hne => ?_⟩,
    ⟨vIssue_of _ _ _ _ _ rfl (by decide) rfl ⟨by decide, by decide⟩ rfl (by intro r; rfl), memFormat_I32 1,
    grouped_one (by decide) _⟩, rfl, rfl, by decide, ?_⟩
  · have h1 : i = 1 := by
      simp only [Strand.active, Bool.and_eq_true, decide_eq_true_eq] at ha
      have h2 : i < 2 := ha.1.1.2
      have h0 : i ≠ 0 := hne
      omega
    subst h1
    exact reads_of (by decide +kernel)
  · exact ⟨0x40000002000, 1, by decide +kernel⟩

/-- R145: VL is trimmed to the first fault, k7 marks the rest. -/
theorem test_vldff : after (.vldff { vm := false, w := 0, base := 5, vd := 1 })
    (memV vtI32 4 |> onePage |> putMem 4 0x3FFF8 [7, 8] |> setX 5 (0x80000010000 - 8))
    (fun s => (els 3 1 s, s.cur.vl, s.cur.k[(7 : MReg)])) = some ([7, 8, 0], 2, 0xC) := by decide +kernel

/-- R277: a fault that no trimming covers, at the third element: STATE 2 and k7 say what is left, the first two loaded. -/
theorem test_vldff_stops : after (.vldff { vm := false, w := 0, base := 5, vd := 1 })
    (memV vtI32 4 |> onePage |> putMem 8 0x20008 [0xFFFFFFFF0000CF] |> putMem 4 0x3FFF8 [7, 8] |> setX 5 (0x80000010000 - 8))
    (fun s => ((match s.cur.status with | .trapping i => (i.cls, i.entry.map fun e => (e.st, e.mask.toNat)) | _ => (0, none)),
      els 4 1 s, s.cur.k[(7 : MReg)])) = some ((0x15, some (2, 0xC)), [7, 8, 0, 0], 0xC) := by decide +kernel

/-- The hypotheses of CoreLocalAccesses on both classes: the last element ends at the region's end. -/
theorem witness_CoreLocalAccesses :
    (let s := (onVector vtI32).onCur fun t => { t with scratchBytes := 8, x := t.x.set 5 4 }
     VIssue s s clsVA [] [] [1] ∧ MemFormat s.cur 0 ∧ Grouped s.cur.grp [1] ∧ s.cur.scratchBytes ≤ 16384 ∧ s.cur.MemWf
     ∧ ∀ i, i < 4 → (s.cur.getX 5).toNat + i / (8 * s.cur.g) * 4 + 4 ≤ s.cur.scratchBytes)
    ∧ (let s := (onArray vtI32).onCur fun t => { t with actBytes := 20, x := t.x.set 5 4 }
       VIssue s s clsVA [] [] [1] ∧ MemFormat s.cur 0 ∧ s.cur.MemWf
       ∧ ∀ i, i < 4 → (s.cur.getX 5).toNat + i * 4 + 4 ≤ s.cur.actBytes) := by
  refine ⟨⟨vIssue_of _ _ _ _ _ rfl (by decide) rfl ⟨by decide, by decide⟩ rfl (by intro r; rfl), ?_, grouped_one (by decide) _,
    by decide, ?_, ?_⟩, vIssue_of _ _ _ _ _ rfl (by decide) rfl ⟨by decide, by decide⟩ rfl (by intro r; rfl), ?_, ?_, ?_⟩
  all_goals first | (unfold MemFormat; decide) | (unfold Strand.MemWf; decide) | decide

/-- R146: with one lane group, element 9 is the second of lane 1; a byte is extended by its sign. -/
theorem test_vstl_vldl :
    after (.vstl { vm := false, c := false, w := 0, base := 5, vd := 1 })
      ((onVector vtI32 |> setV 1 [1, 2, 3, 4, 5, 6, 7, 8, 9, 10]).onCur fun t => { t with scratchBytes := 16, vl := 10, x := t.x.set 5 4 })
      (fun s => (s.cur.scratch.readNat 4 4, s.cur.scratch.readNat (1 * 16384 + 8) 4)) = some (1, 10)
    ∧ after (.vldl { vm := false, w := 1, base := 5, vd := 1 })
      ((onArray vtI32).onCur fun t => { t with actBytes := 8, act := [(5, 0xFF), (6, 2)], x := t.x.set 5 4 }) (els 4 1)
      = some [0, 0xFFFFFFFF, 2, 0] := by decide +kernel

/-- The hypotheses of MaskMemory: a mask of 10 bits, two bytes at x5. -/
theorem witness_MaskMemory (k : MReg) (val : Nat → Nat) (post : Nat → Strand → Strand) :
    let s := (memV vtI32 4).onCur fun t => { t with vl := 1 }
    (Issues s clsVA [k] ∧ s.cur.g ≠ 0 ∧ InGrant s.cur ∧ s.cur.vill = false ∧ s.cur.vstart = 0 ∧ s.delivered = s)
    ∧ (∀ j, j < (s.cur.vl + 7) / 8 → Reads s true ((s.cur.getX 5).toInt + j) 1 0)
    ∧ (∀ j, j < (s.cur.vl + 7) / 8 → s.places ((s.cur.getX 5).toInt + j) 1 .store = .ok ([(at2000, 1)], s))
    ∧ StoreRun false (fun j : Nat => (s.cur.getX 5).toInt + j) 1 val post (List.range ((s.cur.vl + 7) / 8)) (s.pcBehind 4)
        [(at2000, 1)] (((s.pcBehind 4).storeList true [(at2000, 1)] (leBytes 1 (val 0))).onCur (post 0))
    ∧ MemWf s ∧ StoresOpen s [(at2000, 1)] s.cur.wcV := by
  refine ⟨⟨⟨rfl, by decide, fun _ _ => List.not_mem_nil⟩, by decide, ⟨by decide, by decide⟩, rfl, rfl, by decide +kernel⟩,
    fun j hj => reads_of ?_, fun j hj => places_of ?_, ?_, ?_, ?_, ?_⟩
  · revert j; decide +kernel
  · revert j; decide +kernel
  · exact storeRun_one (places_of (by decide +kernel))
  · unfold MemWf Strand.MemWf; decide +kernel
  · intro p hp _ a _ _
    rw [List.mem_singleton.1 hp]; rfl
  · exact ⟨nofun, nofun⟩

/-- Further hypotheses of MaskMemory: VTYPE names a format; the byte of the store translates, with nothing to mark. -/
theorem witness_MaskMemory_walk : let s := (memV vtI32 4).onCur fun t => { t with vl := 1 }
    s.cur.vtypeOk = true ∧ Walks .store (fun _ => True) (fun j : Nat => (s.cur.getX 5).toInt + j) 1 (List.range ((s.cur.vl + 7) / 8))
      (s.pcBehind 4) (s.pcBehind 4) := by
  exact ⟨rfl, [(at2000, 1)], _, places_of (by decide +kernel), fun _ _ => trivial, rfl⟩

/-- R147: bits at and above VL stay in the register, and are zero in memory. -/
theorem test_kld_kst :
    after (.kld 3 5) ((memV vtI32 4 |> putMem 1 0x2000 [0xFF, 0xFF] |> setK 3 0x800).onCur fun t => { t with vl := 10 })
      (fun s => s.cur.k[(3 : MReg)]) = some 0xBFF
    ∧ after (.kst 3 5) ((memV vtI32 4 |> putMem 1 0x2000 [0, 0, 9] |> setK 3 0xFFF).onCur fun t => { t with vl := 10 })
      (fun s => s.dev.readNat 0x2000 3) = some 0x0903FF := by decide +kernel

/-! ### Atomics, links, waits -/

/-- A machine with the four bytes at x5 and one element. -/
def mem1 (vt : Word) : State := mapped (machineOn { strandOn 0x0100 vt 1 with x := (Vector.replicate 32 0).set 5 0x40000002000 })

theorem mem1_places (vt : Word) (acc : Acc) (hacc : acc = .load ∨ acc = .atomic) (h : vt = vtI32 ∨ vt = vtF32) :
    (mem1 vt).places 0x40000002000 4 acc = .ok ([(at2000, 4)], mem1 vt) := by
  rcases h with rfl | rfl <;> rcases hacc with rfl | rfl <;> exact places_of (by decide +kernel)

theorem mem1_issues (vt : Word) (h : vt = vtI32 ∨ vt = vtF32) (ks : List MReg) (reads writes : List Reg) :
    AtomIssue (mem1 vt) (mem1 vt) ks reads writes := by
  rcases h with rfl | rfl <;>
    exact ⟨vIssue_of _ _ _ _ _ rfl (by decide) rfl ⟨by decide, by decide⟩ rfl (by intro r; rfl), by decide, rfl, by decide⟩

/-- The hypotheses of the first clause of VectorAtomics. -/
theorem witness_VectorAtomics_access :
    (mem1 vtI32).cur.wcS = [] ∧ (mem1 vtI32).cur.wcV = []
    ∧ (mem1 vtI32).places 0x40000002000 4 .atomic = .ok ([(at2000, 4)], mem1 vtI32)
    ∧ (mem1 vtI32).badPiece (at2000, 4) = false ∧ StoresOpen (mem1 vtI32) [(at2000, 4)] [] ∧ MemWf (mem1 vtI32) := by
  refine ⟨rfl, rfl, mem1_places _ _ (.inr rfl) (.inl rfl), by decide +kernel, ⟨?_, nofun, nofun⟩, ?_⟩
  · intro p hp _ a _ _
    rw [List.mem_singleton.1 hp]; rfl
  · unfold MemWf Strand.MemWf; decide +kernel

theorem amoRun_one {row : AmoRow} {vd sw : Reg} {addr : Nat → Int} {s : State} {p : Phys} {n : Nat} (hn : s.cur.ew / 8 = n)
    (hs : s.flushWc s.cur.uid false true = s) (h : s.places (addr 0) n .atomic = .ok ([(p, n)], s)) (hb : s.badPiece (p, n) = false) :
    ∃ s2, AmoRun row vd sw addr [0] s s2 := by
  subst hn
  have e : ∀ f, ∃ old s1, s.atomicMem true (addr 0) (s.cur.ew / 8) f = .ok (old, s1) := by
    intro f
    unfold State.atomicMem
    simp only [Bool.not_true, hs, h, bind, Except.bind, List.any_cons, hb, List.any_nil, Bool.or_self]
    cases f (leNat (s.readPhys p (s.cur.ew / 8))) <;> exact ⟨_, _, rfl⟩
  obtain ⟨old, s1, e⟩ := e _
  exact ⟨_, old, s1, e, rfl⟩

/-- The hypotheses of the second clause: every row has a format that fits it, on which one element runs. -/
theorem witness_VectorAtomics : ∀ r ∈ amoRows, ∃ vt, (vt = vtI32 ∨ vt = vtF32) ∧ r.2.fits (mem1 vt).cur
    ∧ AtomIssue (mem1 vt) (mem1 vt) [] [4, 5, 2] [4]
    ∧ AtomicPlaces .atomic (fun i => 0x40000002000 + (mem1 vt).cur.elem 2 32 i) 4 ((mem1 vt).cur.actives false) (mem1 vt)
        (mem1 vt) := by
  have key : ∀ vt, (vt = vtI32 ∨ vt = vtF32) → AtomIssue (mem1 vt) (mem1 vt) [] [4, 5, 2] [4]
      ∧ AtomicPlaces .atomic (fun i => 0x40000002000 + (mem1 vt).cur.elem 2 32 i) 4 ((mem1 vt).cur.actives false) (mem1 vt)
          (mem1 vt) := by
    intro vt h
    refine ⟨mem1_issues vt h _ _ _, ?_⟩
    have ha : (mem1 vt).cur.actives false = [0] := by rcases h with rfl | rfl <;> decide
    have he : (mem1 vt).cur.elem 2 32 0 = 0 := by rcases h with rfl | rfl <;> decide +kernel
    rw [ha]
    refine ⟨fun i hi => ?_, [(at2000, 4)], mem1 vt, ?_, fun p hp => by rw [List.mem_singleton.1 hp]; decide, rfl⟩
    · rw [List.mem_singleton.1 hi]; simp only [he]; decide
    · simp only [he]; exact mem1_places vt _ (.inr rfl) h
  have hf : ∀ vt, (vt = vtI32 ∨ vt = vtF32) → (mem1 vt).cur.ew = 32 := by rintro vt (rfl | rfl) <;> decide
  have h : amoRows.all (fun r => r.2.fam (vtFam (mem1 vtI32).cur.vtype) || r.2.fam (vtFam (mem1 vtF32).cur.vtype)) = true := by
    decide
  intro r hr
  have := List.all_eq_true.1 h r hr
  rcases Bool.or_eq_true_iff.1 this with h1 | h1
  · exact ⟨vtI32, .inl rfl, ⟨.inl (hf _ (.inl rfl)), h1⟩, key _ (.inl rfl)⟩
  · exact ⟨vtF32, .inr rfl, ⟨.inl (hf _ (.inr rfl)), h1⟩, key _ (.inr rfl)⟩

/-- The run of one element that the second clause takes. -/
theorem witness_AmoRun (row : AmoRow) (vd sw : Reg) :
    ∃ s2, AmoRun row vd sw (fun _ => 0x40000002000) [0] (mem1 vtI32) s2 :=
  amoRun_one (n := 4) (p := at2000) (by decide) (by decide +kernel) (mem1_places _ _ (.inr rfl) (.inl rfl)) (by decide +kernel)

/-- R194, R195: vamoadd stores the sum and gives the old value; vamocas exchanges where the old value is vd's. -/
theorem test_vamo :
    after (.vamoadd { vm := false, aq := false, rl := false, vs2 := 2, base := 5, scope := 0, vd := 4 })
      (memV vtI32 2 |> putMem 4 0x2000 [5, 6] |> setV 2 [4, 0] |> setV 4 [10, 0xFFFFFFFF])
      (fun s => (els 2 4 s, s.dev.readNat 0x2000 4, s.dev.readNat 0x2004 4)) = some ([6, 5], 4, 16)
    ∧ after (.vamocas { vm := false, aq := false, rl := false, vs2 := 2, base := 5, scope := 0, vd := 4 })
      (memV vtI32 2 |> putMem 4 0x2000 [5, 6] |> setV 2 [0, 4] |> setV 4 [5, 5] |> setV 5 [7, 8])
      (fun s => (els 2 4 s, s.dev.readNat 0x2000 4, s.dev.readNat 0x2004 4)) = some ([5, 6], 7, 6) := by decide +kernel

/-- A lane thread in lane 3 with x5 pointing to the device byte 0x2000, x6 = 4 and x7 = −1. -/
def inLane : State :=
  (memV vtI32 4).onCur fun t => { t with fork := some { turn := 0, joinPc := 0, threads :=
    [{ lane := 3, pc := 0x2000, joined := false, x := (((Vector.replicate 32 0).set 5 0x40000002000).set 6 4).set 7 0xFFFFFFFFFFFFFFFF }] } }

/-- The hypotheses of the third clause: a lane thread's vamoadd. -/
theorem witness_LaneAtomics :
    inLane.cur.laneTurn.isSome = true ∧ inLane.cur.vill = false
    ∧ inLane.places (inLane.cur.getX 5 + inLane.cur.getX 6).toInt 4 .atomic = .ok ([({ at2000 with addr := 0x2004 }, 4)], inLane)
    ∧ (inLane.cur.getX 5 + inLane.cur.getX 6).toInt % 4 = 0
    ∧ (match inLane.atomicMem true (inLane.cur.getX 5 + inLane.cur.getX 6).toInt 4 some with | .ok _ => true | _ => false) = true := by
  refine ⟨rfl, rfl, places_of (by decide +kernel), by decide +kernel, by decide +kernel⟩

/-- R134: the old value sign-extended in the thread's own x7. -/
theorem test_lane_atomic :
    after (.laneFormAtomic 0 { vm := false, aq := false, rl := false, vs2 := 6, base := 5, scope := 0, vd := 7 })
      (inLane |> putMem 4 0x2000 [1, 0x80000000]) (fun s => (s.cur.getX 7, s.dev.readNat 0x2004 4, s.cur.getPc))
      = some (0xFFFFFFFF80000000, 0x7FFFFFFF, 0x2004) := by decide +kernel

/-- The hypotheses of GatherLinks and VectorWait: one element, loaded and translated with nothing to mark; a store
conditional whose element holds no reservation. -/
theorem witness_GatherLinks_VectorWait :
    let s := mem1 vtI32
    let addr := fun i : Nat => (s.cur.getX 5).toInt + s.cur.elem 2 s.cur.ew i
    AtomIssue s s [] [2] [1] ∧ s.cur.ew = 32 ∧ AtomicPlaces .load addr (s.cur.ew / 8) (s.cur.actives false) s s
    ∧ (∀ i, s.cur.active false i = true → Reads s true (addr i) (s.cur.ew / 8) 0
      ∧ ∃ p ps walked, s.places (addr i) (s.cur.ew / 8) .load = .ok (p :: ps, walked) ∧ (p.1.space, lineOf p.1.addr) = (Space.dev, 0x40))
    ∧ AtomicPlaces .atomic addr (s.cur.ew / 8) (s.cur.actives false) s s
    ∧ ScRun 1 addr [0] s s ∧ Issues s clsV [] ∧ vtFam s.cur.vtype < 2 ∧ s.cur.popped = false
    ∧ s.delivered.streamIn [3, 2] [] = .ok s := by
  have hi : ∀ i, (mem1 vtI32).cur.active false i = true → i = 0 := by
    intro i h
    simp only [Strand.active, Bool.and_eq_true, decide_eq_true_eq] at h
    have : i < 1 := h.1.1.2
    omega
  have ha : (mem1 vtI32).cur.actives false = [0] := by decide
  have h0 : (mem1 vtI32).cur.elem 2 (mem1 vtI32).cur.ew 0 = 0 := by decide +kernel
  have hp : ∀ acc, (acc = .load ∨ acc = .atomic) → (mem1 vtI32).places
      ((fun i : Nat => ((mem1 vtI32).cur.getX 5).toInt + (mem1 vtI32).cur.elem 2 (mem1 vtI32).cur.ew i) 0)
      ((mem1 vtI32).cur.ew / 8) acc = .ok ([(at2000, 4)], mem1 vtI32) := by
    rintro acc (rfl | rfl) <;> exact places_of (by decide +kernel)
  refine ⟨mem1_issues _ (.inl rfl) _ _ _, by decide, ?_, ?_, ?_, ⟨(at2000, 4), [], _, hp _ (.inl rfl), ?_⟩,
    ⟨rfl, by decide, fun _ _ => List.not_mem_nil⟩, by decide, rfl,
    (mem1_issues vtI32 (.inl rfl) [] [3, 2] []).1.2.2⟩
  · rw [ha]
    exact ⟨fun i h => by rw [List.mem_singleton.1 h]; decide +kernel, _, _, hp _ (.inl rfl),
      fun p hp => by rw [List.mem_singleton.1 hp]; decide, rfl⟩
  · intro i h
    rw [hi i h]
    exact ⟨reads_of (by decide +kernel), (at2000, 4), [], _, hp _ (.inl rfl), by decide⟩
  · rw [ha]
    exact ⟨fun i h => by rw [List.mem_singleton.1 h]; decide +kernel, _, _, hp _ (.inr rfl),
      fun p hp => by rw [List.mem_singleton.1 hp]; decide, rfl⟩
  · rw [if_neg (by decide)]; rfl

/-- Further hypotheses of VectorWait: a comparison that fails and one that holds; a strand that popped before; one that replays
an entry with a base of its own. -/
theorem witness_VectorWait :
    (let s := mem1 vtI32 |> setV 3 [1]
     s.cur.active false 0 = true ∧ bvEq 32 0 1 = false ∧ s.cur.bvElem 3 0 = 1 ∧ (waitRows.map fun r => r.2 true 32 0 0) = [true, false, false, true])
    ∧ ((mem1 vtI32).onCur fun t => { t with popped := true }).cur.popped = true
    ∧ (let e : BmEntry := { enc := 0, vtype := vtI32, vl := 1, vstart := 0, st := 0, flg := 0, deps := 0, xop := 0, xbase := 0x40000002000,
                            xstride := 0, ipc := 0x1000, mask := 0 }
       let s := (mem1 vtI32).onCur fun t => { t with replaying := some { Bookmark.empty with entries := [e], pc := 0x1004 } }
       (s.cur.replaying.bind fun b => b.entries.head?) = some e ∧ s.cur.vl = 1) := by decide +kernel

/-- R197, R198: a linked pair on one line: vsc stores where the reservation stands, and says so in k6. -/
theorem test_vgl_vsc :
    after (.vgl { vm := false, ord := false, vs2 := 2, base := 5, vd := 4 })
      (memV vtI32 2 |> putMem 4 0x2000 [5, 6] |> setV 2 [4, 0]) (fun s => (els 2 4 s, s.cur.res.contains (0, .dev, 0x40), s.cur.res.length)) = some ([6, 5], true, 2)
    ∧ after (.vsc { vm := false, ord := false, vs2 := 2, base := 5, vd := 4 })
      ((memV vtI32 2 |> setV 2 [4, 0] |> setV 4 [9, 8] |> setK 6 0xF).onCur fun t => { t with res := [(1, .dev, 0x40)] })
      (fun s => (s.cur.k[(6 : MReg)], s.dev.readNat 0x2000 8, s.cur.res)) = some (0xE, 8, []) := by decide +kernel

/-- R198: a vector store of the strand's own to the line, made behind its vgl and buffered, ends the reservation. -/
theorem test_vsc_own_store :
    after (.vsc { vm := false, ord := false, vs2 := 2, base := 5, vd := 4 })
      ((memV vtI32 1 |> setV 4 [9]).onCur fun t => { t with
        res := [(0, .dev, 0x40)], wcV := [{ space := .dev, line := 0x40, key := 0, cells := [(0x2040, 5)] }] })
      (fun s => (s.cur.k[(6 : MReg)], s.dev.readNat 0x2000 4, s.dev.get 0x2040, s.cur.wcV.length)) = some (0, 0, 5, 0)
    ∧ after (.vsc { vm := false, ord := false, vs2 := 2, base := 5, vd := 4 })
      ((memV vtI32 1 |> setV 4 [9]).onCur fun t => { t with res := [(0, .dev, 0x40)] })
      (fun s => (s.cur.k[(6 : MReg)], s.dev.readNat 0x2000 4)) = some (1, 9) := by decide +kernel

/-- R199: vwait completes where every element holds, and sleeps at the instruction where one does not. -/
theorem test_vwait :
    after (.vwaitEq { vm := false, vs2 := 2, base := 5, vs3 := 3 })
      (memV vtI32 2 |> putMem 4 0x2000 [5, 6] |> setV 2 [4, 0] |> setV 3 [6, 5]) (fun s => (s.cur.pc, s.cur.status))
      = some (0x1004, .running)
    ∧ after (.vwaitLt { vm := false, vs2 := 2, base := 5, vs3 := 3 })
      (memV vtI32 2 |> putMem 4 0x2000 [5, 6] |> setV 2 [4, 0] |> setV 3 [7, 5]) (fun s => (s.cur.pc, s.cur.status))
      = some (0x1000, .waiting .memory) := by decide +kernel

/-! ### Vector configuration and lane threads -/

/-- A vector strand that holds one of its core's lane groups, one more held by slot 1. -/
def lanesV : State := { onVector vtI32 with cores := [{ Core.reset 0x0100 with lat := [some 0, some 1, none, none] }] }

/-- The hypotheses of VectorConfiguration: the grant kept; a dirty VDIRTY; an offer of 3 for a request of all; none to
be had. -/
theorem witness_VectorConfiguration :
    (Issues lanesV clsVA [] ∧ lanesV.delivered.cur.g ≠ 0 ∧ lanesV.delivered.cur.vdirty = 0)
    ∧ lanesV.delivered.offer lanesV.delivered.cur 3 = some 3
    ∧ (lanesV.onCur fun t => { t with vdirty := 1 }).delivered.cur.vdirty ≠ 0
    ∧ (let s : State := { lanesV with cores := [{ Core.reset 0x0100 with lat := [some 1, some 1, some 1, some 1] }]
                                      cur := { lanesV.cur with g := 0 } }
       Issues s clsVA [] ∧ s.delivered.cur.g = 0 ∧ s.delivered.cur.vdirty = 0 ∧ s.delivered.offer s.delivered.cur 1 = none)
    ∧ LegalImage vtI32 ∧ ¬LegalImage 0x1F := by
  have hi : ∀ s : State, s.cur.fork = none → s.cur.cls ∈ clsVA → Issues s clsVA [] :=
    fun s h1 h2 => ⟨h1, h2, fun _ h => absurd h List.not_mem_nil⟩
  refine ⟨⟨hi _ rfl (by decide), by decide, by decide⟩, by decide, by decide, ⟨hi _ rfl (by decide), by decide, by decide, by decide⟩,
    ?_, ?_⟩ <;> unfold LegalImage <;> decide

/-- R34, R115: VL is the lesser of AVL and VLMAX (three lane groups of 256 elements each); a reserved image gives VILL. -/
theorem test_vsetli :
    after (.vsetli 9 0 3 2) lanesV (fun s => (s.cur.g, s.cur.vl, s.cur.getX 9, s.cur.vtype, s.cur.short)) = some (3, 768, 768, 2, false)
    ∧ after (.vsetli 9 7 0 2) (lanesV |> setX 7 5) (fun s => (s.cur.g, s.cur.vl, s.cur.vtype)) = some (1, 5, 2)
    ∧ after (.vsetli 9 7 0 0x1F) (lanesV |> setX 7 5) (fun s => (s.cur.vl, s.cur.getX 9, s.cur.vtype))
      = some (0, 0, 0x8000000000000000) := by decide +kernel

/-- R116: vrel gives the lane groups up. -/
theorem test_vrel : after .vrel lanesV (fun s => (s.cur.g, s.cur.vl, s.cur.vtype, (s.core 0x0100).lat))
    = some (0, 0, 0x8000000000000000, [none, some 1, none, none]) := by decide +kernel

/-- R116: without a grant `vrel` leaves VDIRTY as it is. -/
theorem test_vrel_without_grant : after .vrel ((onVector vtI32).onCur fun t => { t with g := 0, vdirty := 6, nr := true })
    (fun s => (s.cur.vdirty, s.cur.nr, s.cur.vtype, s.cur.vl)) = some (6, true, 0x8000000000000000, 0) := by decide +kernel

theorem witness_GrantArithmetic : lanesV.cur.cls = .vector ∧ lanesV.cur.ownsScratch = false ∧ LanesHeld lanesV lanesV.cur
    ∧ lanesV.cur.g + ((lanesV.core lanesV.cur.core).lat.filter (· == none)).length = 3 := by
  unfold LanesHeld; decide

/-- The hypotheses of LaneThreads: a fork with one lane below VL under the mask; a join that is not the last, and one
that is. -/
theorem witness_LaneThreads :
    (Issues (onVector vtI32) clsV [0] ∧ (onVector vtI32).cur.vill = false ∧ (onVector vtI32).cur.vstart = 0)
    ∧ (∃ l, l < 8 * (onVector vtI32).cur.g ∧ (decide (l < 4) && (!true || ((setK 0 8 (onVector vtI32)).cur.k[(0 : MReg)]).getLsbD l)) = true)
    ∧ (∃ f : Fork, ∃ l, inLane.cur.fork = some f ∧ f.threads[f.turn]? = some l
      ∧ (∀ o ∈ f.threads.set f.turn { l with joined := true, pc := l.pc + 4 }, o.joined = true) ∧ inLane.cur.g ≤ 4
      ∧ ((f.threads.set f.turn { l with joined := true, pc := l.pc + 4 }).map (·.lane)).Nodup
      ∧ ∀ o ∈ f.threads.set f.turn { l with joined := true, pc := l.pc + 4 }, o.lane < 8 * inLane.cur.g) := by
  refine ⟨⟨⟨rfl, by decide, fun _ _ => List.not_mem_nil⟩, by decide, rfl⟩, ⟨3, by decide, by decide +kernel⟩,
    ⟨_, _, rfl, rfl, ?_, by decide, ?_, ?_⟩⟩
  · intro o ho; rw [List.mem_singleton.1 ho]
  · decide
  · intro o ho; rw [List.mem_singleton.1 ho]; decide

/-- R132, R135: lane 3 starts with its elements, and its registers return to element 3. -/
theorem test_lfork_ljoin :
    after (.lfork true) ((setK 0 8 (onVector vtI32)).onCur fun t => { t with v := t.v.set 5 (BitVec.ofNat 32768 (77 * 2 ^ 192)) })
      (fun s => (s.cur.getX 5, s.cur.getPc, s.cur.fork.map fun f => f.threads.length)) = some (77, 0x1004, some 1)
    ∧ after .ljoin inLane (fun s => (s.cur.fork, s.cur.pc, s.cur.vdirty, s.cur.elem 6 64 3, s.cur.elem 6 64 2))
      = some (none, 0x2004, 0xFFFFFFFE, 4, 0) := by decide +kernel

/-! ### Streams -/

/-- A stage of two strands with one lane group, whatever its class. -/
def stageRec : StageRec := { entry := 0, cls := 1, n := 2, l := 1, tiles := 0, accRows := 0, act4k := 0, scratch256 := 1 }

/-- Launch 1: two stages of two strands, one stream from the first to the second, room for one message in the pool. -/
def launch1 : Launch :=
  { lid := 1, ctx := 0, recAddr := 0
    lrec := { codeh := 1, kern := 0, prio := 0, nobin := false, nx := 1, ny := 1, nz := 1, deps := [], args := 0, stkBase := 0
              stkSz := 0, stkN := 0, ovfl := 0, ovflN := 1, sx := 0, sy := 0, sz := 0, sbrd := 0, after := 0, lbase := 0
              strms := [{ src := 0, dst := 1, space := 0, nslot := 2 }], stages := [stageRec, stageRec] }
    text := 0, entry := none, issuer := none, st := .running, retired := [], released := [], placed := [0]
    bins := List.replicate 64 [], curBin := 0, age := 0, starved := false, dispatched := true, npre := 0, resuming := false
    madeRoomFor := none, pool := [], dying := none, final := none, asked := 0, endedOuts := [] }

def withLaunch (s : State) : State := { s with lu := { s.lu with launches := [launch1], nextLid := 2 } }

/-- A handle of a kind, defined and empty: a ring of two slots of 16 bytes a lane in scratch. -/
def handle (kind : Nat) : Stream :=
  { base := 0x40000003000, dims := [(8, 4)], tag := 0, ch := 0, link := 0, peer := 0, kind := kind, eb := 4, nslot := 2
    slotBytes := 16, space := 0, rbase := 0, se := 32, g := 1, filled := [], next := 0, reserved := 0, done := 0
    ended := false, ovr := false, binding := none, mate := none, mateEnded := false, order := 0, wire := [] }

/-- The handle q3 of the current strand. -/
def setQ (h : Stream) (s : State) : State := s.onCur fun t => { t with q := t.q.set 3 (some h), scratchBytes := 256 }

/-- Descriptors (R152): a load of 8 words of 4 bytes from 0x3000; the two ends of stage stream 0. -/
def descLoad : Desc := [0x40000003000, 7 * 2 ^ 48 + 4, 0, 0, 0, 2, 2 * 2 ^ 48 + 2 ^ 32, 0]
def descOut : Desc := [0, 0, 0, 0, 0, 2 * 2 ^ 8 + 2, 0, 0]
def descIn : Desc := [0, 0, 0, 0, 0, 3 * 2 ^ 8 + 2, 2 * 2 ^ 48 + 2 ^ 32, 0]

/-- A vector strand of a stage with a descriptor at x5, and scratch. -/
def defining (d : Desc) (stage : Nat) : State :=
  (withLaunch (memV vtI32 4 |> putMem 8 0x2000 d)).onCur fun t => { t with scratchBytes := 256, stage := stage }

/-- The hypotheses of StreamDefinition, for a load, a stage output and a stage input. -/
theorem witness_StreamDefinition : ∀ c ∈ [(descLoad, 0), (descOut, 0), (descIn, 1)],
    let s := defining c.1 c.2
    Issues s clsVA [] ∧ s.cur.q[(3 : QReg)] = none ∧ (s.delivered.cur.getX 5).toNat % 64 = 0
    ∧ ReadsDesc (s.delivered.flushCur true true) (s.delivered.cur.getX 5) c.1
    ∧ (s.delivered.flushCur true true).descFault c.1 = none
    ∧ (s.matchProducer 3 (handle 2)).isSome = true ∧ (s.matchConsumer 3 (handle 3)).isSome = true := by
  intro c hc
  have hr : ∀ i, i < 8 → readsB ((defining c.1 c.2).delivered.flushCur true true) true
      (((defining c.1 c.2).delivered.cur.getX 5).toInt + 8 * (i : Nat)) 8 (c.1.getD i 0) = true := by
    simp only [List.mem_cons, List.not_mem_nil, or_false] at hc
    rcases hc with rfl | rfl | rfl <;> decide +kernel
  have hl : c.1.length = 8 := by
    simp only [List.mem_cons, List.not_mem_nil, or_false] at hc
    rcases hc with rfl | rfl | rfl <;> rfl
  refine ⟨⟨?_, ?_, fun _ h => absurd h List.not_mem_nil⟩, ?_, ?_, ⟨hl, fun i hi => reads_of (hr i hi)⟩, ?_, ?_, ?_⟩ <;>
    (simp only [List.mem_cons, List.not_mem_nil, or_false] at hc
     rcases hc with rfl | rfl | rfl <;> decide +kernel)

/-- The hypotheses of the last clause: the producer of stage 0 has exited before the consumer of stage 1 came. -/
theorem witness_StreamDefinition_ended :
    let e : EndedOut := EndedOut.mk 0 0 0 0 4
    let s := (defining descIn 1).updLaunch 1 fun l => { l with endedOuts := [e] }
    s.endedOuts s.cur.lid s.cur.glin (handle 3).link = [e] ∧ e.peer = s.cur.six ∧ e.six = (handle 3).peer ∧ e.eb = (handle 3).eb
    ∧ s.groupStreams s.cur.lid s.cur.glin (handle 3).link 2 = [] ∧ s.groupStreams s.cur.lid s.cur.glin (handle 3).link 3 = [] := by
  decide +kernel

/-- R161: such a consumer meets the end at once. -/
theorem test_qdef_ended :
    after (.qdef 3 5) ((defining descIn 1).updLaunch 1 fun l => { l with endedOuts := [EndedOut.mk 0 0 0 0 4] })
      (fun s => (s.cur.q[(3 : QReg)].map fun h => (h.wire, h.mateEnded), s.lu.launches.map (·.endedOuts)))
      = some (some ([.ended], true), [[]]) := by decide +kernel

/-- R154: a load stream, its fields read from the descriptor; 32 elements of 4 bytes in a slot of 16 bytes a lane. -/
theorem test_qdef : after (.qdef 3 5) (defining descLoad 0)
    (fun s => (s.cur.q[(3 : QReg)].map fun h => [h.kind, h.eb, h.nslot, h.slotBytes, h.se], s.cur.pc))
      = some (some [0, 4, 2, 16, 32], 0x1004) := by decide +kernel

/-- The hypotheses of StreamBindingsAndQueries: a defined handle bound to nothing, enough data and too little, a stage
output with and without its mate's ring; an undefined handle. -/
theorem witness_StreamBindingsAndQueries :
    let filled : Stream := { handle 0 with filled := [{ pos := 0, count := 8, off := 2 }], next := 1, done := 8 }
    let s := setQ filled (onVector vtI32)
    Issues s clsVA [] ∧ s.cur.q[(3 : QReg)] = some filled ∧ s.cur.q[(4 : QReg)] = none
    ∧ (∀ q' : QReg, ∀ h', s.cur.q[q'] = some h' → h'.binding = some 1 → q' = 3)
    ∧ (filled.kind ≠ 2 ∧ min 6 (filled.nslot * filled.se) ≤ s.delivered.streamAvail filled)
    ∧ (7 ≠ 0 ∧ filled.isEnd = false ∧ s.delivered.streamAvail filled < min 7 (filled.nslot * filled.se))
    ∧ ({ handle 0 with ended := true } : Stream).isEnd = true
    ∧ (let p : Stream := { handle 2 with mate := some (1, 4) }
       let s := (setQ p (onVector vtI32)).onCur fun t => { t with q := t.q.set 4 (some (handle 3)) }
       ∃ c, s.delivered.mateOf p = some c ∧ min 1 (c.nslot * c.se) ≤ s.delivered.streamAvail p) := by
  refine ⟨⟨rfl, by decide +kernel, fun _ h => absurd h List.not_mem_nil⟩, by decide +kernel, by decide +kernel, ?_, by decide +kernel, by decide +kernel, by decide +kernel,
    handle 3, by decide +kernel, by decide +kernel⟩
  have hn : ∀ q' : QReg, q' ≠ 3 → (setQ { handle 0 with filled := [{ pos := 0, count := 8, off := 2 }], next := 1, done := 8 }
      (onVector vtI32)).cur.q[q'] = none := by decide +kernel
  intro q' h' e _
  by_contra hne
  rw [hn q' hne] at e
  cases e

/-- Further hypotheses of StreamBindingsAndQueries: a stage output that is not matched yet, and one whose mate's ring has
too little room. -/
theorem witness_StreamBindings_waits :
    (let s := setQ (handle 2) (onVector vtI32)
     s.cur.q[(3 : QReg)] = some (handle 2) ∧ (handle 2).isEnd = false ∧ s.delivered.mateOf (handle 2) = none)
    ∧ (let p : Stream := { handle 2 with mate := some (1, 4) }
       let s := (setQ p (onVector vtI32)).onCur fun t => { t with q := t.q.set 4 (some { handle 3 with reserved := 2 }) }
       s.delivered.mateOf p = some { handle 3 with reserved := 2 } ∧ s.delivered.streamAvail p < min 1 (2 * 32)) := by decide +kernel

/-- R155, R158: qbind; qavail of a handle with 6 of 8 elements left in one filled slot and one free slot. -/
theorem test_qbind_qavail :
    after (.qbind 1 3) (setQ (handle 0) (onVector vtI32)) (fun s => s.cur.q[(3 : QReg)].map (·.binding)) = some (some (some 1))
    ∧ after (.qavail 9 3) (setQ { handle 0 with filled := [{ pos := 0, count := 8, off := 2 }], next := 1 } (onVector vtI32))
      (fun s => s.cur.getX 9) = some 0x0000010100000006
    ∧ after (.qwait 3 9) (setX 9 1 (setQ (handle 0) (onVector vtI32))) (fun s => s.cur.status) = some (.waiting .query) := by
  decide +kernel

/-- R158: such an output waits. -/
theorem test_qwait_output : after (.qwait 3 9) (setX 9 1 (setQ (handle 2) (onVector vtI32))) (fun s => (s.cur.status, s.cur.pc))
    = some (.waiting .query, 0x1000) := by decide +kernel

/-- R156: a bound load stream is popped by the instruction that reads its register; VL is trimmed. -/
theorem test_stream_pop :
    after (.vaddVi { vm := false, c2 := false, vs2 := 1, imm := 1, vd := 2 })
      ((setQ { handle 0 with binding := some 1, filled := [{ pos := 0, count := 3, off := 0 }], next := 1, done := 8, ended := true }
        (onVector vtI32)).onCur fun t => { t with scratch := [(0, 5), (16384, 6), (32768, 7)] })
      (fun s => (els 4 2 s, s.cur.vl, s.cur.q[(3 : QReg)].map (·.filled))) = some ([6, 7, 8, 0], 3, some []) := by decide +kernel

/-- The hypotheses of StreamEndAndReset. -/
theorem witness_StreamEndAndReset :
    Issues (onVector vtI32) clsVA [] ∧ (onVector vtI32).cur.q[(3 : QReg)] = none
    ∧ (setQ (handle 1) (onVector vtI32)).cur.q[(3 : QReg)] = some (handle 1) ∧ (handle 1).isInput = false
    ∧ (∀ o ∈ (setQ (handle 1) (onVector vtI32)).others, o.uid ≠ (setQ (handle 1) (onVector vtI32)).cur.uid)
    ∧ (∀ k, k = 2 ∨ k = 3 → ∃ h', ((setQ (handle k) (onVector vtI32)).endStream 1 3).cur.q[(3 : QReg)] = some h') := by
  refine ⟨⟨rfl, by decide +kernel, fun _ h => absurd h List.not_mem_nil⟩, by decide +kernel, by decide +kernel, rfl, fun o ho => absurd (show o ∈ ([] : List Strand) from ho) List.not_mem_nil, ?_⟩
  rintro k (rfl | rfl)
  · exact ⟨{ handle 2 with ended := true }, by decide +kernel⟩
  · exact ⟨handle 3, by decide +kernel⟩

/-- R159: qrst of a load makes the handle undefined; of a store that has not drained it waits. -/
theorem test_qrst :
    after (.qrst 3) (setQ (handle 0) (onVector vtI32)) (fun s => s.cur.q[(3 : QReg)]) = some none
    ∧ after (.qrst 3) (setQ (handle 1) (onVector vtI32)) (fun s => (s.cur.status, s.cur.q[(3 : QReg)].map (·.ended)))
      = some (.waiting .drain, some true)
    ∧ after (.qend 3) (setQ (handle 1) (onVector vtI32)) (fun s => (s.cur.pc, s.cur.q[(3 : QReg)].map (·.ended)))
      = some (0x1004, some true) := by decide +kernel

/-! ### Copy commands -/

/-- Copy descriptors (R165): 4 words from 0x3000 into scratch; a fill. -/
def descCpt : Desc := [0x40000003000, 0, 0, 2 * 2 ^ 48, 2 ^ 32 + 4, 1, 0, 3]
def descFill : Desc := [0x40000003000, 5, 0, (1 * 4 + 2) * 2 ^ 48, 2 ^ 32 + 4, 1, 0, 3]

/-- A vector strand with a copy descriptor at x5. -/
def copying (d : Desc) : State := (memV vtI32 4 |> putMem 8 0x2000 d).onCur fun t => { t with scratchBytes := 256 }

def opOf (k : CopyKind) (rows : List Int) : CopyOp := { kind := k, ch := 2, kd := none, addr := 0x40000002000, rows := rows, slot := 0 }

/-- A core whose engine has two commands queued. -/
def fullEngine : State :=
  let c : CopyCmd := { uid := 1, lid := 1, ctx := 0, op := opOf .cpt [], desc := descCpt, g := 1, vl := 4 }
  { copying descCpt with cores := [{ Core.reset 0x0100 with engine := [c, c] }] }

/-- The hypotheses of CopyCommands: room in the queue and a descriptor that passes; no room. -/
theorem witness_CopyCommands :
    (let s := copying descCpt
     Issues s clsVA [] ∧ s.cur.popped = false ∧ (s.delivered.cur.getX 5).toNat % 64 = 0
     ∧ (s.delivered.core s.cur.core).engine.length < 2
     ∧ ReadsDesc (s.delivered.flushCur true true) (s.delivered.cur.getX 5) descCpt
     ∧ s.cur.cpNoLanes (opOf .cpt []) descCpt = false ∧ s.cur.cpOk (opOf .cpt []) descCpt = true
     ∧ s.cur.vill = false ∧ s.cur.ew = 32 ∧ s.cur.vstart = 0 ∧ Grouped s.cur.grp [2] ∧ s.delivered.streamIn [2] [] = .ok s)
    ∧ (copying descFill).cur.cpOk (opOf .cpf []) descFill = true
    ∧ 2 ≤ (fullEngine.core 0x0100).engine.length := by
  have hr : ∀ i, i < 8 → readsB ((copying descCpt).delivered.flushCur true true) true
      (((copying descCpt).delivered.cur.getX 5).toInt + 8 * (i : Nat)) 8 (descCpt.getD i 0) = true := by decide +kernel
  exact ⟨⟨⟨rfl, by decide +kernel, fun _ h => absurd h List.not_mem_nil⟩, rfl, by decide +kernel, by decide +kernel, ⟨rfl, fun i hi => reads_of (hr i hi)⟩,
    by decide +kernel, by decide +kernel, by decide +kernel, by decide +kernel, rfl, grouped_one (by decide +kernel) _,
    by decide +kernel⟩, by decide +kernel, by decide +kernel⟩

/-- A further hypothesis of CopyCommands: a descriptor on a page that is not mapped. -/
theorem witness_CopyCommands_fault : let s := copying descCpt |> setX 5 0x80000000000
    (s.cur.getX 5).toNat % 64 = 0 ∧ (s.core s.cur.core).engine.length < 2
    ∧ (match (s.flushCur true true).places (s.cur.getX 5).toInt 8 .load with | .error (.trans (_ :: _) none) => true | _ => false)
      = true := by decide +kernel

/-- R164: the command is queued, and its mask register pends. -/
theorem test_cpt : after (.cpt { ch := 2, base := 5, kd := some 3 }) (copying descCpt)
    (fun s => ((s.core 0x0100).engine.map (·.desc), s.cur.kdPend, s.cur.pc)) = some ([descCpt], [3], 0x1008) := by decide +kernel

/-- R156, R164: with its descriptor on such a page `cpgr` waits, and what it popped is noted. -/
theorem test_copy_fault :
    after (.cpgr { ch := 2, base := 5, kd := none, vs2 := 1, c := false })
      (((copying descCpt) |> setX 5 0x80000000000).onCur fun t => { t with q := t.q.set 3 (some { handle 0 with
        binding := some 1, filled := [{ pos := 0, count := 4, off := 0 }], next := 1, done := 8 }) })
      (fun s => (s.cur.popped, s.cur.pc, match s.cur.status with | .waiting (.copy op) => op.rows.length | _ => 9,
        s.cur.q[(3 : QReg)].map (·.filled.length))) = some (true, 0x1000, 4, some 0) := by decide +kernel

/-! ### The matrix array -/

/-- An array strand with four accumulator rows, a tile of INT8 whose element (0, 0) is 2 and (1, 0) is −1, and a row of
activations that begins 3, 5; x5 = 0. -/
def tileA : Tile := { loading := false, valid := true, bfmt := 4, krows := 96, elems := 2 :: (List.replicate 127 0 ++ [255]) }
def matrixA : State :=
  (onArray vtI8).onCur fun t => { t with tiles := [tileA], accRows := 4, acc := [(1024, 10)], actBytes := 96, act := [(0, 3), (1, 5)] }

theorem rowsFree_of (t : Strand) (r n : Nat) (h : r + n ≤ t.accRows) (hq : t.q = Vector.replicate 16 none) : RowsFree t r n := by
  refine ⟨h, fun i _ _ q g e => ?_⟩
  rw [hq] at e
  simp at e

/-- The hypotheses of MatrixMultiply, IntegerColumn and WeightSlots, at the last row. -/
theorem witness_Matrix :
    Issues matrixA clsA [] ∧ SlotReady matrixA.cur 0 tileA ∧ pairOf matrixA.cur tileA = some (.int 8 8 96)
    ∧ pairRows (.int 8 8 96) = 1 ∧ RowsFree matrixA.cur 3 1 ∧ (matrixA.delivered.cur.getX 5).toNat + 96 ≤ matrixA.cur.actBytes
    ∧ matrixA.cur.MemWf ∧ rowAt matrixA.delivered.cur none 3 = 3 ∧ tileA.bfmt < 16 ∧ tileA.krows < 256 := by
  refine ⟨⟨rfl, by decide +kernel, fun _ h => absurd h List.not_mem_nil⟩, ⟨rfl, rfl⟩, by decide +kernel, by decide +kernel, rowsFree_of _ _ _ (by decide +kernel) rfl,
    by decide +kernel, ?_, by decide +kernel, by decide +kernel, by decide +kernel⟩
  unfold Strand.MemWf; decide +kernel

/-- A column whose sum leaves the range: 3 × 2 + 5 × −1 added to 2^31 − 1. -/
theorem witness_IntegerColumn : (column (.int 8 8 96) (3 + 5 * 256) tileA 0 (some 0x7FFFFFFF)).2 = 2
    ∧ (column (.int 8 8 96) (3 + 5 * 256) tileA 0 (some 0x7FFFFFFF)).1 = 0x80000000 := by decide +kernel

/-- Terms of the last clauses of MatrixMultiply in FP16: 1.5 × 2 and a NaN, an infinity, an infinity times zero; and the sum of
1.5 × 2 with 2^-60, which falls out of the window. -/
theorem witness_FloatColumn :
    let w (x : Nat) : Tile := { tileA with bfmt := 1, elems := x :: List.replicate 127 0 }
    let col (row x acc : Nat) : Nat × Nat := column (.float fp16 fp16 48) row (w x) 0 (some acc)
    (fp16.val 0x7E00).isNan = true ∧ col 0x3E00 0x7E00 0 = (fp32.nanBits, 0)
    ∧ fp16.val 0x7C00 = .inf false ∧ col 0x3E00 0x7C00 0 = (fp32.infBits, 0)
    ∧ ((fp16.val 0).mul (fp16.val 0x7C00)).1.isNan = true ∧ col 0 0x7C00 0 = (fp32.nanBits, 4)
    ∧ col 0x3E00 0x7C00 0xFF800000 = (fp32.nanBits, 4)
    ∧ col 0x3E00 0x4000 0 = (0x40400000, 0) ∧ col 0x3E00 0x4000 0x21800000 = (0x40400000, 1) := by decide +kernel

/-- R102, R220: 3 × 2 added to 10 in row 2. -/
theorem test_mmr : after (.mmr 2 0 5) (matrixA.onCur fun t => { t with tiles := [{ tileA with elems := [2] }] })
    (fun s => (s.cur.accWord 2 0, s.cur.accWord 2 1, s.cur.pc)) = some (16, 0, 0x1008) := by decide +kernel

/-- The hypotheses of AccumulatorRows: rows 2 and 3 free, v1 bound to nothing. -/
theorem witness_AccumulatorRows :
    Issues matrixA clsA [] ∧ 1 ≤ matrixA.cur.g ∧ matrixA.cur.g ≤ 4 ∧ RowsFree matrixA.cur 3 1 ∧ RowsFree matrixA.cur 2 (1 + 1)
    ∧ matrixA.delivered.streamIn [] [1] = .ok matrixA ∧ matrixA.cur.MemWf
    ∧ ∀ (q : QReg) h, matrixA.cur.q[q] = some h → h.binding ≠ some 1 := by
  refine ⟨⟨rfl, by decide +kernel, fun _ h => absurd h List.not_mem_nil⟩, by decide +kernel, by decide +kernel, rowsFree_of _ _ _ (by decide +kernel) rfl,
    rowsFree_of _ _ _ (by decide +kernel) rfl, by decide +kernel, ?_, ?_⟩
  · unfold Strand.MemWf; decide +kernel
  · intro q h e
    have hn : ∀ q : QReg, matrixA.cur.q[q] = none := by decide +kernel
    rw [hn q] at e
    cases e

/-- R224, R225: accrd, accwr and accz of two rows. -/
theorem test_acc_rows :
    after (.accrd 1 0 2) matrixA (fun s => s.cur.elem 1 32 0) = some 10
    ∧ after (.accwr 0 3 2) (matrixA |> setV 2 [7, 8]) (fun s => (s.cur.accWord 3 0, s.cur.accWord 3 1, s.cur.accWord 2 0)) = some (7, 8, 10)
    ∧ after (.accz 0 2 1) matrixA (fun s => s.cur.acc) = some [] := by decide +kernel

/-- R226, R227: wdesc reads BFMT, VALID, KROWS and the status, which it clears; wclr empties the slot. -/
theorem test_wdesc_wclr :
    after (.wdesc 9 0) (matrixA.onCur fun t => { t with astat := 2 }) (fun s => (s.cur.getX 9, s.cur.astat)) = some (0x26014, 0)
    ∧ after (.wclr 0) matrixA (fun s => s.cur.tiles.map (·.valid)) = some [false] := by decide +kernel

/-- The hypotheses of the first clause of WeightSlots: slot 1 of a stage that declares one. -/
theorem witness_WeightSlots : matrixA.cur.cls = .array ∧ matrixA.cur.mode = .u ∧ matrixA.cur.system = false
    ∧ matrixA.cur.fork = none ∧ matrixA.cur.tiles.length ≤ (1 : QReg).val := by decide +kernel

/-- R219: slot 1 is not declared: `cpw` and `wdesc` stop. -/
theorem test_undeclared_slot : ∀ i ∈ [Instr.wdesc 9 1, .cpw { ch := 2, base := 5, kd := some 3 } 1],
    after i (matrixA.onCur fun t => { t with kdPend := [3] }) (fun s => match s.cur.status with | .trapping i => i.cls | _ => 0)
      = some 9 := by decide +kernel

/-! ### The scalar base -/

/-- A control strand in a mode, with the same map and x5. -/
def memC (md : Mode) : State :=
  mapped (machineOn { strandOn 0 villOnly 0 with g := 0, mode := md, x := (Vector.replicate 32 0).set 5 0x40000002000 })

/-- Issue of a scalar instruction in a strand and in a lane thread: the hypotheses of ScalarArithmetic, JumpsAndBranches,
ScalarMemory, ScalarAtomics, ScalarFloat and the CSR instructions. -/
theorem witness_ScalarIssue :
    ScalarIssue (onVector vtI32) anyCls true ∧ ScalarIssue inLane anyCls true ∧ ScalarIssue (onVector vtI32) [.control, .vector] false
    ∧ ScalarIssue (memC .u) [.control, .vector] false ∧ ScalarIssue (onControl .m) anyCls false
    ∧ (∀ op rd rs1 rs2, op ≠ .czeroEqz → op ≠ .czeroNez →
      ScalarIssue (onVector vtI32) (scalarClasses (.alu op rd rs1 rs2)) (op != .czeroEqz && op != .czeroNez))
    ∧ (∀ op rd rs1 rs2, ScalarIssue (onControl .m) (scalarClasses (.alu op rd rs1 rs2)) (op != .czeroEqz && op != .czeroNez))
    ∧ ∀ op rd rs1 sh, ScalarIssue (onVector vtI32) (scalarClasses (.shI op rd rs1 sh)) true := by
  have hv : (onVector vtI32).cur.cls = .vector := cls_onVector _
  have hc : (onControl .m).cur.cls = .control := by decide
  refine ⟨⟨by decide, .inl rfl⟩, ⟨by decide, .inr rfl⟩, ⟨by decide, .inl rfl⟩, ⟨by decide, .inl rfl⟩, ⟨by decide, .inl rfl⟩,
    fun op rd rs1 rs2 h1 h2 => ⟨?_, .inl rfl⟩, fun op rd rs1 rs2 => ⟨?_, .inl rfl⟩, fun op rd rs1 sh => ⟨?_, .inl rfl⟩⟩
  · rw [hv]; cases op <;> simp_all [scalarClasses, anyCls]
  · rw [hc]; cases op <;> simp [scalarClasses, anyCls, clsC]
  · rw [hv]; cases op <;> simp [scalarClasses, anyCls]

/-- A scalar instruction in its 32-bit form. -/
def sc (op : Scalar) : Instr := .rv64ScalarInstruction .full op

/-- R55: sign extension of a 32-bit sum; the remainder of the most negative number by −1; the high signed-unsigned product;
x0 discards; a rotate; sub in a lane thread. -/
theorem test_alu :
    after (sc (.aluW .addw 9 5 6)) (onVector vtI32 |> setX 5 0x7FFFFFFF |> setX 6 1) (fun s => s.cur.getX 9) = some 0xFFFFFFFF80000000
    ∧ after (sc (.alu .rem 9 5 6)) (onVector vtI32 |> setX 5 0x8000000000000000 |> setX 6 0xFFFFFFFFFFFFFFFF) (fun s => s.cur.getX 9) = some 0
    ∧ after (sc (.alu .mulhsu 9 5 6)) (onVector vtI32 |> setX 5 0xFFFFFFFFFFFFFFFF |> setX 6 2) (fun s => s.cur.getX 9)
      = some 0xFFFFFFFFFFFFFFFF
    ∧ after (sc (.aluI .addi 0 5 1)) (onVector vtI32 |> setX 5 7) (fun s => (s.cur.x, s.cur.pc)) = some ((setX 5 7 (onVector vtI32)).cur.x, 0x1004)
    ∧ after (sc (.shI .rori 9 5 4)) (onVector vtI32 |> setX 5 0x1F) (fun s => s.cur.getX 9) = some 0xF000000000000001
    ∧ after (sc (.alu .sub 9 6 7)) inLane (fun s => (s.cur.getX 9, s.cur.getPc, s.cur.x)) = some (5, 0x2004, inLane.cur.x) := by
  decide +kernel

/-- R55: unary operations on 0x00FF00000000FE80. -/
theorem test_unary :
    let s := setX 5 0x00FF00000000FE80 (onVector vtI32)
    after (sc (.un .clz 9 5)) s (fun s => s.cur.getX 9) = some 8 ∧ after (sc (.un .ctzw 9 5)) s (fun s => s.cur.getX 9) = some 7
    ∧ after (sc (.un .sextB 9 5)) s (fun s => s.cur.getX 9) = some 0xFFFFFFFFFFFFFF80
    ∧ after (sc (.un .rev8 9 5)) s (fun s => s.cur.getX 9) = some 0x80FE00000000FF00
    ∧ after (sc (.un .orcB 9 5)) s (fun s => s.cur.getX 9) = some 0x00FF00000000FFFF := by decide +kernel

/-- R55: jalr clears bit 0 and reads its base before it writes; a branch back; a compressed jump links 2 bytes on. -/
theorem test_jumps :
    after (sc (.jalr 5 5 3)) (onVector vtI32 |> setX 5 0x4000) (fun s => (s.cur.pc, s.cur.getX 5)) = some (0x4002, 0x1004)
    ∧ after (sc (.branch .bltu 5 6 0x1FF8)) (onVector vtI32 |> setX 5 1 |> setX 6 0xFFFFFFFFFFFFFFFF) (fun s => s.cur.pc) = some 0xFF8
    ∧ after (.rv64ScalarInstruction (.compressed 0x9282) (.jalr 1 5 0)) (onVector vtI32 |> setX 5 0x4000)
      (fun s => (s.cur.pc, s.cur.getX 1)) = some (0x4000, 0x1002) := by decide +kernel

/-- The hypotheses of ScalarMemory: translated; Bare below the register blocks; Bare in one (0x010000050008, a platform
register). -/
theorem witness_ScalarMemory :
    (ScalarReads (memC .u) (memC .u) 0x40000002000 8 0 ∧ ScalarTarget (memC .u) (memC .u) 0x40000002000 8 [(at2000, 8)])
    ∧ (ScalarReads (memC .m) (memC .m) 0x2000 8 0 ∧ ScalarTarget (memC .m) (memC .m) 0x2000 8 [(at2000, 8)])
    ∧ ((memC .m).bare = true ∧ blockBase ≤ (0x010000050008 : Word).toNat
      ∧ ScalarReads (memC .m) (memC .m) 0x010000050000 8 0)
    ∧ MemWf (memC .u) ∧ StoresOpen (memC .u) [(at2000, 8)] ((memC .u).cur.wc false) := by
  have hs : ∃ ps, (memC .u).places (0x40000002000 : Word).toInt 8 .load = .ok (ps, memC .u)
      ∧ (∀ p ∈ ps, (memC .u).badPiece p = false) ∧ 0 = leNat (ps.flatMap ((memC .u).readPiece (memC .u).laneMode)) :=
    ⟨[(at2000, 8)], places_of (by decide +kernel), by decide +kernel, by decide +kernel⟩
  obtain ⟨ps, h1, h2, h3⟩ := hs
  refine ⟨⟨.inl ⟨by decide, ps, h1, h2, h3⟩, .inl ⟨by decide, places_of (by decide +kernel)⟩⟩,
    ⟨.inr (.inl ⟨by decide, by decide, rfl, [(at2000, 8)], by decide +kernel, by decide +kernel, by decide +kernel⟩),
      .inr ⟨by decide, by decide, rfl, by decide +kernel, by decide +kernel⟩⟩,
    ⟨by decide, by decide, .inr (.inr ⟨by decide, by decide, by decide +kernel, by decide +kernel⟩)⟩, ?_, ?_, ?_⟩
  · unfold MemWf Strand.MemWf; decide +kernel
  · intro p hp _ a _ _
    rw [List.mem_singleton.1 hp]; rfl
  · exact ⟨nofun, nofun⟩

/-- R6, R55: a byte with its sign, a half without; a store of the low word only. -/
theorem test_load_store :
    after (sc (.load .lb 9 5 3)) (memC .u |> putMem 8 0x2000 [0x80000000]) (fun s => s.cur.getX 9) = some 0xFFFFFFFFFFFFFF80
    ∧ after (sc (.load .lhu 9 5 2)) (memC .u |> putMem 8 0x2000 [0x80000000]) (fun s => s.cur.getX 9) = some 0x8000
    ∧ after (sc (.store .sw 5 6 0xFFC)) (memC .u |> setX 6 0x1122334455667788) (fun s => s.dev.readNat 0x1FF8 16)
      = some 0x5566778800000000
    ∧ after (sc (.fload false 9 5 0)) (memC .u |> putMem 4 0x2000 [0x3F800000]) (fun s => s.cur.f[(9 : Reg)])
      = some 0xFFFFFFFF3F800000 := by decide +kernel

/-- A check that an access with the effect of `f` goes on. -/
def goes (s : State) (a : Word) (n : Nat) (f : Nat → Option Nat) : Bool :=
  (match s.atomic a n f with | .ok _ => true | .error _ => false) && (match s.load a n with | .ok _ => true | .error _ => false)
    && [Acc.load, .atomic].all (fun acc => match s.granule a n acc with | .ok g => g == (.dev, 0x40) | .error _ => false)

/-- The hypotheses of ScalarAtomics, with the watch standing and not. -/
theorem witness_ScalarAtomics :
    ScalarIssue (memC .u) [.control, .vector] false ∧ (0x40000002000 : Word).toNat % 8 = 0
    ∧ goes ((memC .u).delivered.flushCur true false) 0x40000002000 8 some = true
    ∧ goes (memC .u).delivered 0x40000002000 4 (fun _ => none) = true
    ∧ (memC .u).delivered.cur.lrRes ≠ some (.dev, 0x40)
    ∧ ((memC .u).onCur fun t => { t with lrRes := some (.dev, 0x40) }).delivered.cur.lrRes = some (.dev, 0x40) := by
  refine ⟨⟨by decide, .inl rfl⟩, by decide, by decide +kernel, by decide +kernel, by decide, by decide⟩

/-- R56: sc.w with and without its watch; amomax.w is signed. -/
theorem test_lr_sc_amo :
    after (sc (.lr false false false 9 5)) (memC .u |> putMem 4 0x2000 [0x80000001]) (fun s => (s.cur.getX 9, s.cur.lrRes))
      = some (0xFFFFFFFF80000001, some (.dev, 0x40))
    ∧ after (sc (.sc false false false 9 5 6)) ((memC .u |> setX 6 7).onCur fun t => { t with lrRes := some (.dev, 0x40) })
      (fun s => (s.cur.getX 9, s.dev.readNat 0x2000 4, s.cur.lrRes)) = some (0, 7, none)
    ∧ after (sc (.sc false false false 9 5 6)) (memC .u |> setX 6 7) (fun s => (s.cur.getX 9, s.dev.readNat 0x2000 4)) = some (1, 0)
    ∧ after (sc (.amo .max false true true 9 5 6)) (memC .u |> setX 6 1 |> putMem 4 0x2000 [0xFFFFFFFF])
      (fun s => (s.cur.getX 9, s.dev.readNat 0x2000 4)) = some (0xFFFFFFFFFFFFFFFF, 1) := by decide +kernel

/-- Rounding modes that the standard defines, static and dynamic. -/
theorem witness_ScalarFloat : FpRounds (onVector vtI32).cur 1 { rm := .rtz, sat := false, ftz := false }
    ∧ FpRounds (onVector vtI32).cur 7 { rm := .rne, sat := false, ftz := false } := ⟨⟨.rtz, by decide, rfl⟩, .rne, by decide, rfl⟩

/-- R55, R57: 1 / 3 rounded down and up; a 32-bit operand without its box is the canonical NaN; −1.5 to an integer. -/
theorem test_scalar_float :
    let s := (onVector vtI32).onCur fun t => { t with f := ((t.f.set 1 0xFFFFFFFF3F800000).set 2 0xFFFFFFFF40400000).set 3 0x3FF8000000000000 }
    after (sc (.fbin .fdiv false 2 4 1 2)) s (fun s => (s.cur.f[(4 : Reg)], s.cur.fflags)) = some (0xFFFFFFFF3EAAAAAA, 1)
    ∧ after (sc (.fbin .fdiv false 3 4 1 2)) s (fun s => s.cur.f[(4 : Reg)]) = some 0xFFFFFFFF3EAAAAAB
    ∧ after (sc (.fbin .fadd false 0 4 1 3)) s (fun s => s.cur.f[(4 : Reg)]) = some 0xFFFFFFFF7FC00000
    ∧ after (sc (.fcvtToInt .w true 1 9 3)) s (fun s => (s.cur.getX 9, s.cur.fflags)) = some (1, 1)
    ∧ after (sc (.fcmp .fle true 9 3 3)) s (fun s => s.cur.getX 9) = some 1
    ∧ after (sc (.fclass false 9 3)) s (fun s => s.cur.getX 9) = some 0x200 := by decide +kernel

/-! ### CSRs, privilege, exceptions -/

theorem witness_QuelanCsrs :
    Issues (onVector vtI32) anyCls []
    ∧ FCsr.writes { op := .rw, imm := false, rd := 9, src := 6, csr := 0x803 } = true
    ∧ FCsr.writes { op := .rs, imm := false, rd := 9, src := 0, csr := 0xCC0 } = false := ⟨issuesV _ _ _ rfl, by decide, by decide⟩

/-- R59, R65: VL reads; a write of VDIRTY zeroes the registers whose bit is clear. -/
theorem test_quelan_csr :
    after (.quelanCsrAccess { op := .rs, imm := false, rd := 9, src := 0, csr := 0xCC0 }) (onVector vtI32) (fun s => s.cur.getX 9) = some 4
    ∧ after (.vdirtyWrite { op := .rw, imm := false, rd := 9, src := 6, csr := 0x803 })
      ((onVector vtI32 |> setX 6 2 |> setV 1 [7] |> setV 2 [8]).onCur fun t => { t with vdirty := 6 })
      (fun s => (s.cur.getX 9, s.cur.vdirty, els 1 1 s, els 1 2 s)) = some (6, 2, [7], [0]) := by decide +kernel

/-- R36, R60: LGRANT of a grant of one with NR; STRANDID of group 2, stage 1, strand 3; CLASS of an array core. -/
theorem test_strand_csrs :
    let rd (n : BitVec 12) (s : State) := after (.quelanCsrAccess { op := .rs, imm := false, rd := 9, src := 0, csr := n }) s fun s => s.cur.getX 9
    rd 0xCC3 ((onVector vtI32).onCur fun t => { t with nr := true }) = some 9
    ∧ rd 0xCC4 ((onVector vtI32).onCur fun t => { t with glin := 2, stage := 1, six := 3 }) = some 0x213
    ∧ rd 0xCCA (onArray vtI32) = some 3 ∧ rd 0xCCE ((onVector vtI32).onCur fun t => { t with inbox := [{ ch := 3, hdr := 0, payload := 0 }] }) = some 0x10008 := by
  decide +kernel

/-- The modes of the hypotheses of PrivilegedInstructions: M-mode; S-mode without TSR, TW and TVM; an interrupt pending
and none; `mscratch` may be read in M-mode. -/
theorem witness_PrivilegedInstructions :
    ScalarIssue (onControl .m) anyCls false ∧ (onControl .m).cur.mode = .m
    ∧ ScalarIssue (onControl .s) anyCls false ∧ (onControl .s).cur.mode = .s ∧ (onControl .s).csrs.mstatus.getLsbD 22 = false
    ∧ (onControl .m).csrs.mstatus.extractLsb' 11 2 ≠ 2 ∧ (onControl .m).delivered.mip = 0
    ∧ (let a : FCsr := { op := .rw, imm := false, rd := 9, src := 6, csr := 0x340 }
       (onControl .m).csrAllowed a = true ∧ a.csr.toNat ≠ 1 ∧ a.csr.toNat ≠ 2 ∧ a.csr.toNat ≠ 3
       ∧ ((onControl .m).delivered.privRead a.csr.toNat).isSome = true) := by
  refine ⟨⟨by decide, .inl rfl⟩, rfl, ⟨by decide, .inl rfl⟩, rfl, by decide, by decide, by decide +kernel, by decide +kernel⟩

/-- mret to S-mode: MPP 1, MPIE 1 (log 6); mscratch swaps. -/
theorem test_privileged :
    after (sc .mret) ((onControl .m).putCsrs { (onControl .m).csrs with mstatus := 0x880, mepc := 0x5000 })
      (fun s => (s.cur.mode, s.cur.pc, s.csrs.mstatus)) = some (.s, 0x5000, 0x88)
    ∧ after (sc (.csr { op := .rw, imm := false, rd := 9, src := 6, csr := 0x340 }))
      ((onControl .m |> setX 6 3).putCsrs { (onControl .m).csrs with mscratch := 8 }) (fun s => (s.cur.getX 9, s.csrs.mscratch))
      = some (8, 3) := by decide +kernel

/-- The modes and classes of EnvironmentCalls and IssueExceptions. -/
theorem witness_Exceptions :
    ((onVector vtI32).cur.fork = none ∧ (onVector vtI32).cur.cls ≠ .control)
    ∧ ((onControl .u).cur.cls = .control ∧ (onControl .u).cur.mode = .u)
    ∧ ((onControl .s).cur.mode = .s ∧ (onControl .s).csrs.medeleg.getLsbD 9 = false)
    ∧ ((onControl .s).putCsrs { (onControl .s).csrs with medeleg := 0x200 }).csrs.medeleg.getLsbD 9 = true
    ∧ ((onArray vtI32).cur.mode = .u ∧ (onArray vtI32).cur.system = false ∧ (onArray vtI32).cur.cls = .array
      ∧ (onArray vtI32).cur.pinned = false ∧ (onArray vtI32).classPresent .vector = false
      ∧ ({ onArray vtI32 with cores := [Core.reset 0x0300, Core.reset 0x0100] } : State).classPresent .vector = true
      ∧ matrixA.cur.pinned = true)
    ∧ inLane.cur.fork.isSome = true ∧ inLane.cur.cls = .vector := by decide

/-- Rows of each class table off their class, and what no lane thread runs: further hypotheses of IssueExceptions. -/
theorem witness_IssueExceptions :
    (onControl .u).cur.cls ∉ [Cls.vector, .array] ∧ classTable .vrel = some [.vector, .array] ∧ gateFirst .vrel = false
    ∧ (onArray vtI32).cur.cls ∉ [Cls.vector] ∧ classTable (.lfork true) = some [.vector]
    ∧ (onVector vtI32).cur.cls ∉ [Cls.array] ∧ classTable (.wclr 0) = some [.array]
    ∧ (onArray vtI32).cur.cls ∉ [Cls.control, .vector] ∧ classTable (.thaww 5) = some [.control, .vector]
    ∧ scalarClassTable (.lr true false false 9 5) = some [.control, .vector]
    ∧ scalarClassTable (.alu .czeroEqz 9 5 6) = some [.control] ∧ gateFirst (.kpop 9 1) = true
    ∧ (∀ c ∈ [Cls.array], ({ onVector vtI32 with cores := coresIn [0, 0x0100] } : State).classPresent c = false)
    ∧ inLane.cur.replyQ = [] ∧ laneRuns .bar = false ∧ (encode .bar).isSome = true
    ∧ laneRuns (.rv64ScalarInstruction .full .wfi) = false ∧ (encode (.rv64ScalarInstruction .full .wfi)).isSome = true := by
  decide +kernel

/-- R46, R53, R279: an `ecall` of U-mode on a control core traps to S-mode with cause 8; on a vector core the strand stops. -/
theorem test_ecall :
    after .ecall ((onControl .u).putCsrs { (onControl .u).csrs with stvec := 0x8001, mstatus := 2 })
      (fun s => (s.cur.mode, s.cur.pc, s.csrs.sepc, s.csrs.scause, s.csrs.mstatus)) = some (.s, 0x8000, 0x1000, 8, 0x20)
    ∧ after .ebreak (onVector vtI32) (fun s => match s.cur.status with | .trapping i => (i.cause, s.cur.pc) | _ => (0, 0))
      = some (3, 0x1000) := by decide +kernel

/-- R41, R53, R56: class-miss asks the carrier; mret in U-mode is illegal (cause 2). -/
theorem test_exceptions :
    after (.vmulVv { vm := false, c2 := false, c1 := false, vs2 := 2, vs1 := 3, vd := 1 })
      { onArray vtI32 with cores := [Core.reset 0x0300, Core.reset 0x0100] } (fun s => s.cur.status) = some (.moving (.classes [.vector]))
    ∧ after (sc .mret) (onControl .u) (fun s => (s.cur.mode, s.csrs.scause)) = some (.s, 2) := by decide +kernel

/-- R41, R53, R133: an array row on a vector core and a vector row on a control core ask the carrier, in order; without a core
that could take it the strand stops with class 0x02, and its launch ends where it runs on a control core; `wfi` in a lane
thread. -/
theorem test_class_misses :
    after (.wclr 0) { onVector vtI32 with cores := coresIn [0x0100, 0x0300], nextAsk := 7 } (fun s => (s.cur.status, s.cur.asked, s.nextAsk))
      = some (.moving (.classes [.array]), 7, 8)
    ∧ after (.vmulVv { vm := false, c2 := false, c1 := false, vs2 := 2, vs1 := 3, vd := 1 }) { withLaunch (onControl .u) with cores := coresIn [0] }
      (fun s => s.lu.launches.map (·.final)) = some [some (2, 2)]
    ∧ after (.lfork true) { onArray vtI32 with cores := coresIn [0x0300] }
      (fun s => match s.cur.status with | .trapping i => i.cls | _ => 0) = some 2
    ∧ after (sc .wfi) inLane (fun s => match s.cur.status with | .trapping i => i.cls | _ => 0) = some 4 := by decide +kernel

/-- Further hypotheses of IssueExceptions: a pinned strand off the class of a present one; EW 100 with FAM 01. -/
theorem witness_IssueExceptions_formats :
    (let s : State := { matrixA with cores := coresIn [0x0300, 0x0100] }
     s.cur.cls ∉ [Cls.vector] ∧ s.cur.pinned = true ∧ s.classPresent .vector = true ∧ s.cur.fork = none)
    ∧ (let s := onVector 0x0C
       s.cur.fork = none ∧ s.cur.cls = .vector ∧ s.cur.kdPend = [] ∧ s.cur.vill = false ∧ s.cur.ew = 4 ∧ vtFam s.cur.vtype = 1) := by
  decide +kernel

/-- R24, R41, R82: a pinned strand whose class is present elsewhere, absent everywhere; `kpop` and `kld` without a format. -/
theorem test_misses_and_formats :
    let cls (s : State) : Nat := match s.cur.status with | .trapping i => i.cls | _ => 0
    after (.lfork true) { matrixA with cores := coresIn [0x0300, 0x0100] } cls = some 3
    ∧ after (.lfork true) { matrixA with cores := coresIn [0x0300] } cls = some 2
    ∧ after (.kpop 9 1) (onVector 0x0C) cls = some 1 ∧ after (.kld 1 5) (onVector 0x0C) cls = some 1 := by decide +kernel

/-! ### Fences, barriers, messages, freezing -/

/-- Byte 5 for 0x2040 in the scalar agent's buffer, byte 6 for 0x2100 in the vector agent's. -/
def buffered : State := (mapped (onVector vtI32)).onCur fun t =>
  { t with wcS := [{ space := .dev, line := 0x40, key := 0, cells := [(0x2040, 5)] }]
           wcV := [{ space := .dev, line := 0x42, key := 0, cells := [(0x2100, 6)] }] }

/-- The hypotheses of Fences: both buffers, one, none; a strand; a control core; the bits of a fence. -/
theorem witness_Fences :
    (buffered.dev.wf = true ∧ buffered.host.wf = true ∧ buffered.peer.wf = true ∧ buffered.others = [])
    ∧ buffered.cur.MemWf
    ∧ (∀ b ∈ buffered.cur.wcS ++ buffered.cur.wcV, b.space = .dev → ∀ c ∈ b.cells, buffered.lineKey (lineOf c.1) = b.key)
    ∧ (∀ b ∈ buffered.cur.wcS ++ buffered.cur.wcV, ∀ c ∈ b.cells, ∀ b' ∈ buffered.cur.wcS ++ buffered.cur.wcV,
        b'.space = b.space → ∀ c' ∈ b'.cells, c'.1 = c.1 → c' = c)
    ∧ buffered.cur.fork = none ∧ (onControl .u).cur.cls = .control ∧ (onControl .u).cur.fork = none := by
  refine ⟨by decide, ?_, by decide, by decide, by decide, by decide, by decide⟩
  unfold Strand.MemWf; decide

/-- An element of lane 31 not performed yet: the wait of Fences, at package scope only. -/
theorem witness_Fences_wait : let s := (onVector vtI32).onCur fun t => { t with pend := t.pend.set 31 1 }
    ¬(s.cur.g = 0 ∨ s.cur.cls = .control ∨ ∀ i : Fin 32, s.cur.pend[i] = 0) ∧ 3 ≤ (3 : Fin 5).val ∧ (2 : Fin 5).val < 3
    ∧ (∀ i : Fin 32, (onVector vtI32).cur.pend[i] = 0) := by decide +kernel

/-- R200: `ord.sv` writes the scalar agent's bytes out, `ord.vv` the vector agent's. -/
theorem test_fences :
    after (.ordSv 0) buffered (fun s => (s.dev.get 0x2040, s.dev.get 0x2100, s.cur.wcS.length, s.cur.wcV.length, s.cur.pc))
      = some (5, 0, 0, 1, 0x1004)
    ∧ after (.ordVv 0) buffered (fun s => (s.dev.get 0x2040, s.dev.get 0x2100, s.cur.wcS.length, s.cur.wcV.length))
      = some (0, 6, 1, 0) := by decide +kernel

/-- R216: `ord.vs` waits there; `fence` flushes whatever its sets are (R184). -/
theorem test_fence_waits :
    after (.ordVs 3) ((onVector vtI32).onCur fun t => { t with pend := t.pend.set 31 1 }) (fun s => (s.cur.status, s.cur.pc)) = some (.waiting .fence, 0x1000)
    ∧ after (.fence 0 2 2 0 0) buffered (fun s => (s.dev.get 0x2040, s.cur.wcS.length)) = some (5, 0) := by decide +kernel

/-- Two strands of one group of launch 1; the second is strand 1 of stage 0. -/
def two (f : Strand → Strand) : State :=
  withLaunch { onVector vtI32 with others := [f { strandOn 0x0100 vtI32 4 with uid := 2, slot := 1, six := 1 }], nextUid := 3 }

/-- Further hypotheses of Fences: a buffer that a page lock holds back; an output with a strip on its way to the one other
strand. -/
theorem witness_Fences_held :
    (let s := { buffered with xl := { buffered.xl with locks := [{ page := 0, byHost := true, target := 9 }] } }
     s.cur.wcV.map s.backHeld = [true])
    ∧ (let p : Stream := { handle 2 with mate := some (2, 4) }
       let c : Stream := { handle 3 with wire := [.data [1, 2]] }
       let s := setQ p (two fun o => { o with q := o.q.set 4 (some c) })
       (s.others.map (·.uid)) = [2] ∧ s.cur.uid = 1 ∧ s.cur.q[(3 : QReg)] = some p ∧ p.kind = 2 ∧ p.mate = some (2, 4)
       ∧ (s.others.map fun o => o.q[(4 : QReg)]) = [some c] ∧ (∀ r : QReg, r ≠ 3 → s.cur.q[r] = none)
       ∧ ((s.flushCur true true).others.map fun o => o.q[(4 : QReg)].map (·.wire)) = [some []]) := by decide +kernel

/-- The hypotheses of BarriersAndEvents: the other strand has arrived, and has not; system code; elements outstanding and
none; the latch set and clear; a STRANDID that names the other strand, and one that names none. -/
theorem witness_BarriersAndEvents :
    (let s := two fun o => { o with barArrived := true }
     s.cur.fork = none ∧ s.cur.system = false ∧ ∀ o ∈ s.others, InGroup s o ∧ o.barK = s.cur.barK ∧ o.barArrived = true)
    ∧ (let s := two fun o => o
       (∀ o ∈ s.others, InGroup s o ∧ o.barK = s.cur.barK ∧ o.barArrived = false) ∧ s.others ≠ []
       ∧ s.cur.g ≠ 0 ∧ s.cur.cls ≠ .control ∧ (∀ i : Fin 32, s.cur.pend[i] = 0) ∧ s.cur.latch = false)
    ∧ (let s := (two fun o => o).onCur fun t => { t with pend := t.pend.set 31 1, latch := true }
       s.cur.pend[(31 : Fin 32)] ≠ 0 ∧ s.cur.latch = true)
    ∧ (onControl .m).cur.fork = none ∧ (onControl .m).cur.cls = .control
    ∧ ((onControl .m).onCur fun t => { t with system := true }).cur.system = true
    ∧ (let s := two fun o => o
       s.launch s.cur.lid = some launch1 ∧ launch1.sidOk 1 = true ∧ launch1.sidOk 0x11 = true
       ∧ (s.strandAt 1 0 0 1).isSome = true ∧ s.strandAt 1 0 1 1 = none) := by
  unfold InGroup; decide +kernel

/-- R201: the last strand of a group to arrive takes both past the barrier; the first waits. -/
theorem test_bar :
    after .bar (two fun o => { o with barArrived := true, status := .waiting .barrier })
      (fun s => (s.cur.barK, s.cur.pc, s.others.map fun o => (o.barK, o.status))) = some (1, 0x1004, [(1, .running)])
    ∧ after .bar (two id) (fun s => (s.cur.barK, s.cur.barArrived, s.cur.status, s.cur.pc))
      = some (0, true, .waiting .barrier, 0x1000) := by decide +kernel

/-- R203: `sev` sets the latch of strand 1; `wfe` clears its own. -/
theorem test_events :
    after (.sev 6) (two id |> setX 6 1) (fun s => (s.cur.latch, s.others.map (·.latch))) = some (false, [true])
    ∧ after .wfe ((two id).onCur fun t => { t with latch := true }) (fun s => (s.cur.latch, s.cur.status, s.cur.pc))
      = some (false, .running, 0x1004) := by decide +kernel

/-- A message on channel 3. -/
def msg3 : Msg := { ch := 3, hdr := 0x1300000000000000, payload := 7 }

/-- The hypotheses of Messages: room in the inbox; a full inbox with room in the pool; a message behind one of another
channel, and no message of the channel. -/
theorem witness_Messages :
    (let s := two id |> setX 6 1
     s.cur.fork = none ∧ s.cur.system = false ∧ s.launch s.cur.lid = some launch1
     ∧ launch1.sidOk (s.delivered.cur.getX 6).toNat = true
     ∧ ((s.delivered.flushCur true false).strandAt 1 0 0 1).map ((s.delivered.flushCur true false).canDeliver launch1 · 3)
        = some true)
    ∧ (let s := (two fun o => { o with inbox := List.replicate 64 msg3 }) |> setX 6 1
       ((s.delivered.flushCur true false).strandAt 1 0 0 1).map ((s.delivered.flushCur true false).canDeliver launch1 · 3)
        = some false ∧ launch1.pool.length < launch1.lrec.ovflN)
    ∧ (let s := (two id).onCur fun t => { t with inbox := [{ msg3 with ch := 4 }, msg3, msg3] }
       s.cur.inbox = [{ msg3 with ch := 4 }] ++ msg3 :: [msg3] ∧ (∀ o ∈ [{ msg3 with ch := 4 }], o.ch ≠ msg3.ch)
       ∧ (∀ o ∈ s.cur.inbox, o.ch ≠ (5 : QReg)) ∧ (30 : Reg).val % 2 = 0 ∧ (30 : Reg) ≠ 0) := by decide +kernel

/-- A pool without an entry left: a hypothesis of Messages. -/
theorem witness_Messages_full : let l := { launch1 with lrec := { launch1.lrec with ovflN := 0 } }
    let s : State := { ((two fun o => { o with inbox := List.replicate 64 msg3 }) |> setX 6 1) with lu := { (two id).lu with launches := [l] } }
    s.launch s.cur.lid = some l ∧ ((s.delivered.flushCur true false).strandAt 1 0 0 1).map ((s.delivered.flushCur true false).canDeliver l · 3) = some false
    ∧ l.lrec.ovflN ≤ l.pool.length ∧ s.cur.mode = .u ∧ s.cur.cls ≠ .control := by decide +kernel

/-- Targets of Messages that are not there: of a group not placed yet, and of one that has exited. -/
theorem witness_Messages_absent :
    let l := { launch1 with lrec := { launch1.lrec with nx := 2 } }
    let s : State := { two id with lu := { (two id).lu with launches := [l] } }
    l.sidOk 0x100 = true ∧ s.strandAt 1 1 0 0 = none ∧ 1 ∉ l.placed ∧ 1 ∉ l.retired
    ∧ l.sidOk 0x11 = true ∧ s.strandAt 1 0 1 1 = none ∧ 0 ∈ l.placed ∧ l.pool.length < l.lrec.ovflN
    ∧ after (.send 6 7 3) (s |> setX 6 0x100) (fun s => s.lu.launches.map fun l => l.pool.map fun h => (h.glin, h.slot)) = some [[(1, 0)]]
    ∧ after (.send 6 7 3) (s |> setX 6 0x11) (fun s => s.wire.map (·.msg.hdr)) = some [0x8300000000000011] := by decide +kernel

/-- R204, R205: the header names type 1, the channel and the sender; `recv` takes the oldest of its channel. -/
theorem test_messages :
    after (.send 6 7 3) (two id |> setX 6 1 |> setX 7 9) (fun s => s.others.map fun o => o.inbox.map fun m => [m.hdr, m.payload])
      = some [[[0x1300000000000000, 9]]]
    ∧ after (.recv 30 3) ((two id).onCur fun t => { t with inbox := [{ msg3 with ch := 4 }, msg3] })
      (fun s => (s.cur.getX 30, s.cur.getX 31, s.cur.inbox.map (·.ch))) = some (0x1300000000000000, 7, [4])
    ∧ after (.recv 30 5) (two id) (fun s => (s.cur.status, s.cur.pc)) = some (.waiting (.message 5), 0x1000) := by decide +kernel

/-- R207: a held message; a message that finds the pool full. -/
theorem test_messages_pool :
    after (.send 6 7 3) ((two fun o => { o with inbox := List.replicate 64 msg3 }) |> setX 6 1)
      (fun s => (s.lu.launches.map (·.pool.length), s.cur.pc)) = some ([1], 0x1004)
    ∧ after (.send 6 7 3) ({ ((two fun o => { o with inbox := List.replicate 64 msg3 }) |> setX 6 1) with
        lu := { (two id).lu with launches := [{ launch1 with lrec := { launch1.lrec with ovflN := 0 } }] } })
      (fun s => match s.cur.status with | .trapping i => i.cls | _ => 0) = some 0x0E := by decide +kernel

/-- A catalogue entry of context 0 over page 1, with generation 2; its handle is 0x20000. -/
def frozen1 : FrzEntry := { idx := 0, ctx := 0, pages := [1], gen := 2, thawing := false, ch := 0, thawer := none, holders := 0 }

/-- A strand that may freeze: x5 names the page at device byte 0x10000, x6 its length. -/
def freezer (cls : Nat) (es : List FrzEntry) : State :=
  (mapped (machineOn { strandOn cls vtI32 4 with x := ((Vector.replicate 32 0).set 5 0x40000010000).set 6 0x10000 })) |> fun s =>
    { s with cat := { s.cat with entries := es } }

/-- The hypotheses of Freezing: a range that may be frozen and one that is not aligned; no free entry; no device page;
entries held back; a handle that stands, one that does not; a freeze in progress. -/
theorem witness_Freezing :
    (let s := freezer 0x0100 []
     s.cur.fork = none ∧ s.cur.cls ∈ clsFreeze ∧ s.delivered.freeEntry = some 0
     ∧ (0x40000010000 % 65536 = 0 ∧ canonical 0x40000010000 = true ∧ 0x10000 % 65536 = 0 ∧ (0x10000 : Nat) ≤ 2 ^ 40)
     ∧ (s.delivered.flushCur true true).rangeWalk 0x40000010000 0x10000 = [1].map DevPage.page
     ∧ (s.delivered.flushCur true true).rangeWalk 0x10000 0x10000 = [.none]
     ∧ (let k : State := { s with xl := { s.xl with locks := [{ page := 0, byHost := true, target := 1 }] } }
        (k.delivered.flushCur true true).rangeWalk 0x40000010000 0x10000 = [.held] ∧ k.delivered.devicePage 0x40000010000 = .held)
     ∧ s.devicePage 0x40000010000 = .page 1 ∧ s.devicePage 0x10000 = .none)
    ∧ (freezer 0x0100 ((List.range 512).map fun i => { frozen1 with idx := i })).freeEntry = none
    ∧ (let s := freezer 0x0100 [frozen1]
       s.entryOf s.cur.ctx 0x20000 = some frozen1 ∧ s.entryOf s.cur.ctx 0x10000 = none ∧ s.freezeCount 1 < 2 ^ 14)
    ∧ (let s := { freezer 0x0100 [] with cat := { (freezer 0x0100 []).cat with jobs := [{ uid := 1, ctx := 0, pages := [1], rd := 9 }] }
                                         arg := { uid := 1 } }
       s.cat.jobs.find? (fun j => j.uid == s.arg.uid) = some { uid := 1, ctx := 0, pages := [1], rd := 9 } ∧ s.cur.uid = 1
       ∧ s.freeEntry = some 0) := by decide +kernel

/-- A page under collection: the waits of Freezing. -/
theorem witness_Freezing_waits :
    (let s := freezer 0x0100 ((List.range 512).map fun i => { frozen1 with idx := i }) |> fun s => { s with
       cat := { s.cat with jobs := [{ uid := 1, ctx := 0, pages := [2], rd := 9 }] }, arg := { uid := 1 },
       coh := { s.coh with stalled := [({ stack := 0, dla := 0x20000, lid := 1, write := some [1], uid := 1, combined := some true } : MemReq)] } }
     (s.launch s.cur.lid).bind (·.dying) = none ∧ s.collecting 2 = false ∧ s.freeEntry = none
     ∧ (∃ r ∈ s.coh.stalled, r.combined.isSome = true ∧ pageOf r.dla ∈ [2])
     ∧ ∀ t ∈ s.strands, ∀ b ∈ t.wcS ++ t.wcV, s.backHeld b = false)
    ∧ (let s := freezer 0x0100 [] |> fun s => { s with cat := { s.cat with
           collecting := [(0, 1)], jobs := [{ uid := 1, ctx := 0, pages := [1], rd := 9 }] }, arg := { uid := 1 } }
       (s.launch s.cur.lid).bind (·.dying) = none ∧ s.collecting 1 = true
       ∧ s.cat.jobs.find? (fun j => j.uid == s.arg.uid) = some { uid := 1, ctx := 0, pages := [1], rd := 9 }) := by decide +kernel

/-- R209, R213: `frz`, its freeze point with the handle of generation 1 and index 0, and `frzq` of a frozen page. -/
theorem test_freeze :
    after (.frz 9 5 6) (freezer 0x0100 []) (fun s => (s.cur.status, s.cat.jobs.map (·.pages))) = some (.freezing, [[1]])
    ∧ after .freezePoint { freezer 0x0100 [] with
        cat := { (freezer 0x0100 []).cat with jobs := [{ uid := 1, ctx := 0, pages := [1], rd := 9 }] }, arg := { uid := 1 } }
        (fun s => (s.cur.getX 9, s.cat.entries.map (·.pages))) = some (0x10000, [[1]])
    ∧ after (.frzq 9 5) (freezer 0x0100 [frozen1]) (fun s => s.cur.getX 9) = some 0x4001000000020000 := by decide +kernel

/-- R209, R215: a freeze that meets a page under collection is under way, and its point waits; one of two that met one free
entry finds none left (log 66); R303: a walk that is held back waits. -/
theorem test_freeze_waits :
    after (.frz 9 5 6) (freezer 0x0100 [] |> fun s => { s with cat := { s.cat with collecting := [(0, 1)] } }) (fun s => s.cur.status)
      = some .freezing
    ∧ after (.frz 9 5 6) (freezer 0x0100 [] |> fun s => { s with xl := { s.xl with locks := [{ page := 0, byHost := true, target := 1 }] } })
      (fun s => s.cur.status) = some (.waiting .store)
    ∧ after .freezePoint (freezer 0x0100 ((List.range 512).map fun i => { frozen1 with idx := i }) |> fun s => { s with
        cat := { s.cat with jobs := [{ uid := 1, ctx := 0, pages := [2], rd := 9 }] }, arg := { uid := 1 } })
      (fun s => (s.cur.getX 9, s.cat.jobs.length, s.cur.status)) = some (0x8000000000000002, 0, .running)
    ∧ after .freezePoint (freezer 0x0100 [] |> fun s => { s with
        cat := { s.cat with collecting := [(0, 1)], jobs := [{ uid := 1, ctx := 0, pages := [1], rd := 9 }] }, arg := { uid := 1 } })
      (fun s => (s.cat.jobs.length, s.cat.entries.length)) = some (1, 0) := by decide +kernel

/-! ### Supervisor code -/

/-- A parked strand on core 0x0100, slot 1, generation 5: its token is 0x501000100. -/
def parkedT : Strand :=
  { strandOn 0x0100 vtI32 4 with
    uid := 2, slot := 1, g := 0, status := .parked
    bookmark := { Bookmark.empty with token := 0x501000100, lid := 1, cause := 1, pc := 0x1000, vtype := vtI32, vl := 4 } }

/-- Supervisor code on core 0x0000 with x5 pointing to device byte 0x2000; core 0x0100 holds a parked strand of launch 1, its
engine is parked (generation 3) for launch 1, and core 0x0101 is free. -/
def sup (words : List Nat) : State :=
  withLaunch (putMem 8 0x2000 words
    { onControl .m with
      cur := { strandOn 0 villOnly 0 with g := 0, mode := .m, system := true, lid := 0
                                          x := (Vector.replicate 32 0).set 5 0x2000 }
      others := [parkedT]
      cores := [Core.reset 0, { Core.reset 0x0100 with gen := [0, 5, 0, 0, 3], park := some 1 }, Core.reset 0x0101], nextUid := 3 })

/-- The four words of a fault record. -/
def rec1 : FaultRec := { addr := 7, lid := 1, token := 0x501000100, strandid := 0, info := 1 }

/-- The hypotheses of SupervisorInstructions: tokens of the strand, of the engine, and a stale one; a replay; addresses and
offsets; an empty and a filled fault record queue; operands of `latw` and `thrset`. -/
theorem witness_SupervisorInstructions :
    (let s := sup []
     s.cur.fork = none ∧ s.cur.cls ∈ clsC ∧ s.cur.mode ≠ .u
     ∧ s.delivered.tokenUnit 0x501000100 = some (.strand parkedT) ∧ s.delivered.tokenUnit 0x301000400 = some (.engine 0x0100 1)
     ∧ s.delivered.tokenUnit 0x401000100 = none ∧ ((s.delivered.flushCur true false).replay 2 parkedT.bookmark).isSome = true
     ∧ (s.delivered.die (coreDie s.cur.core)).frq = [] ∧ (s.delivered.cur.getX 5).toNat % 32 = 0)
    ∧ (let s := (sup []).updDie 0 fun k => { k with frq := [rec1] }
       (s.delivered.die 0).frq = [rec1] ∧ (s.delivered.storeWords (s.delivered.cur.getX 5) [7, 1, 0x501000100, 2 ^ 32]).toOption.isSome
        = true)
    ∧ (let s := sup []
       let a : Word := 0x10100
       let v : Word := 0x82
       a.extractLsb' 18 46 = 0 ∧ v.extractLsb' 8 56 = 0 ∧ v.extractLsb' 2 5 = 0 ∧ v.getLsbD 7 = true
       ∧ (a.extractLsb' 0 16).toNat = 0x0100 ∧ (a.extractLsb' 16 2).toNat = 1 ∧ (v.extractLsb' 0 2).toNat = 2
       ∧ (s.delivered.core 0x0100).lat.getD 1 none = none ∧ coreIds.contains 0x0100 = true ∧ coreClass 0x0100 = .vector
       ∧ s.delivered.grantFree 0x0100 2 = true)
    ∧ (let s := (sup []).delivered
       ∀ t : Strand, t.core = 0x0100 → t.slot = s.cur.slot → t.g = ((s.core 0x0100).lanesOf s.cur.slot).length → LanesHeld s t)
    ∧ (∀ t ∈ (sup []).delivered.strands, t.status = .running ∨ t.status = .parked)
    ∧ (let a : Word := 0x1FF; let v : Word := 0x1FFFF
       a.extractLsb' 9 55 = 0 ∧ v.extractLsb' 17 47 = 0 ∧ (a + 1).extractLsb' 9 55 ≠ 0 ∧ (v + 1).extractLsb' 17 47 ≠ 0) := by
  refine ⟨by decide +kernel, by decide +kernel, by decide +kernel, ?_, by decide +kernel, by decide⟩
  intro s t hc hs hg
  unfold LanesHeld
  rw [hc, hs]
  refine ⟨by decide +kernel, hg.symm, by decide +kernel, by decide +kernel⟩

/-- R280 to R287: the bookmark's PC; a stale token; the engine freed; the oldest record and how many are left; a lane group
given to slot 1. -/
theorem test_supervisor :
    after (.bkrd 9 5 6) ((sup []) |> setX 5 0x501000100 |> setX 6 0x18) (fun s => s.cur.getX 9) = some 0x1000
    ∧ after (.bkrd 9 5 6) ((sup []) |> setX 5 0x401000100) (fun s => s.cur.getX 9) = some 0x8000000000000002
    ∧ after (.bkrsm 5) ((sup []) |> setX 5 0x301000400) (fun s => (s.core 0x0100).park) = some none
    ∧ after (.bkrsm 5) ((sup []) |> setX 5 0x501000100) (fun s => s.others.map fun o => (o.status, o.pc)) = some [(.running, 0x1000)]
    ∧ after (.frqpop 9 5) ((sup []).updDie 0 fun k => { k with frq := [rec1, rec1] })
      (fun s => (s.cur.getX 9, s.devNat 0x2000 8, s.devNat 0x2018 8, (s.die 0).frq.length)) = some (1, 7, 0x100000000, 1)
    ∧ after (.latw 5 6) ((sup []) |> setX 5 0x10100 |> setX 6 0x81) (fun s => ((s.core 0x0100).lat, s.others.map (·.g)))
      = some ([none, some 1, none, none], [1]) := by decide +kernel

/-- Further hypotheses of SupervisorInstructions: a batch that waits for room; classes of R271 and not; a replay that must wait
for a collection. -/
theorem witness_SupervisorInstructions_waits :
    (let s := (sup []).updDie 0 fun k => { k with batches := [[rec1]] }
     s.batchWaits 0x0100 1 = true ∧ s.tokenUnit 0x501000100 = some (.strand parkedT))
    ∧ (0x8017000501000100 : Word).getLsbD 63 = true ∧ ((0x8017000501000100 : Word).extractLsb' 48 8).toNat = 0x17
    ∧ ((0x8018000501000100 : Word).extractLsb' 48 8).toNat = 0x18 ∧ ((0x8019000501000100 : Word).extractLsb' 48 8).toNat = 0x19
    ∧ (let e : BmEntry := { enc := 0x0806942B, vtype := vtI32, vl := 1, vstart := 0, st := 0, flg := 0, deps := 0, xop := 0
                            xbase := 0x40000002000, xstride := 0, ipc := 0x1000, mask := 0 }
       let s : State := mapped (sup []) |> fun s => { s with cat := { s.cat with collecting := [(0, 0)] } }
       (s.delivered.flushCur true false).replay 2 { parkedT.bookmark with entries := [e] } = none) := by decide +kernel

/-- R271, R281, R293: a kill with a class of the table and with none; a token whose batch waits is live: it is not resumed yet,
but killed. -/
theorem test_bkrsm :
    after (.bkrsm 5) ((sup []) |> setX 5 0x8006000501000100) (fun s => s.lu.launches.map (·.final)) = some [some (2, 6)]
    ∧ after (.bkrsm 5) ((sup []) |> setX 5 0x8040000501000100) (fun s => s.lu.launches.map (·.final)) = some [some (2, 0x17)]
    ∧ after (.bkrsm 5) (((sup []) |> setX 5 0x501000100).updDie 0 fun k => { k with batches := [[rec1]] })
      (fun s => (s.cur.status, s.others.map (·.status))) = some (.waiting .store, [.parked])
    ∧ after (.bkrsm 5) (((sup []) |> setX 5 0x8006000501000100).updDie 0 fun k => { k with batches := [[rec1]] })
      (fun s => s.lu.launches.map (·.final)) = some [some (2, 6)] := by decide +kernel

/-- The block at x5 as `readBlock` gives it. -/
def blockIs (words : List Nat) (b : Option CcBlock) : Bool :=
  match (sup words).delivered.readBlock ((sup words).delivered.cur.getX 5) with
  | .ok (c, _) => c == b
  | .error _ => false

/-- The machine behind that read: its line stands in the data cache. -/
def behindBlock (words : List Nat) : State :=
  match (sup words).delivered.readBlock ((sup words).delivered.cur.getX 5) with
  | .ok (_, t) => t
  | .error _ => sup words

/-- Eight other strands on their way to cores of die 0. -/
def fullCarrier (s : State) : State :=
  { s with others := s.others ++ (List.range 8).map fun i =>
      { strandOn 0x0300 vtI32 4 with uid := 10 + i, slot := 1, status := .transit (0x0310 + i) 0 } }

/-- 0: delivered or held, 1: to a strand that has exited, 2: no room. -/
def howDelivered (d : Delivery) : Nat := match d with | .done _ => 0 | .exited => 1 | .poolFull => 2

/-- The hypotheses of CcmoveCommands, a block for each OP, and one of no OP. -/
theorem witness_CcmoveCommands :
    (blockIs [7, 0, 0, 0] none = true ∧ blockIs [0, 0x501000100, 0x0101, 0] (some ⟨0, 0x501000100, 0x0101, 0⟩) = true
     ∧ blockIs [1, 0x501000100, 0x108, 9] (some ⟨1, 0x501000100, 0x108, 9⟩) = true
     ∧ blockIs [1, 0x501000100, 0x1F8, 9] (some ⟨1, 0x501000100, 0x100 + 8 * 31, 9⟩) = true
     ∧ blockIs [1, 0x501000100, 0x18, 9] (some ⟨1, 0x501000100, 0x18, 9⟩) = true
     ∧ blockIs [2, 0, 1, 0x18] (some ⟨2, 0, 1, 0x18⟩) = true ∧ blockIs [2, 0, 1, 0x19] (some ⟨2, 0, 1, 0x19⟩) = true
     ∧ blockIs [3, 0, 1, 0] (some ⟨3, 0, 1, 0⟩) = true ∧ blockIs [3, 0, 2, 0] (some ⟨3, 0, 2, 0⟩) = true
     ∧ blockIs [4, 0, 1, 0] (some ⟨4, 0, 1, 0⟩) = true ∧ blockIs [5, 0, 1, 0] (some ⟨5, 0, 1, 0⟩) = true
     ∧ blockIs [6, 0xF0000, 1, 9] (some ⟨6, 0xF0000, 1, 9⟩) = true)
    ∧ (let s := behindBlock [0, 0x501000100, 0x0101, 0]
       s.tokenUnit 0x501000100 = some (.strand parkedT) ∧ s.tokenUnit 0x401000100 = none
       ∧ s.carrierFor (coreDie parkedT.core) s.nextAsk = true ∧ (fullCarrier s).carrierFor (coreDie parkedT.core) s.nextAsk = false
       ∧ s.cur.asked = 0 ∧ s.carrierFor (coreDie parkedT.core) s.nextAsk = true
       ∧ (fullCarrier s).carrierFor (coreDie parkedT.core) 7 = false
       ∧ (fullCarrier s).placeAt parkedT 0x0101 = some (0x0101, 0)
       ∧ (coreIds.contains 0x0101 = true ∧ coreDie 0x0101 = coreDie parkedT.core ∧ coreClass 0x0101 = parkedT.cls)
       ∧ s.placeAt parkedT 0x0101 = some (0x0101, 0) ∧ coreClass 0x0300 ≠ parkedT.cls
       ∧ parkedT.bookmark.cause ≠ 3 ∧ ({ parkedT.bookmark with cause := 3 } : Bookmark).cause = 3
       ∧ s.liveLaunch 0 1 = some launch1 ∧ s.liveLaunch 0 2 = none ∧ s.liveLaunch 1 1 = none
       ∧ s.preempt 1 none = none
       ∧ (putMem 8 40 [2 ^ 20] s |>.preempt 1 none).isSome = true
       ∧ (s.updLaunch 1 fun l => { l with st := .preempted }).liveLaunch 0 1 = some { launch1 with st := .preempted }
       ∧ (0xF0000 : Word).extractLsb' 12 4 = 0 ∧ (0xF0000 : Word).extractLsb' 20 12 = 0 ∧ (0xF0000 : Word).extractLsb' 16 4 = 15
       ∧ launch1.sidOk 0 = true
       ∧ howDelivered (s.deliver launch1 0 0 0 msg3) = 0
       ∧ howDelivered (s.deliver launch1 0 1 1 msg3) = 1
       ∧ howDelivered (s.deliver { launch1 with placed := [], lrec := { launch1.lrec with ovflN := 0 } } 0 1 1 msg3) = 2) := by
  refine ⟨by decide +kernel, by decide +kernel⟩

/-- R284: OP 0 gives the new token; OP 1 writes x1 of the bookmark; OP 5 of a running launch; a bad block. -/
theorem test_ccmove :
    after (.ccmoveMove 9 5) { sup [0, 0x501000100, 0x0101, 0] with arg := { rd := 9, rs1 := 5 } }
      (fun s => (s.cur.getX 9, s.others.map fun o => (o.core, o.slot, o.migcnt))) = some (0x101010000, [(0x0101, 0, 1)])
    ∧ after .ccmoveWriteBookmark { sup [1, 0x501000100, 0x108, 9] with arg := { rd := 9, rs1 := 5 } }
      (fun s => (s.cur.getX 9, s.others.map fun o => o.bookmark.word 0x108)) = some (0, [9])
    ∧ after .ccmoveKill { sup [2, 0, 1, 0x19] with arg := { rd := 9, rs1 := 5 } } (fun s => s.cur.getX 9)
      = some 0x8000000000000001
    ∧ after .ccmoveCancel { sup [3, 0, 1, 0] with arg := { rd := 9, rs1 := 5 } }
      (fun s => (s.cur.getX 9, s.lu.launches.map (·.st))) = some (0, [.killed]) := by decide +kernel

/-! ### Services and submissions -/

/-- Context 0 valid: root 0x10000, tenant 0, SVCBASE 2^42 + 0x4000, two slips, save pool of 1 MiB, communicators at 0x8000. -/
def ctxOn (s : State) : State :=
  s |> putMem 8 0 [0x10001, 0, 0x40000004000, 2, 0, 2 ^ 20, 0x8000, 1] |> putMem 8 0x10008 [0xCF]

/-- A launch record (R238): one group, one stage of one control strand, its scoreboard at device byte 0x5000. -/
def recWords : List Nat :=
  [1, 0x100, 0, 0, 0, 0, 0, 0, 0, 0x40000005000] ++ List.replicate 10 0 ++ [2 ^ 32] ++ List.replicate 11 0

/-- A control strand of launch 1 with x5 naming device byte 0x3000, where the words stand. -/
def service (words : List Nat) : State :=
  ctxOn (withLaunch (putMem 8 0x3000 words (machineOn { strandOn 0 villOnly 0 with
    g := 0, x := (Vector.replicate 32 0).set 5 0x40000003000 }))) |> fun s =>
      { s with lu := { s.lu with code := [{ handle := 1, ctx := 0, text := 0x40000006000, size := 64, nkern := 1 }], nextHandle := 2 }
               plat := { s.plat with netst := 1 } }

/-- A collective: 1 element, operation 0 over 4-byte elements, communicator 0, root 0, port 0 (R322). -/
def collWords : List Nat := [0x40000002000, 0x40000002800, 1, 0, 0, 0, 0, 0]

/-- The hypotheses of ServicesAndSubmissions: a free slip and none; a reply; a record that is accepted and one that is not;
a collective that is queued, and one that is not. -/
theorem witness_ServicesAndSubmissions :
    (let s := (service []).delivered
     let sI : State := { s with cur := { s.cur with slip := some 0 } }
     s.cur.fork = none ∧ s.cur.cls = .control ∧ s.slipFor = some 0 ∧ (sI.load (sI.slipAddr 0) 8).toOption.map (·.1) = some 0
     ∧ s.cur.posted = false
     ∧ (((sI.load (sI.slipAddr 0) 8).toOption.map (·.2)).bind fun t =>
          ((t.flushCur true true).syscPost (sI.slipAddr 0) ((t.flushCur true true).cur.getX 5)).toOption).isSome = true)
    ∧ ((withLaunch (onControl .u)).delivered.slipFor = none)
    ∧ (let s := ((service []) |> putMem 8 0x4000 [2, 0, 77]).onCur fun t => { t with posted := true, slip := some 0 }
       let d := s.delivered
       s.cur.posted = true ∧ s.cur.slip = some 0 ∧ (d.load (d.slipAddr 0) 8).toOption.map (·.1) = some 2
       ∧ (d.load (d.slipAddr 0 + 16) 8).toOption.map (·.1) = some 77 ∧ (d.store (d.slipAddr 0) 8 0).toOption.isSome = true)
    ∧ (let s := (service recWords).delivered.flushCur true true
       (s.cur.getX 5).toNat % 256 = 0 ∧ (s.accept 0 0x40000003000 none (some (1, 0, 5))).toOption.map (·.1) = some 2
       ∧ (match ({ s with lu := { s.lu with code := [] } } : State).accept 0 0x40000003000 none (some (1, 0, 5)) with
          | .error st => st | .ok _ => 0) = 0x1C)
    ∧ (let s := (putMem 8 0x8000 [2 ^ 32 + 2] (service collWords)).delivered.flushCur true true
       (s.cur.getX 5).toNat % 64 = 0 ∧ (s.die 0).coll.length < 64 ∧ (s.loadWords 0x40000003000 8).toOption.map (·.1) = some collWords
       ∧ s.collFault 0 collWords = none
       ∧ ({ s with plat := { s.plat with netst := 0 } } : State).collFault 0 collWords = some 2) := by
  refine ⟨by decide +kernel, by decide +kernel, by decide +kernel, by decide +kernel, by decide +kernel⟩

/-- A page lock of the host's holds back what the launch unit is to read: further hypotheses of ServicesAndSubmissions. -/
theorem witness_Services_held :
    let s := (service recWords).delivered.flushCur true true
    s.acceptHeld 0 0x40000003000 = false
    ∧ ({ s with xl := { s.xl with locks := [{ page := 0, byHost := true, target := 9 }] } } : State).acceptHeld 0 0x40000003000 = true := by
  decide +kernel

/-- R320, R250, R322: a call posted on slip 0 and its STATE; the reply taken; the LAUNCHID; a command queued. -/
theorem test_services :
    after (.syscN 9 6) (service [] |> setX 6 5) (fun s => (s.cur.getX 9, s.devNat 0x4000 8, s.devNat 0x4008 8)) = some (0x40000004000, 1, 5)
    ∧ after (.syscB 9 6) (((service []) |> putMem 8 0x4000 [2, 0, 77]).onCur fun t => { t with posted := true, slip := some 0 })
      (fun s => (s.cur.getX 9, s.devNat 0x4000 8, s.cur.pc)) = some (77, 0, 0x1004)
    ∧ after (.lnch 9 5 2) (service recWords) (fun s => (s.cur.getX 9, s.cur.pc, s.lu.launches.map (·.lid))) = some (2, 0x1008, [1, 2])
    ∧ after (.cpost 9 5 2) (putMem 8 0x8000 [2 ^ 32 + 2] (service collWords)) (fun s => (s.cur.getX 9, (s.die 0).coll.length))
      = some (0, 1) := by decide +kernel

/-- Further hypotheses of ServicesAndSubmissions and CcmoveCommands: a descriptor held back and not, uncorrectable and not; a
communicator likewise; a full queue of commands; the descriptor that OP 4 reads. -/
theorem witness_Services_reads :
    (let s := (service []).delivered
     s.ctxHeld 0 = false ∧ s.ctxBad 0 = false ∧ (lockedBack s).ctxHeld 0 = true ∧ ({ s with bad := [0] } : State).ctxBad 0 = true
     ∧ ({ s with bad := [0] } : State).ctxHeld 0 = false ∧ s.cur.ctx = 0)
    ∧ (let s := (putMem 8 0x8000 [2 ^ 32 + 2] (service collWords)).delivered.flushCur true true
       collFormed collWords = true ∧ s.commHeld 0 collWords = false ∧ s.commBad 0 collWords = false
       ∧ (s.commTouch 0 collWords).collFault 0 collWords = none
       ∧ (lockedBack s).commHeld 0 collWords = true ∧ ({ s with bad := [0x100] } : State).commBad 0 collWords = true
       ∧ collFormed (collWords.set 7 1) = false
       ∧ 64 ≤ ((s.updDie 0 fun k => { k with coll := List.replicate 64 (s.collCmd collWords 2) }).die 0).coll.length)
    ∧ (let s : State := { behindBlock [4, 0, 1, 0] with
         plat := { (behindBlock [4, 0, 1, 0]).plat with ctxbase := 0x50000 }
         xl := { (behindBlock [4, 0, 1, 0]).xl with locks := [{ page := 5, byHost := true, target := 9 }] } }
       (s.liveLaunch 0 1).isSome = true ∧ s.ctxHeld 0 = true ∧ (behindBlock [4, 0, 1, 0]).ctxHeld 0 = false) := by
  refine ⟨by decide +kernel, by decide +kernel, by decide +kernel⟩

/-- R292: a communicator on an uncorrectable line ends the launch with 0x14; R303: OP 4 waits for the context's descriptor. -/
theorem test_services_reads :
    after (.cpost 9 5 2) { putMem 8 0x8000 [2 ^ 32 + 2] (service collWords) with bad := [0x100] } (fun s => s.lu.launches.map (·.final))
      = some [some (2, 0x14)]
    ∧ (let s := sup [4, 0, 1, 0]
       after .ccmovePreempt { s with plat := { s.plat with ctxbase := 0x50000 }, xl := { s.xl with locks := [{ page := 5, byHost := true, target := 9 }] }
                                     arg := { rd := 9, rs1 := 5 } } (fun s => (s.cur.status, s.cur.pc)) = some (.waiting .store, 0x1000)) := by
  refine ⟨by decide +kernel, by decide +kernel⟩

/-! ### Stores that stand by (R188, R189, R303) -/

/-- A machine where a store of either agent of strand 1 stands by. -/
def standing (s : State) : State :=
  { s with coh := { s.coh with stalled := [false, true].map fun vec =>
      { stack := 0, dla := 0x20000, lid := s.cur.lid, write := some [1], uid := 1, combined := some vec } } }

def standsAfter (s : State) (sc vec : Bool) : Bool := (s.flushCur sc vec).standsBy (s.flushCur sc vec).cur.uid sc vec

/-- Where a store of the strand stands by: VectorAtomics, GatherLinks, StreamDefinition, CopyCommands, Fences,
BarriersAndEvents, Messages, Freezing, SupervisorInstructions, CcmoveCommands, ServicesAndSubmissions and ScalarAtomics. -/
theorem witness_StandsBy : ∀ s ∈ [(mem1 vtI32).pcBehind 4, copying descCpt, defining descLoad 0, buffered, two id |> setX 6 1,
    freezer 0x0100 [], inLane, memC .u, sup [], behindBlock [6, 0xF0000, 1, 9], service recWords, service collWords],
    ∀ b ∈ [(true, true), (true, false), (false, true)], StandsBy ((standing s).delivered.flushCur b.1 b.2) b.1 b.2 := by
  have h : ∀ s ∈ [(mem1 vtI32).pcBehind 4, copying descCpt, defining descLoad 0, buffered, two id |> setX 6 1,
      freezer 0x0100 [], inLane, memC .u, sup [], behindBlock [6, 0xF0000, 1, 9], service recWords, service collWords],
      ∀ b ∈ [(true, true), (true, false), (false, true)], standsAfter (standing s).delivered b.1 b.2 = true := by decide +kernel
  exact fun s hs b hb => (State.standsBy_iff _ _ _ _).1 (h s hs b hb)

theorem witness_StandsBy_atomics : AtomIssue (standing (mem1 vtI32)) (standing (mem1 vtI32)) [] [4, 2] [4] :=
  ⟨vIssue_of _ _ _ _ _ rfl (by decide) rfl ⟨by decide, by decide⟩ rfl (by intro r; rfl), by decide, rfl, by decide⟩

/-- Each of these waits, having flushed. -/
def waitsOn (i : Instr) (s : State) (t : State → State) (w : Wait) : Bool :=
  after i (standing s) (fun r => decide (r = (t (standing s)).onCur (·.setStatus (.waiting w)))) == some true

theorem test_standing :
    (∀ c ∈ [(Instr.ordAll 0, buffered, true, true, Wait.fence), (.ordVv 3, buffered, false, true, .fence), (.fenceTso, buffered, true, false, .fence),
        (.bar, two id, true, true, .fence), (.phend, two id, false, true, .phaseEnd), (.send 6 7 3, two id |> setX 6 1, true, false, .fence),
        (.frz 9 5 6, freezer 0x0100 [], true, true, .fence), (.bkrsm 5, sup [] |> setX 5 0x501000100, true, false, .fence),
        (.lnch 9 5 2, service recWords, true, true, .fence), (.cpost 9 5 2, service collWords, true, true, .fence),
        (.cpt { ch := 2, base := 5, kd := none }, copying descCpt, true, true, .copy (opOf .cpt [])),
        (.qdef 3 5, defining descLoad 0, true, true, .fence),
        (.laneFormAtomic 0 { vm := false, aq := false, rl := true, vs2 := 6, base := 5, scope := 0, vd := 7 }, inLane, false, true, .fence),
        (sc (.amo .max false true true 9 5 6), memC .u, true, false, .fence)],
      waitsOn c.1 c.2.1 (fun s => s.delivered.flushCur c.2.2.1 c.2.2.2.1) c.2.2.2.2 = true)
    ∧ waitsOn (.vamoadd { vm := false, aq := false, rl := true, vs2 := 2, base := 5, scope := 0, vd := 4 }) (mem1 vtI32) id .fence = true
    ∧ waitsOn (.vgl { vm := false, ord := false, vs2 := 2, base := 5, vd := 4 }) (mem1 vtI32) id .fence = true
    ∧ waitsOn (.vsc { vm := false, ord := true, vs2 := 2, base := 5, vd := 4 }) (mem1 vtI32) id .fence = true
    ∧ after .strandExit { standing ((two id).onCur fun t => { t with status := .exiting }) with arg := { uid := 1 } } (fun s => s.cur.status)
      = some .exiting := by decide +kernel

/-! ### Strands that leave and move -/

/-- The hypotheses of StrandControl: a strand alone on its core and one with another that runs; a move to each class, with a
target, with none, of a pinned strand, with the carrier free and full; a class-miss with its target, first in the carrier's
queue and not; an arrival; an exit. -/
theorem witness_StrandControl :
    ((two id).cur.fork = none ∧ (∀ o ∈ (onVector vtI32).others, o.core = (onVector vtI32).cur.core → o.status ≠ .running)
     ∧ ((two id).others.filter fun o => o.core == (two id).cur.core && o.status == .running).map (·.uid) = [2])
    ∧ (∀ c ∈ [(Cls.control, onVector vtI32, 0), (.vector, onControl .u, 0x0100), (.array, onControl .u, 0x0300)],
        let s : State := { c.2.1 with cores := cores3 }
        s.cur.fork = none ∧ s.cur.system = false ∧ s.cur.cls ≠ c.1 ∧ s.classPresent c.1 = true ∧ s.cur.pinned = false
        ∧ (s.delivered.pcBehind 4).nearestFit (s.delivered.pcBehind 4).cur [c.1] (fun _ => true) = some (c.2.2, 0))
    ∧ (onVector vtI32).classPresent .control = false ∧ matrixA.cur.pinned = true ∧ (onVector vtI32).cur.cls = .vector
    ∧ (let s : State := { onControl .u with cores := cores3 }
       (s.delivered.pcBehind 4).carrierFor (coreDie 0x0300) s.nextAsk = true
       ∧ ((fullCarrier s).delivered.pcBehind 4).carrierFor (coreDie 0x0300) s.nextAsk = false
       ∧ ((fullCarrier s).delivered.pcBehind 4).nearestFit (s.delivered.pcBehind 4).cur [.array] (fun _ => true) = some (0x0300, 0))
    ∧ (let s : State := { onControl .u with cores := coresIn [0] }
       (s.delivered.pcBehind 4).nearestFit (s.delivered.pcBehind 4).cur [.vector] (fun _ => true) = none)
    ∧ (let s : State := { (onArray vtI32).onCur (fun t => { t with status := .moving (.classes [.vector]) }) with
                          cores := cores3, arg := { uid := 1 } }
       s.cur.status = .moving (.classes [.vector]) ∧ s.carrierRoom (coreDie s.cur.core) = true
       ∧ (∀ o ∈ s.strands, o.queuedOn (coreDie s.cur.core) = true → s.cur.asked ≤ o.asked) ∧ s.lu.launches = []
       ∧ (fullCarrier s).carrierRoom (coreDie s.cur.core) = false ∧ s.arg.uid = s.cur.uid ∧ s.moveTarget s.cur (.classes [.vector]) = some (0x0100, 0)
       ∧ ({ s with cores := coresIn [0x0300] } : State).moveTarget s.cur (.classes [.vector]) = none
       ∧ ∀ o ∈ s.others, o.uid ≠ s.cur.uid)
    ∧ (let s : State := { (onVector vtI32).onCur (fun t => { t with status := .transit 0x0100 3 }) with arg := { uid := 1 } }
       s.cur.status = .transit 0x0100 3 ∧ s.arg.uid = s.cur.uid)
    ∧ (let s : State := { (two id).onCur (fun t => { t with status := .exiting }) with arg := { uid := 1 } }
       s.cur.status = .exiting ∧ s.arg.uid = s.cur.uid ∧ s.inFlight s.cur.uid = false ∧ (∀ q : QReg, s.cur.q[q] = none)
       ∧ s.cur.system = false ∧ (s.dismiss 1).groupEnded 1 0 = false
       ∧ (({ s with others := [] } : State).dismiss 1).groupEnded 1 0 = true)
    ∧ (let s : State := { setQ (handle 2) ((two id).onCur fun t => { t with status := .exiting }) with arg := { uid := 1 } }
       s.inFlight s.cur.uid = false ∧ (∀ (q : QReg), s.cur.q[q] = none ∨ s.cur.q[q] = some (handle 2))
       ∧ (handle 2).kind = 2 ∧ (handle 2).mate = none
       ∧ (∃ o ∈ s.others, o.uid ≠ s.cur.uid ∧ o.lid = s.cur.lid ∧ o.glin = s.cur.glin ∧ o.system = false ∧ o.status ≠ .gone)
       ∧ (s.launch s.cur.lid).isSome = true) := by decide +kernel

/-- R161: what a strand that exits leaves unmatched. -/
theorem test_exit_outs :
    after .strandExit { setQ (handle 2) ((two id).onCur fun t => { t with status := .exiting }) with arg := { uid := 1 } }
      (fun s => s.lu.launches.map (·.endedOuts)) = some [[EndedOut.mk 0 0 0 0 4]] := by decide +kernel

/-- R41, R43, R47: the carrier zeroes registers that were never written; the last strand of a group retires it. -/
theorem test_strand_control :
    after .carrierMove { ((onArray vtI32) |> setV 1 [7] |> setV 2 [8]).onCur (fun t =>
        { t with status := .moving (.classes [.vector]), vdirty := 4 }) with cores := cores3, arg := { uid := 1 } }
      (fun s => (s.cur.status, els 1 1 s, els 1 2 s)) = some (.transit 0x0100 0, [0], [8])
    ∧ after .strandArrival { (onVector vtI32).onCur (fun t => { t with status := .transit 0x0100 3 }) with arg := { uid := 1 } }
      (fun s => (s.cur.slot, s.cur.migcnt, s.cur.status)) = some (3, 1, .running)
    ∧ after .migArray { onControl .u with cores := cores3 } (fun s => (s.cur.status, s.cur.pc)) = some (.transit 0x0300 0, 0x1004) := by
  decide +kernel

/-- Further hypotheses of StrandControl: an append that cannot land, and so no request to the carrier; a store that stands by at
the exit. -/
theorem witness_StrandControl_standing :
    (let p : Stream := { handle 2 with mate := some (2, 4) }
     let c : Stream := { handle 3 with wire := [.data [1, 2]], mate := some (1, 3) }
     let s := setQ p (two fun o => { o with q := o.q.set 4 (some c) })
     s.canTake s.cur s.nextAsk = true ∧ (standing s).canTake s.cur s.nextAsk = false ∧ (standing s).stripsHeld s.cur = true
     ∧ s.stripsHeld s.cur = false)
    ∧ (let s : State := { (two id).onCur (fun t => { t with status := .exiting }) with arg := { uid := 1 } }
       s.cur.status = .exiting ∧ s.arg.uid = s.cur.uid ∧ StandsBy (standing s) true true ∧ ¬StandsBy s true true) :=
  ⟨by decide +kernel, rfl, rfl, (State.standsBy_iff _ _ _ _).1 (by decide +kernel), StandsByOf.not_of_nil rfl _ _ _⟩

/-! ### Events of a strand's agents -/

/-- A strand as its agents' events find it. -/
def agents (f : Strand → Strand) : State := { (withLaunch (memV vtI32 4)).onCur f with arg := { uid := 1, core := 0x0100, q := 3, lane := 31 } }

/-- The handle of q3 with four elements to go, and its ring. -/
def ring (kind : Nat) : Stream := { handle kind with dims := [(4, 4)] }

/-- A command in the engine, a translation that fails. -/
def cmdBad : CopyCmd :=
  { uid := 1, lid := 1, ctx := 0, op := opOf .cpt [], desc := [0x3000, 0, 0, 2 * 2 ^ 48, 2 ^ 32 + 4, 1, 0, 3], g := 1, vl := 4 }
def cmdFill : CopyCmd := { uid := 1, lid := 1, ctx := 0, op := opOf .cpf [], desc := descFill, g := 1, vl := 4 }

/-- What a fault of the engine's access would post. -/
def pagesOf (e : EngineEnd) : Option (List (Nat × Nat × Nat)) := match e with | .pages ps => some ps | _ => none

/-- The hypotheses of VectorAgentEvents, clause by clause. -/
theorem witness_VectorAgentEvents :
    (let s := agents fun t => { t with replyQ := [{ float := false, rd := 9, val := 5 }], vq := 1, status := .waiting .memory }
     s.strand s.arg.uid = some s.cur ∧ s.cur.replyQ = { float := false, rd := 9, val := 5 } :: [] ∧ s.arg.lane = (31 : Fin 32).val
     ∧ 0 < s.cur.vq ∧ s.cur.status = .waiting .memory)
    ∧ (let s := agents id
       s.cur.vq = 0 ∧ s.cur.status ≠ .waiting .memory ∧ s.cur.wc s.arg.flag = [] ∧ (s.die s.arg.die).batches = []
       ∧ (s.core s.arg.core).park = none)
    ∧ (∀ w ∈ [[], [Strip.ended], [Strip.data [1, 2], .ended]],
        let s := setQ { ring 3 with wire := w } (agents id)
        s.arg.q = (3 : QReg).val ∧ s.cur.q[(3 : QReg)] = some { ring 3 with wire := w })
    ∧ (let s := setQ (ring 0) (agents id)
       s.strand 1 = some s.cur ∧ s.cur.q[(3 : QReg)] = some (ring 0) ∧ (s.core s.cur.core).park = none ∧ (ring 0).kind = 0 ∧ (ring 0).ended = false
       ∧ (ring 0).filled.length + (ring 0).reserved < (ring 0).nslot
       ∧ (s.engCheck s.cur.ctx 4 (((ring 0).nextAddrs 4).map fun a => (a, .load))).toOption = some s)
    ∧ (let h := { ring 1 with filled := [{ pos := 0, count := 4, off := 0 }] }
       let s := setQ h (agents id)
       (s.core s.cur.core).park = none ∧ h.kind = 1 ∧ (s.engCheck s.cur.ctx 4 ((h.nextAddrs 4).map fun a => (a, .store))).toOption = some s)
    ∧ (let h := { ring 1 with ended := true }
       h.kind = 1 ∧ h.filled = [] ∧ h.ended = true ∧ h.reserved = 0 ∧ h.mateEnded = false)
    ∧ (let s : State := { (copying descCpt).onCur (fun t => { t with status := .waiting (.copy (opOf .cpt [])) }) with
                          arg := { uid := 1, core := 0x0100 } }
       s.strand s.arg.uid = some s.cur ∧ (s.core 0x0100).engine.length < 2 ∧ s.arg.uid = s.cur.uid
       ∧ s.copyWaiters 0x0100 = (s.cur.slot, 1, opOf .cpt []) :: []
       ∧ (match State.acceptCopy { s with cur := { s.cur with status := .running } } (opOf .cpt []) with
          | .ok t => t.cur.uid == 1 | .error _ => false) = true)
    ∧ (let s : State := { agents id with cores := [{ Core.reset 0x0100 with engine := [cmdFill] }] }
       (s.core 0x0100).park = none ∧ (s.core 0x0100).engine = cmdFill :: []
       ∧ (s.engCheck 0 (cpEwb cmdFill.desc) cmdFill.accesses).toOption = some s ∧ cmdFill.op.kind = .cpf ∧ cmdFill.op.kd = none)
    ∧ (let s : State := { buffered with arg := { uid := 1 } }
       s.cur.wc s.arg.flag = s.cur.wcS ∧ s.cur.wcS ≠ [])
    ∧ (let i : TrapInfo := { cause := 1, cls := 0, pages := [(0, 1, 1)], entry := none }
       let s := agents fun t => { t with status := .trapping i }
       s.strand 1 = some s.cur ∧ s.cur.status = .trapping i ∧ i.cause ≠ 2 ∧ s.cores.map (·.id) = [s.cur.core]
       ∧ s.cur.slot < (s.core s.cur.core).gen.length)
    ∧ (let s := (agents id).updDie 0 fun d => { d with batches := [[rec1]] }
       (s.die s.arg.die).batches = [rec1] :: [] ∧ (s.die s.arg.die).frq.length + [rec1].length ≤ 4096
       ∧ 4096 < ((s.updDie 0 fun d => { d with frq := List.replicate 4096 rec1 }).die s.arg.die).frq.length + [rec1].length)
    ∧ (let s : State := { agents id with cores := [{ Core.reset 0x0100 with park := some 1 }] }
       (s.core s.arg.core).park.isSome = true)
    ∧ (let s : State := { agents id with cores := [{ Core.reset 0x0100 with engine := [cmdBad] }] }
       (s.core s.arg.core).park = none ∧ s.cores.map (·.id) = [s.arg.core]
       ∧ ((s.engineWork s.arg.core).find? fun w => w.result.faulted).bind (fun w => pagesOf w.result) = some [(0x3000, 0, 1)]) := by
  refine ⟨?_, ?_, ?_, ?_, ?_, ?_, ?_, ?_, ?_, ?_, ?_, ?_, ?_⟩ <;> decide +kernel

/-- R111, R160: the reply in x9; a slot filled. -/
theorem test_agents :
    after .replyQueueDelivery (agents fun t => { t with replyQ := [{ float := false, rd := 9, val := 5 }] })
      (fun s => (s.cur.x[(9 : Reg)], s.cur.replyQ)) = some (5, [])
    ∧ after .streamSlotFill (setQ (ring 0) (agents id)) (fun s => s.cur.q[(3 : QReg)].map fun h => (h.filled, h.done, h.ended))
      = some (some ([{ pos := 0, count := 4, off := 0 }], 4, true)) := by
  refine ⟨by decide +kernel, by decide +kernel⟩

/-- R161, R164, R274: a strip in the ring; the command done, with its message; the trap's token, its batch and the bookmark. -/
theorem test_agents_more :
    after .stageStripArrival (setQ { ring 3 with wire := [.data [1, 2]], reserved := 1 } (agents id))
      (fun s => s.cur.q[(3 : QReg)].map fun h => (h.filled, h.reserved, h.next)) = some (some ([{ pos := 0, count := 2, off := 0 }], 0, 1))
    ∧ after .copyCommandComplete { agents id with cores := [{ Core.reset 0x0100 with engine := [cmdFill] }] }
      (fun s => ((s.core 0x0100).engine, s.wire.map (·.msg.hdr), (List.range 5).map fun i => s.devNat (0x3000 + 4 * i) 4))
      = some ([], [0x2200000000000000], [5, 5, 5, 5, 0])
    ∧ after .impreciseTrap (agents fun t => { t with status := .trapping { cause := 1, cls := 0, pages := [(0, 1, 1)], entry := none } })
      (fun s => (s.cur.status, s.cur.bookmark.token, s.die0.batches.map (·.map (·.token)), s.die0.batch))
      = some (.parked, 0x101000000, [[0x101000000]], 1) := by decide +kernel

/-- Vector stores of the strand that are not performed: in its buffers, or standing by; a strip whose producer's store stands
by, and one whose producer's does not; an engine's commands on a core that no strand stands on. -/
theorem witness_VectorAgentEvents_standing :
    (let s := agents fun t => { t with wcV := buffered.cur.wcV }
     s.cur.wcV ≠ [] ∧ (agents id).cur.wcV = [] ∧ ¬StandsByOf (agents id) 1 false true ∧ StandsByOf (standing (agents id)) 1 false true)
    ∧ (let h := { ring 3 with wire := [.data [1, 2]], mate := some (1, 4) }
       (setQ h (agents id)).cur.q[(3 : QReg)] = some h ∧ h.mate = some (1, 4) ∧ h.wire = .data [1, 2] :: []
       ∧ StandsByOf (standing (setQ h (agents id))) 1 false true ∧ ¬StandsByOf (setQ h (agents id)) 1 false true)
    ∧ (let s : State := { agents id with cores := [{ Core.reset 0x0101 with engine := [cmdBad] }] }
       s.plat.d3 = false ∧ (∃ c ∈ s.cores, c.engine ≠ []) ∧ ∀ t ∈ s.strands, t.core ≠ 0x0101) := by
  have h (s : State) (b : s.standsBy 1 false true = true) := (State.standsBy_iff s 1 false true).1 b
  exact ⟨⟨by decide, by decide, StandsByOf.not_of_nil rfl _ _ _, h _ (by decide +kernel)⟩,
    ⟨by decide +kernel, rfl, rfl, h _ (by decide +kernel), StandsByOf.not_of_nil rfl _ _ _⟩, by decide +kernel⟩

/-- R189, R202: such an element is not performed yet, nor does the strip arrive. -/
theorem test_agents_standing :
    after .vectorAccessPerformed (standing (agents fun t => { t with pend := t.pend.set 31 1 })) (fun s => s.cur.pend[(31 : Fin 32)]) = some 1
    ∧ after .vectorAccessPerformed (agents fun t => { t with pend := t.pend.set 31 1 }) (fun s => s.cur.pend[(31 : Fin 32)]) = some 0
    ∧ after .stageStripArrival (standing (setQ { ring 3 with wire := [.data [1, 2]], mate := some (1, 4) } (agents id)))
      (fun s => s.cur.q[(3 : QReg)].map (·.wire)) = some (some [.data [1, 2]]) := by decide +kernel

/-- An engine's access to an uncorrectable line: the launch fault of VectorAgentEvents. -/
theorem witness_VectorAgentEvents_kill :
    let s : State := { agents id with cores := [{ Core.reset 0x0100 with engine := [{ cmdBad with desc := descCpt }] }], bad := [0x60] }
    (s.core s.arg.core).park = none
    ∧ (match (s.engineWork s.arg.core).find? fun w => w.result.faulted with
       | some w => (match w.result with | .kill c a k => (c, a, k, w.lid) | _ => (0, 0, 0, 0))
       | none => (0, 0, 0, 0)) = (0x14, 0x40000003000, 1, 1) := by decide +kernel

/-- R271, R272: it counts up the engine's generation, posts a record with the kind of access and kills the launch. -/
theorem test_engine_kill :
    after .engineFaultPause { agents id with cores := [{ Core.reset 0x0100 with engine := [{ cmdBad with desc := descCpt }] }], bad := [0x60] }
      (fun s => (s.die0.batches.map (·.map fun r => (r.addr, r.lid)), s.lu.launches.map (·.final), s.gen 0x0100 4))
      = some ([[(0x40000003000, 1)]], [some (2, 0x14)], 1) := by decide +kernel

/-- The hypotheses of VectorAgentEvents about a trap with an entry: one whose next word is no instruction. -/
theorem witness_VectorAgentEvents_entry :
    let e : BmEntry := { enc := 0x6865022B, vtype := 0x0A, vl := 4, vstart := 0, st := 2, flg := 4, deps := 0, xop := 0, xbase := 0
                         xstride := 0, ipc := 0x40000002000, mask := 1 }
    let i : TrapInfo := { cause := 1, cls := 0, pages := [(0, 0, 1)], entry := some e }
    let s := agents fun t => { t with status := .trapping i, pc := 0x40000002004 }
    i.entry = some e ∧ i.rest = [] ∧ (s.stopped 1 i).2.1 = [e] ∧ (s.stopped 1 i).1.strand 1 = some s.cur
    ∧ (s.stopped 1 i).1.cores.map (·.id) = [s.cur.core] ∧ s.cur.slot < ((s.stopped 1 i).1.core s.cur.core).gen.length := by decide +kernel

/-- R164: a command whose turn has come is accepted, while the engine is parked too. -/
theorem test_copy_accept :
    let s : State := { (copying descCpt).onCur (fun t => { t with status := .waiting (.copy (opOf .cpt [])) }) with arg := { uid := 1, core := 0x0100 } }
    after .copyCommandAccept s (fun s => ((s.core 0x0100).engine.length, s.cur.status, s.cur.pc)) = some (1, .running, 0x1008)
    ∧ after .copyCommandAccept { s with cores := [{ Core.reset 0x0100 with park := some 1 }] }
      (fun s => ((s.core 0x0100).engine.length, s.cur.pc)) = some (1, 0x1008) := by decide +kernel

/-- Offsets of the gather below: elements 20, 27 and 28 lie on pages that are not mapped. -/
def gatherIdx : List Nat := (List.range 32).map fun i => if i = 20 then 0x20000 else if i = 27 then 0x50040 else if i = 28 then 0x50080 else 4 * i

/-- The gather of R294: 32 words at x10, offsets in v6; at the pc `vldx v4, [x10], v6`, behind it a word, `vst v8, [x13]` and
`gexit`. -/
def gather (word : Nat) : State :=
  memV 0x0A 32 |> onePage |> putMem 4 0x30000 ((List.range 32).map (4 * ·))
    |> putMem 4 0x1000 [0x6865022B, word, 0x0806942B, 0x4000605B]
    |> setX 10 0x80000000000 |> setX 12 0x10000000 |> setX 13 0x40000003000 |> setV 6 gatherIdx
    |> fun s => s.onCur fun t => { t with pc := 0x40000001000 }

/-- That gather stopped, with as many instructions behind it as can issue. -/
def gatherStopped (word : Nat) : Option (State × List Left × Pages) :=
  let v : VMem := vmVldx { vm := false, c := true, w := 0, src2 := 6, base := 10, vd := 4 }
  match exec (.vldx { vm := false, c := true, w := 0, src2 := 6, base := 10, vd := 4 }) (gather word) with
  | .next s =>
    match s.cur.status with
    | .trapping i => i.entry.map fun e =>
        State.issueUpTo 15 (s.onCur fun t => { t with status := .running, vstart := 0 }) [s.cur.firstLeft (rowMem v) e] i.pages
    | _ => none
  | _ => none

/-- R294's worked example, with `vadd.vx v8, v4, x12`: the bookmark's entries, the batch's pages, the pc, k7 and memory; and
its entries without the chain, with `vadd.vx v8, v4!, x12`. -/
theorem test_gather :
    (gatherStopped 0x0446140B).map (fun r => r.2.1.map fun l => (l.entry.enc, l.entry.st, l.entry.flg, l.entry.deps, l.entry.mask.toNat))
      = some [(0x6865022B, 2, 4, 0, 0x18100000), (0x0446140B, 2, 2, 1, 0xFFFF0000), (0x0806942B, 2, 4, 2, 0xFFFF0000)]
    ∧ (gatherStopped 0x0446140B).map (fun r => r.2.2) = some [(0x80000020000, 0, 1), (0x80000050040, 0, 1)]
    ∧ (gatherStopped 0x0446140B).map (fun r => (r.1.cur.pc, r.1.cur.k[(7 : MReg)], r.1.devNat 0x303C 8, (els 32 4 r.1).getD 31 0))
      = some (0x4000000100C, 0xFFFF0000, 0x1000003C, 124)
    ∧ (gatherStopped 0x0046140B).map (fun r => r.2.1.map fun l => (l.entry.st, l.entry.deps)) = some [(2, 0), (0, 1), (0, 2)] := by
  decide +kernel

/-! ### Queues -/

/-- A ring of 16 entries at device byte 0xA000, its record at 0xB000, mapped to slot 1023, with two entries notified and
complete. -/
def uq1 : UQueue :=
  { uq := 1, recAddr := 0xB000, ring := 0xA000, space := .dev, rlog := 4, pend := false, hold := false, ctx := 0, ssn := 2,
    csn := 2, notified := 2, fsn := 2, doneAbove := [], held := [] }
def slotQ (mapped : Bool) : QSlot := { slot := 1023, badn := false, mapped := mapped, uq := 1 }

/-- The words of a queue's record (R315). -/
def uqWords (u : UQueue) : List Nat := [u.ring, u.rlog + (if u.pend then 2 ^ 8 else 0) + u.ctx * 2 ^ 16, u.ssn, u.csn, u.notified, u.fsn]

/-- A machine with that queue, entry 3 of it and its record in memory, and a number written to its slot. -/
def queueM (mapped : Bool) (u : UQueue) (entry : List Nat) (n : Word) : State :=
  ctxOn (putMem 8 0xB000 (uqWords u) (putMem 8 (0xA000 + 96) entry (onControl .m))) |> fun s =>
    { s with lu := { s.lu with slots := [slotQ mapped], uqs := [u] }
             hc := { s.hc with present := true }, arg := { slot := 1023, uq := 1, seq := 3, word := n } }

/-- Entry 3 of a queue: a launch. -/
def entryLaunch : List Nat := [3, 0x40000003000, 0x10, 0]

/-- The hypotheses of QueueEvents, clause by clause. -/
theorem witness_QueueEvents :
    (let s := queueM true uq1 [] 18
     s.plat.d3 = false ∧ (∃ p ∈ s.lu.slots, p.slot = s.arg.slot) ∧ s.uqueue (s.qslot 1023).uq = some uq1 ∧ (s.qslot 1023).mapped = true
     ∧ uq1.ssn < s.arg.word.toNat ∧ s.arg.word.toNat - uq1.csn ≤ 2 ^ uq1.rlog ∧ 2 ^ uq1.rlog < 19 - uq1.csn ∧ 2 ≤ uq1.ssn
     ∧ s.arg.slot < 1024 ∧ s.uqueue s.arg.uq = some uq1)
    ∧ (let s := queueM false uq1 [] 18
       (s.qslot 1023).mapped = false ∧ s.reread uq1 = uq1 ∧ uq1.ssn < s.arg.word.toNat ∧ uq1.notified < s.arg.word.toNat
       ∧ uq1.pend = false ∧ s.recClean uq1.recAddr = true ∧ (putMem 8 0xB030 [1] s).recClean uq1.recAddr = false
       ∧ (putMem 8 0xB008 [0x24] s).recClean uq1.recAddr = false
       ∧ ({ s with lu := { s.lu with uqs := [] } } : State).uqueue s.arg.uq = none
       ∧ ∀ p ∈ s.lu.slots, p.mapped = true → p.uq ≠ s.arg.uq)
    ∧ (let u := { uq1 with pend := true, notified := 18 }
       let s := queueM false u [] 18
       s.lu.uqs = [u] ∧ s.reread u = u ∧ s.recClean u.recAddr = true ∧ u.pend = true ∧ u.ssn < u.notified ∧ u.notified - u.csn ≤ 2 ^ u.rlog ∧ 2 ^ u.rlog < 19 - u.csn
       ∧ (s.qslot 0).mapped = false ∧ ({ u with notified := 2 } : UQueue).notified ≤ u.ssn)
    ∧ (let u := { uq1 with ssn := 3 }
       let s := queueM true u entryLaunch 3
       s.fetching u = true ∧ u.fsn < u.ssn ∧ s.ctxValid u.ctx = true
       ∧ (let bs := s.readPhys { space := .dev, addr := u.ring + 32 * (3 % 2 ^ u.rlog), key := 0, unt := false } 32
          leNat (bs.take 8) = 3 ∧ leNat ((bs.drop 16).take 4) % 16 = 0 ∧ leNat ((bs.drop 16).take 4) / 32 = 0
          ∧ leNat ((bs.drop 8).take 8) % 256 = 0)
       ∧ (let bs := (queueM true u [4, 0, 0, 0] 3).readPhys { space := .dev, addr := u.ring + 32 * (3 % 2 ^ u.rlog), key := 0, unt := false } 32
          leNat (bs.take 8) ≠ 3)
       ∧ (let bs := (queueM true u [3, 0, 3, 0] 3).readPhys { space := .dev, addr := u.ring + 32 * (3 % 2 ^ u.rlog), key := 0, unt := false } 32
          2 < leNat ((bs.drop 16).take 4) % 16)
       ∧ (queueM false u entryLaunch 3).fetching u = false ∧ uq1.ssn ≤ uq1.fsn
       ∧ (let a := u.ring + 32 * (3 % 2 ^ u.rlog)
          s.held a false = false ∧ s.badPiece ({ space := .dev, addr := a, key := 0, unt := false }, 32) = false
          ∧ ({ s with bad := [lineOf a] } : State).badPiece ({ space := .dev, addr := a, key := 0, unt := false }, 32) = true
          ∧ ({ s with mem := { s.mem with st := 1, p := a / 4096 + 1 } } : State).held a false = true))
    ∧ (∀ u ∈ (queueM true uq1 [] 18).lu.uqs, ((queueM true uq1 [] 18).reread u).pend = false) ∧ (∀ p ∈ (onControl .m).lu.slots, p.slot ≠ 0)
    ∧ ({ (onControl .m) with plat := { (onControl .m).plat with d3 := true } } : State).plat.d3 = true := by
  refine ⟨?_, ?_, ?_, ?_, ?_, ?_, ?_⟩ <;> decide +kernel

/-- Further hypotheses of QueueEvents: a record that is held back, and one on an uncorrectable line; words that no stored
piece stands in front of; a ring in host memory whose context's descriptor is held back. -/
theorem witness_QueueEvents_held :
    let s := queueM false uq1 [] 18
    let k : State := { s with xl := { s.xl with locks := [{ page := 0, byHost := true, target := 9 }] } }
    s.recHeld uq1.recAddr = false ∧ k.recHeld uq1.recAddr = true
    ∧ ({ s with bad := [lineOf uq1.recAddr] } : State).recClean uq1.recAddr = false ∧ s.coh.stalled = []
    ∧ (∀ i, i < 8 → lineOf (uq1.recAddr + i) ∉ s.bad) ∧ lineOf uq1.recAddr ∉ s.bad
    ∧ k.held (k.plat.ctxbase.toNat + 64 * uq1.ctx) false = true ∧ s.held (s.plat.ctxbase.toNat + 64 * uq1.ctx) false = false := by
  decide +kernel

/-- R303, R316: a queue whose record is held back is not mapped, and no entry is fetched while its descriptor is. -/
theorem test_queue_held :
    let k (s : State) : State := { s with xl := { s.xl with locks := [{ page := 0, byHost := true, target := 9 }] } }
    after .queueMap (k (queueM false uq1 [] 0)) (fun s => (s.qslot 1023).mapped) = some false
    ∧ after .queueEntryFetch (k (queueM true { uq1 with ssn := 3 } entryLaunch 3)) (fun s => s.lu.uqs.map (·.fsn)) = some [2] := by
  decide +kernel

/-- R235, R263, R315: a full ring's worth of entries is accepted, one more sets BADN; an unmapped queue pends; a scan maps it
and applies the number; a fetched entry counts in the record's FSN; a record with a reserved bit is not mapped. -/
theorem test_queues :
    after .qnotifyWrite (queueM true uq1 [] 18) (fun s => (s.lu.uqs.map (·.ssn), (s.qslot 1023).badn)) = some ([18], false)
    ∧ after .qnotifyWrite (queueM true uq1 [] 19) (fun s => (s.lu.uqs.map (·.ssn), (s.qslot 1023).badn)) = some ([2], true)
    ∧ after .qnotifyWrite (queueM false uq1 [] 18) (fun s => s.lu.uqs.map fun u => (u.pend, u.notified)) = some [(true, 18)]
    ∧ after .pendScan (queueM false { uq1 with pend := true, notified := 18 } [] 0)
      (fun s => ((s.qslot 0).mapped, s.lu.uqs.map fun u => (u.pend, u.ssn))) = some (true, [(false, 18)])
    ∧ after .queueEntryFetch (queueM true { uq1 with ssn := 3 } entryLaunch 3)
      (fun s => (s.lu.entries.map fun e => (e.seq, e.typ, e.order), s.devNat 0xB028 8)) = some ([(3, 0, true)], 3)
    ∧ after .queueMap (putMem 8 0xB030 [1] (queueM false uq1 [] 0)) (fun s => (s.qslot 1023).mapped) = some false := by decide +kernel

/-- Events of QueueEvents that wait: a notify, one behind another of its slot, a mapping, a scan; a completion that can be
written and one that cannot. -/
theorem witness_QueueEvents_waiting :
    let e : Event := { row := .qnotifyWrite, arg := { slot := 1023, word := 18 } }
    let e0 : Event := { row := .qnotifyWrite, arg := { slot := 1023, word := 17 } }
    let eP : Event := { row := .pendScan, arg := {} }
    (let s := lockedBack (queueM false uq1 [] 18)
     s.plat.d3 = false ∧ (s.qslot 1023).mapped = false ∧ s.recHeld uq1.recAddr = true ∧ e ∉ s.lu.waiting
     ∧ e ∈ (waitingFor [e] s).lu.waiting)
    ∧ (let s := waitingFor [e0, e] (queueM true uq1 [] 18)
       s.lu.waiting = [e0] ++ e :: [] ∧ e ∉ [e0] ∧ e ∉ (waitingFor [e0] s).lu.waiting)
    ∧ (let s := waitingFor [eP, e] (queueM false uq1 [] 18)
       s.lu.waiting = [eP] ++ e :: [] ∧ e ∉ [eP] ++ ([] : List Event) ∧ (∀ k ∈ [eP], k.row ≠ .qnotifyWrite)
       ∧ s.recHeld uq1.recAddr = false ∧ s.lu.waiting = [] ++ eP :: [e] ∧ eP ∉ [e])
    ∧ (let s := queueM false uq1 [] 18
       let eM : Event := { row := .queueMap, arg := s.arg }
       eM ∉ s.lu.waiting ∧ (waitingFor [eM] s).lu.waiting = [] ++ eM :: [] ∧ (waitingFor [eM] s).arg = s.arg)
    ∧ (let u2 := { uq1 with uq := 2, pend := true, notified := 18 }
       let s : State := { queueM true uq1 [] 18 with lu := { (queueM true uq1 [] 18).lu with uqs := [uq1, u2] } }
       (∀ u ∈ s.lu.uqs, s.uqMapped u.uq = true ∨ s.recHeld u.recAddr = false) ∧ s.uqMapped 1 = true ∧ s.uqMapped 2 = false
       ∧ ((putMem 8 0xB000 (uqWords u2) s).reread u2).pend = true ∧ s.lu.uqs = [uq1] ++ [u2] ∧ eP ∉ s.lu.waiting
       ∧ ¬∀ u ∈ (lockedBack s).lu.uqs, (lockedBack s).uqMapped u.uq = true ∨ (lockedBack s).recHeld u.recAddr = false)
    ∧ (let u := { uq1 with held := [(3, 1, 0)] }
       let s := queueM true u [] 18
       s.uqueue 1 = some u ∧ s.canComplete u 3 = true ∧ (lockedBack s).canComplete u 3 = false ∧ (lockedBack s).uqueue u.uq = some u
       ∧ ({ s with hc := { s.hc with present := false } } : State).canComplete { u with space := .host } 3 = false) := by
  refine ⟨by decide +kernel, by decide +kernel, by decide +kernel, by decide +kernel, by decide +kernel, by decide +kernel⟩

/-- R303, R316: what cannot be made yet is made again: a mapping; notifies of a slot in their order; a scan of a queue behind
one that is not clean; a completion, whose number CSN passes only with its STATUS. -/
theorem test_queue_waits :
    after .queueMap (lockedBack (queueM false uq1 [] 0)) (fun s => (s.qslot 1023, s.lu.waiting.map (·.row), s.candidates.contains { row := .queueMap, arg := s.arg }))
      = some (slotQ false, [.queueMap], true)
    ∧ after .queueMap (waitingFor [{ row := .queueMap, arg := (queueM false uq1 [] 0).arg }] (queueM false uq1 [] 0))
      (fun s => ((s.qslot 1023).mapped, s.lu.waiting.length)) = some (true, 0)
    ∧ after .qnotifyWrite (lockedBack (queueM false uq1 [] 18)) (fun s => (s.lu.waiting.map (·.arg.word), s.lu.uqs.map (·.pend)))
      = some ([18], [false])
    ∧ (let u2 := { uq1 with uq := 2, recAddr := 0xC000, pend := true, notified := 18 }
       let u1 := { uq1 with pend := true, notified := 18 }
       let s := putMem 8 0xB030 [1] (putMem 8 0xC000 (uqWords u2) (queueM false u1 [] 0))
       after .pendScan { s with lu := { s.lu with uqs := [u1, u2] } } (fun s => ((s.qslot 0).uq, s.lu.uqs.map fun u => (u.pend, u.ssn)))
         = some (2, [(true, 2), (false, 18)]))
    ∧ (let u := { uq1 with ssn := 3, fsn := 3, held := [(3, 1, 9)] }
       after .queueEntryFetch (lockedBack (queueM true u [] 0)) (fun s => s.lu.uqs.map fun u => (u.csn, u.held.length)) = some [(2, 1)]
       ∧ after .queueEntryFetch (queueM true u [] 0) (fun s => (s.lu.uqs.map fun u => (u.csn, u.held.length), s.devNat 0xA074 4, s.devNat 0xB018 8))
         = some ([(3, 0)], 1, 3)) := by
  refine ⟨by decide +kernel, by decide +kernel, by decide +kernel, by decide +kernel, by decide +kernel, by decide +kernel⟩

/-! ### Launches -/

/-- Entry 3 of the queue, fetched, over memory at 0x3000. -/
def entry3 (typ : Nat) (addr : Word) : QEntry := { uq := 1, seq := 3, typ := typ, order := true, addr := addr, lid := none }
def fetched (typ : Nat) (addr : Word) (words : List Nat) : State :=
  putMem 8 0x3000 words (queueM true { uq1 with ssn := 3, fsn := 3 } [] 3) |> fun s =>
    { s with lu := { s.lu with entries := [entry3 typ addr], nextLid := 2, nextHandle := 2
                               code := [{ handle := 1, ctx := 0, text := 0x40000006000, size := 64, nkern := 1 }] } }

/-- A Clofer header (R81) with one kernel, its tables at 0x40, 0x140 and 0x180 of 0x200 bytes. -/
def objWords : List Nat := [0x464F4C43 + 2 ^ 32 + 2 ^ 48, 0, 0x40, 0x140, 0x180, 0x200, 0, 0]

/-- A message for strand 1 of stage 0 on its way, and one for a launch that is not there. -/
def wire1 (lid : Nat) : WireMsg := { lid := lid, glin := 0, stage := 0, six := 1, msg := msg3 }

/-- The hypotheses of LaunchEvents: a record that is accepted; one of an unknown code object; an object that does not load; a
handle that is known, unknown, and in use; a message with room, without, and too many; a held message. -/
theorem witness_LaunchEvents :
    (let s := fetched 0 0x40000003000 recWords
     let m : State := { s with lu := { s.lu with entries := [{ entry3 0 0x40000003000 with lid := some 2 }] } }
     s.acceptable s.arg.uq s.arg.seq 0 = some (entry3 0 0x40000003000) ∧ canonical 0x40000003000 = true
     ∧ (m.loadVirt (s.uqCtx 1) 0x40000003000 256).toOption.map (·.2) = some m
     ∧ m.recordFault (s.uqCtx 1) 0x40000003000 (recWords.flatMap (leBytes 8)) false = none
     ∧ m.presetGroups (s.uqCtx 1) (parseRec (recWords.flatMap (leBytes 8))).sbrd (parseRec (recWords.flatMap (leBytes 8))).groups = []
     ∧ (parseRec (recWords.flatMap (leBytes 8))).groups = 1
     ∧ ({ m with lu := { m.lu with code := [] } } : State).recordFault 0 0x40000003000 (recWords.flatMap (leBytes 8)) false = some 0x1C)
    ∧ (let s := fetched 1 0x40000003000 [0]
       s.acceptable s.arg.uq s.arg.seq 1 = some (entry3 1 0x40000003000)
       ∧ (match s.loadObject (s.uqCtx 1) 0x40000003000 with | .error st => st | .ok _ => 0) = 0x21)
    ∧ (let s := fetched 2 1 []
       s.acceptable s.arg.uq s.arg.seq 2 = some (entry3 2 1) ∧ (s.codeObj (s.uqCtx 1) 1).isSome = true ∧ s.codeObj (s.uqCtx 1) 2 = none
       ∧ (∀ l ∈ s.lu.launches, l.live = true → l.ctx = s.uqCtx 1 → l.lrec.codeh.toNat ≠ 1)
       ∧ (∃ l ∈ (withLaunch s).lu.launches, l.live = true ∧ l.ctx = s.uqCtx 1 ∧ l.lrec.codeh.toNat = 1))
    ∧ (let s := { two id with wire := [wire1 1], arg := { lid := 1 } }
       s.wire = wire1 1 :: [] ∧ s.launch 1 = some launch1 ∧ s.launch 9 = none ∧ launch1.live = true
       ∧ s.hasExited launch1 0 0 1 = false ∧ s.hasExited launch1 0 1 1 = true
       ∧ (s.strandAt 1 0 0 1).map (s.canDeliver launch1 · 3) = some true ∧ launch1.pool = []
       ∧ ({ launch1 with st := .killed } : Launch).live = false)
    ∧ (let s := { two (fun o => { o with inbox := List.replicate 64 msg3 }) with wire := [wire1 1] }
       (s.strandAt 1 0 0 1).map (s.canDeliver launch1 · 3) = some false ∧ launch1.pool.length < launch1.lrec.ovflN
       ∧ launch1.lrec.ovflN ≤ [({ glin := 0, stage := 0, six := 1, slot := 0, msg := msg3 } : HeldMsg)].length)
    ∧ (let l := { launch1 with pool := [{ glin := 0, stage := 0, six := 1, slot := 0, msg := msg3 }] }
       let s := { two id with lu := { (two id).lu with launches := [l] }, arg := { lid := 1 } }
       s.launch s.arg.lid = some l ∧ (s.strandAt 1 0 0 1).map (fun t => (t.status, t.inbox.length)) = some (.running, 0)) := by
  refine ⟨?_, ?_, ?_, ?_, ?_, ?_⟩ <;> decide +kernel

/-- A code object is registered wherever its sections are: where `.text` is, is a free value (log 4). -/
theorem witness_LaunchEvents_object (h : Config.textSection (List.replicate 192 0) = (0x1000, 64)) :
    let s := fetched 1 0x40000003000 objWords
    s.acceptable s.arg.uq s.arg.seq 1 = some (entry3 1 0x40000003000)
    ∧ s.loadObject (s.uqCtx 1) 0x40000003000 = .ok (0x40000004000, 64, 1) ∧ s.objectHeld (s.uqCtx 1) 0x40000003000 = false := by
  have e1 : (fetched 1 0x40000003000 objWords).readBytes 0 0x40000003000 64 = some (objWords.flatMap (leBytes 8)) := by decide +kernel
  have e2 : (fetched 1 0x40000003000 objWords).readBytes 0 0x40000003040 256 = some (List.replicate 256 0) := by decide +kernel
  have e3 : (fetched 1 0x40000003000 objWords).readBytes 0 0x40000003140 192 = some (List.replicate 192 0) := by decide +kernel
  have e4 : (fetched 1 0x40000003000 objWords).rangeRX 0 0x40000004000 64 = true := by decide +kernel
  have e5 : ∀ p ∈ [(0x40000003000, 64), (0x40000003040, 256), (0x40000003140, 192), (0x40000004000, 64)],
      (fetched 1 0x40000003000 objWords).rangeHeld 0 p.1 p.2 = false := by decide +kernel
  refine ⟨by decide +kernel, ?_⟩
  have b1 : rb (objWords.flatMap (leBytes 8)) 0x28 8 = 0x200 := by decide +kernel
  have b2 : rb (objWords.flatMap (leBytes 8)) 6 2 = 1 := by decide +kernel
  have b3 : rb (objWords.flatMap (leBytes 8)) 0x10 8 = 0x40 := by decide +kernel
  have b4 : rb (objWords.flatMap (leBytes 8)) 0x18 8 = 0x140 := by decide +kernel
  have c1 : (!(canonical 0x40000003000) || !(cloferOk (objWords.flatMap (leBytes 8)))) = false := by decide +kernel
  have c2 : profOk (objWords.flatMap (leBytes 8)) = true := by decide +kernel
  have c3 : kernelsOk (List.replicate 256 0) 1 = true := by decide +kernel
  have c4 : kernelsClean (List.replicate 256 0) 1 = true := by decide +kernel
  have hc : (fetched 1 0x40000003000 objWords).uqCtx 1 = 0 := by decide +kernel
  refine ⟨?_, ?_⟩
  · unfold State.loadObject
    simp only [hc, e1, b1, b2, b3, b4, c1, c2, c4, Nat.reduceAdd, Nat.reduceMul, Nat.reduceSub, e2, e3, c3, h, e4, Bool.not_true, Bool.false_eq_true,
      Nat.reduceMod, and_self, if_true, if_false]
  · unfold State.objectHeld
    simp only [hc, e1, b1, b2, b3, b4, Nat.reduceAdd, Nat.reduceMul, Nat.reduceSub, e3, h, e5 _ (List.mem_cons_self ..),
      e5 (0x40000003040, 256) (by decide), e5 (0x40000003140, 192) (by decide), e5 (0x40000004000, 64) (by decide), Bool.or_self, Bool.and_false]

/-- Objects of LaunchEvents that fail one check each: no magic number, a kernel record with a reserved byte set, a profile of
another family, a vector stage that asks for a tile. -/
theorem witness_LaunchEvents_checks :
    (cloferOk (objWords.flatMap (leBytes 8)) = true ∧ profOk (objWords.flatMap (leBytes 8)) = true ∧ canonical 0x40000003000 = true
     ∧ cloferOk (List.replicate 64 0) = false ∧ (fetched 1 0x40000003000 objWords).readBytes 0 0x3000 64 = none)
    ∧ kernelsClean (List.replicate 127 0 ++ [1] ++ List.replicate 128 0) 1 = false
    ∧ profOk ((objWords.set 1 0xFFFFFFFFFFFFFFFF).flatMap (leBytes 8)) = false
    ∧ (let ks := (recWords.set 20 (2 * 2 ^ 32 + 8 * 2 ^ 40)).flatMap (leBytes 8)
       kernelsClean ks 1 = true ∧ kernelsOk ks 1 = false) := by decide +kernel

/-- Further hypotheses of LaunchEvents: what is held back and what is not; a held message whose target has exited; a pool with
its first entry taken and room for one more, whose entry 1 the next message takes. -/
theorem witness_LaunchEvents_held :
    (let s := fetched 0 0x40000003000 recWords
     let k : State := { s with xl := { s.xl with locks := [{ page := 0, byHost := true, target := 9 }] } }
     s.acceptHeld (s.uqCtx 1) 0x40000003000 = false ∧ k.acceptHeld (k.uqCtx 1) 0x40000003000 = true)
    ∧ (let s := fetched 1 0x40000003000 objWords
       let k : State := { s with xl := { s.xl with locks := [{ page := 0, byHost := true, target := 9 }] } }
       (fetched 1 0x40000003000 [0]).objectHeld (s.uqCtx 1) 0x40000003000 = false ∧ k.objectHeld (k.uqCtx 1) 0x40000003000 = true)
    ∧ (let h : HeldMsg := { glin := 0, stage := 1, six := 1, msg := msg3, slot := 0 }
       let l := { launch1 with pool := [h], lrec := { launch1.lrec with ovflN := 2 } }
       let s : State := { two id with lu := { (two id).lu with launches := [l] }, arg := { lid := 1 } }
       s.launch s.arg.lid = some l ∧ l.pool = h :: [] ∧ s.hasExited l h.glin h.stage h.six = true
       ∧ l.pool.length < l.lrec.ovflN ∧ l.freeEntry = 1) := by
  refine ⟨⟨by decide +kernel, by decide +kernel⟩, ⟨by decide +kernel, by decide +kernel⟩, by decide +kernel, by decide +kernel, by decide +kernel, by decide +kernel, by decide +kernel⟩

/-- R239, R205, R207: the launch with the next LAUNCHID; a message in the inbox; a message in the pool. -/
theorem test_launches :
    after .launchAccept (fetched 0 0x40000003000 recWords) (fun s => (s.lu.launches.map fun l => (l.lid, l.lrec.groups, l.released)))
      = some [(2, 1, [0])]
    ∧ after .messageArrival { two id with wire := [wire1 1] } (fun s => (s.wire.length, s.others.map fun o => o.inbox)) = some (0, [[msg3]])
    ∧ after .messageArrival { two (fun o => { o with inbox := List.replicate 64 msg3 }) with wire := [wire1 1] }
      (fun s => s.lu.launches.map fun l => l.pool.length) = some [1] := by decide +kernel

/-- An object on the last canonical page of the lower half, its kernel table behind that page. -/
def edge : State :=
  fetched 1 0x3FFFFFFFFFFFC0 [] |> putMem 8 0x17FF8 [0x02000001] |> putMem 8 0x2FFF8 [0x03000001] |> putMem 8 0x3FFF8 [0xCF]
    |> putMem 8 0xFFC0 objWords

/-- Further hypotheses of LaunchEvents: the record is read once the copies of its line are asked; a launch all of whose groups
are in its scoreboard; an address that is not canonical, and a table whose address is not. -/
theorem witness_LaunchEvents_reads :
    (∀ c ∈ [(0, 0), (1, 1)],
      let s := putMem 8 0x5000 [c.1] (fetched 0 0x40000003000 recWords)
      let sR := s.recordRead (s.uqCtx 1) 0x40000003000
      let m : State := { sR with lu := { sR.lu with entries := [{ entry3 0 0x40000003000 with lid := some 2 }] } }
      s.acceptable s.arg.uq s.arg.seq 0 = some (entry3 0 0x40000003000) ∧ (0x40000003000 : Word).toNat % 2 ^ 55 = 0x40000003000
      ∧ (m.loadVirt (s.uqCtx 1) 0x40000003000 256).toOption.isSome = true
      ∧ m.recordFault (s.uqCtx 1) 0x40000003000 (recWords.flatMap (leBytes 8)) false = none
      ∧ (m.presetGroups (s.uqCtx 1) (parseRec (recWords.flatMap (leBytes 8))).sbrd 1).length = c.2)
    ∧ (let s := fetched 0 0x0100000000003000 recWords
       s.acceptable s.arg.uq s.arg.seq 0 = some (entry3 0 0x0100000000003000) ∧ canonical 0x0100000000003000 = false)
    ∧ (let h := objWords.flatMap (leBytes 8)
       edge.readBytes 0 0x3FFFFFFFFFFFC0 64 = some h ∧ cloferOk h = true ∧ canonical 0x3FFFFFFFFFFFC0 = true
       ∧ canonical ((0x3FFFFFFFFFFFC0 + rb h 0x10 8) % 2 ^ 64) = false ∧ edge.objectHeld (edge.uqCtx 1) 0x3FFFFFFFFFFFC0 = false) := by
  refine ⟨by decide +kernel, by decide +kernel, by decide +kernel⟩

/-- R47, R239: a launch with nothing left to do completes at its acceptance; an address that is not canonical is no record,
nor is there a kernel table (R81). -/
theorem test_launch_ends :
    after .launchAccept (putMem 8 0x5000 [1] (fetched 0 0x40000003000 recWords)) (fun s => (s.lu.launches.map (·.st), s.lu.uqs.map (·.csn)))
      = some ([.complete], [3])
    ∧ after .launchAccept (fetched 0 0x0100000000003000 recWords) (fun s => (s.lu.launches.length, s.devNat 0xA074 4)) = some (0, 0x10)
    ∧ after .codeObjectRegister edge (fun s => (s.lu.code.length, s.devNat 0xA074 4)) = some (1, 0x21) := by
  refine ⟨by decide +kernel, by decide +kernel, by decide +kernel⟩

/-- R77, R81: the first such object completes with LS_FORMAT, the last would with LS_RESOURCE. -/
theorem test_object_status : after .codeObjectRegister (fetched 1 0x40000003000 [0])
    (fun s => (s.lu.code.map (·.handle), s.lu.uqs.map (·.csn))) = some ([1], [3]) := by decide +kernel

/-! ### Dispatch, pre-emption, moves -/

/-- A launch of one control strand, not yet placed, of a level. -/
def launchD (lid prio : Nat) : Launch :=
  { launch1 with
    lid := lid, recAddr := 0x40000003000, placed := [], released := [0], bins := [0] :: List.replicate 63 [], dispatched := false
    lrec := { launch1.lrec with prio := prio, strms := [], sbrd := 0x40000005000, stages := [{ stageRec with n := 1, l := 0, scratch256 := 0 }] } }

/-- Launches on a machine with tenants: tenant 0 of weight 1 and level at most 7. -/
def dispatching (ls : List Launch) (weight : Nat) : State :=
  putMem 8 0x9000 [0x700 + weight] (ctxOn (onControl .m)) |> fun s =>
    { s with lu := { s.lu with launches := ls, nextLid := 3 }, plat := { s.plat with tenbase := 0x9000 }
             cur := { s.cur with system := true, lid := 0 }, arg := { lid := 1, die := 1 } }

/-- No slot is enabled anywhere. -/
def noSlots (s : State) : State := { s with cores := coreIds.map fun id => { Core.reset id with sen := 0 } }

/-- The hypotheses of DispatchEvents about launches: one candidate, two of different levels, two of one level with tenants
served unequally, none; a launch that reserves and those that do not; tenants' counts. -/
theorem witness_DispatchEvents :
    (let s := dispatching [launchD 1 2] 1
     s.launch s.arg.lid = some (launchD 1 2) ∧ (launchD 1 2).live = true ∧ (∀ k ∈ s.lu.launches, k.lid = s.arg.lid → k = launchD 1 2)
     ∧ (s.lu.counts.map (·.1)).Nodup ∧ (∀ l ∈ s.lu.launches, s.level7 l = s)
     ∧ (s.lu.launches.filterMap fun l => (s.candidate s.arg.die l).map fun g => (l, g)) = [(launchD 1 2, 0)]
     ∧ s.levelE (launchD 1 2) < 6 ∧ s.dieFor (launchD 1 2) 0 ≠ none)
    ∧ (let s := dispatching [launchD 1 2, launchD 2 3] 1
       (∀ l ∈ s.lu.launches, s.level7 l = s)
       ∧ (s.lu.launches.filterMap fun l => (s.candidate s.arg.die l).map fun g => (l, g)) = [(launchD 1 2, 0), (launchD 2 3, 0)]
       ∧ s.levelE (launchD 1 2) < s.levelE (launchD 2 3))
    ∧ (let b := { launchD 2 2 with ctx := 1 }
       let s := dispatching [launchD 1 2, b] 1 |> putMem 8 64 [0x10001, 1] |> putMem 8 0x9008 [0x701] |> fun s =>
         { s with lu := { s.lu with counts := [(0, 5), (1, 3)] } }
       (s.lu.launches.filterMap fun l => (s.candidate s.arg.die l).map fun g => (l, g)) = [(launchD 1 2, 0), (b, 0)]
       ∧ s.levelE b = s.levelE (launchD 1 2)
       ∧ s.dcount (s.ctxTenant b.ctx) * s.weight (launchD 1 2) < s.dcount (s.ctxTenant (launchD 1 2).ctx) * s.weight b
       ∧ (s.lu.counts.map (·.1)).Nodup)
    ∧ (let s := dispatching [launchD 1 2] 0
       (s.lu.launches.filterMap fun l => (s.candidate s.arg.die l).map fun g => (l, g)) = [] ∧ s.weight (launchD 1 2) = 0)
    ∧ (let s := noSlots (dispatching [launchD 1 6] 1)
       s.launch s.arg.lid = some (launchD 1 6) ∧ (launchD 1 6).nextGroup = some 0 ∧ (launchD 1 6).st = .running
       ∧ 6 ≤ s.levelE (launchD 1 6) ∧ s.weight (launchD 1 6) ≠ 0 ∧ s.dieFor (launchD 1 6) 0 = none) := by
  refine ⟨?_, ?_, ?_, ?_, ?_⟩ <;> decide +kernel

/-- A strand of launch 1, saved or running, on a machine whose pool holds it. -/
def preempting (st : LState) (status : Status) : State :=
  dispatching [{ launchD 1 2 with st := st, placed := [0], resuming := true }] 1 |> fun s =>
    { s with others := [{ strandOn 0 villOnly 0 with uid := 2, g := 0, slot := 1, status := status }], nextUid := 3 }

/-- The hypotheses of DispatchEvents about pre-emption: a pool that holds the save and one that does not; every strand stands;
a resumption; a saved group that can be placed. -/
theorem witness_DispatchEvents_preemption :
    (let s := preempting .running .running
     (s.launch s.arg.lid).map (fun l => (l.st, s.poolHolds l, l.pool)) = some (.running, true, []))
    ∧ (let s := putMem 8 40 [0] (preempting .running .running)
       (s.launch s.arg.lid).map s.poolHolds = some false)
    ∧ (let s := putMem 8 40 [0] (preempting .preempting .running)
       (s.launch s.arg.lid).map (·.st) = some .preempting ∧ s.canSave s.arg.lid = true
       ∧ (let s1 := ((s.strands.filter fun t => t.lid == s.arg.lid && !t.system && t.status != .gone && !t.inPool).map
            (·.uid)).foldl State.saveStrand s
          ((s1.launch s.arg.lid).bind s1.writeScoreboard).isSome = true)
       ∧ (s.strand 2).isSome = true)
    ∧ ({ preempting .preempting .running with cores := [{ Core.reset 0 with engine := [cmdFill] }] } : State).canSave 1 = false
    ∧ (let s := preempting .preempted (.saved false false [])
       (s.launch s.arg.lid).map (fun l => (l.st, l.resuming)) = some (.preempted, true))
    ∧ (let s := preempting .running (.saved false false [])
       (s.launch s.arg.lid).map (·.st) = some .running ∧ (s.placeSaved s.arg.lid).map (fun t => t.poolLength s.arg.lid) = some 0
       ∧ (noSlots s).placeSaved s.arg.lid = none) := by
  refine ⟨?_, ?_, ?_, ?_, ?_, ?_⟩ <;> decide +kernel

/-- A vector strand that waits for lanes or whose mix window is full, on a core with a mix threshold. -/
def mixing (status : Status) (full : Option Nat) : State :=
  { (onVector vtI32).onCur (fun t => { t with status := status, mixDone := full }) with
    cores := (coresIn [0, 0x0100, 0x0101]).map fun c => if c.id = 0x0100 then { c with men := true, mthr := 100 } else c
    arg := { uid := 1 } }

def vreq1 : VsetReq := { rd := 9, image := 2, avl := none }

/-- The hypotheses of DispatchEvents about single strands: a migration wait with and without a victim; a lane wait of a free and
a pinned strand; a mix window that is not full, full, and below its threshold. -/
theorem witness_DispatchEvents_strands :
    (let s := preempting .running (.migWait (.classes [.control]))
     (∀ t, s.strand 2 = some t → t.waitClasses = [.control])
     ∧ (s.strand 2).map (fun t => (s.migVictims t).map (·.lid)) = some [1] ∧ (s.preempt 1 (some 0)).isSome = true)
    ∧ (preempting .running .running).cur.waitClasses = []
    ∧ (let s := mixing (.waiting (.lane 0 1 vreq1)) none
       s.strand s.arg.uid = some s.cur ∧ s.cur.status = .waiting (.lane 0 1 vreq1) ∧ s.cur.pinned = false
       ∧ s.nearestFit s.cur [.vector] (fun id => id != s.cur.core && decide (1 ≤ (s.core id).freeLanes.length)) = some (0x0101, 0)
       ∧ s.cur.asked = 0 ∧ s.canTake s.cur s.nextAsk = true ∧ (fullCarrier s).canTake s.cur s.nextAsk = false
       ∧ matrixA.cur.pinned = true)
    ∧ (mixing .running none).cur.mixDone = none
    ∧ (let s := mixing .running (some 99)
       let s1 := s.updStrand s.arg.uid fun t => { t with mixDone := none }
       s.cur.mixDone = some 99 ∧ s.cur.cls = .vector ∧ (s.core s.cur.core).men = true ∧ 99 < (s.core s.cur.core).mthr.toNat
       ∧ s.cur.pinned = false ∧ s.cur.fork = none ∧ s.plat.locked = false ∧ s.cur.status = .running
       ∧ s1.nearestFit s.cur [.control] (fun _ => true) = some (0, 0) ∧ s1.canTake { s.cur with mixDone := none } s.nextAsk = true
       ∧ ((fullCarrier s).updStrand s.arg.uid fun t => { t with mixDone := none }).canTake { s.cur with mixDone := none } s.nextAsk = false)
    ∧ (let s := mixing .running (some 100)
       s.cur.mixDone = some 100 ∧ (s.core s.cur.core).mthr.toNat ≤ 100)
    ∧ ({ (onVector vtI32).cur with mixN := 65534 } : Strand).mixN + 1 < 65536 := by
  refine ⟨?_, ?_, ?_, ?_, ?_, ?_, ?_⟩
  · have h : (preempting .running (.migWait (.classes [.control]))).strand 2
        = some { strandOn 0 villOnly 0 with uid := 2, g := 0, slot := 1, status := .migWait (.classes [.control]) } := by decide +kernel
    refine ⟨fun t ht => ?_, by decide +kernel, by decide +kernel⟩
    rw [h] at ht; cases ht; rfl
  all_goals decide +kernel

/-- The hypotheses of DispatchEvents about bins: none that holds a group, and the fourth from the current one on. -/
theorem witness_DispatchEvents_bins :
    (∀ b, b < 64 → launch1.bins.getD b [] = [])
    ∧ (let l := { launch1 with bins := (List.replicate 64 []).set 5 [7], curBin := 2 }
       (∀ j, j < 3 → l.bins.getD ((l.curBin + j) % 64) [] = []) ∧ l.bins.getD ((l.curBin + 3) % 64) [] = 7 :: []
       ∧ (l.moveBin.curBin, l.nextGroup) = (5, some 7)) := by decide +kernel

/-- The further hypotheses of DispatchEvents about saves and resumptions: a strand to save with the carrier free and full, none,
with the scoreboard mapped and not; bytes of the pool; a launch that made room with no saved group, with one that fits and one
that does not; a strand whose replay waited, with what it waited for gone. -/
theorem witness_DispatchEvents_saves :
    let here (s : State) : List Strand := s.strands.filter fun t => t.lid == s.arg.lid && !t.system && t.status != .gone && !t.inPool
    let full (s : State) : State := { s with others := s.others ++ ((fullCarrier s).others.drop s.others.length).map fun t => { t with lid := 9 } }
    let l (st : LState) : Launch := { launchD 1 2 with st := st, placed := [0], resuming := false, madeRoomFor := some 0 }
    (let s := preempting .preempting .running
     (here s).map (·.uid) = [2] ∧ (here s).map (fun t => (s.carrierFor (coreDie t.core) 0, (full s).carrierFor (coreDie t.core) 0)) = [(true, false)]
     ∧ (full s).canSave 1 = true ∧ (here (full s)).map (·.uid) = [2] ∧ (s.poolParts 0 100).length = 1)
    ∧ (let s := preempting .preempting (.saved false false [])
       here s = [] ∧ s.canSave 1 = true ∧ ((s.launch 1).bind s.writeScoreboard).isSome = true
       ∧ (((putMem 8 0x10008 [0] s).launch 1).bind (putMem 8 0x10008 [0] s).writeScoreboard).isSome = false)
    ∧ (let s := dispatching [l .preempted] 1
       s.launch 1 = some (l .preempted) ∧ s.savedGroups 1 = [])
    ∧ (let s : State := { preempting .preempted (.saved false false []) with lu := (dispatching [l .preempted] 1).lu }
       s.savedGroups 1 = [0] ∧ (s.placeSaved 1).isSome = true ∧ (noSlots s).placeSaved 1 = none)
    ∧ (let s := preempting .running (.waiting .replay)
       (s.strands.filter fun t => t.lid == 1 && t.status == .waiting .replay).map (·.uid) = [2]
       ∧ (s.strands.filter fun t => t.lid == 1 && t.status == .waiting .replay).map (fun t =>
           (s.replay t.uid (t.replaying.getD t.bookmark)).map fun r => (r.placeSaved 1).isSome) = [some false]) := by
  refine ⟨?_, ?_, ?_, ?_, ?_⟩ <;> decide +kernel

/-- R243, R244, R246, R258, R260: the strand of a dispatched group; the higher level first; a reserve; saved, and placed
again. -/
theorem test_dispatch :
    after .dispatchDecision (dispatching [launchD 1 2] 1) (fun s => (s.others.map fun t => (t.lid, t.pc, t.mode), s.dcount 0))
      = some ([(1, 0, .u)], 1)
    ∧ after .dispatchDecision (dispatching [launchD 1 2, launchD 2 3] 1) (fun s => s.others.map (·.lid)) = some [2]
    ∧ after .dieReserve (noSlots (dispatching [launchD 1 6] 1)) (fun s => s.lu.launches.map (·.starved)) = some [true] := by
  decide +kernel

/-- Further hypotheses of DispatchEvents: the tenants' entries held back and not, before the event waits and when it waits;
a launch that cannot be saved while its engine's message is on the wire; a migration wait without a victim. -/
theorem witness_DispatchEvents_held :
    (let s := noSlots (dispatching [launchD 1 6] 1)
     let e : Event := { row := .dieReserve, arg := { lid := 1 } }
     s.schedHeld = false ∧ (lockedBack s).schedHeld = true ∧ e ∉ (lockedBack s).lu.waiting
     ∧ (waitingFor [e] s).lu.waiting = [] ++ e :: [] ∧ (waitingFor [e] s).schedHeld = false)
    ∧ (let s := preempting .running .running
       s.ctxHeld 0 = false ∧ (lockedBack s).ctxHeld 0 = true ∧ s.held (s.plat.ctxbase.toNat + 64 * launch1.ctx) false = false
       ∧ (lockedBack s).held (s.plat.ctxbase.toNat + 64 * launch1.ctx) false = true)
    ∧ ({ preempting .preempting .running with wire := [{ wire1 1 with msg := { msg3 with hdr := 0x2300000000000000 } }] } : State).canSave 1
      = false
    ∧ (let s := preempting .preempted (.migWait (.classes [.control]))
       (s.strand 2).map (·.waitClasses) = some [.control] ∧ s.schedHeld = false
       ∧ (s.strand 2).map (fun t => s.schedTouch.migVictims t) = some []
       ∧ (lockedBack (preempting .running (.migWait (.classes [.control])))).schedHeld = true)
    ∧ ({ (onVector vtI32).cur with mixN := 65535, mixV := 7 } : Strand).mixN = 65535 := by
  refine ⟨by decide +kernel, by decide +kernel, by decide +kernel, by decide +kernel, rfl⟩

/-- R255, R303: the 65536th instruction ends its window, and the next counts in a window of its own; a reserve waits for the
tenant's entry. -/
theorem test_dispatch_waits :
    (let t := ({ (onVector vtI32).cur with mixN := 65535, mixV := 7 } : Strand).mixCount true
     (t.mixN, t.mixV, t.mixDone) = (0, 0, some 8) ∧ ((t.mixCount true).mixN, (t.mixCount true).mixV, (t.mixCount true).mixDone) = (1, 1, some 8))
    ∧ after .dieReserve (lockedBack (noSlots (dispatching [launchD 1 6] 1))) (fun s => (s.lu.launches.map (·.starved), s.lu.waiting.map (·.row)))
      = some ([false], [.dieReserve]) := by
  refine ⟨by decide +kernel, by decide +kernel⟩

/-- R254, R255, R258, R260: a save (without a pool, whose bytes are no test's matter); the placement of a saved group; a mix
window below the threshold moves the strand, one at it does not. -/
theorem test_preemption :
    after .preemptionSave (putMem 8 40 [0] (preempting .preempting .running)) (fun s => (s.others.map (·.status), s.lu.launches.map fun l => (l.st, l.npre)))
      = some ([.saved false false []], [(.preempting, 0)])
    ∧ after .preemptionSave (putMem 8 40 [0] (preempting .preempting (.saved false false []))) (fun s => s.lu.launches.map fun l => (l.st, l.npre))
      = some [(.preempted, 1)]
    ∧ after .savedGroupPlacement (preempting .running (.saved false false [])) (fun s => s.others.map (·.status)) = some [.running]
    ∧ after .mixWindowEnd (mixing .running (some 99)) (fun s => (s.cur.status, s.cur.mixDone)) = some (.transit 0 0, none)
    ∧ after .mixWindowEnd (mixing .running (some 100)) (fun s => (s.cur.status, s.cur.mixDone)) = some (.running, none) := by decide +kernel

/-! ### Coherence, translation, the host and peers -/

/-- A machine whose context 0 maps a page, with some coherence state; x0 of the strand names nothing. -/
def world : State := { mapped (onVector vtI32) with hc := { (onControl .m).hc with present := true } }

/-- A request of core 0x0100 to write line 0x40. -/
def req1 : CohReq := { src := .core 0x0100, space := .dev, line := 0x40, write := true }
def memReq1 (bytes : Option (List Byte)) (stack : Nat) : MemReq := { stack := stack, dla := 0x2000, lid := 1, write := bytes }

/-- The hypotheses of CoherenceEvents, clause by clause: walks that permit, that do not, and that fail. -/
theorem witness_CoherenceEvents_walk :
    (let s := { world with arg := { word := 0x40000002000, acc := .store } }
     let va := s.arg.word.toNat % 2 ^ 55
     s.walk s.arg.ctx va (s.ctxRoot s.arg.ctx) 3 = .leaf 8 0xCF 2 ∧ permitted s.arg.acc 0xCF = true
     ∧ s.gate (leafPhys s va 0xCF 2) (accWrites s.arg.acc) = none)
    ∧ (let s := putMem 8 8 [0x4B] world
       s.walk 0 0x40000002000 (s.ctxRoot 0) 3 = .leaf 8 0x4B 2 ∧ permitted .store 0x4B = false)
    ∧ world.walk 0 0x2000 (world.ctxRoot 0) 3 = .invalid := by refine ⟨?_, ?_, ?_⟩ <;> decide +kernel

/-- Broadcasts, snoops, requests, the host's and a peer's accesses, requests of the memory. -/
theorem witness_CoherenceEvents_lines :
    (let s := world.updDie 0 fun d => { d with notifs := [{ req := req1, invZ := false }, { req := req1, invZ := true }] }
     (s.die s.arg.die).notifs = { req := req1, invZ := false } :: [{ req := req1, invZ := true }]
     ∧ (∀ r ∈ s.coh.queued, ¬(r.space = req1.space ∧ r.line = req1.line)) ∧ (world.die world.arg.die).notifs = []
     ∧ s.lineBusy .dev 0x40 = true ∧ world.lineBusy .dev 0x40 = false)
    ∧ (let s : State := { world with coh := { world.coh with snoops := [(0x0100, { req := req1, invZ := false })] }, arg := { core := 0x0100 } }
       s.coh.snoops = (s.arg.core, { req := req1, invZ := false }) :: [] ∧ s.coh.queued = [] ∧ ∀ p ∈ world.coh.snoops, p.1 ≠ 0x0100)
    ∧ (let s : State := { world with arg := { addr := 0x207F, n := 1, bytes := [9] } }
       inLine s.arg.addr s.arg.n = true ∧ inLine 0x2000 128 = true ∧ inLine 0x2000 129 = false ∧ s.arg.addr < s.mem.lim * 65536
       ∧ s.tablePhys s.arg.addr = some (devPhys 0x207F) ∧ s.plat.booted = true ∧ s.held s.arg.addr true = false
       ∧ s.badPiece (devPhys 0x207F, 1) = false ∧ ({ s with bad := [0x40] } : State).badPiece (devPhys 0x207F, 1) = true
       ∧ ({ s with xl := { s.xl with locks := [{ page := 0, byHost := false, target := 7 }] } } : State).held s.arg.addr true = true
       ∧ ({ s with mem := { s.mem with st := 1, p := 65 } } : State).held s.arg.addr true = true
       ∧ ({ s with mem := { s.mem with st := 1, p := 65 } } : State).writeGate (pageOf s.arg.addr) = .free
       ∧ ({ s with plat := { s.plat with booted := false } } : State).plat.booted = false ∧ s.freezeCount (pageOf s.arg.addr) = 0 ∧ s.collecting (pageOf s.arg.addr) = false
       ∧ s.writeGate (pageOf s.arg.addr) = .free ∧ s.mem.lim * 65536 ≤ 0xB2D05E0000
       ∧ s.arg.space = .dev)
    ∧ (let f := { frozen1 with pages := [0] }
       let s : State := { world with cat := { world.cat with entries := [f] }, arg := { peer := 63 } }
       1 ≤ s.arg.peer ∧ s.arg.peer ≤ 63 ∧ 0 < s.freezeCount (pageOf 0x2000))
    ∧ ({ world with cat := { world.cat with collecting := [(0, 0)] } } : State).collecting (pageOf 0x2000) = true
    ∧ (let r := memReq1 (some [9]) (world.mem.stackOf 2)
       inLine r.dla 1 = true ∧ r.dla < world.mem.lim * 65536 ∧ world.mem.st = 0 ∧ world.mem.stackOf (r.dla / 4096) = r.stack
       ∧ world.mem.stackOf (r.dla / 4096) ≠ r.stack + 1 ∧ r.lid ≠ 0 ∧ world.writeGate (pageOf r.dla) = .free
       ∧ (∀ k ∈ world.xl.locks, ¬(k.page = pageOf r.dla ∨ k.target = pageOf r.dla))
       ∧ ({ page := 7, byHost := true, target := 0 } : PageLock).target = pageOf r.dla
       ∧ { r with corrected := true }.stack < world.plat.stkce.length
       ∧ (∀ t ∈ world.strands, ¬(r.uid ≠ 0 ∧ t.uid = r.uid)) ∧ { r with uid := 1 }.uid = world.cur.uid ∧ world.cur.cls ≠ .control
       ∧ world.cur.lid = r.lid ∧ world.cur.system = false ∧ world.cur.status = .running ∧ (memC .u).cur.cls = .control
       ∧ { r with dla := world.mem.lim * 65536 }.dla = world.mem.lim * 65536
       ∧ (let m := { world.mem with st := 2, p := 66 }
          m.st ≠ 0 ∧ m.p - 64 ≤ r.dla / 4096 ∧ r.dla / 4096 < m.p)) := by
  refine ⟨?_, ?_, ?_, ?_, ?_, ?_⟩ <;> decide +kernel

/-- Locks, acknowledgements, collections, contexts, invalidations. -/
theorem witness_CoherenceEvents_rest :
    (let s : State := { world with xl := { world.xl with requests := [(0, none)], locks := [{ page := 7, byHost := true, target := 9 }] }
                                   arg := { page := 7, flag := true } }
     s.xl.requests = (0, none) :: [] ∧ s.xl.locks = [{ page := s.arg.page, byHost := s.arg.flag, target := 9 }] ∧ s.coh.hostReqs = []
       ∧ s.coh.stalled = [] ∧ (∀ l ∈ world.xl.locks, l.page ≠ 7))
    ∧ (let s : State := { world with cat := { world.cat with acks := [(0, 63), (1, 0)] }, arg := { peer := 63 } }
       s.arg.peer ≠ 0 ∧ (∃ a ∈ s.cat.acks, a.2 = s.arg.peer) ∧ (∃ a ∈ s.cat.acks, a.2 = 0) ∧ (∀ a ∈ s.cat.acks, a.2 ≠ 5))
    ∧ (let e := { frozen1 with thawing := true, thawer := some (1, 0, 0, 1) }
       let s : State := { world with cat := { world.cat with entries := [e] } }
       (s.cat.entries.find? fun e => e.idx == s.arg.entry) = some e ∧ s.collectionOver e = true ∧ s.coh.hostReqs = []
       ∧ s.coh.stalled = [] ∧ s.collectionOver frozen1 = false)
    ∧ ((∀ l ∈ world.lu.launches, l.ctx = world.arg.ctx → l.live = false) ∧ (∀ e ∈ world.cat.entries, e.ctx ≠ world.arg.ctx)
       ∧ ∃ l ∈ (withLaunch world).lu.launches, l.ctx = 0 ∧ l.live = true)
    ∧ (∀ n, (Requester.core 0x0100) ≠ .peer n) ∧ Space.host ≠ .dev := by
  refine ⟨?_, ?_, ?_, ?_, fun _ h => (by cases h), ?_⟩ <;> decide +kernel

/-- Further hypotheses of CoherenceEvents: a descriptor that is held back, or uncorrectable; an invalidation that waits for
a stalled access, and one that only a peer's stands beside; a page key table whose entry is held back, or uncorrectable; a
page that moves; a write-back; a request of an engine, of a parked strand. -/
theorem witness_CoherenceEvents_held :
    let locked (s : State) (p : Nat) (host : Bool) : State := { s with xl := { s.xl with locks := [{ page := p, byHost := host, target := 9 }] } }
    ((locked world 0 true).held (world.plat.ctxbase.toNat + 64 * world.arg.ctx) false = true
      ∧ lineOf (world.plat.ctxbase.toNat + 64 * world.arg.ctx) ∈ ({ world with bad := [0] } : State).bad)
    ∧ (let r := memReq1 (some [9]) 0
       (∃ k ∈ [r], k.lid ≠ 0 ∨ k.combined.isSome = true) ∧ (∀ k ∈ [{ r with lid := 0 }], k.lid = 0 ∧ k.combined = none)
       ∧ ({ r with combined := some true } : MemReq).combined = some true ∧ ({ r with engine := some 0x0100 } : MemReq).engine = some 0x0100)
    ∧ (let s : State := { locked world 5 true with plat := { world.plat with pktbase := 0x50001 }, arg := { addr := 0x2000, n := 1, bytes := [9] } }
       s.tableHeld s.arg.addr = true ∧ s.tablePhys s.arg.addr = some (devPhys 0x2000)
       ∧ ({ s with bad := [lineOf 0x50000] } : State).tablePhys s.arg.addr = none
       ∧ ({ s with bad := [lineOf 0x50000], xl := world.xl } : State).tableHeld s.arg.addr = false)
    ∧ (locked world 0 false).locked (pageOf 0x2000) = true ∧ world.locked (pageOf 0x2000) = false
    ∧ (let s := world.onCur fun t => { t with status := .parked }
       s.cur.status = .parked ∧ s.cur.lid = 1 ∧ s.cur.system = false ∧ s.cur.status ≠ .gone ∧ s.cur.uid = 1) := by
  refine ⟨?_, ?_, ?_, ?_, ?_, ?_⟩ <;> decide +kernel

/-- R271: a request of an engine beyond LIM posts its record under the engine's token and ends the launch. -/
theorem test_request_fault :
    after .memoryRequestArrival { withLaunch world with arg := { memReq := { memReq1 none 0 with dla := world.mem.lim * 65536, engine := some 0x0100 } } }
      (fun s => (s.die0.batches.map (·.map (·.token)), s.lu.launches.map (·.final))) = some ([[0x101000400]], [some (2, 0x15)]) := by decide +kernel

/-- Further hypotheses of CoherenceEvents: a walk that would mark an entry on a frozen page, and one that is held back; requests
of a unit, for a launch and for none; a store to a frozen page; the page key table, whose entry the host's access asks for. -/
theorem witness_CoherenceEvents_marks :
    (let s := { putMem 8 8 [0x0F] world with arg := { word := 0x40000002000, acc := .store }
                                             cat := { world.cat with entries := [{ frozen1 with pages := [0] }] } }
     s.walkFrom 0 0x40000002000 = .leaf 8 0x0F 2 ∧ permitted .store 0x0F = true ∧ pteA 0x0F = false ∧ s.writeGate (pageOf 8) = .frozen
     ∧ world.writeGate (pageOf 8) = .free ∧ (lockedBack world).walkFrom 0 0x40000002000 = .held)
    ∧ (let r := { memReq1 (some [9]) (world.mem.stackOf 2) with unit := true }
       r.unit = true ∧ r.lid ≠ 0 ∧ { r with lid := 0 }.lid = 0 ∧ world.mem.lim * 65536 ≤ { r with dla := 0xB2D05E0000 }.dla
       ∧ ({ world with cat := { world.cat with entries := [{ frozen1 with pages := [0] }] } } : State).writeGate (pageOf r.dla) = .frozen)
    ∧ (let s : State := { putMem 8 0 [0x1000] world with plat := { world.plat with pktbase := 1 }, arg := { addr := 0x207F, n := 1 } }
       s.tablePhys s.arg.addr = none ∧ s.tableHeld s.arg.addr = false ∧ s.plat.pktbase.getLsbD 0 = true
       ∧ s.arg.addr < s.mem.lim * 65536 ∧ s.plat.booted = true ∧ world.plat.pktbase.getLsbD 0 = false) := by
  refine ⟨by decide +kernel, by decide +kernel, by decide +kernel⟩

/-- R191, R210, R292: a store of a unit to a frozen page is not made, and ends its launch with 0x0A; R209, R215: what stalled
while the pages were frozen is judged at the freeze point. -/
theorem test_unit_store :
    after .memoryRequestArrival { withLaunch world with
        cat := { world.cat with entries := [{ frozen1 with pages := [0] }] }
        arg := { memReq := { memReq1 (some [9]) (world.mem.stackOf 2) with unit := true } } }
      (fun s => (s.devNat 0x2000 1, s.lu.launches.map (·.final))) = some (0, [some (2, 0x0A)])
    ∧ after .freezePoint { freezer 0x0100 [] with
        cat := { (freezer 0x0100 []).cat with jobs := [{ uid := 1, ctx := 0, pages := [1], rd := 9 }] }, arg := { uid := 1 }
        coh := { (freezer 0x0100 []).coh with hostReqs := [{ addr := 0x10000, n := 1, write := some [7] }] } }
      (fun s => (s.coh.hostReqs.length, s.agenda.map fun e => (e.row, e.arg.addr, e.arg.bytes)))
      = some (0, [(.hostCxlMemWrite, 0x10000, [7])]) := by
  refine ⟨by decide +kernel, by decide +kernel⟩

/-- R183, R194, R210, R267: a write snoops; the host's write to a frozen page is refused; a line left Z; A and D are set. -/
theorem test_coherence :
    after .hostCxlMemWrite { world with arg := { addr := 0x2000, bytes := [9] } } (fun s => (s.dev.get 0x2000, s.hc.herrn)) = some (9, 0)
    ∧ after .hostCxlMemWrite { world with cat := { world.cat with entries := [{ frozen1 with pages := [0] }] }, arg := { addr := 0x2000, bytes := [9] } }
      (fun s => (s.dev.get 0x2000, s.hc.herra, s.hc.herrn)) = some (0, 0x2000, 1)
    ∧ after .pageTableWalk { putMem 8 8 [0xF] world with arg := { word := 0x40000002000, acc := .store } } (fun s => s.devNat 8 8) = some 0xCF
    ∧ after .memoryRequestArrival { world with arg := { memReq := { memReq1 (some [9]) (world.mem.stackOf 2) with corrected := true } } }
      (fun s => (s.dev.get 0x2000, s.plat.stkce.getD (world.mem.stackOf 2) 0)) = some (9, 1)
    ∧ after .hostCxlMemRead { world with bad := [0x40], arg := { addr := 0x2000, n := 1 } } (fun s => s.hc.reads) = some [none] := by
  decide +kernel

/-- R290, R303: a host's write waits while the device holds the page's lock, and is performed at its release. -/
theorem test_page_lock :
    after .hostCxlMemWrite { world with xl := { world.xl with locks := [{ page := 0, byHost := false, target := 7 }] }
                                        arg := { addr := 0x2000, bytes := [9] } }
      (fun s => (s.dev.get 0x2000, s.coh.hostReqs)) = some (0, [{ addr := 0x2000, n := 1, write := some [9] }])
    ∧ after .pageMigrationRequest { world with
        xl := { world.xl with locks := [{ page := 0, byHost := false, target := 7 }] }
        coh := { world.coh with hostReqs := [{ addr := 0x2000, n := 1, write := some [9] }] }, arg := { page := 0 } }
      (fun s => (s.xl.locks, s.coh.hostReqs, s.dev.get 0x2000, s.dev.get 0x72000)) = some ([], [], 9, 0) := by decide +kernel

/-! ### Heat, power, registers -/

/-- A core 0x0100 at 98 degrees. -/
def hot (temp : Byte) (sen : BitVec 4) (f : Platform → Platform) : State :=
  { onVector vtI32 with
    cores := [{ Core.reset 0x0100 with temp := temp, sen := sen }], plat := f (onVector vtI32).plat, arg := { core := 0x0100, word := 110 } }

/-- The hypotheses of ThermalAndPower: below, at and ten above the trip point, one slot and four, locked clocks and not. -/
theorem witness_ThermalAndPower :
    ({ Core.reset 0x0100 with temp := 100 } ∈ (hot 100 0xF id).cores ∧ (hot 100 0xF id).cores.map (·.id) = [0x0100]
      ∧ (hot 100 0xF id).arg.core = 0x0100)
    ∧ ((BitVec.ofNat 64 99).setWidth 8).toNat < Config.ttrip ∧ Config.ttrip ≤ ((BitVec.ofNat 64 100).setWidth 8).toNat
    ∧ Config.ttrip + 10 ≤ ((BitVec.ofNat 64 110).setWidth 8).toNat
    ∧ ((List.range 4).filter fun n => (0x1 : BitVec 4).getLsbD n).length ≤ 1
    ∧ ¬((List.range 4).filter fun n => (0x3 : BitVec 4).getLsbD n).length ≤ 1
    ∧ (3 < clsSlots .vector ∧ (0xF : BitVec 4).getLsbD 3 = true ∧ (0xF : BitVec 4).getLsbD 0 = true
       ∧ (∀ m, m < 0 → (0x1 : BitVec 4).getLsbD m = false) ∧ (∀ m : Fin 4, 0 < m → (0x1 : BitVec 4).getLsbD m = false)
       ∧ (0x7 : BitVec 4).getLsbD 3 = false ∧ (∀ m, m < 3 → (0x7 : BitVec 4).getLsbD m = true))
    ∧ (95 : Byte).toNat + 5 ≤ Config.ttrip ∧ Config.ttrip < (96 : Byte).toNat + 5
    ∧ (hot 100 0xF fun p => { p with locked := true, changing := true }).plat.locked = true
    ∧ (hot 100 0xF id).plat.booted = true ∧ (hot 100 0xF id).plat.changing = false ∧ (∃ d ∈ (hot 100 0xF id).cores, Config.ttrip ≤ d.temp.toNat)
    ∧ (∀ d ∈ (hot 99 0xF id).cores, d.temp.toNat < Config.ttrip)
    ∧ (∃ q ∈ (queueM true { uq1 with ssn := 3 } [] 0).lu.uqs, q.csn ≠ q.ssn) ∧ (∀ q ∈ (queueM true uq1 [] 0).lu.uqs, q.csn = q.ssn)
    ∧ ({ (hot 100 0xF id) with arg := { boot := .ok [0x0100] } } : State).arg.boot = .ok [0x0100] := by
  refine ⟨?_, ?_, ?_, ?_, ?_, ?_, ?_, ?_, ?_, ?_, ?_, ?_, ?_, ?_, ?_, ?_, ?_⟩ <;> decide +kernel

/-- R251, R253, R254, R256: the highest slot is disabled; the next is enabled; at ten above with one slot MERR names the
core. -/
theorem test_thermal :
    after .thermalSlotDisable (hot 100 0xF id) (fun s => s.cores.map (·.sen)) = some [0x7]
    ∧ after .thermalSlotEnable (hot 95 0x7 id) (fun s => s.cores.map (·.sen)) = some [0xF]
    ∧ after .thermalSensorUpdate (hot 50 0x1 id) (fun s => (s.plat.merr, s.plat.merrCore)) = some (2, 0x0100)
    ∧ after .thermalSensorUpdate (hot 50 0xF fun p => { p with locked := true }) (fun s => (s.plat.merr, s.plat.locked)) = some (4, false) := by
  decide +kernel

/-- Lost terms of ThermalAndPower: ten above the trip point without locked clocks and with two slots; a failed boot; a
collective of a port whose link goes. -/
theorem test_power :
    after .thermalSensorUpdate (hot 50 0x3 id) (fun s => (s.plat.merr, s.cores.map (·.temp))) = some (0, [110])
    ∧ after .powerOnReset { hot 50 0xF id with arg := { boot := .failed } } (fun s => (s.plat.booted, s.cur.status)) = some (false, .gone)
    ∧ after .ethernetLinkChange ({ service collWords with arg := { n := 0, flag := false } }.updDie 0 fun d =>
        { d with coll := [(service collWords).collCmd collWords 2] }) (fun s => (s.plat.netst, s.die0.coll.map (·.lost))) = some (0, [true])
    ∧ after .spdmRequest { hot 50 0xF id with plat := { (hot 50 0xF id).plat with booted := false } } (fun s => s.plat.spdm) = some [none] := by
  decide +kernel

/-- A machine with a written register. -/
def writing (w : Word) (f : State → State) : State := { f world with arg := { core := 0x0100, word := w } }

/-- The hypotheses of RegisterEvents, clause by clause. -/
theorem witness_RegisterEvents :
    (let s := writing 3 id
     s.plat.booted = true ∧ Core.reset 0x0100 ∈ s.cores ∧ (∀ d ∈ s.cores, d.id = 0x0100 → d = Core.reset 0x0100) ∧ s.arg.core = 0x0100
     ∧ coreClass 0x0100 = .vector ∧ coreClass 0x0300 ≠ .vector ∧ (Core.reset 0x0100).pend = false ∧ s.onCore 0x0100 ≠ [] ∧ s.onCore 0x0101 = [])
    ∧ (let m := world.mem
       m.st = 0 ∧ ncap m.nActive < 0xB2D05F ∧ 0xB2D05E ≤ ncap m.nActive ∧ 5 < m.lim ∧ m.lim ≤ 0xB2D05E
       ∧ ({ m with st := 1 } : MemSvc).st ≠ 0)
    ∧ (let m := { world.mem with cap := 0x1000 }
       ¬(m.st ≠ 0 ∨ m.active.getLsbD 11 = false ∨ m.nActive = 1 ∨ ncap (m.nActive - 1) < m.cap ∨ m.snapBusy = true)
       ∧ ({ m with active := 1 } : MemSvc).nActive = 1)
    ∧ (let s : State := { world with mem := { world.mem with st := 1, p := 65 } }
       s.mem.st ≠ 0 ∧ s.coh.stalled = [] ∧ s.bad = [] ∧ 64 < s.mem.p ∧ ({ s.mem with p := 64 } : MemSvc).p ≤ 64)
    ∧ (world.mem.snapBusy = false ∧ world.mem.snapDst.toNat + world.mem.lim * 65536 ≤ 2 ^ 48
       ∧ 2 ^ 48 < (2 ^ 47 + 2 ^ 46 + 2 ^ 46 : Word).toNat + world.mem.lim * 65536
       ∧ ({ world.mem with snapBusy := true } : MemSvc).snapBusy = true ∧ world.peer.wf = true)
    ∧ ((∀ q ∈ world.lu.uqs, q.held = []) ∧ world.hc.present = true ∧ State.reset.hc.present = false
       ∧ (∀ l ∈ (withLaunch world).lu.launches, l.live = true → (withLaunch world).ctxHapol l.ctx = false))
    ∧ (let s : State := { withLaunch world with hc := { world.hc with hcmdid := 1 } }
       s.liveLaunch (s.arg.ctx % 4096) s.hc.hcmdid.toNat = some launch1 ∧ launch1.st = .running ∧ s.preempt 1 none = none
       ∧ ((putMem 8 40 [2 ^ 20] s).preempt 1 none).isSome = true ∧ world.liveLaunch 0 1 = none)
    ∧ ((world.keySlot 1).en = false ∧ (({ world with keys := [{ slot := 1, en := true, owner := 0, key := none }] } : State).keySlot 1).en = true)
    ∧ ((world.die 0).coll = [] ∧ world.collWaiters 0 = [])
    ∧ (let s : State := { putMem 8 0x8000 [2 ^ 32 + 2] (service collWords) with arg := { word := 0 } } |> fun s =>
         { s with cur := { s.cur with status := .waiting (.collective 0x40000003000 2 9) } }
       (s.die s.arg.die).coll.length < 64 ∧ s.collWaiters 0 = (s.cur.core * 4 + s.cur.slot, 1, 0x40000003000, 2, 9) :: []
       ∧ (match State.acceptColl { s with cur := { s.cur with status := .running } } 0x40000003000 2 9 with
          | .ok t => t.cur.uid | .error _ => 0) = 1)
    ∧ (let s := putMem 8 0x8000 [2 ^ 32 + 2] (service collWords)
       let c := s.collCmd collWords 2
       let t : State := { s with arg := { coll := { stat := 1, ranks := [] } } } |> fun s => s.updDie 0 fun d => { d with coll := [c] }
       t.arg.die < 2 ∧ (t.core 0).park = none ∧ (t.die 0).coll = c :: [] ∧ c.fits t.arg.coll = true ∧ (t.collJudge c).toOption.isSome = true) := by
  refine ⟨?_, ?_, ?_, ?_, ?_, ?_, ?_, ?_, ?_, ?_, ?_⟩ <;> decide +kernel

/-- R171, R173, R299, R314: CSZ with PEND; a capacity beyond the stacks is refused; a key slot enabled for context 5. -/
theorem test_registers :
    after .lsplitWrite (writing 3 id) (fun s => s.cores.map fun c => (c.csz, c.cur, c.pend)) = some [(3, 1, true)]
    ∧ after .memcapWrite (writing (0xB2D05F * 65536) id) (fun s => (s.mem.refuse, s.mem.cap)) = some (true, 0xB2D05E)
    ∧ after .kctlWrite { writing 0x8000000000000005 id with arg := { word := 0x8000000000000005, n := 1 } }
      (fun s => ((s.keySlot 1).en, (s.keySlot 1).owner)) = some (true, 5)
    ∧ after .herraRead { world with hc := { world.hc with herra := 7 } } (fun s => (s.hc.herra, s.hc.reads.head?)) =
      some (0, some (some (leBytes 8 7))) := by decide +kernel

/-- A dirty line of host memory in the portion of core 0x0100: line 3, of which host memory held 1 everywhere. -/
def dirtyHost (f : State → State) : State :=
  f { world with
    host := (world.host.write 0x180 (List.replicate 128 9))
    cores := [{ Core.reset 0x0100 with lines := [{ space := .host, line := 3, way := 0, owner := some 0, coh := .m, back := List.replicate 128 1 }] }] }

/-- Further hypotheses of RegisterEvents: a held completion; the loss of the host with a dirty line, without queues mapped,
for a launch of a context with HAPOL and without; registers by address; a capacity of nothing; a split that waits. -/
theorem witness_RegisterEvents_more :
    (let u := { uq1 with held := [(3, 1, 7)], ssn := 3, space := .host }
     u.held = [(3, 1, 7)] ∧ 3 = u.csn + 1 ∧ u.doneAbove = [] ∧ (dirtyHost id).host.wf = true ∧ (1 : Nat) < 2 ^ 32)
    ∧ (let s := dirtyHost id
       s.hc.present = true ∧ (∀ p ∈ s.lu.slots, p.mapped = false)
       ∧ (s.cores.flatMap fun c => c.lines.filter fun l => l.space == .host && l.coh == .m).length = 1
       ∧ (world.cores.flatMap fun c => c.lines.filter fun l => l.space == .host && l.coh == .m) = [])
    ∧ (let s := putMem 8 0 [0x10001, 2 ^ 16] (withLaunch world)
       (s.ctxHapol 0, (withLaunch world).ctxHapol 0) = (true, false) ∧ launch1.live = true
       ∧ (∃ o ∈ s.strands, o.lid = launch1.lid ∧ o.system = false ∧ o.status ≠ .gone))
    ∧ ({ world.mem with cap := 0 } : MemSvc).cap = 0 ∧ world.arg.flag = false
    ∧ ({ Core.reset 0x0100 with pend := true } : Core).pend = true ∧ world.onCore 0x0101 = []
    ∧ (world.lu.uqs.map (·.uq)).Nodup ∧ world.plat.booted = true := by decide +kernel

/-- The returns of the host in RegisterEvents: queues mapped, and one that is not, whose record can be written; a collective
whose source is uncorrectable. -/
theorem witness_RegisterEvents_attach :
    (let s := queueM true { uq1 with hold := true } [] 0
     (s.lu.uqs.map (·.uq)).Nodup ∧ ∀ q ∈ s.lu.uqs, q.held = [] ∧ s.uqMapped q.uq = true)
    ∧ (let s := queueM false uq1 [] 0
       s.lu.uqs = [uq1] ∧ s.uqMapped uq1.uq = false ∧ s.coh.stalled = [] ∧ RecordOpen s (s.reread uq1))
    ∧ (let s := putMem 8 0x8000 [2 ^ 32 + 2] (service collWords)
       let c := s.collCmd collWords 2
       let t : State := { s with bad := [0x40], arg := { coll := { stat := 1, ranks := [] } } } |> fun s => s.updDie 0 fun d => { d with coll := [c] }
       (t.core (t.arg.die * 4096)).park = none ∧ c.fits t.arg.coll = true
       ∧ (match t.collJudge c with | .error (.kill cls _ _) => cls | _ => 0) = 0x14) := by
  refine ⟨by decide +kernel, ⟨by decide +kernel, by decide +kernel, by decide +kernel, ?_⟩, by decide +kernel⟩
  refine ⟨?_, by decide +kernel, ⟨?_, ?_⟩, by decide +kernel, by decide +kernel, by decide +kernel, by decide +kernel⟩
  · unfold MemWf Strand.MemWf; decide +kernel
  · intro p hp; rw [List.mem_singleton.1 hp]; intro _ a _ _; rfl
  · exact ⟨nofun, nofun⟩

/-- R318: the loss of the host takes what a dirty line holds; its return writes a held completion. -/
theorem test_host_loss :
    after .hostLinkDown (dirtyHost id) (fun s => (s.host.get 0x180, s.host.get 0x1FF, s.cores.map (·.lines.length), s.hc.present))
      = some (1, 1, [0], false)
    ∧ after .hostctlAttach (queueM true { uq1 with held := [(3, 1, 7)], ssn := 3, space := .host } [] 0)
      (fun s => (s.lu.uqs.map fun u => (u.csn, u.held.length), leNat (s.host.read 0xA074 4), leNat (s.host.read 0xA078 8))) = some ([(3, 0)], 1, 7) := by
  decide +kernel

/-- The host's events that wait: an attach while an unmapped queue's record is held back, which a detach ends; a pre-emption
while the context's descriptor is. -/
theorem witness_RegisterEvents_waiting :
    let eA : Event := { row := .hostctlAttach, arg := {} }
    (let s := lockedBack (queueM false uq1 [] 0)
     (∃ q ∈ s.lu.uqs, s.uqMapped q.uq = false ∧ s.recHeld q.recAddr = true) ∧ eA ∉ s.lu.waiting ∧ (waitingFor [eA] s).lu.waiting = [] ++ eA :: [])
    ∧ (let s := waitingFor [eA] (queueM true { uq1 with held := [(3, 1, 7)], space := .host } [] 0)
       (∀ q ∈ s.lu.uqs, s.uqMapped q.uq = true ∨ s.recHeld q.recAddr = false) ∧ s.recStalls uq1.recAddr = false ∧ s.hc.present = true
       ∧ (s.lu.waiting.filter fun e => e.row != .hostctlAttach) = [])
    ∧ (let s : State := { preempting .running .running with hc := { (onControl .m).hc with hcmdid := 1 } }
       let e : Event := { row := .preemptionStart, arg := { lid := 1 } }
       s.liveLaunch s.arg.ctx 1 ≠ none ∧ s.ctxHeld 0 = false ∧ (lockedBack s).ctxHeld 0 = true ∧ e ∉ s.lu.waiting) := by
  refine ⟨by decide +kernel, by decide +kernel, by decide +kernel⟩

/-- R303, R315, R318: the attach is made when the record can be read; a host that is gone takes its attach with it. -/
theorem test_attach_waits :
    let u := { uq1 with hold := true }
    after .hostctlAttach (lockedBack (queueM false u [] 0)) (fun s => (s.lu.uqs.map (·.hold), s.lu.waiting.map (·.row))) = some ([true], [.hostctlAttach])
    ∧ after .hostctlAttach (waitingFor [{ row := .hostctlAttach, arg := {} }] (queueM false u [] 0))
      (fun s => (s.lu.uqs.map (·.hold), s.lu.waiting.length)) = some ([false], 0)
    ∧ after .hostctlDetach (waitingFor [{ row := .hostctlAttach, arg := {} }] (queueM true u [] 0))
      (fun s => (s.hc.present, s.lu.waiting.length)) = some (false, 0) := by
  refine ⟨by decide +kernel, by decide +kernel, by decide +kernel⟩

/-- R311, R317, R320: registers by address: CTXBASE keeps no low bits, MERR and PEERST are cleared by ones, HCMDID holds its
number; LSPLIT of core 0x0100; a capacity of nothing ends the sweep at once. -/
theorem test_register_write :
    let w (a : Nat) (v : Word) (f : State → State) : State := { f world with arg := { addr := a, word := v } }
    after .registerWrite (w 0x010000050000 0x7FFFF id) (fun s => s.plat.ctxbase) = some 0x40000
    ∧ after .registerWrite (w 0x010000050020 2 fun s => { s with plat := { s.plat with merr := 6 } }) (fun s => s.plat.merr) = some 4
    ∧ after .registerWrite (w 0x010000020010 9 id) (fun s => s.hc.hcmdid) = some 9
    ∧ after .registerWrite (w 0x010010100000 3 id) (fun s => s.cores.map (·.csz)) = some [3]
    ∧ after .irmctlStart { world with mem := { world.mem with cap := 0 } } (fun s => (s.mem.st, s.plat.merr)) = some (0, 8) := by decide +kernel

/-! ### Steps -/

/-- A vector strand in context 0 at `vsaddn.vx v8, v8!, x12` (0x6686140B), and firmware at `addi x9, x0, 5` (0x00500493: the
immediate in 31:20, rd in 11:7). -/
def runV : State := putMem 4 0x1000 [0x6686140B] (mapped (onVector vtI32)) |> fun s => s.onCur fun t => { t with pc := 0x40000001000 }
def runC : State := putMem 4 0x1000 [0x00500493] (onControl .m)

/-- What a fetch gives: the first parcel, the length in bytes and the word. -/
def fetches (s : State) : Option (Nat × Nat × Nat) :=
  match s.fetchParcel s.cur.getPc with
  | .error _ => none
  | .ok (w, s1) =>
    match parcelLength w with
    | .error _ => none
    | .ok n => (s1.fetchParcels s.cur.getPc (n / 2)).toOption.map fun r => (w, n, r.1)

/-- The hypotheses of StepRunsDecodedInstruction, StepKeepsMemory, StepKeepsGrants and DecodeEncode. -/
theorem witness_Steps :
    (∀ c ∈ [(runV, 0x140B, 0x6686140B), (runC, 0x0493, 0x00500493)],
      let s := c.1
      s.agenda = [] ∧ s.evTurn = false ∧ s.plat.d3 = false ∧ s.ready s.cur = true ∧ s.cur.status = .running ∧ s.irq = none
      ∧ ¬(s.cur.mode = .u ∧ s.cur.getPc = exitAddr) ∧ fetches s = some (c.2.1, 4, c.2.2)
      ∧ (decodeWord 4 c.2.2).toOption.isSome = true)
    ∧ (runC.cur.cls = .control ∧ runC.cur.mode ≠ .u)
    ∧ (MemWf runC ∧ MemWf runV) ∧ (GrantsOk runC ∧ GrantsOk runV)
    ∧ (match step runC with | .next _ => true | _ => false) = true
    ∧ (Instr.wf .bar = true ∧ encode .bar = some (32, 0x1000605B)) := by
  refine ⟨by decide +kernel, by decide +kernel, ?_, ?_, by decide +kernel, by decide +kernel⟩
  · unfold MemWf Strand.MemWf; exact ⟨by decide +kernel, by decide +kernel⟩
  · unfold GrantsOk; exact ⟨by decide +kernel, by decide +kernel⟩

/-- What a step gives on the state after it. -/
def stepped {α : Type} (s : State) (f : State → α) : Option α := match step s with | .next t => some (f t) | _ => none

/-- The step runs the instruction at the pc: x12 = 1 is added to the elements; x9 becomes 5. -/
theorem test_step :
    stepped (runV |> setV 8 [1, 2, 0xFFFFFFFF, 4] |> setX 12 1) (fun s => (s.cur.pc, els 4 8 s)) = some (0x40000001004, [2, 3, 0xFFFFFFFF, 5])
    ∧ stepped runC (fun s => (s.cur.pc, s.cur.getX 9, s.evTurn)) = some (0x1004, 5, true) := by decide +kernel

end Sys2Proof.Tests
end

section
/-! PROOFS. What reset leaves (R7, R12, R324). -/

namespace Sys2Proof.Machine

theorem memWf_reset : MemWf State.reset := ⟨rfl, rfl, rfl, ⟨rfl, rfl, rfl⟩, fun _ ht => absurd ht List.not_mem_nil⟩

/-- Settles O60: the record of reset is evaluated; its memories are empty, and its one strand holds no lane group. -/
theorem reset : Obligations.Reset := by
  have hcores : ∀ c ∈ State.reset.cores, c.inService = true ∧ c.cur = 1 ∧ c.csz = 1 ∧ c.pend = false ∧ c.vway = 0xFFFF
      ∧ c.vsize = 0 ∧ c.wmask = List.replicate 4 0xFFFF ∧ c.lines = [] ∧ c.temp = 0 ∧ c.men = false ∧ c.mthr = 0
      ∧ c.sen = if coreClass c.id = .vector then 0xF else 0x3 := by
    intro c hc
    obtain ⟨id, -, rfl⟩ := List.mem_map.1 hc
    exact ⟨rfl, rfl, rfl, rfl, rfl, rfl, rfl, rfl, rfl, rfl, rfl, rfl⟩
  have hlen : State.reset.cores.length = 480 := by
    rw [State.reset, List.length_map]
    decide +kernel
  have hkeys : ∀ n, (State.reset.keySlot n).en = decide (n = 0) := by
    intro n
    by_cases hn : n = 0 <;> simp [State.keySlot, State.reset, hn]
  have hgrants : GrantsOk State.reset := by
    refine ⟨fun t ht => ?_, fun l hl => absurd hl List.not_mem_nil⟩
    obtain rfl : t = Strand.firmware := List.mem_singleton.1 ht
    exact ⟨Nat.zero_le _, Nat.zero_le _⟩
  exact ⟨rfl, rfl, rfl, hlen, hcores, rfl, rfl, rfl, rfl, rfl, rfl, rfl, rfl, rfl, rfl, rfl, rfl, rfl, rfl,
    rfl, rfl, rfl, rfl, rfl, rfl, rfl, fun _ => rfl, hkeys, memWf_reset, hgrants⟩

end Sys2Proof.Machine
end

section
/-! PROOFS. What keeps every memory in canonical form (log 1): the rules for records of the state and of a strand, and the
primitives of the state, of cores and of caches. -/

namespace Sys2Proof.Machine

/-! ### Strands -/

theorem Strand.MemWf.acc_wf {t : Strand} (h : t.MemWf) : t.acc.wf = true := h.1
theorem Strand.MemWf.act_wf {t : Strand} (h : t.MemWf) : t.act.wf = true := h.2.1
theorem Strand.MemWf.scratch_wf {t : Strand} (h : t.MemWf) : t.scratch.wf = true := h.2.2

/-- A strand with the stores of another one is as canonical. -/
theorem Strand.MemWf.of_same {t t' : Strand} (h : t.MemWf) (e : (t'.acc, t'.act, t'.scratch) = (t.acc, t.act, t.scratch)) :
    t'.MemWf := by
  simp only [Prod.mk.injEq] at e
  obtain ⟨acc, act, scratch⟩ := e
  unfold Strand.MemWf
  rw [acc, act, scratch]
  exact h

/-! ### Machines -/

theorem MemWf.spaces {s : State} (h : MemWf s) : s.SpacesWf := ⟨h.1, h.2.1, h.2.2.1⟩
theorem MemWf.cur {s : State} (h : MemWf s) : s.cur.MemWf := h.2.2.2.1
theorem MemWf.others {s : State} (h : MemWf s) : ∀ t ∈ s.others, t.MemWf := h.2.2.2.2

theorem memWf_of_parts {s : State} (hs : s.SpacesWf) (hc : s.cur.MemWf) (ho : ∀ t ∈ s.others, t.MemWf) : MemWf s :=
  ⟨hs.1, hs.2.1, hs.2.2, hc, ho⟩

theorem MemWf.of_mem_strands {s : State} {t : Strand} (h : MemWf s) (ht : t ∈ s.strands) : t.MemWf := by
  rcases List.mem_cons.1 ht with rfl | ht
  · exact h.cur
  · exact h.others t ht

theorem State.mem_strands_of_strand {s : State} {u : Nat} {t : Strand} (ht : s.strand u = some t) : t ∈ s.strands := by
  unfold State.strand at ht
  split at ht
  · exact List.mem_cons.2 (.inl (Option.some.inj ht).symm)
  · exact List.mem_cons_of_mem _ (List.mem_of_find?_eq_some ht)

theorem MemWf.of_strand {s : State} {u : Nat} {t : Strand} (h : MemWf s) (ht : s.strand u = some t) : t.MemWf :=
  h.of_mem_strands (State.mem_strands_of_strand ht)

/-- A machine with the spaces and the strands' stores of another one is as canonical. -/
theorem MemWf.of_same {s s' : State} (h : MemWf s)
    (e : (s'.dev, s'.host, s'.peer, s'.cur.acc, s'.cur.act, s'.cur.scratch, s'.others)
      = (s.dev, s.host, s.peer, s.cur.acc, s.cur.act, s.cur.scratch, s.others)) : MemWf s' := by
  simp only [Prod.mk.injEq] at e
  obtain ⟨dev, host, peer, acc, act, scratch, others⟩ := e
  have hsp := h.spaces
  refine memWf_of_parts ?_ (h.cur.of_same (by rw [acc, act, scratch])) (others ▸ h.others)
  unfold State.SpacesWf
  rw [dev, host, peer]
  exact hsp

/-- The rule for a choice, for a property of what is chosen. -/
theorem of_ite {α : Type} (P : α → Prop) {c : Prop} [Decidable c] {a b : α} (ha : P a) (hb : P b) : P (if c then a else b) := by
  split
  exacts [ha, hb]

theorem memWf_ite {c : Prop} [Decidable c] {s t : State} (hs : MemWf s) (ht : MemWf t) : MemWf (if c then s else t) :=
  of_ite MemWf hs ht

/-- The rule for a step of a loop over a list. -/
theorem memWf_foldl {α : Type} {f : State → α → State} (hf : ∀ (s : State) (a : α), MemWf s → MemWf (f s a)) :
    ∀ (l : List α) {s : State}, MemWf s → MemWf (l.foldl f s)
  | [], _, h => h
  | a :: l, s, h => memWf_foldl hf l (hf s a h)

theorem State.SameButCaches.memWf {s t : State} (h : s.SameButCaches t) (hs : MemWf s) : MemWf t := by
  obtain ⟨_, _, _, _, rfl⟩ := h
  exact hs.of_same rfl

/-! ### Strands changed -/

theorem State.memWf_onCur {s : State} {f : Strand → Strand} (h : MemWf s) (hf : (f s.cur).MemWf) : MemWf (s.onCur f) :=
  memWf_of_parts h.spaces hf h.others

theorem State.memWf_mapStrands {s : State} {f : Strand → Strand} (h : MemWf s) (hf : ∀ t : Strand, t.MemWf → (f t).MemWf) :
    MemWf (s.mapStrands f) := by
  refine memWf_of_parts h.spaces (hf _ h.cur) fun t ht => ?_
  obtain ⟨o, ho, rfl⟩ := List.mem_map.1 ht
  exact hf o (h.others o ho)

theorem State.memWf_updStrand {s : State} {f : Strand → Strand} (u : Nat) (h : MemWf s)
    (hf : ∀ t : Strand, t.MemWf → (f t).MemWf) : MemWf (s.updStrand u f) :=
  State.memWf_mapStrands h fun t ht => by split; exacts [hf t ht, ht]

theorem State.memWf_filterOthers {s : State} (p : Strand → Bool) (h : MemWf s) :
    MemWf { s with others := s.others.filter p } :=
  memWf_of_parts h.spaces h.cur fun t ht => h.others t (List.mem_of_mem_filter ht)

theorem State.memWf_addStrand {s : State} {t : Strand} (h : MemWf s) (ht : t.MemWf) :
    MemWf { s with others := s.others ++ [t] } := by
  refine memWf_of_parts h.spaces h.cur fun o ho => ?_
  rcases List.mem_append.1 ho with ho | ho
  · exact h.others o ho
  · exact List.mem_singleton.1 ho ▸ ht

/-! ### Writes to the spaces -/

theorem Strand.memWf_lose {t : Strand} (sp : Space) (line : Nat) (who : Option Nat) (h : t.MemWf) :
    (t.lose sp line who).MemWf := h.of_same rfl

theorem State.memWf_breakRes {s : State} (sp : Space) (a n : Nat) (who : Option Nat) (h : MemWf s) :
    MemWf (s.breakRes sp a n who) :=
  memWf_foldl (fun _ _ hs => State.memWf_mapStrands hs fun _ ht => Strand.memWf_lose _ _ _ ht) _ h

theorem State.memWf_rekeyLine {s : State} (line key : Nat) (h : MemWf s) : MemWf (s.rekeyLine line key) := by
  have hw := State.spacesWf_rekeyLine line key h.spaces
  refine memWf_of_parts hw ?_ ?_ <;> unfold State.rekeyLine <;> split
  exacts [h.cur, h.cur, h.others, h.others]

theorem State.memWf_rekey {s : State} (a n key : Nat) (h : MemWf s) : MemWf (s.rekey a n key) := by
  unfold State.rekey
  split
  · exact h
  · exact memWf_foldl (fun _ i hs => State.memWf_rekeyLine (lineOf a + i) key hs) _ h

theorem State.memWf_withSpace {s : State} {m : Mem} (sp : Space) (h : MemWf s) (hm : m.wf = true) :
    MemWf (s.withSpace sp m) := by
  obtain ⟨hd, hh, hp⟩ := h.spaces
  cases sp
  · exact memWf_of_parts ⟨hm, hh, hp⟩ h.cur h.others
  · exact memWf_of_parts ⟨hd, hm, hp⟩ h.cur h.others
  · exact memWf_of_parts ⟨hd, hh, hm⟩ h.cur h.others

theorem MemWf.space {s : State} (h : MemWf s) (sp : Space) : (s.space sp).wf = true := by
  obtain ⟨hd, hh, hp⟩ := h.spaces
  cases sp
  exacts [hd, hh, hp]

theorem State.memWf_writePhys {s : State} (p : Phys) (bs : List Byte) (who : Option Nat) (h : MemWf s) :
    MemWf (s.writePhys p bs who) := by
  unfold State.writePhys
  split
  · have hr := State.memWf_rekey p.addr bs.length p.key h
    exact State.memWf_breakRes _ _ _ _ (State.memWf_withSpace .dev hr (Mem.wf_write _ _ (hr.space .dev)))
  · exact State.memWf_breakRes _ _ _ _ (State.memWf_withSpace _ h (Mem.wf_write _ _ (h.space _)))

theorem State.memWf_setDevNat {s : State} (a n v : Nat) (h : MemWf s) : MemWf (s.setDevNat a n v) :=
  State.memWf_writePhys _ _ _ h

/-! ### Caches and walks -/

theorem State.memWf_updDie {s : State} (d : Nat) (f : Die → Die) (h : MemWf s) : MemWf (s.updDie d f) :=
  (s.updDie_caches d f).memWf h

theorem State.memWf_vacate {s : State} (id slot : Nat) (h : MemWf s) : MemWf (s.vacate id slot) := h.of_same rfl

theorem State.memWf_settle {s : State} (h : MemWf s) : MemWf s.settle := s.settle_caches.memWf h

theorem State.memWf_l2Touch {s : State} (p : Phys × Nat) (write : Bool) (h : MemWf s) : MemWf (s.l2Touch p write) :=
  (s.l2Touch_caches p write).memWf h

theorem State.unitTouch_caches (s : State) (a n : Nat) : s.SameButCaches (s.unitTouch a n) := s.l2Touch_caches _ _

theorem State.walkTouch_caches (s : State) (ctx va : Nat) : s.SameButCaches (s.walkTouch ctx va) :=
  State.SameButCaches.foldl (fun s a => s.unitTouch_caches a 8) _ s

theorem State.walked_caches (s : State) (ctx : Nat) (vas : List Nat) : s.SameButCaches (s.walked ctx vas) :=
  State.SameButCaches.foldl (fun s _ => s.walkTouch_caches ctx _) _ s

theorem State.faultWalk_caches (s : State) (ctx cls addr : Nat) : s.SameButCaches (s.faultWalk ctx cls addr) := by
  unfold State.faultWalk
  split
  · exact s.walked_caches ctx _
  · exact .refl s

theorem State.tableTouch_caches (s : State) (a : Nat) : s.SameButCaches (s.tableTouch a) := by
  unfold State.tableTouch
  split
  · exact .refl s
  · exact s.unitTouch_caches _ _

theorem State.tableAsked_caches (s : State) (a : Nat) : s.SameButCaches (s.tableAsked a) := by
  unfold State.tableAsked
  split
  · exact .refl s
  · exact s.tableTouch_caches a

theorem State.memWf_unitTouch {s : State} (a n : Nat) (h : MemWf s) : MemWf (s.unitTouch a n) :=
  (s.unitTouch_caches a n).memWf h

theorem State.memWf_walkTouch {s : State} (ctx va : Nat) (h : MemWf s) : MemWf (s.walkTouch ctx va) :=
  (s.walkTouch_caches ctx va).memWf h

theorem State.memWf_walked {s : State} (ctx : Nat) (vas : List Nat) (h : MemWf s) : MemWf (s.walked ctx vas) :=
  (s.walked_caches ctx vas).memWf h

theorem State.memWf_setPte {s : State} (a e : Nat) (h : MemWf s) : MemWf (s.setPte a e) :=
  State.memWf_setDevNat _ _ _ (State.memWf_l2Touch _ _ h)

theorem State.memWf_judge {s : State} (ctx va : Nat) (acc : Acc) (h : MemWf s) : MemWf (s.judge ctx va acc).2 := by
  have hw := State.memWf_walkTouch ctx va h
  unfold State.judge
  split
  case h_6 =>
    dsimp only
    split
    · exact hw
    · split
      · exact h
      · exact hw
      · dsimp only
        split
        · exact hw
        · exact State.memWf_setPte _ _ hw
  case h_4 => exact h
  all_goals exact hw

theorem State.memWf_translate {s : State} (ctx va n : Nat) (acc : Acc) (h : MemWf s) :
    MemWf (s.translate ctx va n acc).2 := by
  unfold State.translate
  dsimp only
  split
  next heq =>
    have h1 := State.memWf_judge ctx (va % 2 ^ 55) acc h
    rw [heq] at h1
    split
    · exact h1
    · split
      next heq2 =>
        have h2 := State.memWf_judge ctx ((va + min n (65536 - va % 65536)) % 2 ^ 55) acc h1
        rw [heq2] at h2
        exact h2
      · exact h
  · exact h

end Sys2Proof.Machine
end

section
/-! PROOFS. The memories' canonical form and the shared operations of caches, lane groups, the freeze catalogue and the launch
unit. -/

namespace Sys2Proof.Machine

/-! ### Strands -/

theorem Strand.memWf_setX {t : Strand} (r : Reg) (v : Word) (h : t.MemWf) : (t.setX r v).MemWf := by
  unfold Strand.setX
  split
  exacts [h, h.of_same rfl]

theorem Strand.memWf_setVtype {t : Strand} (r : VsetReq) (h : t.MemWf) : (t.setVtype r).MemWf := by
  unfold Strand.setVtype
  refine Strand.memWf_setX _ _ ?_
  dsimp only
  split <;> exact h.of_same rfl

theorem Strand.memWf_regranted {t : Strand} (req new : Nat) (h : t.MemWf) : (t.regranted req new).MemWf := by
  unfold Strand.regranted
  dsimp only
  split <;> exact h.of_same rfl

theorem Strand.memWf_replyAll {t : Strand} (h : t.MemWf) : t.replyAll.MemWf := by
  obtain ⟨x, f, e⟩ := t.replyAll_eq
  rw [e]
  exact h.of_same rfl

/-! ### Accesses by virtual address of units (R268, R270, R303) -/

theorem State.memWf_storePieces (who : Option Nat) : ∀ (ps : List (Phys × Nat)) (bs : List Byte) {s : State}, MemWf s →
    MemWf (s.storePieces who ps bs)
  | [], _, _, h => h
  | p :: ps, bs, _, h =>
    State.memWf_storePieces who ps (bs.drop p.2) (State.memWf_writePhys _ _ _ (State.memWf_l2Touch p true h))

theorem State.memWf_touchVirt {s : State} (ctx va n : Nat) (h : MemWf s) : MemWf (s.touchVirt ctx va n) := by
  have ht := State.memWf_translate ctx va n .load h
  unfold State.touchVirt
  split
  · exact State.memWf_walked ctx _ h
  · next heq =>
    rw [heq] at ht
    exact memWf_foldl (fun _ p hs => State.memWf_l2Touch p false hs) _ ht

theorem State.memWf_touchRange {s : State} (ctx a n : Nat) (h : MemWf s) : MemWf (s.touchRange ctx a n) :=
  memWf_foldl (fun _ _ hs => State.memWf_touchVirt ctx _ _ hs) _ h

theorem State.memWf_storeParts (lid : Nat) : ∀ (ps : List (Phys × Nat)) (bs : List Byte) {s : State}, MemWf s →
    MemWf (s.storeParts lid ps bs)
  | [], _, _, h => h
  | p :: ps, bs, s, h => by
    unfold State.storeParts
    refine State.memWf_storeParts lid ps (bs.drop p.2) ?_
    split
    · exact h.of_same rfl
    · split
      · exact h
      · exact State.memWf_writePhys _ _ _ (State.memWf_l2Touch p true h)

theorem State.memWf_storeUnit {s : State} (lid : Nat) (ps : List (Phys × Nat)) (bs : List Byte) (h : MemWf s) :
    MemWf (s.storeUnit lid ps bs) := State.memWf_storeParts lid _ _ h

theorem State.memWf_unitMark {s : State} (ctx lid va : Nat) (h : MemWf s) : MemWf (s.unitMark ctx lid va) := by
  have hw := State.memWf_walkTouch ctx va h
  unfold State.unitMark
  split
  · dsimp only
    split
    · exact hw
    · exact State.memWf_storeUnit _ _ _ hw
  · exact h

theorem State.memWf_of_storeVirt {s s' : State} {ctx va lid : Nat} {bs : List Byte} (h : MemWf s)
    (hr : s.storeVirt ctx va bs lid = .ok s') : MemWf s' := by
  unfold State.storeVirt at hr
  split at hr
  · exact nomatch hr
  · cases hr
    exact State.memWf_storeUnit _ _ _ (memWf_foldl (fun _ a hs => State.memWf_unitMark ctx lid a hs) _ h)

/-! ### Lane groups (R33 to R35) -/

theorem State.memWf_regrant {s : State} (t : Strand) (new : Nat) (h : MemWf s) : MemWf (s.regrant t new) := by
  unfold State.regrant
  split
  exacts [h, h.of_same rfl]

theorem State.memWf_settleLanes {t : Strand} (s : State) (h : t.MemWf) : (s.settleLanes t).MemWf := by
  unfold State.settleLanes
  split
  exacts [h.of_same rfl, h]

theorem State.memWf_of_renegotiate {s : State} {t : Strand} {image : Word} {p : State × Strand} (h : MemWf s) (ht : t.MemWf)
    (hr : s.renegotiate t image = .ok p) : MemWf p.1 ∧ p.2.MemWf := by
  unfold State.renegotiate at hr
  dsimp only at hr
  split at hr
  · cases hr
    exact ⟨h, ht.of_same rfl⟩
  · split at hr
    · cases hr
      exact ⟨h, ht.of_same rfl⟩
    · split at hr
      · cases hr
        exact ⟨State.memWf_regrant _ _ h, State.memWf_settleLanes _ (Strand.memWf_regranted _ _ ht)⟩
      · exact nomatch hr

theorem State.memWf_of_vset {s : State} {t : Strand} {r : VsetReq} {p : State × Strand} (h : MemWf s) (ht : t.MemWf)
    (hr : s.vset t r = .ok p) : MemWf p.1 ∧ p.2.MemWf := by
  unfold State.vset at hr
  split at hr
  · next heq =>
    cases hr
    obtain ⟨hs, ht'⟩ := State.memWf_of_renegotiate h ht heq
    exact ⟨hs, Strand.memWf_setVtype r ht'⟩
  · exact nomatch hr

theorem State.memWf_laneServe {s : State} (uid : Nat) (r : VsetReq) (h : MemWf s) : MemWf (s.laneServe uid r) := by
  unfold State.laneServe
  split
  · exact h
  · next t ht =>
    split
    · next heq =>
      obtain ⟨hs, ht'⟩ := State.memWf_of_vset h (h.of_strand ht) heq
      exact State.memWf_updStrand _ hs fun _ _ => ht'.of_same rfl
    · exact h

theorem State.memWf_laneGrant {s : State} (id : Nat) (h : MemWf s) : MemWf (s.laneGrant id) :=
  memWf_foldl (fun _ _ hs => State.memWf_laneServe _ _ hs) _ h

/-! ### The freeze catalogue (R208 to R214) -/

theorem State.memWf_flushBuf {s : State} (b : WcBuf) (t : Strand) (vec : Bool) (h : MemWf s) : MemWf (s.flushBuf b t vec) := by
  unfold State.flushBuf
  split
  · exact h.of_same rfl
  · exact memWf_foldl (fun _ _ hs => State.memWf_writePhys _ _ _ hs) _ h

theorem State.memWf_flushWc {s : State} (uid : Nat) (scalar vector : Bool) (h : MemWf s) :
    MemWf (s.flushWc uid scalar vector) := by
  have buffers : ∀ (vec : Bool) (t : Strand) (bs : List WcBuf) {s : State}, MemWf s →
      MemWf (bs.foldl (fun s b => s.flushBuf b t vec) s) :=
    fun vec t bs _ hs => memWf_foldl (fun _ b hs => State.memWf_flushBuf b t vec hs) bs hs
  unfold State.flushWc
  split
  · exact h
  · split
    · refine State.memWf_updStrand _ ?_ fun _ ht => ht.of_same rfl
      split <;> split
      · exact buffers _ _ _ (buffers _ _ _ h)
      · exact buffers _ _ _ h
      · exact buffers _ _ _ h
      · exact h
    · exact h

theorem State.memWf_linesToZ {s : State} (pages : List Nat) (h : MemWf s) : MemWf (s.linesToZ pages) := h.of_same rfl

theorem State.memWf_invalidateZ {s : State} (page : Nat) (h : MemWf s) : MemWf (s.invalidateZ page) := h.of_same rfl

theorem State.memWf_rejudge {s : State} (pages : List Nat) (h : MemWf s) : MemWf (s.rejudge pages) := h.of_same rfl

theorem State.memWf_freezeJob {s : State} (j : FrzJob) (h : MemWf s) : MemWf (s.freezeJob j) := by
  have hf : MemWf (s.settle.strands.foldl (fun s t => s.flushWc t.uid true true) s.settle) :=
    memWf_foldl (fun _ _ hs => State.memWf_flushWc _ _ _ hs) _ (State.memWf_settle h)
  unfold State.freezeJob
  split
  · exact h
  · dsimp only
    split
    · exact hf
    · split <;> refine State.memWf_updStrand _ ?_ fun _ ht => (Strand.memWf_setX _ _ ht).of_same rfl
      · exact State.memWf_rejudge _ (hf.of_same rfl)
      · exact State.memWf_rejudge _ (State.memWf_linesToZ _ (hf.of_same rfl))

theorem State.memWf_freeThawed {s : State} (e : FrzEntry) (h : MemWf s) : MemWf (s.freeThawed e) := by
  unfold State.freeThawed
  dsimp only
  split <;> exact h.of_same rfl

theorem State.memWf_startThaw {s : State} (e : FrzEntry) (ch : QReg) (thawer : Option (Nat × Nat × Nat × Nat)) (h : MemWf s) :
    MemWf (s.startThaw e ch thawer) := by
  unfold State.startThaw
  dsimp only
  split
  · exact State.memWf_freeThawed _ (h.of_same rfl)
  · exact h.of_same rfl

theorem State.memWf_endCollection {s : State} (idx : Nat) (h : MemWf s) : MemWf (s.endCollection idx) := by
  unfold State.endCollection
  split
  · exact h
  · exact State.memWf_freeThawed _
      ((memWf_foldl (fun _ p hs => State.memWf_invalidateZ p hs) (s.entryCollecting idx) h).of_same rfl)

/-! ### Launches, placement and messages (R204 to R207, R240 to R246) -/

theorem State.memWf_updLaunch {s : State} (lid : Nat) (f : Launch → Launch) (h : MemWf s) : MemWf (s.updLaunch lid f) :=
  h.of_same rfl

theorem State.memWf_orWait {s : State} {f : State → State} (e : Event) (held : Bool) (h : MemWf s)
    (hf : ∀ s : State, MemWf s → MemWf (f s)) : MemWf (s.orWait e held f) := by
  unfold State.orWait
  split
  · split
    exacts [h, h.of_same rfl]
  · exact hf _ (h.of_same rfl)

theorem State.memWf_tenantTouch {s : State} (ctx : Nat) (h : MemWf s) : MemWf (s.tenantTouch ctx) :=
  State.memWf_unitTouch _ _ (State.memWf_unitTouch _ _ h)

theorem State.memWf_releaseReady {s : State} (lid : Nat) (h : MemWf s) : MemWf (s.releaseReady lid) := by
  unfold State.releaseReady
  split
  exacts [h, h.of_same rfl]

theorem Launch.memWf_newStrand (l : Launch) (uid glin stage six core slot : Nat) (lanes : List Nat) (stack : Option Nat)
    (g : StageRec) : (l.newStrand uid glin stage six core slot lanes stack g).MemWf := ⟨rfl, rfl, rfl⟩

theorem State.memWf_of_placeOne {s s' : State} {l : Launch} {die glin stage six : Nat} {g : StageRec} (h : MemWf s)
    (hr : s.placeOne l die glin stage six g = some s') : MemWf s' := by
  unfold State.placeOne State.takeLanes at hr
  split at hr
  · exact nomatch hr
  · dsimp only at hr
    generalize (if l.lrec.stkSz = 0 then none else s.freeStack l) = stack at hr
    split at hr
    · exact nomatch hr
    · cases hr
      exact (State.memWf_addStrand h (l.memWf_newStrand ..)).of_same rfl

/-- The rule for a step that may fail of a loop over a list. -/
theorem memWf_of_foldl_bind {α : Type} {f : State → α → Option State}
    (hf : ∀ (s s' : State) (a : α), MemWf s → f s a = some s' → MemWf s') :
    ∀ (l : List α) {o : Option State} {s' : State}, (∀ s, o = some s → MemWf s) →
      l.foldl (fun o a => o.bind fun s => f s a) o = some s' → MemWf s'
  | [], _, s', h, hr => h s' hr
  | a :: l, o, s', h, hr => by
    refine memWf_of_foldl_bind hf l (fun t ht => ?_) hr
    obtain ⟨s, hs, hst⟩ := Option.bind_eq_some_iff.1 ht
    exact hf s t a (h s hs) hst

theorem State.memWf_of_placeGroup {s s' : State} {l : Launch} {die glin : Nat} (h : MemWf s)
    (hr : s.placeGroup l die glin = some s') : MemWf s' :=
  memWf_of_foldl_bind (fun _ _ _ hs => State.memWf_of_placeOne hs) _ (fun _ ht => Option.some.inj ht ▸ h) hr

theorem State.memWf_hold {s : State} (l : Launch) (m : HeldMsg) (h : MemWf s) : MemWf (s.hold l m) := by
  unfold State.hold
  dsimp only
  split
  · next heq =>
    refine State.memWf_of_storeVirt ?_ heq
    exact h.of_same rfl
  · exact h.of_same rfl

theorem State.memWf_of_holdOr {s s' : State} {l : Launch} {m : HeldMsg} (h : MemWf s) (hr : s.holdOr l m = .done s') :
    MemWf s' := by
  unfold State.holdOr at hr
  split at hr
  · cases hr
    exact State.memWf_hold l m h
  · exact nomatch hr

theorem State.memWf_of_deliver {s s' : State} {l : Launch} {glin stage six : Nat} {m : Msg} (h : MemWf s)
    (hr : s.deliver l glin stage six m = .done s') : MemWf s' := by
  unfold State.deliver at hr
  split at hr
  · exact nomatch hr
  · split at hr
    · split at hr
      · cases hr
        exact State.memWf_updStrand _ h fun _ ht => ht.of_same rfl
      · exact State.memWf_of_holdOr h hr
    · exact State.memWf_of_holdOr h hr

theorem State.memWf_post {s : State} (lid glin stage six : Nat) (m : Msg) (h : MemWf s) :
    MemWf (s.post lid glin stage six m) := h.of_same rfl

/-! ### Queue entries (R234, R235, R315) -/

theorem State.memWf_storeRec {s : State} (q : UQueue) (h : MemWf s) : MemWf (s.storeRec q) := State.memWf_storeUnit _ _ _ h

theorem State.memWf_updUq {s : State} (uq : Nat) (f : UQueue → UQueue) (h : MemWf s) : MemWf (s.updUq uq f) := by
  unfold State.updUq
  split
  · exact h
  · exact State.memWf_storeRec _ (h.of_same rfl)

theorem State.memWf_writeCompletion {s : State} (q : UQueue) (seq status : Nat) (result : Word) (h : MemWf s) :
    MemWf (s.writeCompletion q seq status result) := by
  unfold State.writeCompletion
  exact State.memWf_updUq _ _ (State.memWf_storeUnit _ _ _ (State.memWf_storeUnit _ _ _ h))

theorem State.memWf_putCompletion {s : State} (uq seq status : Nat) (result : Word) (h : MemWf s) :
    MemWf (s.putCompletion uq seq status result) := by
  unfold State.putCompletion
  split
  · exact h
  · split
    · exact State.memWf_writeCompletion _ _ _ _ h
    · exact h.of_same rfl

theorem State.memWf_completeHeld {s : State} (uq : Nat) (h : MemWf s) : MemWf (s.completeHeld uq) := by
  unfold State.completeHeld
  split
  · exact h
  · split
    · exact memWf_foldl (fun _ _ hs => State.memWf_putCompletion _ _ _ _ hs) _ (h.of_same rfl)
    · exact h

theorem State.memWf_completeEntry {s : State} (uq seq code cls : Nat) (result : Word) (h : MemWf s) :
    MemWf (s.completeEntry uq seq code cls result) := State.memWf_putCompletion _ _ _ _ (h.of_same rfl)

/-! ### LSTATE, the scoreboard and the end of a launch (R48, R241, R252) -/

theorem State.memWf_of_writeLstate {s s' : State} {l : Launch} (h : MemWf s) (hr : s.writeLstate l = some s') : MemWf s' := by
  unfold State.writeLstate at hr
  split at hr
  · next heq =>
    cases hr
    exact State.memWf_of_storeVirt h heq
  · exact nomatch hr

theorem State.memWf_of_writeScoreboard {s s' : State} {l : Launch} (h : MemWf s) (hr : s.writeScoreboard l = some s') :
    MemWf s' := by
  refine memWf_of_foldl_bind (fun s s' b hs hr => ?_) _ (fun _ ht => Option.some.inj ht ▸ h) hr
  split at hr
  · next heq =>
    cases hr
    exact State.memWf_of_storeVirt hs heq
  · exact nomatch hr

theorem memWf_getD {o : Option State} {s : State} (h : MemWf s) (ho : ∀ s', o = some s' → MemWf s') : MemWf (o.getD s) := by
  cases o with
  | none => exact h
  | some s' => exact ho s' rfl

theorem State.memWf_dismiss {s : State} (uid : Nat) (h : MemWf s) : MemWf (s.dismiss uid) := by
  have hf := State.memWf_filterOthers (fun t => t.uid != uid) h
  have hc : ∀ c : Prop, [Decidable c] → ∀ s : State, MemWf s →
      MemWf (if c then { s with cur := { s.cur with status := .gone } } else s) := by
    intro c _ s hs
    split
    exacts [hs.of_same rfl, hs]
  unfold State.dismiss
  split
  · exact h
  · dsimp only
    split
    · exact State.memWf_laneGrant _ (State.memWf_vacate _ _ (hc _ _ hf))
    · exact hc _ _ hf

theorem State.memWf_releaseAfter {s : State} (lid : Nat) (h : MemWf s) : MemWf (s.releaseAfter lid) :=
  memWf_foldl (fun _ _ hs => State.memWf_releaseReady _ hs) _ h

theorem State.memWf_endLaunch {s : State} (lid : Nat) (st : LState) (code cls : Nat) (h : MemWf s) :
    MemWf (s.endLaunch lid st code cls) := by
  unfold State.endLaunch
  extract_lets s1
  have h1 : MemWf s1 := h.of_same rfl
  split
  · exact h1
  · extract_lets s2 s3
    have h2 : MemWf s2 := memWf_getD h1 fun _ => State.memWf_of_writeScoreboard h1
    have h3 : MemWf s3 := memWf_getD h2 fun _ => State.memWf_of_writeLstate h2
    split
    next r s4 heq =>
    have h4 : MemWf s4 := by
      split at heq <;> cases heq
      exacts [h3.of_same rfl, h3]
    extract_lets s5 s6 s7
    have h5 : MemWf s5 := by
      dsimp only [s5]
      split
      exacts [State.memWf_completeEntry _ _ _ _ _ h4, h4]
    have h6 : MemWf s6 := by
      dsimp only [s6]
      split
      exacts [State.memWf_post _ _ _ _ _ h5, h5]
    have h7 : MemWf s7 := State.memWf_releaseAfter lid h6
    exact h7.of_same rfl

theorem State.memWf_kill {s : State} (lid code cls : Nat) (h : MemWf s) : MemWf (s.kill lid code cls) := by
  unfold State.kill
  split
  · exact h
  · split
    · exact h
    · extract_lets uids s1 idle s2 d0 d1 s3 s4 s5
      have h1 : MemWf s1 := memWf_foldl (fun _ j hs => State.memWf_freezeJob j hs) _ h
      have h3 : MemWf s3 := h1.of_same rfl
      have h4 : MemWf s4 := memWf_foldl (fun _ u hs => State.memWf_flushWc u true true hs) uids h3
      have h5 : MemWf s5 := memWf_foldl (fun _ u hs => State.memWf_dismiss u hs) uids h4
      split
      · exact h1.of_same rfl
      · exact State.memWf_endLaunch _ _ _ _ h5

theorem State.memWf_killFault {s : State} (lid cls : Nat) (h : MemWf s) : MemWf (s.killFault lid cls) :=
  State.memWf_kill _ _ _ h

theorem State.memWf_bumpLstate {s : State} (lid : Nat) (h : MemWf s) : MemWf (s.bumpLstate lid) := by
  unfold State.bumpLstate
  split
  · exact h
  · split
    · next heq => exact State.memWf_of_writeLstate h heq
    · split
      exacts [State.memWf_killFault _ _ h, h]

theorem State.memWf_releaseSuccs {s : State} (lid glin : Nat) (h : MemWf s) : MemWf (s.releaseSuccs lid glin) := by
  unfold State.releaseSuccs
  split
  · exact h
  · dsimp only
    split
    exacts [h.of_same rfl, h]

theorem State.memWf_retire {s : State} (lid glin : Nat) (h : MemWf s) : MemWf (s.retire lid glin) := by
  unfold State.retire
  extract_lets s1
  have h1 : MemWf s1 := h.of_same rfl
  split
  · exact h1
  · split
    · exact State.memWf_endLaunch _ _ _ _ h1
    · exact State.memWf_releaseSuccs _ _ (State.memWf_bumpLstate _ h1)

theorem State.memWf_barrierCheck {s : State} (lid glin : Nat) (h : MemWf s) : MemWf (s.barrierCheck lid glin) := by
  unfold State.barrierCheck
  extract_lets ts
  split
  · exact h
  · extract_lets low
    split
    · refine State.memWf_mapStrands h fun t ht => ?_
      split
      exacts [ht.of_same rfl, ht]
    · exact h

theorem State.memWf_of_preempt {s s' : State} {lid : Nat} {cause : Option Nat} (h : MemWf s)
    (hr : s.preempt lid cause = some s') : MemWf s' := by
  unfold State.preempt at hr
  split at hr
  · exact nomatch hr
  · split at hr
    · cases hr
      exact h
    · split at hr
      · exact nomatch hr
      · cases hr
        exact State.memWf_bumpLstate _ ((State.memWf_unitTouch _ _ h).of_same rfl)

end Sys2Proof.Machine
end

section
/-! PROOFS. The memories' canonical form: what an answer keeps, exceptions, streams, registers and data accesses. -/

namespace Sys2Proof.Machine

/-! ### Answers -/

/-- What a computation answers has a property. -/
def Gives {ε α : Type} (P : α → Prop) (r : Except ε α) : Prop := ∀ a, r = .ok a → P a

/-- What a computation answers has a property, and the machine on which its exception is taken is canonical. -/
def Keeps {α : Type} (P : α → Prop) : Res α → Prop
  | .ok a => P a
  | .error e => MemWf e.2

theorem Gives.ok {ε α : Type} {P : α → Prop} {a : α} (h : P a) : Gives P (.ok a : Except ε α) := by
  rintro _ ⟨⟩
  exact h

theorem Gives.error {ε α : Type} {P : α → Prop} (e : ε) : Gives P (.error e : Except ε α) := fun _ h => nomatch h

theorem Gives.bind {ε α β : Type} {Q : α → Prop} {P : β → Prop} {x : Except ε α} {f : α → Except ε β} (hx : Gives Q x)
    (hf : ∀ a, Q a → Gives P (f a)) : Gives P (x >>= f) := by
  cases x with
  | error e => exact Gives.error e
  | ok a => exact hf a (hx a rfl)

theorem Gives.trivial {ε α : Type} (r : Except ε α) : Gives (fun _ => True) r := fun _ _ => True.intro

theorem Keeps.ok {α : Type} {P : α → Prop} {a : α} (h : P a) : Keeps P (.ok a) := h

theorem Keeps.pure {α : Type} {P : α → Prop} {a : α} (h : P a) : Keeps P (Pure.pure a) := h

theorem Keeps.bind {α β : Type} {Q : α → Prop} {P : β → Prop} {x : Res α} {f : α → Res β} (hx : Keeps Q x)
    (hf : ∀ a, Q a → Keeps P (f a)) : Keeps P (x >>= f) := by
  cases x with
  | error e => exact hx
  | ok a => exact hf a hx

/-- An access's answer, or its exception on the machine as it stood. -/
theorem Keeps.lift {α : Type} {P : α → Prop} {s : State} {r : Except Exc α} (h : MemWf s) (hr : Gives P r) :
    Keeps P (lift s r) := by
  cases r with
  | error e => exact h
  | ok a => exact hr a rfl

theorem keeps_require {s : State} (c : Bool) (e : Exc) (h : MemWf s) : Keeps (fun _ => True) (require c e s) := by
  cases c
  exacts [h, True.intro]

/-! ### Exceptions (R41, R46, R271, R279) -/

theorem State.memWf_putCsrs {s : State} (c : Csrs) (h : MemWf s) : MemWf (s.putCsrs c) := h.of_same rfl

theorem State.memWf_trapS {s : State} (i : Bool) (cause : Nat) (tval : Word) (h : MemWf s) : MemWf (s.trapS i cause tval) :=
  h.of_same rfl

theorem State.memWf_trapM {s : State} (i : Bool) (cause : Nat) (tval : Word) (h : MemWf s) : MemWf (s.trapM i cause tval) :=
  h.of_same rfl

theorem State.memWf_preciseTrap {s : State} (cause : Nat) (tval : Word) (h : MemWf s) : MemWf (s.preciseTrap cause tval) := by
  unfold State.preciseTrap
  split
  exacts [State.memWf_trapS _ _ _ h, State.memWf_trapM _ _ _ h]

theorem State.memWf_stopAt {s : State} (cause cls : Nat) (pages : List (Nat × Nat × Nat)) (entry : Option BmEntry)
    (h : MemWf s) : MemWf (s.stopAt cause cls pages entry) := h.of_same rfl

theorem State.memWf_launchFault {s : State} (cls addr acc : Nat) (entry : Option BmEntry) (h : MemWf s) :
    MemWf (s.launchFault cls addr acc entry) := by
  unfold State.launchFault
  split
  · split <;> exact State.memWf_preciseTrap _ _ h
  · split
    · exact State.memWf_killFault _ _ h
    · exact State.memWf_stopAt _ _ _ _ h

theorem State.memWf_ask {s : State} (uid : Nat) (k : MoveKind) (h : MemWf s) : MemWf (s.ask uid k) :=
  State.memWf_updStrand _ (h.of_same rfl) fun _ ht => ht.of_same rfl

theorem State.memWf_classMissed {s : State} (cs : List Cls) (h : MemWf s) : MemWf (s.classMissed cs) := by
  unfold State.classMissed
  split
  · exact State.memWf_preciseTrap _ _ h
  · split
    · exact State.memWf_launchFault _ _ _ _ h
    · split
      · exact State.memWf_launchFault _ _ _ _ h
      · split
        · exact State.memWf_launchFault _ _ _ _ h
        · exact h.of_same rfl

theorem State.memWf_takeExc {s : State} (e : Exc) (h : MemWf s) : MemWf (s.takeExc e) := by
  have trap : ∀ (c : Prop) [Decidable c] (cause : Nat) (tval : Word) (cls k : Nat) (ps : List (Nat × Nat × Nat)),
      MemWf (if c then s.preciseTrap cause tval else s.stopAt cls k ps none) := by
    intro c _ cause tval cls k ps
    split
    exacts [State.memWf_preciseTrap _ _ h, State.memWf_stopAt _ _ _ _ h]
  cases e with
  | wait w => exact h.of_same rfl
  | classMiss cs => exact State.memWf_classMissed cs h
  | launch cls addr acc entry =>
    exact State.memWf_launchFault _ _ _ _ ((State.faultWalk_caches _ _ _ _).memWf h)
  | illegal => exact trap _ _ _ _ _ _
  | ecall => exact trap _ _ _ _ _ _
  | ebreak => exact trap _ _ _ _ _ _
  | access cause addr => exact State.memWf_preciseTrap _ _ ((State.tableAsked_caches _ _).memWf h)
  | trans pages entry =>
    have h1 := State.memWf_walked s.cur.ctx (pages.map (·.1)) h
    unfold State.takeExc
    dsimp only
    split
    · split
      exacts [State.memWf_preciseTrap _ _ h1, h1]
    · exact State.memWf_stopAt _ _ _ _ h1

/-- An outcome leads to no machine but a canonical one. -/
def Leads (o : Host.Outcome State Fault Refusal) : Prop := ∀ s, o = .next s → MemWf s

theorem Leads.next {s : State} (h : MemWf s) : Leads (.next s) := by
  rintro _ ⟨⟩
  exact h

theorem leads_finish {r : Res State} (h : Keeps MemWf r) : Leads (finish r) := by
  cases r with
  | ok s => exact Leads.next h
  | error e => exact Leads.next (State.memWf_takeExc e.1 h)

theorem State.keeps_sret {s : State} (h : MemWf s) : Keeps MemWf s.sret := by
  unfold State.sret
  dsimp only
  split
  exacts [h, h.of_same rfl]

theorem State.keeps_mret {s : State} (h : MemWf s) : Keeps MemWf s.mret := by
  unfold State.mret
  dsimp only
  split
  exacts [h, h.of_same rfl]

/-! ### The running thread and its replies (R38, R111) -/

theorem Strand.memWf_putX {t : Strand} (r : Reg) (v : Word) (h : t.MemWf) : (t.putX r v).MemWf := by
  unfold Strand.putX
  split
  · exact Strand.memWf_setX r v h
  · split
    exacts [h, h.of_same rfl]

theorem Strand.memWf_putPc {t : Strand} (a : Word) (h : t.MemWf) : (t.putPc a).MemWf := by
  unfold Strand.putPc
  split <;> exact h.of_same rfl

theorem Strand.memWf_adv {t : Strand} (n : Nat) (h : t.MemWf) : (t.adv n).MemWf := Strand.memWf_putPc _ h

theorem Strand.memWf_deliverReply {t : Strand} (r : Reply) (h : t.MemWf) : (t.deliverReply r).MemWf := by
  unfold Strand.deliverReply
  split
  exacts [h.of_same rfl, Strand.memWf_setX _ _ h]

theorem Strand.memWf_reply1 {t : Strand} (h : t.MemWf) : t.reply1.MemWf := by
  unfold Strand.reply1
  split
  · exact h
  · exact (Strand.memWf_deliverReply _ h).of_same rfl

theorem Strand.memWf_pushReply {t : Strand} (r : Reply) (h : t.MemWf) : (t.pushReply r).MemWf := by
  unfold Strand.pushReply
  dsimp only
  split
  exacts [(Strand.memWf_reply1 h).of_same rfl, h.of_same rfl]

theorem Strand.memWf_drained {t : Strand} (h : t.MemWf) : t.drained.MemWf := (Strand.memWf_replyAll h).of_same rfl

theorem State.memWf_delivered {s : State} (h : MemWf s) : MemWf (s.onCur Strand.replyAll) :=
  State.memWf_onCur h (Strand.memWf_replyAll h.cur)

theorem State.keeps_classGate {s : State} (cs : List Cls) (h : MemWf s) : Keeps MemWf (s.classGate cs) := by
  unfold State.classGate
  split
  · exact h
  · split <;> exact h

theorem State.keeps_scalarGate {s : State} (cs : List Cls) (h : MemWf s) : Keeps MemWf (s.scalarGate cs) :=
  State.keeps_classGate cs (State.memWf_delivered h)

theorem State.keeps_replyGate {s : State} (cs : List Cls) (ks : List MReg) (h : MemWf s) : Keeps MemWf (s.replyGate cs ks) :=
  (State.keeps_classGate cs h).bind fun _ h1 => (keeps_require _ _ h1).bind fun _ _ => h1

theorem State.keeps_vectorGate {s : State} (cs : List Cls) (ks : List MReg) (h : MemWf s) :
    Keeps MemWf (s.vectorGate cs ks) := State.keeps_replyGate cs ks (State.memWf_delivered h)

theorem State.memWf_vectorDone {s : State} (n : Nat) (h : MemWf s) : MemWf (s.vectorDone n) :=
  State.memWf_onCur h ((Strand.memWf_adv n h.cur).of_same rfl)

theorem State.memWf_scalarDone {s : State} (n : Nat) (h : MemWf s) : MemWf (s.scalarDone n) :=
  State.memWf_onCur h (Strand.memWf_adv n h.cur)

/-! ### Core-local storage and streams (R146, R152 to R163) -/

theorem Strand.MemWf.loc {t : Strand} (h : t.MemWf) (space : Nat) : (t.loc space).wf = true := by
  unfold Strand.loc
  split
  exacts [h.scratch_wf, h.act_wf, h.acc_wf]

theorem Strand.memWf_putLoc {t : Strand} {m : Mem} (space : Nat) (h : t.MemWf) (hm : m.wf = true) : (t.putLoc space m).MemWf := by
  obtain ⟨hacc, hact, hscratch⟩ := h
  unfold Strand.putLoc
  split
  exacts [⟨hacc, hact, hm⟩, ⟨hacc, hm, hscratch⟩, ⟨hm, hact, hscratch⟩]

/-- The rule for a loop that changes a store of bytes. -/
theorem Mem.wf_foldl {α : Type} {f : Mem → α → Mem} (hf : ∀ (m : Mem) (a : α), m.wf = true → (f m a).wf = true) :
    ∀ (l : List α) {m : Mem}, m.wf = true → (l.foldl f m).wf = true
  | [], _, h => h
  | a :: l, m, h => Mem.wf_foldl hf l (hf m a h)

/-- The rule for a loop that changes a strand. -/
theorem Strand.memWf_foldl {α : Type} {f : Strand → α → Strand} (hf : ∀ (t : Strand) (a : α), t.MemWf → (f t a).MemWf) :
    ∀ (l : List α) {t : Strand}, t.MemWf → (l.foldl f t).MemWf
  | [], _, h => h
  | a :: l, t, h => Strand.memWf_foldl hf l (hf t a h)

theorem Strand.memWf_putStream {t : Strand} (q : QReg) (o : Option Stream) (h : t.MemWf) : (t.putStream q o).MemWf := h.of_same rfl

theorem Strand.memWf_fillSlot {t : Strand} (k : Stream) (p : Nat) (es : List Nat) (h : t.MemWf) : (t.fillSlot k p es).MemWf :=
  Strand.memWf_putLoc _ h (Mem.wf_foldl (fun _ _ hm => Mem.wf_writeNat _ _ _ hm) _ (h.loc _))

theorem Strand.memWf_addSlot {t : Strand} (q : QReg) (k : Stream) (es : List Nat) (h : t.MemWf) : (t.addSlot q k es).MemWf :=
  (Strand.memWf_fillSlot k k.next es h).of_same rfl

theorem Strand.memWf_pop {t : Strand} (n : Nat) (e : Reg × QReg × Stream) (h : t.MemWf) : (t.pop n e).MemWf := by
  unfold Strand.pop
  dsimp only
  split
  exacts [h, h.of_same rfl]

theorem State.memWf_reserve {s : State} (q : QReg) (k : Stream) (f : Nat → Nat) (h : MemWf s) : MemWf (s.reserve q k f) := by
  unfold State.reserve
  split
  · split
    · refine State.memWf_updStrand _ h fun t ht => ?_
      split
      exacts [ht.of_same rfl, ht]
    · exact h
  · exact h.of_same rfl

theorem State.keeps_streamIn {s : State} (reads writes : List Reg) (h : MemWf s) : Keeps MemWf (s.streamIn reads writes) := by
  unfold State.streamIn
  extract_lets t ins outs vl s1
  have h1 : MemWf s1 :=
    State.memWf_onCur h (Strand.memWf_foldl (fun _ e ht => Strand.memWf_pop vl e ht) ins (h.cur.of_same rfl))
  split
  · exact h
  · split
    · exact h
    · split
      · exact h
      · split
        · exact h
        · split
          · exact h
          · split
            · exact h
            · show MemWf (if vl = 0 then s1 else _)
              split
              · exact h1
              · exact memWf_foldl (fun _ _ hs => State.memWf_reserve _ _ _ hs) outs h1

theorem State.memWf_append {s : State} (e : Reg × QReg) (h : MemWf s) : MemWf (s.append e) := by
  unfold State.append
  split
  · exact h
  · split
    · exact State.memWf_reserve _ _ _ h
    · dsimp only
      split
      · split
        · refine State.memWf_updStrand _ h fun t ht => ?_
          split
          exacts [ht.of_same rfl, ht]
        · exact h
      · exact State.memWf_onCur h (Strand.memWf_addSlot _ _ _ h.cur)

theorem State.memWf_arriveStrip {s : State} (uid : Nat) (q : QReg) (h : MemWf s) : MemWf (s.arriveStrip uid q) := by
  refine State.memWf_updStrand _ h fun t ht => ?_
  split
  · exact ht
  · split
    · exact ht
    · exact ht.of_same rfl
    · split
      exacts [ht, Strand.memWf_addSlot _ _ _ ht]

theorem State.memWf_landStrips {s : State} (t : Strand) (h : MemWf s) : MemWf (s.landStrips t) := by
  refine memWf_foldl (fun s q hs => ?_) _ h
  split
  · split
    · exact memWf_foldl (fun _ _ hs => State.memWf_arriveStrip _ _ hs) _ hs
    · exact hs
  · exact hs

theorem State.memWf_streamOut {s : State} (writes : List Reg) (h : MemWf s) : MemWf (s.streamOut writes) := by
  unfold State.streamOut
  split
  · exact h
  · exact memWf_foldl (fun _ _ hs => State.memWf_append _ hs) _ (State.memWf_flushWc _ _ _ h)

theorem State.keeps_vectorOp {s : State} {body : Strand → Strand} (cs : List Cls) (ks : List MReg) (reads writes : List Reg)
    (ok : Strand → Bool) (h : MemWf s) (hb : ∀ t : Strand, t.MemWf → (body t).MemWf) :
    Keeps MemWf (s.vectorOp cs ks reads writes ok body) :=
  (State.keeps_vectorGate cs ks h).bind fun _ h1 => (keeps_require _ _ h1).bind fun _ _ =>
    (State.keeps_streamIn reads writes h1).bind fun _ h2 =>
      State.memWf_vectorDone _ (State.memWf_streamOut writes (State.memWf_onCur h2 (hb _ h2.cur)))

end Sys2Proof.Machine
end

section
/-! PROOFS. The memories' canonical form: the registers of the shared blocks and the data accesses of a strand. -/

namespace Sys2Proof.Machine

/-! ### Registers (R170 to R175, R233, R251 to R260, R299 to R318) -/

theorem State.memWf_of_cancelLaunch {s s' : State} {ctx lid : Nat} (h : MemWf s) (hr : s.cancelLaunch ctx lid = some s') :
    MemWf s' := by
  unfold State.cancelLaunch at hr
  split at hr
  · cases hr
    exact State.memWf_kill _ _ _ h
  · exact nomatch hr

theorem State.memWf_preemptStart {s : State} (lid : Nat) (h : MemWf s) : MemWf (s.preemptStart lid) :=
  State.memWf_orWait _ _ h fun _ hs => memWf_getD hs fun _ => State.memWf_of_preempt hs

theorem State.memWf_of_resumeLaunch {s s' : State} {ctx lid : Nat} (h : MemWf s) (hr : s.resumeLaunch ctx lid = some s') :
    MemWf s' := by
  unfold State.resumeLaunch at hr
  split at hr
  · cases hr
    split
    exacts [h.of_same rfl, h]
  · exact nomatch hr

theorem State.memWf_putQslot {s : State} (q : QSlot) (h : MemWf s) : MemWf (s.putQslot q) := h.of_same rfl

theorem State.memWf_notifyQueue {s : State} (q : QSlot) (u : UQueue) (n : Nat) (h : MemWf s) : MemWf (s.notifyQueue q u n) := by
  unfold State.notifyQueue
  split
  · exact h
  · split
    · exact h.of_same rfl
    · exact State.memWf_updUq _ _ (State.memWf_putQslot _ h)

theorem State.memWf_notify {s : State} (slot n : Nat) (h : MemWf s) : MemWf (s.notify slot n) := by
  unfold State.notify
  dsimp only
  split
  · exact h
  · split
    · exact h
    · split
      · exact h
      · refine State.memWf_orWait _ _ h fun s hs => ?_
        have ht (a k : Nat) : MemWf (s.unitTouch a k) := State.memWf_unitTouch _ _ hs
        split
        · exact State.memWf_notifyQueue _ _ _ hs
        · split
          exacts [State.memWf_updUq _ _ (ht _ _), ht _ _]

theorem State.memWf_attach {s : State} (h : MemWf s) : MemWf s.attach := by
  refine State.memWf_orWait _ _ h fun s hs => ?_
  extract_lets hc s1 s2
  have h1 : MemWf s1 := hs.of_same rfl
  have h2 : MemWf s2 := memWf_foldl (fun _ _ hs => State.memWf_completeHeld _ hs) _ h1
  exact memWf_foldl (fun _ _ hs => State.memWf_updUq _ _ hs) _ h2

theorem State.memWf_dropHostLines {s : State} (h : MemWf s) : MemWf s.dropHostLines :=
  memWf_of_parts ⟨h.space .dev, Mem.wf_foldl (fun _ _ hm => Mem.wf_write _ _ hm) _ (h.space .host), h.space .peer⟩ h.cur h.others

theorem State.memWf_hostLost {s : State} (h : MemWf s) : MemWf s.hostLost := by
  unfold State.hostLost
  extract_lets s1 s2 hapol mapped hc s3 s4 s5 doomed
  have h1 : MemWf s1 := h.of_same rfl
  have h2 : MemWf s2 := memWf_foldl (fun _ _ hs => State.memWf_unitTouch _ _ hs) _ h1
  have h3 : MemWf s3 := h2.of_same rfl
  have h4 : MemWf s4 := memWf_foldl (fun _ _ hs => State.memWf_updUq _ _ hs) _ h3
  have h5 : MemWf s5 := State.memWf_dropHostLines h4
  exact memWf_ite h1 (memWf_foldl (fun _ _ hs => State.memWf_killFault _ _ hs) doomed h5)

theorem State.memWf_svcNotify {s : State} (ctx slip : Nat) (h : MemWf s) : MemWf (s.svcNotify ctx slip) := by
  refine State.memWf_mapStrands h fun t ht => ?_
  split
  exacts [ht.of_same rfl, ht]

theorem State.memWf_refuseHostWrite {s : State} (dla : Nat) (h : MemWf s) : MemWf (s.refuseHostWrite dla) := h.of_same rfl

theorem State.memWf_lockWrite {s : State} (lock : Bool) (h : MemWf s) : MemWf (s.lockWrite lock) := by
  unfold State.lockWrite
  split
  exacts [h, h.of_same rfl]

theorem State.memWf_capWrite {s : State} (cap : Nat) (h : MemWf s) : MemWf (s.capWrite cap) := h.of_same rfl

theorem State.memWf_sweepOver {s : State} (h : MemWf s) : MemWf s.sweepOver := h.of_same rfl

theorem State.memWf_irmStart {s : State} (fstk share : Nat) (h : MemWf s) : MemWf (s.irmStart fstk share) := by
  unfold State.irmStart
  dsimp only
  split
  · exact h.of_same rfl
  · split <;> exact h.of_same rfl

theorem State.memWf_snapStart {s : State} (h : MemWf s) : MemWf s.snapStart := h.of_same rfl

theorem State.memWf_kctlWrite {s : State} (n : Nat) (v : Word) (h : MemWf s) : MemWf (s.kctlWrite n v) := by
  unfold State.kctlWrite
  split
  exacts [h, h.of_same rfl]

theorem State.memWf_nonceWrite {s : State} (n : Nat) (v : Word) (h : MemWf s) : MemWf (s.nonceWrite n v) := by
  unfold State.nonceWrite
  dsimp only
  split
  · exact h
  · split
    exacts [h, h.of_same rfl]

theorem State.memWf_tlbRequest {s : State} (ctx : Nat) (page : Option Nat) (h : MemWf s) : MemWf (s.tlbRequest ctx page) :=
  h.of_same rfl

theorem State.lsplitWrite_caches (s : State) (id : Nat) (csz : BitVec 2) : s.SameButCaches (s.lsplitWrite id csz) := by
  unfold State.lsplitWrite
  split
  exacts [s.updCore_caches _ _, .refl s]

theorem State.vpoolWrite_caches (s : State) (id : Nat) (v : Word) : s.SameButCaches (s.vpoolWrite id v) := by
  unfold State.vpoolWrite
  split
  exacts [s.updCore_caches _ _, .refl s]

theorem State.wmaskWrite_caches (s : State) (id n : Nat) (v : Word) : s.SameButCaches (s.wmaskWrite id n v) := by
  unfold State.wmaskWrite
  split
  exacts [s.updCore_caches _ _, .refl s]

theorem State.mixctlWrite_caches (s : State) (id : Nat) (v : Word) : s.SameButCaches (s.mixctlWrite id v) := by
  unfold State.mixctlWrite
  split
  exacts [s.updCore_caches _ _, .refl s]

theorem State.coreWrite_caches (s : State) (id off : Nat) (v : Word) : s.SameButCaches (s.coreWrite id off v) := by
  unfold State.coreWrite
  split
  · exact s.lsplitWrite_caches _ _
  · split
    · exact s.vpoolWrite_caches _ _
    · split
      · exact s.wmaskWrite_caches _ _ _
      · split
        exacts [s.mixctlWrite_caches _ _, .refl s]

theorem memWf_hostRead {s : State} (off : Nat) (h : MemWf s) : MemWf (hostRead s off).2 := by
  unfold hostRead
  repeat' split
  all_goals exact h.of_same rfl

theorem State.memWf_hcmd {s : State} (op ctx : Nat) (h : MemWf s) : MemWf (s.hcmd op ctx) := by
  unfold State.hcmd
  refine memWf_ite (memWf_getD h fun _ => State.memWf_of_cancelLaunch h) (memWf_ite ?_ (memWf_ite
    (memWf_getD h fun _ => State.memWf_of_resumeLaunch h) h))
  split
  exacts [State.memWf_preemptStart _ h, h]

theorem memWf_hostWrite {s : State} (off : Nat) (v : Word) (h : MemWf s) : MemWf (hostWrite s off v) := by
  have hl : MemWf (if v.getLsbD 0 then s.hostLost else s) := memWf_ite (State.memWf_hostLost h) h
  unfold hostWrite
  exact memWf_ite (memWf_ite (State.memWf_attach hl) hl) <| memWf_ite (State.memWf_svcNotify _ _ h) <|
    memWf_ite (h.of_same rfl) <| memWf_ite (State.memWf_hcmd _ _ h) h

theorem memWf_memWrite {s : State} (off : Nat) (v : Word) (h : MemWf s) : MemWf (memWrite s off v) := by
  unfold memWrite
  exact memWf_ite (State.memWf_capWrite _ h) <| memWf_ite (h.of_same rfl) <| memWf_ite (memWf_ite (State.memWf_irmStart _ _ h) h) <|
    memWf_ite (h.of_same rfl) <| memWf_ite (memWf_ite (State.memWf_snapStart (h.of_same rfl)) (h.of_same rfl)) h

theorem memWf_platRead {s : State} (off : Nat) (h : MemWf s) : MemWf (platRead s off).2 := by
  unfold platRead
  dsimp only
  repeat' split
  all_goals exact h.of_same rfl

theorem memWf_platWrite {s : State} (off : Nat) (v : Word) (h : MemWf s) : MemWf (platWrite s off v) := by
  unfold platWrite
  exact memWf_ite (h.of_same rfl) <| memWf_ite (h.of_same rfl) <| memWf_ite (h.of_same rfl) <| memWf_ite (State.memWf_lockWrite _ h) <|
    memWf_ite (h.of_same rfl) <| memWf_ite (h.of_same rfl) <| memWf_ite (h.of_same rfl) h

theorem State.memWf_blockRead {s : State} (via : Via) (off n : Nat) (h : MemWf s) : MemWf (s.blockRead via off n).2 := by
  have ite {c : Prop} [Decidable c] {a b : Word × State} (ha : MemWf a.2) (hb : MemWf b.2) : MemWf (if c then a else b).2 :=
    of_ite (fun r : Word × State => MemWf r.2) ha hb
  unfold State.blockRead
  exact ite h <| ite (ite h (ite h h)) <| ite h <| ite h <| ite (memWf_hostRead _ h) <| ite h <| ite h <|
    ite (memWf_platRead _ h) <| ite h h

theorem State.memWf_blockWrite {s : State} (via : Via) (off n : Nat) (v : Word) (h : MemWf s) :
    MemWf (s.blockWrite via off n v) := by
  unfold State.blockWrite
  exact memWf_ite h <| memWf_ite h <| memWf_ite (memWf_ite (State.memWf_notify _ _ h) h) <| memWf_ite (memWf_hostWrite _ _ h) <|
    memWf_ite (memWf_ite (State.memWf_tlbRequest _ _ h) h) <| memWf_ite (memWf_memWrite _ _ h) <|
    memWf_ite (memWf_platWrite _ _ h) <| memWf_ite (memWf_ite (State.memWf_kctlWrite _ _ h) (State.memWf_nonceWrite _ _ h))
    ((s.coreWrite_caches _ _ _).memWf h)

/-! ### Data accesses (R184, R264 to R270, R307, R310) -/

theorem State.gives_placesIn {s : State} (ctx : Nat) (a : Int) (n : Nat) (acc : Acc) (h : MemWf s) :
    Gives (fun r => MemWf r.2) (s.placesIn ctx a n acc) := by
  have ht := State.memWf_translate ctx (unsignedOf 55 a) n acc h
  unfold State.placesIn
  split
  · exact Gives.error _
  · split
    · next heq =>
      rw [heq] at ht
      exact Gives.ok ht
    · split <;> exact Gives.error _
    · exact Gives.error _

theorem State.gives_places {s : State} (a : Int) (n : Nat) (acc : Acc) (h : MemWf s) :
    Gives (fun r => MemWf r.2) (s.places a n acc) := State.gives_placesIn _ a n acc h

theorem Strand.memWf_putWc {t : Strand} (vec : Bool) (bs : List WcBuf) (h : t.MemWf) : (t.putWc vec bs).MemWf := by
  unfold Strand.putWc
  split <;> exact h.of_same rfl

theorem State.memWf_putWc {s : State} (vec : Bool) (bs : List WcBuf) (h : MemWf s) : MemWf (s.onCur fun t => t.putWc vec bs) :=
  State.memWf_onCur h (Strand.memWf_putWc vec bs h.cur)

theorem State.memWf_combine {s : State} (vec : Bool) (sp : Space) (key a : Nat) (v : Byte) (h : MemWf s) :
    MemWf (s.combine vec sp key a v) := by
  unfold State.combine
  dsimp only
  split
  · exact memWf_ite (State.memWf_putWc _ _ (State.memWf_flushBuf _ _ _ h)) (State.memWf_putWc _ _ h)
  · split
    · split
      exacts [State.memWf_putWc _ _ (State.memWf_flushBuf _ _ _ h), h]
    · exact State.memWf_putWc _ _ h

theorem State.memWf_flushCur {s : State} (scalar vector : Bool) (h : MemWf s) : MemWf (s.flushCur scalar vector) :=
  State.memWf_flushWc _ _ _ (memWf_ite (State.memWf_landStrips _ h) h)

theorem State.keeps_releaseCur {s : State} (scalar vector : Bool) (h : MemWf s) : Keeps MemWf (s.releaseCur scalar vector) :=
  of_ite (Keeps MemWf) (State.memWf_flushCur _ _ h) (State.memWf_flushCur _ _ h)

theorem State.memWf_touch {s : State} (vec : Bool) (p : Phys × Nat) (write : Bool) (h : MemWf s) : MemWf (s.touch vec p write) :=
  (s.touch_caches vec p write).memWf h

theorem State.gives_loadMem {s : State} (vec : Bool) (a : Int) (n : Nat) (acc : Acc) (h : MemWf s) :
    Gives (fun r => MemWf r.2) (s.loadMem vec a n acc) := by
  refine (State.gives_places a n acc h).bind fun r hr => ?_
  dsimp only
  split
  · exact Gives.error _
  · exact Gives.ok (memWf_foldl (fun _ p hs => State.memWf_touch vec p false hs) _ hr)

theorem State.memWf_storePiece {s : State} (vec : Bool) (p : Phys × Nat) (bs : List Byte) (h : MemWf s) :
    MemWf (s.storePiece vec p bs) := by
  unfold State.storePiece
  exact memWf_ite (memWf_foldl (fun _ _ hs => State.memWf_combine _ _ _ _ _ hs) _ h)
    (State.memWf_writePhys _ _ _ (State.memWf_touch vec p true h))

theorem State.memWf_storeList (vec : Bool) : ∀ (ps : List (Phys × Nat)) (bs : List Byte) {s : State}, MemWf s →
    MemWf (s.storeList vec ps bs)
  | [], _, _, h => h
  | p :: ps, bs, _, h => State.memWf_storeList vec ps (bs.drop p.2) (State.memWf_storePiece vec p _ h)

theorem State.gives_storeMem {s : State} (vec : Bool) (a : Int) (n v : Nat) (acc : Acc) (h : MemWf s) :
    Gives MemWf (s.storeMem vec a n v acc) :=
  (State.gives_places a n acc h).bind fun _ hr => Gives.ok (State.memWf_storeList vec _ _ hr)

theorem State.memWf_touchAtomic {s : State} (vec : Bool) (p : Phys × Nat) (h : MemWf s) : MemWf (s.touchAtomic vec p) :=
  (s.touchAtomic_caches vec p).memWf h

theorem State.gives_atomicMem {s : State} (vec : Bool) (a : Int) (n : Nat) (f : Nat → Option Nat) (h : MemWf s) :
    Gives (fun r => MemWf r.2) (s.atomicMem vec a n f) := by
  refine (State.gives_places a n .atomic (State.memWf_flushWc _ _ _ h)).bind fun r hr => ?_
  dsimp only
  split
  · exact Gives.error _
  · split
    · exact Gives.ok hr
    · have ht {p : Phys × Nat} := State.memWf_touchAtomic vec p hr
      split
      exacts [Gives.ok (State.memWf_writePhys _ _ _ ht), Gives.ok ht]

theorem State.memWf_tablesTouch {s : State} (ps : List (Phys × Nat)) (h : MemWf s) : MemWf (s.tablesTouch ps) :=
  memWf_foldl (fun s _ hs => (s.tableTouch_caches _).memWf hs) ps h

/-- A Bare load above the device logical addresses reads a block (R310). -/
theorem State.bareLoad_of_block {s : State} {a : Word} (n : Nat) (h : blockBase ≤ a.toNat) :
    ∃ k, s.bareLoad a n = .ok ((s.blockRead s.via k n).1.toNat, (s.blockRead s.via k n).2) := ⟨_, if_pos h⟩

theorem State.gives_bareLoad {s : State} (a : Word) (n : Nat) (h : MemWf s) : Gives (fun r => MemWf r.2) (s.bareLoad a n) := by
  by_cases hb : blockBase ≤ a.toNat
  · obtain ⟨k, hk⟩ := State.bareLoad_of_block (s := s) n hb
    rw [hk]
    exact Gives.ok (State.memWf_blockRead _ _ _ h)
  · rw [State.bareLoad, if_neg hb]
    split
    · exact Gives.error _
    · split
      · exact Gives.error _
      · split
        · exact Gives.error _
        · exact Gives.ok (memWf_foldl (fun _ p hs => State.memWf_touch false p false hs) _ (State.memWf_tablesTouch _ h))

theorem State.gives_bareStore {s : State} (a : Word) (n v : Nat) (h : MemWf s) : Gives MemWf (s.bareStore a n v) := by
  unfold State.bareStore
  split
  · exact Gives.ok (State.memWf_blockWrite s.via (a.toNat - blockBase) n _ h)
  · split
    · exact Gives.error _
    · exact (Gives.trivial _).bind fun _ _ => Gives.ok (State.memWf_storeList _ _ _ (State.memWf_tablesTouch _ h))

theorem State.memWf_blockAtomic {s : State} (off n : Nat) (f : Nat → Option Nat) (h : MemWf s) :
    MemWf (s.blockAtomic off n f).2 := by
  have hr := State.memWf_blockRead s.via off n h
  unfold State.blockAtomic
  dsimp only
  split
  exacts [State.memWf_blockWrite _ _ _ _ hr, hr]

theorem State.gives_bareAtomic {s : State} (a : Word) (n : Nat) (f : Nat → Option Nat) (h : MemWf s) :
    Gives (fun r => MemWf r.2) (s.bareAtomic a n f) := by
  unfold State.bareAtomic
  split
  · exact Gives.ok (State.memWf_blockAtomic (a.toNat - blockBase) n f h)
  · split
    · exact Gives.error _
    · next ps _ =>
      have ht := State.memWf_tablesTouch ps h
      refine (Gives.trivial _).bind fun _ _ => ?_
      dsimp only
      split
      · exact Gives.error _
      · split
        · exact Gives.ok (State.memWf_storeList _ _ _ ht)
        · exact Gives.ok (memWf_foldl (fun _ p hs => State.memWf_touch false p true hs) _ ht)

theorem State.gives_load {s : State} (a : Word) (n : Nat) (h : MemWf s) : Gives (fun r => MemWf r.2) (s.load a n) :=
  of_ite (Gives _) (State.gives_bareLoad _ _ h) (State.gives_loadMem _ _ _ _ h)

theorem State.gives_store {s : State} (a : Word) (n v : Nat) (h : MemWf s) : Gives MemWf (s.store a n v) :=
  of_ite (Gives _) (State.gives_bareStore _ _ _ h) (State.gives_storeMem _ _ _ _ _ h)

theorem State.gives_atomic {s : State} (a : Word) (n : Nat) (f : Nat → Option Nat) (h : MemWf s) :
    Gives (fun r => MemWf r.2) (s.atomic a n f) :=
  of_ite (Gives _) (State.gives_bareAtomic _ _ _ h) (State.gives_atomicMem _ _ _ _ h)

theorem State.gives_fetchParcel {s : State} (pc : Word) (h : MemWf s) : Gives (fun r => MemWf r.2) (s.fetchParcel pc) := by
  unfold State.fetchParcel
  split
  · split
    · exact Gives.ok h
    · split
      · exact Gives.error _
      · split
        · exact Gives.error _
        · split
          exacts [Gives.error _, Gives.ok (State.memWf_tablesTouch _ h)]
  · refine (State.gives_places _ _ _ h).bind fun r hr => ?_
    dsimp only
    split
    exacts [Gives.error _, Gives.ok hr]

theorem State.gives_fetchParcels : ∀ (n : Nat) {s : State} (pc : Word), MemWf s →
    Gives (fun r => MemWf r.2) (s.fetchParcels pc n)
  | 0, _, _, h => Gives.ok h
  | n + 1, _, pc, h => (State.gives_fetchParcel pc h).bind fun _ h1 =>
      (State.gives_fetchParcels n (pc + 2) h1).bind fun _ h2 => Gives.ok h2

end Sys2Proof.Machine
end

section
/-! PROOFS. The memories' canonical form: vector memory accesses, streams and the array. -/

namespace Sys2Proof.Machine

/-! ### Loops over answers -/

theorem Gives.map {ε α β : Type} {Q : α → Prop} {P : β → Prop} {x : Except ε α} {f : α → β} (hx : Gives Q x)
    (hf : ∀ a, Q a → P (f a)) : Gives P (x.map f) := by
  cases x with
  | error e => exact Gives.error e
  | ok a => exact Gives.ok (hf a (hx a rfl))

theorem Gives.foldl {ε α β : Type} {P : β → Prop} {f : Except ε β → α → Except ε β}
    (hf : ∀ (r : Except ε β) (a : α), Gives P r → Gives P (f r a)) : ∀ (l : List α) {r : Except ε β}, Gives P r →
      Gives P (l.foldl f r)
  | [], _, h => h
  | a :: l, r, h => Gives.foldl hf l (hf r a h)

/-! ### Vector loads and stores (R139 to R147) -/

theorem State.gives_vmemAccess {s : State} (v : VMem) (a : Int) (wb i : Nat) (h : MemWf s) :
    Gives MemWf (s.vmemAccess v a wb i) := by
  unfold State.vmemAccess
  split
  · exact (State.gives_loadMem _ _ _ _ h).bind fun r hr => Gives.ok (hr.of_same rfl)
  · exact (State.gives_storeMem _ _ _ _ _ h).bind fun r hr => Gives.ok (hr.of_same rfl)

theorem State.gives_vmemElem {s : State} (v : VMem) (env : VEnv) (st : Stops) (i : Nat) (h : MemWf s) :
    Gives (fun r => MemWf r.1) (s.vmemElem v env st i) := by
  unfold State.vmemElem
  dsimp only
  split
  · exact Gives.ok h
  · split
    · next heq => exact Gives.ok (State.gives_vmemAccess _ _ _ _ h _ heq)
    · exact Gives.ok h
    · exact Gives.error _

/-- Elements one after another leave a canonical machine, whether they all are performed or the launch ends. -/
theorem State.memWf_vmemGo (v : VMem) (env : VEnv) : ∀ (is : List Nat) {s : State} (st : Stops), MemWf s →
    match State.vmemGo v env is s st with
    | .ok r => MemWf r.1
    | .error e => MemWf e.2.1
  | [], _, _, h => h
  | i :: is, s, st, h => by
    have he := State.gives_vmemElem v env st i h
    unfold State.vmemGo
    cases hr : s.vmemElem v env st i with
    | ok r => exact State.memWf_vmemGo v env is r.2 (he r hr)
    | error e => exact h

theorem Strand.memWf_putK {t : Strand} (kd : MReg) (w : KReg) (h : t.MemWf) : (t.putK kd w).MemWf := h.of_same rfl

theorem State.memWf_elemWalk {s : State} (v : VMem) (env : VEnv) (i : Nat) (h : MemWf s) : MemWf (s.elemWalk v env i) := by
  unfold State.elemWalk
  dsimp only
  split
  · exact State.memWf_walked _ _ h
  · exact (s.faultWalk_caches _ _ _).memWf h
  · exact h

theorem State.keeps_trimmed {s : State} (v : VMem) (env : VEnv) (is : List Nat) (f : Nat) (h : MemWf s) :
    Keeps MemWf (s.trimmed v env is f) := by
  have hg := State.memWf_vmemGo v env (is.filter (· < f)) { pending := [], pages := [] } h
  unfold State.trimmed
  cases hr : State.vmemGo v env (is.filter (· < f)) s { pending := [], pages := [] } with
  | error e =>
    rw [hr] at hg
    exact hg
  | ok r =>
    rw [hr] at hg
    have hw := State.memWf_elemWalk v env f hg
    exact State.memWf_onCur hw (hw.cur.of_same rfl)

theorem State.keeps_vmemBody {s : State} (v : VMem) (env : VEnv) (ipc : Word) (h : MemWf s) :
    Keeps MemWf (s.vmemBody v env ipc) := by
  refine (keeps_require _ _ h).bind fun _ _ => ?_
  extract_lets s1 rng
  have h1 : MemWf s1 := memWf_ite (h.of_same rfl) h
  have hg := State.memWf_vmemGo v env (s.cur.envActives env v.vm) { pending := [], pages := [] } h1
  split
  · next heq =>
    rw [heq] at hg
    exact hg.of_same rfl
  · next heq =>
    rw [heq] at hg
    exact hg
  · next heq =>
    rw [heq] at hg
    exact of_ite (Keeps MemWf) (hg.of_same rfl) (hg.of_same rfl)

theorem State.keeps_vmemRun {s : State} (v : VMem) (env : VEnv) (ipc : Word) (h : MemWf s) :
    Keeps MemWf (s.vmemRun v env ipc) := by
  unfold State.vmemRun
  split
  · exact of_ite (Keeps MemWf) (State.keeps_trimmed _ _ _ _ (h.of_same rfl)) (State.keeps_vmemBody _ _ _ h)
  · exact State.keeps_vmemBody _ _ _ h

theorem State.keeps_memOp {s : State} {env : Strand → VEnv} {body : State → VEnv → Word → Res State} (i : Instr) (cs : List Cls)
    (ks : List MReg) (reads writes : List Reg) (ok : Strand → Bool) (h : MemWf s)
    (hb : ∀ (s : State) (e : VEnv) (ipc : Word), MemWf s → Keeps MemWf (body s e ipc)) :
    Keeps MemWf (s.memOp i cs ks reads writes ok env body) := by
  refine (State.keeps_vectorGate cs ks h).bind fun s0 h0 => (keeps_require _ _ h0).bind fun _ _ =>
    (State.keeps_streamIn reads writes h0).bind fun s1 h1 => ?_
  extract_lets e0 e
  have hr := hb (s1.onCur (·.adv 4)) e s0.cur.pc (State.memWf_onCur h1 (Strand.memWf_adv 4 h1.cur))
  split
  · exact h0
  · next heq =>
    rw [heq] at hr
    exact hr
  · next heq =>
    rw [heq] at hr
    exact hr
  · next heq =>
    rw [heq] at hr
    exact State.memWf_vectorDone _ (State.memWf_streamOut writes hr)

theorem State.keeps_vmemHeld {s : State} (v : VMem) (hold : KReg) (h : MemWf s) : Keeps MemWf (s.vmemHeld v hold) :=
  State.keeps_memOp _ _ _ _ _ _ h fun _ e ipc hs => State.keeps_vmemRun v e ipc hs

theorem State.keeps_vmemOp {s : State} (v : VMem) (h : MemWf s) : Keeps MemWf (s.vmemOp v) := State.keeps_vmemHeld v 0 h

theorem Strand.memWf_storeLocal {t : Strand} (vs3 : Reg) (base wb : Nat) (is : List Nat) (h : t.MemWf) :
    (t.storeLocal vs3 base wb is).MemWf :=
  Strand.memWf_putLoc _ h (Mem.wf_foldl (fun _ _ hm => Mem.wf_writeNat _ _ _ hm) is (h.loc _))

theorem State.keeps_localOp {s : State} (isLoad vm : Bool) (i : Instr) (w : Fin 4) (base vd : Reg) (h : MemWf s) :
    Keeps MemWf (s.localOp isLoad vm i w base vd) := by
  refine (State.keeps_vectorGate _ _ h).bind fun s0 h0 => (keeps_require _ _ h0).bind fun _ _ =>
    (State.keeps_streamIn _ _ h0).bind fun s1 h1 =>
      (keeps_require _ _ (State.memWf_onCur h1 (Strand.memWf_adv 4 h1.cur))).bind fun _ _ => ?_
  refine State.memWf_vectorDone _ (State.memWf_streamOut _ (State.memWf_onCur h1 ?_))
  split
  exacts [h1.cur.of_same rfl, Strand.memWf_storeLocal _ _ _ _ h1.cur]

theorem State.gives_maskCheck {s : State} (acc : Acc) (a : Int) (n : Nat) (h : MemWf s) : Gives MemWf (s.maskCheck acc a n) := by
  refine Gives.foldl (fun r j hr => Gives.bind hr fun s hs => ?_) _ (Gives.ok h)
  split
  · exact (State.gives_places _ _ _ hs).map fun _ h1 => h1
  · exact (State.gives_loadMem _ _ _ _ hs).map fun _ h1 => h1

theorem State.keeps_maskRun {s : State} (isLoad : Bool) (i : Instr) (k : MReg) (env : VEnv) (ipc : Word) (h : MemWf s) :
    Keeps MemWf (s.maskRun isLoad i k env ipc) := by
  unfold State.maskRun
  extract_lets n a acc entry
  split
  · exact h
  · exact h
  · exact h
  · next s' heq =>
    have h' : MemWf s' := State.gives_maskCheck _ _ _ h s' heq
    split
    · refine (Keeps.lift h (P := fun r : Nat × State => MemWf r.2) ?_).bind
        fun r hr => State.memWf_onCur hr (Strand.memWf_putK k _ hr.cur)
      refine Gives.foldl (fun r j hr => Gives.bind hr fun p hp => ?_) _ (Gives.ok h')
      exact (State.gives_loadMem _ _ _ _ hp).map fun _ h1 => h1
    · refine Keeps.lift h (Gives.foldl (fun r j hr => Gives.bind hr fun p hp => ?_) _ (Gives.ok h'))
      exact State.gives_storeMem _ _ _ _ _ hp

theorem State.keeps_maskOp {s : State} (isLoad : Bool) (i : Instr) (k : MReg) (base : Reg) (h : MemWf s) :
    Keeps MemWf (s.maskOp isLoad i k base) :=
  State.keeps_memOp _ _ _ _ _ _ h fun _ e ipc hs => State.keeps_maskRun isLoad i k e ipc hs

/-! ### Streams (R152 to R163) -/

theorem State.memWf_updStream {s : State} (uid : Nat) (q : QReg) (f : Stream → Stream) (h : MemWf s) :
    MemWf (s.updStream uid q f) := by
  refine State.memWf_updStrand _ h fun t ht => ?_
  split
  exacts [ht.of_same rfl, ht]

theorem State.memWf_of_joinStreams {s s' : State} {p c : Strand × QReg × Stream} (h : MemWf s)
    (hr : s.joinStreams p c = some s') : MemWf s' := by
  unfold State.joinStreams at hr
  split at hr
  · exact nomatch hr
  · cases hr
    exact State.memWf_updStream _ _ _ (State.memWf_updStream _ _ _ h)

theorem State.memWf_leaveOuts {s : State} (t : Strand) (h : MemWf s) : MemWf (s.leaveOuts t) := memWf_ite h (h.of_same rfl)

theorem State.memWf_of_matchProducer {s s' : State} {q : QReg} {k : Stream} (h : MemWf s) (hr : s.matchProducer q k = some s') :
    MemWf s' := by
  unfold State.matchProducer at hr
  dsimp only at hr
  split at hr
  · exact nomatch hr
  · split at hr
    · exact State.memWf_of_joinStreams h hr
    · split at hr
      · exact nomatch hr
      · split at hr
        · exact nomatch hr
        · cases hr
          exact h

theorem State.memWf_joinEnded {s : State} (q : QReg) (e : EndedOut) (h : MemWf s) : MemWf (s.joinEnded q e) :=
  State.memWf_updStream _ _ _ (State.memWf_updLaunch _ _ h)

theorem State.memWf_of_matchConsumer {s s' : State} {q : QReg} {k : Stream} (h : MemWf s) (hr : s.matchConsumer q k = some s') :
    MemWf s' := by
  unfold State.matchConsumer at hr
  dsimp only at hr
  split at hr
  · exact nomatch hr
  · split at hr
    · split at hr
      · cases hr
        exact h
      · split at hr
        · cases hr
          exact State.memWf_joinEnded _ _ h
        · exact nomatch hr
    · split at hr
      · exact State.memWf_of_joinStreams h hr
      · exact nomatch hr

theorem State.gives_readDesc {s : State} (a : Word) (h : MemWf s) : Gives (fun r => MemWf r.2) (s.readDesc a) := by
  refine Gives.foldl (fun r j hr => Gives.bind hr fun p hp => ?_) _ (Gives.ok h)
  exact (State.gives_loadMem _ _ _ _ hp).map fun _ h1 => h1

theorem State.keeps_qdefOp {s : State} (q : QReg) (base : Reg) (h : MemWf s) : Keeps MemWf (s.qdefOp q base) := by
  refine (State.keeps_vectorGate _ _ h).bind fun s0 h0 => (keeps_require _ _ h0).bind fun _ _ =>
    (State.keeps_releaseCur _ _ h0).bind fun s1 h1 => (Keeps.lift h1 (State.gives_readDesc _ h1)).bind fun r hr => ?_
  dsimp only
  split
  · exact hr
  · have h2 : MemWf (r.2.onCur fun t => (t.putStream q (some (r.2.cur.streamOf r.1 r.2.streamOrder))).adv 4) :=
      State.memWf_onCur hr (Strand.memWf_adv 4 (Strand.memWf_putStream _ _ hr.cur))
    split
    · next heq =>
      split at heq
      · exact State.memWf_of_matchProducer h2 heq
      · split at heq
        · exact State.memWf_of_matchConsumer h2 heq
        · exact Option.some.inj heq ▸ h2
    · exact hr

theorem State.keeps_qbindOp {s : State} (vd : Reg) (q : QReg) (h : MemWf s) : Keeps MemWf (s.qbindOp vd q) := by
  refine (State.keeps_vectorGate _ _ h).bind fun s0 h0 => ?_
  split
  · exact h0
  · exact (keeps_require _ _ h0).bind fun _ _ =>
      State.memWf_scalarDone _ (State.memWf_onCur h0 (Strand.memWf_putStream _ _ h0.cur))

theorem State.keeps_qunbOp {s : State} (vd : Reg) (h : MemWf s) : Keeps MemWf (s.qunbOp vd) :=
  (State.keeps_vectorGate _ _ h).bind fun _ h0 => State.memWf_scalarDone _ (h0.of_same rfl)

theorem State.keeps_qavailOp {s : State} (rd : Reg) (q : QReg) (h : MemWf s) : Keeps MemWf (s.qavailOp rd q) :=
  (State.keeps_vectorGate _ _ h).bind fun _ h0 =>
    State.memWf_scalarDone _ (State.memWf_onCur h0 (Strand.memWf_putX _ _ h0.cur))

theorem State.keeps_qwaitOp {s : State} (q : QReg) (rs1 : Reg) (h : MemWf s) : Keeps MemWf (s.qwaitOp q rs1) := by
  refine (State.keeps_vectorGate _ _ h).bind fun s0 h0 => ?_
  split
  · exact h0
  · exact (keeps_require _ _ h0).bind fun _ _ => State.memWf_scalarDone _ h0

theorem State.memWf_endStream {s : State} (uid : Nat) (q : QReg) (h : MemWf s) : MemWf (s.endStream uid q) := by
  unfold State.endStream
  split
  · exact h
  · split
    · exact h
    · refine memWf_ite h ?_
      split
      exacts [State.memWf_updStream _ _ _ (State.memWf_updStream _ _ _ h), State.memWf_updStream _ _ _ h]

theorem State.keeps_qendOp {s : State} (q : QReg) (h : MemWf s) : Keeps MemWf (s.qendOp q) :=
  (State.keeps_vectorGate _ _ h).bind fun _ h0 => (keeps_require _ _ h0).bind fun _ _ =>
    State.memWf_scalarDone _ (State.memWf_endStream _ _ h0)

theorem State.memWf_resetStream {s : State} (q : QReg) (k : Stream) (h : MemWf s) : MemWf (s.resetStream q k) := by
  unfold State.resetStream
  dsimp only
  split
  exacts [State.memWf_updStream _ _ _ (h.of_same rfl), h.of_same rfl]

theorem State.keeps_qrstOp {s : State} (q : QReg) (h : MemWf s) : Keeps MemWf (s.qrstOp q) := by
  refine (State.keeps_vectorGate _ _ h).bind fun s0 h0 => ?_
  have h1 := State.memWf_endStream s0.cur.uid q h0
  dsimp only
  split
  · exact State.memWf_scalarDone _ h1
  · exact (keeps_require _ _ h1).bind fun _ _ => State.memWf_scalarDone _ (State.memWf_resetStream _ _ h1)

/-! ### Traffic of engines (R160, R168) -/

theorem State.gives_engPlaces {s : State} (ctx : Nat) (a : Int) (n : Nat) (acc : Acc) (h : MemWf s) :
    Gives (fun r => MemWf r.2) (s.engPlaces ctx a n acc) := by
  unfold State.engPlaces
  split
  · next heq =>
    split
    exacts [Gives.error _, Gives.ok (State.gives_placesIn _ _ _ _ h _ heq)]
  · exact Gives.error _

theorem State.gives_engCheck {s : State} (ctx n : Nat) (as : List (Int × Acc)) (h : MemWf s) :
    Gives MemWf (s.engCheck ctx n as) := by
  unfold State.engCheck
  extract_lets r
  have hr : Gives (fun p => MemWf p.1) r := by
    refine Gives.foldl (fun r a hr => Gives.bind hr fun p hp => ?_) _ (Gives.ok h)
    dsimp only
    split
    · next heq =>
      have h1 := State.gives_engPlaces _ _ _ _ hp _ heq
      exact Gives.ok (memWf_ite (memWf_foldl (fun _ p hs => State.memWf_l2Touch p false hs) _ h1) h1)
    · exact Gives.ok hp
    · exact Gives.error _
    · exact Gives.error _
  clear_value r
  split
  · exact Gives.error _
  · exact Gives.ok (hr _ rfl)
  · exact Gives.error _

theorem State.memWf_engWrite {s : State} (ctx : Nat) (a : Int) (n v : Nat) (h : MemWf s) : MemWf (s.engWrite ctx a n v) := by
  unfold State.engWrite
  split
  · next heq => exact State.memWf_storePieces _ _ _ (State.gives_engPlaces _ _ _ _ h _ heq)
  · exact h

/-- The machine that an engine's work leaves when it is done. -/
def EngineEnd.Wf (e : EngineEnd) : Prop := ∀ s, e = .done s → MemWf s

theorem EngineEnd.wf_done {s : State} (h : MemWf s) : (EngineEnd.done s).Wf := by
  rintro _ ⟨⟩
  exact h

end Sys2Proof.Machine
end

section
/-! PROOFS. The memories' canonical form: the array, atomics and the carrier. -/

namespace Sys2Proof.Machine

/-! ### The array (R222 to R228) -/

theorem State.memWf_arrayDone {s : State} (h : MemWf s) : MemWf s.arrayDone :=
  State.memWf_onCur h ((Strand.memWf_adv 8 h.cur).of_same rfl)

theorem State.keeps_slotGate {s : State} (slot : QReg) (h : MemWf s) : Keeps (fun r => MemWf r.1) (s.slotGate slot) := by
  refine (State.keeps_vectorGate _ _ h).bind fun s0 h0 => ?_
  split
  · exact h0
  · exact (keeps_require _ _ h0).bind fun _ _ => h0

theorem accPut_wf {m : Mem} (r c v : Nat) (h : m.wf = true) : (accPut m r c v).wf = true := Mem.wf_writeNat _ _ _ h

theorem accSet_wf {m : Mem} (p : Pair) (r c v : Nat) (h : m.wf = true) : (accSet p m r c v).wf = true := by
  unfold accSet
  split
  exacts [accPut_wf _ _ _ (accPut_wf _ _ _ h), accPut_wf _ _ _ h]

theorem Strand.memWf_putAcc {t : Strand} {m : Mem} (h : t.MemWf) (hm : m.wf = true) : ({ t with acc := m } : Strand).MemWf :=
  ⟨hm, h.act_wf, h.scratch_wf⟩

theorem Strand.memWf_matrixRow {t : Strand} (p : Pair) (w : Tile) (r row : Nat) (accumulate : Bool) (h : t.MemWf) :
    (t.matrixRow p w r row accumulate).MemWf := by
  unfold Strand.matrixRow
  exact Strand.memWf_putAcc (h.of_same rfl) (Mem.wf_foldl (fun _ _ hm => accSet_wf _ _ _ _ hm) _ h.acc_wf)

theorem State.keeps_mmOp {s : State} (row : BitVec 10) (slot : QReg) (base : Reg) (rs3 : Option Reg) (accumulate : Bool)
    (h : MemWf s) : Keeps MemWf (s.mmOp row slot base rs3 accumulate) := by
  refine (State.keeps_slotGate slot h).bind fun r hr => ?_
  dsimp only
  split
  · exact hr
  · exact (keeps_require _ _ hr).bind fun _ _ => (keeps_require _ _ hr).bind fun _ _ => (keeps_require _ _ hr).bind fun _ _ =>
      State.memWf_arrayDone (State.memWf_onCur hr (Strand.memWf_matrixRow _ _ _ _ _ hr.cur))

theorem State.keeps_accGate {s : State} (rs1 : Reg) (row : BitVec 10) (n : Nat) (h : MemWf s) :
    Keeps MemWf (s.accGate rs1 row n) :=
  (State.keeps_vectorGate _ _ h).bind fun _ h0 => (keeps_require _ _ h0).bind fun _ _ => (keeps_require _ _ h0).bind fun _ _ => h0

theorem State.memWf_clearVstart {s : State} (h : MemWf s) : MemWf (s.onCur fun t => { t with vstart := 0 }) := h.of_same rfl

theorem Strand.memWf_readRow {t : Strand} (vd : Reg) (r : Nat) (h : t.MemWf) : (t.readRow vd r).MemWf := by
  unfold Strand.readRow
  exact h.of_same rfl

theorem State.keeps_accrdOp {s : State} (vd rs1 : Reg) (row : BitVec 10) (h : MemWf s) : Keeps MemWf (s.accrdOp vd rs1 row) :=
  (State.keeps_vectorGate _ _ h).bind fun _ h0 => (keeps_require _ _ h0).bind fun _ _ => (keeps_require _ _ h0).bind fun _ _ =>
    (State.keeps_streamIn _ _ h0).bind fun _ h1 =>
      State.memWf_clearVstart (State.memWf_arrayDone (State.memWf_streamOut [vd]
        (State.memWf_onCur h1 (Strand.memWf_readRow _ _ h1.cur))))

theorem Strand.memWf_writeRow {t : Strand} (vs2 : Reg) (r : Nat) (h : t.MemWf) : (t.writeRow vs2 r).MemWf := by
  unfold Strand.writeRow
  exact Strand.memWf_putAcc h (Mem.wf_foldl (fun _ _ hm => accPut_wf _ _ _ hm) _ h.acc_wf)

theorem State.keeps_accwrOp {s : State} (rs1 : Reg) (row : BitVec 10) (vs2 : Reg) (h : MemWf s) :
    Keeps MemWf (s.accwrOp rs1 row vs2) :=
  (State.keeps_vectorGate _ _ h).bind fun _ h0 => (keeps_require _ _ h0).bind fun _ _ => (keeps_require _ _ h0).bind fun _ _ =>
    State.memWf_clearVstart (State.memWf_arrayDone (State.memWf_onCur h0 (Strand.memWf_writeRow _ _ h0.cur)))

theorem State.keeps_acczOp {s : State} (rs1 : Reg) (row n : BitVec 10) (h : MemWf s) : Keeps MemWf (s.acczOp rs1 row n) :=
  (State.keeps_accGate _ _ _ h).bind fun _ h0 =>
    State.memWf_clearVstart (State.memWf_arrayDone (State.memWf_onCur h0
      (Strand.memWf_putAcc h0.cur (Mem.wf_zero _ _ h0.cur.acc_wf))))

theorem State.keeps_wclrOp {s : State} (slot : QReg) (h : MemWf s) : Keeps MemWf (s.wclrOp slot) :=
  (State.keeps_slotGate slot h).bind fun r (hr : MemWf r.1) => State.memWf_arrayDone (hr.of_same rfl)

theorem State.keeps_wdescOp {s : State} (rd : Reg) (slot : QReg) (h : MemWf s) : Keeps MemWf (s.wdescOp rd slot) :=
  (State.keeps_slotGate slot h).bind fun r (hr : MemWf r.1) =>
    State.memWf_arrayDone (State.memWf_onCur hr ((Strand.memWf_putX _ _ hr.cur).of_same rfl))

/-! ### Scalar atomics (R56, R188) -/

theorem State.keeps_orderS {s : State} (aq rl : Bool) (h : MemWf s) : Keeps MemWf (s.orderS aq rl) :=
  of_ite (Keeps MemWf) (State.keeps_releaseCur _ _ h) (memWf_ite (State.memWf_flushCur _ _ h) h)

theorem State.keeps_lrOp {s : State} (dbl aq rl : Bool) (rd rs1 : Reg) (h : MemWf s) : Keeps MemWf (s.lrOp dbl aq rl rd rs1) :=
  (keeps_require _ _ h).bind fun _ _ => (State.keeps_orderS aq rl h).bind fun _ h0 =>
    (Keeps.lift h (Gives.trivial _)).bind fun _ _ => (Keeps.lift h (State.gives_load _ _ h0)).bind fun _ h1 =>
      State.memWf_onCur h1 ((Strand.memWf_putX _ _ h1.cur).of_same rfl)

theorem State.keeps_scOp {s : State} (dbl aq rl : Bool) (rd rs1 rs2 : Reg) (h : MemWf s) :
    Keeps MemWf (s.scOp dbl aq rl rd rs1 rs2) :=
  (keeps_require _ _ h).bind fun _ _ => (State.keeps_orderS aq rl h).bind fun _ h0 =>
    (Keeps.lift h (Gives.trivial _)).bind fun _ _ => (Keeps.lift h (State.gives_atomic _ _ _ h0)).bind fun _ h1 =>
      State.memWf_onCur h1 ((Strand.memWf_putX _ _ h1.cur).of_same rfl)

theorem State.keeps_amoOp {s : State} (op : AmoOp) (dbl aq rl : Bool) (rd rs1 rs2 : Reg) (h : MemWf s) :
    Keeps MemWf (s.amoOp op dbl aq rl rd rs1 rs2) :=
  (keeps_require _ _ h).bind fun _ _ => (State.keeps_orderS aq rl h).bind fun _ h0 =>
    (Keeps.lift h (State.gives_atomic _ _ _ h0)).bind fun _ h1 => State.memWf_onCur h1 (Strand.memWf_putX _ _ h1.cur)

/-! ### Vector atomics (R134, R194 to R199) -/

theorem Keeps.foldl {α β : Type} {P : β → Prop} {f : Res β → α → Res β} (hf : ∀ (r : Res β) (a : α), Keeps P r → Keeps P (f r a)) :
    ∀ (l : List α) {r : Res β}, Keeps P r → Keeps P (l.foldl f r)
  | [], _, h => h
  | a :: l, r, h => Keeps.foldl hf l (hf r a h)

theorem State.keeps_translateOne (acc : Acc) (n : Nat) (r : Res (State × Stops)) (e : Nat × Int)
    (h : Keeps (fun p : State × Stops => MemWf p.1) r) : Keeps (fun p => MemWf p.1) (State.translateOne acc n r e) := by
  refine h.bind fun p hp => ?_
  dsimp only
  split
  · exact hp
  · split
    · exact hp
    · split
      · next heq =>
        have h1 := State.gives_places _ _ _ hp _ heq
        split <;> exact h1
      · exact hp
      · exact hp

theorem State.keeps_translateAll {s : State} (acc : Acc) (n : Nat) (es : List (Nat × Int)) (entry : BmEntry) (h : MemWf s) :
    Keeps MemWf (s.translateAll acc n es entry) := by
  have hr : Keeps (fun p : State × Stops => MemWf p.1)
      (es.foldl (State.translateOne acc n) (.ok (s, { pending := [], pages := [] }))) :=
    Keeps.foldl (fun r e hr => State.keeps_translateOne acc n r e hr) es h
  unfold State.translateAll
  split
  · next heq =>
    rw [heq] at hr
    exact of_ite (Keeps MemWf) hr h
  · exact h
  · exact h

theorem Strand.memWf_issueTo {t : Strand} (lane : Nat) (h : t.MemWf) : (t.issueTo lane).MemWf := h.of_same rfl

theorem State.keeps_amoElem (op : Fin 11) (vd : Reg) (r : Res State) (e : Nat × Int) (h : Keeps MemWf r) :
    Keeps MemWf (State.amoElem op vd r e) :=
  h.bind fun _ h0 => (Keeps.lift h0 (State.gives_atomicMem _ _ _ _ h0)).bind fun _ h1 => State.memWf_onCur h1 (h1.cur.of_same rfl)

/-- The rule for a step done only under a condition before the rest of an operation. -/
theorem Keeps.iteBind {α β : Type} {c : Prop} [Decidable c] {Q : α → Prop} {P : β → Prop} {x y : Res α} {f : α → Res β}
    (hx : Keeps Q x) (hy : Keeps Q y) (hf : ∀ a, Q a → Keeps P (f a)) : Keeps P (if c then x >>= f else y >>= f) :=
  of_ite (Keeps P) (hx.bind hf) (hy.bind hf)

theorem State.keeps_amoRun {s : State} (op : Fin 11) (i : Instr) (a : FAmo) (env : VEnv) (ipc : Word) (h : MemWf s) :
    Keeps MemWf (s.amoRun op i a env ipc) :=
  Keeps.iteBind (State.keeps_releaseCur _ _ h) (Keeps.ok h) fun _ h0 => (State.keeps_translateAll _ _ _ _ h0).bind fun _ h1 =>
    Keeps.foldl (fun r e hr => State.keeps_amoElem op a.vd r e hr) _ (Keeps.ok (memWf_ite (h1.of_same rfl) h1))

theorem State.keeps_vamoOp {s : State} (op : Fin 11) (i : Instr) (a : FAmo) (h : MemWf s) : Keeps MemWf (s.vamoOp op i a) :=
  State.keeps_memOp _ _ _ _ _ _ h fun _ e ipc hs => State.keeps_amoRun op i a e ipc hs

theorem State.keeps_laneAmoOp {s : State} (op : Fin 11) (a : FAmo) (h : MemWf s) : Keeps MemWf (s.laneAmoOp op a) := by
  refine (keeps_require _ _ h).bind fun _ _ => (keeps_require _ _ h).bind fun _ _ => (keeps_require _ _ h).bind fun _ _ =>
    (Keeps.lift h (Gives.trivial _)).bind fun _ _ => (keeps_require _ _ h).bind fun _ _ =>
      Keeps.iteBind (State.keeps_releaseCur _ _ h) (Keeps.ok h) fun _ h0 =>
        (Keeps.lift h (State.gives_atomicMem _ _ _ _ h0)).bind fun r (hr : MemWf r.2) => ?_
  exact State.memWf_scalarDone _ (State.memWf_onCur hr (Strand.memWf_issueTo _ (Strand.memWf_putX _ _ hr.cur)))

theorem State.keeps_glElem (vd : Reg) (r : Res State) (e : Nat × Int) (h : Keeps MemWf r) : Keeps MemWf (State.glElem vd r e) :=
  h.bind fun _ h0 => (Keeps.lift h0 (Gives.trivial _)).bind fun _ _ =>
    (Keeps.lift h0 (State.gives_loadMem _ _ _ _ h0)).bind fun _ h1 => State.memWf_onCur h1 (h1.cur.of_same rfl)

theorem State.keeps_glRun {s : State} (i : Instr) (a : FLink) (env : VEnv) (ipc : Word) (h : MemWf s) :
    Keeps MemWf (s.glRun i a env ipc) :=
  (State.keeps_releaseCur _ _ h).bind fun s0 h0 => by
    have h1 : MemWf (s0.onCur fun t => { t with res := [], resL2 := [] }) := h0.of_same rfl
    exact (State.keeps_translateAll _ _ _ _ h1).bind fun _ h2 =>
      Keeps.foldl (fun r e hr => State.keeps_glElem a.vd r e hr) _ (Keeps.ok (memWf_ite (h2.of_same rfl) h2))

theorem State.keeps_scElem (vs3 : Reg) (r : Res State) (e : Nat × Int) (h : Keeps MemWf r) : Keeps MemWf (State.scElem vs3 r e) :=
  h.bind fun _ h0 => (Keeps.lift h0 (Gives.trivial _)).bind fun _ _ => of_ite (Keeps MemWf)
    ((Keeps.lift h0 (State.gives_atomicMem _ _ _ _ h0)).bind fun _ h1 => State.memWf_onCur h1 (h1.cur.of_same rfl)) h0

theorem State.keeps_scRun {s : State} (i : Instr) (a : FLink) (env : VEnv) (ipc : Word) (h : MemWf s) :
    Keeps MemWf (s.scRun i a env ipc) := by
  refine (State.keeps_releaseCur _ _ h).bind fun s0 h0 => ?_
  dsimp only
  have ht := State.keeps_translateAll .atomic (s0.cur.ew / 8) (s0.cur.atomAddrs a.vs2 env (s0.cur.envActives env a.vm))
    (s0.cur.entryOf i 0 env ipc false []) h0
  split
  · next heq =>
    rw [heq] at ht
    exact MemWf.of_same ht rfl
  · next s1 heq =>
    rw [heq] at ht
    have h1 : MemWf s1 := ht
    refine (Keeps.foldl (P := MemWf) (fun r e hr => State.keeps_scElem a.vd r e hr) _ (Keeps.ok ?_)).bind fun _ h2 => ?_
    · exact h1.of_same rfl
    · exact h2.of_same rfl

theorem State.keeps_waitEval {s : State} (rel : WaitRel) (vs3 : Reg) (es : List (Nat × Int)) (h : MemWf s) :
    Keeps (fun r => MemWf r.2) (s.waitEval rel vs3 es) :=
  Keeps.foldl (P := fun r : Bool × State => MemWf r.2) (fun _ _ hr => hr.bind fun _ h0 =>
    (Keeps.lift h0 (State.gives_loadMem _ _ _ _ h0)).bind fun _ h1 => Keeps.pure h1) es (Keeps.ok h)

theorem Strand.memWf_pastWait {t : Strand} (h : t.MemWf) : t.pastWait.MemWf := by
  unfold Strand.pastWait
  split
  exacts [h.of_same rfl, Strand.memWf_adv 4 h]

/-- The exception of a `vwait` is taken on the machine as it found it, or as it left it. -/
theorem Keeps.mapWaitErr {α : Type} {P : α → Prop} {r : Res α} {s : State} (entry : BmEntry) (h : MemWf s) (hr : Keeps P r) :
    Keeps P (r.mapError (s.waitErr entry)) := by
  cases r with
  | ok a => exact hr
  | error e =>
    show MemWf (s.waitErr entry e).2
    unfold State.waitErr
    split
    exacts [h, hr, hr]

theorem State.keeps_waitOp {s : State} (rel : WaitRel) (i : Instr) (a : FWait) (h : MemWf s) : Keeps MemWf (s.waitOp rel i a) := by
  refine (State.keeps_vectorGate _ _ h).bind fun s0 h0 => (keeps_require _ _ h0).bind fun _ _ => ?_
  refine Keeps.iteBind (Keeps.ok h0) (State.keeps_streamIn _ _ h0) fun s1 h1 => ?_
  beta_reduce
  extract_lets s2 _ env es s3 entry
  have h2 : MemWf s2 := h1.of_same rfl
  have h3 : MemWf s3 := State.memWf_onCur h2 (Strand.memWf_pastWait h2.cur)
  refine Keeps.bind (Keeps.mapWaitErr entry h2 (Keeps.bind (State.keeps_translateAll _ _ es entry h3) fun _ h4 =>
    State.keeps_waitEval rel a.vs3 es h4)) fun r (hr : MemWf r.2) => ?_
  dsimp only
  split
  · exact (State.memWf_vectorDone 0 hr).of_same rfl
  · exact State.memWf_onCur hr h2.cur

/-! ### The carrier (R43 to R46, R249 to R255, R288) -/

theorem firstSome_eq_some {α β : Type} {f : α → Option β} {b : β} : ∀ {l : List α}, firstSome f l = some b → ∃ a ∈ l, f a = some b
  | a :: l, h => by
    unfold firstSome at h
    split at h
    · next heq => exact ⟨a, List.mem_cons_self, heq.trans h⟩
    · obtain ⟨c, hc, he⟩ := firstSome_eq_some h
      exact ⟨c, List.mem_cons_of_mem _ hc, he⟩

theorem Strand.memWf_carried {t : Strand} (h : t.MemWf) : t.carried.MemWf := (Strand.memWf_drained h).of_same rfl

theorem State.memWf_departWith {s : State} (uid id slot lanes : Nat) (h : MemWf s) : MemWf (s.departWith uid id slot lanes) := by
  unfold State.departWith State.takeLanes
  split
  · exact h
  · next t _ =>
    have h1 := State.memWf_vacate t.core t.slot (State.memWf_flushWc uid true true (State.memWf_landStrips t h))
    exact State.memWf_laneGrant _ (State.memWf_updStrand _ (h1.of_same rfl) fun _ ht => (Strand.memWf_carried ht).of_same rfl)

theorem State.memWf_depart {s : State} (uid id slot : Nat) (h : MemWf s) : MemWf (s.depart uid id slot) :=
  State.memWf_departWith _ _ _ _ h

theorem State.memWf_arrive {s : State} (uid : Nat) (h : MemWf s) : MemWf (s.arrive uid) := by
  refine State.memWf_updStrand _ h fun t ht => ?_
  split
  exacts [ht.of_same rfl, ht]

theorem State.memWf_departOrAsk {s : State} (uid id slot : Nat) (h : MemWf s) : MemWf (s.departOrAsk uid id slot) := by
  unfold State.departOrAsk
  exact memWf_ite (State.memWf_depart _ _ _ h) (State.memWf_ask _ _ h)

theorem State.memWf_carry {s : State} (uid : Nat) (h : MemWf s) : MemWf (s.carry uid) := by
  unfold State.carry
  split
  · exact h
  · split
    · exact State.memWf_ask _ _ h
    · split
      · split
        · exact h
        · split
          · exact State.memWf_depart _ _ _ h
          · exact State.memWf_updStrand _ h fun _ ht => ht.of_same rfl
      · split
        exacts [State.memWf_depart _ _ _ h, h]
      · split
        · exact h
        · split
          · exact State.memWf_departWith _ _ _ _ h
          · exact State.memWf_updStrand _ h fun _ ht => ht.of_same rfl
      · exact h

theorem State.memWf_laneCheck {s : State} (uid : Nat) (h : MemWf s) : MemWf (s.laneCheck uid) := by
  unfold State.laneCheck
  split
  · exact h
  · split
    · split
      · exact h
      · split
        · split
          · exact State.memWf_departWith _ _ _ _ h
          · exact State.memWf_updStrand _ (h.of_same rfl) fun _ ht => ht.of_same rfl
        · exact h
    · exact h

theorem State.memWf_mixEnd {s : State} (uid : Nat) (h : MemWf s) : MemWf (s.mixEnd uid) := by
  unfold State.mixEnd
  split
  · exact h
  · split
    · exact h
    · extract_lets s1 c inLaneWait stands due
      have h1 : MemWf s1 := State.memWf_updStrand _ h fun _ ht => ht.of_same rfl
      split
      exacts [State.memWf_departOrAsk _ _ _ h1, h1]

theorem State.memWf_sensor {s : State} (id : Nat) (temp : Byte) (h : MemWf s) : MemWf (s.sensor id temp) := by
  unfold State.sensor
  extract_lets s1 _ s2 one
  have h1 : MemWf s1 := h.of_same rfl
  have h2 : MemWf s2 := memWf_ite (h1.of_same rfl) h1
  exact memWf_ite (h2.of_same rfl) h2

theorem State.memWf_displaceFrom {s : State} (id slot : Nat) (h : MemWf s) : MemWf (s.displaceFrom id slot) := by
  unfold State.displaceFrom
  split
  exacts [State.memWf_ask _ _ h, h]

theorem State.memWf_slotOff {s : State} (id : Nat) (h : MemWf s) : MemWf (s.slotOff id) := by
  unfold State.slotOff
  dsimp only
  split
  · split
    exacts [State.memWf_displaceFrom _ _ (h.of_same rfl), h]
  · exact h

theorem State.memWf_slotOn {s : State} (id : Nat) (h : MemWf s) : MemWf (s.slotOn id) := by
  unfold State.slotOn
  dsimp only
  split
  · split
    exacts [h.of_same rfl, h]
  · exact h

theorem State.memWf_selftestFail {s : State} (id : Nat) (h : MemWf s) : MemWf (s.selftestFail id) := h.of_same rfl

theorem State.memWf_schedTouch {s : State} (h : MemWf s) : MemWf s.schedTouch :=
  memWf_foldl (fun _ _ hs => memWf_ite (State.memWf_tenantTouch _ hs) hs) _ h

theorem State.memWf_migTimeout {s : State} (row : Instr) (uid : Nat) (h : MemWf s) : MemWf (s.migTimeout row uid) := by
  refine State.memWf_orWait _ _ h fun s hs => ?_
  split
  · exact hs
  · have ht := State.memWf_schedTouch hs
    refine memWf_ite hs (memWf_getD ht fun s' hr => ?_)
    obtain ⟨l, -, hl⟩ := firstSome_eq_some hr
    exact State.memWf_of_preempt ht hl

theorem Strand.memWf_complete {t : Strand} (h : t.MemWf) : t.complete.MemWf := (Strand.memWf_drained h).of_same rfl

theorem State.keeps_gexitOp {s : State} (h : MemWf s) : Keeps MemWf s.gexitOp :=
  (State.keeps_scalarGate _ h).bind fun _ h0 => by
    have h1 := State.memWf_flushCur true true h0
    exact State.memWf_onCur h1 ((Strand.memWf_complete h1.cur).of_same rfl)

theorem State.memWf_exitStrand {s : State} (uid : Nat) (h : MemWf s) : MemWf (s.exitStrand uid) := by
  unfold State.exitStrand
  split
  · exact h
  · refine memWf_ite h ?_
    extract_lets s1 s2
    have h1 : MemWf s1 := memWf_foldl (fun _ q hs => State.memWf_endStream _ q hs) _ h
    have h2 : MemWf s2 := by
      refine State.memWf_dismiss _ ?_
      split
      exacts [State.memWf_leaveOuts _ h1, h1]
    exact memWf_ite h1 (memWf_ite h2 (memWf_ite (State.memWf_retire _ _ h2) (State.memWf_barrierCheck _ _ h2)))

theorem State.keeps_yldOp {s : State} (h : MemWf s) : Keeps MemWf s.yldOp :=
  (State.keeps_scalarGate _ h).bind fun _ h0 => by
    have h1 := State.memWf_scalarDone 4 h0
    exact State.memWf_onCur h1 (of_ite Strand.MemWf h1.cur (h1.cur.of_same rfl))

theorem State.keeps_migOp {s : State} (c : Cls) (h : MemWf s) : Keeps MemWf (s.migOp c) := by
  refine (State.keeps_scalarGate _ h).bind fun s0 h0 => ?_
  have h1 := State.memWf_scalarDone 4 h0
  dsimp only
  split
  · exact h1
  · split
    exacts [State.memWf_departOrAsk _ _ _ h1, h1]

end Sys2Proof.Machine
end

section
/-! PROOFS. The memories' canonical form: engines, CSRs, scalar instructions and synchronisation. -/

namespace Sys2Proof.Machine

/-! ### Traffic of streams (R159, R160) -/

/-- An engine's work that is cut short is not done. -/
def Undone {α : Type} (r : Except EngineEnd α) : Prop := ∀ e, r = .error e → e.Wf

theorem Undone.ok {α : Type} (a : α) : Undone (.ok a) := fun _ h => nomatch h

theorem Undone.error {α : Type} {e : EngineEnd} (h : e.Wf) : Undone (.error e : Except EngineEnd α) := by
  rintro _ ⟨⟩
  exact h

theorem Undone.bind {α β : Type} {x : Except EngineEnd α} {f : α → Except EngineEnd β} (hx : Undone x)
    (hf : ∀ a, Undone (f a)) : Undone (x >>= f) := by
  cases x with
  | error e => exact Undone.error (hx e rfl)
  | ok a => exact hf a

theorem Undone.foldl {α β : Type} {f : Except EngineEnd β → α → Except EngineEnd β}
    (hf : ∀ (r : Except EngineEnd β) (a : α), Undone r → Undone (f r a)) :
    ∀ (l : List α) {r : Except EngineEnd β}, Undone r → Undone (l.foldl f r)
  | [], _, h => h
  | a :: l, r, h => Undone.foldl hf l (hf r a h)

theorem EngineEnd.wf_kill (cls addr acc : Nat) : (EngineEnd.kill cls addr acc).Wf := fun _ h => nomatch h
theorem EngineEnd.wf_pages (ps : List (Nat × Nat × Nat)) : (EngineEnd.pages ps).Wf := fun _ h => nomatch h
theorem EngineEnd.wf_stall : EngineEnd.stall.Wf := fun _ h => nomatch h

theorem State.undone_engCheck (s : State) (ctx n : Nat) (as : List (Int × Acc)) : Undone (s.engCheck ctx n as) := by
  unfold State.engCheck
  extract_lets r
  have hr : Undone r := by
    refine Undone.foldl (fun r a hr => Undone.bind hr fun p => ?_) _ (Undone.ok _)
    dsimp only
    split
    · exact Undone.ok _
    · exact Undone.ok _
    · exact Undone.error (EngineEnd.wf_kill _ _ _)
    · exact Undone.error EngineEnd.wf_stall
  clear_value r
  split
  · exact Undone.error (hr _ rfl)
  · exact Undone.ok _
  · exact Undone.error (EngineEnd.wf_pages _)

theorem State.wf_fillStream {s : State} (uid : Nat) (q : QReg) (h : MemWf s) : (s.fillStream uid q).Wf := by
  unfold State.fillStream
  split
  · exact EngineEnd.wf_done h
  · split
    · exact EngineEnd.wf_done h
    · split
      · exact EngineEnd.wf_done h
      · dsimp only
        split
        · next heq => exact State.undone_engCheck _ _ _ _ _ heq
        · next heq =>
          exact EngineEnd.wf_done (State.memWf_updStrand _ (State.gives_engCheck _ _ _ h _ heq) fun _ ht =>
            Strand.memWf_addSlot _ _ _ ht)

theorem State.wf_drainStream {s : State} (uid : Nat) (q : QReg) (h : MemWf s) : (s.drainStream uid q).Wf := by
  unfold State.drainStream
  split
  · exact EngineEnd.wf_done h
  · split
    · exact EngineEnd.wf_done h
    · split
      · exact EngineEnd.wf_done h
      · split
        · dsimp only
          split
          · next heq => exact State.undone_engCheck _ _ _ _ _ heq
          · next heq =>
            exact EngineEnd.wf_done (State.memWf_updStream _ _ _
              (memWf_foldl (fun _ _ hs => State.memWf_engWrite _ _ _ _ hs) _ (State.gives_engCheck _ _ _ h _ heq)))
        · split
          exacts [EngineEnd.wf_done (State.memWf_post _ _ _ _ _ (State.memWf_updStream _ _ _ h)), EngineEnd.wf_done h]

/-! ### The copy engine (R164 to R168) -/

theorem State.gives_engDesc {s : State} (ctx : Nat) (op : CopyOp) (h : MemWf s) :
    Gives (fun r => MemWf r.2) (s.engDesc ctx op) := by
  unfold State.engDesc
  dsimp only
  split
  · exact Gives.error _
  · next heq => exact Gives.ok (State.gives_engCheck _ _ _ h _ heq)

theorem Keeps.mapError {α : Type} {P : α → Prop} {r : Res α} {f : Exc × State → Exc × State} (h : Keeps P r)
    (hf : ∀ e, MemWf e.2 → MemWf (f e).2) : Keeps P (r.mapError f) := by
  cases r with
  | ok a => exact h
  | error e => exact hf e h

theorem State.memWf_updCore {s : State} (id : Nat) (f : Core → Core) (h : MemWf s) : MemWf (s.updCore id f) := h.of_same rfl

theorem State.keeps_acceptCopy {s : State} (op : CopyOp) (h : MemWf s) : Keeps MemWf (s.acceptCopy op) := by
  refine (Keeps.mapError (f := fun e => (.wait (.copy op), e.2)) (State.keeps_releaseCur _ _ h) fun _ he => he).bind fun s1 h1 => ?_
  extract_lets jp
  have hjp : ∀ r : Desc × State, MemWf r.2 → Keeps MemWf (jp r) := fun r hr =>
    (keeps_require _ _ hr).bind fun _ _ => (keeps_require _ _ hr).bind fun _ _ =>
      State.memWf_scalarDone 8 (MemWf.of_same hr rfl)
  clear_value jp
  split
  · next r heq => exact hjp r (State.gives_engDesc _ _ h1 _ heq)
  · exact h1

theorem State.memWf_cpMove {s : State} (c : CopyCmd) (e : CpElem) (h : MemWf s) : MemWf (State.cpMove c s e) := by
  have put : ∀ v : Nat, MemWf (s.updStrand c.uid fun t =>
      t.putLoc (cpSpace c.desc) ((t.loc (cpSpace c.desc)).writeNat e.loc (cpEwb c.desc) v)) := fun v =>
    State.memWf_updStrand _ h fun _ ht => Strand.memWf_putLoc _ ht (Mem.wf_writeNat _ _ _ (ht.loc _))
  have write : ∀ (a : Int) (v : Nat), MemWf (s.engWrite c.ctx a (cpEwb c.desc) v) := fun a v => State.memWf_engWrite _ _ _ _ h
  unfold State.cpMove
  extract_lets d n localGet localPut
  split
  · exact memWf_ite (write _ _) h
  · exact put _
  · exact memWf_ite (write _ _) h
  · exact h
  · split
    · exact put _
    · exact memWf_ite (write _ _) h
    · exact write _ _
    · exact memWf_ite (write _ _) h

theorem State.wf_runCopy {s : State} (core : Nat) (c : CopyCmd) (h : MemWf s) : (s.runCopy core c).Wf := by
  unfold State.runCopy
  extract_lets n
  split
  · next heq => exact State.undone_engCheck _ _ _ _ _ heq
  · next s0 heq =>
    have h0 : MemWf s0 := State.gives_engCheck _ _ _ h _ heq
    extract_lets w w1 s1 s2 s3
    have h1 : MemWf s1 := memWf_ite (State.memWf_updStrand _ h0 fun _ ht => ht.of_same rfl)
      (memWf_foldl (fun _ e hs => State.memWf_cpMove c e hs) _ h0)
    have h2 : MemWf s2 := State.memWf_updStrand _ h1 fun t ht => by
      split
      exacts [ht.of_same rfl, ht]
    have h3 : MemWf s3 := h2.of_same rfl
    refine EngineEnd.wf_done ?_
    split
    exacts [State.memWf_post _ _ _ _ _ h3, h3]

theorem State.memWf_putPopped {s : State} (b : Bool) (h : MemWf s) : MemWf (s.onCur fun t => { t with popped := b }) := h.of_same rfl

theorem State.keeps_copyOp {s : State} (cs : List Cls) (kind : CopyKind) (a : FCopy) (vs2 : Option Reg) (slot : QReg)
    (h : MemWf s) : Keeps MemWf (s.copyOp cs kind a vs2 slot) := by
  refine (State.keeps_scalarGate cs h).bind fun s0 h0 => (keeps_require _ _ h0).bind fun _ _ =>
    (State.keeps_replyGate _ _ h0).bind fun s1 h1 => (keeps_require _ _ h1).bind fun _ _ =>
      (keeps_require _ _ h1).bind fun _ _ => ?_
  refine Keeps.iteBind (Keeps.ok h1) (State.keeps_streamIn _ _ h1) fun s2 h2 => ?_
  exact (keeps_require _ _ (State.memWf_putPopped _ h2)).bind fun _ _ => State.keeps_acceptCopy _ (State.memWf_putPopped _ h2)

theorem State.memWf_putXDone {s : State} (r : Reg) (f : Strand → Word) (n : Nat) (h : MemWf s) :
    MemWf ((s.onCur fun t => t.putX r (f t)).scalarDone n) :=
  State.memWf_scalarDone n (State.memWf_onCur h (Strand.memWf_putX _ _ h.cur))

/-! ### CSRs (R59 to R65) -/

theorem Strand.memWf_writeVdirty {t : Strand} (w : Word) (h : t.MemWf) : (t.writeVdirty w).MemWf := by
  unfold Strand.writeVdirty Strand.MemWf
  dsimp only
  exact h

theorem Strand.memWf_quelanWrite {t : Strand} (n : Nat) (w : Word) (h : t.MemWf) : (t.quelanWrite n w).MemWf := by
  unfold Strand.quelanWrite
  split
  exacts [h.of_same rfl, h.of_same rfl, h.of_same rfl, Strand.memWf_writeVdirty w h, h.of_same rfl, h]

theorem State.keeps_quelanCsrOp {s : State} (a : FCsr) (h : MemWf s) : Keeps MemWf (s.quelanCsrOp a) :=
  (State.keeps_classGate _ h).bind fun s0 h0 => by
    have h1 : MemWf (s0.onCur Strand.drained) := State.memWf_onCur h0 (Strand.memWf_drained h0.cur)
    refine (keeps_require _ _ h1).bind fun _ _ => State.memWf_putXDone _ _ _ (memWf_ite ?_ h1)
    exact State.memWf_onCur h1 (Strand.memWf_quelanWrite _ _ h1.cur)

theorem Strand.memWf_fcsrWrite {t : Strand} (n : Nat) (w : Word) (h : t.MemWf) : (t.fcsrWrite n w).MemWf := by
  unfold Strand.fcsrWrite
  split <;> exact h.of_same rfl

theorem State.memWf_stdCsrOp {s : State} (a : FCsr) (h : MemWf s) : MemWf (s.stdCsrOp a) := by
  unfold State.stdCsrOp
  refine memWf_ite (State.memWf_onCur h (Strand.memWf_putX _ _ (of_ite Strand.MemWf (Strand.memWf_fcsrWrite _ _ h.cur) h.cur))) ?_
  have h1 := memWf_ite (c := a.writes = true) (State.memWf_putCsrs (s.csrs.write a.csr.toNat
    (csrNew a.op ((s.privRead a.csr.toNat).getD 0) (s.cur.csrSrc a))) h) h
  exact State.memWf_onCur h1 (Strand.memWf_putX _ _ h1.cur)

/-! ### Scalar floating point (R55, R57) -/

theorem State.keeps_fpRounded {s : State} {f : Strand → Round → Strand} (rm : Fin 8) (h : MemWf s)
    (hf : ∀ (t : Strand) (r : Round), t.MemWf → (f t r).MemWf) : Keeps MemWf (s.fpRounded rm f) := by
  unfold State.fpRounded
  split
  exacts [h, State.memWf_onCur h (hf _ _ h.cur)]

theorem State.keeps_floadOp {s : State} (dbl : Bool) (rd rs1 : Reg) (imm : BitVec 12) (h : MemWf s) :
    Keeps MemWf (s.floadOp dbl rd rs1 imm) :=
  (Keeps.lift h (State.gives_load _ _ h)).bind fun r (hr : MemWf r.2) => State.memWf_onCur hr (hr.cur.of_same rfl)

theorem State.keeps_fstoreOp {s : State} (dbl : Bool) (rs1 rs2 : Reg) (imm : BitVec 12) (h : MemWf s) :
    Keeps MemWf (s.fstoreOp dbl rs1 rs2 imm) := Keeps.lift h (State.gives_store _ _ _ h)

theorem State.keeps_fpOp {s : State} (op : Scalar) (h : MemWf s) : Keeps MemWf (s.fpOp op) := by
  cases op with
  | fbin => exact State.keeps_fpRounded _ h fun _ _ ht => ht.of_same rfl
  | fsqrt => exact State.keeps_fpRounded _ h fun _ _ ht => ht.of_same rfl
  | fma => exact State.keeps_fpRounded _ h fun _ _ ht => ht.of_same rfl
  | fcvtToInt => exact State.keeps_fpRounded _ h fun _ _ ht => (Strand.memWf_putX _ _ ht).of_same rfl
  | fcvtFromInt => exact State.keeps_fpRounded _ h fun _ _ ht => ht.of_same rfl
  | fcvtSD => exact State.keeps_fpRounded _ h fun _ _ ht => ht.of_same rfl
  | fcvtDS => exact State.keeps_fpRounded _ h fun _ _ ht => ht.of_same rfl
  | fcmp => exact State.memWf_onCur h ((Strand.memWf_putX _ _ h.cur).of_same rfl)
  | fclass => exact State.memWf_onCur h (Strand.memWf_putX _ _ h.cur)
  | fmvXF => exact State.memWf_onCur h (Strand.memWf_putX _ _ h.cur)
  | fsgn => exact State.memWf_onCur h (h.cur.of_same rfl)
  | fminmax => exact State.memWf_onCur h (h.cur.of_same rfl)
  | fmvFX => exact State.memWf_onCur h (h.cur.of_same rfl)
  | _ => exact h

/-! ### The scalar base (R55, R56) -/

theorem Keeps.map {α β : Type} {Q : α → Prop} {P : β → Prop} {x : Res α} {f : α → β} (hx : Keeps Q x)
    (hf : ∀ a, Q a → P (f a)) : Keeps P (x.map f) := by
  cases x with
  | error e => exact hx
  | ok a => exact hf a hx

theorem Keeps.scalarDone {r : Res State} (n : Nat) (h : Keeps MemWf r) : Keeps MemWf (r.map (·.scalarDone n)) :=
  Keeps.map h fun _ hs => State.memWf_scalarDone n hs

theorem State.keeps_rvEffect {s : State} (n : Nat) (op : Scalar) (h : MemWf s) : Keeps MemWf (s.rvEffect n op) := by
  have put : ∀ (r : Reg) (f : Strand → Word), MemWf ((s.onCur fun t => t.putX r (f t)).scalarDone n) := fun r f =>
    State.memWf_putXDone r f n h
  have fp := Keeps.scalarDone n (State.keeps_fpOp op h)
  cases op with
  | lui => exact put _ _
  | auipc => exact put _ _
  | aluI => exact put _ _
  | shI => exact put _ _
  | shIW => exact put _ _
  | alu => exact put _ _
  | aluW => exact put _ _
  | un => exact put _ _
  | jal => exact State.memWf_onCur h (Strand.memWf_putPc _ (Strand.memWf_putX _ _ h.cur))
  | jalr => exact State.memWf_onCur h (Strand.memWf_putPc _ (Strand.memWf_putX _ _ h.cur))
  | branch => exact State.memWf_onCur h (of_ite Strand.MemWf (Strand.memWf_putPc _ h.cur) (Strand.memWf_adv n h.cur))
  | load =>
    exact (Keeps.lift h (State.gives_load _ _ h)).bind fun r (hr : MemWf r.2) => State.memWf_putXDone _ (fun _ => _) n hr
  | store => exact (Keeps.lift h (State.gives_store _ _ _ h)).bind fun _ h1 => State.memWf_scalarDone n h1
  | lr => exact Keeps.scalarDone n (State.keeps_lrOp _ _ _ _ _ h)
  | sc => exact Keeps.scalarDone n (State.keeps_scOp _ _ _ _ _ _ h)
  | amo => exact Keeps.scalarDone n (State.keeps_amoOp _ _ _ _ _ _ _ h)
  | fload => exact Keeps.scalarDone n (State.keeps_floadOp _ _ _ _ h)
  | fstore => exact Keeps.scalarDone n (State.keeps_fstoreOp _ _ _ _ h)
  | csr a => exact State.memWf_scalarDone n (State.memWf_stdCsrOp a h)
  | sret => exact State.keeps_sret h
  | mret => exact State.keeps_mret h
  | wfi => exact of_ite (Keeps MemWf) h (State.memWf_scalarDone n h)
  | sfenceVma => exact State.memWf_scalarDone n h
  | _ => exact fp

theorem State.keeps_rvOp {s : State} (f : Form) (op : Scalar) (h : MemWf s) : Keeps MemWf (s.rvOp f op) :=
  (keeps_require _ _ h).bind fun _ _ => (keeps_require _ _ h).bind fun _ _ => (keeps_require _ _ h).bind fun _ _ =>
    State.keeps_rvEffect _ op (State.memWf_delivered h)

theorem State.keeps_fenceOp {s : State} (h : MemWf s) : Keeps MemWf s.fenceOp :=
  (State.keeps_scalarGate _ h).bind fun _ h0 => (State.keeps_releaseCur _ _ h0).bind fun _ h1 => State.memWf_scalarDone 4 h1

theorem State.keeps_fenceIOp {s : State} (h : MemWf s) : Keeps MemWf s.fenceIOp :=
  (State.keeps_scalarGate _ h).bind fun _ h0 => (State.keeps_releaseCur _ _ h0).bind fun _ h1 => State.memWf_scalarDone 4 h1

theorem State.keeps_callOp {s : State} (e : Exc) (h : MemWf s) : Keeps MemWf (s.callOp e) :=
  (State.keeps_scalarGate _ h).bind fun _ h0 => h0

/-! ### Fences, barriers and events (R187, R200 to R203) -/

theorem State.keeps_ordOp {s : State} (scope : Fin 5) (scalar vector inLane : Bool) (h : MemWf s) :
    Keeps MemWf (s.ordOp scope scalar vector inLane) :=
  (keeps_require _ _ h).bind fun _ _ => (State.keeps_releaseCur _ _ (State.memWf_delivered h)).bind fun _ h1 =>
    (keeps_require _ _ h1).bind fun _ _ => State.memWf_scalarDone 4 h1

theorem State.keeps_barOp {s : State} (h : MemWf s) : Keeps MemWf s.barOp :=
  (State.keeps_scalarGate _ h).bind fun _ h0 => (State.keeps_releaseCur _ _ h0).bind fun _ h1 =>
    of_ite (Keeps MemWf) (State.memWf_scalarDone 4 h1) (State.memWf_barrierCheck _ _ (h1.of_same rfl))

theorem State.keeps_phendOp {s : State} (h : MemWf s) : Keeps MemWf s.phendOp :=
  (State.keeps_scalarGate _ h).bind fun _ h0 => by
    have h1 := State.memWf_flushCur false true h0
    exact (keeps_require _ _ h1).bind fun _ _ => State.memWf_scalarDone 4 h1

theorem State.memWf_putLatch {s : State} (h : MemWf s) (b : Bool) : MemWf (s.onCur fun t => { t with latch := b }) := h.of_same rfl

theorem State.keeps_wfeOp {s : State} (h : MemWf s) : Keeps MemWf s.wfeOp :=
  (State.keeps_scalarGate _ h).bind fun _ h0 => (keeps_require _ _ h0).bind fun _ _ =>
    State.memWf_scalarDone 4 (State.memWf_putLatch h0 false)

theorem State.keeps_targetLaunch {s : State} (w : Word) (h : MemWf s) : Keeps (fun _ => True) (s.targetLaunch w) := by
  unfold State.targetLaunch
  split
  · split
    exacts [True.intro, h]
  · exact h

theorem State.keeps_sevOp {s : State} (rs1 : Reg) (h : MemWf s) : Keeps MemWf (s.sevOp rs1) := by
  refine (State.keeps_scalarGate _ h).bind fun s0 h0 => (State.keeps_targetLaunch _ h0).bind fun _ _ =>
    State.memWf_scalarDone 4 ?_
  split
  exacts [State.memWf_updStrand _ h0 fun _ ht => ht.of_same rfl, h0]

/-! ### Messages (R205, R206) -/

theorem State.keeps_sendOp {s : State} (rs1 rs2 : Reg) (ch : QReg) (h : MemWf s) : Keeps MemWf (s.sendOp rs1 rs2 ch) := by
  refine (State.keeps_scalarGate _ h).bind fun s0 h0 => (State.keeps_targetLaunch _ h0).bind fun _ _ =>
    (State.keeps_releaseCur _ _ h0).bind fun s1 h1 => ?_
  dsimp only
  split
  · next heq => exact State.memWf_scalarDone 4 (State.memWf_of_deliver h1 heq)
  · exact State.memWf_scalarDone 4 (State.memWf_post _ _ _ _ _ h1)
  · exact h1

theorem Strand.memWf_putX2 {t : Strand} (r1 r2 : Reg) (v1 v2 : Word) (h : t.MemWf) : ((t.putX r1 v1).putX r2 v2).MemWf :=
  Strand.memWf_putX _ _ (Strand.memWf_putX _ _ h)

theorem State.keeps_recvOp {s : State} (waits : Bool) (rd : Reg) (ch : QReg) (h : MemWf s) :
    Keeps MemWf (s.recvOp waits rd ch) := by
  refine (State.keeps_scalarGate _ h).bind fun s0 h0 => (keeps_require _ _ h0).bind fun _ _ => ?_
  split
  · exact State.memWf_scalarDone 4 (State.memWf_onCur h0 ((Strand.memWf_putX2 _ _ _ _ h0.cur).of_same rfl))
  · exact (keeps_require _ _ h0).bind fun _ _ =>
      State.memWf_scalarDone 4 (State.memWf_onCur h0 (Strand.memWf_putX2 _ _ _ _ h0.cur))

/-! ### Freezing (R209, R211 to R213) -/

theorem State.keeps_frzOp {s : State} (rd rs1 rs2 : Reg) (h : MemWf s) : Keeps MemWf (s.frzOp rd rs1 rs2) := by
  refine (State.keeps_scalarGate _ h).bind fun s0 h0 => (State.keeps_releaseCur _ _ h0).bind fun s1 h1 => ?_
  split
  · exact (keeps_require _ _ h1).bind fun _ _ => State.memWf_putXDone _ _ _ h1
  · exact MemWf.of_same h1 rfl

theorem State.keeps_thawOp {s : State} (rs1 : Reg) (ch : QReg) (h : MemWf s) : Keeps MemWf (s.thawOp rs1 ch) := by
  refine (State.keeps_scalarGate _ h).bind fun s0 h0 => ?_
  split
  · exact h0
  · exact (keeps_require _ _ h0).bind fun _ _ => State.memWf_scalarDone 4 (State.memWf_startThaw _ _ _ h0)

theorem State.keeps_thawwOp {s : State} (rs1 : Reg) (h : MemWf s) : Keeps MemWf (s.thawwOp rs1) :=
  (State.keeps_scalarGate _ h).bind fun _ h0 => (keeps_require _ _ h0).bind fun _ _ => State.memWf_scalarDone 4 h0

theorem State.keeps_frzqOp {s : State} (rd rs1 : Reg) (h : MemWf s) : Keeps MemWf (s.frzqOp rd rs1) :=
  (State.keeps_scalarGate _ h).bind fun _ h0 => (keeps_require _ _ h0).bind fun _ _ => State.memWf_putXDone _ _ _ h0

end Sys2Proof.Machine
end

section
/-! PROOFS. The memories' canonical form: vector arithmetic, and the instructions that issue behind a fault. -/

namespace Sys2Proof.Machine

/-! ### Vector forms (R94 to R131) -/

theorem Strand.memWf_mapElems {t : Strand} (is : List Nat) (vd : Reg) (w n : Nat) (f : Nat → Nat × Nat) (h : t.MemWf) :
    (t.mapElems is vd w n f).MemWf := h.of_same rfl

theorem keeps_intForm {s : State} (cs : List Cls) (useD : Bool) (op : ElemOp) (vm : Bool) (vd vs2 : Reg) (srcs : List Reg)
    (b : Strand → Nat → Nat) (h : MemWf s) : Keeps MemWf (intForm cs useD op vm vd vs2 srcs b s) :=
  State.keeps_vectorOp _ _ _ _ _ h fun _ ht => Strand.memWf_mapElems _ _ _ _ _ ht

theorem keeps_splatForm {s : State} (cs : List Cls) (ok : Strand → Bool) (vm : Bool) (vd : Reg) (b : Strand → Nat)
    (h : MemWf s) : Keeps MemWf (splatForm cs ok vm vd b s) :=
  State.keeps_vectorOp _ _ _ _ _ h fun _ ht => Strand.memWf_mapElems _ _ _ _ _ ht

theorem keeps_mergeForm {s : State} (vd vs2 : Reg) (srcs : List Reg) (b : Strand → Nat → Nat) (h : MemWf s) :
    Keeps MemWf (mergeForm vd vs2 srcs b s) :=
  State.keeps_vectorOp _ _ _ _ _ h fun _ ht => Strand.memWf_mapElems _ _ _ _ _ ht

theorem keeps_cvtForm {s : State} (ok : Strand → Bool) (fs fd : Nat) (vm : Bool) (vd vs2 : Reg)
    (f : Strand → Nat → Nat × Nat) (h : MemWf s) : Keeps MemWf (cvtForm ok fs fd vm vd vs2 f s) :=
  State.keeps_vectorOp _ _ _ _ _ h fun _ ht => Strand.memWf_mapElems _ _ _ _ _ ht

theorem keeps_cmpForm {s : State} (ok : Strand → Bool) (vm : Bool) (kd : MReg) (vs2 : Reg) (srcs : List Reg)
    (f : Strand → Nat → Bool × Nat) (h : MemWf s) : Keeps MemWf (cmpForm ok vm kd vs2 srcs f s) :=
  State.keeps_vectorOp _ _ _ _ _ h fun _ ht => ht.of_same rfl

theorem keeps_permForm {s : State} (ks : List MReg) (vd : Reg) (srcs : List Reg) (f : Strand → List (Nat × Nat))
    (h : MemWf s) : Keeps MemWf (permForm ks vd srcs f s) :=
  State.keeps_vectorOp _ _ _ _ _ h fun _ ht => ht.of_same rfl

theorem keeps_floatForm {s : State} (rounds useD : Bool) (op : FloatOp) (vm : Bool) (vd vs2 : Reg) (srcs : List Reg)
    (b : Strand → Nat → Nat) (h : MemWf s) : Keeps MemWf (floatForm rounds useD op vm vd vs2 srcs b s) :=
  State.keeps_vectorOp _ _ _ _ _ h fun _ ht => Strand.memWf_mapElems _ _ _ _ _ ht

theorem keeps_redForm {s : State} (ok : Strand → Bool) (a : FVV) (f : Strand → Nat → List (Nat × Nat) → Nat × Nat)
    (h : MemWf s) : Keeps MemWf (redForm ok a f s) :=
  State.keeps_vectorOp _ _ _ _ _ h fun _ ht => ht.of_same rfl

theorem keeps_maskForm {s : State} (f : KReg → KReg → KReg) (kd ks2 ks1 : MReg) (h : MemWf s) :
    Keeps MemWf (maskForm f kd ks2 ks1 s) :=
  (State.keeps_vectorGate _ _ h).bind fun _ h0 => (keeps_require _ _ h0).bind fun _ _ =>
    State.memWf_vectorDone 4 (State.memWf_onCur h0 (Strand.memWf_putK _ _ h0.cur))

theorem keeps_maskReply {s : State} (f : Strand → List Nat → Word) (rd : Reg) (ks2 : MReg) (h : MemWf s) :
    Keeps MemWf (maskReply f rd ks2 s) :=
  (State.keeps_replyGate _ _ h).bind fun _ h0 => (keeps_require _ _ h0).bind fun _ _ =>
    State.memWf_vectorDone 4 (State.memWf_onCur h0 (Strand.memWf_pushReply _ h0.cur))

theorem keeps_moveForm {s : State} (cs : List Cls) (ok : Strand → Bool) (vs2 : Reg) (r : Strand → Nat → Reply)
    (h : MemWf s) : Keeps MemWf (moveForm cs ok vs2 r s) :=
  (State.keeps_replyGate _ _ h).bind fun _ h0 => (keeps_require _ _ h0).bind fun _ _ =>
    (State.keeps_streamIn _ _ h0).bind fun _ h1 =>
      State.memWf_vectorDone 4 (State.memWf_onCur h1 (Strand.memWf_pushReply _ h1.cur))

/-! ### The instructions of the vector unit -/

/-- A meaning leads from a canonical machine to canonical machines only. -/
def KeepsMem (f : Meaning) : Prop := ∀ s, MemWf s → Leads (f s)

/-- Every instruction that may issue behind a fault keeps the memories. -/
theorem keepsMem_exec_of_vecRow {i : Instr} (hi : (vecRow i).isSome) : KeepsMem (exec i) := by
  cases i with
  | vaddVv | vsubVv | vmulVv | vmulhVv | vmulhnVv | vmaccVv | vnmsacVv | vminVv | vmaxVv | vminnVv | vmaxnVv | vandVv
    | vorVv | vxorVv | vsllVv | vsrlVv | vsraVv | vdivVv | vdivnVv | vremVv | vremnVv | vsaddVv | vsaddnVv | vssubVv
    | vssubnVv | vaddVx | vsubVx | vmulVx | vmulhVx | vmulhnVx | vmaccVx | vnmsacVx | vminVx | vmaxVx | vminnVx
    | vmaxnVx | vandVx | vorVx | vxorVx | vsllVx | vsrlVx | vsraVx | vdivVx | vdivnVx | vremVx | vremnVx | vsaddVx
    | vsaddnVx | vssubVx | vssubnVx | vrsubVx | vaddVi | vandVi | vorVi | vxorVi | vsllVi | vsrlVi | vsraVi | vsaddVi
    | vsaddnVi | vrsubVi =>
    exact fun s h => leads_finish (keeps_intForm _ _ _ _ _ _ _ _ h)
  | vfaddVv | vfsubVv | vfmulVv | vfdivVv | vfminVv | vfmaxVv | vfmaccVv | vfnmaccVv | vfmsacVv | vfnmsacVv
    | vfsgnjVv | vfsgnjnVv | vfsgnjxVv | vfsqrt | vfrece | vfrsqe | vfclass | vfaddVf | vfsubVf | vfmulVf | vfdivVf
    | vfminVf | vfmaxVf | vfmaccVf | vfnmaccVf | vfmsacVf | vfnmsacVf | vfsgnjVf | vfsgnjnVf | vfsgnjxVf | vfrsubVf
    | vfrdivVf =>
    exact fun s h => leads_finish (keeps_floatForm _ _ _ _ _ _ _ _ h)
  | vmseqVv | vmsneVv | vmsltVv | vmsltnVv | vmsleVv | vmslenVv | vmseqVx | vmsneVx | vmsltVx | vmsltnVx | vmsleVx
    | vmslenVx | vmseqVi | vmsneVi | vmsleVi | vmslenVi | vmfeqVv | vmfneVv | vmfltVv | vmfleVv | vmfordVv | vmfeqVf
    | vmfneVf | vmfltVf | vmfleVf | vmfordVf =>
    exact fun s h => leads_finish (keeps_cmpForm _ _ _ _ _ _ h)
  | vfcvtfi | vfcvtif | vfwcvt | vdqcvt | vncvti | vwcvti | vfncvt | vqcvt =>
    exact fun s h => leads_finish (keeps_cvtForm _ _ _ _ _ _ _ h)
  | vsplatVx | vsplatVi =>
    exact fun s h => leads_finish (keeps_splatForm _ _ _ _ _ h)
  | vmergeVv | vmergeVx | vmergeVi =>
    exact fun s h => leads_finish (keeps_mergeForm _ _ _ _ h)
  | vredsum | vredmax | vredmin | vredmaxn | vredminn | vredand | vredor | vfredo | vfredt | vfredmax | vfredmin
    | vfredamax =>
    exact fun s h => leads_finish (keeps_redForm _ _ _ h)
  | vslideupVx | vslideupVi | vslidednVx | vslidednVi | vpermVv | vcompress | vexpand =>
    exact fun s h => leads_finish (keeps_permForm _ _ _ _ h)
  | kand | kor | kxor | kandn | knot | kmov =>
    exact fun s h => leads_finish (keeps_maskForm _ _ _ _ h)
  | vmvxs | vmvfs =>
    exact fun s h => leads_finish (keeps_moveForm _ _ _ _ h)
  | kpop | kfirst =>
    exact fun s h => leads_finish (keeps_maskReply _ _ _ h)
  | vldl | vstl =>
    exact fun s h => leads_finish (State.keeps_localOp _ _ _ _ _ _ h)
  | cpgr | cpsc | cpt | cpf =>
    exact fun s h => leads_finish (State.keeps_copyOp _ _ _ _ _ h)
  | vld | vst | vlds | vsts | vldxO | vstxO | vldx | vstx | vldff =>
    exact fun s h => leads_finish (State.keeps_vmemOp _ h)
  | kld | kst =>
    exact fun s h => leads_finish (State.keeps_maskOp _ _ _ _ h)
  | vamoadd | vamomin | vamomax | vamominn | vamomaxn | vamoand | vamoor | vamoxor | vamoswp | vamocas | vamofadd =>
    exact fun s h => leads_finish (State.keeps_vamoOp _ _ _ h)
  | vid | vfsplat =>
    exact fun s h => leads_finish (State.keeps_vectorOp _ _ _ _ _ h fun _ ht => Strand.memWf_mapElems _ _ _ _ _ ht)
  | vgl a =>
    exact fun s h => leads_finish (State.keeps_memOp _ _ _ _ _ _ h fun _ e ipc hs => State.keeps_glRun (.vgl a) a e ipc hs)
  | vsc a =>
    exact fun s h => leads_finish (State.keeps_memOp _ _ _ _ _ _ h fun _ e ipc hs => State.keeps_scRun (.vsc a) a e ipc hs)
  | _ => exact nomatch hi

theorem run_rowsIntVv {i : Instr} {r : VRow} {f : Meaning} (hr : rowsIntVv i = some r) (hf : r.run = some f) : f = exec i := by
  unfold rowsIntVv at hr
  split at hr <;> cases hr <;> cases hf <;> rfl

theorem run_rowsInt {i : Instr} {r : VRow} {f : Meaning} (hr : rowsInt i = some r) (hf : r.run = some f) : f = exec i := by
  unfold rowsInt at hr
  split at hr <;> cases hr <;> cases hf <;> rfl

theorem run_rowsFloat {i : Instr} {r : VRow} {f : Meaning} (hr : rowsFloat i = some r) (hf : r.run = some f) : f = exec i := by
  unfold rowsFloat at hr
  split at hr <;> cases hr <;> cases hf <;> rfl

theorem run_rowsCvt {i : Instr} {r : VRow} {f : Meaning} (hr : rowsCvt i = some r) (hf : r.run = some f) : f = exec i := by
  unfold rowsCvt at hr
  split at hr <;> cases hr <;> cases hf <;> rfl

theorem run_rowsCmp {i : Instr} {r : VRow} {f : Meaning} (hr : rowsCmp i = some r) (hf : r.run = some f) : f = exec i := by
  unfold rowsCmp at hr
  split at hr <;> cases hr <;> cases hf <;> rfl

theorem run_rowsWhole {i : Instr} {r : VRow} {f : Meaning} (hr : rowsWhole i = some r) (hf : r.run = some f) : f = exec i := by
  unfold rowsWhole at hr
  split at hr <;> cases hr <;> cases hf <;> rfl

theorem run_rowsOther {i : Instr} {r : VRow} {f : Meaning} (hr : rowsOther i = some r) (hf : r.run = some f) : f = exec i := by
  unfold rowsOther at hr
  split at hr <;> cases hr <;> cases hf <;> rfl

theorem run_rowsMem {i : Instr} {r : VRow} {f : Meaning} (hr : rowsMem i = some r) (hf : r.run = some f) : f = exec i := by
  unfold rowsMem at hr
  split at hr <;> cases hr <;> cases hf

/-- The meaning that a row holds is its instruction's. -/
theorem run_vecRow {i : Instr} {r : VRow} {f : Meaning} (hr : vecRow i = some r) (hf : r.run = some f) : f = exec i := by
  unfold vecRow at hr
  split at hr
  · cases hr
    cases hf
  · obtain ⟨t, ht, he⟩ := firstSome_eq_some hr
    simp only [List.mem_cons, List.not_mem_nil, or_false] at ht
    rcases ht with rfl | rfl | rfl | rfl | rfl | rfl | rfl | rfl
    exacts [run_rowsIntVv he hf, run_rowsInt he hf, run_rowsFloat he hf, run_rowsCvt he hf, run_rowsCmp he hf,
      run_rowsWhole he hf, run_rowsOther he hf, run_rowsMem he hf]

theorem keepsMem_of_vecRow {i : Instr} {r : VRow} {f : Meaning} (hr : vecRow i = some r) (hf : r.run = some f) : KeepsMem f := by
  rw [run_vecRow hr hf]
  exact keepsMem_exec_of_vecRow (by rw [hr]; rfl)

/-! ### Fetch, and strands in one another's place (R47, R52) -/

theorem State.gives_fetchAt {s : State} (h : MemWf s) : Gives (fun r => MemWf r.2) s.fetchAt := by
  refine Gives.bind (State.gives_fetchParcel _ h) fun r hr => ?_
  obtain ⟨w, s1⟩ := r
  dsimp only
  split
  · exact Gives.ok hr
  · refine Gives.bind (State.gives_fetchParcels _ _ hr) fun r' hr' => ?_
    split <;> exact Gives.ok hr'

theorem State.gives_fetchInstr {s : State} (h : MemWf s) : Gives (fun r => MemWf r.2) s.fetchInstr :=
  of_ite (Gives _) (Gives.ok h) (State.gives_fetchAt h)

theorem State.memWf_resolve {s : State} (i : Instr) (h : MemWf s) : MemWf (s.resolve i).2 := by
  unfold State.resolve
  split
  · split
    exacts [h, h.of_same rfl]
  · split <;> exact h

theorem State.memWf_bring {s : State} (uid : Nat) (h : MemWf s) : MemWf (s.bring uid) := by
  unfold State.bring
  refine memWf_ite h ?_
  split
  · exact h
  · next t heq =>
    refine memWf_of_parts h.spaces (h.others t (List.mem_of_find?_eq_some heq)) fun u hu => ?_
    obtain ⟨v, hv, rfl⟩ := List.mem_map.mp hu
    exact of_ite Strand.MemWf h.cur (h.others v hv)

theorem State.memWf_asStrand {s : State} {f : State → State} (uid : Nat) (h : MemWf s) (hf : ∀ s, MemWf s → MemWf (f s)) :
    MemWf (s.asStrand uid f) :=
  State.memWf_filterOthers _ (State.memWf_bring _ (hf _ (State.memWf_bring uid h)))

/-! ### The instructions that issue behind a fault (R276, R277) -/

theorem State.memWf_of_serveStreams {s : State} {r : VRow} {ls : List Left} {p : State × Nat} (h : MemWf s)
    (hr : s.serveStreams r ls = some p) : MemWf p.1 := by
  unfold State.serveStreams at hr
  dsimp only at hr
  split at hr
  · cases hr
    exact h
  · split at hr
    · exact nomatch hr
    · have hs := State.keeps_streamIn r.reads r.writes h
      split at hr
      · next heq =>
        cases hr
        rw [heq] at hs
        exact hs
      · exact nomatch hr

theorem State.memWf_of_followArith {s : State} {i : Instr} {r : VRow} {f : Meaning} {ls : List Left} {p : State × List Left}
    (h : MemWf s) (hf : KeepsMem f) (hr : s.followArith i r f ls = some p) : MemWf p.1 := by
  unfold State.followArith at hr
  obtain ⟨⟨s1, sf⟩, hs, hr⟩ := Option.bind_eq_some_iff.mp hr
  have h1 : MemWf s1 := State.memWf_of_serveStreams h hs
  dsimp -zeta only at hr
  extract_lets t env wait starved todo pending ready whole at hr
  obtain ⟨-, hr⟩ := Option.ite_none_left_eq_some.mp hr
  split at hr
  · next s' heq =>
    have h2 : MemWf s' := by
      refine hf _ ?_ _ heq
      exact h1.of_same rfl
    obtain ⟨-, hr⟩ := Option.ite_none_left_eq_some.mp hr
    split at hr
    · cases hr
      exact State.memWf_streamOut _ (h2.of_same rfl)
    · cases hr
      exact memWf_ite (State.memWf_onCur h1 (Strand.memWf_adv _ h1.cur)) (h2.of_same rfl)
  · exact nomatch hr

theorem State.memWf_of_followMem {s : State} {r : VRow} {v : VMem} {ls : List Left} {p : State × List Left × Pages}
    (h : MemWf s) (hr : s.followMem r v ls = some p) : MemWf p.1 := by
  unfold State.followMem at hr
  obtain ⟨⟨s1, sf⟩, hs, hr⟩ := Option.bind_eq_some_iff.mp hr
  have h1 : MemWf s1 := State.memWf_of_serveStreams h hs
  have hk : ∀ hold, Keeps MemWf ((s1.onCur Strand.unbound).vmemHeld v hold) := fun hold =>
    State.keeps_vmemHeld v hold (h1.of_same rfl)
  dsimp -zeta only at hr
  extract_lets t wait starved todo hold env known ready at hr
  obtain ⟨-, hr⟩ := Option.ite_none_left_eq_some.mp hr
  have h2 := hk (maskBits hold)
  split at hr
  · next heq =>
    rw [heq] at h2
    obtain ⟨-, hr⟩ := Option.ite_none_left_eq_some.mp hr
    cases hr
    exact State.memWf_streamOut _ (MemWf.of_same h2 rfl)
  · next heq =>
    rw [heq] at h2
    cases hr
    exact MemWf.of_same (memWf_ite (State.memWf_onCur h1 (Strand.memWf_adv 4 h1.cur)) h2) rfl
  · exact nomatch hr

theorem keepsMem_plainScalar {i : Instr} {rs : List Reg} {f : Meaning} (hr : plainScalar i = some (rs, f)) : KeepsMem f := by
  unfold plainScalar at hr
  split at hr
  · split at hr <;> cases hr <;> exact fun _ h => leads_finish (State.keeps_rvOp _ _ h)
  · exact nomatch hr

theorem State.memWf_of_issueBehind {s : State} {ls : List Left} {p : State × List Left × Pages} (h : MemWf s)
    (hr : s.issueBehind ls = some p) : MemWf p.1 := by
  unfold State.issueBehind at hr
  split at hr
  · next i n s0 heq =>
    have h0 : MemWf s0 := State.gives_fetchInstr h _ heq
    split at hr
    · next r hrow =>
      split at hr
      · exact nomatch hr
      · split at hr
        · split at hr
          · exact nomatch hr
          · exact State.memWf_of_followMem h0 hr
        · next f hmem hrun =>
          obtain ⟨q, hq, rfl⟩ := Option.map_eq_some_iff.mp hr
          exact State.memWf_of_followArith h0 (keepsMem_of_vecRow hrow hrun) hq
        · exact nomatch hr
    · split at hr
      · next rs f hplain =>
        split at hr
        · exact nomatch hr
        · split at hr
          · next s' heq' =>
            split at hr
            · cases hr
              exact keepsMem_plainScalar hplain _ h0 _ heq'
            · exact nomatch hr
          · exact nomatch hr
      · exact nomatch hr
  · exact nomatch hr

theorem State.memWf_issueUpTo : ∀ (n : Nat) {s : State} (ls : List Left) (pages : Pages), MemWf s →
    MemWf (State.issueUpTo n s ls pages).1
  | 0, _, _, _, h => h
  | n + 1, s, ls, pages, h => by
    unfold State.issueUpTo
    split
    · exact h
    · next heq => exact State.memWf_issueUpTo n _ _ (State.memWf_of_issueBehind h heq)

theorem State.memWf_stopped {s : State} (uid : Nat) (i : TrapInfo) (h : MemWf s) : MemWf (s.stopped uid i).1 := by
  unfold State.stopped
  dsimp only
  split
  · split
    · exact h
    · split
      · exact h
      · have hb := State.memWf_bring uid h
        split
        · exact h
        · refine State.memWf_bring _ (MemWf.of_same (State.memWf_issueUpTo _ _ _ (s := _) ?_) rfl)
          exact MemWf.of_same hb rfl
  · exact h

end Sys2Proof.Machine
end

section
/-! PROOFS. The memories' canonical form: traps, replay and completion events. -/

namespace Sys2Proof.Machine

/-! ### Traps and pauses (R168, R271 to R274) -/

theorem State.memWf_bumpGen {s : State} (core unit : Nat) (h : MemWf s) : MemWf (s.bumpGen core unit) := h.of_same rfl

theorem State.memWf_postBatch {s : State} (die lid ctx sid : Nat) (token : Word) (pages : List (Nat × Nat × Nat))
    (h : MemWf s) : MemWf (s.postBatch die lid ctx sid token pages) := State.memWf_updDie _ _ h

theorem State.memWf_enterBatch {s : State} (die : Nat) (h : MemWf s) : MemWf (s.enterBatch die) := State.memWf_updDie _ _ h

theorem State.memWf_killFaultIf {s : State} (c : Prop) [Decidable c] (lid cls : Nat) (h : MemWf s) :
    MemWf (if c then s.killFault lid cls else s) := memWf_ite (State.memWf_killFault _ _ h) h

theorem State.memWf_trap {s : State} (uid : Nat) (h : MemWf s) : MemWf (s.trap uid) := by
  unfold State.trap
  split
  · exact h
  · split
    · next t i hst =>
      dsimp only
      exact State.memWf_killFaultIf _ _ _ (State.memWf_postBatch _ _ _ _ _ _ (State.memWf_updStrand _
        (State.memWf_bumpGen _ _ (State.memWf_stopped uid i h)) fun _ hu => (Strand.memWf_drained hu).of_same rfl))
    · exact h

theorem State.memWf_unitFault {s : State} (core unit lid ctx sid cls addr acc : Nat) (h : MemWf s) :
    MemWf (s.unitFault core unit lid ctx sid cls addr acc) :=
  State.memWf_killFault _ _ (State.memWf_postBatch _ _ _ _ _ _ (State.memWf_bumpGen _ _ h))

theorem State.memWf_engineParks {s : State} (core lid ctx sid : Nat) (ps : List (Nat × Nat × Nat)) (h : MemWf s) :
    MemWf (s.engineParks core lid ctx sid ps) :=
  State.memWf_postBatch _ _ _ _ _ _ (State.memWf_updCore _ _ (State.memWf_bumpGen _ _ h))

theorem State.memWf_enginePause {s : State} (core : Nat) (h : MemWf s) : MemWf (s.enginePause core) := by
  unfold State.enginePause
  refine memWf_ite h ?_
  split
  · exact h
  · split
    · exact State.memWf_engineParks _ _ _ _ _ (State.memWf_walked _ _ h)
    · exact State.memWf_unitFault _ _ _ _ _ _ _ _ ((s.faultWalk_caches _ _ _).memWf h)
    · exact h

/-! ### Replay (R278, R296) -/

theorem State.keeps_replayMem {s : State} (v : VMem) (e : BmEntry) (h : MemWf s) : Keeps MemWf (s.replayMem v e) :=
  (State.keeps_vmemRun _ _ _ h).bind fun _ h1 => State.memWf_streamOut _ h1

theorem State.keeps_replayAmo {s : State} (op : Fin 11) (i : Instr) (a : FAmo) (e : BmEntry) (h : MemWf s) :
    Keeps MemWf (s.replayAmo op i a e) :=
  (State.keeps_amoRun _ _ _ _ _ h).bind fun _ h1 => State.memWf_streamOut _ h1

theorem Strand.memWf_putXop {t : Strand} (x : XSrc) (w : Word) (h : t.MemWf) : (t.putXop x w).MemWf := by
  unfold Strand.putXop
  split
  exacts [Strand.memWf_setX _ _ h, h.of_same rfl, h]

theorem Strand.memWf_putBase {t : Strand} (base : Option Reg) (w : Word) (h : t.MemWf) : (t.putBase base w).MemWf := by
  unfold Strand.putBase
  split
  exacts [Strand.memWf_setX _ _ h, h]

theorem State.keeps_replayArith {s : State} {f : Meaning} (r : VRow) (e : BmEntry) (h : MemWf s) (hf : KeepsMem f) :
    Keeps MemWf (s.replayArith r f e) := by
  unfold State.replayArith
  extract_lets t
  split
  · next s' heq =>
    have h1 : MemWf s' := hf _ (State.memWf_onCur h ((Strand.memWf_putBase _ _ (Strand.memWf_putXop _ _ h.cur)).of_same rfl)) _ heq
    extract_lets s1
    have h2 : MemWf s1 := h1.of_same rfl
    split
    · exact State.memWf_streamOut _ h2
    · split <;> exact h2
    · exact h
  · exact h

theorem State.keeps_replayInstr {s : State} (i : Instr) (e : BmEntry) (h : MemWf s) : Keeps MemWf (s.replayInstr i e) := by
  unfold State.replayInstr
  split
  · exact State.keeps_maskRun _ _ _ _ _ h
  · exact State.keeps_maskRun _ _ _ _ _ h
  · exact (State.keeps_glRun _ _ _ _ h).bind fun _ h1 => State.memWf_streamOut _ h1
  · exact State.keeps_scRun _ _ _ _ h
  · split
    · exact State.keeps_replayAmo _ _ _ _ h
    · split
      · exact State.keeps_replayMem _ _ h
      · next hrow =>
        split
        · next hrun => exact State.keeps_replayArith _ _ h (keepsMem_of_vecRow hrow hrun)
        · exact h
      · exact h

theorem State.memWf_of_replayFrom (b : Bookmark) : ∀ (es : List BmEntry) (k : Nat) {s s' : State}, MemWf s →
    State.replayFrom b k es s = some s' → MemWf s'
  | [], _, _, _, h, hr => by
    cases hr
    exact h.of_same rfl
  | e :: es, k, s, s', h, hr => by
    unfold State.replayFrom at hr
    dsimp only at hr
    split at hr
    · exact State.memWf_of_replayFrom b es _ h hr
    · next i hi =>
      split at hr
      · cases hr
        exact h.of_same rfl
      · have hk := State.keeps_replayInstr i e (s := s.onCur (·.entryIn e)) (h.of_same rfl)
        split at hr
        · next heq =>
          rw [heq] at hk
          refine State.memWf_of_replayFrom b es _ ?_ hr
          exact MemWf.of_same hk rfl
        · next heq =>
          rw [heq] at hk
          cases hr
          exact MemWf.of_same hk rfl
        · next heq =>
          rw [heq] at hk
          cases hr
          exact MemWf.of_same hk rfl
        · exact nomatch hr

theorem State.memWf_of_replay {s s' : State} {uid : Nat} {b : Bookmark} (h : MemWf s) (hr : s.replay uid b = some s') :
    MemWf s' := by
  unfold State.replay at hr
  split at hr
  · cases hr
    exact State.memWf_asStrand uid h fun s hs => memWf_getD hs fun s' hr => State.memWf_of_replayFrom b b.entries 0 hs hr
  · exact nomatch hr

/-! ### Completion events -/

theorem EngineEnd.memWf_orElse {e : EngineEnd} {s : State} (he : e.Wf) (h : MemWf s) : MemWf (e.orElse s) := by
  cases e with
  | done s' => exact he s' rfl
  | _ => exact h

theorem State.memWf_copyComplete {s : State} (core : Nat) (h : MemWf s) : MemWf (s.copyComplete core) := by
  unfold State.copyComplete
  split
  exacts [EngineEnd.memWf_orElse (State.wf_runCopy _ _ h) h, h]

theorem Keeps.of_ok {r : Res State} {s : State} (h : Keeps MemWf r) (he : r = .ok s) : MemWf s := by
  subst he
  exact h

theorem Keeps.of_error {r : Res State} {e : Exc} {s : State} (h : Keeps MemWf r) (he : r = .error (e, s)) : MemWf s := by
  subst he
  exact h

theorem State.memWf_copyAccept {s : State} (core : Nat) (h : MemWf s) : MemWf (s.copyAccept core) := by
  unfold State.copyAccept
  refine memWf_ite h ?_
  split
  · exact h
  · refine State.memWf_asStrand _ h fun s hs => ?_
    split
    · next heq =>
      refine Keeps.of_ok (State.keeps_acceptCopy _ ?_) heq
      exact hs.of_same rfl
    · next heq =>
      refine State.memWf_takeExc _ (Keeps.of_error (State.keeps_acceptCopy _ ?_) heq)
      exact hs.of_same rfl

theorem State.memWf_performElem {s : State} (uid lane : Nat) (h : MemWf s) : MemWf (s.performElem uid lane) := by
  unfold State.performElem
  split
  · exact h
  · exact memWf_ite h (State.memWf_updStrand _ h fun _ ht => ht.of_same rfl)

theorem Strand.memWf_completeOne {t : Strand} (h : t.MemWf) : t.completeOne.MemWf := of_ite Strand.MemWf (h.of_same rfl) (h.of_same rfl)

end Sys2Proof.Machine
end

section
/-! PROOFS. The memories' canonical form: system instructions, service calls and collectives. -/

namespace Sys2Proof.Machine

/-! ### `bkrd`, `bkrsm` (R280 to R283) -/

theorem State.keeps_sysGate {s : State} (h : MemWf s) : Keeps MemWf s.sysGate :=
  (keeps_require _ _ h).bind fun _ _ => (keeps_require _ _ h).bind fun _ _ => State.keeps_scalarGate _ h

theorem State.keeps_bkrdOp {s : State} (rd rs1 rs2 : Reg) (h : MemWf s) : Keeps MemWf (s.bkrdOp rd rs1 rs2) :=
  (State.keeps_sysGate h).bind fun _ h0 => State.memWf_putXDone _ _ 4 h0

theorem State.memWf_of_bkrsmRun {s s' : State} {token : Word} (h : MemWf s) (hr : s.bkrsmRun token = some s') : MemWf s' := by
  unfold State.bkrsmRun at hr
  split at hr
  · cases hr
    exact h
  · split at hr
    · cases hr
      exact State.memWf_killFault _ _ h
    · obtain ⟨-, hr⟩ := Option.ite_none_left_eq_some.mp hr
      exact State.memWf_of_replay h hr
  · split at hr
    · cases hr
      exact State.memWf_killFault _ _ h
    · obtain ⟨-, hr⟩ := Option.ite_none_left_eq_some.mp hr
      cases hr
      exact State.memWf_updCore _ _ h

theorem State.keeps_bkrsmOp {s : State} (rs1 : Reg) (h : MemWf s) : Keeps MemWf (s.bkrsmOp rs1) := by
  refine (State.keeps_sysGate h).bind fun s0 h0 => (State.keeps_releaseCur _ _ h0).bind fun s1 h1 => ?_
  split
  · next heq => exact State.memWf_scalarDone 4 (State.memWf_of_bkrsmRun h1 heq)
  · exact h1

/-! ### `ccmove` (R284) -/

theorem State.gives_readBlock {s : State} (a : Word) (h : MemWf s) : Gives (fun r => MemWf r.2) (s.readBlock a) :=
  of_ite (Gives _) (Gives.ok h) <| (State.gives_load _ _ h).bind fun _ h0 => (State.gives_load _ _ h0).bind fun _ h1 =>
    (State.gives_load _ _ h1).bind fun _ h2 => (State.gives_load _ _ h2).bind fun _ h3 => Gives.ok h3

theorem State.memWf_queueUp {s : State} (h : MemWf s) : MemWf s.queueUp := memWf_ite (h.of_same rfl) h

theorem State.memWf_ccDone {s : State} (rd : Reg) (v : Word) (h : MemWf s) : MemWf (s.ccDone rd v) :=
  State.memWf_scalarDone 4 (State.memWf_onCur h ((Strand.memWf_putX rd v h.cur).of_same rfl))

/-- A command of `ccmove`, and the machine on which it waits, keep the memories. -/
structure CcKeeps (f : CcCommand) (waits : State → CcBlock → Option (Wait × State)) : Prop where
  done : ∀ (s : State) (b : CcBlock), MemWf s → MemWf (f s b).2
  waiting : ∀ (s : State) (b : CcBlock) (p : Wait × State), MemWf s → waits s b = some p → MemWf p.2

theorem CcKeeps.of_never {f : CcCommand} (hf : ∀ (s : State) (b : CcBlock), MemWf s → MemWf (f s b).2) :
    CcKeeps f fun _ _ => none := ⟨hf, fun _ _ _ _ hw => nomatch hw⟩

theorem State.keeps_ccmoveOp {s : State} {f : CcCommand} {waits : State → CcBlock → Option (Wait × State)} (op : Nat)
    (rd rs1 : Reg) (h : MemWf s) (hf : CcKeeps f waits) : Keeps MemWf (s.ccmoveOp op rd rs1 f waits) := by
  refine (State.keeps_sysGate h).bind fun s0 h0 => (Keeps.lift h0 (State.gives_readBlock _ h0)).bind fun r hr => ?_
  obtain ⟨blk, s1⟩ := r
  dsimp only
  split
  · exact State.memWf_ccDone _ _ hr
  · next b =>
    refine of_ite (Keeps MemWf) (State.memWf_ccDone _ _ hr) ?_
    split
    · next heq => exact hf.waiting s1 b _ hr heq
    · exact State.memWf_ccDone _ _ (hf.done s1 b hr)

theorem State.memWf_moveParked {s : State} (t : Strand) (id slot : Nat) (h : MemWf s) : MemWf (s.moveParked t id slot).2 := by
  have h1 := State.memWf_vacate t.core t.slot (State.memWf_flushWc t.uid true true (State.memWf_landStrips t h))
  unfold State.moveParked State.takeLanes
  exact State.memWf_laneGrant _ (State.memWf_updStrand _ (State.memWf_bumpGen _ _ (State.memWf_updCore _ _ h1))
    fun _ ht => (Strand.memWf_carried ht).of_same rfl)

theorem memWf_ccMove (s : State) (b : CcBlock) (h : MemWf s) : MemWf (ccMove s b).2 := by
  unfold ccMove
  split
  · exact h
  · split
    · split
      exacts [State.memWf_moveParked _ _ _ h, h]
    · exact h

theorem memWf_ccMoveWaits (s : State) (b : CcBlock) (p : Wait × State) (h : MemWf s) (hw : ccMoveWaits s b = some p) :
    MemWf p.2 := by
  unfold ccMoveWaits at hw
  obtain ⟨-, hw⟩ := Option.ite_none_left_eq_some.mp hw
  split at hw
  · obtain ⟨-, hw⟩ := Option.ite_none_left_eq_some.mp hw
    cases hw
    exact State.memWf_queueUp h
  · exact nomatch hw

theorem memWf_ccWriteBookmark (s : State) (b : CcBlock) (h : MemWf s) : MemWf (ccWriteBookmark s b).2 := by
  unfold ccWriteBookmark
  split
  · split
    exacts [State.memWf_updStrand _ h fun _ ht => ht.of_same rfl, h]
  · exact h

theorem memWf_ccKill (s : State) (b : CcBlock) (h : MemWf s) : MemWf (ccKill s b).2 := by
  unfold ccKill
  split
  · exact h
  · split
    exacts [State.memWf_killFault _ _ h, h]

theorem memWf_ccCancel (s : State) (b : CcBlock) (h : MemWf s) : MemWf (ccCancel s b).2 := by
  unfold ccCancel
  split
  · exact h
  · split
    · next heq => exact State.memWf_of_cancelLaunch h heq
    · exact h

theorem memWf_ccPreempt (s : State) (b : CcBlock) (h : MemWf s) : MemWf (ccPreempt s b).2 := by
  unfold ccPreempt
  split
  · exact h
  · split
    · exact h
    · split
      · next heq => exact State.memWf_of_preempt h heq
      · exact h

theorem memWf_ccPreemptWaits (s : State) (b : CcBlock) (p : Wait × State) (h : MemWf s) (hw : ccPreemptWaits s b = some p) :
    MemWf p.2 := by
  obtain ⟨-, hw⟩ := Option.ite_none_right_eq_some.mp hw
  cases hw
  exact h

theorem memWf_ccResume (s : State) (b : CcBlock) (h : MemWf s) : MemWf (ccResume s b).2 := by
  unfold ccResume
  split
  · exact h
  · split
    · next heq => exact State.memWf_of_resumeLaunch h heq
    · exact h

theorem memWf_ccPost (s : State) (b : CcBlock) (h : MemWf s) : MemWf (ccPost s b).2 := by
  have h1 := State.memWf_flushCur true false h
  unfold ccPost
  dsimp only
  split
  · exact h1
  · split
    · exact h1
    · split
      · exact h1
      · split
        · next heq => exact State.memWf_of_deliver h1 heq
        · exact h1
        · exact h1

theorem memWf_ccPostWaits (s : State) (b : CcBlock) (p : Wait × State) (h : MemWf s) (hw : ccPostWaits s b = some p) :
    MemWf p.2 := by
  unfold ccPostWaits at hw
  split at hw
  · next heq =>
    cases hw
    exact Keeps.of_error (State.keeps_releaseCur true false h) heq
  · exact nomatch hw

/-! ### `frqpop`, `latw`, `thrset` (R285 to R287) -/

theorem State.gives_storeWords : ∀ (ws : List Nat) {s : State} (a : Word), MemWf s → Gives MemWf (s.storeWords a ws)
  | [], _, _, h => Gives.ok h
  | _ :: ws, _, _, h => (State.gives_store _ _ _ h).bind fun _ h1 => State.gives_storeWords ws _ h1

theorem State.keeps_frqpopOp {s : State} (rd rs1 : Reg) (h : MemWf s) : Keeps MemWf (s.frqpopOp rd rs1) := by
  refine (State.keeps_sysGate h).bind fun s0 h0 => (keeps_require _ _ h0).bind fun _ _ => ?_
  dsimp only
  split
  · exact State.memWf_putXDone _ _ 4 h0
  · exact (Keeps.lift h0 (State.gives_storeWords _ _ h0)).bind fun _ h1 =>
      State.memWf_putXDone _ _ 4 (State.memWf_updDie _ _ h1)

theorem Strand.memWf_zeroVector {t : Strand} (h : t.MemWf) : t.zeroVector.MemWf := h.of_same rfl

theorem State.memWf_syncGrant {s : State} (id slot : Nat) (h : MemWf s) : MemWf (s.syncGrant id slot) :=
  State.memWf_mapStrands h fun _ ht => of_ite Strand.MemWf (ht.of_same rfl) ht

theorem State.memWf_latWrite {s : State} (id p : Nat) (new : Option Nat) (h : MemWf s) : MemWf (s.latWrite id p new) := by
  unfold State.latWrite
  dsimp only
  refine memWf_ite (State.memWf_laneGrant _ ?_) h
  have h1 : MemWf ((((s.core id).lat.getD p none).toList ++ new.toList).foldl (fun s sl => s.syncGrant id sl)
      (s.updCore id fun c => { c with lat := listSet c.lat p new })) :=
    memWf_foldl (fun _ _ hs => State.memWf_syncGrant _ _ hs) _ (State.memWf_updCore _ _ h)
  split
  exacts [State.memWf_mapStrands h1 fun _ ht => of_ite Strand.MemWf (Strand.memWf_zeroVector ht) ht, h1]

theorem State.keeps_latwOp {s : State} (rs1 rs2 : Reg) (h : MemWf s) : Keeps MemWf (s.latwOp rs1 rs2) :=
  (State.keeps_sysGate h).bind fun _ h0 => State.memWf_scalarDone 4 (memWf_ite h0 (State.memWf_latWrite _ _ _ h0))

theorem State.keeps_thrsetOp {s : State} (rs1 rs2 : Reg) (h : MemWf s) : Keeps MemWf (s.thrsetOp rs1 rs2) :=
  (State.keeps_sysGate h).bind fun _ h0 => State.memWf_scalarDone 4 (memWf_ite h0 (State.memWf_updDie _ _ h0))

/-! ### Service calls (R319, R320) -/

theorem State.memWf_putPosted {s : State} (b : Bool) (h : MemWf s) : MemWf (s.onCur fun t => { t with posted := b }) := h.of_same rfl

theorem State.keeps_syscAnswer {s : State} (rd : Reg) (h : MemWf s) : Keeps MemWf (s.syscAnswer rd) := by
  unfold State.syscAnswer
  split
  · exact State.memWf_putPosted false h
  · refine (Keeps.lift h (State.gives_load _ _ h)).bind fun r hr => (keeps_require _ _ hr).bind fun _ _ =>
      (Keeps.lift hr (State.gives_load _ _ hr)).bind fun r' hr' =>
        (Keeps.lift hr' (State.gives_store _ _ _ hr')).bind fun s1 h1 => State.memWf_scalarDone 4 ?_
    exact State.memWf_onCur h1 ((Strand.memWf_putX _ _ h1.cur).of_same rfl)

theorem State.gives_syscPost {s : State} (a svc : Word) (h : MemWf s) : Gives MemWf (s.syscPost a svc) :=
  (State.gives_store _ _ _ h).bind fun _ h0 => (State.gives_storeWords _ _ h0).bind fun _ h1 => State.gives_store _ _ _ h1

theorem State.keeps_syscOp {s : State} (blocks : Bool) (rd rs1 : Reg) (h : MemWf s) : Keeps MemWf (s.syscOp blocks rd rs1) := by
  refine (State.keeps_scalarGate _ h).bind fun s0 h0 => (keeps_require _ _ h0).bind fun _ _ => ?_
  extract_lets s1
  have h1 : MemWf s1 := State.memWf_unitTouch _ _ h0
  refine of_ite (Keeps MemWf) (State.memWf_launchFault _ _ _ _ h1) (of_ite (Keeps MemWf) (State.keeps_syscAnswer rd h1) ?_)
  split
  · exact (keeps_require _ _ h1).bind fun _ _ => State.memWf_putXDone _ _ 4 h1
  · next i _ =>
    extract_lets s2 a
    have h2 : MemWf s2 := h1.of_same rfl
    refine (Keeps.lift h2 (State.gives_load _ _ h2)).bind fun r hr => of_ite (Keeps MemWf)
      ((keeps_require _ _ hr).bind fun _ _ => State.memWf_putXDone _ _ 4 hr) ?_
    exact (State.keeps_releaseCur _ _ hr).bind fun s3 h3 => (Keeps.lift h3 (State.gives_syscPost _ _ h3)).bind fun s4 h4 =>
      of_ite (Keeps MemWf) (MemWf.of_same h4 rfl) (State.memWf_putXDone _ _ 4 h4)

/-! ### Collectives (R321, R322) -/

theorem State.memWf_commTouch {s : State} (ctx : Nat) (d : List Nat) (h : MemWf s) : MemWf (s.commTouch ctx d) :=
  memWf_ite (State.memWf_unitTouch _ _ (State.memWf_unitTouch _ _ h)) (State.memWf_unitTouch _ _ h)

theorem State.gives_loadWords : ∀ (n : Nat) {s : State} (a : Word), MemWf s → Gives (fun r => MemWf r.2) (s.loadWords a n)
  | 0, _, _, h => Gives.ok h
  | n + 1, _, _, h => (State.gives_load _ _ h).bind fun _ h1 => (State.gives_loadWords n _ h1).bind fun _ h2 => Gives.ok h2

theorem State.keeps_acceptColl {s : State} (addr : Word) (ch : QReg) (rd : Reg) (h : MemWf s) :
    Keeps MemWf (s.acceptColl addr ch rd) := by
  refine (Keeps.lift h (State.gives_loadWords _ _ h)).bind fun r hr => (keeps_require _ _ hr).bind fun _ _ => ?_
  extract_lets s1
  have h1 : MemWf s1 := memWf_ite (State.memWf_commTouch _ _ hr) hr
  refine of_ite (Keeps MemWf) (State.memWf_launchFault _ _ _ _ h1) ?_
  split
  · exact State.memWf_putXDone _ _ 8 h1
  · exact State.memWf_putXDone _ _ 8 (State.memWf_updDie _ _ h1)

theorem State.keeps_cpostOp {s : State} (rd rs1 : Reg) (ch : QReg) (h : MemWf s) : Keeps MemWf (s.cpostOp rd rs1 ch) :=
  (State.keeps_scalarGate _ h).bind fun _ h0 => (keeps_require _ _ h0).bind fun _ _ =>
    (State.keeps_releaseCur _ _ h0).bind fun _ h1 => (keeps_require _ _ h1).bind fun _ _ => State.keeps_acceptColl _ _ _ h1

theorem State.memWf_collAccept {s : State} (die : Nat) (h : MemWf s) : MemWf (s.collAccept die) := by
  unfold State.collAccept
  refine memWf_ite h ?_
  split
  · exact h
  · refine State.memWf_asStrand _ h fun s hs => ?_
    split
    · next heq =>
      refine Keeps.of_ok (State.keeps_acceptColl _ _ _ ?_) heq
      exact hs.of_same rfl
    · next heq =>
      refine State.memWf_takeExc _ (Keeps.of_error (State.keeps_acceptColl _ _ _ ?_) heq)
      exact hs.of_same rfl

theorem State.gives_collJudge {s : State} (c : CollCmd) (h : MemWf s) : Gives MemWf (s.collJudge c) :=
  of_ite (Gives MemWf) (Gives.error _) (State.gives_engCheck _ _ _ h)

theorem State.undone_collJudge (s : State) (c : CollCmd) : Undone (s.collJudge c) :=
  of_ite Undone (Undone.error (EngineEnd.wf_kill _ _ _)) (State.undone_engCheck _ _ _ _)

theorem State.memWf_collWrite {s : State} (c : CollCmd) (bs : List Byte) (h : MemWf s) : MemWf (s.collWrite c bs) :=
  memWf_foldl (fun _ _ hs => State.memWf_engWrite _ _ _ _ hs) _ h

theorem State.memWf_linkLost {s : State} (port : Nat) (h : MemWf s) : MemWf (s.linkLost port) :=
  State.memWf_updDie _ _ (State.memWf_updDie _ _ h)

theorem State.wf_runColl {s : State} (die : Nat) (c : CollCmd) (r : CollResult) (h : MemWf s) : (s.runColl die c r).Wf := by
  unfold State.runColl
  split
  · next heq => exact State.undone_collJudge _ _ _ heq
  · next s1 heq =>
    have h1 : MemWf s1 := State.gives_collJudge c h _ heq
    have h2 : MemWf (if c.stat r = 0 then (c.result (r.ranks.set c.rank (s1.collSource c)), s1)
        else s1.collFree c.dstBytes).2 := of_ite (fun p : List Byte × State => MemWf p.2) h1 (h1.of_same rfl)
    exact EngineEnd.wf_done (State.memWf_post _ _ _ _ _ (State.memWf_updDie _ _ (State.memWf_collWrite _ _ h2)))

theorem State.memWf_collComplete {s : State} (die : Nat) (r : CollResult) (h : MemWf s) : MemWf (s.collComplete die r) := by
  unfold State.collComplete
  dsimp only
  split
  · refine memWf_ite h ?_
    split
    · next heq => exact State.wf_runColl _ _ _ h _ heq
    · exact h
    · exact State.memWf_engineParks _ _ _ _ _ (State.memWf_walked _ _ h)
    · exact State.memWf_unitFault _ _ _ _ _ _ _ _ ((s.faultWalk_caches _ _ _).memWf h)
  · exact h

/-! ### The freeze point (R209) -/

theorem State.memWf_killDying {s : State} (uid : Nat) (h : MemWf s) : MemWf (s.killDying uid) := by
  unfold State.killDying
  split
  · exact h
  · split
    exacts [State.memWf_kill _ _ _ h, h]

end Sys2Proof.Machine
end

section
/-! PROOFS. The memories' canonical form: coherence, host accesses and vector configuration. -/

namespace Sys2Proof.Machine

/-! ### The host and peers at device memory (R210, R211, R307) -/

theorem State.memWf_addHolder {s : State} (page holder : Nat) (h : MemWf s) : MemWf (s.addHolder page holder) := h.of_same rfl

theorem State.memWf_hostAnswer {s : State} (r : Option (List Byte)) (h : MemWf s) : MemWf (s.hostAnswer r) := h.of_same rfl

theorem State.memWf_hostWait {s : State} (a n : Nat) (w : Option (List Byte)) (h : MemWf s) : MemWf (s.hostWait a n w) :=
  h.of_same rfl

theorem State.memWf_tableTouch {s : State} (a : Nat) (h : MemWf s) : MemWf (s.tableTouch a) := (s.tableTouch_caches a).memWf h

theorem State.memWf_hostAsked {s : State} (a : Nat) (h : MemWf s) : MemWf (s.hostAsked a) :=
  memWf_ite ((s.tableAsked_caches a).memWf h) h

theorem State.memWf_dirArrive {s : State} (r : CohReq) (h : MemWf s) : MemWf (s.dirArrive r) := (s.dirArrive_caches r).memWf h

theorem State.memWf_hostLoad {s : State} (a n : Nat) (h : MemWf s) : MemWf (s.hostLoad a n) := by
  unfold State.hostLoad
  refine memWf_ite h ?_
  split
  · exact memWf_ite (State.memWf_hostWait _ _ _ h) (State.memWf_hostAnswer _ (State.memWf_hostAsked a h))
  · refine memWf_ite (State.memWf_hostWait _ _ _ h) ?_
    have h1 : ∀ r, MemWf ((s.tableTouch a).hostAnswer r) := fun r => State.memWf_hostAnswer r (State.memWf_tableTouch a h)
    exact memWf_ite (h1 _) (memWf_ite (State.memWf_addHolder _ _ (h1 _)) (State.memWf_dirArrive _ (h1 _)))

theorem State.memWf_hostPut {s : State} (p : Phys) (bs : List Byte) (h : MemWf s) : MemWf (s.hostPut p bs) :=
  State.memWf_dirArrive _ (State.memWf_writePhys _ _ _ (State.memWf_tableTouch _ h))

theorem State.memWf_hostStore {s : State} (a : Nat) (bs : List Byte) (h : MemWf s) : MemWf (s.hostStore a bs) := by
  unfold State.hostStore
  refine memWf_ite h ?_
  split
  · exact memWf_ite (State.memWf_hostWait _ _ _ h)
      (memWf_ite (State.memWf_refuseHostWrite _ (State.memWf_hostAsked a h)) h)
  · split
    · exact State.memWf_refuseHostWrite _ h
    · exact State.memWf_hostWait _ _ _ h
    · exact memWf_ite (State.memWf_hostWait _ _ _ h) (State.memWf_hostPut _ _ h)

theorem State.memWf_hostRetry {s : State} (h : MemWf s) : MemWf s.hostRetry := by
  refine memWf_foldl (fun s r hs => ?_) _ (h.of_same rfl)
  split
  exacts [State.memWf_hostStore _ _ hs, State.memWf_hostLoad _ _ hs]

theorem State.memWf_peerLoad {s : State} (peer a : Nat) (h : MemWf s) : MemWf (s.peerLoad peer a) :=
  memWf_ite (State.memWf_addHolder _ _ h) h

/-! ### Requests in flight during a sweep (R303) -/

theorem State.memWf_strandFault {s : State} (t : Strand) (cls acc addr : Nat) (h : MemWf s) :
    MemWf (s.strandFault t cls acc addr) :=
  memWf_ite (State.memWf_killFault _ _ h) (State.memWf_updStrand _ h fun _ ht => ht.of_same rfl)

theorem State.memWf_requestFault {s : State} (r : MemReq) (cls : Nat) (h : MemWf s) : MemWf (s.requestFault r cls) := by
  unfold State.requestFault
  refine memWf_ite (memWf_ite h (State.memWf_killFault _ _ h))
    (memWf_ite (memWf_ite (State.memWf_refuseHostWrite _ h) (State.memWf_hostAnswer _ h)) ?_)
  extract_lets acc ctx
  split
  · split
    · exact State.memWf_unitFault _ _ _ _ _ _ _ _ h
    · exact memWf_ite (State.memWf_strandFault _ _ _ _ h) (State.memWf_unitFault _ _ _ _ _ _ _ _ h)
  · split
    exacts [State.memWf_unitFault _ _ _ _ _ _ _ _ h, State.memWf_killFault _ _ h]

theorem State.memWf_countCe {s : State} (r : MemReq) (h : MemWf s) : MemWf (s.countCe r) := memWf_ite (h.of_same rfl) h

theorem State.memWf_stall {s : State} (r : MemReq) (h : MemWf s) :
    MemWf { s with coh := { s.coh with stalled := s.coh.stalled ++ [r] } } := h.of_same rfl

theorem State.memWf_backDone {s : State} (r : MemReq) (bs : List Byte) (vec : Bool) (h : MemWf s) :
    MemWf (s.backDone r bs vec) :=
  memWf_ite (State.memWf_stall r h) (State.memWf_writePhys _ _ _ (State.memWf_countCe r h))

theorem State.memWf_requestDone {s : State} (r : MemReq) (h : MemWf s) : MemWf (s.requestDone r) := by
  unfold State.requestDone
  split
  · exact State.memWf_l2Touch _ _ (State.memWf_countCe r h)
  · exact State.memWf_backDone _ _ _ h
  · split
    · exact State.memWf_requestFault _ _ h
    · exact State.memWf_stall r h
    · exact State.memWf_writePhys _ _ _ (State.memWf_l2Touch _ _ (State.memWf_countCe r h))

theorem State.memWf_memArrive {s : State} (r : MemReq) (h : MemWf s) : MemWf (s.memArrive r) :=
  memWf_ite h (memWf_ite (State.memWf_requestFault _ _ h) (memWf_ite (State.memWf_stall r h)
    (memWf_ite (h.of_same rfl) (State.memWf_requestDone r h))))

theorem State.memWf_memRetry {s : State} (h : MemWf s) : MemWf s.memRetry :=
  memWf_foldl (fun _ _ hs => State.memWf_memArrive _ hs) _ (h.of_same rfl)

theorem State.memWf_unhold {s : State} (h : MemWf s) : MemWf s.unhold := State.memWf_hostRetry (State.memWf_memRetry h)

/-! ### Acknowledgements, contexts and page locks (R211, R214, R290) -/

theorem State.memWf_dropAcks {s : State} (p : Nat × Nat → Bool) (h : MemWf s) : MemWf (s.dropAcks p) := h.of_same rfl

theorem State.memWf_peerLate {s : State} (peer : Nat) (h : MemWf s) : MemWf (s.peerLate peer) := memWf_ite (h.of_same rfl) h

theorem State.memWf_hostLate {s : State} (h : MemWf s) : MemWf s.hostLate := memWf_ite (h.of_same rfl) h

theorem State.memWf_collectionEnd {s : State} (idx : Nat) (h : MemWf s) : MemWf (s.collectionEnd idx) := by
  unfold State.collectionEnd
  split
  exacts [memWf_ite (State.memWf_unhold (State.memWf_endCollection _ h)) h, h]

theorem State.memWf_destroyContext {s : State} (ctx : Nat) (h : MemWf s) : MemWf (s.destroyContext ctx) := by
  unfold State.destroyContext
  refine memWf_ite h ?_
  have h1 : MemWf ((s.cat.entries.filter fun e => e.ctx == ctx && !e.thawing).foldl (fun s e => s.startThaw e 0 none) s) :=
    memWf_foldl (fun _ _ hs => State.memWf_startThaw _ _ _ hs) _ h
  exact memWf_ite h1 (h1.of_same rfl)

theorem State.memWf_pageLock {s : State} (page : Nat) (byHost : Bool) (target : Nat) (h : MemWf s) :
    MemWf (s.pageLock page byHost target) := by
  unfold State.pageLock
  split
  exacts [h.of_same rfl, memWf_ite (State.memWf_unhold (h.of_same rfl)) h]

theorem State.memWf_tlbComplete {s : State} (h : MemWf s) : MemWf s.tlbComplete := by
  unfold State.tlbComplete
  split
  · exact h
  · have h1 : MemWf (s.strands.foldl (fun s t => s.flushWc t.uid true true) s) :=
      memWf_foldl (fun _ _ hs => State.memWf_flushWc _ _ _ hs) _ h
    exact memWf_ite h1 (MemWf.of_same (State.memWf_mapStrands h1 (f := Strand.performAll) fun _ ht => ht.of_same rfl) rfl)

theorem State.memWf_dropLine {s : State} (sp : Space) (line : Nat) (core : Option Nat) (h : MemWf s) :
    MemWf (s.dropLine sp line core) := memWf_ite (h.of_same rfl) h

theorem State.memWf_ownerTakes {s : State} (sp : Space) (line : Nat) (h : MemWf s) : MemWf (s.ownerTakes sp line) :=
  memWf_ite h ((State.dirSync_caches _ _ _ _).memWf (State.memWf_dropLine _ _ _ h))

/-! ### Configuration and lane threads (R34 to R38, R114 to R116, R132, R135) -/

theorem Strand.memWf_released {t : Strand} (h : t.MemWf) : t.released.MemWf := of_ite Strand.MemWf (h.of_same rfl) (h.of_same rfl)

theorem State.keeps_vsetOp {s : State} (r : VsetReq) (h : MemWf s) : Keeps MemWf (s.vsetOp r) := by
  refine (State.keeps_scalarGate _ h).bind fun s0 h0 => ?_
  extract_lets s1
  have h1 : MemWf s1 := memWf_ite h0 (State.memWf_onCur h0 (Strand.memWf_drained h0.cur))
  split
  · next s' t heq =>
    obtain ⟨h2, ht⟩ := State.memWf_of_vset h1 h1.cur heq
    exact State.memWf_laneGrant _ (State.memWf_onCur h2 (f := fun _ => t.adv 4) (Strand.memWf_adv 4 ht))
  · exact h1

theorem State.memWf_freeLanes {s : State} (t : Strand) (h : MemWf s) : MemWf (s.freeLanes t) :=
  memWf_ite (State.memWf_updCore _ _ h) h

theorem State.keeps_vrelOp {s : State} (h : MemWf s) : Keeps MemWf s.vrelOp :=
  (State.keeps_scalarGate _ h).bind fun s0 h0 => by
    have h1 := State.memWf_freeLanes s0.cur (State.memWf_onCur h0 (Strand.memWf_drained h0.cur))
    exact State.memWf_laneGrant _ (State.memWf_onCur h1 (Strand.memWf_adv 4 (Strand.memWf_released h1.cur)))

theorem State.keeps_lforkOp {s : State} (vm : Bool) (h : MemWf s) : Keeps MemWf (s.lforkOp vm) :=
  (State.keeps_vectorGate _ _ h).bind fun s0 h0 => by
    have h1 : MemWf (s0.onCur Strand.drained) := State.memWf_onCur h0 (Strand.memWf_drained h0.cur)
    exact (keeps_require _ _ h1).bind fun _ _ => MemWf.of_same h1 rfl

theorem Strand.memWf_joinLane {t : Strand} (f : Fork) (h : t.MemWf) : (t.joinLane f).MemWf := by
  unfold Strand.joinLane
  exact of_ite Strand.MemWf (h.of_same rfl) (h.of_same rfl)

theorem State.keeps_ljoinOp {s : State} (h : MemWf s) : Keeps MemWf s.ljoinOp := by
  unfold State.ljoinOp
  split
  · exact State.memWf_onCur h (Strand.memWf_joinLane _ h.cur)
  · exact (State.keeps_classGate _ h).bind fun _ h0 => h0

end Sys2Proof.Machine
end

section
/-! PROOFS. The memories' canonical form: the launch unit, the scheduler and the platform. -/

namespace Sys2Proof.Machine

/-! ### Acceptance (R239, R241, R250) -/

theorem State.memWf_putLu {s : State} (lu : LaunchUnit) (h : MemWf s) : MemWf { s with lu := lu } := h.of_same rfl

theorem State.memWf_makeLaunch {s : State} (ctx addr : Nat) (bs : List Byte) (entry : Option (Nat × Nat))
    (issuer : Option (Nat × Nat × QReg)) (h : MemWf s) : MemWf (s.makeLaunch ctx addr bs entry issuer).2 := by
  unfold State.makeLaunch
  extract_lets r lid text l s1 _ s2
  have h1 : MemWf s1 := State.memWf_touchRange _ _ _ h
  have h2 : MemWf s2 := State.memWf_putLu _ h1
  exact memWf_ite (State.memWf_endLaunch _ _ _ _ h2) (State.memWf_releaseReady _ (State.memWf_bumpLstate _ h2))

theorem State.memWf_recordRead {s : State} (ctx : Nat) (addr : Word) (h : MemWf s) : MemWf (s.recordRead ctx addr) := by
  unfold State.recordRead
  split
  · exact h
  · extract_lets t
    have h1 : MemWf t := State.memWf_touchVirt _ _ _ h
    split
    exacts [State.memWf_walked _ _ h1, h1]

theorem State.memWf_of_accept {s : State} {ctx : Nat} {addr : Word} {entry : Option (Nat × Nat)}
    {issuer : Option (Nat × Nat × QReg)} {p : Nat × State} (h : MemWf s) (hr : s.accept ctx addr entry issuer = .ok p) :
    MemWf p.2 := by
  unfold State.accept at hr
  split at hr
  · exact nomatch hr
  · split at hr
    · exact nomatch hr
    · split at hr
      · exact nomatch hr
      · cases hr
        exact State.memWf_makeLaunch _ _ _ _ _ h

theorem State.keeps_lnchOp {s : State} (rd rs1 : Reg) (ch : QReg) (h : MemWf s) : Keeps MemWf (s.lnchOp rd rs1 ch) := by
  refine (State.keeps_scalarGate _ h).bind fun s0 h0 => (keeps_require _ _ h0).bind fun _ _ =>
    (State.keeps_releaseCur _ _ h0).bind fun s1 h1 => (keeps_require _ _ h1).bind fun _ _ => ?_
  have h2 := State.memWf_recordRead s1.cur.ctx (s0.cur.getX rs1) h1
  dsimp only
  split
  · next heq => exact State.memWf_putXDone _ _ 8 (State.memWf_of_accept h2 heq)
  · exact State.memWf_putXDone _ _ 8 h2

/-! ### Queue entries and code objects (R234 to R237) -/

theorem State.memWf_fetchEntry {s : State} (uq : Nat) (h : MemWf s) : MemWf (s.fetchEntry uq) := by
  have h1 := State.memWf_completeHeld uq h
  unfold State.fetchEntry
  extract_lets s1
  split
  · exact h1
  · refine memWf_ite h1 ?_
    extract_lets seq p bs ok s2
    have h2 : MemWf s2 := State.memWf_updUq _ _ (State.memWf_unitTouch _ _ (State.memWf_l2Touch _ _ h1))
    exact memWf_ite h1 (memWf_ite (h2.of_same rfl) (State.memWf_completeEntry _ _ _ _ _ h2))

theorem State.memWf_acceptEntry {s : State} (uq seq : Nat) (h : MemWf s) : MemWf (s.acceptEntry uq seq) := by
  unfold State.acceptEntry
  split
  · exact h
  · next e _ =>
    refine memWf_ite h ?_
    have h1 := State.memWf_recordRead (s.uqCtx uq) e.addr h
    dsimp only
    split
    · next heq =>
      refine State.memWf_of_accept ?_ heq
      exact MemWf.of_same h1 rfl
    · exact State.memWf_completeEntry _ _ _ _ _ h1

theorem State.memWf_objectRead {s : State} (ctx a : Nat) (h : MemWf s) : MemWf (s.objectRead ctx a) := by
  have h1 := State.memWf_touchRange ctx a 64 h
  unfold State.objectRead
  dsimp only
  split
  · exact h1
  · refine memWf_ite h1 ?_
    have h2 := fun m b n => State.memWf_touchRange ctx b n (State.memWf_touchRange ctx (a + rb m 0x10 8) (256 * rb m 6 2) h1)
    split
    exacts [h2 _ _ _, State.memWf_walked _ _ (h2 _ _ _)]

theorem State.memWf_registerObject {s : State} (uq seq : Nat) (h : MemWf s) : MemWf (s.registerObject uq seq) := by
  unfold State.registerObject
  split
  · exact h
  · next e _ =>
    refine memWf_ite h ?_
    have h1 := State.memWf_objectRead (s.uqCtx uq) e.addr.toNat h
    dsimp only
    split
    exacts [State.memWf_completeEntry _ _ _ _ _ h1, State.memWf_completeEntry _ _ _ _ _ (MemWf.of_same h1 rfl)]

theorem State.memWf_unregisterObject {s : State} (uq seq : Nat) (h : MemWf s) : MemWf (s.unregisterObject uq seq) := by
  unfold State.unregisterObject
  split
  · exact h
  · dsimp only
    split
    · exact State.memWf_completeEntry _ _ _ _ _ h
    · exact memWf_ite (State.memWf_completeEntry _ _ _ _ _ h) (State.memWf_completeEntry _ _ _ _ _ (h.of_same rfl))

/-! ### Mapping of queues (R235, R263) -/

theorem State.memWf_mapQueue {s : State} (uq slot : Nat) (h : MemWf s) : MemWf (s.mapQueue uq slot) := by
  unfold State.mapQueue
  split
  · exact h
  · next u _ =>
    refine memWf_ite h (memWf_ite h ?_)
    extract_lets s1 u1 s2 s3
    have h2 : MemWf s2 := State.memWf_updUq _ _ (State.memWf_putQslot _ (State.memWf_unitTouch _ _ h))
    exact memWf_ite (State.memWf_notifyQueue _ _ _ (State.memWf_updUq _ _ h2)) h2

theorem State.memWf_knownQueue {s : State} (a : Arg) (h : MemWf s) : MemWf (s.knownQueue a) :=
  memWf_ite h (MemWf.of_same (State.memWf_unitTouch a.addr 64 h) rfl)

theorem State.memWf_queueMap {s : State} (a : Arg) (h : MemWf s) : MemWf (s.queueMap a) :=
  State.memWf_orWait _ _ h fun _ hs => State.memWf_mapQueue _ _ (State.memWf_knownQueue a hs)

theorem State.memWf_unmapSlot {s : State} (slot : Nat) (h : MemWf s) : MemWf (s.unmapSlot slot) :=
  memWf_ite (State.memWf_putQslot _ h) h

theorem State.memWf_pendScan {s : State} (h : MemWf s) : MemWf s.pendScan := by
  refine State.memWf_orWait _ _ h fun s hs => ?_
  have h1 : MemWf (s.lu.uqs.foldl (fun s q => if s.uqMapped q.uq then s else s.unitTouch q.recAddr 64) s) :=
    memWf_foldl (fun _ _ hs => memWf_ite hs (State.memWf_unitTouch _ _ hs)) _ hs
  dsimp only
  split
  exacts [State.memWf_mapQueue _ _ h1, h1]

/-! ### Messages on their way (R30, R205, R207) -/

theorem State.memWf_overflow {s : State} (lid : Nat) (h : MemWf s) : MemWf (s.overflow lid) := by
  unfold State.overflow
  split
  · exact h
  · split
    · exact h
    · have h1 := fun f => State.memWf_updLaunch lid f h
      dsimp only
      split
      exacts [State.memWf_updStrand _ (h1 _) fun _ ht => ht.of_same rfl, h1 _]

theorem State.memWf_overflowAll (lid : Nat) : ∀ (n : Nat) {s : State}, MemWf s → MemWf (s.overflowAll lid n)
  | 0, _, h => h
  | n + 1, _, h => State.memWf_overflowAll lid n (State.memWf_overflow lid h)

theorem State.memWf_arrival {s : State} (h : MemWf s) : MemWf s.arrival := by
  unfold State.arrival
  split
  · exact h
  · next m rest _ =>
    extract_lets s1
    have h1 : MemWf s1 := h.of_same rfl
    split
    · exact h1
    · refine memWf_ite h1 ?_
      split
      · next heq => exact State.memWf_of_deliver h1 heq
      · exact h1
      · exact State.memWf_killFault _ _ h1

/-! ### Dispatch and pre-emption (R243 to R247, R257) -/

theorem State.memWf_dispatch {s : State} (l : Launch) (die g : Nat) (h : MemWf s) : MemWf (s.dispatch l die g) := by
  unfold State.dispatch
  split
  · exact h
  · next s1 heq =>
    exact State.memWf_overflowAll _ _ (MemWf.of_same
      (State.memWf_updLaunch l.lid (fun l => l.take g) (State.memWf_of_placeGroup h heq)) rfl)

theorem State.memWf_level7 {s : State} (l : Launch) (h : MemWf s) : MemWf (s.level7 l) := by
  unfold State.level7
  refine memWf_ite ?_ h
  split
  · refine memWf_ite h ?_
    split
    exacts [memWf_getD h fun _ hr => State.memWf_of_preempt h hr, h]
  · exact h

theorem State.memWf_moveBins {s : State} (h : MemWf s) : MemWf s.moveBins := h.of_same rfl

theorem State.memWf_decideDispatch {s : State} (die : Nat) (h : MemWf s) : MemWf (s.decideDispatch die) := by
  unfold State.decideDispatch
  refine memWf_ite h ?_
  extract_lets s1 s2 cs
  have h1 : MemWf s1 := State.memWf_moveBins (State.memWf_schedTouch h)
  have h2 : MemWf s2 := memWf_foldl (fun _ l hs => State.memWf_level7 l hs) _ h1
  split
  exacts [State.memWf_dispatch _ _ _ h2, h2]

/-! ### Save and resumption (R258 to R262) -/

theorem State.memWf_writeImage {s : State} (t : Strand) (h : MemWf s) : MemWf (s.writeImage t) :=
  State.memWf_updStrand _ (State.memWf_storeUnit _ _ _ (State.memWf_unitTouch _ _ h)) fun _ ht => ht.of_same rfl

theorem State.memWf_saveStrand {s : State} (uid : Nat) (h : MemWf s) : MemWf (s.saveStrand uid) := by
  unfold State.saveStrand
  split
  · exact h
  · exact State.memWf_laneGrant _ (State.memWf_updStrand _ (State.memWf_vacate _ _ (State.memWf_writeImage _
      (State.memWf_flushWc _ _ _ h))) fun _ ht => (Strand.memWf_carried ht).of_same rfl)

theorem State.memWf_save {s : State} (lid : Nat) (h : MemWf s) : MemWf (s.save lid) := by
  unfold State.save
  split
  · exact h
  · refine memWf_ite h ?_
    split
    · split
      · exact State.memWf_killFault _ _ h
      · next heq => exact State.memWf_bumpLstate _ (State.memWf_updLaunch _ _ (State.memWf_of_writeScoreboard h heq))
    · split
      exacts [State.memWf_saveStrand _ h, h]

theorem State.memWf_of_restoreOn {s s' : State} {t : Strand} {die : Nat} {cls : Cls} (h : MemWf s)
    (hr : s.restoreOn t die cls = some s') : MemWf s' := by
  unfold State.restoreOn State.takeLanes at hr
  split at hr
  · exact nomatch hr
  · cases hr
    exact State.memWf_updStrand _ (State.memWf_updCore _ _ h) fun _ ht => ht.of_same rfl

theorem State.memWf_of_mem_restoreAll (die : Nat) : ∀ (ts : List Strand) {s s' : State}, MemWf s → s' ∈ s.restoreAll die ts →
    MemWf s'
  | [], _, _, h, hm => List.mem_singleton.mp hm ▸ h
  | t :: ts, _, _, h, hm => by
    obtain ⟨s1, hs1, hm⟩ := List.mem_flatMap.mp hm
    obtain ⟨c, -, hc⟩ := List.mem_filterMap.mp hs1
    exact State.memWf_of_mem_restoreAll die ts (State.memWf_of_restoreOn h hc) hm

theorem State.memWf_replayOrWait {s : State} (t : Strand) (h : MemWf s) : MemWf (s.replayOrWait t) := by
  unfold State.replayOrWait
  split
  · exact memWf_getD (State.memWf_updStrand _ h fun _ ht => ht.of_same rfl) fun _ hr => State.memWf_of_replay h hr
  · exact h

theorem State.memWf_replayWaiting {s : State} (lid : Nat) (h : MemWf s) : MemWf (s.replayWaiting lid) :=
  memWf_foldl (fun _ _ hs => memWf_getD hs fun _ hr => State.memWf_of_replay hs hr) _ h

theorem State.memWf_of_placeSaved {s s' : State} {lid : Nat} (h : MemWf s) (hr : s.placeSaved lid = some s') : MemWf s' := by
  unfold State.placeSaved at hr
  split at hr
  · dsimp only at hr
    split at hr
    · obtain ⟨s1, hs1, rfl⟩ := Option.map_eq_some_iff.mp hr
      exact memWf_foldl (fun _ t hs => State.memWf_replayOrWait t hs) _
        (State.memWf_of_mem_restoreAll _ _ h (List.mem_of_mem_head? hs1))
    · exact nomatch hr
  · exact nomatch hr

theorem State.memWf_placeNextSaved {s : State} (lid : Nat) (h : MemWf s) : MemWf (s.placeNextSaved lid) := by
  unfold State.placeNextSaved
  split
  · refine memWf_ite ?_ h
    have h1 := State.memWf_replayWaiting lid h
    dsimp only
    split
    · next heq => exact State.memWf_overflowAll _ _ (State.memWf_of_placeSaved h1 heq)
    · exact h1
  · exact h

theorem State.memWf_resume {s : State} (lid : Nat) (h : MemWf s) : MemWf (s.resume lid) := by
  unfold State.resume
  split
  exacts [h, memWf_ite (State.memWf_bumpLstate _ (State.memWf_updLaunch _ _ h)) h]

theorem State.memWf_aging {s : State} (lid : Nat) (h : MemWf s) : MemWf (s.aging lid) := State.memWf_updLaunch _ _ h

theorem State.memWf_dieReserve {s : State} (lid : Nat) (h : MemWf s) : MemWf (s.dieReserve lid) := by
  refine State.memWf_orWait _ _ h fun s hs => ?_
  have h1 := State.memWf_schedTouch hs
  dsimp only
  split
  · exact h1
  · split
    exacts [memWf_ite (State.memWf_updLaunch _ _ h1) h1, h1]

theorem State.memWf_halve {s : State} (h : MemWf s) : MemWf s.halve := h.of_same rfl

/-! ### The platform (R171, R299 to R304, R309, R324 to R327) -/

theorem State.memWf_hRead {s : State} (off : Nat) (h : MemWf s) : MemWf (s.hRead off) :=
  State.memWf_hostAnswer _ (State.memWf_blockRead _ _ _ h)

theorem State.memWf_splitNow {s : State} (id : Nat) (h : MemWf s) : MemWf (s.splitNow id) :=
  memWf_ite (memWf_foldl (fun s l hs => (s.writeBack_caches l).memWf hs) _ (State.memWf_updCore _ _ h)) h

theorem State.memWf_carryDir {s : State} (old : State) (h : MemWf s) : MemWf (s.carryDir old) :=
  memWf_foldl (fun _ _ hs => (State.dirSync_caches _ _ _ _).memWf hs) _ h

theorem State.memWf_sweep {s : State} (h : MemWf s) : MemWf s.sweep := by
  unfold State.sweep
  extract_lets m p err
  exact memWf_ite h (memWf_ite (State.memWf_unhold (State.memWf_carryDir s (State.memWf_sweepOver (h.of_same rfl))))
    (State.memWf_unhold (State.memWf_carryDir s (h.of_same rfl))))

theorem State.wf_snapLines {s : State} (h : MemWf s) : ∀ n : Nat, (s.snapLines n).wf = true
  | 0 => h.spaces.2.2
  | n + 1 => Mem.wf_write _ _ (State.wf_snapLines h n)

theorem State.memWf_snapDone {s : State} (h : MemWf s) : MemWf s.snapDone := by
  obtain ⟨hd, hh, -⟩ := h.spaces
  exact memWf_ite (memWf_of_parts ⟨hd, hh, State.wf_snapLines h _⟩ h.cur h.others) h

theorem State.memWf_linkChange {s : State} (up : Bool) (port : Nat) (h : MemWf s) :
    MemWf (if up then s else s.linkLost port) := memWf_ite h (State.memWf_linkLost _ h)

theorem State.memWf_booted {s : State} (b : Boot) (h : MemWf s) : MemWf (s.booted b) := by
  have hr : MemWf { State.reset with host := s.host, peer := s.peer, agenda := s.agenda, free := s.free } :=
    memWf_of_parts ⟨memWf_reset.spaces.1, h.spaces.2⟩ memWf_reset.cur memWf_reset.others
  cases b with
  | ok failed => exact memWf_foldl (fun _ id hs => State.memWf_selftestFail id hs) failed hr
  | failed => exact MemWf.of_same hr rfl

end Sys2Proof.Machine
end

section
/-! PROOFS. Every step keeps every memory in canonical form (O58). -/

namespace Sys2Proof.Machine

/-! ### The meanings of the table -/

theorem leads_freezePoint {s : State} (h : MemWf s) : Leads (execFreezePoint s) := by
  refine Leads.next ?_
  split
  exacts [State.memWf_killDying _ (State.memWf_freezeJob _ h), h]

theorem leads_yldTimeout {s : State} (h : MemWf s) : Leads (execYldTimeout s) :=
  Leads.next (State.memWf_updStrand _ h fun t ht => by
    split
    exacts [ht.of_same rfl, ht])

theorem leads_wcBufferDrain {s : State} (h : MemWf s) : Leads (execWcBufferDrain s) := by
  refine Leads.next ?_
  split
  · exact h
  · split
    · exact h
    · exact State.memWf_updStrand _ (State.memWf_flushBuf _ _ _ h) fun _ ht => Strand.memWf_putWc _ _ ht

theorem leads_vwaitReevaluation {s : State} (h : MemWf s) : Leads (execVwaitReevaluation s) :=
  Leads.next (State.memWf_updStrand _ h fun _ ht => of_ite Strand.MemWf (ht.of_same rfl) ht)

theorem leads_reservationExpiry {s : State} (h : MemWf s) : Leads (execReservationExpiry s) :=
  Leads.next (State.memWf_updStrand _ h fun _ ht => ht.of_same rfl)

theorem State.memWf_mWrite {s : State} (off : Nat) (v : Word) (h : MemWf s) : MemWf (s.mWrite off v) :=
  State.memWf_blockWrite _ _ _ _ h

theorem State.memWf_hWrite {s : State} (off : Nat) (v : Word) (h : MemWf s) : MemWf (s.hWrite off v) :=
  State.memWf_blockWrite _ _ _ _ h

theorem State.memWf_hcmdWrite {s : State} (op : Nat) (h : MemWf s) : MemWf (s.hcmdWrite op) := State.memWf_hWrite _ _ h

theorem leads_registerWrite {s : State} (h : MemWf s) : Leads (execRegisterWrite s) :=
  Leads.next (memWf_ite (State.memWf_hWrite _ _ h) (memWf_ite (State.memWf_mWrite _ _ h) h))

theorem leads_ethernetLinkChange {s : State} (h : MemWf s) : Leads (execEthernetLinkChange s) :=
  Leads.next (MemWf.of_same (State.memWf_linkChange s.arg.flag (s.arg.n % 8) h) rfl)

/-- Every row of the table leads from a canonical machine to canonical machines only. -/
theorem keepsMem_exec (i : Instr) : KeepsMem (exec i) := by
  by_cases hi : (vecRow i).isSome
  · exact keepsMem_exec_of_vecRow hi
  intro s h
  cases i with
  | vsetli | vsetl => exact leads_finish (State.keeps_vsetOp _ h)
  | lfork => exact leads_finish (State.keeps_lforkOp _ h)
  | bkrd => exact leads_finish (State.keeps_bkrdOp _ _ _ h)
  | bkrsm => exact leads_finish (State.keeps_bkrsmOp _ h)
  | ccmoveMove => exact leads_finish (State.keeps_ccmoveOp _ _ _ h ⟨memWf_ccMove, memWf_ccMoveWaits⟩)
  | frqpop => exact leads_finish (State.keeps_frqpopOp _ _ h)
  | latw => exact leads_finish (State.keeps_latwOp _ _ h)
  | thrset => exact leads_finish (State.keeps_thrsetOp _ _ h)
  | qdef => exact leads_finish (State.keeps_qdefOp _ _ h)
  | qbind => exact leads_finish (State.keeps_qbindOp _ _ h)
  | qunb => exact leads_finish (State.keeps_qunbOp _ h)
  | qavail => exact leads_finish (State.keeps_qavailOp _ _ h)
  | qwait => exact leads_finish (State.keeps_qwaitOp _ _ h)
  | qend => exact leads_finish (State.keeps_qendOp _ h)
  | qrst => exact leads_finish (State.keeps_qrstOp _ h)
  | laneFormAtomic => exact leads_finish (State.keeps_laneAmoOp _ _ h)
  | vwaitEq | vwaitNe | vwaitLt | vwaitGe => exact leads_finish (State.keeps_waitOp _ _ _ h)
  | ordSv | ordVs | ordVv | ordAll => exact leads_finish (State.keeps_ordOp _ _ _ _ h)
  | sev => exact leads_finish (State.keeps_sevOp _ h)
  | send => exact leads_finish (State.keeps_sendOp _ _ _ h)
  | recv | recvnb => exact leads_finish (State.keeps_recvOp _ _ _ h)
  | frz => exact leads_finish (State.keeps_frzOp _ _ _ h)
  | thaw => exact leads_finish (State.keeps_thawOp _ _ h)
  | thaww => exact leads_finish (State.keeps_thawwOp _ h)
  | frzq => exact leads_finish (State.keeps_frzqOp _ _ h)
  | syscB | syscN => exact leads_finish (State.keeps_syscOp _ _ _ h)
  | mmr | mmrz | mmrs => exact leads_finish (State.keeps_mmOp _ _ _ _ _ h)
  | accrd => exact leads_finish (State.keeps_accrdOp _ _ _ h)
  | accwr => exact leads_finish (State.keeps_accwrOp _ _ _ h)
  | accz => exact leads_finish (State.keeps_acczOp _ _ _ h)
  | wclr => exact leads_finish (State.keeps_wclrOp _ h)
  | wdesc => exact leads_finish (State.keeps_wdescOp _ _ h)
  | cpt | cpw | cpf => exact leads_finish (State.keeps_copyOp _ _ _ _ _ h)
  | lnch => exact leads_finish (State.keeps_lnchOp _ _ _ h)
  | cpost => exact leads_finish (State.keeps_cpostOp _ _ _ h)
  | fence | fenceTso => exact leads_finish (State.keeps_fenceOp h)
  | fenceI => exact leads_finish (State.keeps_fenceIOp h)
  | quelanCsrAccess | vdirtyWrite => exact leads_finish (State.keeps_quelanCsrOp _ h)
  | rv64ScalarInstruction => exact leads_finish (State.keeps_rvOp _ _ h)
  | vrel => exact leads_finish (State.keeps_vrelOp h)
  | ljoin => exact leads_finish (State.keeps_ljoinOp h)
  | ccmoveWriteBookmark => exact leads_finish (State.keeps_ccmoveOp _ _ _ h (CcKeeps.of_never memWf_ccWriteBookmark))
  | ccmoveKill => exact leads_finish (State.keeps_ccmoveOp _ _ _ h (CcKeeps.of_never memWf_ccKill))
  | ccmoveCancel => exact leads_finish (State.keeps_ccmoveOp _ _ _ h (CcKeeps.of_never memWf_ccCancel))
  | ccmovePreempt => exact leads_finish (State.keeps_ccmoveOp _ _ _ h ⟨memWf_ccPreempt, memWf_ccPreemptWaits⟩)
  | ccmoveResume => exact leads_finish (State.keeps_ccmoveOp _ _ _ h (CcKeeps.of_never memWf_ccResume))
  | ccmovePostMessage => exact leads_finish (State.keeps_ccmoveOp _ _ _ h ⟨memWf_ccPost, memWf_ccPostWaits⟩)
  | bar => exact leads_finish (State.keeps_barOp h)
  | phend => exact leads_finish (State.keeps_phendOp h)
  | wfe => exact leads_finish (State.keeps_wfeOp h)
  | gexit | exitAddressFetch => exact leads_finish (State.keeps_gexitOp h)
  | yld => exact leads_finish (State.keeps_yldOp h)
  | migControl | migVector | migArray => exact leads_finish (State.keeps_migOp _ h)
  | ecall | ebreak => exact leads_finish (State.keeps_callOp _ h)
  | freezePoint => exact leads_freezePoint h
  | replyQueueDelivery => exact Leads.next (State.memWf_updStrand _ h fun _ ht => Strand.memWf_reply1 ht)
  | vectorAccessPerformed => exact Leads.next (State.memWf_performElem _ _ h)
  | strandExit => exact Leads.next (State.memWf_exitStrand _ h)
  | qnotifyWrite => exact Leads.next (State.memWf_notify _ _ h)
  | queueEntryFetch => exact Leads.next (State.memWf_fetchEntry _ h)
  | launchAccept => exact Leads.next (State.memWf_acceptEntry _ _ h)
  | codeObjectRegister => exact Leads.next (State.memWf_registerObject _ _ h)
  | codeObjectUnregister => exact Leads.next (State.memWf_unregisterObject _ _ h)
  | queueMap => exact Leads.next (State.memWf_queueMap _ h)
  | queueUnmap => exact Leads.next (State.memWf_unmapSlot _ h)
  | pendScan => exact Leads.next (State.memWf_pendScan h)
  | dispatchDecision => exact Leads.next (State.memWf_decideDispatch _ h)
  | agingStep => exact Leads.next (State.memWf_aging _ h)
  | dispatchCountHalving => exact Leads.next (State.memWf_halve h)
  | dieReserve => exact Leads.next (State.memWf_dieReserve _ h)
  | preemptionStart => exact Leads.next (State.memWf_preemptStart _ h)
  | preemptionSave => exact Leads.next (State.memWf_save _ h)
  | resumption => exact Leads.next (State.memWf_resume _ h)
  | savedGroupPlacement => exact Leads.next (State.memWf_placeNextSaved _ h)
  | migrationWaitTimeout | savePoolRetry => exact Leads.next (State.memWf_migTimeout _ _ h)
  | laneWaitCheck => exact Leads.next (State.memWf_laneCheck _ h)
  | carrierMove => exact Leads.next (State.memWf_carry _ h)
  | strandArrival => exact Leads.next (State.memWf_arrive _ h)
  | yldTimeout => exact leads_yldTimeout h
  | thermalSensorUpdate => exact Leads.next (State.memWf_sensor _ _ h)
  | thermalSlotDisable => exact Leads.next (State.memWf_slotOff _ h)
  | thermalSlotEnable => exact Leads.next (State.memWf_slotOn _ h)
  | mixWindowEnd => exact Leads.next (State.memWf_mixEnd _ h)
  | selftestFailure => exact Leads.next (State.memWf_selftestFail _ h)
  | pageTableWalk => exact Leads.next (State.memWf_judge _ _ _ h)
  | impreciseTrap => exact Leads.next (State.memWf_trap _ h)
  | faultBatchPost => exact Leads.next (State.memWf_enterBatch _ h)
  | engineFaultPause => exact Leads.next (State.memWf_enginePause _ h)
  | tlbinvAll | tlbinvPage => exact Leads.next (State.memWf_tlbRequest _ _ h)
  | tlbInvalidationComplete => exact Leads.next (State.memWf_tlbComplete h)
  | notificationDelivery => exact Leads.next ((s.notifDeliver_caches _).memWf h)
  | snoopAnswer => exact Leads.next ((s.snoopReply_caches _).memWf h)
  | directoryRequest => exact Leads.next (State.memWf_dirArrive _ h)
  | wcBufferDrain => exact leads_wcBufferDrain h
  | memoryRequestArrival => exact Leads.next (State.memWf_memArrive _ h)
  | hostCxlMemRead => exact Leads.next (State.memWf_hostLoad _ _ h)
  | hostCxlMemWrite => exact Leads.next (State.memWf_hostStore _ _ h)
  | peerRead => exact Leads.next (State.memWf_peerLoad _ _ h)
  | pageMigrationRequest => exact Leads.next (State.memWf_pageLock _ _ _ h)
  | reservationExpiry => exact leads_reservationExpiry h
  | vwaitReevaluation => exact leads_vwaitReevaluation h
  | backInvalidationAck => exact Leads.next (State.memWf_dropAcks _ h)
  | peerAckTimeout => exact Leads.next (State.memWf_peerLate _ h)
  | hostBiTimeout => exact Leads.next (State.memWf_hostLate h)
  | collectionComplete => exact Leads.next (State.memWf_collectionEnd _ h)
  | contextDestroy => exact Leads.next (State.memWf_destroyContext _ h)
  | copyCommandAccept => exact Leads.next (State.memWf_copyAccept _ h)
  | copyCommandComplete => exact Leads.next (State.memWf_copyComplete _ h)
  | streamSlotFill => exact Leads.next (memWf_ite (EngineEnd.memWf_orElse (State.wf_fillStream _ _ h) h) h)
  | streamDrainWrite => exact Leads.next (memWf_ite (EngineEnd.memWf_orElse (State.wf_drainStream _ _ h) h) h)
  | stageStripArrival => exact Leads.next (State.memWf_arriveStrip _ _ h)
  | collectiveQueueAccept => exact Leads.next (State.memWf_collAccept _ h)
  | collectiveComplete => exact Leads.next (State.memWf_collComplete _ _ h)
  | messageArrival => exact Leads.next (State.memWf_arrival h)
  | overflowDelivery => exact Leads.next (State.memWf_overflow _ h)
  | lsplitWrite | vpoolWrite | wmaskWrite | memcapWrite | irmctlStart | snapctlStart | platctlLock | platctlUnlock
    | kctlWrite | nonceWrite | intrtWrite => exact Leads.next (State.memWf_mWrite _ _ h)
  | splitApply => exact Leads.next (State.memWf_splitNow _ h)
  | sweepWindow => exact Leads.next (State.memWf_sweep h)
  | snapshotComplete => exact Leads.next (State.memWf_snapDone h)
  | snapshotFabricError | clockChangeComplete => exact Leads.next (memWf_ite (h.of_same rfl) h)
  | d3hotEntry => exact Leads.next (memWf_ite h (h.of_same rfl))
  | spdmRequest | d0Entry => exact Leads.next (h.of_same rfl)
  | hostctlAttach | hostctlDetach => exact Leads.next (State.memWf_hWrite _ _ h)
  | hostLinkDown => exact Leads.next (State.memWf_hostLost h)
  | svcnotifyWrite => exact Leads.next (State.memWf_svcNotify _ _ h)
  | hcmdCancel | hcmdPreempt | hcmdResume => exact Leads.next (State.memWf_hcmdWrite _ h)
  | herraRead | herrnRead => exact Leads.next (State.memWf_hRead _ h)
  | stkceRead => exact Leads.next (State.memWf_blockRead _ _ _ h)
  | registerWrite => exact leads_registerWrite h
  | ethernetLinkChange => exact leads_ethernetLinkChange h
  | powerOnReset => exact Leads.next (State.memWf_booted _ h)
  | vectorInstructionCompletion => exact Leads.next (State.memWf_updStrand _ h fun _ ht => Strand.memWf_completeOne ht)
  | ownerBackInvalidation => exact Leads.next (State.memWf_ownerTakes _ _ h)
  | _ => exact absurd rfl hi

/-! ### Turns (log 2) -/

theorem State.memWf_withArg {s : State} (a : Arg) (h : MemWf s) : MemWf (s.withArg a) := h.of_same rfl

theorem Strand.memWf_sawIssue {t : Strand} (uid core : Nat) (h : t.MemWf) : (t.sawIssue uid core).MemWf := by
  unfold Strand.sawIssue
  split
  exacts [of_ite Strand.MemWf (h.of_same rfl) h, h]

theorem Strand.memWf_mixCount {t : Strand} (vector : Bool) (h : t.MemWf) : (t.mixCount vector).MemWf :=
  of_ite Strand.MemWf (h.of_same rfl) (h.of_same rfl)

theorem State.memWf_issued {s : State} (uid core : Nat) (forked vector : Bool) (h : MemWf s) :
    MemWf (s.issued uid core forked vector) := by
  unfold State.issued
  refine memWf_ite h ?_
  extract_lets s1 s2 goesOn
  have h1 : MemWf s1 := State.memWf_mapStrands h fun _ ht => Strand.memWf_sawIssue uid core ht
  have h2 : MemWf s2 := by
    show MemWf (match s.cur.status with | .waiting _ => s | _ => if forked then s1 else s1.onCur (·.mixCount vector))
    split
    exacts [h, memWf_ite h1 (State.memWf_onCur h1 (Strand.memWf_mixCount _ h1.cur))]
  exact memWf_ite (h2.of_same rfl) h2

theorem State.mem_of_mem_turnList {s : State} {u : Strand} : ∀ (ts ahead : List Strand), u ∈ s.turnList ahead ts →
    u ∈ ahead ∨ u ∈ ts
  | [], _, h => .inl h
  | t :: ts, ahead, h => by
    unfold State.turnList at h
    split at h
    · rcases List.mem_append.mp h with h | h
      exacts [.inr h, .inl h]
    · rcases State.mem_of_mem_turnList ts _ h with h | h
      · rcases List.mem_append.mp h with h | h
        exacts [.inl h, .inr (List.mem_singleton.mp h ▸ List.mem_cons_self)]
      · exact .inr (List.mem_cons_of_mem _ h)

theorem State.memWf_rotate {s : State} (h : MemWf s) : MemWf s.rotate := by
  have hl : ∀ u ∈ s.turnList [] (s.others ++ (if s.cur.status = .gone then [] else [s.cur])), u.MemWf := by
    intro u hu
    rcases State.mem_of_mem_turnList _ _ hu with hu | hu
    · exact absurd hu List.not_mem_nil
    · rcases List.mem_append.mp hu with hu | hu
      · exact h.others u hu
      · split at hu
        · exact absurd hu List.not_mem_nil
        · exact List.mem_singleton.mp hu ▸ h.cur
  unfold State.rotate
  split
  · exact h
  · next heq =>
    rw [heq] at hl
    exact memWf_of_parts h.spaces (hl _ List.mem_cons_self) fun u hu => hl u (List.mem_cons_of_mem _ hu)

theorem State.leads_issue {s : State} (h : MemWf s) : Leads s.issue := by
  have hf := State.gives_fetchInstr h
  unfold State.issue
  split
  · exact Leads.next (State.memWf_takeExc _ h)
  · next heq => exact Leads.next (State.memWf_takeExc _ (hf _ heq))
  · next heq => exact keepsMem_exec _ _ (hf _ heq)
  · next heq => exact keepsMem_exec _ _ (State.memWf_resolve _ (hf _ heq))

theorem State.leads_turn {s : State} (h : MemWf s) : Leads s.turn := by
  unfold State.turn
  extract_lets irq s1
  have h1 : MemWf s1 := State.memWf_onCur h (by
    split
    exacts [h.cur.of_same rfl, h.cur])
  clear_value irq
  split
  · next toS n => exact Leads.next (MemWf.of_same (memWf_ite (State.memWf_trapS true n 0 h1) (State.memWf_trapM true n 0 h1)) rfl)
  · split
    · next heq => exact Leads.next (MemWf.of_same (State.memWf_rotate (State.memWf_issued _ _ _ _ (State.leads_issue h1 _ heq))) rfl)
    · exact State.leads_issue h1

theorem State.leads_happen {s : State} (e : Event) (h : MemWf s) : Leads (s.happen e) :=
  keepsMem_exec _ _ (State.memWf_withArg _ h)

theorem State.leads_proceed {s : State} (h : MemWf s) : Leads s.proceed := by
  unfold State.proceed
  refine of_ite Leads (Leads.next (State.memWf_rotate h)) ?_
  extract_lets runs
  split
  · exact State.leads_happen _ (h.of_same rfl)
  · exact of_ite Leads (State.leads_turn h) (Leads.next h)

/-- Settles O58: each operation of the machine keeps the memories, whether it completes, waits or faults; so does each row
of the table, each event, and a turn. -/
theorem stepKeepsMemory : Obligations.StepKeepsMemory := by
  intro s s' h hs
  unfold step at hs
  split at hs
  · refine State.leads_happen _ ?_ s' hs
    exact h.of_same rfl
  · exact State.leads_proceed h s' hs

end Sys2Proof.Machine
end

section
/-! PROOFS. Accesses that write no memory change nothing but lines in caches, the directory and the traffic of the network
(R172 to R183): what `CachesOnly` says, for every operation on the way. -/

namespace Sys2Proof.Machine

/-! ### A preorder -/

theorem CachesOnly.refl (s : State) : CachesOnly s s := ⟨rfl, rfl⟩

theorem CachesOnly.trans {s t u : State} (h : CachesOnly s t) (h' : CachesOnly t u) : CachesOnly s u := by
  obtain ⟨hst, hl⟩ := h
  obtain ⟨htu, hl'⟩ := h'
  refine ⟨?_, hl'.trans hl⟩
  calc s.trafficOf u = s.trafficOf (t.trafficOf u) := rfl
    _ = s := by rw [htu, hst]

theorem CachesOnly.foldl {α : Type} {f : State → α → State} (hf : ∀ (s : State) (a : α), CachesOnly s (f s a)) :
    ∀ (l : List α) (s : State), CachesOnly s (l.foldl f s)
  | [], s => CachesOnly.refl s
  | a :: l, s => (hf s a).trans (foldl hf l (f s a))

/-- What the access leaves besides the four kinds of record is what stood. -/
theorem CachesOnly.sameButCaches {s t : State} (h : CachesOnly s t) : s.SameButCaches t :=
  ⟨t.cores, t.coh, t.die0, t.die1, calc
    t = { s.trafficOf t with cores := t.cores, coh := t.coh, die0 := t.die0, die1 := t.die1 } := rfl
    _ = { s with cores := t.cores, coh := t.coh, die0 := t.die0, die1 := t.die1 } := by rw [h.1]⟩

theorem LinesOnly.map {f : Core → Core} (hf : ∀ c : Core, { f c with lines := [] } = { c with lines := [] })
    (cs : List Core) : LinesOnly cs (cs.map f) := by
  unfold LinesOnly
  rw [List.map_map]
  exact List.map_congr_left fun c _ => hf c

theorem cachesOnly_cores (s : State) {f : Core → Core} (hf : ∀ c : Core, { f c with lines := [] } = { c with lines := [] }) :
    CachesOnly s { s with cores := s.cores.map f } := ⟨rfl, LinesOnly.map hf s.cores⟩

theorem State.updCore_cachesOnly (s : State) (id : Nat) {f : Core → Core}
    (hf : ∀ c : Core, { f c with lines := [] } = { c with lines := [] }) : CachesOnly s (s.updCore id f) :=
  cachesOnly_cores s fun c => by
    split
    · exact hf c
    · rfl

theorem State.updLines_cachesOnly (s : State) (id : Nat) (g : Core → List CLine) :
    CachesOnly s (s.updCore id fun c => { c with lines := g c }) :=
  s.updCore_cachesOnly id fun _ => rfl

theorem State.updDie_cachesOnly (s : State) (d : Nat) {f : Die → Die}
    (hf : ∀ k : Die, { f k with notifs := [] } = { k with notifs := [] }) : CachesOnly s (s.updDie d f) := by
  have hk (k : Die) : { f k with notifs := k.notifs } = k := by
    calc { f k with notifs := k.notifs } = { { f k with notifs := [] } with notifs := k.notifs } := rfl
      _ = k := by rw [hf k]
  unfold State.updDie
  split
  · exact ⟨by unfold State.trafficOf; dsimp only; rw [hk s.die0], rfl⟩
  · exact ⟨by unfold State.trafficOf; dsimp only; rw [hk s.die1], rfl⟩

theorem State.updNotifs_cachesOnly (s : State) (d : Nat) (g : Die → List Notif) :
    CachesOnly s (s.updDie d fun k => { k with notifs := g k }) :=
  s.updDie_cachesOnly d fun _ => rfl

theorem cachesOnly_queued (s : State) (rs : List CohReq) : CachesOnly s { s with coh := { s.coh with queued := rs } } :=
  ⟨rfl, rfl⟩

theorem cachesOnly_snoops (s : State) (ps : List (Nat × Notif)) : CachesOnly s { s with coh := { s.coh with snoops := ps } } :=
  ⟨rfl, rfl⟩

/-! ### The directory and the network (R182, R183, R297) -/

theorem State.putDir_cachesOnly (s : State) (e : DirEntry) : CachesOnly s (s.putDir e) := ⟨rfl, rfl⟩

theorem State.dirSync_cachesOnly (s : State) (sp : Space) (line : Nat) (host : Option Bool) :
    CachesOnly s (s.dirSync sp line host) := s.putDir_cachesOnly _

theorem State.serveCoh_cachesOnly (s : State) (r : CohReq) : CachesOnly s (s.serveCoh r) :=
  (CachesOnly.foldl (fun t d => t.updNotifs_cachesOnly d _) _ s).trans (State.putDir_cachesOnly _ _)

theorem State.dirNext_cachesOnly (s : State) (sp : Space) (line : Nat) : CachesOnly s (s.dirNext sp line) := by
  unfold State.dirNext
  split
  · exact CachesOnly.refl s
  · split
    · exact (cachesOnly_queued s _).trans (State.serveCoh_cachesOnly _ _)
    · exact CachesOnly.refl s

theorem State.dropZ_cachesOnly (s : State) (die page : Nat) : CachesOnly s (s.dropZ die page) :=
  cachesOnly_cores s fun c => by split <;> rfl

theorem State.notifDeliver_cachesOnly (s : State) (die : Nat) : CachesOnly s (s.notifDeliver die) := by
  unfold State.notifDeliver
  split
  · exact CachesOnly.refl s
  · dsimp only
    have hpop (rest : List Notif) : CachesOnly s (s.updDie die fun k => { k with notifs := rest }) :=
      s.updNotifs_cachesOnly die _
    split
    · exact (hpop _).trans (State.dropZ_cachesOnly _ _ _)
    · exact (hpop _).trans <| (cachesOnly_snoops _ _).trans (State.dirNext_cachesOnly _ _ _)

theorem Core.answer_lines (r : CohReq) (c : Core) : { c.answer r with lines := [] } = { c with lines := [] } := by
  unfold Core.answer
  split <;> rfl

theorem State.snoopReply_cachesOnly (s : State) (core : Nat) : CachesOnly s (s.snoopReply core) := by
  unfold State.snoopReply
  split
  · exact CachesOnly.refl s
  · exact ((s.updCore_cachesOnly core (Core.answer_lines _)).trans (cachesOnly_snoops _ _)).trans (State.dirNext_cachesOnly _ _ _)

theorem State.settleStep_cachesOnly (s : State) : CachesOnly s s.settleStep := by
  unfold State.settleStep
  split
  · exact s.snoopReply_cachesOnly _
  · exact s.notifDeliver_cachesOnly 0
  · exact s.notifDeliver_cachesOnly 1

theorem State.settleN_cachesOnly : ∀ (n : Nat) (s : State), CachesOnly s (s.settleN n)
  | 0, s => CachesOnly.refl s
  | n + 1, s => by
    rw [State.settleN]
    split
    · exact CachesOnly.refl s
    · exact s.settleStep_cachesOnly.trans (settleN_cachesOnly n _)

theorem State.settle_cachesOnly (s : State) : CachesOnly s s.settle := by
  unfold State.settle
  split
  · exact CachesOnly.refl s
  · exact s.settleN_cachesOnly _

theorem State.answerAll_cachesOnly (s : State) (r : CohReq) : CachesOnly s (s.answerAll r) := by
  unfold State.answerAll
  split
  · exact cachesOnly_cores s (Core.answer_lines r)
  · exact CachesOnly.refl s

theorem State.l2Request_cachesOnly (s : State) (sp : Space) (line : Nat) (write : Bool) :
    CachesOnly s (s.l2Request sp line write) := by
  unfold State.l2Request
  split
  · exact CachesOnly.refl s
  · refine s.settle_cachesOnly.trans ?_
    dsimp only
    split
    · exact State.answerAll_cachesOnly _ _
    · exact (State.answerAll_cachesOnly _ _).trans (State.dirSync_cachesOnly _ _ _ _)

theorem State.l2Touch_cachesOnly (s : State) (p : Phys × Nat) (write : Bool) : CachesOnly s (s.l2Touch p write) := by
  unfold State.l2Touch
  split
  · exact CachesOnly.refl s
  · exact CachesOnly.foldl (fun s l => s.l2Request_cachesOnly _ l _) _ s

theorem State.unitTouch_cachesOnly (s : State) (a n : Nat) : CachesOnly s (s.unitTouch a n) := s.l2Touch_cachesOnly _ _

theorem State.tableTouch_cachesOnly (s : State) (a : Nat) : CachesOnly s (s.tableTouch a) := by
  unfold State.tableTouch
  split
  · exact CachesOnly.refl s
  · exact s.unitTouch_cachesOnly _ _

theorem State.tablesTouch_cachesOnly (s : State) (ps : List (Phys × Nat)) : CachesOnly s (s.tablesTouch ps) :=
  CachesOnly.foldl (fun s _ => s.tableTouch_cachesOnly _) ps s

/-! ### The cache of a core (R172, R175) -/

theorem State.writeBack_cachesOnly (s : State) (l : CLine) : CachesOnly s (s.writeBack l) := by
  unfold State.writeBack
  split
  · exact s.dirSync_cachesOnly _ _ _
  · exact CachesOnly.refl s

theorem State.installVictim_cachesOnly (s : State) (id : Nat) (v : CLine) : CachesOnly s (s.installVictim id v) := by
  unfold State.installVictim
  dsimp only
  split
  · exact s.writeBack_cachesOnly v
  · split
    · exact (s.updLines_cachesOnly _ _).trans (State.writeBack_cachesOnly _ _)
    · exact s.updLines_cachesOnly _ _

theorem State.leavePool_cachesOnly (s : State) (id : Nat) (sp : Space) (line : Nat) : CachesOnly s (s.leavePool id sp line) :=
  cachesOnly_cores s fun c => by split <;> rfl

theorem State.hit_cachesOnly (s : State) (id : Nat) (l : CLine) (coh : Coh) : CachesOnly s (s.hit id l coh) :=
  s.updLines_cachesOnly id _

theorem State.putLine_cachesOnly (s : State) (id : Nat) (l : CLine) (out : Option CLine) : CachesOnly s (s.putLine id l out) := by
  unfold State.putLine
  split
  · exact (s.updLines_cachesOnly _ _).trans (State.installVictim_cachesOnly _ _ _)
  · exact s.updLines_cachesOnly _ _

theorem State.coreRequest_cachesOnly (s : State) (id : Nat) (sp : Space) (line : Nat) (write : Bool) {f : State → Coh → State}
    (hf : ∀ (t : State) (c : Coh), CachesOnly t (f t c)) : CachesOnly s (s.coreRequest id sp line write f) := by
  unfold State.coreRequest
  dsimp only
  split
  · exact hf s _
  · split
    · exact (s.answerAll_cachesOnly _).trans (hf _ _)
    · exact ((s.answerAll_cachesOnly _).trans (hf _ _)).trans (State.dirSync_cachesOnly _ _ _ _)

theorem State.fill_cachesOnly (s : State) (id slot : Nat) (sp : Space) (line : Nat) (write : Bool) :
    CachesOnly s (s.fill id slot sp line write) := by
  unfold State.fill
  dsimp only
  split
  · exact s.l2Request_cachesOnly _ _ _
  · split
    · split
      · exact (s.leavePool_cachesOnly _ _ _).trans (State.putLine_cachesOnly _ _ _ _)
      · exact (s.leavePool_cachesOnly _ _ _).trans
          (State.coreRequest_cachesOnly _ _ _ _ _ fun t _ => t.putLine_cachesOnly _ _ _)
    · exact s.coreRequest_cachesOnly _ _ _ _ fun t _ => t.putLine_cachesOnly _ _ _

theorem State.cacheAccess_cachesOnly (s : State) (id slot : Nat) (sp : Space) (line : Nat) (write : Bool) :
    CachesOnly s (s.cacheAccess id slot sp line write) := by
  unfold State.cacheAccess
  dsimp only
  split
  · split
    · exact s.hit_cachesOnly _ _ _
    · refine s.settle_cachesOnly.trans ?_
      split
      · exact State.coreRequest_cachesOnly _ _ _ _ _ fun t _ => t.hit_cachesOnly _ _ _
      · exact State.fill_cachesOnly _ _ _ _ _ _
  · exact s.settle_cachesOnly.trans (State.fill_cachesOnly _ _ _ _ _ _)

/-- What an access of a strand to a piece of memory does to the machine before its bytes move. -/
theorem State.touch_cachesOnly (s : State) (vec : Bool) (p : Phys × Nat) (write : Bool) :
    CachesOnly s (s.touch vec p write) := by
  unfold State.touch
  split
  · exact CachesOnly.refl s
  · split
    · exact s.l2Touch_cachesOnly p write
    · exact CachesOnly.foldl (fun s l => s.cacheAccess_cachesOnly _ _ _ l _) _ s

end Sys2Proof.Machine
end

section
/-! PROOFS. Scalar loads and stores as they issue (R53, R133), what a load answers and leaves (R6, R55, R264, R307), and where
a store goes. -/

namespace Sys2Proof.Machine

/-! ### Issue -/

theorem formBytes_eq (f : Form) : formBytes f = bytesOf f := by cases f <;> rfl

/-- Delivering replies keeps whether lane threads run. -/
theorem State.delivered_laneMode (s : State) : s.delivered.laneMode = s.laneMode := by
  obtain ⟨x, f, e⟩ := s.cur.replyAll_eq
  unfold State.delivered State.onCur
  rw [e]
  rfl

/-- A scalar instruction that any mode may execute does, once issued, what its effect says. -/
theorem exec_scalar {cs : List Cls} {inLane : Bool} {f : Form} {op : Scalar} {s s' : State} (hi : ScalarIssue s cs inLane)
    (hcs : scalarClasses op = cs) (hl : inLane = true → scalarInLane op = true) (hp : s.privOk op = true)
    (h : s.delivered.rvEffect (bytesOf f) op = .ok s') : exec (.rv64ScalarInstruction f op) s = .next s' := by
  obtain ⟨hcls, hfork⟩ := hi
  have hlane : (s.cur.fork.isNone || scalarInLane op) = true := by
    rcases hfork with hn | hl'
    · simp [hn]
    · simp [hl hl']
  have hmem : (scalarClasses op).contains s.cur.cls = true := by simpa [hcs] using hcls
  have hrun : s.rvOp f op = .ok s' := by
    unfold State.rvOp
    rw [hlane, hp, hmem, formBytes_eq]
    exact h
  change finish (s.rvOp f op) = _
  rw [hrun, finish_ok]

theorem laneMode_of_scalarIssue {cs : List Cls} {s : State} (hi : ScalarIssue s cs false) : s.laneMode = false := by
  rcases hi.2 with hn | hf
  · simp [State.laneMode, hn]
  · exact nomatch hf

/-! ### Loads -/

/-- Loading with the values the claim names leaves but traffic in the machine the claim names. -/
theorem State.load_of_scalarReads {s s0 : State} {a : Word} {n x : Nat} (h : ScalarReads s s0 a n x) :
    ∃ c, CachesOnly s0 c ∧ s.load a n = .ok (x, c) := by
  rcases h with ⟨hb, ps, hps, hbad, rfl⟩ | ⟨hb, hlt, rfl, ps, hps, hheld, hbad, rfl⟩ | ⟨hb, hge, hx, hs0⟩
  · have hany : ps.any s0.badPiece = false := by simpa [List.any_eq_false] using hbad
    refine ⟨ps.foldl (fun s' p => s'.touch s.laneMode p false) s0,
      CachesOnly.foldl (fun s' p => s'.touch_cachesOnly _ p false) ps s0, ?_⟩
    unfold State.load State.loadMem
    rw [if_neg (by simp [hb]), hps]
    dsimp only [bind, Except.bind, pure, Except.pure]
    rw [hany]
    rfl
  · have hany : ps.any s0.badPiece = false := by simpa [List.any_eq_false] using hbad
    refine ⟨ps.foldl (fun s' p => s'.touch false p false) (s0.tablesTouch ps),
      (s0.tablesTouch_cachesOnly ps).trans (CachesOnly.foldl (fun s' p => s'.touch_cachesOnly _ p false) ps _), ?_⟩
    unfold State.load State.bareLoad
    rw [if_pos hb, if_neg (show ¬blockBase ≤ a.toNat by omega), hps]
    dsimp only
    rw [hheld, hany]
    rfl
  · refine ⟨s0, CachesOnly.refl s0, ?_⟩
    unfold State.load State.bareLoad
    rw [if_pos hb, if_pos hge, hx, hs0]

theorem CachesOnly.cur_eq {s t : State} (h : CachesOnly s t) : t.cur = s.cur := h.sameButCaches.cur_eq

theorem signExtend_ofNat (k x : Nat) (hk : k ≠ 0) : (BitVec.ofNat k x).signExtend 64 = BitVec.ofInt 64 (signedOf k x) := by
  unfold BitVec.signExtend signedOf
  congr 1
  have hpow : 2 ^ k = 2 * 2 ^ (k - 1) := by
    obtain ⟨m, rfl⟩ := Nat.exists_eq_succ_of_ne_zero hk
    simp [Nat.pow_succ, Nat.mul_comm]
  rw [BitVec.toInt_eq_toNat_cond, BitVec.toNat_ofNat]
  split <;> split <;> omega

theorem ldBytes_eq (op : LdOp) (x : Nat) : ldBytes op = (loadSpec op x).1 := by cases op <;> rfl

theorem ldValue_eq (op : LdOp) (x : Nat) : ldValue op x = (loadSpec op x).2 := by
  cases op with
  | lb => exact (signExtend_ofNat 8 x (by decide)).symm
  | lh => exact (signExtend_ofNat 16 x (by decide)).symm
  | lw => exact (signExtend_ofNat 32 x (by decide)).symm
  | lbu | lhu | lwu | ld => rfl

theorem nanBox_eq (x : Nat) : nanBox 32 x = BitVec.allOnes 32 ++ BitVec.ofNat 32 x := by
  apply BitVec.eq_of_toNat_eq
  rw [nanBox, BitVec.toNat_ofNat, BitVec.toNat_append, BitVec.toNat_allOnes, BitVec.toNat_ofNat,
    Nat.shiftLeft_eq, Nat.mul_comm, ← Nat.two_pow_add_eq_or_of_lt (Nat.mod_lt _ (by decide))]
  omega

theorem Strand.putFp_eq (t : Strand) (dbl : Bool) (rd : Reg) (x : Nat) :
    t.putFp dbl rd x =
      { t with f := t.f.set rd (if dbl then BitVec.ofNat 64 x else BitVec.allOnes 32 ++ BitVec.ofNat 32 x) } := by
  unfold Strand.putFp Strand.putF
  rw [nanBox_eq]

theorem State.rvEffect_load {s s1 : State} {n x : Nat} {op : LdOp} {rd rs1 : Reg} {imm : BitVec 12}
    (h : s.load (s.ea rs1 imm) (ldBytes op) = .ok (x, s1)) :
    s.rvEffect n (.load op rd rs1 imm) = .ok (State.pcBehind { s1 with cur := s1.cur.putX rd (ldValue op x) } n) := by
  change (lift s (s.load (s.ea rs1 imm) (ldBytes op)) >>= _) = _
  rw [h]
  rfl

theorem State.rvEffect_fload {s s1 : State} {n x : Nat} {dbl : Bool} {rd rs1 : Reg} {imm : BitVec 12}
    (h : s.load (s.ea rs1 imm) (sizeOf dbl) = .ok (x, s1)) :
    s.rvEffect n (.fload dbl rd rs1 imm) = .ok (State.pcBehind { s1 with cur := s1.cur.putFp dbl rd x } n) := by
  change Except.map _ (lift s (s.load (s.ea rs1 imm) (sizeOf dbl)) >>= _) = _
  rw [h]
  rfl

theorem State.rvEffect_store {s s1 : State} {n : Nat} {op : StOp} {rs1 rs2 : Reg} {imm : BitVec 12}
    (h : s.store (s.ea rs1 imm) (stBytes op) ((s.cur.getX rs2).toNat % 2 ^ (8 * stBytes op)) = .ok s1) :
    s.rvEffect n (.store op rs1 rs2 imm) = .ok (s1.pcBehind n) := by
  change (lift s (s.store (s.ea rs1 imm) (stBytes op) _) >>= _) = _
  rw [h]
  rfl

theorem State.rvEffect_fstore {s s1 : State} {n : Nat} {dbl : Bool} {rs1 rs2 : Reg} {imm : BitVec 12}
    (h : s.store (s.ea rs1 imm) (sizeOf dbl) (s.cur.f[rs2].toNat % 2 ^ (8 * sizeOf dbl)) = .ok s1) :
    s.rvEffect n (.fstore dbl rs1 rs2 imm) = .ok (s1.pcBehind n) := by
  change Except.map _ (lift s (s.store (s.ea rs1 imm) (sizeOf dbl) _)) = _
  rw [h]
  rfl

/-- A load of an x register. -/
theorem exec_load {f : Form} {s s0 : State} {op : LdOp} {rd rs1 : Reg} {imm : BitVec 12} {x : Nat}
    (hi : ScalarIssue s anyCls true) (hr : ScalarReads s.delivered s0 (s.delivered.ea rs1 imm) (loadSpec op x).1 x) :
    ∃ c, CachesOnly s0 c ∧ exec (.rv64ScalarInstruction f (.load op rd rs1 imm)) s =
      .next (State.pcBehind { c with cur := s0.cur.putX rd (loadSpec op x).2 } (bytesOf f)) := by
  obtain ⟨c, hc, hload⟩ := State.load_of_scalarReads hr
  rw [← ldBytes_eq op x] at hload
  rw [← hc.cur_eq, ← ldValue_eq]
  exact ⟨c, hc, exec_scalar hi rfl (fun _ => rfl) rfl (State.rvEffect_load hload)⟩

/-- A load of an f register. -/
theorem exec_fload {f : Form} {s s0 : State} {dbl : Bool} {rd rs1 : Reg} {imm : BitVec 12} {x : Nat}
    (hi : ScalarIssue s [.control, .vector] false)
    (hr : ScalarReads s.delivered s0 (s.delivered.ea rs1 imm) (if dbl then 8 else 4) x) :
    ∃ c, CachesOnly s0 c ∧ exec (.rv64ScalarInstruction f (.fload dbl rd rs1 imm)) s =
      .next (State.pcBehind { c with cur := { s0.cur with
        f := s0.cur.f.set rd (if dbl then BitVec.ofNat 64 x else BitVec.allOnes 32 ++ BitVec.ofNat 32 x) } } (bytesOf f)) := by
  obtain ⟨c, hc, hload⟩ := State.load_of_scalarReads hr
  rw [← hc.cur_eq, ← Strand.putFp_eq]
  exact ⟨c, hc, exec_scalar hi rfl (fun h => nomatch h) rfl (State.rvEffect_fload hload)⟩

/-! ### Stores -/

theorem State.store_of_scalarTarget {s s0 : State} {a : Word} {n : Nat} {ws : List (Phys × Nat)} (v : Nat)
    (h : ScalarTarget s s0 a n ws) : s.store a n v = .ok (s0.storeList (s.laneMode && !s.bare) ws (leBytes n v)) := by
  rcases h with ⟨hb, hps⟩ | ⟨hb, hlt, rfl, hps, hgate⟩
  · unfold State.store State.storeMem
    rw [if_neg (by simp [hb]), hps, hb, Bool.not_false, Bool.and_true]
    rfl
  · unfold State.store State.bareStore
    rw [if_pos hb, if_neg (show ¬blockBase ≤ a.toNat by omega), hps, hb, Bool.not_true, Bool.and_false]
    simp only [hgate]
    rfl

theorem State.store_block {s : State} {a : Word} (n v : Nat) (hb : s.bare = true) (ha : blockBase ≤ a.toNat) :
    s.store a n v = .ok (s.blockWrite s.via (a.toNat - blockBase) n (BitVec.ofNat 64 v)) := by
  unfold State.store State.bareStore
  rw [if_pos hb, if_pos ha]

theorem stBytes_eq (op : StOp) : stBytes op = storeBytes op := by cases op <;> rfl

/-- A store of an x register, wherever it goes. -/
theorem exec_store {f : Form} {s s1 : State} {op : StOp} {rs1 rs2 : Reg} {imm : BitVec 12} (hi : ScalarIssue s anyCls true)
    (h : s.delivered.store (s.delivered.ea rs1 imm) (storeBytes op)
      ((s.delivered.cur.getX rs2).toNat % 2 ^ (8 * storeBytes op)) = .ok s1) :
    exec (.rv64ScalarInstruction f (.store op rs1 rs2 imm)) s = .next (s1.pcBehind (bytesOf f)) := by
  rw [← stBytes_eq] at h
  exact exec_scalar hi rfl (fun _ => rfl) rfl (State.rvEffect_store h)

/-- A store of an f register, wherever it goes. -/
theorem exec_fstore {f : Form} {s s1 : State} {dbl : Bool} {rs1 rs2 : Reg} {imm : BitVec 12}
    (hi : ScalarIssue s [.control, .vector] false)
    (h : s.delivered.store (s.delivered.ea rs1 imm) (if dbl then 8 else 4)
      (s.delivered.cur.f[rs2].toNat % 2 ^ (8 * if dbl then 8 else 4)) = .ok s1) :
    exec (.rv64ScalarInstruction f (.fstore dbl rs1 rs2 imm)) s = .next (s1.pcBehind (bytesOf f)) :=
  exec_scalar hi rfl (fun h => nomatch h) rfl (State.rvEffect_fstore h)

end Sys2Proof.Machine
end

section
/-! PROOFS. The memory frame of stores (R184, R198, R306): what a write, a flushed write-combining buffer and a byte combined
leave unchanged, and which buffers stand while the bytes of a store are combined. -/

namespace Sys2Proof.Machine

/-! ### Machines alike but for memory -/

/-- A machine with the memory, strands, line keys, caches and traffic of another one. -/
def State.memoryOf (s s' : State) : State :=
  { s.trafficOf s' with cur := s.cur, others := s.others, dev := s.dev, host := s.host, peer := s.peer, lineKeys := s.lineKeys }

theorem SameButMemory.refl (s : State) : SameButMemory s s := ⟨rfl, rfl, rfl, rfl⟩

theorem SameButMemory.trans {s t u : State} (h : SameButMemory s t) (h' : SameButMemory t u) : SameButMemory s u := by
  obtain ⟨hst, hc, ho, hl⟩ := h
  obtain ⟨htu, hc', ho', hl'⟩ := h'
  refine ⟨?_, hc'.trans hc, ho'.trans ho, hl'.trans hl⟩
  calc s.memoryOf u = s.memoryOf (t.memoryOf u) := rfl
    _ = s := by rw [show t.memoryOf u = t from htu]; exact hst

theorem CachesOnly.sameButMemory {s t : State} (h : CachesOnly s t) : SameButMemory s t := by
  have he := h.sameButCaches
  refine ⟨?_, congrArg Strand.kept he.cur_eq, by rw [he.others_eq], h.2⟩
  calc s.memoryOf t = s.memoryOf (s.trafficOf t) := rfl
    _ = s := by rw [h.1]; rfl

theorem State.mapStrands_sameButMemory (s : State) {f : Strand → Strand} (hf : ∀ t, (f t).kept = t.kept) :
    SameButMemory s (s.mapStrands f) := by
  refine ⟨rfl, hf s.cur, ?_, rfl⟩
  change (s.others.map f).map Strand.kept = _
  rw [List.map_map]
  exact List.map_congr_left fun t _ => hf t

theorem State.onCur_sameButMemory (s : State) {f : Strand → Strand} (hf : (f s.cur).kept = s.cur.kept) :
    SameButMemory s (s.onCur f) := ⟨rfl, hf, rfl, rfl⟩

theorem State.withSpace_sameButMemory (s : State) (sp : Space) (m : Mem) : SameButMemory s (s.withSpace sp m) := by
  cases sp <;> exact ⟨rfl, rfl, rfl, rfl⟩

/-- Whether a write-back is held back turns on no memory. -/
theorem SameButMemory.backHeld_eq {s t : State} (h : SameButMemory s t) (b : WcBuf) : t.backHeld b = s.backHeld b := by
  calc t.backHeld b = (s.memoryOf t).backHeld b := rfl
    _ = s.backHeld b := by rw [show s.memoryOf t = s from h.1]

/-! ### What a write leaves -/

theorem mem_lines {a n line : Nat} (hn : n ≠ 0) (h1 : lineOf a ≤ line) (h2 : line ≤ lineOf (a + n - 1)) :
    ∃ x, a ≤ x ∧ x < a + n ∧ lineOf x = line := by
  unfold lineOf at *
  refine ⟨max a (line * 128), ?_⟩
  omega

/-- Lines that hold data under the key of a write are not rekeyed. -/
theorem State.rekey_of_key {s : State} {a n key : Nat} (h : ∀ x, a ≤ x → x < a + n → s.lineKey (lineOf x) = key) :
    s.rekey a n key = s := by
  unfold State.rekey
  split
  · rfl
  · next hn =>
    have one : ∀ l : List Nat, (∀ i ∈ l, i < lineOf (a + n - 1) + 1 - lineOf a) →
        l.foldl (fun s i => s.rekeyLine (lineOf a + i) key) s = s := by
      intro l
      induction l with
      | nil => exact fun _ => rfl
      | cons i l ih =>
        intro hl
        obtain ⟨hi, hl⟩ := List.forall_mem_cons.1 hl
        obtain ⟨x, hx1, hx2, hx⟩ := mem_lines (a := a) (n := n) (line := lineOf a + i) hn (by omega) (by omega)
        rw [List.foldl_cons, show s.rekeyLine (lineOf a + i) key = s from if_pos (hx ▸ h x hx1 hx2)]
        exact ih hl
    exact one _ fun i hi => List.mem_range.1 hi

theorem State.space_withSpace (s : State) (sp sp' : Space) (m : Mem) :
    (s.withSpace sp m).space sp' = if sp' = sp then m else s.space sp' := by
  cases sp <;> cases sp' <;> rfl

theorem State.breakRes_keeps (s : State) (sp : Space) (a n : Nat) (who : Option Nat) :
    SameButMemory s (s.breakRes sp a n who) ∧ (s.breakRes sp a n who).lineKeys = s.lineKeys
      ∧ (∀ sp', (s.breakRes sp a n who).space sp' = s.space sp')
      ∧ ∀ vec, (s.breakRes sp a n who).cur.wc vec = s.cur.wc vec := by
  unfold State.breakRes
  generalize linesOf a n = ls
  induction ls generalizing s with
  | nil => exact ⟨.refl s, rfl, fun _ => rfl, fun _ => rfl⟩
  | cons l ls ih =>
    obtain ⟨h1, h2, h3, h4⟩ := ih (s.mapStrands (·.lose sp l who))
    have hlose : SameButMemory s (s.mapStrands (·.lose sp l who)) := s.mapStrands_sameButMemory fun _ => rfl
    have hspace (sp' : Space) : (s.mapStrands (·.lose sp l who)).space sp' = s.space sp' := by cases sp' <;> rfl
    exact ⟨hlose.trans h1, h2, fun sp' => (h3 sp').trans (hspace sp'), h4⟩

/-- A write to lines under its own key, as a write to a space and the loss of reservations. -/
theorem State.writePhys_eq {s : State} {p : Phys} {bs : List Byte} (who : Option Nat)
    (h : p.space = .dev → ∀ x, p.addr ≤ x → x < p.addr + bs.length → s.lineKey (lineOf x) = p.key) :
    s.writePhys p bs who =
      (s.withSpace p.space ((s.space p.space).write p.addr bs)).breakRes p.space p.addr bs.length who := by
  unfold State.writePhys
  split
  · next e => rw [State.rekey_of_key (h e), e]; rfl
  · rfl

/-! ### The frame of a store -/

/-- A byte may be stored at a place: it is among those the store may change, and a device line of it holds data under the
key of the store. -/
def CellOpen (s0 : State) (inside : Space → Nat → Prop) (sp : Space) (key a : Nat) : Prop :=
  inside sp a ∧ (sp = .dev → s0.lineKey (lineOf a) = key)

/-- What stores to some places leave of a machine `s0`: all but memory, caches, buffers and reservations, the keys of the
lines, and every byte elsewhere. -/
structure Framed (s0 : State) (inside : Space → Nat → Prop) (s : State) : Prop where
  wf : ∀ sp, (s.space sp).wf = true
  same : SameButMemory s0 s
  outside : SameOutside s0 s inside
  keys : s.lineKeys = s0.lineKeys

section
variable {s0 s : State} {inside : Space → Nat → Prop}

theorem Framed.refl (h : MemWf s0) : Framed s0 inside s0 := by
  obtain ⟨hd, hh, hp, -, -⟩ := h
  refine ⟨fun sp => ?_, .refl s0, fun _ _ _ => rfl, rfl⟩
  cases sp
  exacts [hd, hh, hp]

theorem Framed.lineKey_eq (h : Framed s0 inside s) (line : Nat) : s.lineKey line = s0.lineKey line := by
  unfold State.lineKey
  rw [h.keys]

theorem Framed.onCur {f : Strand → Strand} (h : Framed s0 inside s) (hf : (f s.cur).kept = s.cur.kept) :
    Framed s0 inside (s.onCur f) :=
  ⟨fun sp => h.wf sp, h.same.trans (s.onCur_sameButMemory hf), fun sp a ha => h.outside sp a ha, h.keys⟩

theorem CachesOnly.framed {t : State} (hc : CachesOnly s t) (h : Framed s0 inside s) : Framed s0 inside t := by
  have hsp (sp : Space) : t.space sp = s.space sp := by obtain ⟨_, _, _, _, rfl⟩ := hc.sameButCaches; rfl
  have hk : t.lineKeys = s.lineKeys := by obtain ⟨_, _, _, _, rfl⟩ := hc.sameButCaches; rfl
  exact ⟨fun sp => hsp sp ▸ h.wf sp, h.same.trans hc.sameButMemory, fun sp a ha => hsp sp ▸ h.outside sp a ha, hk.trans h.keys⟩

/-- A write at places that may be stored to keeps the frame and the current strand's buffers. -/
theorem Framed.writePhys {p : Phys} {bs : List Byte} (who : Option Nat) (h : Framed s0 inside s)
    (hp : ∀ x, p.addr ≤ x → x < p.addr + bs.length → CellOpen s0 inside p.space p.key x) :
    Framed s0 inside (s.writePhys p bs who) ∧ ∀ vec, (s.writePhys p bs who).cur.wc vec = s.cur.wc vec := by
  rw [State.writePhys_eq who fun e x h1 h2 => (h.lineKey_eq _).trans ((hp x h1 h2).2 e)]
  generalize hm : (s.space p.space).write p.addr bs = m
  have hwf : m.wf = true := hm ▸ Mem.wf_write _ _ (h.wf _)
  obtain ⟨hsame, hkeys, hspace, hwc⟩ := (s.withSpace p.space m).breakRes_keeps p.space p.addr bs.length who
  refine ⟨⟨fun sp => ?_, (h.same.trans (s.withSpace_sameButMemory _ _)).trans hsame, fun sp a ha => ?_, ?_⟩, fun vec => ?_⟩
  · rw [hspace, State.space_withSpace]
    split
    exacts [hwf, h.wf sp]
  · rw [hspace, State.space_withSpace, ← h.outside sp a ha]
    split
    · next e =>
      subst e
      rw [← hm, Mem.get_write_other bs (h.wf _)]
      by_contra hin
      exact ha (hp a (by omega) (by omega)).1
    · rfl
  · rw [hkeys, ← h.keys]
    cases p.space <;> rfl
  · rw [hwc]
    cases p.space <;> rfl

/-- A buffer whose bytes may be stored, and whose write-back is not held back, becomes visible within the frame. -/
theorem Framed.flushBuf {b : WcBuf} (t : Strand) (vec : Bool) (h : Framed s0 inside s) (hb : s0.backHeld b = false)
    (hc : ∀ c ∈ b.cells, CellOpen s0 inside b.space b.key c.1) :
    Framed s0 inside (s.flushBuf b t vec) ∧ ∀ v, (s.flushBuf b t vec).cur.wc v = s.cur.wc v := by
  unfold State.flushBuf
  rw [h.same.backHeld_eq, if_neg (by simp [hb])]
  obtain ⟨sp, line, key, cells⟩ := b
  clear hb
  dsimp only at hc ⊢
  induction cells generalizing s with
  | nil => exact ⟨h, fun _ => rfl⟩
  | cons c cells ih =>
    obtain ⟨hc1, hc⟩ := List.forall_mem_cons.1 hc
    obtain ⟨h1, hwc1⟩ := h.writePhys (p := { space := sp, addr := c.1, key := key, unt := true }) (bs := [c.2])
      (if vec then none else some t.uid) fun x hx1 hx2 => by
        rwa [show x = c.1 from by simp only [List.length_singleton] at hx1 hx2; omega]
    obtain ⟨h2, hwc2⟩ := ih h1 hc
    exact ⟨h2, fun v => (hwc2 v).trans (hwc1 v)⟩

end

end Sys2Proof.Machine
end

section
/-! PROOFS. The write-combining buffers while the bytes of a store are combined (R184): a store makes few buffers, so that the
oldest of four that a fifth line flushes stood before the store. -/

namespace Sys2Proof.Machine

/-- The line and key that a buffer is for. -/
def WcBuf.tag (b : WcBuf) : Space × Nat × Nat := (b.space, b.line, b.key)

theorem WcBuf.tag_eq_iff (b : WcBuf) (sp : Space) (line key : Nat) :
    b.tag = (sp, line, key) ↔ (b.space == sp && b.line == line && b.key == key) = true := by
  simp [WcBuf.tag, and_assoc]

theorem State.backHeld_of_tag (s : State) {b b' : WcBuf} (h : b'.tag = b.tag) : s.backHeld b' = s.backHeld b := by
  simp only [WcBuf.tag, Prod.mk.injEq] at h
  obtain ⟨hsp, hline, -⟩ := h
  unfold State.backHeld
  rw [hsp, hline]

/-- Buffers of an agent while a store combines its bytes: `os` stood before, `ns` the store made, for the lines `tags`,
with at most m bytes each. -/
structure BufsOpen (s0 : State) (inside : Space → Nat → Prop) (tags : List (Space × Nat × Nat)) (m : Nat)
    (os ns : List WcBuf) : Prop where
  cells : ∀ b ∈ os ++ ns, ∀ c ∈ b.cells, CellOpen s0 inside b.space b.key c.1
  free : ∀ b ∈ os, s0.backHeld b = false
  apart : ∀ o ∈ os, ∀ b ∈ ns, o.tag ≠ b.tag
  nodup : (ns.map WcBuf.tag).Nodup
  listed : ∀ b ∈ ns, b.tag ∈ tags
  small : ∀ b ∈ ns, b.cells.length ≤ m

theorem mem_putCell {l : List Host.Cell} {a : Nat} {v : Byte} {c : Host.Cell} (h : c ∈ putCell l a v) : c ∈ l ∨ c.1 = a := by
  induction l with
  | nil =>
    rw [putCell, List.mem_singleton] at h
    exact .inr (h ▸ rfl)
  | cons d l ih =>
    rw [putCell] at h
    split at h
    · rcases List.mem_cons.1 h with rfl | h
      exacts [.inr rfl, .inl h]
    · split at h
      · rcases List.mem_cons.1 h with rfl | h
        exacts [.inr rfl, .inl (List.mem_cons_of_mem _ h)]
      · rcases List.mem_cons.1 h with rfl | h
        · exact .inl List.mem_cons_self
        · exact (ih h).imp_left (List.mem_cons_of_mem _)

theorem length_putCell_le (l : List Host.Cell) (a : Nat) (v : Byte) : (putCell l a v).length ≤ l.length + 1 := by
  induction l with
  | nil => exact Nat.le_refl 1
  | cons d l ih =>
    rw [putCell]
    split
    · exact Nat.le_refl _
    · split
      · simp
      · simpa using ih

section
variable {s0 : State} {inside : Space → Nat → Prop} {tags : List (Space × Nat × Nat)} {m : Nat} {os ns : List WcBuf}

theorem BufsOpen.filter (h : BufsOpen s0 inside tags m os ns) (p : WcBuf → Bool) :
    BufsOpen s0 inside tags m (os.filter p) (ns.filter p) where
  cells b hb := h.cells b (List.mem_of_mem_filter (List.filter_append os ns ▸ hb))
  free b hb := h.free b (List.mem_of_mem_filter hb)
  apart o ho b hb := h.apart o (List.mem_of_mem_filter ho) b (List.mem_of_mem_filter hb)
  nodup := h.nodup.sublist (List.filter_sublist.map _)
  listed b hb := h.listed b (List.mem_of_mem_filter hb)
  small b hb := h.small b (List.mem_of_mem_filter hb)

theorem BufsOpen.tail {o : WcBuf} (h : BufsOpen s0 inside tags m (o :: os) ns) : BufsOpen s0 inside tags m os ns where
  cells b hb := h.cells b (List.mem_cons_of_mem _ hb)
  free b hb := h.free b (List.mem_cons_of_mem _ hb)
  apart o' ho := h.apart o' (List.mem_cons_of_mem _ ho)
  nodup := h.nodup
  listed := h.listed
  small := h.small

theorem BufsOpen.mono {m' : Nat} (h : BufsOpen s0 inside tags m os ns) (hm : m ≤ m') : BufsOpen s0 inside tags m' os ns where
  cells := h.cells
  free := h.free
  apart := h.apart
  nodup := h.nodup
  listed := h.listed
  small b hb := (h.small b hb).trans hm

/-- A buffer made for a line that has none. -/
theorem BufsOpen.add (h : BufsOpen s0 inside tags m os ns) {b : WcBuf} (hnew : ∀ o ∈ os ++ ns, o.tag ≠ b.tag)
    (htag : b.tag ∈ tags) (hlen : b.cells.length ≤ m) (hc : ∀ c ∈ b.cells, CellOpen s0 inside b.space b.key c.1) :
    BufsOpen s0 inside tags m os (ns ++ [b]) where
  cells b' hb := by
    rw [← List.append_assoc] at hb
    rcases List.mem_append.1 hb with hb | hb
    · exact h.cells b' hb
    · exact List.mem_singleton.1 hb ▸ hc
  free := h.free
  apart o ho b' hb := by
    rcases List.mem_append.1 hb with hb | hb
    · exact h.apart o ho b' hb
    · exact List.mem_singleton.1 hb ▸ hnew o (List.mem_append_left _ ho)
  nodup := by
    rw [List.map_append]
    refine h.nodup.append (List.nodup_singleton _) fun t ht ht' => ?_
    obtain ⟨b', hb', rfl⟩ := List.mem_map.1 ht
    exact hnew b' (List.mem_append_right _ hb') (List.mem_singleton.1 ht')
  listed b' hb := by
    rcases List.mem_append.1 hb with hb | hb
    · exact h.listed b' hb
    · exact List.mem_singleton.1 hb ▸ htag
  small b' hb := by
    rcases List.mem_append.1 hb with hb | hb
    · exact h.small b' hb
    · exact List.mem_singleton.1 hb ▸ hlen

/-- While the store may still make a buffer, fewer of its own stand than it has lines. -/
theorem BufsOpen.length_lt (h : BufsOpen s0 inside tags m os ns) {t : Space × Nat × Nat} (hnew : ∀ o ∈ os ++ ns, o.tag ≠ t)
    (htag : t ∈ tags) : ns.length < tags.length := by
  have hnd : (t :: ns.map WcBuf.tag).Nodup := by
    refine List.nodup_cons.2 ⟨fun ht => ?_, h.nodup⟩
    obtain ⟨b, hb, e⟩ := List.mem_map.1 ht
    exact hnew b (List.mem_append_right _ hb) e
  have hle := (List.subperm_of_subset hnd (l₂ := tags) fun t' ht' => by
    rcases List.mem_cons.1 ht' with rfl | ht'
    · exact htag
    · obtain ⟨b, hb, rfl⟩ := List.mem_map.1 ht'
      exact h.listed b hb).length_le
  simpa using hle

/-- A byte put into the buffers of its line. -/
theorem BufsOpen.put (h : BufsOpen s0 inside tags m os ns) {b : WcBuf} {a : Nat} {v : Byte} (hb : b ∈ os ++ ns)
    (ha : CellOpen s0 inside b.space b.key a) {g : WcBuf → WcBuf}
    (hg : ∀ o, g o = o ∨ g o = { b with cells := putCell b.cells a v } ∧ o.tag = b.tag) :
    BufsOpen s0 inside tags (m + 1) (os.map g) (ns.map g) := by
  have htag (o : WcBuf) : (g o).tag = o.tag := by
    rcases hg o with e | ⟨e, ht⟩
    · rw [e]
    · rw [e, ht]; rfl
  refine ⟨fun b' hb' c hc => ?_, fun b' hb' => ?_, fun o' ho' b' hb' => ?_, ?_, fun b' hb' => ?_, fun b' hb' => ?_⟩
  · rw [← List.map_append] at hb'
    obtain ⟨o, ho, rfl⟩ := List.mem_map.1 hb'
    rcases hg o with e | ⟨e, -⟩ <;> rw [e] at hc ⊢
    · exact h.cells o ho c hc
    · rcases mem_putCell hc with hc | hc
      exacts [h.cells b hb c hc, hc ▸ ha]
  · obtain ⟨o, ho, rfl⟩ := List.mem_map.1 hb'
    rw [s0.backHeld_of_tag (htag o)]
    exact h.free o ho
  · obtain ⟨o, ho, rfl⟩ := List.mem_map.1 ho'
    obtain ⟨n, hn, rfl⟩ := List.mem_map.1 hb'
    rw [htag, htag]
    exact h.apart o ho n hn
  · rw [List.map_map, show WcBuf.tag ∘ g = WcBuf.tag from funext htag]
    exact h.nodup
  · obtain ⟨o, ho, rfl⟩ := List.mem_map.1 hb'
    rw [htag]
    exact h.listed o ho
  · obtain ⟨o, ho, rfl⟩ := List.mem_map.1 hb'
    rcases hg o with e | ⟨e, ht⟩ <;> rw [e]
    · exact (h.small o ho).trans (Nat.le_succ m)
    · have hbn : b ∈ ns := (List.mem_append.1 hb).resolve_left fun hbo => h.apart b hbo o ho ht.symm
      exact (length_putCell_le _ _ _).trans (Nat.succ_le_succ (h.small b hbn))

/-! ### A store -/

/-- The machine while a store combines its bytes: within the frame, with its agent's buffers as they may stand. -/
def Storing (s0 : State) (inside : Space → Nat → Prop) (tags : List (Space × Nat × Nat)) (vec : Bool) (m : Nat) (s : State) : Prop :=
  Framed s0 inside s ∧ ∃ os ns, s.cur.wc vec = os ++ ns ∧ BufsOpen s0 inside tags m os ns

variable {vec : Bool} {s : State}

theorem Strand.wc_putWc (t : Strand) (vec : Bool) (bs : List WcBuf) : (t.putWc vec bs).wc vec = bs := by
  cases vec <;> rfl

theorem Storing.putWc (h : Framed s0 inside s) (hb : BufsOpen s0 inside tags m os ns) {bs : List WcBuf} (e : bs = os ++ ns) :
    Storing s0 inside tags vec m (s.onCur fun t => t.putWc vec bs) := by
  refine ⟨h.onCur ?_, os, ns, (Strand.wc_putWc _ _ _).trans e, hb⟩
  cases vec <;> rfl

/-- One byte combined, of a store to at most four lines and of fewer than 128 bytes. -/
theorem Storing.combine (h : Storing s0 inside tags vec m s) {sp : Space} {key a : Nat} (v : Byte)
    (ha : CellOpen s0 inside sp key a) (htag : (sp, lineOf a, key) ∈ tags) (htags : tags.length ≤ 4) (hm : m < 127) :
    Storing s0 inside tags vec (m + 1) (s.combine vec sp key a v) := by
  obtain ⟨hf, os, ns, hwc, hb⟩ := h
  unfold State.combine
  rw [hwc]
  dsimp only
  split
  · next b hfind =>
    have hfound := List.find?_some hfind
    have hmine : b.tag = (sp, lineOf a, key) := (b.tag_eq_iff _ _ _).2 hfound
    have hmem : b ∈ os ++ ns := List.mem_of_find?_eq_some hfind
    have hab : CellOpen s0 inside b.space b.key a := by
      simp only [WcBuf.tag, Prod.mk.injEq] at hmine
      obtain ⟨rfl, -, rfl⟩ := hmine
      exact ha
    split
    · next hfull =>
      have hbo : b ∈ os := (List.mem_append.1 hmem).resolve_right fun hbn => by
        have h1 := length_putCell_le b.cells a v
        have h2 := hb.small b hbn
        omega
      have hfl := hf.flushBuf (b := { b with cells := putCell b.cells a v }) s.cur vec (hb.free b hbo) fun c hc => by
        rcases mem_putCell hc with hc | hc
        exacts [hb.cells b hmem c hc, hc ▸ hab]
      exact Storing.putWc hfl.1 ((hb.filter _).mono (Nat.le_succ m)) (List.filter_append ..)
    · refine Storing.putWc hf (hb.put hmem hab (v := v) fun o => ?_) (List.map_append ..)
      split
      · next ho => exact .inr ⟨rfl, ((o.tag_eq_iff _ _ _).2 ho).trans hmine.symm⟩
      · exact .inl rfl
  · next hnone =>
    have hnew : ∀ o ∈ os ++ ns, o.tag ≠ (sp, lineOf a, key) := fun o ho e =>
      List.find?_eq_none.1 hnone o ho ((o.tag_eq_iff _ _ _).1 e)
    have hcell : ∀ c ∈ [(a, v)], CellOpen s0 inside sp key c.1 := fun c hc => List.mem_singleton.1 hc ▸ ha
    have hlt := hb.length_lt hnew htag
    split
    · next hfour =>
      cases os with
      | nil =>
        dsimp only [List.nil_append] at hfour
        omega
      | cons o os =>
        have hfl := hf.flushBuf s.cur vec (hb.free o List.mem_cons_self) (hb.cells o List.mem_cons_self)
        refine Storing.putWc hfl.1 ((hb.tail.mono (Nat.le_succ m)).add (b := ⟨sp, lineOf a, key, [(a, v)]⟩)
          (fun o' ho' => hnew o' (List.mem_cons_of_mem _ ho')) htag ?_ hcell) (List.append_assoc ..)
        exact Nat.succ_le_succ (Nat.zero_le m)
    · refine Storing.putWc hf ((hb.mono (Nat.le_succ m)).add (b := ⟨sp, lineOf a, key, [(a, v)]⟩) hnew htag ?_ hcell)
        (List.append_assoc ..)
      exact Nat.succ_le_succ (Nat.zero_le m)

theorem Storing.mono {m' : Nat} (h : Storing s0 inside tags vec m s) (hm : m ≤ m') : Storing s0 inside tags vec m' s := by
  obtain ⟨hf, os, ns, hwc, hb⟩ := h
  exact ⟨hf, os, ns, hwc, hb.mono hm⟩

/-- The bytes of an untracked piece, combined one after another. -/
theorem Storing.combineAll {sp : Space} {key : Nat} (htags : tags.length ≤ 4) :
    ∀ (xs : List (Byte × Nat)) {m : Nat} {s : State} (addr : Nat), Storing s0 inside tags vec m s →
      (∀ x ∈ xs, CellOpen s0 inside sp key (addr + x.2) ∧ (sp, lineOf (addr + x.2), key) ∈ tags) → m + xs.length ≤ 127 →
      Storing s0 inside tags vec (m + xs.length) (xs.foldl (fun s x => s.combine vec sp key (addr + x.2) x.1) s)
  | [], _, _, _, h, _, _ => h
  | x :: xs, m, s, addr, h, hx, hm => by
    obtain ⟨⟨ha, ht⟩, hx⟩ := List.forall_mem_cons.1 hx
    rw [List.length_cons] at hm ⊢
    rw [List.foldl_cons, show m + (xs.length + 1) = m + 1 + xs.length by omega]
    exact combineAll htags xs addr (h.combine x.1 ha ht htags (by omega)) hx (by omega)

theorem mem_linesOf {a n x : Nat} (h1 : a ≤ x) (h2 : x < a + n) : lineOf x ∈ linesOf a n := by
  unfold linesOf
  rw [if_neg (by omega), List.mem_map]
  refine ⟨lineOf x - lineOf a, List.mem_range.2 ?_, ?_⟩ <;> unfold lineOf <;> omega

/-- The lines of a piece, each under the piece's key. -/
def tagsOf (p : Phys × Nat) : List (Space × Nat × Nat) := (linesOf p.1.addr p.2).map fun l => (p.1.space, l, p.1.key)

/-- A piece of a store, direct or combined. -/
theorem Storing.storePiece (h : Storing s0 inside tags vec m s) (htags : tags.length ≤ 4) {p : Phys × Nat} {bs : List Byte}
    (hlen : bs.length ≤ p.2) (hm : m + bs.length ≤ 127) (hsub : ∀ t ∈ tagsOf p, t ∈ tags)
    (hp : ∀ x, p.1.addr ≤ x → x < p.1.addr + p.2 → CellOpen s0 inside p.1.space p.1.key x) :
    Storing s0 inside tags vec (m + bs.length) (s.storePiece vec p bs) := by
  unfold State.storePiece
  split
  · rw [← List.length_zipIdx (l := bs) (i := 0)] at hm ⊢
    refine Storing.combineAll htags _ _ h (fun x hx => ?_) hm
    have hlt : x.2 < bs.length := by
      obtain ⟨y, i⟩ := x
      simpa using (List.mem_zipIdx hx).2.1
    refine ⟨hp _ (by omega) (by omega), hsub _ ?_⟩
    exact List.mem_map.2 ⟨_, mem_linesOf (n := p.2) (by omega) (by omega), rfl⟩
  · obtain ⟨hf, os, ns, hwc, hb⟩ := h
    have hc := s.touch_cachesOnly vec p true
    obtain ⟨hf', hwc'⟩ := (hc.framed hf).writePhys (p := p.1) (bs := bs) (s.agent vec) fun x h1 h2 => hp x h1 (by omega)
    refine ⟨hf', os, ns, ?_, hb.mono (Nat.le_add_right _ _)⟩
    rw [hwc', hc.sameButCaches.cur_eq, hwc]

theorem Storing.storeList (htags : tags.length ≤ 4) :
    ∀ (ws : List (Phys × Nat)) {m : Nat} {s : State} (bs : List Byte), Storing s0 inside tags vec m s →
      m + bs.length ≤ 127 → (∀ p ∈ ws, ∀ t ∈ tagsOf p, t ∈ tags) →
      (∀ p ∈ ws, ∀ x, p.1.addr ≤ x → x < p.1.addr + p.2 → CellOpen s0 inside p.1.space p.1.key x) →
      Storing s0 inside tags vec (m + bs.length) (s.storeList vec ws bs)
  | [], _, _, _, h, _, _, _ => h.mono (Nat.le_add_right _ _)
  | p :: ws, m, s, bs, h, hm, hsub, hp => by
    obtain ⟨hsub1, hsub⟩ := List.forall_mem_cons.1 hsub
    obtain ⟨hp1, hp⟩ := List.forall_mem_cons.1 hp
    have hsplit : (bs.take p.2).length + (bs.drop p.2).length = bs.length := by
      rw [← List.length_append, List.take_append_drop]
    have h1 := h.storePiece htags (List.length_take_le _ bs) (by omega) hsub1 hp1
    rw [State.storeList, ← hsplit, ← Nat.add_assoc]
    exact storeList htags ws _ h1 (by omega) hsub hp

end

/-- Stores of few bytes to few lines have the frame. -/
theorem storeFrame_of_lines (s0 : State) (vec : Bool) (ws : List (Phys × Nat)) (bs : List Byte) (hbs : bs.length ≤ 127)
    (hws : (ws.flatMap tagsOf).length ≤ 4) : StoreFrame s0 (s0.storeList vec ws bs) vec ws := by
  intro hwf hopen
  obtain ⟨hpieces, hbufs, hback⟩ := hopen
  have hstart : Storing s0 (fun sp a => InPieces ws sp a ∨ InBuffers (s0.cur.wc vec) sp a) (ws.flatMap tagsOf) vec 0 s0 :=
    ⟨.refl hwf, s0.cur.wc vec, [], (List.append_nil _).symm,
      { cells := fun b hb c hc => by
          rw [List.append_nil] at hb
          exact ⟨.inr ⟨b, hb, rfl, c, hc, rfl⟩, fun e => hbufs b hb e c hc⟩
        free := hback
        apart := fun _ _ _ hb => absurd hb List.not_mem_nil
        nodup := List.nodup_nil
        listed := fun _ hb => absurd hb List.not_mem_nil
        small := fun _ hb => absurd hb List.not_mem_nil }⟩
  obtain ⟨hf, -⟩ := hstart.storeList hws ws bs (by omega) (fun p hp t ht => List.mem_flatMap.2 ⟨p, hp, ht⟩)
    fun p hp x h1 h2 => ⟨.inl ⟨p, hp, rfl, h1, h2⟩, fun e => hpieces p hp e x h1 h2⟩
  exact ⟨hf.same, hf.outside⟩

end Sys2Proof.Machine
end

section
/-! PROOFS. Numbers and their bytes, least significant first (R6): the bits and the bytes of a number, and of words one after
another. -/

namespace Sys2Proof.Machine

theorem leNat_lt (bs : List Byte) : leNat bs < 2 ^ (8 * bs.length) := by
  induction bs with
  | nil => exact Nat.one_pos
  | cons b bs ih =>
    have hb := b.isLt
    rw [leNat, List.length_cons, Nat.mul_succ, Nat.pow_add]
    omega

theorem leNat_testBit (bs : List Byte) (b : Nat) : (leNat bs).testBit b = (bs.getD (b / 8) 0).getLsbD (b % 8) := by
  induction bs generalizing b with
  | nil => simp [leNat]
  | cons c bs ih =>
    rw [leNat, show c.toNat + 256 * leNat bs = 2 ^ 8 * leNat bs + c.toNat by omega, Nat.testBit_two_pow_mul_add _ c.isLt]
    split
    · next h => rw [Nat.div_eq_of_lt h, Nat.mod_eq_of_lt h, List.getD_cons_zero, BitVec.getLsbD]
    · next h =>
      obtain ⟨k, rfl⟩ : ∃ k, b = k + 8 := ⟨b - 8, by omega⟩
      rw [ih, Nat.add_sub_cancel, Nat.add_div_right _ (by decide), Nat.add_mod_right, List.getD_cons_succ]

theorem leNat_leBytes (n v : Nat) : leNat (leBytes n v) = v % 2 ^ (8 * n) := by
  induction n generalizing v with
  | zero => simp [leBytes, leNat, Nat.mod_one]
  | succ n ih =>
    rw [leBytes, leNat, ih, BitVec.toNat_ofNat, Nat.mul_succ, Nat.add_comm (8 * n), Nat.pow_add]
    exact (Nat.mod_mul (x := v) (a := 2 ^ 8) (b := 2 ^ (8 * n))).symm

theorem length_leBytes (n v : Nat) : (leBytes n v).length = n := by
  induction n generalizing v with
  | zero => rfl
  | succ n ih => simp [leBytes, ih]

/-- Byte i of word j of words one after another. -/
theorem getD_flatMap_leBytes {ws : List Nat} {j i : Nat} (hj : j < ws.length) (hi : i < 8) :
    (ws.flatMap (leBytes 8)).getD (8 * j + i) 0 = (leBytes 8 (ws.getD j 0)).getD i 0 := by
  induction ws generalizing j with
  | nil => exact absurd hj (Nat.not_lt_zero j)
  | cons w ws ih =>
    have hlen := length_leBytes 8 w
    rw [List.flatMap_cons]
    cases j with
    | zero => rw [Nat.mul_zero, Nat.zero_add, List.getD_append _ _ _ _ (by omega), List.getD_cons_zero]
    | succ j =>
      rw [List.getD_append_right _ _ _ _ (by omega), hlen, show 8 * (j + 1) + i - 8 = 8 * j + i by omega,
        List.getD_cons_succ]
      exact ih (Nat.lt_of_succ_lt_succ hj)

theorem length_flatMap_leBytes (ws : List Nat) : (ws.flatMap (leBytes 8)).length = 8 * ws.length := by
  induction ws with
  | nil => rfl
  | cons w ws ih => rw [List.flatMap_cons, List.length_append, length_leBytes, ih, List.length_cons]; omega

/-- The bytes of a number, read one after another. -/
theorem leNat_map_leBytes (n v : Nat) : leNat ((List.range n).map fun i => (leBytes n v).getD i 0) = v % 2 ^ (8 * n) := by
  rw [← leNat_leBytes]
  congr 1
  refine List.ext_getElem (by simp [length_leBytes]) fun i h1 h2 => ?_
  simp [List.getD_eq_getElem?_getD, h2]

end Sys2Proof.Machine
end

section
/-! PROOFS. Scalar loads and stores with their memory frame (R6, R55, R57). -/

namespace Sys2Proof.Machine

/-! ### Where a store of at most 8 bytes goes -/

theorem length_linesOf_le {a n : Nat} (hn : n ≤ 8) : (linesOf a n).length ≤ 2 := by
  unfold linesOf
  split
  · exact Nat.zero_le 2
  · rw [List.length_map, List.length_range]
    unfold lineOf
    omega

theorem length_tagsOf_le {p : Phys × Nat} (hn : p.2 ≤ 8) : (tagsOf p).length ≤ 2 := by
  rw [tagsOf, List.length_map]
  exact length_linesOf_le hn

/-- The pieces of an access: one, or one in each of two pages. -/
def FewPieces (n : Nat) (ws : List (Phys × Nat)) : Prop := ws.length ≤ 2 ∧ ∀ p ∈ ws, p.2 ≤ n

theorem fewPieces_one (p : Phys) (n : Nat) : FewPieces n [(p, n)] :=
  ⟨by simp, fun q hq => by rw [List.mem_singleton.1 hq]⟩

theorem fewPieces_two (p q : Phys) (a n : Nat) : FewPieces n [(p, min n a), (q, n - min n a)] := by
  refine ⟨by simp, fun r hr => ?_⟩
  simp only [List.mem_cons, List.not_mem_nil, or_false] at hr
  rcases hr with rfl | rfl
  · exact Nat.min_le_left _ _
  · exact Nat.sub_le _ _

theorem FewPieces.length_tags_le {n : Nat} {ws : List (Phys × Nat)} (h : FewPieces n ws) (hn : n ≤ 8) :
    (ws.flatMap tagsOf).length ≤ 4 := by
  obtain ⟨hlen, hp⟩ := h
  calc (ws.flatMap tagsOf).length = (ws.map fun p => (tagsOf p).length).sum := List.length_flatMap
    _ ≤ (ws.map fun p => (tagsOf p).length).length • 2 := List.sum_le_card_nsmul _ 2 fun k hk => by
        obtain ⟨p, hmem, rfl⟩ := List.mem_map.1 hk
        exact length_tagsOf_le ((hp p hmem).trans hn)
    _ ≤ 4 := by rw [List.length_map, smul_eq_mul]; omega

theorem State.fewPieces_translate {s s' : State} {ctx va n : Nat} {acc : Acc} {ws : List (Phys × Nat)}
    (h : s.translate ctx va n acc = (.ok ws, s')) : FewPieces n ws := by
  unfold State.translate at h
  dsimp only at h
  split at h
  · split at h
    · cases h
      exact fewPieces_one _ _
    · split at h
      · cases h
        exact fewPieces_two _ _ _ _
      · cases h
  · cases h

theorem State.fewPieces_places {s s' : State} {a : Int} {n : Nat} {acc : Acc} {ws : List (Phys × Nat)}
    (h : s.places a n acc = .ok (ws, s')) : FewPieces n ws := by
  unfold State.places State.placesIn at h
  split at h
  · cases h
  · split at h
    · next heq =>
      cases h
      exact State.fewPieces_translate heq
    · split at h <;> cases h
    · cases h

theorem State.fewPieces_barePlaces {s : State} {a n : Nat} {ws : List (Phys × Nat)} (h : s.barePlaces a n = some ws) :
    FewPieces n ws := by
  unfold State.barePlaces at h
  split at h
  · cases h
  · dsimp only at h
    split at h
    · cases h
    · split at h
      · cases h
        exact fewPieces_one _ _
      · split at h
        · cases h
          exact fewPieces_two _ _ _ _
        · cases h

theorem fewPieces_of_scalarTarget {s s0 : State} {a : Word} {n : Nat} {ws : List (Phys × Nat)}
    (h : ScalarTarget s s0 a n ws) : FewPieces n ws := by
  rcases h with ⟨-, hps⟩ | ⟨-, -, -, hps, -⟩
  · exact State.fewPieces_places hps
  · exact State.fewPieces_barePlaces hps

/-- A scalar store of at most 8 bytes has the frame. -/
theorem storeFrame_of_scalarTarget {s s0 : State} {a : Word} {n : Nat} {ws : List (Phys × Nat)} (vec : Bool) (v : Nat)
    (h : ScalarTarget s s0 a n ws) (hn : n ≤ 8) : StoreFrame s0 (s0.storeList vec ws (leBytes n v)) vec ws :=
  storeFrame_of_lines s0 vec ws _ (by rw [length_leBytes]; omega) ((fewPieces_of_scalarTarget h).length_tags_le hn)

theorem storeBytes_le (op : StOp) : storeBytes op ≤ 8 := by cases op <;> decide

/-- Settles O33, from what each load and store does once issued and the frame of a store of at most 8 bytes. -/
theorem scalarMemory : Obligations.ScalarMemory := by
  unfold Obligations.ScalarMemory
  intro f s d ea
  have hlane : d.laneMode = s.laneMode := s.delivered_laneMode
  refine ⟨fun hi => ⟨?_, ?_, ?_⟩, fun hi => ⟨?_, ?_⟩⟩
  · exact fun op rd rs1 imm x s0 hr => exec_load hi hr
  · intro op rs1 rs2 imm ws s0 ht vec s1
    refine ⟨exec_store hi ((State.store_of_scalarTarget _ ht).trans ?_), storeFrame_of_scalarTarget vec _ ht (storeBytes_le op)⟩
    rw [hlane]
  · exact fun op rs1 rs2 imm hb ha => exec_store hi (State.store_block _ _ hb ha)
  · exact fun dbl rd rs1 imm x s0 hr => exec_fload hi hr
  · intro dbl rs1 rs2 imm ws s0 n ht s1
    refine ⟨exec_fstore hi ((State.store_of_scalarTarget _ ht).trans ?_),
      storeFrame_of_scalarTarget false _ ht (by cases dbl <;> decide)⟩
    rw [hlane, laneMode_of_scalarIssue hi]
    rfl

end Sys2Proof.Machine
end

section
/-! PROOFS. Stores of the launch unit to places that nothing holds back (R191, R303): the frame, and the bytes written. -/

namespace Sys2Proof.Machine

/-! ### What a write of device memory writes -/

/-- A device byte after a write to lines under its own key. -/
theorem State.dev_get_writePhys {s : State} {p : Phys} {bs : List Byte} (who : Option Nat) (hdev : p.space = .dev)
    (h : ∀ x, p.addr ≤ x → x < p.addr + bs.length → s.lineKey (lineOf x) = p.key) (hwf : s.dev.wf = true) (x : Nat) :
    (s.writePhys p bs who).dev.get x =
      if p.addr ≤ x ∧ x < p.addr + bs.length then bs.getD (x - p.addr) 0 else s.dev.get x := by
  rw [State.writePhys_eq who fun _ => h, hdev]
  obtain ⟨-, -, hspace, -⟩ :=
    (s.withSpace .dev ((s.space .dev).write p.addr bs)).breakRes_keeps .dev p.addr bs.length who
  exact (congrArg (Mem.get · x) (hspace .dev)).trans (Mem.get_write p.addr bs hwf x)

theorem CachesOnly.dev_eq {s t : State} (h : CachesOnly s t) : t.dev = s.dev := h.sameButCaches.dev_eq

theorem CachesOnly.lu_eq {s t : State} (h : CachesOnly s t) : t.lu = s.lu := h.sameButCaches.lu_eq

/-! ### Nothing of the launch unit's own records -/

/-- The launch unit's own records, and the particulars of the event that is made. -/
def State.unitPart (s : State) : LaunchUnit × Arg := (s.lu, s.arg)

theorem CachesOnly.unitPart_eq {s t : State} (h : CachesOnly s t) : t.unitPart = s.unitPart := by
  obtain ⟨_, _, _, _, rfl⟩ := h.sameButCaches
  rfl

theorem State.foldl_unitPart {α : Type} {f : State → α → State} (hf : ∀ (s : State) (a : α), (f s a).unitPart = s.unitPart) :
    ∀ (l : List α) (s : State), (l.foldl f s).unitPart = s.unitPart
  | [], _ => rfl
  | a :: l, s => (foldl_unitPart hf l (f s a)).trans (hf s a)

theorem State.rekeyLine_unitPart (s : State) (line key : Nat) : (s.rekeyLine line key).unitPart = s.unitPart := by
  unfold State.unitPart State.rekeyLine
  split <;> rfl

theorem State.rekey_unitPart (s : State) (a n key : Nat) : (s.rekey a n key).unitPart = s.unitPart := by
  unfold State.rekey
  split
  · rfl
  · exact State.foldl_unitPart (fun s _ => s.rekeyLine_unitPart _ key) _ s

theorem State.breakRes_unitPart (s : State) (sp : Space) (a n : Nat) (who : Option Nat) :
    (s.breakRes sp a n who).unitPart = s.unitPart :=
  State.foldl_unitPart (f := fun s l => s.mapStrands (·.lose sp l who)) (fun _ _ => rfl) _ s

theorem State.writePhys_unitPart (s : State) (p : Phys) (bs : List Byte) (who : Option Nat) :
    (s.writePhys p bs who).unitPart = s.unitPart := by
  unfold State.writePhys
  split
  · exact (State.breakRes_unitPart _ _ _ _ _).trans (s.rekey_unitPart _ _ _)
  · refine (State.breakRes_unitPart _ _ _ _ _).trans ?_
    cases p.space <;> rfl

theorem State.storeParts_unitPart (lid : Nat) : ∀ (ps : List (Phys × Nat)) (s : State) (bs : List Byte),
    (s.storeParts lid ps bs).unitPart = s.unitPart
  | [], _, _ => rfl
  | p :: ps, s, bs => by
    rw [State.storeParts]
    refine (storeParts_unitPart lid ps _ _).trans ?_
    split
    · rfl
    · split
      · rfl
      · exact (State.writePhys_unitPart _ _ _ _).trans (s.l2Touch_cachesOnly p true).unitPart_eq

theorem State.storeUnit_lu (s : State) (lid : Nat) (ps : List (Phys × Nat)) (bs : List Byte) :
    (s.storeUnit lid ps bs).lu = s.lu := congrArg Prod.fst (State.storeParts_unitPart lid _ s bs)

theorem State.storeUnit_arg (s : State) (lid : Nat) (ps : List (Phys × Nat)) (bs : List Byte) :
    (s.storeUnit lid ps bs).arg = s.arg := congrArg Prod.snd (State.storeParts_unitPart lid _ s bs)

/-! ### Places that nothing holds back -/

theorem SameButMemory.held_eq {s t : State} (h : SameButMemory s t) (a : Nat) : t.held a false = s.held a false := by
  calc t.held a false = (s.memoryOf t).held a false := rfl
    _ = s.held a false := by rw [show s.memoryOf t = s from h.1]

theorem SameButMemory.writeGate_eq {s t : State} (h : SameButMemory s t) (page : Nat) : t.writeGate page = s.writeGate page := by
  calc t.writeGate page = (s.memoryOf t).writeGate page := rfl
    _ = s.writeGate page := by rw [show s.memoryOf t = s from h.1]

/-- Every byte of [a, a + n) of device memory can be written now, and is one that a store may change. -/
def DevOpen (s0 : State) (inside : Space → Nat → Prop) (key a n : Nat) : Prop :=
  ∀ x, a ≤ x → x < a + n → s0.held x false = false ∧ s0.writeGate (pageOf x) = .free ∧ CellOpen s0 inside .dev key x

theorem DevOpen.sub {s0 : State} {inside : Space → Nat → Prop} {key a n b m : Nat} (h : DevOpen s0 inside key a n)
    (h1 : a ≤ b) (h2 : b + m ≤ a + n) : DevOpen s0 inside key b m :=
  fun x hx1 hx2 => h x (h1.trans hx1) (by omega)

/-- A machine within the frame after bytes are written at a device address. -/
structure Written (s0 : State) (inside : Space → Nat → Prop) (a : Nat) (bs : List Byte) (s t : State) : Prop where
  frame : Framed s0 inside t
  bytes : ∀ x, t.dev.get x = if a ≤ x ∧ x < a + bs.length then bs.getD (x - a) 0 else s.dev.get x

section
variable {s0 s t : State} {inside : Space → Nat → Prop}

/-- Bytes written, and then those that follow them. -/
theorem Written.append {u : State} {a : Nat} {bs cs : List Byte} (h : Written s0 inside a bs s t)
    (h' : Written s0 inside (a + bs.length) cs t u) : Written s0 inside a (bs ++ cs) s u := by
  refine ⟨h'.frame, fun x => ?_⟩
  rw [h'.bytes, h.bytes, List.length_append]
  by_cases h1 : a + bs.length ≤ x
  · rw [List.getD_append_right _ _ _ _ (by omega), if_neg (show ¬(a ≤ x ∧ x < a + bs.length) by omega),
      show x - (a + bs.length) = x - a - bs.length by omega]
    exact if_congr (by omega) rfl rfl
  · rw [if_neg (by omega)]
    by_cases h2 : a ≤ x
    · rw [if_pos (by omega), if_pos (by omega), List.getD_append _ _ _ _ (by omega)]
    · rw [if_neg (by omega), if_neg (by omega)]

/-- One part of a store of the launch unit. -/
theorem Framed.storePart (h : Framed s0 inside s) {lid : Nat} {p : Phys} {n : Nat} {bs : List Byte} (hdev : p.space = .dev)
    (hn : 0 < n) (hlen : bs.length = n) (ho : DevOpen s0 inside p.key p.addr n) (ps : List (Phys × Nat)) (cs : List Byte) :
    ∃ t, Written s0 inside p.addr bs s t ∧ s.storeParts lid ((p, n) :: ps) (bs ++ cs) = t.storeParts lid ps cs := by
  have hc := s.l2Touch_cachesOnly (p, n) true
  have hf := hc.framed h
  obtain ⟨hheld, hgate, -⟩ := ho p.addr (Nat.le_refl _) (by omega)
  have hcell : ∀ x, p.addr ≤ x → x < p.addr + bs.length → CellOpen s0 inside p.space p.key x := fun x h1 h2 =>
    hdev ▸ (ho x h1 (hlen ▸ h2)).2.2
  refine ⟨(s.l2Touch (p, n) true).writePhys p bs none, ⟨(hf.writePhys none hcell).1, fun x => ?_⟩, ?_⟩
  · rw [State.dev_get_writePhys none hdev (fun x h1 h2 => (hf.lineKey_eq _).trans ((hcell x h1 h2).2 hdev)) (hf.wf .dev) x,
      hc.dev_eq]
  · rw [State.storeParts, h.same.held_eq, h.same.writeGate_eq, hheld, hgate,
      List.take_append_of_le_length (by omega), List.drop_append_of_le_length (by omega), List.take_of_length_le (by omega),
      List.drop_of_length_le (by omega)]
    simp

/-- Where the two parts of a piece that crosses into the next granule begin and end. -/
theorem granule_bounds {a n : Nat} (hn : n ≤ 4096) (hcross : 4096 < a % 4096 + n) :
    max a ((a / 4096 + 0) * 4096) = a ∧ min (a + n) ((a / 4096 + 0 + 1) * 4096) - a = 4096 - a % 4096
      ∧ max a ((a / 4096 + 1) * 4096) = a + (4096 - a % 4096)
      ∧ min (a + n) ((a / 4096 + 1 + 1) * 4096) - (a + (4096 - a % 4096)) = n - (4096 - a % 4096) := by
  have hdm := Nat.div_add_mod a 4096
  have hr := Nat.mod_lt a (show 0 < 4096 by decide)
  generalize a / 4096 = g at *
  generalize a % 4096 = r at *
  subst hdm
  refine ⟨Nat.max_eq_left (by omega), ?_, ?_, ?_⟩
  · rw [Nat.min_eq_right (by omega)]
    omega
  · rw [Nat.max_eq_right (by omega)]
    omega
  · rw [Nat.min_eq_left (by omega)]
    omega

/-- A piece of at most 4 KiB is cut in one or two. -/
theorem granuleParts_cases (p : Phys) {n : Nat} (hn : n ≤ 4096) : granuleParts (p, n) = [(p, n)]
    ∨ ∃ k, 0 < k ∧ k < n ∧ granuleParts (p, n) = [(p, k), ({ p with addr := p.addr + k }, n - k)] := by
  unfold granuleParts
  split
  · exact .inl rfl
  · next h =>
    have hcross : 4096 < p.addr % 4096 + n := Nat.lt_of_not_le h
    have hcount : (p.addr + n - 1) / 4096 + 1 - p.addr / 4096 = 2 := by omega
    refine .inr ⟨4096 - p.addr % 4096, by omega, by omega, ?_⟩
    rw [hcount]
    obtain ⟨h1, h2, h3, h4⟩ := granule_bounds hn hcross
    simp only [List.range_succ, List.range_zero, List.nil_append, List.cons_append, List.map_cons, List.map_nil, h1, h2, h3, h4]

/-- A store of the launch unit to device memory that nothing holds back. -/
theorem Framed.storeUnit (h : Framed s0 inside s) {lid : Nat} {p : Phys} {n : Nat} {bs : List Byte} (hdev : p.space = .dev)
    (hn : 0 < n) (hle : n ≤ 4096) (hlen : bs.length = n) (ho : DevOpen s0 inside p.key p.addr n) :
    Written s0 inside p.addr bs s (s.storeUnit lid [(p, n)] bs) := by
  unfold State.storeUnit
  rw [List.flatMap_singleton]
  rcases granuleParts_cases p hle with e | ⟨k, hk, hkn, e⟩ <;> rw [e]
  · obtain ⟨t, hw, e⟩ := h.storePart (lid := lid) hdev hn hlen ho [] []
    rw [List.append_nil] at e
    exact e ▸ hw
  · have hlen1 : (bs.take k).length = k := List.length_take_of_le (by omega)
    have hlen2 : (bs.drop k).length = n - k := by rw [List.length_drop, hlen]
    obtain ⟨t, hw, e1⟩ := h.storePart (lid := lid) hdev hk hlen1 (ho.sub (Nat.le_refl _) (by omega))
      [({ p with addr := p.addr + k }, n - k)] (bs.drop k)
    obtain ⟨u, hw', e2⟩ := hw.frame.storePart (lid := lid) (p := { p with addr := p.addr + k }) hdev (by omega) hlen2
      (ho.sub (Nat.le_add_right _ _) (by dsimp only; omega)) [] []
    rw [List.append_nil] at e2
    rw [List.take_append_drop] at e1
    rw [e1, e2]
    have happ := hw.append (by rw [hlen1]; exact hw')
    rwa [List.take_append_drop] at happ

end

end Sys2Proof.Machine
end

section
/-! PROOFS. The queue slots and the user queues of the launch unit, as functions of their numbers (R233, R263, R315). -/

namespace Sys2Proof.Machine

/-! ### Lists put in order by a number -/

section
variable {α : Type} (k : α → Nat)

theorem pairwise_insertBy (a : α) {l : List α} (h : l.Pairwise fun x y => k x ≤ k y) :
    (insertBy (fun a b => decide (k a < k b)) a l).Pairwise fun x y => k x ≤ k y := by
  induction l with
  | nil => exact List.pairwise_singleton _ _
  | cons b l ih =>
    obtain ⟨hb, hl⟩ := List.pairwise_cons.1 h
    unfold insertBy
    split
    · next hlt =>
      have hlt := of_decide_eq_true hlt
      refine List.pairwise_cons.2 ⟨fun c hc => ?_, h⟩
      rcases List.mem_cons.1 hc with rfl | hc
      · exact Nat.le_of_lt hlt
      · exact (Nat.le_of_lt hlt).trans (hb c hc)
    · next hlt =>
      refine List.pairwise_cons.2 ⟨fun c hc => ?_, ih hl⟩
      rcases (mem_insertBy _ a c l).1 hc with rfl | hc
      · simpa using hlt
      · exact hb c hc

/-- The first element with a number, of a list in order into which one is put. -/
theorem find?_insertBy (a : α) (n : Nat) {l : List α} (h : l.Pairwise fun x y => k x ≤ k y) :
    (insertBy (fun a b => decide (k a < k b)) a l).find? (k · == n) = (l ++ [a]).find? (k · == n) := by
  induction l with
  | nil => rfl
  | cons b l ih =>
    obtain ⟨hb, hl⟩ := List.pairwise_cons.1 h
    unfold insertBy
    split
    · next hlt =>
      have hlt := of_decide_eq_true hlt
      by_cases ha : k a = n
      · have hnone : (b :: l).find? (k · == n) = none := List.find?_eq_none.2 fun c hc => by
          have hbc : k b ≤ k c := by
            rcases List.mem_cons.1 hc with rfl | hc
            exacts [Nat.le_refl _, hb c hc]
          simp
          omega
        rw [List.find?_append, hnone, List.find?_cons_of_pos (by simpa using ha), List.find?_cons_of_pos (by simpa using ha)]
        rfl
      · rw [List.find?_append, List.find?_cons_of_neg (by simpa using ha), List.find?_cons_of_neg (a := a) (by simpa using ha)]
        simp
    · rw [List.cons_append, List.find?_cons, List.find?_cons, ih hl]

/-- Putting a list in order of a number keeps which element with the number comes first. -/
theorem find?_sortBy (n : Nat) (l : List α) :
    (sortBy (fun a b => decide (k a < k b)) l).find? (k · == n) = l.find? (k · == n) := by
  have go : ∀ (l acc : List α), acc.Pairwise (fun x y => k x ≤ k y) →
      (l.foldl (fun acc a => insertBy (fun a b => decide (k a < k b)) a acc) acc).find? (k · == n)
        = (acc ++ l).find? (k · == n) := by
    intro l
    induction l with
    | nil => intro acc _; rw [List.append_nil]; rfl
    | cons a l ih =>
      intro acc hacc
      rw [List.foldl_cons, ih _ (pairwise_insertBy k a hacc), List.find?_append, find?_insertBy k a n hacc,
        ← List.find?_append, List.append_assoc, List.singleton_append]
  exact go l [] List.Pairwise.nil

end

/-! ### Slots -/

@[simp] theorem State.qslot_slot (s : State) (n : Nat) : (s.qslot n).slot = n := by
  unfold State.qslot
  cases h : s.lu.slots.find? fun q => q.slot == n with
  | none => rfl
  | some q => simpa using List.find?_some h

theorem State.qslot_putQslot (s : State) (p : QSlot) (n : Nat) :
    (s.putQslot p).qslot n = if n = p.slot then p else s.qslot n := by
  have hfind : (s.putQslot p).lu.slots.find? (·.slot == n) = (p :: s.lu.slots.filter (·.slot != p.slot)).find? (·.slot == n) :=
    find?_sortBy QSlot.slot n _
  unfold State.qslot
  rw [hfind]
  split
  · next h => rw [List.find?_cons_of_pos (by simp [h])]; rfl
  · next h =>
    rw [List.find?_cons_of_neg (by simpa using Ne.symm h), List.find?_filter]
    congr 2
    funext q
    by_cases hq : q.slot = n
    · simp [hq, h]
    · simp [hq]

theorem State.mem_slots_putQslot {s : State} {p q : QSlot} :
    q ∈ (s.putQslot p).lu.slots ↔ q = p ∨ (q ∈ s.lu.slots ∧ q.slot ≠ p.slot) := by
  change q ∈ sortBy _ _ ↔ _
  rw [mem_sortBy, List.mem_cons, List.mem_filter]
  simp

theorem State.uqMapped_iff {s : State} {uq : Nat} : s.uqMapped uq = true ↔ ∃ p ∈ s.lu.slots, p.mapped = true ∧ p.uq = uq := by
  simp [State.uqMapped]

theorem State.uqMapped_eq_false {s : State} {uq : Nat} (h : ∀ p ∈ s.lu.slots, p.mapped = true → p.uq ≠ uq) :
    s.uqMapped uq = false := by
  rw [← Bool.not_eq_true, State.uqMapped_iff]
  rintro ⟨p, hp, hm, hu⟩
  exact h p hp hm hu

theorem State.uqMapped_putQslot {s : State} {p : QSlot} (h : p.mapped = true) : (s.putQslot p).uqMapped p.uq = true :=
  State.uqMapped_iff.2 ⟨p, State.mem_slots_putQslot.2 (.inl rfl), h, rfl⟩

/-! ### Queues -/

theorem State.uqueue_uq {s : State} {n : Nat} {q : UQueue} (h : s.uqueue n = some q) : q.uq = n := by
  simpa using List.find?_some h

/-- A queue's numbers in the place of those with its number. -/
def State.putUq (s : State) (uq : Nat) (q : UQueue) : State :=
  { s with lu := { s.lu with uqs := s.lu.uqs.map fun p : UQueue => if p.uq = uq then q else p } }

theorem State.uqueue_putUq {s : State} {uq : Nat} {q q0 : UQueue} (hq : q.uq = uq) (h0 : s.uqueue uq = some q0) (n : Nat) :
    (s.putUq uq q).uqueue n = if n = uq then some q else s.uqueue n := by
  have hkey : ((fun r : UQueue => r.uq == n) ∘ fun r : UQueue => if r.uq = uq then q else r) = fun r => r.uq == n := by
    funext r
    by_cases hr : r.uq = uq
    · simp [hr, hq]
    · simp [hr]
  have hmap : (s.putUq uq q).uqueue n = (s.uqueue n).map fun r : UQueue => if r.uq = uq then q else r := by
    change (s.lu.uqs.map _).find? _ = _
    rw [List.find?_map, hkey]
    rfl
  rw [hmap]
  split
  · next h => rw [h, h0, Option.map_some, if_pos (State.uqueue_uq h0)]
  · next h =>
    cases hn : s.uqueue n with
    | none => rfl
    | some r => rw [Option.map_some, if_neg (by rw [State.uqueue_uq hn]; exact h)]

theorem State.updUq_eq {s : State} {uq : Nat} {q0 : UQueue} (f : UQueue → UQueue) (h0 : s.uqueue uq = some q0) :
    s.updUq uq f = (s.putUq uq (f (s.numbers q0))).storeRec (f (s.numbers q0)) := by
  unfold State.updUq
  rw [h0]
  rfl

theorem State.storeRec_lu (s : State) (q : UQueue) : (s.storeRec q).lu = s.lu := s.storeUnit_lu _ _ _

/-- What is said of slots and queues is said of the launch unit's records. -/
theorem State.qslot_of_lu {s t : State} (h : t.lu = s.lu) (n : Nat) : t.qslot n = s.qslot n := by
  unfold State.qslot
  rw [h]

theorem State.uqueue_of_lu {s t : State} (h : t.lu = s.lu) (n : Nat) : t.uqueue n = s.uqueue n := by
  unfold State.uqueue
  rw [h]

theorem State.uqMapped_of_slots {s t : State} (h : t.lu.slots = s.lu.slots) (uq : Nat) : t.uqMapped uq = s.uqMapped uq := by
  unfold State.uqMapped
  rw [h]

theorem State.updUq_slots (s : State) (uq : Nat) (f : UQueue → UQueue) : (s.updUq uq f).lu.slots = s.lu.slots := by
  unfold State.updUq
  split
  · rfl
  · rw [State.storeRec_lu]

theorem State.updUq_arg (s : State) (uq : Nat) (f : UQueue → UQueue) : (s.updUq uq f).arg = s.arg := by
  unfold State.updUq
  split
  · rfl
  · exact State.storeUnit_arg _ _ _ _

theorem State.updUq_entries (s : State) (uq : Nat) (f : UQueue → UQueue) : (s.updUq uq f).lu.entries = s.lu.entries := by
  unfold State.updUq
  split
  · rfl
  · rw [State.storeRec_lu]

end Sys2Proof.Machine
end

section
/-! PROOFS. The record of a user queue in device memory (R315): what storing it writes, and what its words then hold. -/

namespace Sys2Proof.Machine

/-! ### What the units read -/

theorem CachesOnly.unitNat_eq {s t : State} (h : CachesOnly s t) (a n : Nat) : t.unitNat a n = s.unitNat a n := by
  calc t.unitNat a n = (s.trafficOf t).unitNat a n := rfl
    _ = s.unitNat a n := by rw [h.1]

theorem CachesOnly.reread_eq {s t : State} (h : CachesOnly s t) (q : UQueue) : t.reread q = s.reread q := by
  calc t.reread q = (s.trafficOf t).reread q := rfl
    _ = s.reread q := by rw [h.1]

theorem State.unitNat_lt (s : State) (a n : Nat) : s.unitNat a n < 2 ^ (8 * n) := by
  have h := leNat_lt ((List.range n).map fun i => s.unitByte (a + i))
  rwa [List.length_map, List.length_range] at h

theorem State.unitNat_testBit (s : State) (a : Nat) {n b : Nat} (hb : b < 8 * n) :
    (s.unitNat a n).testBit b = (s.unitByte (a + b / 8)).getLsbD (b % 8) := by
  unfold State.unitNat
  rw [leNat_testBit, List.getD_eq_getElem _ _ (by simp; omega)]
  simp

theorem State.devNat_eq (s : State) (a n : Nat) : s.devNat a n = leNat ((List.range n).map fun i => s.devByte (a + i) 0) := rfl

/-! ### The words of a record -/

/-- The first word that the device writes: QCTL with PEND and HOLD. -/
def UQueue.qctl (q : UQueue) (ctl : Nat) : Nat := fld ctl 0 8 + boolBit q.pend 8 + boolBit q.hold 9 + fld ctl 10 54 * 2 ^ 10

theorem UQueue.qctl_testBit (q : UQueue) {ctl b : Nat} (hb : b < 64) :
    (q.qctl ctl).testBit b = if b = 8 then q.pend else if b = 9 then q.hold else ctl.testBit b := by
  have hlow : fld ctl 0 8 < 2 ^ 8 := Nat.mod_lt _ (by decide)
  have hmid : q.qctl ctl = 2 ^ 8 * (2 ^ 1 * (2 ^ 1 * fld ctl 10 54 + q.hold.toNat) + q.pend.toNat) + fld ctl 0 8 := by
    unfold UQueue.qctl boolBit
    cases q.pend <;> cases q.hold <;> simp <;> omega
  rw [hmid, Nat.testBit_two_pow_mul_add _ hlow]
  split
  · next h =>
    rw [if_neg (by omega), if_neg (by omega), fld, Nat.pow_zero, Nat.div_one, Nat.testBit_mod_two_pow]
    simp [h]
  · next h =>
    rw [Nat.testBit_two_pow_mul_add _ (by cases q.pend <;> decide)]
    split
    · next h8 =>
      obtain rfl : b = 8 := by omega
      cases q.pend <;> simp
    · next h8 =>
      rw [if_neg (by omega), Nat.testBit_two_pow_mul_add _ (by cases q.hold <;> decide)]
      split
      · next h9 =>
        obtain rfl : b = 9 := by omega
        cases q.hold <;> simp
      · next h9 =>
        rw [if_neg (by omega), fld, Nat.testBit_mod_two_pow, Nat.testBit_div_two_pow]
        have : b - 8 - 1 - 1 < 54 := by omega
        simp [this, show b - 8 - 1 - 1 + 10 = b by omega]

theorem UQueue.length_words (q : UQueue) (ctl : Nat) : (q.words ctl).length = 5 := rfl

/-! ### A record that can be written -/

/-- The bytes of a record that the device writes. -/
abbrev InRecord (a : Nat) : Space → Nat → Prop := InPieces [(devPhys (a + 8), 40)]

/-- A record can be written now, and its lines hold data under the device key. -/
def RecFree (s : State) (a : Nat) : Prop :=
  MemWf s ∧ (∀ i, i < 40 → s.held (a + 8 + i) false = false ∧ s.writeGate (pageOf (a + 8 + i)) = .free)
    ∧ StoresOpen s [(devPhys (a + 8), 40)] []

/-- The numbers of a queue fit the words of its record. -/
def UQueue.Fits (q : UQueue) : Prop := q.ssn < 2 ^ 64 ∧ q.csn < 2 ^ 64 ∧ q.notified < 2 ^ 64 ∧ q.fsn < 2 ^ 64

theorem RecordOpen.recFree {s : State} {q : UQueue} (h : RecordOpen s q) : RecFree s q.recAddr := by
  obtain ⟨hwf, hfree, hopen, -⟩ := h
  exact ⟨hwf, hfree, hopen⟩

theorem RecordOpen.fits {s : State} {q : UQueue} (h : RecordOpen s q) : q.Fits := by
  obtain ⟨-, -, -, hfits⟩ := h
  exact hfits

theorem RecFree.lineKey_eq {s : State} {a x : Nat} (h : RecFree s a) (h1 : a + 8 ≤ x) (h2 : x < a + 8 + 40) :
    s.lineKey (lineOf x) = 0 := by
  obtain ⟨-, -, hkeys, -⟩ := h
  exact hkeys _ List.mem_cons_self rfl x h1 h2

theorem RecFree.devOpen {s : State} {a : Nat} (h : RecFree s a) : DevOpen s (InRecord a) 0 (a + 8) 40 := by
  intro x h1 h2
  obtain ⟨hheld, hgate⟩ := h.2.1 (x - (a + 8)) (by omega)
  rw [show a + 8 + (x - (a + 8)) = x by omega] at hheld hgate
  exact ⟨hheld, hgate, ⟨_, List.mem_cons_self, rfl, h1, h2⟩, fun _ => h.lineKey_eq h1 h2⟩

/-! ### A machine on the way of an event -/

/-- A machine `t` that an event on the queue of a record has made of `s` so far: beside the launch unit's own records nothing
but the record is changed, and what the units read of QCTL stands, PEND and HOLD apart. -/
structure RecKept (s : State) (a : Nat) (t : State) : Prop where
  frame : Framed { s with lu := t.lu } (InRecord a) t
  ctl : ∀ b, b < 64 → b ≠ 8 → b ≠ 9 → (t.unitNat (a + 8) 8).testBit b = (s.unitNat (a + 8) 8).testBit b

theorem RecKept.refl {s : State} {a : Nat} (h : RecFree s a) : RecKept s a s := by
  obtain ⟨hwf, -, -⟩ := h
  exact ⟨.refl hwf, fun _ _ _ _ => rfl⟩

theorem Framed.putLu {s t : State} {inside : Space → Nat → Prop} (h : Framed s inside t) (lu : LaunchUnit) :
    Framed { s with lu := lu } inside { t with lu := lu } := by
  obtain ⟨hwf, ⟨hst, hc, ho, hl⟩, hout, hkeys⟩ := h
  refine ⟨fun sp => ?_, ⟨?_, hc, ho, hl⟩, fun sp a ha => ?_, hkeys⟩
  · cases sp
    exacts [hwf .dev, hwf .host, hwf .peer]
  · calc ({ s with lu := lu } : State).memoryOf { t with lu := lu } = { s.memoryOf t with lu := lu } := rfl
      _ = { s with lu := lu } := by rw [show s.memoryOf t = s from hst]
  · cases sp
    exacts [hout .dev a ha, hout .host a ha, hout .peer a ha]

section
variable {s t : State} {a : Nat}

theorem RecKept.putLu (h : RecKept s a t) (lu : LaunchUnit) : RecKept s a { t with lu := lu } :=
  ⟨h.frame.putLu lu, h.ctl⟩

theorem RecKept.caches {u : State} (h : RecKept s a t) (hc : CachesOnly t u) : RecKept s a u := by
  refine ⟨?_, fun b hb h8 h9 => (congrArg (Nat.testBit · b) (hc.unitNat_eq _ _)).trans (h.ctl b hb h8 h9)⟩
  rw [hc.lu_eq]
  exact hc.framed h.frame

theorem Framed.standing_eq {s0 : State} {inside : Space → Nat → Prop} (h : Framed s0 inside t) (mine : MemReq → Bool) (x : Nat) :
    t.standing mine x = s0.standing mine x := by
  calc t.standing mine x = (s0.memoryOf t).standing mine x := rfl
    _ = s0.standing mine x := by rw [show s0.memoryOf t = s0 from h.same.1]

theorem Framed.bad_eq {s0 : State} {inside : Space → Nat → Prop} (h : Framed s0 inside t) : t.bad = s0.bad := by
  calc t.bad = (s0.memoryOf t).bad := rfl
    _ = s0.bad := by rw [show s0.memoryOf t = s0 from h.same.1]

/-- What a unit reads of a byte that holds what it read before is what it read before. -/
theorem Framed.unitByte_bit {s0 u : State} {inside : Space → Nat → Prop} {x i : Nat} (hu : Framed s0 inside u)
    (ht : Framed s0 inside t) (h : (u.devByte x 0).getLsbD i = (t.unitByte x).getLsbD i) :
    (u.unitByte x).getLsbD i = (t.unitByte x).getLsbD i := by
  have hsame : u.unitByte x = if t.bad.contains (lineOf x) then 0 else (t.standing (·.key == 0) x).getD (u.devByte x 0) := by
    rw [ht.bad_eq, ← hu.bad_eq, ht.standing_eq, ← hu.standing_eq]
    rfl
  rw [hsame]
  split
  · next hbad => rw [State.unitByte, if_pos hbad]
  · next hbad =>
    cases hst : t.standing (·.key == 0) x with
    | some v => rw [State.unitByte, if_neg hbad, hst]; rfl
    | none => exact h

end

/-! ### A record stored -/

section
variable {s t : State} {q : UQueue} (h : RecKept s q.recAddr t) (hfree : RecFree s q.recAddr)
include h hfree

theorem RecKept.storeRec_written : Written { s with lu := t.lu } (InRecord q.recAddr) (q.recAddr + 8)
    ((q.words (t.unitNat (q.recAddr + 8) 8)).flatMap (leBytes 8)) t (t.storeRec q) :=
  h.frame.storeUnit (p := devPhys (q.recAddr + 8)) rfl (by decide) (by decide) (length_flatMap_leBytes _) hfree.devOpen

theorem RecKept.storeRec_byte {j i : Nat} (hj : j < 5) (hi : i < 8) :
    (t.storeRec q).devByte (q.recAddr + 8 + (8 * j + i)) 0
      = (leBytes 8 ((q.words (t.unitNat (q.recAddr + 8) 8)).getD j 0)).getD i 0 := by
  have hw := h.storeRec_written hfree
  have hkey : (t.storeRec q).lineKey (lineOf (q.recAddr + 8 + (8 * j + i))) = 0 :=
    (hw.frame.lineKey_eq _).trans (hfree.lineKey_eq (by omega) (by omega))
  rw [State.devByte, if_pos hkey, hw.bytes, length_flatMap_leBytes, q.length_words, if_pos (by omega), Nat.add_sub_cancel_left]
  exact getD_flatMap_leBytes hj hi

theorem RecKept.storeRec_word {j : Nat} (hj : j < 5) : (t.storeRec q).devNat (q.recAddr + 8 + 8 * j) 8
    = (q.words (t.unitNat (q.recAddr + 8) 8)).getD j 0 % 2 ^ 64 := by
  rw [State.devNat_eq, ← leNat_map_leBytes 8]
  refine congrArg leNat (List.map_congr_left fun i hi => ?_)
  rw [Nat.add_assoc (q.recAddr + 8)]
  exact h.storeRec_byte hfree hj (List.mem_range.1 hi)

theorem RecKept.storeRec_ctl {b : Nat} (hb : b < 64) : ((t.storeRec q).devNat (q.recAddr + 8) 8).testBit b =
    if b = 8 then q.pend else if b = 9 then q.hold else (s.unitNat (q.recAddr + 8) 8).testBit b := by
  have hword : (t.storeRec q).devNat (q.recAddr + 8) 8 = q.qctl (t.unitNat (q.recAddr + 8) 8) % 2 ^ 64 :=
    h.storeRec_word hfree (j := 0) (by decide)
  rw [hword, Nat.testBit_mod_two_pow, decide_eq_true hb, Bool.true_and, q.qctl_testBit hb]
  split
  · rfl
  · split
    · rfl
    · exact h.ctl b hb ‹_› ‹_›

/-- What the units read of QCTL stands, PEND and HOLD apart, when the record is stored. -/
theorem RecKept.storeRec_unitBit {b : Nat} (hb : b < 64) (h8 : b ≠ 8) (h9 : b ≠ 9) :
    ((t.storeRec q).unitByte (q.recAddr + 8 + b / 8)).getLsbD (b % 8)
      = (t.unitByte (q.recAddr + 8 + b / 8)).getLsbD (b % 8) := by
  have hbyte := h.storeRec_byte hfree (j := 0) (i := b / 8) (by decide) (by omega)
  rw [Nat.mul_zero, Nat.zero_add] at hbyte
  refine (h.storeRec_written hfree).frame.unitByte_bit h.frame ?_
  calc ((t.storeRec q).devByte (q.recAddr + 8 + b / 8) 0).getLsbD (b % 8)
      = ((leBytes 8 (q.qctl (t.unitNat (q.recAddr + 8) 8))).getD (b / 8) 0).getLsbD (b % 8) := by rw [hbyte]; rfl
    _ = (q.qctl (t.unitNat (q.recAddr + 8) 8)).testBit b := by
        rw [← leNat_testBit, leNat_leBytes, Nat.testBit_mod_two_pow, decide_eq_true hb, Bool.true_and]
    _ = (t.unitNat (q.recAddr + 8) 8).testBit b := by rw [q.qctl_testBit hb, if_neg h8, if_neg h9]
    _ = (t.unitByte (q.recAddr + 8 + b / 8)).getLsbD (b % 8) := State.unitNat_testBit _ _ (by omega)

theorem RecKept.storeRec : RecKept s q.recAddr (t.storeRec q) := by
  refine ⟨?_, fun b hb h8 h9 => ?_⟩
  · rw [show (t.storeRec q).lu = t.lu from t.storeUnit_lu _ _ _]
    exact (h.storeRec_written hfree).frame
  · rw [← h.ctl b hb h8 h9, State.unitNat_testBit _ _ (by omega), State.unitNat_testBit _ _ (by omega)]
    exact h.storeRec_unitBit hfree hb h8 h9

/-- A record stored while it can be written holds the queue's numbers. -/
theorem RecKept.storeRec_holds (hfits : q.Fits) : RecordHolds s (t.storeRec q) q := by
  obtain ⟨hs, hc, hn, hf⟩ := hfits
  refine ⟨?_, ?_, ?_, ?_, fun b hb => h.storeRec_ctl hfree hb⟩
  · exact (h.storeRec_word hfree (j := 1) (by decide)).trans (Nat.mod_eq_of_lt hs)
  · exact (h.storeRec_word hfree (j := 2) (by decide)).trans (Nat.mod_eq_of_lt hc)
  · exact (h.storeRec_word hfree (j := 3) (by decide)).trans (Nat.mod_eq_of_lt hn)
  · exact (h.storeRec_word hfree (j := 4) (by decide)).trans (Nat.mod_eq_of_lt hf)

end

end Sys2Proof.Machine
end

section
/-! PROOFS. The numbers of a queue and the state of its slot, changed by an event and followed by the queue's record (R233, R235,
R263, R315, R316). -/

namespace Sys2Proof.Machine

/-! ### A machine on the way of an event on a slot and a queue -/

/-- The machine `t` is `s` with slot `slot` as `p`, queue `uq` as `oq`, and the record at `a` written at most; nothing else of
the launch unit has changed. -/
structure QueueStep (s : State) (slot uq a : Nat) (p : QSlot) (oq : Option UQueue) (t : State) : Prop where
  qslot : ∀ n, t.qslot n = if n = slot then p else s.qslot n
  uqueue : ∀ n, t.uqueue n = if n = uq then oq else s.uqueue n
  lu : t.lu = { s.lu with slots := t.lu.slots, uqs := t.lu.uqs }
  kept : RecFree s a → RecKept s a t

/-- The record in memory holds a queue's numbers, where it can be written. -/
def Recorded (s t : State) (q : UQueue) : Prop := RecFree s q.recAddr → q.Fits → RecordHolds s t q

theorem Recorded.putQslot {s t : State} {q : UQueue} (h : Recorded s t q) (p : QSlot) : Recorded s (t.putQslot p) q := h

theorem QueueStep.refl (s : State) (slot uq a : Nat) : QueueStep s slot uq a (s.qslot slot) (s.uqueue uq) s where
  qslot n := by split <;> simp_all
  uqueue n := by split <;> simp_all
  lu := rfl
  kept := RecKept.refl

section
variable {s t : State} {slot uq a : Nat} {p : QSlot} {oq : Option UQueue}

theorem QueueStep.caches {u : State} (h : QueueStep s slot uq a p oq t) (hc : CachesOnly t u) : QueueStep s slot uq a p oq u where
  qslot n := (State.qslot_of_lu hc.lu_eq n).trans (h.qslot n)
  uqueue n := (State.uqueue_of_lu hc.lu_eq n).trans (h.uqueue n)
  lu := by rw [hc.lu_eq]; exact h.lu
  kept hf := (h.kept hf).caches hc

theorem QueueStep.putQslot (h : QueueStep s slot uq a p oq t) {p' : QSlot} (hp : p'.slot = slot) :
    QueueStep s slot uq a p' oq (t.putQslot p') where
  qslot n := by
    rw [State.qslot_putQslot, h.qslot, hp]
    split <;> rfl
  uqueue n := h.uqueue n
  lu := calc
    (t.putQslot p').lu = { t.lu with slots := (t.putQslot p').lu.slots } := rfl
    _ = _ := by rw [h.lu]; rfl
  kept hf := (h.kept hf).putLu _

theorem QueueStep.putUq (h : QueueStep s slot uq a p oq t) {q q0 : UQueue} (h0 : oq = some q0) (hq : q.uq = uq) :
    QueueStep s slot uq a p (some q) (t.putUq uq q) where
  qslot n := h.qslot n
  uqueue n := by
    rw [State.uqueue_putUq hq ((h.uqueue uq).trans ((if_pos rfl).trans h0)), h.uqueue]
    split <;> rfl
  lu := calc
    (t.putUq uq q).lu = { t.lu with uqs := (t.putUq uq q).lu.uqs } := rfl
    _ = _ := by rw [h.lu]; rfl
  kept hf := (h.kept hf).putLu _

theorem QueueStep.uqueue_self (h : QueueStep s slot uq a p oq t) : t.uqueue uq = oq := (h.uqueue uq).trans (if_pos rfl)

theorem QueueStep.qslot_self (h : QueueStep s slot uq a p oq t) : t.qslot slot = p := (h.qslot slot).trans (if_pos rfl)

/-- A queue's numbers changed, with its record. -/
theorem QueueStep.updUq {q0 q : UQueue} (h : QueueStep s slot uq a p (some q0) t) {f : UQueue → UQueue}
    (hf : f (t.numbers q0) = q) (hq : q.uq = uq) (ha : q.recAddr = a) :
    QueueStep s slot uq a p (some q) (t.updUq uq f) ∧ Recorded s (t.updUq uq f) q := by
  subst ha
  rw [State.updUq_eq f h.uqueue_self, hf]
  have hput := h.putUq rfl hq
  have hlu := (t.putUq uq q).storeRec_lu q
  refine ⟨⟨fun n => ?_, fun n => ?_, ?_, fun hfree => ?_⟩, fun hfree hfits => ?_⟩
  · exact (State.qslot_of_lu hlu n).trans (hput.qslot n)
  · exact (State.uqueue_of_lu hlu n).trans (hput.uqueue n)
  · rw [hlu]
    exact hput.lu
  · exact (hput.kept hfree).storeRec hfree
  · exact (hput.kept hfree).storeRec_holds hfree hfits

/-- What an event leaves of its slot, its queue and the queue's record. -/
theorem QueueStep.queueWrites {i : Instr} {q : UQueue} (h : QueueStep s slot uq q.recAddr p (some q) t) (hr : Recorded s t q)
    (hexec : exec i s = .next t) : QueueWrites i s slot uq p q := by
  refine ⟨t, hexec, h.qslot_self, h.uqueue_self, fun n hn => (h.qslot n).trans (if_neg hn),
    fun n hn => (h.uqueue n).trans (if_neg hn), h.lu, fun ho => ?_⟩
  have hframe := (h.kept ho.recFree).frame
  refine ⟨fun sp x hx => (hframe.outside sp x hx).trans ?_, hr ho.recFree ho.fits, hframe.same⟩
  cases sp <;> rfl

/-- What an event that writes no record leaves. -/
theorem queueBecomes_putQslot {i : Instr} {q : UQueue} {p : QSlot} (hp : p.slot = slot) (hq : s.uqueue uq = some q)
    (hexec : exec i s = .next (s.putQslot p)) : QueueBecomes i s slot uq p q := by
  refine ⟨_, hexec, ?_, hq, fun n hn => ?_, fun _ _ => rfl, rfl⟩
  · rw [State.qslot_putQslot, if_pos hp.symm]
  · rw [State.qslot_putQslot, if_neg (hp ▸ hn)]

end

/-! ### Numbers -/

theorem State.numbers_mapped {s : State} {q : UQueue} (h : s.uqMapped q.uq = true) : s.numbers q = q := if_pos h

theorem State.numbers_unmapped {s : State} {q : UQueue} (h : s.uqMapped q.uq = false) : s.numbers q = s.reread q :=
  if_neg (by simp [h])

/-- Reading a record again gives what it gave. -/
theorem State.reread_reread (s : State) (q : UQueue) : s.reread (s.reread q) = s.reread q := by
  unfold State.reread
  simp

/-- A notify that runs beyond the submission number and not beyond the ring. -/
theorem QueueStep.notifyQueue {s t : State} {slot a : Nat} {p : QSlot} {q u : UQueue} {n : Nat}
    (h : QueueStep s slot q.uq a p (some q) t) (hp : p.slot = slot) (hmap : p.mapped = true) (huq : p.uq = q.uq)
    (ha : q.recAddr = a) (hu : u.uq = q.uq) (hssn : u.ssn < n) (hroom : n - u.csn ≤ 2 ^ u.rlog) :
    QueueStep s slot q.uq a { p with badn := false } (some { q with ssn := n }) (t.notifyQueue p u n)
      ∧ Recorded s (t.notifyQueue p u n) { q with ssn := n } := by
  have hput := h.putQslot (p' := { p with badn := false }) hp
  have hmapped : (t.putQslot { p with badn := false }).uqMapped q.uq = true := by
    rw [← huq]
    exact State.uqMapped_putQslot (p := { p with badn := false }) hmap
  rw [State.notifyQueue, if_neg (by omega), if_neg (by omega), hu]
  exact hput.updUq (by rw [State.numbers_mapped hmapped]) rfl ha

theorem State.notifyQueue_beyond {t : State} {p : QSlot} {u : UQueue} {n : Nat} (hssn : u.ssn < n) (hroom : 2 ^ u.rlog < n - u.csn) :
    t.notifyQueue p u n = t.putQslot { p with badn := true } := by
  rw [State.notifyQueue, if_neg (by omega), if_pos hroom]

theorem State.notifyQueue_old {t : State} {p : QSlot} {u : UQueue} {n : Nat} (h : n ≤ u.ssn) : t.notifyQueue p u n = t :=
  if_pos h

/-! ### Mapping (R263) -/

/-- What mapping makes of a slot and of the numbers that the record holds. -/
structure Maps (s : State) (slot : Nat) (m : QSlot) (u : UQueue) (t : State) : Prop where
  idle : u.pend = false → QueueStep s slot u.uq u.recAddr m (some u) t ∧ Recorded s t u
  old : u.pend = true → u.notified ≤ u.ssn →
    QueueStep s slot u.uq u.recAddr m (some { u with pend := false }) t ∧ Recorded s t { u with pend := false }
  fits : u.pend = true → u.ssn < u.notified → u.notified - u.csn ≤ 2 ^ u.rlog →
    QueueStep s slot u.uq u.recAddr { m with badn := false } (some { u with pend := false, ssn := u.notified }) t
      ∧ Recorded s t { u with pend := false, ssn := u.notified }
  beyond : u.pend = true → u.ssn < u.notified → 2 ^ u.rlog < u.notified - u.csn →
    QueueStep s slot u.uq u.recAddr { m with badn := true } (some { u with pend := false }) t ∧ Recorded s t { u with pend := false }

/-- A queue mapped to a slot, with the numbers its record holds; its pending notify is not applied yet. -/
def State.mapNow (t : State) (q0 : UQueue) (slot : Nat) : State :=
  ((t.unitTouch q0.recAddr 64).putQslot { t.qslot slot with mapped := true, uq := q0.uq }).updUq q0.uq fun _ => t.reread q0

/-- The pending notify of a queue taken up. -/
def State.dropPend (t : State) (uq : Nat) : State := t.updUq uq fun u => { u with pend := false }

theorem State.mapQueue_eq {t : State} {slot : Nat} {q0 : UQueue} (h0 : t.uqueue q0.uq = some q0) (hslot : slot < 1024)
    (hp : (t.qslot slot).mapped = false) (hfree : t.uqMapped q0.uq = false) (hheld : t.recHeld q0.recAddr = false)
    (hclean : t.recClean q0.recAddr = true) :
    t.mapQueue q0.uq slot =
      if (t.reread q0).pend then
        ((t.mapNow q0 slot).dropPend q0.uq).notifyQueue (((t.mapNow q0 slot).dropPend q0.uq).qslot slot) (t.reread q0)
          (t.reread q0).notified
      else t.mapNow q0 slot := by
  have hc := t.unitTouch_cachesOnly q0.recAddr 64
  have hslotEq : ({ slot := slot, badn := ((t.unitTouch q0.recAddr 64).qslot slot).badn, mapped := true, uq := q0.uq } : QSlot)
      = { t.qslot slot with mapped := true, uq := q0.uq } := by
    rw [State.qslot_of_lu hc.lu_eq, ← t.qslot_slot slot]
    simp
  unfold State.mapQueue
  rw [h0]
  dsimp only
  rw [if_neg (by simp [hslot, hp, hfree]), if_neg (by simp [hheld, hclean]), hc.reread_eq, hslotEq]
  rfl

theorem QueueStep.mapQueue {s t : State} {slot : Nat} {q0 : UQueue} {p : QSlot}
    (h : QueueStep s slot q0.uq q0.recAddr p (some q0) t) (hslot : slot < 1024) (hp : p.mapped = false) (hps : p.slot = slot)
    (hfree : t.uqMapped q0.uq = false) (hheld : t.recHeld q0.recAddr = false) (hclean : t.recClean q0.recAddr = true) :
    Maps s slot { p with mapped := true, uq := q0.uq } (t.reread q0) (t.mapQueue q0.uq slot) := by
  have hself := h.qslot_self
  have hput := (h.caches (t.unitTouch_cachesOnly q0.recAddr 64)).putQslot (p' := { p with mapped := true, uq := q0.uq }) hps
  have hmapped : ((t.unitTouch q0.recAddr 64).putQslot { p with mapped := true, uq := q0.uq }).uqMapped q0.uq = true :=
    State.uqMapped_putQslot (p := { p with mapped := true, uq := q0.uq }) rfl
  have hnow : (t.mapNow q0 slot).uqMapped q0.uq = true := by
    unfold State.mapNow
    rw [State.uqMapped_of_slots (State.updUq_slots _ _ _), hself]
    exact hmapped
  obtain ⟨h2, hr2⟩ : QueueStep s slot q0.uq q0.recAddr { p with mapped := true, uq := q0.uq } (some (t.reread q0)) (t.mapNow q0 slot)
      ∧ Recorded s (t.mapNow q0 slot) (t.reread q0) := by
    unfold State.mapNow
    rw [hself]
    exact hput.updUq rfl rfl rfl
  obtain ⟨h3, hr3⟩ : QueueStep s slot q0.uq q0.recAddr { p with mapped := true, uq := q0.uq }
      (some { t.reread q0 with pend := false }) ((t.mapNow q0 slot).dropPend q0.uq)
      ∧ Recorded s ((t.mapNow q0 slot).dropPend q0.uq) { t.reread q0 with pend := false } :=
    h2.updUq (by rw [State.numbers_mapped (q := t.reread q0) hnow]) rfl rfl
  rw [State.mapQueue_eq h.uqueue_self hslot (by rw [hself, hp]) hfree hheld hclean, h3.qslot_self]
  refine ⟨fun hpend => ?_, fun hpend hle => ?_, fun hpend hlt hroom => ?_, fun hpend hlt hroom => ?_⟩
  · rw [hpend]
    exact ⟨h2, hr2⟩
  · rw [hpend, if_pos rfl, State.notifyQueue_old hle]
    exact ⟨h3, hr3⟩
  · rw [hpend, if_pos rfl]
    exact QueueStep.notifyQueue (q := { t.reread q0 with pend := false }) h3 hps rfl rfl rfl rfl hlt hroom
  · rw [hpend, if_pos rfl, State.notifyQueue_beyond hlt hroom]
    exact ⟨h3.putQslot hps, hr3.putQslot _⟩

end Sys2Proof.Machine
end

section
/-! PROOFS. Notifies of a queue slot (R235, R263), and events of the outside that wait (R303). -/

namespace Sys2Proof.Machine

/-! ### Events that wait -/

theorem eventWaits_of_orWait {i : Instr} {s : State} {e : Event} {f : State → State}
    (hexec : exec i s = .next (s.orWait e true f)) : EventWaits i s e :=
  ⟨fun he => by rw [hexec, State.orWait_stands f he], fun he => by rw [hexec, State.orWait_held f he]⟩

theorem erase_of_waiting {e : Event} {w1 w2 : List Event} (he : e ∉ w1) : (w1 ++ e :: w2).erase e = w1 ++ w2 := by
  rw [List.erase_append_right _ he, List.erase_cons_head]

/-- An event that nothing holds back is made as if it had not waited. -/
theorem State.orWait_again {s : State} {e : Event} (f : State → State) {w1 w2 : List Event} (hw : s.lu.waiting = w1 ++ e :: w2)
    (he : e ∉ w1 ++ w2) :
    s.orWait e false f = State.orWait { s with lu := { s.lu with waiting := w1 ++ w2 } } e false f := by
  rw [State.orWait_free (s := { s with lu := { s.lu with waiting := w1 ++ w2 } }) f he, State.orWait, if_neg (by decide), hw,
    erase_of_waiting fun h => he (List.mem_append_left _ h)]

/-! ### A notify -/

/-- The event of a notify. -/
def notifyEvent (slot : Nat) (word : Word) : Event := { row := .qnotifyWrite, arg := { slot := slot, word := word } }

/-- A notify of a slot. -/
def IsNotify (slot : Nat) (k : Event) : Prop := k.row = .qnotifyWrite ∧ k.arg.slot = slot

theorem isNotify_notifyEvent (slot : Nat) (word : Word) : IsNotify slot (notifyEvent slot word) := ⟨rfl, rfl⟩

/-- Among the events before a notify stands one of the same slot. -/
def earlierNotify (e : Event) (slot : Nat) (ks : List Event) : Bool :=
  (ks.takeWhile (· != e)).any fun k => k.row == .qnotifyWrite && k.arg.slot == slot

theorem isNotify_iff {slot : Nat} {k : Event} : (k.row == .qnotifyWrite && k.arg.slot == slot) = true ↔ IsNotify slot k := by
  simp [IsNotify]

theorem earlierNotify_of_mem {e k : Event} {slot : Nat} {w1 w2 : List Event} (he : e ∉ w1) (hk : k ∈ w1) (hs : IsNotify slot k) :
    earlierNotify e slot (w1 ++ w2) = true := by
  have hall : w1.takeWhile (· != e) = w1 := List.takeWhile_eq_self_iff.2 fun x hx => by
    simpa using fun h : x = e => he (h ▸ hx)
  rw [earlierNotify, List.takeWhile_append, if_pos (by rw [hall]), List.any_append, Bool.or_eq_true]
  exact .inl (List.any_eq_true.2 ⟨k, hk, isNotify_iff.2 hs⟩)

theorem earlierNotify_eq_false {e : Event} {slot : Nat} {ks : List Event} (h : ∀ k ∈ ks.takeWhile (· != e), ¬IsNotify slot k) :
    earlierNotify e slot ks = false :=
  List.any_eq_false.2 fun k hk => fun ht => h k hk (isNotify_iff.1 ht)

theorem earlierNotify_eq_false_of_forall {e : Event} {slot : Nat} {ks : List Event} (h : ∀ k ∈ ks, ¬IsNotify slot k) :
    earlierNotify e slot ks = false :=
  earlierNotify_eq_false fun k hk => h k ((List.takeWhile_sublist _).subset hk)

theorem earlierNotify_behind {e : Event} {slot : Nat} {w1 w2 : List Event} (h : ∀ k ∈ w1, ¬IsNotify slot k) (he : e ∉ w1) :
    earlierNotify e slot (w1 ++ e :: w2) = false := by
  refine earlierNotify_eq_false fun k hk => h k ?_
  rw [List.takeWhile_append_of_pos fun x hx => by simpa using fun h : x = e => he (h ▸ hx),
    List.takeWhile_cons_of_neg (by simp), List.append_nil] at hk
  exact hk

/-- What a notify does once it is made. -/
def State.notifyNow (q : QSlot) (u : UQueue) (n : Nat) (s : State) : State :=
  if q.mapped then s.notifyQueue q u n
  else
    let t := s.unitTouch u.recAddr 64
    if (t.reread u).ssn < n ∧ (t.reread u).notified < n then t.updUq u.uq fun u => { u with pend := true, notified := n } else t

theorem exec_qnotifyWrite_eq {s : State} {u : UQueue} (hd : s.plat.d3 = false) (hslot : ∃ p ∈ s.lu.slots, p.slot = s.arg.slot)
    (hu : s.uqueue (s.qslot s.arg.slot).uq = some u) :
    exec .qnotifyWrite s = .next (s.orWait (notifyEvent s.arg.slot s.arg.word)
      (earlierNotify (notifyEvent s.arg.slot s.arg.word) s.arg.slot s.lu.waiting
        || !(s.qslot s.arg.slot).mapped && s.recHeld u.recAddr)
      (State.notifyNow (s.qslot s.arg.slot) u s.arg.word.toNat)) := by
  have hany : (s.lu.slots.any fun p => p.slot == s.arg.slot) = true := by simpa using hslot
  change Host.Outcome.next (s.notify s.arg.slot s.arg.word.toNat) = _
  unfold State.notify
  dsimp only
  rw [hd, hany, hu, BitVec.ofNat_toNat, BitVec.setWidth_eq]
  rfl

theorem exec_qnotifyWrite_ignored {s : State} (h : s.plat.d3 = true ∨ ∀ p ∈ s.lu.slots, p.slot ≠ s.arg.slot) :
    exec .qnotifyWrite s = .next s := by
  change Host.Outcome.next (s.notify s.arg.slot s.arg.word.toNat) = _
  unfold State.notify
  dsimp only
  split
  · rfl
  · next hd =>
    have hnone : (s.lu.slots.any fun p => p.slot == s.arg.slot) = false := by simpa [hd] using h
    rw [hnone]
    rfl

section
variable {s : State} {u : UQueue} (hd : s.plat.d3 = false) (hslot : ∃ p ∈ s.lu.slots, p.slot = s.arg.slot)
  (hu : s.uqueue (s.qslot s.arg.slot).uq = some u)
include hd hslot hu

theorem notify_waits (hm : (s.qslot s.arg.slot).mapped = false) (hheld : s.recHeld u.recAddr = true) :
    EventWaits .qnotifyWrite s (notifyEvent s.arg.slot s.arg.word) := by
  refine eventWaits_of_orWait (f := State.notifyNow (s.qslot s.arg.slot) u s.arg.word.toNat) ?_
  rw [exec_qnotifyWrite_eq hd hslot hu, hm, hheld, Bool.not_false, Bool.and_true, Bool.or_true]

theorem notify_queues (hk : ∃ k ∈ s.lu.waiting, IsNotify s.arg.slot k)
    (he : notifyEvent s.arg.slot s.arg.word ∉ s.lu.waiting) :
    exec .qnotifyWrite s =
      .next { s with lu := { s.lu with waiting := s.lu.waiting ++ [notifyEvent s.arg.slot s.arg.word] } } := by
  obtain ⟨k, hk, hs⟩ := hk
  have hear := earlierNotify_of_mem (w2 := []) he hk hs
  rw [List.append_nil] at hear
  rw [exec_qnotifyWrite_eq hd hslot hu, hear, Bool.true_or, State.orWait_held _ he]

theorem notify_stands {w1 w2 : List Event} (hw : s.lu.waiting = w1 ++ notifyEvent s.arg.slot s.arg.word :: w2)
    (he : notifyEvent s.arg.slot s.arg.word ∉ w1) (hk : ∃ k ∈ w1, IsNotify s.arg.slot k) : exec .qnotifyWrite s = .next s := by
  obtain ⟨k, hk, hs⟩ := hk
  rw [exec_qnotifyWrite_eq hd hslot hu, hw, earlierNotify_of_mem he hk hs, Bool.true_or, State.orWait_stands]
  rw [hw]
  exact List.mem_append_right _ List.mem_cons_self

/-- A notify that nothing holds back and that has not waited is made at once. -/
theorem notify_now (hk : ∀ k ∈ s.lu.waiting, ¬IsNotify s.arg.slot k)
    (hfree : (s.qslot s.arg.slot).mapped = true ∨ s.recHeld u.recAddr = false) :
    exec .qnotifyWrite s = .next (State.notifyNow (s.qslot s.arg.slot) u s.arg.word.toNat s) := by
  have hno : notifyEvent s.arg.slot s.arg.word ∉ s.lu.waiting := fun h => hk _ h (isNotify_notifyEvent _ _)
  have hgate : (!(s.qslot s.arg.slot).mapped && s.recHeld u.recAddr) = false := by
    rcases hfree with h | h <;> simp [h]
  rw [exec_qnotifyWrite_eq hd hslot hu, earlierNotify_eq_false_of_forall hk, Bool.false_or, hgate, State.orWait_free _ hno]

theorem notify_again {w1 w2 : List Event} (hw : s.lu.waiting = w1 ++ notifyEvent s.arg.slot s.arg.word :: w2)
    (hk : ∀ k ∈ w1 ++ w2, ¬IsNotify s.arg.slot k)
    (hfree : (s.qslot s.arg.slot).mapped = true ∨ s.recHeld u.recAddr = false) :
    exec .qnotifyWrite s = exec .qnotifyWrite { s with lu := { s.lu with waiting := w1 ++ w2 } } := by
  have hno : notifyEvent s.arg.slot s.arg.word ∉ w1 ++ w2 := fun h => hk _ h (isNotify_notifyEvent _ _)
  have hgate : (!(s.qslot s.arg.slot).mapped && s.recHeld u.recAddr) = false := by
    rcases hfree with h | h <;> simp [h]
  rw [notify_now (s := { s with lu := { s.lu with waiting := w1 ++ w2 } }) hd hslot hu hk hfree,
    exec_qnotifyWrite_eq hd hslot hu, hgate, Bool.or_false, hw,
    earlierNotify_behind (fun k h => hk k (List.mem_append_left _ h)) fun h => hno (List.mem_append_left _ h),
    State.orWait_again _ hw hno, State.orWait_free _ hno]
  rfl

end

/-- A queue and its slot as they stand. -/
theorem QueueStep.start {s : State} {uq slot : Nat} {u : UQueue} (hu : s.uqueue uq = some u) :
    QueueStep s slot uq u.recAddr (s.qslot slot) (some u) s := hu ▸ QueueStep.refl s slot uq u.recAddr

section
variable {s : State} {u : UQueue} {slot n : Nat} (hu : s.uqueue (s.qslot slot).uq = some u)
include hu

theorem notifyNow_mapped_writes {i : Instr} (hm : (s.qslot slot).mapped = true) (hssn : u.ssn < n) (hroom : n - u.csn ≤ 2 ^ u.rlog)
    (hexec : exec i s = .next (State.notifyNow (s.qslot slot) u n s)) :
    QueueWrites i s slot (s.qslot slot).uq { s.qslot slot with badn := false } { u with ssn := n } := by
  have huq := State.uqueue_uq hu
  have hstart := QueueStep.start (slot := slot) hu
  rw [← huq] at hstart ⊢
  rw [State.notifyNow, if_pos hm] at hexec
  obtain ⟨h, hr⟩ := hstart.notifyQueue (u := u) (n := n) (s.qslot_slot slot) hm huq.symm rfl rfl hssn hroom
  exact h.queueWrites (q := { u with ssn := n }) hr hexec

theorem notifyNow_unmapped_writes {i : Instr} (hm : (s.qslot slot).mapped = false)
    (hfree : ∀ p ∈ s.lu.slots, p.mapped = true → p.uq ≠ (s.qslot slot).uq) (hssn : (s.reread u).ssn < n)
    (hnot : (s.reread u).notified < n) (hexec : exec i s = .next (State.notifyNow (s.qslot slot) u n s)) :
    QueueWrites i s slot (s.qslot slot).uq (s.qslot slot) { s.reread u with pend := true, notified := n } := by
  have huq := State.uqueue_uq hu
  have hc := s.unitTouch_cachesOnly u.recAddr 64
  have hstart := (QueueStep.start (slot := slot) hu).caches hc
  have hunm : (s.unitTouch u.recAddr 64).uqMapped u.uq = false := by
    rw [State.uqMapped_of_slots (congrArg LaunchUnit.slots hc.lu_eq), huq]
    exact State.uqMapped_eq_false hfree
  rw [State.notifyNow, if_neg (by simp [hm])] at hexec
  dsimp only at hexec
  rw [hc.reread_eq, if_pos ⟨hssn, hnot⟩] at hexec
  rw [← huq] at hstart ⊢
  obtain ⟨h, hr⟩ := hstart.updUq (f := fun u => { u with pend := true, notified := n })
    (q := { s.reread u with pend := true, notified := n })
    (by rw [State.numbers_unmapped hunm, hc.reread_eq]) rfl rfl
  exact h.queueWrites (q := { s.reread u with pend := true, notified := n }) hr hexec

end

theorem notifyNow_unmapped_old {s : State} {q : QSlot} {u : UQueue} {n : Nat} (hm : q.mapped = false)
    (h : n ≤ (s.reread u).ssn ∨ n ≤ (s.reread u).notified) : CachesOnly s (State.notifyNow q u n s) := by
  have hc := s.unitTouch_cachesOnly u.recAddr 64
  rw [State.notifyNow, if_neg (by simp [hm])]
  dsimp only
  rw [hc.reread_eq, if_neg (by omega)]
  exact hc

end Sys2Proof.Machine
end

section
/-! PROOFS. Mapping and unmapping of user queues, and the scan for pending ones (R235, R263, R315). -/

namespace Sys2Proof.Machine

/-! ### What accesses leave of a record -/

theorem CachesOnly.recHeld_eq {s t : State} (h : CachesOnly s t) (a : Nat) : t.recHeld a = s.recHeld a := by
  calc t.recHeld a = (s.trafficOf t).recHeld a := rfl
    _ = s.recHeld a := by rw [h.1]

theorem CachesOnly.recClean_eq {s t : State} (h : CachesOnly s t) (a : Nat) : t.recClean a = s.recClean a := by
  calc t.recClean a = (s.trafficOf t).recClean a := rfl
    _ = s.recClean a := by rw [h.1]

theorem CachesOnly.uqMapped_eq {s t : State} (h : CachesOnly s t) (uq : Nat) : t.uqMapped uq = s.uqMapped uq :=
  State.uqMapped_of_slots (congrArg LaunchUnit.slots h.lu_eq) uq

/-- A record reads correctly and its reserved bits are zero. -/
theorem State.recClean_iff {s : State} {a : Nat} : s.recClean a = true ↔
    lineOf a ∉ s.bad ∧ s.unitNat (a + 8) 8 / 2 ^ 5 % 2 ^ 3 = 0 ∧ s.unitNat (a + 8) 8 / 2 ^ 10 % 2 ^ 6 = 0
      ∧ s.unitNat (a + 8) 8 / 2 ^ 28 = 0 ∧ s.unitNat (a + 0x30) 16 = 0 := by
  have hlt : s.unitNat (a + 8) 8 / 2 ^ 28 < 2 ^ 36 := Nat.div_lt_of_lt_mul (s.unitNat_lt (a + 8) 8)
  unfold State.recClean fld
  dsimp only
  rw [Nat.mod_eq_of_lt hlt]
  simp [and_assoc]

/-! ### Unmapping -/

theorem exec_queueUnmap_mapped {s : State} {u : UQueue} (hu : s.uqueue s.arg.uq = some u) (hm : (s.qslot s.arg.slot).mapped = true) :
    QueueBecomes .queueUnmap s s.arg.slot s.arg.uq { s.qslot s.arg.slot with mapped := false } u := by
  refine queueBecomes_putQslot (s.qslot_slot s.arg.slot) hu ?_
  change Host.Outcome.next (s.unmapSlot s.arg.slot) = _
  rw [State.unmapSlot, if_pos hm]

theorem exec_queueUnmap_unmapped {s : State} (hm : (s.qslot s.arg.slot).mapped = false) : exec .queueUnmap s = .next s := by
  change Host.Outcome.next (s.unmapSlot s.arg.slot) = _
  rw [State.unmapSlot, if_neg (by simp [hm])]

/-! ### Mapping -/

/-- The queue that a mapping is for: the one known, or a new one whose record stands where the scheduler says. -/
def MapsTo (s : State) (u0 : UQueue) : Prop :=
  s.uqueue s.arg.uq = some u0 ∨ (s.uqueue s.arg.uq = none ∧ u0 =
    { uq := s.arg.uq, recAddr := s.arg.addr, ring := 0, space := s.arg.space, rlog := 0, pend := false, hold := false
      ctx := 0, ssn := 0, csn := 0, notified := 0, fsn := 0, doneAbove := [], held := [] })

theorem MapsTo.uq_eq {s : State} {u0 : UQueue} (h : MapsTo s u0) : u0.uq = s.arg.uq := by
  rcases h with h | ⟨-, rfl⟩
  · exact State.uqueue_uq h
  · rfl

/-- What a mapping does once it is made. -/
def State.mapNowFor (a : Arg) (s : State) : State := (s.knownQueue a).mapQueue a.uq a.slot

theorem exec_queueMap_eq {s : State} {u0 : UQueue} (h : MapsTo s u0) :
    exec .queueMap s = .next (s.orWait { row := .queueMap, arg := s.arg } (s.recHeld u0.recAddr) (State.mapNowFor s.arg)) := by
  change Host.Outcome.next (s.queueMap s.arg) = _
  unfold State.queueMap
  rcases h with h | ⟨h, rfl⟩ <;> rw [h] <;> rfl

theorem queueMap_waits {s : State} {u0 : UQueue} (h : MapsTo s u0) (hheld : s.recHeld u0.recAddr = true) :
    EventWaits .queueMap s { row := .queueMap, arg := s.arg } := by
  refine eventWaits_of_orWait (f := State.mapNowFor s.arg) ?_
  rw [exec_queueMap_eq h, hheld]

theorem queueMap_again {s : State} {u0 : UQueue} (h : MapsTo s u0) (hheld : s.recHeld u0.recAddr = false) :
    EventAgain .queueMap s { row := .queueMap, arg := s.arg } := by
  intro w1 w2 hw he
  rw [exec_queueMap_eq h, hheld, State.orWait_again _ hw he,
    exec_queueMap_eq (s := { s with lu := { s.lu with waiting := w1 ++ w2 } }) (u0 := u0) h]
  congr 2
  exact hheld.symm

theorem queueMap_now {s : State} {u0 : UQueue} (h : MapsTo s u0) (hheld : s.recHeld u0.recAddr = false)
    (he : ({ row := .queueMap, arg := s.arg } : Event) ∉ s.lu.waiting) :
    exec .queueMap s = .next ((s.knownQueue s.arg).mapQueue s.arg.uq s.arg.slot) := by
  rw [exec_queueMap_eq h, hheld, State.orWait_free _ he]
  rfl

/-- A record that is rejected maps nothing. -/
theorem mapQueue_rejected {s : State} {u0 : UQueue} (h : MapsTo s u0) (hclean : s.recClean u0.recAddr = false) :
    (s.knownQueue s.arg).mapQueue s.arg.uq s.arg.slot = s := by
  rcases h with h | ⟨h, rfl⟩
  · have hknown : s.knownQueue s.arg = s := if_pos (by simp [h])
    rw [hknown, State.mapQueue, h]
    dsimp only
    rw [hclean]
    simp
  · have hknown : s.knownQueue s.arg = s := if_pos (by simp [hclean])
    rw [hknown, State.mapQueue, h]

/-- A queue put behind the others. -/
theorem QueueStep.append {s t : State} {slot uq a : Nat} {p : QSlot} (h : QueueStep s slot uq a p none t) {q : UQueue}
    (hq : q.uq = uq) : QueueStep s slot uq a p (some q) { t with lu := { t.lu with uqs := t.lu.uqs ++ [q] } } where
  qslot n := h.qslot n
  uqueue n := by
    have hn := h.uqueue n
    unfold State.uqueue at hn ⊢
    dsimp only
    rw [List.find?_append, hn]
    split
    · next e => rw [e, Option.none_or, List.find?_cons_of_pos (by simp [hq])]
    · next e => rw [List.find?_cons_of_neg (by simpa [hq] using Ne.symm e), List.find?_nil, Option.or_none]
  lu := by rw [h.lu]
  kept hf := (h.kept hf).putLu _

/-- The queue of a mapping once it is known: its numbers are those of its record. -/
theorem knownQueue_step {s : State} {u0 : UQueue} (h : MapsTo s u0) (hheld : s.recHeld u0.recAddr = false)
    (hclean : s.recClean u0.recAddr = true) (slot : Nat) :
    ∃ q1, QueueStep s slot s.arg.uq u0.recAddr (s.qslot slot) (some q1) (s.knownQueue s.arg) ∧ q1.uq = s.arg.uq
      ∧ q1.recAddr = u0.recAddr ∧ (s.knownQueue s.arg).reread q1 = s.reread u0
      ∧ (∀ uq, (s.knownQueue s.arg).uqMapped uq = s.uqMapped uq)
      ∧ (s.knownQueue s.arg).recHeld u0.recAddr = false ∧ (s.knownQueue s.arg).recClean u0.recAddr = true := by
  rcases h with h | ⟨h, rfl⟩
  · have hknown : s.knownQueue s.arg = s := if_pos (by simp [h])
    rw [hknown]
    exact ⟨u0, QueueStep.start h, State.uqueue_uq h, rfl, rfl, fun _ => rfl, hheld, hclean⟩
  · have hc := s.unitTouch_cachesOnly s.arg.addr 64
    have hstart := (h ▸ QueueStep.refl s slot s.arg.uq s.arg.addr).caches hc
    unfold State.knownQueue
    dsimp only at hheld hclean
    rw [if_neg (by simp [h, hheld, hclean])]
    refine ⟨_, hstart.append rfl, rfl, rfl, ?_, fun uq => hc.uqMapped_eq uq, (hc.recHeld_eq _).trans hheld,
      (hc.recClean_eq _).trans hclean⟩
    exact ((s.unitTouch s.arg.addr 64).reread_reread _).trans (hc.reread_eq _)

/-- What a mapping does to a clean record that nothing holds back. -/
theorem queueMap_maps {s : State} {u0 : UQueue} (h : MapsTo s u0) (hslot : s.arg.slot < 1024)
    (hm : (s.qslot s.arg.slot).mapped = false) (hfree : ∀ p ∈ s.lu.slots, p.mapped = true → p.uq ≠ s.arg.uq)
    (hheld : s.recHeld u0.recAddr = false) (hclean : s.recClean u0.recAddr = true) :
    Maps s s.arg.slot { s.qslot s.arg.slot with mapped := true, uq := s.arg.uq } (s.reread u0)
      ((s.knownQueue s.arg).mapQueue s.arg.uq s.arg.slot) := by
  obtain ⟨q1, hstep, huq, hrec, hread, hmapped, hheld1, hclean1⟩ := knownQueue_step h hheld hclean s.arg.slot
  rw [← huq, ← hrec] at hstep
  rw [← hread, ← huq]
  exact hstep.mapQueue hslot hm (s.qslot_slot _) ((hmapped _).trans (huq ▸ State.uqMapped_eq_false hfree)) (hrec ▸ hheld1)
    (hrec ▸ hclean1)

/-- What an event that maps leaves. -/
theorem Maps.queueWrites {s t : State} {slot : Nat} {m : QSlot} {u : UQueue} {i : Instr} {uq : Nat} (h : Maps s slot m u t) (huq : u.uq = uq)
    (hexec : exec i s = .next t) :
    (u.pend = false → QueueWrites i s slot uq m u)
    ∧ (u.pend = true → u.notified ≤ u.ssn → QueueWrites i s slot uq m { u with pend := false })
    ∧ (u.pend = true → u.ssn < u.notified → u.notified - u.csn ≤ 2 ^ u.rlog →
        QueueWrites i s slot uq { m with badn := false } { u with pend := false, ssn := u.notified })
    ∧ (u.pend = true → u.ssn < u.notified → 2 ^ u.rlog < u.notified - u.csn →
        QueueWrites i s slot uq { m with badn := true } { u with pend := false }) := by
  subst huq
  refine ⟨fun hp => ?_, fun hp hle => ?_, fun hp hlt hr => ?_, fun hp hlt hr => ?_⟩
  · obtain ⟨hs, hrec⟩ := h.idle hp
    exact hs.queueWrites hrec hexec
  · obtain ⟨hs, hrec⟩ := h.old hp hle
    exact QueueStep.queueWrites (q := { u with pend := false }) hs hrec hexec
  · obtain ⟨hs, hrec⟩ := h.fits hp hlt hr
    exact QueueStep.queueWrites (q := { u with pend := false, ssn := u.notified }) hs hrec hexec
  · obtain ⟨hs, hrec⟩ := h.beyond hp hlt hr
    exact QueueStep.queueWrites (q := { u with pend := false }) hs hrec hexec

/-! ### The scan -/

/-- Every record of an unmapped queue can be read. -/
def ScanFree (s : State) : Prop := ∀ u ∈ s.lu.uqs, s.uqMapped u.uq = true ∨ s.recHeld u.recAddr = false

/-- A scan passes a queue: it is mapped, nothing is pending in its record, or the record is rejected. -/
def ScanPassed (s : State) (u : UQueue) : Prop :=
  s.uqMapped u.uq = true ∨ (s.reread u).pend = false ∨ s.recClean u.recAddr = false

/-- A queue that a scan may map. -/
def State.scanned (s : State) (q : UQueue) : Bool := s.recClean q.recAddr && (s.reread q).pend && !(s.uqMapped q.uq)

/-- What a scan asks of the copies. -/
def State.scanTouch (s : State) : State :=
  s.lu.uqs.foldl (fun s q => if s.uqMapped q.uq then s else s.unitTouch q.recAddr 64) s

theorem State.scanTouch_cachesOnly (s : State) : CachesOnly s s.scanTouch :=
  CachesOnly.foldl (fun s q => by
    split
    · exact .refl s
    · exact s.unitTouch_cachesOnly _ _) _ s

theorem State.scanned_eq_false {s : State} {q : UQueue} (h : ScanPassed s q) : s.scanned q = false := by
  rcases h with h | h | h <;> simp [State.scanned, h]

theorem CachesOnly.scanned_eq {s t : State} (h : CachesOnly s t) : t.scanned = s.scanned := by
  funext q
  rw [State.scanned, h.recClean_eq, h.reread_eq, h.uqMapped_eq]
  rfl

/-- What a scan does once it is made: it maps the lowest-numbered of some queues. -/
def State.scanNow (s : State) : State :=
  match sortBy (fun a b : UQueue => decide (a.uq < b.uq)) (s.scanTouch.lu.uqs.filter s.scanTouch.scanned),
    (List.range 1024).find? fun n => !((s.scanTouch.qslot n).mapped) with
  | q :: _, some n => s.scanTouch.mapQueue q.uq n
  | _, _ => s.scanTouch

theorem exec_pendScan_eq (s : State) :
    exec .pendScan s = .next (s.orWait { row := .pendScan, arg := {} }
      (s.lu.uqs.any fun q => !(s.uqMapped q.uq) && s.recHeld q.recAddr) State.scanNow) := by
  change Host.Outcome.next s.pendScan = _
  unfold State.pendScan
  congr 2

theorem scanHeld_eq_false {s : State} (h : ScanFree s) :
    (s.lu.uqs.any fun q => !(s.uqMapped q.uq) && s.recHeld q.recAddr) = false :=
  List.any_eq_false.2 fun u hu => by rcases h u hu with h | h <;> simp [h]

theorem pendScan_waits {s : State} (h : ¬ScanFree s) : EventWaits .pendScan s { row := .pendScan, arg := {} } := by
  have hheld : (s.lu.uqs.any fun q => !(s.uqMapped q.uq) && s.recHeld q.recAddr) = true := by
    unfold ScanFree at h
    push Not at h
    obtain ⟨u, hu, hm, hr⟩ := h
    exact List.any_eq_true.2 ⟨u, hu, by simpa [hr] using hm⟩
  refine eventWaits_of_orWait (f := State.scanNow) ?_
  rw [exec_pendScan_eq, hheld]

theorem pendScan_again {s : State} (h : ScanFree s) : EventAgain .pendScan s { row := .pendScan, arg := {} } := by
  intro w1 w2 hw he
  rw [exec_pendScan_eq, scanHeld_eq_false h, State.orWait_again _ hw he, exec_pendScan_eq]
  congr 2
  exact (scanHeld_eq_false h).symm

theorem pendScan_now {s : State} (h : ScanFree s) (he : ({ row := .pendScan, arg := {} } : Event) ∉ s.lu.waiting) :
    exec .pendScan s = .next s.scanNow := by
  rw [exec_pendScan_eq, scanHeld_eq_false h, State.orWait_free _ he]

/-- A scan that passes every queue maps none. -/
theorem scanNow_passed {s : State} (h : ∀ u ∈ s.lu.uqs, ScanPassed s u) : s.scanNow = s.scanTouch := by
  have hc := s.scanTouch_cachesOnly
  have hnone : s.scanTouch.lu.uqs.filter s.scanTouch.scanned = [] := by
    rw [hc.lu_eq, hc.scanned_eq, List.filter_eq_nil_iff]
    intro u hu
    simp [State.scanned_eq_false (h u hu)]
  unfold State.scanNow
  rw [hnone]
  rfl

/-- A scan that passes every queue but the last maps that one to the lowest slot without a queue. -/
theorem scanNow_last {s : State} {us : List UQueue} {u : UQueue} {k : Nat} (hus : s.lu.uqs = us ++ [u])
    (hpassed : ∀ x ∈ us, ScanPassed s x) (hu : s.scanned u = true) (hk : k < 1024) (hm : (s.qslot k).mapped = false)
    (hlow : ∀ j, j < k → (s.qslot j).mapped = true) : s.scanNow = s.scanTouch.mapQueue u.uq k := by
  have hc := s.scanTouch_cachesOnly
  have hone : s.scanTouch.lu.uqs.filter s.scanTouch.scanned = [u] := by
    rw [hc.lu_eq, hc.scanned_eq, hus, List.filter_append, List.filter_eq_nil_iff.2 fun x hx => by
      simp [State.scanned_eq_false (hpassed x hx)]]
    simp [hu]
  have hfind : (List.range 1024).find? (fun n => !((s.scanTouch.qslot n).mapped)) = some k := by
    rw [List.find?_range_eq_some]
    refine ⟨?_, List.mem_range.2 hk, fun j hj => ?_⟩
    · rw [State.qslot_of_lu hc.lu_eq, hm]
      rfl
    · rw [State.qslot_of_lu hc.lu_eq, hlow j hj]
      rfl
  unfold State.scanNow
  rw [hone, hfind]
  rfl

theorem pendScan_writes {s : State} {us : List UQueue} {u : UQueue} {k : Nat} (hfree : ScanFree s)
    (he : ({ row := .pendScan, arg := {} } : Event) ∉ s.lu.waiting) (hus : s.lu.uqs = us ++ [u])
    (hpassed : ∀ x ∈ us, x.uq ≠ u.uq ∧ ScanPassed s x) (hpend : (s.reread u).pend = true) (hclean : s.recClean u.recAddr = true)
    (hk : k < 1024) (hm : (s.qslot k).mapped = false) (hlow : ∀ j, j < k → (s.qslot j).mapped = true)
    (hnone : ∀ p ∈ s.lu.slots, p.mapped = true → p.uq ≠ u.uq) (hlt : (s.reread u).ssn < (s.reread u).notified)
    (hroom : (s.reread u).notified - (s.reread u).csn ≤ 2 ^ (s.reread u).rlog) :
    QueueWrites .pendScan s k u.uq { s.qslot k with mapped := true, uq := u.uq, badn := false }
      { s.reread u with pend := false, ssn := (s.reread u).notified } := by
  have hc := s.scanTouch_cachesOnly
  have hunm : s.uqMapped u.uq = false := State.uqMapped_eq_false hnone
  have hheld : s.recHeld u.recAddr = false :=
    (hfree u (hus ▸ List.mem_append_right _ List.mem_cons_self)).resolve_left (by simp [hunm])
  have hfound : s.uqueue u.uq = some u := by
    unfold State.uqueue
    rw [hus, List.find?_append, List.find?_eq_none.2 fun x hx => by simpa using (hpassed x hx).1]
    simp
  have hmaps := ((QueueStep.start (slot := k) hfound).caches hc).mapQueue hk hm (s.qslot_slot k)
    ((hc.uqMapped_eq _).trans hunm) ((hc.recHeld_eq _).trans hheld) ((hc.recClean_eq _).trans hclean)
  have hexec := pendScan_now hfree he
  rw [scanNow_last hus (fun x hx => (hpassed x hx).2) (by simp [State.scanned, hclean, hpend, hunm]) hk hm hlow] at hexec
  rw [hc.reread_eq] at hmaps
  obtain ⟨-, -, hfits, -⟩ := hmaps.queueWrites rfl hexec
  exact hfits hpend hlt hroom

end Sys2Proof.Machine
end

section
/-! PROOFS. Completions that are kept, and the fetch of the next notified entry (R235, R290, R303, R316). -/

namespace Sys2Proof.Machine

/-! ### Completions (R235, R318) -/

theorem State.recStalls_eq_false {s : State} {a : Nat} :
    s.recStalls a = false ↔ s.recHeld a = false ∧ s.writeGate (pageOf a) ≠ .stall := by
  simp [State.recStalls]

theorem State.canComplete_iff {s : State} {u : UQueue} {seq : Nat} :
    s.canComplete u seq = true ↔ s.recHeld u.recAddr = false ∧ s.writeGate (pageOf u.recAddr) ≠ .stall
      ∧ (u.space = .host → s.hc.present = true)
      ∧ (u.space = .dev → s.held (u.ring + 32 * (seq % 2 ^ u.rlog)) false = false
        ∧ s.writeGate (pageOf (u.ring + 32 * (seq % 2 ^ u.rlog))) ≠ .stall) := by
  unfold State.canComplete UQueue.entryAddr
  rw [Bool.and_eq_true, Bool.not_eq_true', State.recStalls_eq_false, and_assoc]
  cases u.space <;> simp

/-- A completion that cannot be written is kept. -/
theorem State.completeEntry_kept {s : State} {u : UQueue} {seq : Nat} (code cls : Nat) (r : Word)
    (hu : s.uqueue u.uq = some u) (hc : s.canComplete u seq = false) :
    s.completeEntry u.uq seq code cls r = { s with lu := { s.lu with
      entries := s.lu.entries.filter fun e => !(e.uq == u.uq && e.seq == seq)
      uqs := s.lu.uqs.map fun k => if k.uq = u.uq then { k with held := k.held ++ [(seq, code + 256 * cls, r)] } else k } } := by
  have hput : ∀ t : State, t.uqueue u.uq = some u → t.canComplete u seq = false →
      t.putCompletion u.uq seq (code + 256 * cls) r = t.keepCompletion u.uq seq (code + 256 * cls) r := by
    intro t ht htc
    unfold State.putCompletion
    rw [ht]
    dsimp only
    rw [htc]
    rfl
  exact hput _ hu hc

theorem UQueue.advance_held (q : UQueue) (n : Nat) : (q.advance n).held = q.held ∧ (q.advance n).uq = q.uq := by
  induction n generalizing q with
  | zero => exact ⟨rfl, rfl⟩
  | succ n ih =>
    rw [UQueue.advance]
    split
    · exact ih _
    · exact ⟨rfl, rfl⟩

theorem State.numbers_held (s : State) (q : UQueue) : (s.numbers q).held = q.held ∧ (s.numbers q).uq = q.uq := by
  unfold State.numbers
  split <;> exact ⟨rfl, rfl⟩

theorem State.uqueue_updUq {s : State} {uq : Nat} {q : UQueue} {f : UQueue → UQueue} (hq : s.uqueue uq = some q)
    (hf : (f (s.numbers q)).uq = uq) : (s.updUq uq f).uqueue uq = some (f (s.numbers q)) := by
  rw [State.updUq_eq f hq, State.uqueue_of_lu (State.storeRec_lu _ _), State.uqueue_putUq hf hq, if_pos rfl]

theorem State.storeUnit_uqueue (s : State) (lid : Nat) (ps : List (Phys × Nat)) (bs : List Byte) (n : Nat) :
    (s.storeUnit lid ps bs).uqueue n = s.uqueue n := State.uqueue_of_lu (s.storeUnit_lu lid ps bs) n

theorem State.writeCompletion_arg (s : State) (u : UQueue) (seq st : Nat) (r : Word) :
    (s.writeCompletion u seq st r).arg = s.arg := by
  rw [State.writeCompletion, State.updUq_arg, State.storeUnit_arg, State.storeUnit_arg]

/-- A completion written leaves a queue that kept none without any. -/
theorem State.writeCompletion_held {s : State} {u : UQueue} {seq st : Nat} {r : Word} {uq : Nat} (hu : s.uqueue uq = some u)
    (hheld : u.held = []) : ∃ v, (s.writeCompletion u seq st r).uqueue uq = some v ∧ v.held = [] := by
  obtain rfl := State.uqueue_uq hu
  unfold State.writeCompletion
  dsimp only
  generalize ht : (s.storeUnit 0 [(ringPhys u (u.entryAddr seq + 0x18), 8)] (leBytes 8 r.toNat)).storeUnit 0
    [(ringPhys u (u.entryAddr seq + 0x14), 4)] (leBytes 4 st) = t
  have htu : t.uqueue u.uq = some u := by rw [← ht, State.storeUnit_uqueue, State.storeUnit_uqueue, hu]
  obtain ⟨hn, hnuq⟩ := t.numbers_held u
  have hadv := UQueue.advance_held { t.numbers u with doneAbove := (t.numbers u).doneAbove ++ [seq] }
    ((t.numbers u).doneAbove.length + 1)
  exact ⟨_, State.uqueue_updUq htu (hadv.2.trans hnuq), (hadv.1.trans hn).trans hheld⟩

theorem State.completeHeld_none {s : State} {uq : Nat} {u : UQueue} (hu : s.uqueue uq = some u)
    (h : ∀ k ∈ u.held, s.canComplete u k.1 = false) : s.completeHeld uq = s := by
  have hany : (u.held.any fun k => s.canComplete u k.1) = false := List.any_eq_false.2 fun k hk => by simp [h k hk]
  unfold State.completeHeld
  rw [hu]
  dsimp only
  rw [hany]
  rfl

/-- A queue whose completions are being written. -/
def State.takeHeld (s : State) (uq : Nat) : State :=
  { s with lu := { s.lu with uqs := s.lu.uqs.map fun k : UQueue => if k.uq = uq then { k with held := [] } else k } }

theorem State.uqueue_takeHeld {s : State} {uq : Nat} {u : UQueue} (hu : s.uqueue uq = some u) :
    (s.takeHeld uq).uqueue uq = some { u with held := [] } := by
  have hkey : ((fun r : UQueue => r.uq == uq) ∘ fun k : UQueue => if k.uq = uq then { k with held := [] } else k)
      = fun r => r.uq == uq := by
    funext r
    by_cases hr : r.uq = uq <;> simp [hr]
  change (s.lu.uqs.map _).find? _ = _
  rw [List.find?_map, hkey, show s.lu.uqs.find? (fun r => r.uq == uq) = some u from hu, Option.map_some,
    if_pos (State.uqueue_uq hu)]

theorem State.completeHeld_one {s : State} {uq seq st : Nat} {u : UQueue} {r : Word} (hu : s.uqueue uq = some u)
    (hheld : u.held = [(seq, st, r)]) (hc : s.canComplete u seq = true) :
    s.completeHeld uq = (s.takeHeld uq).writeCompletion { u with held := [] } seq st r := by
  have hany : (u.held.any fun k => s.canComplete u k.1) = true := by simp [hheld, hc]
  have hput : ∀ t : State, t.uqueue uq = some { u with held := [] } → t.canComplete { u with held := [] } seq = true →
      t.putCompletion uq seq st r = t.writeCompletion { u with held := [] } seq st r := by
    intro t ht htc
    unfold State.putCompletion
    rw [ht]
    dsimp only
    rw [htc]
    rfl
  unfold State.completeHeld
  rw [hu]
  dsimp only
  rw [hany, if_pos rfl, hheld]
  exact hput _ (State.uqueue_takeHeld hu) hc

/-! ### The fetch -/

/-- The place of the next entry of a queue. -/
def UQueue.nextPlace (u : UQueue) : Phys := ringPhys u (u.entryAddr (u.fsn + 1))

/-- What a fetch reads is held back, or the record that FSN goes to. -/
def FetchWaits (s : State) (u : UQueue) : Prop :=
  (u.space = .dev ∧ s.held u.nextPlace.addr false = true) ∨ s.held (s.ctxAddr u.ctx) false = true
    ∨ s.recHeld u.recAddr = true ∨ s.writeGate (pageOf u.recAddr) = .stall

/-- What a fetch asks of the copies, with FSN moved on. -/
def State.fetchTouch (s : State) (uq : Nat) (u : UQueue) : State :=
  ((s.l2Touch (u.nextPlace, 32) false).unitTouch (s.ctxAddr u.ctx) 64).updUq uq fun k => { k with fsn := u.fsn + 1 }

/-- The entry that a fetch of some bytes makes. -/
def fetchedEntry (uq seq : Nat) (bs : List Byte) : QEntry :=
  { uq := uq, seq := seq, typ := fld (rb bs 0x10 4) 0 4, order := flag (rb bs 0x10 4) 4, addr := BitVec.ofNat 64 (rb bs 8 8)
    lid := none }

section
variable {s : State} {uq : Nat} {u : UQueue} (hu : s.uqueue uq = some u) (hk : ∀ k ∈ u.held, s.canComplete u k.1 = false)
include hu hk

theorem State.fetchEntry_idle (h : s.fetching u = false ∨ u.ssn ≤ u.fsn) : s.fetchEntry uq = s := by
  unfold State.fetchEntry
  rw [State.completeHeld_none hu hk]
  dsimp only
  rw [hu]
  dsimp only
  rw [if_pos (by rcases h with h | h <;> simp [h])]

theorem State.fetchEntry_waits (h : FetchWaits s u) : s.fetchEntry uq = s := by
  have hheld : u.space = .dev ∧ s.held u.nextPlace.addr false ∨ s.ctxHeld u.ctx ∨ s.recStalls u.recAddr := by
    rcases h with h | h | h | h
    · exact .inl h
    · exact .inr (.inl h)
    · exact .inr (.inr (by simp [State.recStalls, h]))
    · exact .inr (.inr (by simp [State.recStalls, h]))
  unfold State.fetchEntry
  rw [State.completeHeld_none hu hk]
  dsimp only
  rw [hu]
  dsimp only
  split
  · rfl
  · exact if_pos hheld

theorem State.fetchEntry_fetches (hf : s.fetching u = true) (hn : u.fsn < u.ssn) (h : ¬FetchWaits s u) :
    s.fetchEntry uq =
      if !(s.badPiece (u.nextPlace, 32)) && entryOk (s.readPhys u.nextPlace 32) (u.fsn + 1) && s.ctxValid u.ctx then
        { s.fetchTouch uq u with lu := { (s.fetchTouch uq u).lu with
          entries := (s.fetchTouch uq u).lu.entries ++ [fetchedEntry uq (u.fsn + 1) (s.readPhys u.nextPlace 32)] } }
      else (s.fetchTouch uq u).completeEntry uq (u.fsn + 1) lsRECORD 0 0 := by
  have hheld : ¬(u.space = .dev ∧ s.held u.nextPlace.addr false ∨ s.ctxHeld u.ctx ∨ s.recStalls u.recAddr) := by
    rintro (hp | hp | hp)
    · exact h (.inl hp)
    · exact h (.inr (.inl hp))
    · rcases Bool.or_eq_true_iff.1 hp with hp | hp
      · exact h (.inr (.inr (.inl hp)))
      · exact h (.inr (.inr (.inr (by simpa using hp))))
  unfold State.fetchEntry
  rw [State.completeHeld_none hu hk]
  dsimp only
  rw [hu]
  dsimp only
  rw [if_neg (by simp [hf]; omega)]
  exact if_neg hheld

end

theorem State.fetchTouch_entries (s : State) (uq : Nat) (u : UQueue) : (s.fetchTouch uq u).lu.entries = s.lu.entries := by
  have hc := (s.l2Touch_cachesOnly (u.nextPlace, 32) false).trans (State.unitTouch_cachesOnly _ (s.ctxAddr u.ctx) 64)
  exact (State.updUq_entries _ _ _).trans (congrArg LaunchUnit.entries hc.lu_eq)

/-- A completion written before a fetch, as the fetch itself would write it. -/
theorem State.fetchEntry_completes {s : State} {uq seq st : Nat} {u : UQueue} {r : Word} (hu : s.uqueue uq = some u)
    (hheld : u.held = [(seq, st, r)]) (hc : s.canComplete u seq = true) :
    s.fetchEntry uq = ((s.takeHeld uq).writeCompletion { u with held := [] } seq st r).fetchEntry uq := by
  obtain ⟨v, hv, hvh⟩ := State.writeCompletion_held (seq := seq) (st := st) (r := r) (State.uqueue_takeHeld hu) rfl
  have hnone := State.completeHeld_none hv fun k hk => absurd (hvh ▸ hk) List.not_mem_nil
  unfold State.fetchEntry
  rw [State.completeHeld_one hu hheld hc, hnone]

/-! ### A well-formed entry -/

theorem rb_lt (bs : List Byte) (off n : Nat) : rb bs off n < 2 ^ (8 * n) :=
  (leNat_lt _).trans_le (Nat.pow_le_pow_right (by decide) (Nat.mul_le_mul_left 8 (List.length_take_le n _)))

theorem entryOk_iff {bs : List Byte} {seq : Nat} : entryOk bs seq = true ↔
    rb bs 0 8 = seq ∧ rb bs 0x10 4 % 16 ≤ 2 ∧ rb bs 0x10 4 / 32 = 0 ∧ (rb bs 0x10 4 % 16 = 0 → rb bs 8 8 % 256 = 0)
      ∧ (rb bs 0x10 4 % 16 = 1 → rb bs 8 8 % 64 = 0) := by
  have hlt := rb_lt bs 0x10 4
  have htyp : fld (rb bs 0x10 4) 0 4 = rb bs 0x10 4 % 16 := by unfold fld; simp
  have hres : fld (rb bs 0x10 4) 5 27 = rb bs 0x10 4 / 32 := by
    unfold fld
    exact Nat.mod_eq_of_lt (Nat.div_lt_of_lt_mul hlt)
  unfold entryOk
  dsimp only
  rw [htyp, hres]
  simp only [Bool.and_eq_true, beq_iff_eq, decide_eq_true_eq, Bool.or_eq_true, bne_iff_ne, and_assoc, ← imp_iff_not_or]

theorem entryOk_eq_false {bs : List Byte} {seq : Nat}
    (h : rb bs 0 8 ≠ seq ∨ 2 < rb bs 0x10 4 % 16 ∨ rb bs 0x10 4 / 32 ≠ 0 ∨ (rb bs 0x10 4 % 16 = 0 ∧ rb bs 8 8 % 256 ≠ 0)
      ∨ (rb bs 0x10 4 % 16 = 1 ∧ rb bs 8 8 % 64 ≠ 0)) : entryOk bs seq = false := by
  rw [← Bool.not_eq_true, entryOk_iff]
  rintro ⟨hseq, htyp, hres, hrec, hcode⟩
  rcases h with h | h | h | ⟨h1, h2⟩ | ⟨h1, h2⟩
  · exact h hseq
  · exact absurd htyp (Nat.not_le_of_lt h)
  · exact h hres
  · exact h2 (hrec h1)
  · exact h2 (hcode h1)

end Sys2Proof.Machine
end

section
/-! PROOFS. Events of host queue slots and user queues (R8, R235, R263, R292, R303, R315, R316). -/

namespace Sys2Proof.Machine

/-! ### Numbers read by the units -/

theorem flag_eq_testBit (w i : Nat) : flag w i = w.testBit i := by
  unfold flag fld
  rw [Nat.testBit_eq_decide_div_mod_eq, Nat.pow_one, beq_eq_decide]

theorem State.reread_numbers (s : State) (u : UQueue) :
    (s.reread u).ring = s.unitNat u.recAddr 8 / 32 * 32 ∧ (s.reread u).rlog = s.unitNat (u.recAddr + 8) 8 % 32
      ∧ (s.reread u).pend = (s.unitNat (u.recAddr + 8) 8).testBit 8
      ∧ (s.reread u).hold = ((s.unitNat (u.recAddr + 8) 8).testBit 9 || !s.hc.present)
      ∧ (s.reread u).ctx = s.unitNat (u.recAddr + 8) 8 / 2 ^ 16 % 2 ^ 12 ∧ (s.reread u).ssn = s.unitNat (u.recAddr + 0x10) 8
      ∧ (s.reread u).csn = s.unitNat (u.recAddr + 0x18) 8 ∧ (s.reread u).notified = s.unitNat (u.recAddr + 0x20) 8
      ∧ (s.reread u).fsn = max u.fsn (s.unitNat (u.recAddr + 0x28) 8) := by
  refine ⟨rfl, ?_, flag_eq_testBit _ _, congrArg (· || !s.hc.present) (flag_eq_testBit _ _), rfl, rfl, rfl, rfl, rfl⟩
  change fld (s.unitNat (u.recAddr + 8) 8) 0 5 = _
  unfold fld
  simp

/-- Where no line reads uncorrectable and no request stands by, a unit reads what the device memory holds. -/
theorem State.unitNat_eq_devNat {s : State} {a n : Nat} (hst : s.coh.stalled = []) (hbad : ∀ i, i < n → lineOf (a + i) ∉ s.bad) :
    s.unitNat a n = s.devNat a n := by
  rw [State.devNat_eq]
  refine congrArg leNat (List.map_congr_left fun i hi => ?_)
  have hno : s.bad.contains (lineOf (a + i)) = false := by simpa using hbad i (List.mem_range.1 hi)
  rw [State.unitByte, hno, State.standing, hst]
  rfl

/-! ### The fetch of an entry -/

theorem exec_queueEntryFetch (s : State) : exec .queueEntryFetch s = .next (s.fetchEntry s.arg.uq) := rfl

theorem State.fetchEntry_bad {s : State} {uq : Nat} {u : UQueue} (hu : s.uqueue uq = some u)
    (hk : ∀ k ∈ u.held, s.canComplete u k.1 = false) (hf : s.fetching u = true) (hn : u.fsn < u.ssn) (h : ¬FetchWaits s u)
    (hbad : s.badPiece (u.nextPlace, 32) = true ∨ entryOk (s.readPhys u.nextPlace 32) (u.fsn + 1) = false
      ∨ s.ctxValid u.ctx = false) :
    s.fetchEntry uq = (s.fetchTouch uq u).completeEntry uq (u.fsn + 1) lsRECORD 0 0 := by
  rw [State.fetchEntry_fetches hu hk hf hn h, if_neg]
  rcases hbad with h | h | h <;> simp [h]

theorem State.fetchEntry_good {s : State} {uq : Nat} {u : UQueue} (hu : s.uqueue uq = some u)
    (hk : ∀ k ∈ u.held, s.canComplete u k.1 = false) (hf : s.fetching u = true) (hn : u.fsn < u.ssn) (h : ¬FetchWaits s u)
    (hgood : s.badPiece (u.nextPlace, 32) = false) (hok : entryOk (s.readPhys u.nextPlace 32) (u.fsn + 1) = true)
    (hctx : s.ctxValid u.ctx = true) :
    s.fetchEntry uq = { s.fetchTouch uq u with lu := { (s.fetchTouch uq u).lu with
      entries := s.lu.entries ++ [fetchedEntry uq (u.fsn + 1) (s.readPhys u.nextPlace 32)] } } := by
  rw [State.fetchEntry_fetches hu hk hf hn h, if_pos (by simp [hgood, hok, hctx]), State.fetchTouch_entries]

theorem fetchedEntry_eq (uq seq : Nat) (bs : List Byte) : fetchedEntry uq seq bs =
    { uq := uq, seq := seq, typ := rb bs 0x10 4 % 16, order := decide (rb bs 0x10 4 / 16 % 2 = 1)
      addr := BitVec.ofNat 64 (rb bs 8 8), lid := none } := by
  unfold fetchedEntry fld flag fld
  rw [Nat.pow_zero, Nat.div_one, Nat.pow_one, beq_eq_decide]
  rfl

/-- Settles O49: each event waits as `orWait` says, and what it makes of slot, queue and record follows from `QueueStep`. -/
theorem queueEvents : Obligations.QueueEvents := by
  unfold Obligations.QueueEvents
  intro s n q e same
  refine ⟨exec_qnotifyWrite_ignored, fun u hd hslot hu => ⟨?_, ?_, ?_, ?_, ?_, ?_⟩, s.reread_numbers,
    fun a hst hbad => State.unitNat_eq_devNat hst hbad, fun u hu hm => exec_queueUnmap_mapped hu hm,
    exec_queueUnmap_unmapped, fun u0 hu0 hslot hm hfree => ⟨?_, ?_, ?_, ?_⟩, ⟨pendScan_waits, pendScan_again, ?_, ?_⟩, ?_, ?_, ?_, ?_⟩
  · exact notify_waits hd hslot hu
  · exact notify_queues hd hslot hu
  · exact fun w1 w2 => notify_stands hd hslot hu
  · exact fun w1 w2 => notify_again hd hslot hu
  · intro hk hm
    have hexec := notify_now hd hslot hu hk (.inl hm)
    refine ⟨fun hle => ?_, fun hlt hroom => ?_, fun hlt hroom => notifyNow_mapped_writes hu hm hlt hroom hexec⟩
    · rw [hexec, State.notifyNow, if_pos hm, State.notifyQueue_old hle]
    · rw [State.notifyNow, if_pos hm, State.notifyQueue_beyond hlt hroom] at hexec
      exact queueBecomes_putQslot (s.qslot_slot _) hu hexec
  · intro hk hm hheld hfree r
    have hexec := notify_now hd hslot hu hk (.inr hheld)
    exact ⟨fun hssn hnot => notifyNow_unmapped_writes hu hm hfree hssn hnot hexec,
      fun hold => ⟨_, notifyNow_unmapped_old hm hold, hexec⟩⟩
  · exact queueMap_waits hu0
  · exact queueMap_again hu0
  · intro hheld he hclean
    rw [queueMap_now hu0 hheld he, mapQueue_rejected hu0]
    rw [← Bool.not_eq_true, State.recClean_iff]
    exact hclean
  · intro hheld he hclean
    have hmaps := queueMap_maps hu0 hslot hm hfree hheld (State.recClean_iff.2 hclean)
    exact hmaps.queueWrites (MapsTo.uq_eq (u0 := u0) hu0) (queueMap_now hu0 hheld he)
  · intro hfree he hpassed
    refine ⟨_, s.scanTouch_cachesOnly, ?_⟩
    rw [pendScan_now hfree he, scanNow_passed hpassed]
  · intro us u k hfree he hus hpassed hpend hclean hk hm hlow hnone r hlt hroom
    exact pendScan_writes hfree he hus hpassed hpend hclean hk hm hlow hnone hlt hroom
  · intro hd e he
    unfold State.candidates
    rw [if_neg (by simp [hd])]
    simp only [List.mem_append]
    tauto
  · exact fun u seq => ⟨State.canComplete_iff, fun code cls r hu hc => State.completeEntry_kept code cls r hu hc⟩
  · intro u seq st r hu hheld hc s1
    have harg := (s.takeHeld s.arg.uq).writeCompletion_arg { u with held := [] } seq st r
    rw [exec_queueEntryFetch, State.fetchEntry_completes hu hheld hc, exec_queueEntryFetch]
    exact congrArg (fun a : Arg => Host.Outcome.next (State.fetchEntry _ a.uq)) harg.symm
  · intro u hu hk
    refine ⟨fun hidle => ?_, fun hf hn => ⟨fun hw => ?_, fun hw => ⟨fun hbad => ?_, fun hbad => ⟨?_, ?_⟩⟩⟩⟩
    · rw [exec_queueEntryFetch, State.fetchEntry_idle hu hk hidle]
    · rw [exec_queueEntryFetch, State.fetchEntry_waits hu hk hw]
    · rw [exec_queueEntryFetch, State.fetchEntry_bad hu hk hf hn hw (.inl hbad)]
      rfl
    · intro hseq htyp hres hrec hcode hctx
      have hok := entryOk_iff.2 ⟨hseq, htyp, hres, hrec, hcode⟩
      rw [exec_queueEntryFetch, State.fetchEntry_good hu hk hf hn hw hbad hok hctx, fetchedEntry_eq]
      rfl
    · intro hcases
      rw [exec_queueEntryFetch, State.fetchEntry_bad hu hk hf hn hw (.inr ?_)]
      · rfl
      · rcases hcases with hctx | hcases
        · exact .inr hctx
        · exact .inl (entryOk_eq_false hcases)

end Sys2Proof.Machine
end

section
/-! PROOFS. Instructions that stop before they do anything (R24, R41, R53, R55, R133): what a class-miss and a launch fault make
of a program's strand, and which gate each instruction meets first. -/

namespace Sys2Proof.Machine

/-! ### What is taken -/

/-- A launch fault with no address: it kills the launch on a control core (R279), and stops the strand elsewhere (R274). -/
theorem State.launchFault_program {s : State} (cls : Nat) (hm : s.cur.mode = .u) (hs : s.cur.system = false) :
    s.launchFault cls 0 0 none =
      if s.cur.cls = .control then s.killFault s.cur.lid cls else s.stopAt 2 cls [(0, 2, 0)] none := by
  simp [State.launchFault, hm, hs]

theorem State.classMissed_absent {s : State} {cs : List Cls} (hm : s.cur.mode = .u) (hs : s.cur.system = false)
    (hf : s.cur.fork = none) (hc : ∀ c ∈ cs, s.classPresent c = false) : s.classMissed cs = s.launchFault 0x02 0 0 none := by
  have hnone : (cs.any fun c => s.classPresent c) = false := by simpa [List.any_eq_false] using hc
  rw [State.classMissed_user cs hm hs hf, hnone]
  rfl

theorem State.classMissed_pinned {s : State} {cs : List Cls} (hm : s.cur.mode = .u) (hs : s.cur.system = false)
    (hf : s.cur.fork = none) (hp : s.cur.pinned = true) (hc : ∃ c ∈ cs, s.classPresent c = true) :
    s.classMissed cs = s.launchFault 0x03 0 0 none := by
  rw [State.classMissed_user cs hm hs hf, List.any_eq_true.2 hc, hp]
  rfl

theorem State.classMissed_asks {s : State} {cs : List Cls} (hm : s.cur.mode = .u) (hs : s.cur.system = false)
    (hf : s.cur.fork = none) (hp : s.cur.pinned = false) (hc : ∃ c ∈ cs, s.classPresent c = true) :
    s.classMissed cs = { s with
      nextAsk := s.nextAsk + 1, cur := { s.cur with status := .moving (.classes cs), asked := s.nextAsk } } := by
  rw [State.classMissed_user cs hm hs hf, List.any_eq_true.2 hc, hp]
  rfl

/-- An illegal instruction off the control cores stops the strand with class 0x01 (R53, R274). -/
theorem State.takeExc_illegal_stops {s : State} (hc : s.cur.cls ≠ .control) :
    s.takeExc .illegal = s.stopAt 2 0x01 [(0, 2, 0)] none := if_neg hc

/-- An illegal instruction of U-mode on a control core traps to S-mode with cause 2 (R53, R279). -/
theorem State.takeExc_illegal_traps {s : State} (hc : s.cur.cls = .control) (hm : s.cur.mode = .u) :
    s.takeExc .illegal = s.trapS false 2 0 := by
  simp [State.takeExc, State.preciseTrap, trapToS, hc, hm]

/-- What no lane thread executes stops the strand of a program on a vector core with class 0x04 (R133, R271). -/
theorem State.takeExc_inLane {s : State} (hm : s.cur.mode = .u) (hs : s.cur.system = false) (hc : s.cur.cls = .vector) :
    s.takeExc (.launch 0x04 0 0 none) = s.stopAt 2 0x04 [(0, 2, 0)] none := by
  have hwalk : s.faultWalk s.cur.ctx 0x04 0 = s := rfl
  rw [State.takeExc_launch, hwalk, State.launchFault_stops _ _ _ _ hm hs (by simp [hc])]

/-! ### Replies delivered (R111) -/

/-- `d` is `s` but for registers and replies: what delivering replies leaves of the machine (R111). -/
def State.SameButReplies (s d : State) : Prop :=
  ∃ x f q, d = { s with cur := { s.cur with x := x, f := f, replyQ := q } }

theorem State.SameButReplies.refl (s : State) : s.SameButReplies s := ⟨_, _, _, rfl⟩

theorem State.sameButReplies_delivered (s : State) : s.SameButReplies s.delivered := by
  obtain ⟨x, f, h⟩ := s.cur.replyAll_eq
  exact ⟨x, f, [], congrArg (fun t => { s with cur := t }) h⟩

theorem State.SameButReplies.fork {s d : State} (h : s.SameButReplies d) : d.cur.fork = s.cur.fork := by
  obtain ⟨x, f, q, rfl⟩ := h
  rfl

theorem State.SameButReplies.cls {s d : State} (h : s.SameButReplies d) : d.cur.cls = s.cur.cls := by
  obtain ⟨x, f, q, rfl⟩ := h
  rfl

/-- The machine in which an instruction's class is judged. -/
theorem State.sameButReplies_judged (s : State) (i : Instr) : s.SameButReplies (if gateFirst i then s else s.delivered) := by
  split
  · exact .refl s
  · exact s.sameButReplies_delivered

theorem State.delivered_of_replyQ_nil {s : State} (h : s.cur.replyQ = []) : s.delivered = s := by
  unfold State.delivered State.onCur
  rw [Strand.replyAll_nil h]

/-! ### Gates that stop -/

/-- A sequence stops where its first part does. -/
theorem Res.bind_of_error {α β : Type} {x : Res α} {p : Exc × State} (h : x = .error p) (f : α → Res β) :
    x >>= f = .error p := by rw [h]; rfl

/-- An instruction that begins with a gate that stops takes the gate's exception. -/
theorem finish_bind_of_error {α : Type} {x : Res α} {e : Exc} {s : State} (h : x = .error (e, s)) (f : α → Res State) :
    finish (x >>= f) = .next (s.takeExc e) := by rw [h]; rfl

theorem require_false (e : Exc) (s : State) : require false e s = .error (e, s) := rfl

theorem State.classGate_inLane {s : State} (cs : List Cls) (h : s.cur.fork.isSome = true) :
    s.classGate cs = .error (.launch 0x04 0 0 none, s) := if_pos h

theorem State.classGate_misses {s : State} {cs : List Cls} (hf : s.cur.fork = none) (hc : s.cur.cls ∉ cs) :
    s.classGate cs = .error (.classMiss cs, s) := by simp [State.classGate, hf, hc]

theorem State.replyGate_of_classGate {s : State} {cs : List Cls} {p : Exc × State} (ks : List MReg)
    (h : s.classGate cs = .error p) : s.replyGate cs ks = .error p := Res.bind_of_error h _

theorem State.vectorGate_of_classGate {s : State} {cs : List Cls} {p : Exc × State} (ks : List MReg)
    (h : s.delivered.classGate cs = .error p) : s.vectorGate cs ks = .error p := State.replyGate_of_classGate ks h

theorem State.slotGate_of_classGate {s : State} {p : Exc × State} (slot : QReg) (h : s.delivered.classGate clsA = .error p) :
    s.slotGate slot = .error p := Res.bind_of_error (State.vectorGate_of_classGate [] h) _

theorem State.accGate_of_classGate {s : State} {p : Exc × State} (rs1 : Reg) (row : BitVec 10) (n : Nat)
    (h : s.delivered.classGate clsA = .error p) : s.accGate rs1 row n = .error p :=
  Res.bind_of_error (State.vectorGate_of_classGate [] h) _

/-- A supervisor instruction in a lane thread is stopped as such, before its privilege is looked at. -/
theorem State.sysGate_inLane {s : State} (h : s.cur.fork.isSome = true) : s.sysGate = .error (.launch 0x04 0 0 none, s) := by
  unfold State.sysGate
  rw [Option.isNone_eq_false_iff.2 h, require_false]
  rfl

/-- A supervisor instruction of U-mode is illegal on every class, before its class is looked at (R56, R280). -/
theorem State.sysGate_ofUser {s : State} (hf : s.cur.fork = none) (hm : s.cur.mode = .u) :
    s.sysGate = .error (.illegal, s) := by
  unfold State.sysGate
  rw [hf, hm]
  rfl

end Sys2Proof.Machine
end

section
/-! PROOFS. The rows of the class table (R55, R59, R71 to R75) and the rows off it, stopped at their first gate. -/

namespace Sys2Proof.Machine

/-! ### The class table -/

/-- An instruction of the class table takes the exception of its class gate, which it meets with replies delivered unless
`gateFirst` says otherwise. `ljoin` of a lane thread meets no gate. -/
theorem exec_of_classGate {i : Instr} {cs : List Cls} {s d : State} {e : Exc} (hi : classTable i = some cs)
    (hj : i = .ljoin → s.cur.fork = none)
    (hg : (if gateFirst i then s else s.delivered).classGate cs = .error (e, d)) : exec i s = .next (d.takeExc e) := by
  cases i with
  | vmvxs | vmvfs | kpop | kfirst =>
    cases hi
    exact finish_bind_of_error (State.replyGate_of_classGate _ hg) _
  | ljoin =>
    cases hi
    have hrow : s.ljoinOp = s.classGate clsV >>= fun s => .error (.illegal, s) := by
      unfold State.ljoinOp
      rw [hj rfl]
    exact (congrArg finish hrow).trans (finish_bind_of_error hg _)
  | vsetli | vsetl | vrel | frz | thaw | thaww | frzq | lnch | cpost | fenceI | cpt | cpgr | cpsc | cpw | cpf =>
    cases hi
    exact finish_bind_of_error hg _
  | mmr | mmrz | mmrs | wclr | wdesc =>
    cases hi
    exact finish_bind_of_error (State.slotGate_of_classGate _ hg) _
  | accz =>
    cases hi
    exact finish_bind_of_error (State.accGate_of_classGate _ _ _ hg) _
  -- Of the other constructors, those of the table begin with `vectorGate`, and the rest are not in it.
  | _ =>
    cases hi
    all_goals exact finish_bind_of_error (State.vectorGate_of_classGate _ hg) _

/-! ### Class-misses -/

/-- What an instruction does that misses its classes, with replies perhaps delivered (R24, R41). -/
theorem outcomes_of_classMissed {i : Instr} {cs : List Cls} {s d : State} (hd : s.SameButReplies d) (hm : s.cur.mode = .u)
    (hs : s.cur.system = false) (hf : s.cur.fork = none) (h : exec i s = .next (d.classMissed cs)) :
    (s.cur.pinned = false → (∃ c ∈ cs, s.classPresent c = true) → exec i s = .next { d with
      nextAsk := s.nextAsk + 1, cur := { d.cur with status := .moving (.classes cs), asked := s.nextAsk } })
    ∧ ((∀ c ∈ cs, s.classPresent c = false) → exec i s = .next (d.launchFault 0x02 0 0 none))
    ∧ (s.cur.pinned = true → (∃ c ∈ cs, s.classPresent c = true) → exec i s = .next (d.launchFault 0x03 0 0 none)) := by
  obtain ⟨x, f, q, rfl⟩ := hd
  refine ⟨fun hp hc => ?_, fun hc => ?_, fun hp hc => ?_⟩ <;> rw [h]
  · exact congrArg _ (State.classMissed_asks hm hs hf hp hc)
  · exact congrArg _ (State.classMissed_absent hm hs hf hc)
  · exact congrArg _ (State.classMissed_pinned hm hs hf hp hc)

/-- The launch fault of a class-miss in the machine it is taken on, by the class of the strand before. -/
theorem State.SameButReplies.launchFault {s d : State} (hd : s.SameButReplies d) (cls : Nat) (hm : s.cur.mode = .u)
    (hs : s.cur.system = false) : d.launchFault cls 0 0 none =
      if s.cur.cls = .control then d.killFault s.cur.lid cls else d.stopAt 2 cls [(0, 2, 0)] none := by
  obtain ⟨x, f, q, rfl⟩ := hd
  exact State.launchFault_program cls hm hs

/-- An instruction of the class table off its classes. -/
theorem exec_classMissed {i : Instr} {cs : List Cls} {s : State} (hi : classTable i = some cs) (hf : s.cur.fork = none)
    (hc : s.cur.cls ∉ cs) : exec i s = .next ((if gateFirst i then s else s.delivered).classMissed cs) := by
  have hd := s.sameButReplies_judged i
  exact exec_of_classGate hi (fun _ => hf) (State.classGate_misses (hd.fork.trans hf) (by rwa [hd.cls]))

/-! ### The scalar base (R55, R56, R59) -/

/-- The CSRs of the table are those of floating point. -/
theorem isFpCsr_of_table {a : FCsr} {cs : List Cls} (h : scalarClassTable (.csr a) = some cs) :
    isFpCsr a.csr.toNat = true ∧ cs = [.control, .vector] := by
  obtain ⟨hfp, hcs⟩ := Option.ite_none_right_eq_some.1 h
  refine ⟨?_, (Option.some.inj hcs).symm⟩
  rcases hfp with hn | hn | hn <;> rw [hn] <;> rfl

theorem scalarClasses_of_table {op : Scalar} {cs : List Cls} (h : scalarClassTable op = some cs) : scalarClasses op = cs := by
  cases op with
  | csr a =>
    obtain ⟨hfp, rfl⟩ := isFpCsr_of_table h
    exact if_pos hfp
  | alu o => cases o <;> cases h <;> rfl
  | shI o => cases o <;> cases h <;> rfl
  | _ => cases h <;> rfl

/-- No row of the table is privileged. -/
theorem State.privOk_of_table {s : State} {op : Scalar} {cs : List Cls} (h : scalarClassTable op = some cs) :
    s.privOk op = true := by
  cases op with
  | csr a =>
    change (isFpCsr a.csr.toNat || _) = true
    rw [(isFpCsr_of_table h).1]
    rfl
  | sret | mret | wfi | sfenceVma => cases h
  | _ => rfl

theorem exec_scalar_classMissed {op : Scalar} {cs : List Cls} {s : State} (f : Form) (hop : scalarClassTable op = some cs)
    (hf : s.cur.fork = none) (hc : s.cur.cls ∉ cs) : exec (.rv64ScalarInstruction f op) s = .next (s.classMissed cs) := by
  have hmiss : (scalarClasses op).contains s.cur.cls = false := by simpa [scalarClasses_of_table hop] using hc
  have hrun : s.rvOp f op = .error (.classMiss cs, s) := by
    unfold State.rvOp
    rw [hf, State.privOk_of_table hop, hmiss, scalarClasses_of_table hop]
    rfl
  exact congrArg finish hrun

/-- A scalar instruction that the mode may not use is illegal on every class (R53, R56). -/
theorem exec_scalar_unprivileged {op : Scalar} {s : State} (f : Form) (hf : s.cur.fork = none) (hp : s.privOk op = false) :
    exec (.rv64ScalarInstruction f op) s = .next (s.takeExc .illegal) := by
  have hrun : s.rvOp f op = .error (.illegal, s) := by
    unfold State.rvOp
    rw [hf, hp]
    rfl
  exact congrArg finish hrun

theorem laneRuns_scalar (f : Form) (op : Scalar) : laneRuns (.rv64ScalarInstruction f op) = scalarInLane op := by
  cases op with
  | alu o => cases o <;> rfl
  | _ => rfl

theorem exec_scalar_inLane {op : Scalar} {s : State} (f : Form) (hf : s.cur.fork.isSome = true)
    (hop : scalarInLane op = false) :
    exec (.rv64ScalarInstruction f op) s = .next (s.takeExc (.launch 0x04 0 0 none)) := by
  have hrun : s.rvOp f op = .error (.launch 0x04 0 0 none, s) := by
    unfold State.rvOp
    rw [Option.isNone_eq_false_iff.2 hf, hop]
    rfl
  exact congrArg finish hrun

/-! ### Lane threads (R133) -/

theorem State.ordOp_inLane {s : State} (hf : s.cur.fork.isSome = true) (sc : Fin 5) (scalar vector : Bool) :
    s.ordOp sc scalar vector false = .error (.launch 0x04 0 0 none, s) := by
  unfold State.ordOp
  rw [Option.isNone_eq_false_iff.2 hf]
  rfl

/-- Every instruction that no lane thread may execute is stopped as such, whatever else it would meet. -/
theorem exec_inLane {i : Instr} {s : State} (hf : s.cur.fork.isSome = true) (hq : s.cur.replyQ = [])
    (henc : (encode i).isSome = true) (hi : laneRuns i = false) :
    exec i s = .next (s.takeExc (.launch 0x04 0 0 none)) := by
  have hd := State.delivered_of_replyQ_nil hq
  cases hrow : classTable i with
  | some cs =>
    refine exec_of_classGate hrow ?_ ?_
    · rintro rfl
      cases hi
    · rw [hd, ite_self]
      exact State.classGate_inLane cs hf
  | none =>
    have hgate : s.scalarGate anyCls = .error (.launch 0x04 0 0 none, s) := by
      change s.delivered.classGate anyCls = _
      rw [hd]
      exact State.classGate_inLane _ hf
    have hother : ((classTable i).isNone && (encode i).isSome && !laneRuns i) = true := by rw [hrow, henc, hi]; rfl
    cases i with
    | bkrd | bkrsm | ccmoveMove | frqpop | latw | thrset => exact finish_bind_of_error (State.sysGate_inLane hf) _
    | ordSv | ordVs | ordAll => exact congrArg finish (State.ordOp_inLane hf _ _ _)
    | quelanCsrAccess | vdirtyWrite => exact finish_bind_of_error (State.classGate_inLane _ hf) _
    | sev | send | recv | recvnb | syscB | syscN | fence | fenceTso | ecall | ebreak | bar | phend | wfe | gexit | yld
      | migControl | migVector | migArray => exact finish_bind_of_error hgate _
    | rv64ScalarInstruction f op => exact exec_scalar_inLane f hf ((laneRuns_scalar f op).symm.trans hi)
    -- Rows of the class table, rows that a lane thread executes, and events, which have no words.
    | _ => exact (Bool.false_ne_true hother).elim

end Sys2Proof.Machine
end

section
/-! PROOFS. Where an instruction of U-mode does not complete (R24, R41, R53, R56, R82, R133, R279, R280). -/

namespace Sys2Proof.Machine

/-! ### No format under EW 100 with FAM 01 (R82) -/

theorem Strand.vtypeOk_of_ew4_fam1 {t : Strand} (he : t.ew = 4) (hf : vtFam t.vtype = 1) : t.vtypeOk = false := by
  simp [Strand.vtypeOk, he, hf]

@[simp] theorem Strand.replyAll_vtypeOk (t : Strand) : t.replyAll.vtypeOk = t.vtypeOk := by
  obtain ⟨x, f, h⟩ := t.replyAll_eq
  rw [h]
  rfl

@[simp] theorem State.delivered_vtypeOk (s : State) : s.delivered.cur.vtypeOk = s.cur.vtypeOk := s.cur.replyAll_vtypeOk

@[simp] theorem Strand.drained_vtypeOk (t : Strand) : t.drained.vtypeOk = t.vtypeOk := t.replyAll_vtypeOk

/-- An instruction that passes its gate, and whose own check fails, is illegal in the machine the check is made in. -/
theorem finish_check_illegal {g : Res State} {d : State} {ok : State → Bool} {m : State → State}
    {k : State → Unit → Res State} (hg : g = .ok d) (hok : ok d = false) :
    finish (g >>= fun d => require (ok d) .illegal (m d) >>= k d) = .next ((m d).takeExc .illegal) := by
  rw [hg, Res.bind_ok, hok]
  rfl

/-- Waiting for the vector unit, with replies delivered, changes only the count of what it has issued (R36, R65). -/
theorem State.drained_delivered (s : State) :
    s.delivered.onCur Strand.drained = { s.delivered with cur := { s.delivered.cur with vq := 0 } } := by
  have hq : s.delivered.cur.replyAll = s.delivered.cur := Strand.replyAll_nil rfl
  unfold State.onCur Strand.drained
  rw [hq]

/-- `kpop` and `kfirst`. -/
theorem maskReply_noFormat {s : State} {k : MReg} (f : Strand → List Nat → Word) (rd : Reg) (hi : Issues s clsVA [k])
    (ht : s.cur.vtypeOk = false) : finish (maskReply f rd k s) = .next (s.takeExc .illegal) :=
  finish_check_illegal (m := id) (State.replyGate_ok hi) (by simp [ht])

/-- `kld` and `kst`. -/
theorem maskOp_noFormat {s : State} {k : MReg} (isLoad : Bool) (i : Instr) (base : Reg) (hi : Issues s clsVA [k])
    (ht : s.cur.vtypeOk = false) : finish (s.maskOp isLoad i k base) = .next (s.delivered.takeExc .illegal) :=
  finish_check_illegal (m := id) (State.vectorGate_ok hi) (by simp [ht])

theorem exec_lfork_noFormat {s : State} (vm : Bool) (hi : Issues s clsV (maskOf vm)) (ht : s.cur.vtypeOk = false) :
    exec (.lfork vm) s =
      .next (State.takeExc { s.delivered with cur := { s.delivered.cur with vq := 0 } } .illegal) := by
  rw [← State.drained_delivered]
  exact finish_check_illegal (m := fun s => s.onCur Strand.drained) (State.vectorGate_ok hi) (by simp [ht])

/-! ### Returns from traps in U-mode (R56) -/

theorem exec_mret_ofUser {s : State} (f : Form) (hf : s.cur.fork = none) (hm : s.cur.mode = .u) :
    exec (.rv64ScalarInstruction f .mret) s = .next (s.takeExc .illegal) :=
  exec_scalar_unprivileged f hf (by simp [State.privOk, hm])

theorem exec_sret_ofUser {s : State} (f : Form) (hf : s.cur.fork = none) (hm : s.cur.mode = .u) :
    exec (.rv64ScalarInstruction f .sret) s = .next (s.takeExc .illegal) :=
  exec_scalar_unprivileged f hf (by simp [State.privOk, hm])

/-! ### The claim -/

/-- Settles O39: each instruction meets its gate before anything else, and what the gate answers is taken. -/
theorem issueExceptions : Obligations.IssueExceptions := by
  intro s hm hs stop d fault misses
  have missed : ∀ {i : Instr} {d : State} {cs : List Cls}, s.SameButReplies d →
      (s.cur.fork = none → s.cur.cls ∉ cs → exec i s = .next (d.classMissed cs)) → misses i d cs := by
    intro i d cs hd h hf hc
    have hout := outcomes_of_classMissed hd hm hs hf (h hf hc)
    rwa [hd.launchFault _ hm hs, hd.launchFault _ hm hs] at hout
  have stops : ∀ {i : Instr} {d : State}, d.cur.cls ≠ .control → exec i s = .next (d.takeExc .illegal) →
      exec i s = .next (stop d 0x01) := fun hc h => h.trans (congrArg _ (State.takeExc_illegal_stops hc))
  have traps : ∀ {i : Instr}, s.cur.cls = .control → exec i s = .next (s.takeExc .illegal) →
      exec i s = .next (s.trapS false 2 0) := fun hc h => h.trans (congrArg _ (State.takeExc_illegal_traps hc hm))
  refine ⟨fun i cs hi => missed (s.sameButReplies_judged i) (exec_classMissed hi),
    fun f op cs hop => missed (.refl s) (exec_scalar_classMissed f hop), fun hf hc hq i henc hi => ?_,
    fun hf hc hk _ he ht rd base k vm => ?_, fun hc hf rs1 rs2 => ?_, fun hc hf rs1 rs2 => ?_⟩
  · exact (exec_inLane hf hq henc hi).trans (congrArg _ (State.takeExc_inLane hm hs hc))
  · have issues : ∀ {cs : List Cls} (ks : List MReg), .vector ∈ cs → Issues s cs ks := fun ks hcs =>
      ⟨hf, hc ▸ hcs, fun k _ => hk ▸ List.not_mem_nil⟩
    have hcls : s.cur.cls ≠ .control := by simp [hc]
    have hclsd : s.delivered.cur.cls ≠ .control := s.sameButReplies_delivered.cls.trans_ne hcls
    have hno := Strand.vtypeOk_of_ew4_fam1 he ht
    have hmask := issues (cs := clsVA) [k] (by decide)
    exact ⟨stops hcls (maskReply_noFormat _ rd hmask hno), stops hcls (maskReply_noFormat _ rd hmask hno),
      stops hclsd (maskOp_noFormat _ _ base hmask hno), stops hclsd (maskOp_noFormat _ _ base hmask hno),
      stops hclsd (exec_lfork_noFormat vm (issues _ (by decide)) hno)⟩
  · have hsys := State.sysGate_ofUser hf hm
    exact ⟨stops hc (finish_bind_of_error hsys _), stops hc (finish_bind_of_error hsys _), stops hc (finish_bind_of_error hsys _),
      stops hc (exec_mret_ofUser _ hf hm), stops hc (exec_sret_ofUser _ hf hm)⟩
  · have hsys := State.sysGate_ofUser hf hm
    exact ⟨traps hc (finish_bind_of_error hsys _), traps hc (finish_bind_of_error hsys _), traps hc (finish_bind_of_error hsys _),
      traps hc (exec_mret_ofUser _ hf hm)⟩

end Sys2Proof.Machine
end

section
/-! PROOFS. Grants of at most the four lane groups of a core (R32): the rules for strands, launches and machines, the
primitives of the state, and caches. -/

namespace Sys2Proof.Machine

/-! ### Strands, launches, machines -/

/-- A strand holds, and its stage asks for, at most the four lane groups of a core (R32). -/
def Strand.GrantOk (t : Strand) : Prop := t.g ≤ 4 ∧ t.lstage ≤ 4

/-- The stages of a launch ask for at most the four lane groups of a core (R238). -/
def Launch.StagesOk (l : Launch) : Prop := ∀ g ∈ l.lrec.stages, g.l ≤ 4

theorem GrantsOk.cur {s : State} (h : GrantsOk s) : s.cur.GrantOk := h.1 _ List.mem_cons_self
theorem GrantsOk.others {s : State} (h : GrantsOk s) :
    ∀ t ∈ s.others, t.GrantOk := fun t ht => h.1 t (List.mem_cons_of_mem _ ht)
theorem GrantsOk.launches {s : State} (h : GrantsOk s) : ∀ l ∈ s.lu.launches, l.StagesOk := h.2

theorem grantsOk_of_parts {s : State} (hc : s.cur.GrantOk) (ho : ∀ t ∈ s.others, t.GrantOk)
    (hl : ∀ l ∈ s.lu.launches, l.StagesOk) : GrantsOk s :=
  ⟨List.forall_mem_cons.mpr ⟨hc, ho⟩, hl⟩

/-- A strand with the grant and the stage of another one keeps the bound if that one does. -/
theorem Strand.GrantOk.of_same {t t' : Strand} (h : t.GrantOk) (e : (t'.g, t'.lstage) = (t.g, t.lstage)) : t'.GrantOk := by
  simp only [Prod.mk.injEq] at e
  obtain ⟨hg, hstage⟩ := e
  exact ⟨hg ▸ h.1, hstage ▸ h.2⟩

theorem GrantsOk.of_strand {s : State} {u : Nat} {t : Strand} (h : GrantsOk s) (ht : s.strand u = some t) : t.GrantOk :=
  h.1 t (State.mem_strands_of_strand ht)

theorem GrantsOk.of_launch {s : State} {lid : Nat} {l : Launch} (h : GrantsOk s) (hl : s.launch lid = some l) : l.StagesOk :=
  h.2 l (List.mem_of_find?_eq_some hl)

/-- A machine with the grants of another one keeps the bound if that one does. -/
theorem GrantsOk.of_same {s s' : State} (h : GrantsOk s)
    (e : (s'.cur.g, s'.cur.lstage, s'.others, s'.lu.launches) = (s.cur.g, s.cur.lstage, s.others, s.lu.launches)) :
        GrantsOk s' := by
  simp only [Prod.mk.injEq] at e
  obtain ⟨hg, hlstage, hothers, hlaunches⟩ := e
  refine grantsOk_of_parts ?_ (hothers ▸ h.others) (hlaunches ▸ h.launches)
  unfold Strand.GrantOk
  rw [hg, hlstage]
  exact h.cur

theorem grants_ite {c : Prop} [Decidable c] {s t : State} (hs : GrantsOk s) (ht : GrantsOk t) :
    GrantsOk (if c then s else t) :=
  of_ite GrantsOk hs ht

/-- The rule for a step of a loop over a list. -/
theorem grants_foldl {α : Type} {f : State → α → State} (hf : ∀ (s : State) (a : α), GrantsOk s → GrantsOk (f s a)) :
    ∀ (l : List α) {s : State}, GrantsOk s → GrantsOk (l.foldl f s)
  | [], _, h => h
  | a :: l, s, h => grants_foldl hf l (hf s a h)

theorem State.SameButCaches.grants {s t : State} (h : s.SameButCaches t) (hs : GrantsOk s) : GrantsOk t := by
  obtain ⟨_, _, _, _, rfl⟩ := h
  exact hs

/-! ### Strands and launches changed -/

theorem State.grants_onCur {s : State} {f : Strand → Strand} (h : GrantsOk s) (hf : (f s.cur).GrantOk) :
    GrantsOk (s.onCur f) :=
  grantsOk_of_parts hf h.others h.launches

theorem State.grants_mapStrands {s : State} {f : Strand → Strand} (h : GrantsOk s)
    (hf : ∀ t : Strand, t.GrantOk → (f t).GrantOk) : GrantsOk (s.mapStrands f) := by
  refine grantsOk_of_parts (hf _ h.cur) (fun t ht => ?_) h.launches
  obtain ⟨o, ho, rfl⟩ := List.mem_map.1 ht
  exact hf o (h.others o ho)

theorem State.grants_updStrand {s : State} {f : Strand → Strand} (u : Nat) (h : GrantsOk s)
    (hf : ∀ t : Strand, t.GrantOk → (f t).GrantOk) : GrantsOk (s.updStrand u f) :=
  State.grants_mapStrands h fun t ht => by split; exacts [hf t ht, ht]

theorem State.grants_filterOthers {s : State} (p : Strand → Bool) (h : GrantsOk s) :
    GrantsOk { s with others := s.others.filter p } :=
  grantsOk_of_parts h.cur (fun t ht => h.others t (List.mem_of_mem_filter ht)) h.launches

theorem State.grants_addStrand {s : State} {t : Strand} (h : GrantsOk s) (ht : t.GrantOk) :
    GrantsOk { s with others := s.others ++ [t] } := by
  refine grantsOk_of_parts h.cur (fun o ho => ?_) h.launches
  rcases List.mem_append.1 ho with ho | ho
  · exact h.others o ho
  · exact List.mem_singleton.1 ho ▸ ht

theorem State.grants_mapLaunches {s : State} {f : Launch → Launch} (h : GrantsOk s) (hf : ∀ l, (f l).lrec = l.lrec) :
    GrantsOk { s with lu := { s.lu with launches := s.lu.launches.map f } } := by
  refine grantsOk_of_parts h.cur h.others fun l hl g hg => ?_
  obtain ⟨k, hk, rfl⟩ := List.mem_map.1 hl
  exact h.launches k hk g (hf k ▸ hg)

/-- A launch's record does not change: that is all the launch unit's changes of a launch have to say. -/
theorem State.grants_updLaunch {s : State} (lid : Nat) {f : Launch → Launch} (h : GrantsOk s)
    (hf : ∀ l, (f l).lrec = l.lrec := by intro _; rfl) : GrantsOk (s.updLaunch lid f) :=
  State.grants_mapLaunches h fun l => by split; exacts [hf l, rfl]

theorem State.grants_addLaunch {s : State} {l : Launch} (n : Nat) (h : GrantsOk s) (hl : l.StagesOk) :
    GrantsOk { s with lu := { s.lu with launches := s.lu.launches ++ [l], nextLid := n } } := by
  refine grantsOk_of_parts h.cur h.others fun k hk => ?_
  rcases List.mem_append.1 hk with hk | hk
  · exact h.launches k hk
  · exact List.mem_singleton.1 hk ▸ hl

/-! ### Writes to the spaces -/

theorem State.grants_breakRes {s : State} (sp : Space) (a n : Nat) (who : Option Nat) (h : GrantsOk s) :
    GrantsOk (s.breakRes sp a n who) :=
  grants_foldl (f := fun s l => s.mapStrands (·.lose sp l who)) (fun _ _ hs => State.grants_mapStrands hs fun _ ht => ht) _ h

theorem State.grants_rekey {s : State} (a n key : Nat) (h : GrantsOk s) : GrantsOk (s.rekey a n key) := by
  unfold State.rekey
  refine grants_ite h (grants_foldl (fun s i hs => ?_) _ h)
  unfold State.rekeyLine
  exact grants_ite hs (hs.of_same rfl)

theorem State.grants_writePhys {s : State} (p : Phys) (bs : List Byte) (who : Option Nat) (h : GrantsOk s) :
    GrantsOk (s.writePhys p bs who) := by
  unfold State.writePhys
  split
  · exact State.grants_breakRes _ _ _ _ (State.grants_rekey p.addr bs.length p.key h)
  · refine State.grants_breakRes _ _ _ _ ?_
    unfold State.withSpace
    split <;> exact h.of_same rfl

theorem State.grants_setDevNat {s : State} (a n v : Nat) (h : GrantsOk s) : GrantsOk (s.setDevNat a n v) :=
  State.grants_writePhys _ _ _ h

/-! ### Caches and walks -/

theorem State.grants_updDie {s : State} (d : Nat) (f : Die → Die) (h : GrantsOk s) : GrantsOk (s.updDie d f) :=
  (s.updDie_caches d f).grants h

theorem State.grants_vacate {s : State} (id slot : Nat) (h : GrantsOk s) : GrantsOk (s.vacate id slot) := h.of_same rfl

theorem State.grants_settle {s : State} (h : GrantsOk s) : GrantsOk s.settle := s.settle_caches.grants h

theorem State.grants_l2Touch {s : State} (p : Phys × Nat) (write : Bool) (h : GrantsOk s) : GrantsOk (s.l2Touch p write) :=
  (s.l2Touch_caches p write).grants h

theorem State.grants_unitTouch {s : State} (a n : Nat) (h : GrantsOk s) : GrantsOk (s.unitTouch a n) :=
  (s.unitTouch_caches a n).grants h

theorem State.grants_walkTouch {s : State} (ctx va : Nat) (h : GrantsOk s) : GrantsOk (s.walkTouch ctx va) :=
  (s.walkTouch_caches ctx va).grants h

theorem State.grants_walked {s : State} (ctx : Nat) (vas : List Nat) (h : GrantsOk s) : GrantsOk (s.walked ctx vas) :=
  (s.walked_caches ctx vas).grants h

theorem State.grants_setPte {s : State} (a e : Nat) (h : GrantsOk s) : GrantsOk (s.setPte a e) :=
  State.grants_setDevNat _ _ _ (State.grants_l2Touch _ _ h)

theorem State.grants_judge {s : State} (ctx va : Nat) (acc : Acc) (h : GrantsOk s) : GrantsOk (s.judge ctx va acc).2 := by
  have hw := State.grants_walkTouch ctx va h
  unfold State.judge
  split
  case h_6 =>
    dsimp only
    split
    · exact hw
    · split
      · exact h
      · exact hw
      · dsimp only
        split
        · exact hw
        · exact State.grants_setPte _ _ hw
  case h_4 => exact h
  all_goals exact hw

theorem State.grants_translate {s : State} (ctx va n : Nat) (acc : Acc) (h : GrantsOk s) :
    GrantsOk (s.translate ctx va n acc).2 := by
  unfold State.translate
  dsimp only
  split
  next heq =>
    have h1 := State.grants_judge ctx (va % 2 ^ 55) acc h
    rw [heq] at h1
    split
    · exact h1
    · split
      next heq2 =>
        have h2 := State.grants_judge ctx ((va + min n (65536 - va % 65536)) % 2 ^ 55) acc h1
        rw [heq2] at h2
        exact h2
      · exact h
  · exact h

end Sys2Proof.Machine
end

section
/-! PROOFS. Grants and the shared operations: caches, lane groups, the freeze catalogue and the launch unit. -/

namespace Sys2Proof.Machine

/-! ### Strands -/

theorem Strand.grant_setX {t : Strand} (r : Reg) (v : Word) (h : t.GrantOk) : (t.setX r v).GrantOk := by
  unfold Strand.setX
  split
  exacts [h, h]

theorem Strand.grant_setVtype {t : Strand} (r : VsetReq) (h : t.GrantOk) : (t.setVtype r).GrantOk := by
  unfold Strand.setVtype
  refine Strand.grant_setX _ _ ?_
  dsimp only
  split <;> exact h

theorem Strand.grant_regranted {t : Strand} {new : Nat} (req : Nat) (h : t.GrantOk) (hn : new ≤ 4) :
    (t.regranted req new).GrantOk := by
  unfold Strand.regranted
  exact ⟨hn, by dsimp only; split <;> exact h.2⟩

theorem Strand.grant_replyAll {t : Strand} (h : t.GrantOk) : t.replyAll.GrantOk := by
  obtain ⟨x, f, e⟩ := t.replyAll_eq
  rw [e]
  exact h

/-! ### Accesses by virtual address of units (R268, R270, R303) -/

theorem State.grants_storePieces (who : Option Nat) : ∀ (ps : List (Phys × Nat)) (bs : List Byte) {s : State}, GrantsOk s →
    GrantsOk (s.storePieces who ps bs)
  | [], _, _, h => h
  | p :: ps, bs, _, h =>
    State.grants_storePieces who ps (bs.drop p.2) (State.grants_writePhys _ _ _ (State.grants_l2Touch p true h))

theorem State.grants_touchVirt {s : State} (ctx va n : Nat) (h : GrantsOk s) : GrantsOk (s.touchVirt ctx va n) := by
  have ht := State.grants_translate ctx va n .load h
  unfold State.touchVirt
  split
  · exact State.grants_walked ctx _ h
  · next heq =>
    rw [heq] at ht
    exact grants_foldl (fun _ p hs => State.grants_l2Touch p false hs) _ ht

theorem State.grants_touchRange {s : State} (ctx a n : Nat) (h : GrantsOk s) : GrantsOk (s.touchRange ctx a n) :=
  grants_foldl (fun _ _ hs => State.grants_touchVirt ctx _ _ hs) _ h

theorem State.grants_storeParts (lid : Nat) : ∀ (ps : List (Phys × Nat)) (bs : List Byte) {s : State}, GrantsOk s →
    GrantsOk (s.storeParts lid ps bs)
  | [], _, _, h => h
  | p :: ps, bs, s, h => by
    unfold State.storeParts
    refine State.grants_storeParts lid ps (bs.drop p.2) ?_
    split
    · exact h.of_same rfl
    · split
      · exact h
      · exact State.grants_writePhys _ _ _ (State.grants_l2Touch p true h)

theorem State.grants_storeUnit {s : State} (lid : Nat) (ps : List (Phys × Nat)) (bs : List Byte) (h : GrantsOk s) :
    GrantsOk (s.storeUnit lid ps bs) := State.grants_storeParts lid _ _ h

theorem State.grants_unitMark {s : State} (ctx lid va : Nat) (h : GrantsOk s) : GrantsOk (s.unitMark ctx lid va) := by
  have hw := State.grants_walkTouch ctx va h
  unfold State.unitMark
  split
  · dsimp only
    split
    · exact hw
    · exact State.grants_storeUnit _ _ _ hw
  · exact h

theorem State.grants_of_storeVirt {s s' : State} {ctx va lid : Nat} {bs : List Byte} (h : GrantsOk s)
    (hr : s.storeVirt ctx va bs lid = .ok s') : GrantsOk s' := by
  unfold State.storeVirt at hr
  split at hr
  · exact nomatch hr
  · cases hr
    exact State.grants_storeUnit _ _ _ (grants_foldl (fun _ a hs => State.grants_unitMark ctx lid a hs) _ h)

/-! ### Lane groups (R33 to R35) -/

theorem State.grants_regrant {s : State} (t : Strand) (new : Nat) (h : GrantsOk s) : GrantsOk (s.regrant t new) := by
  unfold State.regrant
  split
  exacts [h, h.of_same rfl]

theorem State.grants_settleLanes {t : Strand} (s : State) (h : t.GrantOk) : (s.settleLanes t).GrantOk := by
  unfold State.settleLanes
  split <;> exact h

theorem Strand.wants_le {t : Strand} {req : Nat} (h : t.GrantOk) (hr : req ≤ 4) : t.wants req ≤ 4 := by
  unfold Strand.wants
  exact of_ite (· ≤ 4) h.2 (of_ite (· ≤ 4) (Nat.le_refl 4) hr)

/-- No request is offered more than the four lane groups of a core (R34). -/
theorem State.offer_le {s : State} {t : Strand} {req n : Nat} (h : t.GrantOk) (hr : req ≤ 4) (ho : s.offer t req = some n) :
    n ≤ 4 := by
  have hw := Strand.wants_le h hr
  obtain ⟨-, hstage⟩ := h
  unfold State.offer at ho
  dsimp only at ho
  split_ifs at ho <;> cases ho <;> omega

theorem lgreqOf_le (image : Word) (g : Nat) : lgreqOf image g ≤ 4 := by
  have hf : bf image 12 2 < 2 ^ 2 := Nat.mod_lt _ (by decide)
  unfold lgreqOf
  exact of_ite (· ≤ 4) (by decide) (by omega)

theorem State.grants_of_renegotiate {s : State} {t : Strand} {image : Word} {p : State × Strand} (h : GrantsOk s)
    (ht : t.GrantOk)
    (hr : s.renegotiate t image = .ok p) : GrantsOk p.1 ∧ p.2.GrantOk := by
  unfold State.renegotiate at hr
  dsimp only at hr
  split at hr
  · cases hr
    exact ⟨h, ht⟩
  · split at hr
    · cases hr
      exact ⟨h, ht⟩
    · split at hr
      · next ho =>
        cases hr
        exact ⟨State.grants_regrant _ _ h, State.grants_settleLanes _
          (Strand.grant_regranted _ ht (State.offer_le ht (lgreqOf_le _ _) ho))⟩
      · exact nomatch hr

theorem State.grants_of_vset {s : State} {t : Strand} {r : VsetReq} {p : State × Strand} (h : GrantsOk s) (ht : t.GrantOk)
    (hr : s.vset t r = .ok p) : GrantsOk p.1 ∧ p.2.GrantOk := by
  unfold State.vset at hr
  split at hr
  · next heq =>
    cases hr
    obtain ⟨hs, ht'⟩ := State.grants_of_renegotiate h ht heq
    exact ⟨hs, Strand.grant_setVtype r ht'⟩
  · exact nomatch hr

theorem State.grants_laneServe {s : State} (uid : Nat) (r : VsetReq) (h : GrantsOk s) : GrantsOk (s.laneServe uid r) := by
  unfold State.laneServe
  split
  · exact h
  · next t ht =>
    split
    · next heq =>
      obtain ⟨hs, ht'⟩ := State.grants_of_vset h (h.of_strand ht) heq
      exact State.grants_updStrand _ hs fun _ _ => ht'
    · exact h

theorem State.grants_laneGrant {s : State} (id : Nat) (h : GrantsOk s) : GrantsOk (s.laneGrant id) :=
  grants_foldl (fun _ _ hs => State.grants_laneServe _ _ hs) _ h

/-! ### The freeze catalogue (R208 to R214) -/

theorem State.grants_flushBuf {s : State} (b : WcBuf) (t : Strand) (vec : Bool) (h : GrantsOk s) :
    GrantsOk (s.flushBuf b t vec) := by
  unfold State.flushBuf
  split
  · exact h.of_same rfl
  · exact grants_foldl (fun _ _ hs => State.grants_writePhys _ _ _ hs) _ h

theorem State.grants_flushWc {s : State} (uid : Nat) (scalar vector : Bool) (h : GrantsOk s) :
    GrantsOk (s.flushWc uid scalar vector) := by
  have buffers : ∀ (vec : Bool) (t : Strand) (bs : List WcBuf) {s : State}, GrantsOk s →
      GrantsOk (bs.foldl (fun s b => s.flushBuf b t vec) s) :=
    fun vec t bs _ hs => grants_foldl (fun _ b hs => State.grants_flushBuf b t vec hs) bs hs
  unfold State.flushWc
  split
  · exact h
  · split
    · refine State.grants_updStrand _ ?_ fun _ ht => ht
      split <;> split
      · exact buffers _ _ _ (buffers _ _ _ h)
      · exact buffers _ _ _ h
      · exact buffers _ _ _ h
      · exact h
    · exact h

theorem State.grants_linesToZ {s : State} (pages : List Nat) (h : GrantsOk s) : GrantsOk (s.linesToZ pages) := h.of_same rfl

theorem State.grants_invalidateZ {s : State} (page : Nat) (h : GrantsOk s) : GrantsOk (s.invalidateZ page) := h.of_same rfl

theorem State.grants_rejudge {s : State} (pages : List Nat) (h : GrantsOk s) : GrantsOk (s.rejudge pages) := h.of_same rfl

theorem State.grants_freezeJob {s : State} (j : FrzJob) (h : GrantsOk s) : GrantsOk (s.freezeJob j) := by
  have hf : GrantsOk (s.settle.strands.foldl (fun s t => s.flushWc t.uid true true) s.settle) :=
    grants_foldl (fun _ _ hs => State.grants_flushWc _ _ _ hs) _ (State.grants_settle h)
  unfold State.freezeJob
  split
  · exact h
  · dsimp only
    split
    · exact hf
    · split <;> refine State.grants_updStrand _ ?_ fun _ ht => (Strand.grant_setX _ _ ht)
      · exact State.grants_rejudge _ (hf.of_same rfl)
      · exact State.grants_rejudge _ (State.grants_linesToZ _ (hf.of_same rfl))

theorem State.grants_freeThawed {s : State} (e : FrzEntry) (h : GrantsOk s) : GrantsOk (s.freeThawed e) := by
  unfold State.freeThawed
  dsimp only
  split <;> exact h.of_same rfl

theorem State.grants_startThaw {s : State} (e : FrzEntry) (ch : QReg) (thawer : Option (Nat × Nat × Nat × Nat))
    (h : GrantsOk s) :
    GrantsOk (s.startThaw e ch thawer) := by
  unfold State.startThaw
  dsimp only
  split
  · exact State.grants_freeThawed _ (h.of_same rfl)
  · exact h.of_same rfl

theorem State.grants_endCollection {s : State} (idx : Nat) (h : GrantsOk s) : GrantsOk (s.endCollection idx) := by
  unfold State.endCollection
  split
  · exact h
  · exact State.grants_freeThawed _
      ((grants_foldl (fun _ p hs => State.grants_invalidateZ p hs) (s.entryCollecting idx) h).of_same rfl)

/-! ### Launches, placement and messages (R204 to R207, R240 to R246) -/

theorem State.grants_orWait {s : State} {f : State → State} (e : Event) (held : Bool) (h : GrantsOk s)
    (hf : ∀ s : State, GrantsOk s → GrantsOk (f s)) : GrantsOk (s.orWait e held f) := by
  unfold State.orWait
  split
  · split
    exacts [h, h.of_same rfl]
  · exact hf _ (h.of_same rfl)

theorem State.grants_tenantTouch {s : State} (ctx : Nat) (h : GrantsOk s) : GrantsOk (s.tenantTouch ctx) :=
  State.grants_unitTouch _ _ (State.grants_unitTouch _ _ h)

theorem Launch.lrec_releases (gs : List Nat) (l : Launch) : (gs.foldl Launch.release l).lrec = l.lrec := by
  induction gs generalizing l with
  | nil => rfl
  | cons g gs ih =>
    refine (ih _).trans ?_
    unfold Launch.release
    split <;> rfl

theorem State.grants_releaseReady {s : State} (lid : Nat) (h : GrantsOk s) : GrantsOk (s.releaseReady lid) := by
  unfold State.releaseReady
  split
  · exact h
  · exact State.grants_updLaunch lid h (Launch.lrec_releases _)

theorem Launch.grant_newStrand {g : StageRec} (l : Launch) (uid glin stage six core slot : Nat) (lanes : List Nat)
    (stack : Option Nat) (hg : g.l ≤ 4) : (l.newStrand uid glin stage six core slot lanes stack g).GrantOk := ⟨hg, hg⟩

theorem State.grants_of_placeOne {s s' : State} {l : Launch} {die glin stage six : Nat} {g : StageRec} (h : GrantsOk s)
    (hg : g.l ≤ 4) (hr : s.placeOne l die glin stage six g = some s') : GrantsOk s' := by
  unfold State.placeOne State.takeLanes at hr
  split at hr
  · exact nomatch hr
  · dsimp only at hr
    generalize (if l.lrec.stkSz = 0 then none else s.freeStack l) = stack at hr
    split at hr
    · exact nomatch hr
    · cases hr
      exact GrantsOk.of_same (State.grants_addStrand h (l.grant_newStrand s.nextUid glin stage six _ _ _ stack hg)) rfl

/-- The rule for a step that may fail of a loop over a list. -/
theorem grants_of_foldl_bind {α : Type} {f : State → α → Option State} :
    ∀ (l : List α) {o : Option State} {s' : State},
      (∀ a ∈ l, ∀ s s' : State, GrantsOk s → f s a = some s' → GrantsOk s') → (∀ s, o = some s → GrantsOk s) →
      l.foldl (fun o a => o.bind fun s => f s a) o = some s' → GrantsOk s'
  | [], _, s', _, h, hr => h s' hr
  | a :: l, o, s', hf, h, hr => by
    refine grants_of_foldl_bind l (fun b hb => hf b (List.mem_cons_of_mem _ hb)) (fun t ht => ?_) hr
    obtain ⟨s, hs, hst⟩ := Option.bind_eq_some_iff.1 ht
    exact hf a List.mem_cons_self s t (h s hs) hst

theorem LaunchRec.mem_stages_of_mem_strandList {r : LaunchRec} {p : Nat × Nat × StageRec} (hp : p ∈ r.strandList) :
    p.2.2 ∈ r.stages := by
  obtain ⟨q, hq, hp⟩ := List.mem_flatMap.mp hp
  obtain ⟨i, -, rfl⟩ := List.mem_map.mp hp
  exact List.fst_mem_of_mem_zipIdx hq

theorem State.grants_of_placeGroup {s s' : State} {l : Launch} {die glin : Nat} (h : GrantsOk s) (hl : l.StagesOk)
    (hr : s.placeGroup l die glin = some s') : GrantsOk s' :=
  grants_of_foldl_bind _ (fun _ hp _ _ hs => State.grants_of_placeOne hs (hl _ (LaunchRec.mem_stages_of_mem_strandList hp)))
    (fun _ ht => Option.some.inj ht ▸ h) hr

theorem State.grants_hold {s : State} (l : Launch) (m : HeldMsg) (h : GrantsOk s) : GrantsOk (s.hold l m) := by
  have h1 (p : HeldMsg) : GrantsOk (s.updLaunch l.lid fun l => { l with pool := l.pool ++ [p] }) :=
      State.grants_updLaunch _ h
  unfold State.hold
  dsimp only
  split
  · next heq => exact State.grants_of_storeVirt (h1 _) heq
  · exact h1 _

theorem State.grants_of_holdOr {s s' : State} {l : Launch} {m : HeldMsg} (h : GrantsOk s) (hr : s.holdOr l m = .done s') :
    GrantsOk s' := by
  unfold State.holdOr at hr
  split at hr
  · cases hr
    exact State.grants_hold l m h
  · exact nomatch hr

theorem State.grants_of_deliver {s s' : State} {l : Launch} {glin stage six : Nat} {m : Msg} (h : GrantsOk s)
    (hr : s.deliver l glin stage six m = .done s') : GrantsOk s' := by
  unfold State.deliver at hr
  split at hr
  · exact nomatch hr
  · split at hr
    · split at hr
      · cases hr
        exact State.grants_updStrand _ h fun _ ht => ht
      · exact State.grants_of_holdOr h hr
    · exact State.grants_of_holdOr h hr

theorem State.grants_post {s : State} (lid glin stage six : Nat) (m : Msg) (h : GrantsOk s) :
    GrantsOk (s.post lid glin stage six m) := h.of_same rfl

/-! ### Queue entries (R234, R235, R315) -/

theorem State.grants_storeRec {s : State} (q : UQueue) (h : GrantsOk s) :
    GrantsOk (s.storeRec q) := State.grants_storeUnit _ _ _ h

theorem State.grants_updUq {s : State} (uq : Nat) (f : UQueue → UQueue) (h : GrantsOk s) : GrantsOk (s.updUq uq f) := by
  unfold State.updUq
  split
  · exact h
  · exact State.grants_storeRec _ (h.of_same rfl)

theorem State.grants_writeCompletion {s : State} (q : UQueue) (seq status : Nat) (result : Word) (h : GrantsOk s) :
    GrantsOk (s.writeCompletion q seq status result) := by
  unfold State.writeCompletion
  exact State.grants_updUq _ _ (State.grants_storeUnit _ _ _ (State.grants_storeUnit _ _ _ h))

theorem State.grants_putCompletion {s : State} (uq seq status : Nat) (result : Word) (h : GrantsOk s) :
    GrantsOk (s.putCompletion uq seq status result) := by
  unfold State.putCompletion
  split
  · exact h
  · split
    · exact State.grants_writeCompletion _ _ _ _ h
    · exact h.of_same rfl

theorem State.grants_completeHeld {s : State} (uq : Nat) (h : GrantsOk s) : GrantsOk (s.completeHeld uq) := by
  unfold State.completeHeld
  split
  · exact h
  · split
    · exact grants_foldl (fun _ _ hs => State.grants_putCompletion _ _ _ _ hs) _ (h.of_same rfl)
    · exact h

theorem State.grants_completeEntry {s : State} (uq seq code cls : Nat) (result : Word) (h : GrantsOk s) :
    GrantsOk (s.completeEntry uq seq code cls result) := State.grants_putCompletion _ _ _ _ (h.of_same rfl)

/-! ### LSTATE, the scoreboard and the end of a launch (R48, R241, R252) -/

theorem State.grants_of_writeLstate {s s' : State} {l : Launch} (h : GrantsOk s) (hr : s.writeLstate l = some s') :
    GrantsOk s' := by
  unfold State.writeLstate at hr
  split at hr
  · next heq =>
    cases hr
    exact State.grants_of_storeVirt h heq
  · exact nomatch hr

theorem State.grants_of_writeScoreboard {s s' : State} {l : Launch} (h : GrantsOk s) (hr : s.writeScoreboard l = some s') :
    GrantsOk s' := by
  refine grants_of_foldl_bind _ (fun b _ s s' hs hr => ?_) (fun _ ht => Option.some.inj ht ▸ h) hr
  split at hr
  · next heq =>
    cases hr
    exact State.grants_of_storeVirt hs heq
  · exact nomatch hr

theorem grants_getD {o : Option State} {s : State} (h : GrantsOk s) (ho : ∀ s', o = some s' → GrantsOk s') :
    GrantsOk (o.getD s) := by
  cases o with
  | none => exact h
  | some s' => exact ho s' rfl

theorem State.grants_dismiss {s : State} (uid : Nat) (h : GrantsOk s) : GrantsOk (s.dismiss uid) := by
  have hf := State.grants_filterOthers (fun t => t.uid != uid) h
  have hc : ∀ c : Prop, [Decidable c] → ∀ s : State, GrantsOk s →
      GrantsOk (if c then { s with cur := { s.cur with status := .gone } } else s) := by
    intro c _ s hs
    split
    exacts [hs.of_same rfl, hs]
  unfold State.dismiss
  split
  · exact h
  · dsimp only
    split
    · exact State.grants_laneGrant _ (State.grants_vacate _ _ (hc _ _ hf))
    · exact hc _ _ hf

theorem State.grants_releaseAfter {s : State} (lid : Nat) (h : GrantsOk s) : GrantsOk (s.releaseAfter lid) :=
  grants_foldl (fun _ _ hs => State.grants_releaseReady _ hs) _ h

theorem State.grants_endLaunch {s : State} (lid : Nat) (st : LState) (code cls : Nat) (h : GrantsOk s) :
    GrantsOk (s.endLaunch lid st code cls) := by
  unfold State.endLaunch
  extract_lets s1
  have h1 : GrantsOk s1 := State.grants_updLaunch lid h
  split
  · exact h1
  · extract_lets s2 s3
    have h2 : GrantsOk s2 := grants_getD h1 fun _ => State.grants_of_writeScoreboard h1
    have h3 : GrantsOk s3 := grants_getD h2 fun _ => State.grants_of_writeLstate h2
    split
    next r s4 heq =>
    have h4 : GrantsOk s4 := by
      split at heq <;> cases heq
      exacts [h3.of_same rfl, h3]
    extract_lets s5 s6 s7
    have h5 : GrantsOk s5 := by
      dsimp only [s5]
      split
      exacts [State.grants_completeEntry _ _ _ _ _ h4, h4]
    have h6 : GrantsOk s6 := by
      dsimp only [s6]
      split
      exacts [State.grants_post _ _ _ _ _ h5, h5]
    exact State.grants_mapLaunches (State.grants_releaseAfter lid h6) fun l => by split <;> rfl

theorem State.grants_kill {s : State} (lid code cls : Nat) (h : GrantsOk s) : GrantsOk (s.kill lid code cls) := by
  unfold State.kill
  split
  · exact h
  · split
    · exact h
    · extract_lets uids s1 idle s2 d0 d1 s3 s4 s5
      have h1 : GrantsOk s1 := grants_foldl (fun _ j hs => State.grants_freezeJob j hs) _ h
      have h3 : GrantsOk s3 := h1.of_same rfl
      have h4 : GrantsOk s4 := grants_foldl (fun _ u hs => State.grants_flushWc u true true hs) uids h3
      have h5 : GrantsOk s5 := grants_foldl (fun _ u hs => State.grants_dismiss u hs) uids h4
      split
      · exact State.grants_updLaunch lid h1
      · exact State.grants_endLaunch _ _ _ _ h5

theorem State.grants_killFault {s : State} (lid cls : Nat) (h : GrantsOk s) : GrantsOk (s.killFault lid cls) :=
  State.grants_kill _ _ _ h

theorem State.grants_bumpLstate {s : State} (lid : Nat) (h : GrantsOk s) : GrantsOk (s.bumpLstate lid) := by
  unfold State.bumpLstate
  split
  · exact h
  · split
    · next heq => exact State.grants_of_writeLstate h heq
    · split
      exacts [State.grants_killFault _ _ h, h]

theorem State.grants_releaseSuccs {s : State} (lid glin : Nat) (h : GrantsOk s) : GrantsOk (s.releaseSuccs lid glin) := by
  unfold State.releaseSuccs
  split
  · exact h
  · exact grants_ite (State.grants_updLaunch lid h (Launch.lrec_releases _)) h

theorem State.grants_retire {s : State} (lid glin : Nat) (h : GrantsOk s) : GrantsOk (s.retire lid glin) := by
  unfold State.retire
  extract_lets s1
  have h1 : GrantsOk s1 := State.grants_updLaunch lid h
  split
  · exact h1
  · split
    · exact State.grants_endLaunch _ _ _ _ h1
    · exact State.grants_releaseSuccs _ _ (State.grants_bumpLstate _ h1)

theorem State.grants_barrierCheck {s : State} (lid glin : Nat) (h : GrantsOk s) : GrantsOk (s.barrierCheck lid glin) := by
  unfold State.barrierCheck
  extract_lets ts
  split
  · exact h
  · extract_lets low
    split
    · refine State.grants_mapStrands h fun t ht => ?_
      split
      exacts [ht, ht]
    · exact h

theorem State.grants_of_preempt {s s' : State} {lid : Nat} {cause : Option Nat} (h : GrantsOk s)
    (hr : s.preempt lid cause = some s') : GrantsOk s' := by
  unfold State.preempt at hr
  split at hr
  · exact nomatch hr
  · split at hr
    · cases hr
      exact h
    · split at hr
      · exact nomatch hr
      · cases hr
        exact State.grants_bumpLstate _ (GrantsOk.of_same (State.grants_updLaunch lid (State.grants_unitTouch _ _ h)) rfl)

end Sys2Proof.Machine
end

section
/-! PROOFS. Grants: what an answer keeps, exceptions, streams, registers and data accesses. -/

namespace Sys2Proof.Machine

/-! ### Answers -/

/-- What a computation answers has a property, and the machine on which its exception is taken keeps the bound on grants. -/
def Bounded {α : Type} (P : α → Prop) : Res α → Prop
  | .ok a => P a
  | .error e => GrantsOk e.2

theorem Bounded.ok {α : Type} {P : α → Prop} {a : α} (h : P a) : Bounded P (.ok a) := h

theorem Bounded.pure {α : Type} {P : α → Prop} {a : α} (h : P a) : Bounded P (Pure.pure a) := h

theorem Bounded.bind {α β : Type} {Q : α → Prop} {P : β → Prop} {x : Res α} {f : α → Res β} (hx : Bounded Q x)
    (hf : ∀ a, Q a → Bounded P (f a)) : Bounded P (x >>= f) := by
  cases x with
  | error e => exact hx
  | ok a => exact hf a hx

/-- An access's answer, or its exception on the machine as it stood. -/
theorem Bounded.lift {α : Type} {P : α → Prop} {s : State} {r : Except Exc α} (h : GrantsOk s) (hr : Gives P r) :
    Bounded P (lift s r) := by
  cases r with
  | error e => exact h
  | ok a => exact hr a rfl

theorem bounded_require {s : State} (c : Bool) (e : Exc) (h : GrantsOk s) :
    Bounded (fun _ => True) (require c e s) := by
  cases c
  exacts [h, True.intro]

/-! ### Exceptions (R41, R46, R271, R279) -/

theorem State.grants_putCsrs {s : State} (c : Csrs) (h : GrantsOk s) : GrantsOk (s.putCsrs c) := h.of_same rfl

theorem State.grants_trapS {s : State} (i : Bool) (cause : Nat) (tval : Word) (h : GrantsOk s) :
    GrantsOk (s.trapS i cause tval) :=
  h.of_same rfl

theorem State.grants_trapM {s : State} (i : Bool) (cause : Nat) (tval : Word) (h : GrantsOk s) :
    GrantsOk (s.trapM i cause tval) :=
  h.of_same rfl

theorem State.grants_preciseTrap {s : State} (cause : Nat) (tval : Word) (h : GrantsOk s) :
    GrantsOk (s.preciseTrap cause tval) := by
  unfold State.preciseTrap
  split
  exacts [State.grants_trapS _ _ _ h, State.grants_trapM _ _ _ h]

theorem State.grants_stopAt {s : State} (cause cls : Nat) (pages : List (Nat × Nat × Nat)) (entry : Option BmEntry)
    (h : GrantsOk s) : GrantsOk (s.stopAt cause cls pages entry) := h.of_same rfl

theorem State.grants_launchFault {s : State} (cls addr acc : Nat) (entry : Option BmEntry) (h : GrantsOk s) :
    GrantsOk (s.launchFault cls addr acc entry) := by
  unfold State.launchFault
  split
  · split <;> exact State.grants_preciseTrap _ _ h
  · split
    · exact State.grants_killFault _ _ h
    · exact State.grants_stopAt _ _ _ _ h

theorem State.grants_ask {s : State} (uid : Nat) (k : MoveKind) (h : GrantsOk s) : GrantsOk (s.ask uid k) :=
  State.grants_updStrand _ (h.of_same rfl) fun _ ht => ht

theorem State.grants_classMissed {s : State} (cs : List Cls) (h : GrantsOk s) : GrantsOk (s.classMissed cs) := by
  unfold State.classMissed
  split
  · exact State.grants_preciseTrap _ _ h
  · split
    · exact State.grants_launchFault _ _ _ _ h
    · split
      · exact State.grants_launchFault _ _ _ _ h
      · split
        · exact State.grants_launchFault _ _ _ _ h
        · exact h.of_same rfl

theorem State.grants_takeExc {s : State} (e : Exc) (h : GrantsOk s) : GrantsOk (s.takeExc e) := by
  have trap : ∀ (c : Prop) [Decidable c] (cause : Nat) (tval : Word) (cls k : Nat) (ps : List (Nat × Nat × Nat)),
      GrantsOk (if c then s.preciseTrap cause tval else s.stopAt cls k ps none) := by
    intro c _ cause tval cls k ps
    split
    exacts [State.grants_preciseTrap _ _ h, State.grants_stopAt _ _ _ _ h]
  cases e with
  | wait w => exact h.of_same rfl
  | classMiss cs => exact State.grants_classMissed cs h
  | launch cls addr acc entry =>
    exact State.grants_launchFault _ _ _ _ ((State.faultWalk_caches _ _ _ _).grants h)
  | illegal => exact trap _ _ _ _ _ _
  | ecall => exact trap _ _ _ _ _ _
  | ebreak => exact trap _ _ _ _ _ _
  | access cause addr => exact State.grants_preciseTrap _ _ ((State.tableAsked_caches _ _).grants h)
  | trans pages entry =>
    have h1 := State.grants_walked s.cur.ctx (pages.map (·.1)) h
    unfold State.takeExc
    dsimp only
    split
    · split
      exacts [State.grants_preciseTrap _ _ h1, h1]
    · exact State.grants_stopAt _ _ _ _ h1

/-- An outcome leads to no machine but one that keeps the bound. -/
def LeadsGrants (o : Host.Outcome State Fault Refusal) : Prop := ∀ s, o = .next s → GrantsOk s

theorem LeadsGrants.next {s : State} (h : GrantsOk s) : LeadsGrants (.next s) := by
  rintro _ ⟨⟩
  exact h

theorem leadsGrants_finish {r : Res State} (h : Bounded GrantsOk r) : LeadsGrants (finish r) := by
  cases r with
  | ok s => exact LeadsGrants.next h
  | error e => exact LeadsGrants.next (State.grants_takeExc e.1 h)

theorem State.bounded_sret {s : State} (h : GrantsOk s) : Bounded GrantsOk s.sret := by
  unfold State.sret
  dsimp only
  split
  exacts [h, h.of_same rfl]

theorem State.bounded_mret {s : State} (h : GrantsOk s) : Bounded GrantsOk s.mret := by
  unfold State.mret
  dsimp only
  split
  exacts [h, h.of_same rfl]

/-! ### The running thread and its replies (R38, R111) -/

theorem Strand.grant_putX {t : Strand} (r : Reg) (v : Word) (h : t.GrantOk) : (t.putX r v).GrantOk := by
  unfold Strand.putX
  split
  · exact Strand.grant_setX r v h
  · split
    exacts [h, h]

theorem Strand.grant_putPc {t : Strand} (a : Word) (h : t.GrantOk) : (t.putPc a).GrantOk := by
  unfold Strand.putPc
  split <;> exact h

theorem Strand.grant_adv {t : Strand} (n : Nat) (h : t.GrantOk) : (t.adv n).GrantOk := Strand.grant_putPc _ h

theorem Strand.grant_deliverReply {t : Strand} (r : Reply) (h : t.GrantOk) : (t.deliverReply r).GrantOk := by
  unfold Strand.deliverReply
  split
  exacts [h, Strand.grant_setX _ _ h]

theorem Strand.grant_reply1 {t : Strand} (h : t.GrantOk) : t.reply1.GrantOk := by
  unfold Strand.reply1
  split
  · exact h
  · exact (Strand.grant_deliverReply _ h)

theorem Strand.grant_pushReply {t : Strand} (r : Reply) (h : t.GrantOk) : (t.pushReply r).GrantOk := by
  unfold Strand.pushReply
  dsimp only
  split
  exacts [(Strand.grant_reply1 h), h]

theorem Strand.grant_drained {t : Strand} (h : t.GrantOk) : t.drained.GrantOk := (Strand.grant_replyAll h)

theorem State.grants_delivered {s : State} (h : GrantsOk s) : GrantsOk (s.onCur Strand.replyAll) :=
  State.grants_onCur h (Strand.grant_replyAll h.cur)

theorem State.bounded_classGate {s : State} (cs : List Cls) (h : GrantsOk s) :
    Bounded GrantsOk (s.classGate cs) := by
  unfold State.classGate
  split
  · exact h
  · split <;> exact h

theorem State.bounded_scalarGate {s : State} (cs : List Cls) (h : GrantsOk s) : Bounded GrantsOk (s.scalarGate cs) :=
  State.bounded_classGate cs (State.grants_delivered h)

theorem State.bounded_replyGate {s : State} (cs : List Cls) (ks : List MReg) (h : GrantsOk s) :
    Bounded GrantsOk (s.replyGate cs ks) :=
  (State.bounded_classGate cs h).bind fun _ h1 => (bounded_require _ _ h1).bind fun _ _ => h1

theorem State.bounded_vectorGate {s : State} (cs : List Cls) (ks : List MReg) (h : GrantsOk s) :
    Bounded GrantsOk (s.vectorGate cs ks) := State.bounded_replyGate cs ks (State.grants_delivered h)

theorem State.grants_vectorDone {s : State} (n : Nat) (h : GrantsOk s) : GrantsOk (s.vectorDone n) :=
  State.grants_onCur h (Strand.grant_adv n h.cur)

theorem State.grants_scalarDone {s : State} (n : Nat) (h : GrantsOk s) : GrantsOk (s.scalarDone n) :=
  State.grants_onCur h (Strand.grant_adv n h.cur)

/-! ### Core-local storage and streams (R146, R152 to R163) -/

theorem Strand.grant_putLoc {t : Strand} (space : Nat) (m : Mem) (h : t.GrantOk) : (t.putLoc space m).GrantOk := by
  unfold Strand.putLoc
  split <;> exact h

/-- The rule for a loop that changes a strand. -/
theorem Strand.grant_foldl {α : Type} {f : Strand → α → Strand} (hf : ∀ (t : Strand) (a : α), t.GrantOk → (f t a).GrantOk) :
    ∀ (l : List α) {t : Strand}, t.GrantOk → (l.foldl f t).GrantOk
  | [], _, h => h
  | a :: l, t, h => Strand.grant_foldl hf l (hf t a h)

theorem Strand.grant_putStream {t : Strand} (q : QReg) (o : Option Stream) (h : t.GrantOk) : (t.putStream q o).GrantOk := h

theorem Strand.grant_fillSlot {t : Strand} (k : Stream) (p : Nat) (es : List Nat) (h : t.GrantOk) :
    (t.fillSlot k p es).GrantOk :=
  Strand.grant_putLoc _ _ h

theorem Strand.grant_addSlot {t : Strand} (q : QReg) (k : Stream) (es : List Nat) (h : t.GrantOk) :
    (t.addSlot q k es).GrantOk :=
  (Strand.grant_fillSlot k k.next es h)

theorem Strand.grant_pop {t : Strand} (n : Nat) (e : Reg × QReg × Stream) (h : t.GrantOk) : (t.pop n e).GrantOk := by
  unfold Strand.pop
  dsimp only
  split
  exacts [h, h]

theorem State.grants_reserve {s : State} (q : QReg) (k : Stream) (f : Nat → Nat) (h : GrantsOk s) :
    GrantsOk (s.reserve q k f) := by
  unfold State.reserve
  split
  · split
    · refine State.grants_updStrand _ h fun t ht => ?_
      split
      exacts [ht, ht]
    · exact h
  · exact h.of_same rfl

theorem State.bounded_streamIn {s : State} (reads writes : List Reg) (h : GrantsOk s) :
    Bounded GrantsOk (s.streamIn reads writes) := by
  unfold State.streamIn
  extract_lets t ins outs vl s1
  have h1 : GrantsOk s1 :=
    State.grants_onCur h (Strand.grant_foldl (fun _ e ht => Strand.grant_pop vl e ht) ins (h.cur))
  split
  · exact h
  · split
    · exact h
    · split
      · exact h
      · split
        · exact h
        · split
          · exact h
          · split
            · exact h
            · show GrantsOk (if vl = 0 then s1 else _)
              split
              · exact h1
              · exact grants_foldl (fun _ _ hs => State.grants_reserve _ _ _ hs) outs h1

theorem State.grants_append {s : State} (e : Reg × QReg) (h : GrantsOk s) : GrantsOk (s.append e) := by
  unfold State.append
  split
  · exact h
  · split
    · exact State.grants_reserve _ _ _ h
    · dsimp only
      split
      · split
        · refine State.grants_updStrand _ h fun t ht => ?_
          split
          exacts [ht, ht]
        · exact h
      · exact State.grants_onCur h (Strand.grant_addSlot _ _ _ h.cur)

theorem State.grants_arriveStrip {s : State} (uid : Nat) (q : QReg) (h : GrantsOk s) : GrantsOk (s.arriveStrip uid q) := by
  refine State.grants_updStrand _ h fun t ht => ?_
  split
  · exact ht
  · split
    · exact ht
    · exact ht
    · split
      exacts [ht, Strand.grant_addSlot _ _ _ ht]

theorem State.grants_landStrips {s : State} (t : Strand) (h : GrantsOk s) : GrantsOk (s.landStrips t) := by
  refine grants_foldl (fun s q hs => ?_) _ h
  split
  · split
    · exact grants_foldl (fun _ _ hs => State.grants_arriveStrip _ _ hs) _ hs
    · exact hs
  · exact hs

theorem State.grants_streamOut {s : State} (writes : List Reg) (h : GrantsOk s) : GrantsOk (s.streamOut writes) := by
  unfold State.streamOut
  split
  · exact h
  · exact grants_foldl (fun _ _ hs => State.grants_append _ hs) _ (State.grants_flushWc _ _ _ h)

theorem State.bounded_vectorOp {s : State} {body : Strand → Strand} (cs : List Cls) (ks : List MReg)
    (reads writes : List Reg)
    (ok : Strand → Bool) (h : GrantsOk s) (hb : ∀ t : Strand, t.GrantOk → (body t).GrantOk) :
    Bounded GrantsOk (s.vectorOp cs ks reads writes ok body) :=
  (State.bounded_vectorGate cs ks h).bind fun _ h1 => (bounded_require _ _ h1).bind fun _ _ =>
    (State.bounded_streamIn reads writes h1).bind fun _ h2 =>
      State.grants_vectorDone _ (State.grants_streamOut writes (State.grants_onCur h2 (hb _ h2.cur)))

end Sys2Proof.Machine
end

section
/-! PROOFS. Grants: the registers of the shared blocks and the data accesses of a strand. -/

namespace Sys2Proof.Machine

/-! ### Registers (R170 to R175, R233, R251 to R260, R299 to R318) -/

theorem State.grants_of_cancelLaunch {s s' : State} {ctx lid : Nat} (h : GrantsOk s)
    (hr : s.cancelLaunch ctx lid = some s') :
    GrantsOk s' := by
  unfold State.cancelLaunch at hr
  split at hr
  · cases hr
    exact State.grants_kill _ _ _ h
  · exact nomatch hr

theorem State.grants_preemptStart {s : State} (lid : Nat) (h : GrantsOk s) : GrantsOk (s.preemptStart lid) :=
  State.grants_orWait _ _ h fun _ hs => grants_getD hs fun _ => State.grants_of_preempt hs

theorem State.grants_of_resumeLaunch {s s' : State} {ctx lid : Nat} (h : GrantsOk s)
    (hr : s.resumeLaunch ctx lid = some s') :
    GrantsOk s' := by
  unfold State.resumeLaunch at hr
  split at hr
  · cases hr
    exact grants_ite (State.grants_updLaunch lid h) h
  · exact nomatch hr

theorem State.grants_putQslot {s : State} (q : QSlot) (h : GrantsOk s) : GrantsOk (s.putQslot q) := h.of_same rfl

theorem State.grants_notifyQueue {s : State} (q : QSlot) (u : UQueue) (n : Nat) (h : GrantsOk s) :
    GrantsOk (s.notifyQueue q u n) := by
  unfold State.notifyQueue
  split
  · exact h
  · split
    · exact h.of_same rfl
    · exact State.grants_updUq _ _ (State.grants_putQslot _ h)

theorem State.grants_notify {s : State} (slot n : Nat) (h : GrantsOk s) : GrantsOk (s.notify slot n) := by
  unfold State.notify
  dsimp only
  split
  · exact h
  · split
    · exact h
    · split
      · exact h
      · refine State.grants_orWait _ _ h fun s hs => ?_
        have ht (a k : Nat) : GrantsOk (s.unitTouch a k) := State.grants_unitTouch _ _ hs
        split
        · exact State.grants_notifyQueue _ _ _ hs
        · split
          exacts [State.grants_updUq _ _ (ht _ _), ht _ _]

theorem State.grants_attach {s : State} (h : GrantsOk s) : GrantsOk s.attach := by
  refine State.grants_orWait _ _ h fun s hs => ?_
  extract_lets hc s1 s2
  have h1 : GrantsOk s1 := hs.of_same rfl
  have h2 : GrantsOk s2 := grants_foldl (fun _ _ hs => State.grants_completeHeld _ hs) _ h1
  exact grants_foldl (fun _ _ hs => State.grants_updUq _ _ hs) _ h2

theorem State.grants_dropHostLines {s : State} (h : GrantsOk s) : GrantsOk s.dropHostLines := h.of_same rfl

theorem State.grants_hostLost {s : State} (h : GrantsOk s) : GrantsOk s.hostLost := by
  unfold State.hostLost
  extract_lets s1 s2 hapol mapped hc s3 s4 s5 doomed
  have h1 : GrantsOk s1 := h.of_same rfl
  have h2 : GrantsOk s2 := grants_foldl (fun _ _ hs => State.grants_unitTouch _ _ hs) _ h1
  have h3 : GrantsOk s3 := h2.of_same rfl
  have h4 : GrantsOk s4 := grants_foldl (fun _ _ hs => State.grants_updUq _ _ hs) _ h3
  have h5 : GrantsOk s5 := State.grants_dropHostLines h4
  exact grants_ite h1 (grants_foldl (fun _ _ hs => State.grants_killFault _ _ hs) doomed h5)

theorem State.grants_svcNotify {s : State} (ctx slip : Nat) (h : GrantsOk s) : GrantsOk (s.svcNotify ctx slip) := by
  refine State.grants_mapStrands h fun t ht => ?_
  split
  exacts [ht, ht]

theorem State.grants_refuseHostWrite {s : State} (dla : Nat) (h : GrantsOk s) :
    GrantsOk (s.refuseHostWrite dla) := h.of_same rfl

theorem State.grants_lockWrite {s : State} (lock : Bool) (h : GrantsOk s) : GrantsOk (s.lockWrite lock) := by
  unfold State.lockWrite
  split
  exacts [h, h.of_same rfl]

theorem State.grants_capWrite {s : State} (cap : Nat) (h : GrantsOk s) : GrantsOk (s.capWrite cap) := h.of_same rfl

theorem State.grants_sweepOver {s : State} (h : GrantsOk s) : GrantsOk s.sweepOver := h.of_same rfl

theorem State.grants_irmStart {s : State} (fstk share : Nat) (h : GrantsOk s) : GrantsOk (s.irmStart fstk share) := by
  unfold State.irmStart
  dsimp only
  split
  · exact h.of_same rfl
  · split <;> exact h.of_same rfl

theorem State.grants_snapStart {s : State} (h : GrantsOk s) : GrantsOk s.snapStart := h.of_same rfl

theorem State.grants_kctlWrite {s : State} (n : Nat) (v : Word) (h : GrantsOk s) : GrantsOk (s.kctlWrite n v) := by
  unfold State.kctlWrite
  split
  exacts [h, h.of_same rfl]

theorem State.grants_nonceWrite {s : State} (n : Nat) (v : Word) (h : GrantsOk s) : GrantsOk (s.nonceWrite n v) := by
  unfold State.nonceWrite
  dsimp only
  split
  · exact h
  · split
    exacts [h, h.of_same rfl]

theorem State.grants_tlbRequest {s : State} (ctx : Nat) (page : Option Nat) (h : GrantsOk s) :
    GrantsOk (s.tlbRequest ctx page) :=
  h.of_same rfl

theorem grants_hostRead {s : State} (off : Nat) (h : GrantsOk s) : GrantsOk (hostRead s off).2 := by
  unfold hostRead
  repeat' split
  all_goals exact h.of_same rfl

theorem State.grants_hcmd {s : State} (op ctx : Nat) (h : GrantsOk s) : GrantsOk (s.hcmd op ctx) := by
  unfold State.hcmd
  refine grants_ite (grants_getD h fun _ => State.grants_of_cancelLaunch h) (grants_ite ?_ (grants_ite
    (grants_getD h fun _ => State.grants_of_resumeLaunch h) h))
  split
  exacts [State.grants_preemptStart _ h, h]

theorem grants_hostWrite {s : State} (off : Nat) (v : Word) (h : GrantsOk s) : GrantsOk (hostWrite s off v) := by
  have hl : GrantsOk (if v.getLsbD 0 then s.hostLost else s) := grants_ite (State.grants_hostLost h) h
  unfold hostWrite
  exact grants_ite (grants_ite (State.grants_attach hl) hl) <| grants_ite (State.grants_svcNotify _ _ h) <|
    grants_ite (h.of_same rfl) <| grants_ite (State.grants_hcmd _ _ h) h

theorem grants_memWrite {s : State} (off : Nat) (v : Word) (h : GrantsOk s) : GrantsOk (memWrite s off v) := by
  unfold memWrite
  exact grants_ite (State.grants_capWrite _ h) <| grants_ite (h.of_same rfl) <|
      grants_ite (grants_ite (State.grants_irmStart _ _ h) h) <|
    grants_ite (h.of_same rfl) <| grants_ite (grants_ite (State.grants_snapStart (h.of_same rfl)) (h.of_same rfl)) h

theorem grants_platRead {s : State} (off : Nat) (h : GrantsOk s) : GrantsOk (platRead s off).2 := by
  unfold platRead
  dsimp only
  repeat' split
  all_goals exact h.of_same rfl

theorem grants_platWrite {s : State} (off : Nat) (v : Word) (h : GrantsOk s) : GrantsOk (platWrite s off v) := by
  unfold platWrite
  exact grants_ite (h.of_same rfl) <| grants_ite (h.of_same rfl) <| grants_ite (h.of_same rfl) <|
      grants_ite (State.grants_lockWrite _ h) <|
    grants_ite (h.of_same rfl) <| grants_ite (h.of_same rfl) <| grants_ite (h.of_same rfl) h

theorem State.grants_blockRead {s : State} (via : Via) (off n : Nat) (h : GrantsOk s) :
    GrantsOk (s.blockRead via off n).2 := by
  have ite {c : Prop} [Decidable c] {a b : Word × State} (ha : GrantsOk a.2) (hb : GrantsOk b.2) :
      GrantsOk (if c then a else b).2 :=
    of_ite (fun r : Word × State => GrantsOk r.2) ha hb
  unfold State.blockRead
  exact ite h <| ite (ite h (ite h h)) <| ite h <| ite h <| ite (grants_hostRead _ h) <| ite h <| ite h <|
    ite (grants_platRead _ h) <| ite h h

theorem State.grants_blockWrite {s : State} (via : Via) (off n : Nat) (v : Word) (h : GrantsOk s) :
    GrantsOk (s.blockWrite via off n v) := by
  unfold State.blockWrite
  exact grants_ite h <| grants_ite h <| grants_ite (grants_ite (State.grants_notify _ _ h) h) <|
      grants_ite (grants_hostWrite _ _ h) <|
    grants_ite (grants_ite (State.grants_tlbRequest _ _ h) h) <| grants_ite (grants_memWrite _ _ h) <|
    grants_ite (grants_platWrite _ _ h) <| grants_ite (grants_ite (State.grants_kctlWrite _ _ h)
        (State.grants_nonceWrite _ _ h))
    ((s.coreWrite_caches _ _ _).grants h)

/-! ### Data accesses (R184, R264 to R270, R307, R310) -/

theorem State.givesGrants_placesIn {s : State} (ctx : Nat) (a : Int) (n : Nat) (acc : Acc) (h : GrantsOk s) :
    Gives (fun r => GrantsOk r.2) (s.placesIn ctx a n acc) := by
  have ht := State.grants_translate ctx (unsignedOf 55 a) n acc h
  unfold State.placesIn
  split
  · exact Gives.error _
  · split
    · next heq =>
      rw [heq] at ht
      exact Gives.ok ht
    · split <;> exact Gives.error _
    · exact Gives.error _

theorem State.givesGrants_places {s : State} (a : Int) (n : Nat) (acc : Acc) (h : GrantsOk s) :
    Gives (fun r => GrantsOk r.2) (s.places a n acc) := State.givesGrants_placesIn _ a n acc h

theorem Strand.grant_putWc {t : Strand} (vec : Bool) (bs : List WcBuf) (h : t.GrantOk) : (t.putWc vec bs).GrantOk := by
  unfold Strand.putWc
  split <;> exact h

theorem State.grants_putWc {s : State} (vec : Bool) (bs : List WcBuf) (h : GrantsOk s) :
    GrantsOk (s.onCur fun t => t.putWc vec bs) :=
  State.grants_onCur h (Strand.grant_putWc vec bs h.cur)

theorem State.grants_combine {s : State} (vec : Bool) (sp : Space) (key a : Nat) (v : Byte) (h : GrantsOk s) :
    GrantsOk (s.combine vec sp key a v) := by
  unfold State.combine
  dsimp only
  split
  · exact grants_ite (State.grants_putWc _ _ (State.grants_flushBuf _ _ _ h)) (State.grants_putWc _ _ h)
  · split
    · split
      exacts [State.grants_putWc _ _ (State.grants_flushBuf _ _ _ h), h]
    · exact State.grants_putWc _ _ h

theorem State.grants_flushCur {s : State} (scalar vector : Bool) (h : GrantsOk s) : GrantsOk (s.flushCur scalar vector) :=
  State.grants_flushWc _ _ _ (grants_ite (State.grants_landStrips _ h) h)

theorem State.bounded_releaseCur {s : State} (scalar vector : Bool) (h : GrantsOk s) :
    Bounded GrantsOk (s.releaseCur scalar vector) :=
  of_ite (Bounded GrantsOk) (State.grants_flushCur _ _ h) (State.grants_flushCur _ _ h)

theorem State.grants_touch {s : State} (vec : Bool) (p : Phys × Nat) (write : Bool) (h : GrantsOk s) :
    GrantsOk (s.touch vec p write) :=
  (s.touch_caches vec p write).grants h

theorem State.givesGrants_loadMem {s : State} (vec : Bool) (a : Int) (n : Nat) (acc : Acc) (h : GrantsOk s) :
    Gives (fun r => GrantsOk r.2) (s.loadMem vec a n acc) := by
  refine (State.givesGrants_places a n acc h).bind fun r hr => ?_
  dsimp only
  split
  · exact Gives.error _
  · exact Gives.ok (grants_foldl (fun _ p hs => State.grants_touch vec p false hs) _ hr)

theorem State.grants_storePiece {s : State} (vec : Bool) (p : Phys × Nat) (bs : List Byte) (h : GrantsOk s) :
    GrantsOk (s.storePiece vec p bs) := by
  unfold State.storePiece
  exact grants_ite (grants_foldl (fun _ _ hs => State.grants_combine _ _ _ _ _ hs) _ h)
    (State.grants_writePhys _ _ _ (State.grants_touch vec p true h))

theorem State.grants_storeList (vec : Bool) : ∀ (ps : List (Phys × Nat)) (bs : List Byte) {s : State}, GrantsOk s →
    GrantsOk (s.storeList vec ps bs)
  | [], _, _, h => h
  | p :: ps, bs, _, h => State.grants_storeList vec ps (bs.drop p.2) (State.grants_storePiece vec p _ h)

theorem State.givesGrants_storeMem {s : State} (vec : Bool) (a : Int) (n v : Nat) (acc : Acc) (h : GrantsOk s) :
    Gives GrantsOk (s.storeMem vec a n v acc) :=
  (State.givesGrants_places a n acc h).bind fun _ hr => Gives.ok (State.grants_storeList vec _ _ hr)

theorem State.grants_touchAtomic {s : State} (vec : Bool) (p : Phys × Nat) (h : GrantsOk s) :
    GrantsOk (s.touchAtomic vec p) :=
  (s.touchAtomic_caches vec p).grants h

theorem State.givesGrants_atomicMem {s : State} (vec : Bool) (a : Int) (n : Nat) (f : Nat → Option Nat) (h : GrantsOk s) :
    Gives (fun r => GrantsOk r.2) (s.atomicMem vec a n f) := by
  refine (State.givesGrants_places a n .atomic (State.grants_flushWc _ _ _ h)).bind fun r hr => ?_
  dsimp only
  split
  · exact Gives.error _
  · split
    · exact Gives.ok hr
    · have ht {p : Phys × Nat} := State.grants_touchAtomic vec p hr
      split
      exacts [Gives.ok (State.grants_writePhys _ _ _ ht), Gives.ok ht]

theorem State.grants_tablesTouch {s : State} (ps : List (Phys × Nat)) (h : GrantsOk s) : GrantsOk (s.tablesTouch ps) :=
  grants_foldl (fun s _ hs => (s.tableTouch_caches _).grants hs) ps h

theorem State.givesGrants_bareLoad {s : State} (a : Word) (n : Nat) (h : GrantsOk s) :
    Gives (fun r => GrantsOk r.2) (s.bareLoad a n) := by
  by_cases hb : blockBase ≤ a.toNat
  · obtain ⟨k, hk⟩ := State.bareLoad_of_block (s := s) n hb
    rw [hk]
    exact Gives.ok (State.grants_blockRead _ _ _ h)
  · rw [State.bareLoad, if_neg hb]
    split
    · exact Gives.error _
    · split
      · exact Gives.error _
      · split
        · exact Gives.error _
        · exact Gives.ok (grants_foldl (fun _ p hs => State.grants_touch false p false hs) _ (State.grants_tablesTouch _ h))

theorem State.givesGrants_bareStore {s : State} (a : Word) (n v : Nat) (h : GrantsOk s) :
    Gives GrantsOk (s.bareStore a n v) := by
  unfold State.bareStore
  split
  · exact Gives.ok (State.grants_blockWrite s.via (a.toNat - blockBase) n _ h)
  · split
    · exact Gives.error _
    · exact (Gives.trivial _).bind fun _ _ => Gives.ok (State.grants_storeList _ _ _ (State.grants_tablesTouch _ h))

theorem State.grants_blockAtomic {s : State} (off n : Nat) (f : Nat → Option Nat) (h : GrantsOk s) :
    GrantsOk (s.blockAtomic off n f).2 := by
  have hr := State.grants_blockRead s.via off n h
  unfold State.blockAtomic
  dsimp only
  split
  exacts [State.grants_blockWrite _ _ _ _ hr, hr]

theorem State.givesGrants_bareAtomic {s : State} (a : Word) (n : Nat) (f : Nat → Option Nat) (h : GrantsOk s) :
    Gives (fun r => GrantsOk r.2) (s.bareAtomic a n f) := by
  unfold State.bareAtomic
  split
  · exact Gives.ok (State.grants_blockAtomic (a.toNat - blockBase) n f h)
  · split
    · exact Gives.error _
    · next ps _ =>
      have ht := State.grants_tablesTouch ps h
      refine (Gives.trivial _).bind fun _ _ => ?_
      dsimp only
      split
      · exact Gives.error _
      · split
        · exact Gives.ok (State.grants_storeList _ _ _ ht)
        · exact Gives.ok (grants_foldl (fun _ p hs => State.grants_touch false p true hs) _ ht)

theorem State.givesGrants_load {s : State} (a : Word) (n : Nat) (h : GrantsOk s) :
    Gives (fun r => GrantsOk r.2) (s.load a n) :=
  of_ite (Gives _) (State.givesGrants_bareLoad _ _ h) (State.givesGrants_loadMem _ _ _ _ h)

theorem State.givesGrants_store {s : State} (a : Word) (n v : Nat) (h : GrantsOk s) : Gives GrantsOk (s.store a n v) :=
  of_ite (Gives _) (State.givesGrants_bareStore _ _ _ h) (State.givesGrants_storeMem _ _ _ _ _ h)

theorem State.givesGrants_atomic {s : State} (a : Word) (n : Nat) (f : Nat → Option Nat) (h : GrantsOk s) :
    Gives (fun r => GrantsOk r.2) (s.atomic a n f) :=
  of_ite (Gives _) (State.givesGrants_bareAtomic _ _ _ h) (State.givesGrants_atomicMem _ _ _ _ h)

theorem State.givesGrants_fetchParcel {s : State} (pc : Word) (h : GrantsOk s) :
    Gives (fun r => GrantsOk r.2) (s.fetchParcel pc) := by
  unfold State.fetchParcel
  split
  · split
    · exact Gives.ok h
    · split
      · exact Gives.error _
      · split
        · exact Gives.error _
        · split
          exacts [Gives.error _, Gives.ok (State.grants_tablesTouch _ h)]
  · refine (State.givesGrants_places _ _ _ h).bind fun r hr => ?_
    dsimp only
    split
    exacts [Gives.error _, Gives.ok hr]

theorem State.givesGrants_fetchParcels : ∀ (n : Nat) {s : State} (pc : Word), GrantsOk s →
    Gives (fun r => GrantsOk r.2) (s.fetchParcels pc n)
  | 0, _, _, h => Gives.ok h
  | n + 1, _, pc, h => (State.givesGrants_fetchParcel pc h).bind fun _ h1 =>
      (State.givesGrants_fetchParcels n (pc + 2) h1).bind fun _ h2 => Gives.ok h2

end Sys2Proof.Machine
end

section
/-! PROOFS. Grants: vector memory accesses, streams and the array. -/

namespace Sys2Proof.Machine

/-! ### Loops over answers -/

/-! ### Vector loads and stores (R139 to R147) -/

theorem State.givesGrants_vmemAccess {s : State} (v : VMem) (a : Int) (wb i : Nat) (h : GrantsOk s) :
    Gives GrantsOk (s.vmemAccess v a wb i) := by
  unfold State.vmemAccess
  split
  · exact (State.givesGrants_loadMem _ _ _ _ h).bind fun r hr => Gives.ok (hr.of_same rfl)
  · exact (State.givesGrants_storeMem _ _ _ _ _ h).bind fun r hr => Gives.ok (hr.of_same rfl)

theorem State.givesGrants_vmemElem {s : State} (v : VMem) (env : VEnv) (st : Stops) (i : Nat) (h : GrantsOk s) :
    Gives (fun r => GrantsOk r.1) (s.vmemElem v env st i) := by
  unfold State.vmemElem
  dsimp only
  split
  · exact Gives.ok h
  · split
    · next heq => exact Gives.ok (State.givesGrants_vmemAccess _ _ _ _ h _ heq)
    · exact Gives.ok h
    · exact Gives.error _

/-- Elements one after another keep the bound, whether they all are performed or the launch ends. -/
theorem State.grants_vmemGo (v : VMem) (env : VEnv) : ∀ (is : List Nat) {s : State} (st : Stops), GrantsOk s →
    match State.vmemGo v env is s st with
    | .ok r => GrantsOk r.1
    | .error e => GrantsOk e.2.1
  | [], _, _, h => h
  | i :: is, s, st, h => by
    have he := State.givesGrants_vmemElem v env st i h
    unfold State.vmemGo
    cases hr : s.vmemElem v env st i with
    | ok r => exact State.grants_vmemGo v env is r.2 (he r hr)
    | error e => exact h

theorem Strand.grant_putK {t : Strand} (kd : MReg) (w : KReg) (h : t.GrantOk) : (t.putK kd w).GrantOk := h

theorem State.grants_elemWalk {s : State} (v : VMem) (env : VEnv) (i : Nat) (h : GrantsOk s) :
    GrantsOk (s.elemWalk v env i) := by
  unfold State.elemWalk
  dsimp only
  split
  · exact State.grants_walked _ _ h
  · exact (s.faultWalk_caches _ _ _).grants h
  · exact h

theorem State.bounded_trimmed {s : State} (v : VMem) (env : VEnv) (is : List Nat) (f : Nat) (h : GrantsOk s) :
    Bounded GrantsOk (s.trimmed v env is f) := by
  have hg := State.grants_vmemGo v env (is.filter (· < f)) { pending := [], pages := [] } h
  unfold State.trimmed
  cases hr : State.vmemGo v env (is.filter (· < f)) s { pending := [], pages := [] } with
  | error e =>
    rw [hr] at hg
    exact hg
  | ok r =>
    rw [hr] at hg
    have hw := State.grants_elemWalk v env f hg
    exact State.grants_onCur hw (hw.cur)

theorem State.bounded_vmemBody {s : State} (v : VMem) (env : VEnv) (ipc : Word) (h : GrantsOk s) :
    Bounded GrantsOk (s.vmemBody v env ipc) := by
  refine (bounded_require _ _ h).bind fun _ _ => ?_
  extract_lets s1 rng
  have h1 : GrantsOk s1 := grants_ite (h.of_same rfl) h
  have hg := State.grants_vmemGo v env (s.cur.envActives env v.vm) { pending := [], pages := [] } h1
  split
  · next heq =>
    rw [heq] at hg
    exact hg.of_same rfl
  · next heq =>
    rw [heq] at hg
    exact hg
  · next heq =>
    rw [heq] at hg
    exact of_ite (Bounded GrantsOk) (hg.of_same rfl) (hg.of_same rfl)

theorem State.bounded_vmemRun {s : State} (v : VMem) (env : VEnv) (ipc : Word) (h : GrantsOk s) :
    Bounded GrantsOk (s.vmemRun v env ipc) := by
  unfold State.vmemRun
  split
  · exact of_ite (Bounded GrantsOk) (State.bounded_trimmed _ _ _ _ (h.of_same rfl)) (State.bounded_vmemBody _ _ _ h)
  · exact State.bounded_vmemBody _ _ _ h

theorem State.bounded_memOp {s : State} {env : Strand → VEnv} {body : State → VEnv → Word → Res State} (i : Instr)
    (cs : List Cls)
    (ks : List MReg) (reads writes : List Reg) (ok : Strand → Bool) (h : GrantsOk s)
    (hb : ∀ (s : State) (e : VEnv) (ipc : Word), GrantsOk s → Bounded GrantsOk (body s e ipc)) :
    Bounded GrantsOk (s.memOp i cs ks reads writes ok env body) := by
  refine (State.bounded_vectorGate cs ks h).bind fun s0 h0 => (bounded_require _ _ h0).bind fun _ _ =>
    (State.bounded_streamIn reads writes h0).bind fun s1 h1 => ?_
  extract_lets e0 e
  have hr := hb (s1.onCur (·.adv 4)) e s0.cur.pc (State.grants_onCur h1 (Strand.grant_adv 4 h1.cur))
  split
  · exact h0
  · next heq =>
    rw [heq] at hr
    exact hr
  · next heq =>
    rw [heq] at hr
    exact hr
  · next heq =>
    rw [heq] at hr
    exact State.grants_vectorDone _ (State.grants_streamOut writes hr)

theorem State.bounded_vmemHeld {s : State} (v : VMem) (hold : KReg) (h : GrantsOk s) :
    Bounded GrantsOk (s.vmemHeld v hold) :=
  State.bounded_memOp _ _ _ _ _ _ h fun _ e ipc hs => State.bounded_vmemRun v e ipc hs

theorem State.bounded_vmemOp {s : State} (v : VMem) (h : GrantsOk s) :
    Bounded GrantsOk (s.vmemOp v) := State.bounded_vmemHeld v 0 h

theorem Strand.grant_storeLocal {t : Strand} (vs3 : Reg) (base wb : Nat) (is : List Nat) (h : t.GrantOk) :
    (t.storeLocal vs3 base wb is).GrantOk :=
  Strand.grant_putLoc _ _ h

theorem State.bounded_localOp {s : State} (isLoad vm : Bool) (i : Instr) (w : Fin 4) (base vd : Reg) (h : GrantsOk s) :
    Bounded GrantsOk (s.localOp isLoad vm i w base vd) := by
  refine (State.bounded_vectorGate _ _ h).bind fun s0 h0 => (bounded_require _ _ h0).bind fun _ _ =>
    (State.bounded_streamIn _ _ h0).bind fun s1 h1 =>
      (bounded_require _ _ (State.grants_onCur h1 (Strand.grant_adv 4 h1.cur))).bind fun _ _ => ?_
  refine State.grants_vectorDone _ (State.grants_streamOut _ (State.grants_onCur h1 ?_))
  split
  exacts [h1.cur, Strand.grant_storeLocal _ _ _ _ h1.cur]

theorem State.givesGrants_maskCheck {s : State} (acc : Acc) (a : Int) (n : Nat) (h : GrantsOk s) :
    Gives GrantsOk (s.maskCheck acc a n) := by
  refine Gives.foldl (fun r j hr => Gives.bind hr fun s hs => ?_) _ (Gives.ok h)
  split
  · exact (State.givesGrants_places _ _ _ hs).map fun _ h1 => h1
  · exact (State.givesGrants_loadMem _ _ _ _ hs).map fun _ h1 => h1

theorem State.bounded_maskRun {s : State} (isLoad : Bool) (i : Instr) (k : MReg) (env : VEnv) (ipc : Word) (h : GrantsOk s) :
    Bounded GrantsOk (s.maskRun isLoad i k env ipc) := by
  unfold State.maskRun
  extract_lets n a acc entry
  split
  · exact h
  · exact h
  · exact h
  · next s' heq =>
    have h' : GrantsOk s' := State.givesGrants_maskCheck _ _ _ h s' heq
    split
    · refine (Bounded.lift h (P := fun r : Nat × State => GrantsOk r.2) ?_).bind
        fun r hr => State.grants_onCur hr (Strand.grant_putK k _ hr.cur)
      refine Gives.foldl (fun r j hr => Gives.bind hr fun p hp => ?_) _ (Gives.ok h')
      exact (State.givesGrants_loadMem _ _ _ _ hp).map fun _ h1 => h1
    · refine Bounded.lift h (Gives.foldl (fun r j hr => Gives.bind hr fun p hp => ?_) _ (Gives.ok h'))
      exact State.givesGrants_storeMem _ _ _ _ _ hp

theorem State.bounded_maskOp {s : State} (isLoad : Bool) (i : Instr) (k : MReg) (base : Reg) (h : GrantsOk s) :
    Bounded GrantsOk (s.maskOp isLoad i k base) :=
  State.bounded_memOp _ _ _ _ _ _ h fun _ e ipc hs => State.bounded_maskRun isLoad i k e ipc hs

/-! ### Streams (R152 to R163) -/

theorem State.grants_updStream {s : State} (uid : Nat) (q : QReg) (f : Stream → Stream) (h : GrantsOk s) :
    GrantsOk (s.updStream uid q f) := by
  refine State.grants_updStrand _ h fun t ht => ?_
  split
  exacts [ht, ht]

theorem State.grants_of_joinStreams {s s' : State} {p c : Strand × QReg × Stream} (h : GrantsOk s)
    (hr : s.joinStreams p c = some s') : GrantsOk s' := by
  unfold State.joinStreams at hr
  split at hr
  · exact nomatch hr
  · cases hr
    exact State.grants_updStream _ _ _ (State.grants_updStream _ _ _ h)

theorem State.grants_leaveOuts {s : State} (t : Strand) (h : GrantsOk s) : GrantsOk (s.leaveOuts t) :=
  grants_ite h (State.grants_updLaunch _ h)

theorem State.grants_of_matchProducer {s s' : State} {q : QReg} {k : Stream} (h : GrantsOk s)
    (hr : s.matchProducer q k = some s') :
    GrantsOk s' := by
  unfold State.matchProducer at hr
  dsimp only at hr
  split at hr
  · exact nomatch hr
  · split at hr
    · exact State.grants_of_joinStreams h hr
    · split at hr
      · exact nomatch hr
      · split at hr
        · exact nomatch hr
        · cases hr
          exact h

theorem State.grants_joinEnded {s : State} (q : QReg) (e : EndedOut) (h : GrantsOk s) : GrantsOk (s.joinEnded q e) :=
  State.grants_updStream _ _ _ (State.grants_updLaunch _ h)

theorem State.grants_of_matchConsumer {s s' : State} {q : QReg} {k : Stream} (h : GrantsOk s)
    (hr : s.matchConsumer q k = some s') :
    GrantsOk s' := by
  unfold State.matchConsumer at hr
  dsimp only at hr
  split at hr
  · exact nomatch hr
  · split at hr
    · split at hr
      · cases hr
        exact h
      · split at hr
        · cases hr
          exact State.grants_joinEnded _ _ h
        · exact nomatch hr
    · split at hr
      · exact State.grants_of_joinStreams h hr
      · exact nomatch hr

theorem State.givesGrants_readDesc {s : State} (a : Word) (h : GrantsOk s) :
    Gives (fun r => GrantsOk r.2) (s.readDesc a) := by
  refine Gives.foldl (fun r j hr => Gives.bind hr fun p hp => ?_) _ (Gives.ok h)
  exact (State.givesGrants_loadMem _ _ _ _ hp).map fun _ h1 => h1

theorem State.bounded_qdefOp {s : State} (q : QReg) (base : Reg) (h : GrantsOk s) :
    Bounded GrantsOk (s.qdefOp q base) := by
  refine (State.bounded_vectorGate _ _ h).bind fun s0 h0 => (bounded_require _ _ h0).bind fun _ _ =>
    (State.bounded_releaseCur _ _ h0).bind fun s1 h1 => (Bounded.lift h1
        (State.givesGrants_readDesc _ h1)).bind fun r hr => ?_
  dsimp only
  split
  · exact hr
  · have h2 : GrantsOk (r.2.onCur fun t => (t.putStream q (some (r.2.cur.streamOf r.1 r.2.streamOrder))).adv 4) :=
      State.grants_onCur hr (Strand.grant_adv 4 (Strand.grant_putStream _ _ hr.cur))
    split
    · next heq =>
      split at heq
      · exact State.grants_of_matchProducer h2 heq
      · split at heq
        · exact State.grants_of_matchConsumer h2 heq
        · exact Option.some.inj heq ▸ h2
    · exact hr

theorem State.bounded_qbindOp {s : State} (vd : Reg) (q : QReg) (h : GrantsOk s) :
    Bounded GrantsOk (s.qbindOp vd q) := by
  refine (State.bounded_vectorGate _ _ h).bind fun s0 h0 => ?_
  split
  · exact h0
  · exact (bounded_require _ _ h0).bind fun _ _ =>
      State.grants_scalarDone _ (State.grants_onCur h0 (Strand.grant_putStream _ _ h0.cur))

theorem State.bounded_qunbOp {s : State} (vd : Reg) (h : GrantsOk s) : Bounded GrantsOk (s.qunbOp vd) :=
  (State.bounded_vectorGate _ _ h).bind fun _ h0 => State.grants_scalarDone _ (h0.of_same rfl)

theorem State.bounded_qavailOp {s : State} (rd : Reg) (q : QReg) (h : GrantsOk s) :
    Bounded GrantsOk (s.qavailOp rd q) :=
  (State.bounded_vectorGate _ _ h).bind fun _ h0 =>
    State.grants_scalarDone _ (State.grants_onCur h0 (Strand.grant_putX _ _ h0.cur))

theorem State.bounded_qwaitOp {s : State} (q : QReg) (rs1 : Reg) (h : GrantsOk s) :
    Bounded GrantsOk (s.qwaitOp q rs1) := by
  refine (State.bounded_vectorGate _ _ h).bind fun s0 h0 => ?_
  split
  · exact h0
  · exact (bounded_require _ _ h0).bind fun _ _ => State.grants_scalarDone _ h0

theorem State.grants_endStream {s : State} (uid : Nat) (q : QReg) (h : GrantsOk s) : GrantsOk (s.endStream uid q) := by
  unfold State.endStream
  split
  · exact h
  · split
    · exact h
    · refine grants_ite h ?_
      split
      exacts [State.grants_updStream _ _ _ (State.grants_updStream _ _ _ h), State.grants_updStream _ _ _ h]

theorem State.bounded_qendOp {s : State} (q : QReg) (h : GrantsOk s) : Bounded GrantsOk (s.qendOp q) :=
  (State.bounded_vectorGate _ _ h).bind fun _ h0 => (bounded_require _ _ h0).bind fun _ _ =>
    State.grants_scalarDone _ (State.grants_endStream _ _ h0)

theorem State.grants_resetStream {s : State} (q : QReg) (k : Stream) (h : GrantsOk s) : GrantsOk (s.resetStream q k) := by
  unfold State.resetStream
  dsimp only
  split
  exacts [State.grants_updStream _ _ _ (h.of_same rfl), h.of_same rfl]

theorem State.bounded_qrstOp {s : State} (q : QReg) (h : GrantsOk s) : Bounded GrantsOk (s.qrstOp q) := by
  refine (State.bounded_vectorGate _ _ h).bind fun s0 h0 => ?_
  have h1 := State.grants_endStream s0.cur.uid q h0
  dsimp only
  split
  · exact State.grants_scalarDone _ h1
  · exact (bounded_require _ _ h1).bind fun _ _ => State.grants_scalarDone _ (State.grants_resetStream _ _ h1)

/-! ### Traffic of engines (R160, R168) -/

theorem State.givesGrants_engPlaces {s : State} (ctx : Nat) (a : Int) (n : Nat) (acc : Acc) (h : GrantsOk s) :
    Gives (fun r => GrantsOk r.2) (s.engPlaces ctx a n acc) := by
  unfold State.engPlaces
  split
  · next heq =>
    split
    exacts [Gives.error _, Gives.ok (State.givesGrants_placesIn _ _ _ _ h _ heq)]
  · exact Gives.error _

theorem State.givesGrants_engCheck {s : State} (ctx n : Nat) (as : List (Int × Acc)) (h : GrantsOk s) :
    Gives GrantsOk (s.engCheck ctx n as) := by
  unfold State.engCheck
  extract_lets r
  have hr : Gives (fun p => GrantsOk p.1) r := by
    refine Gives.foldl (fun r a hr => Gives.bind hr fun p hp => ?_) _ (Gives.ok h)
    dsimp only
    split
    · next heq =>
      have h1 := State.givesGrants_engPlaces _ _ _ _ hp _ heq
      exact Gives.ok (grants_ite (grants_foldl (fun _ p hs => State.grants_l2Touch p false hs) _ h1) h1)
    · exact Gives.ok hp
    · exact Gives.error _
    · exact Gives.error _
  clear_value r
  split
  · exact Gives.error _
  · exact Gives.ok (hr _ rfl)
  · exact Gives.error _

theorem State.grants_engWrite {s : State} (ctx : Nat) (a : Int) (n v : Nat) (h : GrantsOk s) :
    GrantsOk (s.engWrite ctx a n v) := by
  unfold State.engWrite
  split
  · next heq => exact State.grants_storePieces _ _ _ (State.givesGrants_engPlaces _ _ _ _ h _ heq)
  · exact h

/-- The machine that an engine's work leaves when it is done keeps the bound. -/
def EngineEnd.KeepsGrants (e : EngineEnd) : Prop := ∀ s, e = .done s → GrantsOk s

theorem EngineEnd.grants_done {s : State} (h : GrantsOk s) : (EngineEnd.done s).KeepsGrants := by
  rintro _ ⟨⟩
  exact h

end Sys2Proof.Machine
end

section
/-! PROOFS. Grants: the array, atomics and the carrier. -/

namespace Sys2Proof.Machine

/-! ### The array (R222 to R228) -/

theorem State.grants_arrayDone {s : State} (h : GrantsOk s) : GrantsOk s.arrayDone :=
  State.grants_onCur h (Strand.grant_adv 8 h.cur)

theorem State.bounded_slotGate {s : State} (slot : QReg) (h : GrantsOk s) :
    Bounded (fun r => GrantsOk r.1) (s.slotGate slot) := by
  refine (State.bounded_vectorGate _ _ h).bind fun s0 h0 => ?_
  split
  · exact h0
  · exact (bounded_require _ _ h0).bind fun _ _ => h0

theorem Strand.grant_matrixRow {t : Strand} (p : Pair) (w : Tile) (r row : Nat) (accumulate : Bool) (h : t.GrantOk) :
    (t.matrixRow p w r row accumulate).GrantOk := by
  unfold Strand.matrixRow
  exact h

theorem State.bounded_mmOp {s : State} (row : BitVec 10) (slot : QReg) (base : Reg) (rs3 : Option Reg) (accumulate : Bool)
    (h : GrantsOk s) : Bounded GrantsOk (s.mmOp row slot base rs3 accumulate) := by
  refine (State.bounded_slotGate slot h).bind fun r hr => ?_
  dsimp only
  split
  · exact hr
  · exact (bounded_require _ _ hr).bind fun _ _ => (bounded_require _ _ hr).bind fun _ _ =>
      (bounded_require _ _ hr).bind fun _ _ =>
      State.grants_arrayDone (State.grants_onCur hr (Strand.grant_matrixRow _ _ _ _ _ hr.cur))

theorem State.bounded_accGate {s : State} (rs1 : Reg) (row : BitVec 10) (n : Nat) (h : GrantsOk s) :
    Bounded GrantsOk (s.accGate rs1 row n) :=
  (State.bounded_vectorGate _ _ h).bind fun _ h0 => (bounded_require _ _ h0).bind fun _ _ =>
      (bounded_require _ _ h0).bind fun _ _ => h0

theorem State.grants_clearVstart {s : State} (h : GrantsOk s) :
    GrantsOk (s.onCur fun t => { t with vstart := 0 }) := h.of_same rfl

theorem Strand.grant_readRow {t : Strand} (vd : Reg) (r : Nat) (h : t.GrantOk) : (t.readRow vd r).GrantOk := by
  simp only [Strand.GrantOk, Strand.readRow]
  exact h

theorem State.bounded_accrdOp {s : State} (vd rs1 : Reg) (row : BitVec 10) (h : GrantsOk s) :
    Bounded GrantsOk (s.accrdOp vd rs1 row) :=
  (State.bounded_vectorGate _ _ h).bind fun _ h0 => (bounded_require _ _ h0).bind fun _ _ =>
      (bounded_require _ _ h0).bind fun _ _ =>
    (State.bounded_streamIn _ _ h0).bind fun _ h1 =>
      State.grants_clearVstart (State.grants_arrayDone (State.grants_streamOut [vd]
        (State.grants_onCur h1 (Strand.grant_readRow _ _ h1.cur))))

theorem Strand.grant_writeRow {t : Strand} (vs2 : Reg) (r : Nat) (h : t.GrantOk) : (t.writeRow vs2 r).GrantOk := by
  simp only [Strand.GrantOk, Strand.writeRow]
  exact h

theorem State.bounded_accwrOp {s : State} (rs1 : Reg) (row : BitVec 10) (vs2 : Reg) (h : GrantsOk s) :
    Bounded GrantsOk (s.accwrOp rs1 row vs2) :=
  (State.bounded_vectorGate _ _ h).bind fun _ h0 => (bounded_require _ _ h0).bind fun _ _ =>
      (bounded_require _ _ h0).bind fun _ _ =>
    State.grants_clearVstart (State.grants_arrayDone (State.grants_onCur h0 (Strand.grant_writeRow _ _ h0.cur)))

theorem State.bounded_acczOp {s : State} (rs1 : Reg) (row n : BitVec 10) (h : GrantsOk s) :
    Bounded GrantsOk (s.acczOp rs1 row n) :=
  (State.bounded_accGate _ _ _ h).bind fun _ h0 =>
    State.grants_clearVstart (State.grants_arrayDone (State.grants_onCur h0 h0.cur))

theorem State.bounded_wclrOp {s : State} (slot : QReg) (h : GrantsOk s) : Bounded GrantsOk (s.wclrOp slot) :=
  (State.bounded_slotGate slot h).bind fun r (hr : GrantsOk r.1) => State.grants_arrayDone (hr.of_same rfl)

theorem State.bounded_wdescOp {s : State} (rd : Reg) (slot : QReg) (h : GrantsOk s) :
    Bounded GrantsOk (s.wdescOp rd slot) :=
  (State.bounded_slotGate slot h).bind fun r (hr : GrantsOk r.1) =>
    State.grants_arrayDone (State.grants_onCur hr (Strand.grant_putX _ _ hr.cur))

/-! ### Scalar atomics (R56, R188) -/

theorem State.bounded_orderS {s : State} (aq rl : Bool) (h : GrantsOk s) : Bounded GrantsOk (s.orderS aq rl) :=
  of_ite (Bounded GrantsOk) (State.bounded_releaseCur _ _ h) (grants_ite (State.grants_flushCur _ _ h) h)

theorem State.bounded_lrOp {s : State} (dbl aq rl : Bool) (rd rs1 : Reg) (h : GrantsOk s) :
    Bounded GrantsOk (s.lrOp dbl aq rl rd rs1) :=
  (bounded_require _ _ h).bind fun _ _ => (State.bounded_orderS aq rl h).bind fun _ h0 =>
    (Bounded.lift h (Gives.trivial _)).bind fun _ _ => (Bounded.lift h (State.givesGrants_load _ _ h0)).bind fun _ h1 =>
      State.grants_onCur h1 (Strand.grant_putX _ _ h1.cur)

theorem State.bounded_scOp {s : State} (dbl aq rl : Bool) (rd rs1 rs2 : Reg) (h : GrantsOk s) :
    Bounded GrantsOk (s.scOp dbl aq rl rd rs1 rs2) :=
  (bounded_require _ _ h).bind fun _ _ => (State.bounded_orderS aq rl h).bind fun _ h0 =>
    (Bounded.lift h (Gives.trivial _)).bind fun _ _ => (Bounded.lift h (State.givesGrants_atomic _ _ _ h0)).bind fun _ h1 =>
      State.grants_onCur h1 (Strand.grant_putX _ _ h1.cur)

theorem State.bounded_amoOp {s : State} (op : AmoOp) (dbl aq rl : Bool) (rd rs1 rs2 : Reg) (h : GrantsOk s) :
    Bounded GrantsOk (s.amoOp op dbl aq rl rd rs1 rs2) :=
  (bounded_require _ _ h).bind fun _ _ => (State.bounded_orderS aq rl h).bind fun _ h0 =>
    (Bounded.lift h (State.givesGrants_atomic _ _ _ h0)).bind fun _ h1 =>
        State.grants_onCur h1 (Strand.grant_putX _ _ h1.cur)

/-! ### Vector atomics (R134, R194 to R199) -/

theorem Bounded.foldl {α β : Type} {P : β → Prop} {f : Res β → α → Res β} (hf : ∀ (r : Res β) (a : α), Bounded P r →
    Bounded P (f r a)) :
    ∀ (l : List α) {r : Res β}, Bounded P r → Bounded P (l.foldl f r)
  | [], _, h => h
  | a :: l, r, h => Bounded.foldl hf l (hf r a h)

theorem State.bounded_translateOne (acc : Acc) (n : Nat) (r : Res (State × Stops)) (e : Nat × Int)
    (h : Bounded (fun p : State × Stops => GrantsOk p.1) r) :
        Bounded (fun p => GrantsOk p.1) (State.translateOne acc n r e) := by
  refine h.bind fun p hp => ?_
  dsimp only
  split
  · exact hp
  · split
    · exact hp
    · split
      · next heq =>
        have h1 := State.givesGrants_places _ _ _ hp _ heq
        split <;> exact h1
      · exact hp
      · exact hp

theorem State.bounded_translateAll {s : State} (acc : Acc) (n : Nat) (es : List (Nat × Int)) (entry : BmEntry)
    (h : GrantsOk s) :
    Bounded GrantsOk (s.translateAll acc n es entry) := by
  have hr : Bounded (fun p : State × Stops => GrantsOk p.1)
      (es.foldl (State.translateOne acc n) (.ok (s, { pending := [], pages := [] }))) :=
    Bounded.foldl (fun r e hr => State.bounded_translateOne acc n r e hr) es h
  unfold State.translateAll
  split
  · next heq =>
    rw [heq] at hr
    exact of_ite (Bounded GrantsOk) hr h
  · exact h
  · exact h

theorem Strand.grant_issueTo {t : Strand} (lane : Nat) (h : t.GrantOk) : (t.issueTo lane).GrantOk := h

theorem State.bounded_amoElem (op : Fin 11) (vd : Reg) (r : Res State) (e : Nat × Int) (h : Bounded GrantsOk r) :
    Bounded GrantsOk (State.amoElem op vd r e) :=
  h.bind fun _ h0 => (Bounded.lift h0 (State.givesGrants_atomicMem _ _ _ _ h0)).bind fun _ h1 =>
      State.grants_onCur h1 (h1.cur)

/-- The rule for a step done only under a condition before the rest of an operation. -/
theorem Bounded.iteBind {α β : Type} {c : Prop} [Decidable c] {Q : α → Prop} {P : β → Prop} {x y : Res α} {f : α → Res β}
    (hx : Bounded Q x) (hy : Bounded Q y) (hf : ∀ a, Q a → Bounded P (f a)) : Bounded P (if c then x >>= f else y >>= f) :=
  of_ite (Bounded P) (hx.bind hf) (hy.bind hf)

theorem State.bounded_amoRun {s : State} (op : Fin 11) (i : Instr) (a : FAmo) (env : VEnv) (ipc : Word) (h : GrantsOk s) :
    Bounded GrantsOk (s.amoRun op i a env ipc) :=
  Bounded.iteBind (State.bounded_releaseCur _ _ h) (Bounded.ok h) fun _ h0 =>
      (State.bounded_translateAll _ _ _ _ h0).bind fun _ h1 =>
    Bounded.foldl (fun r e hr => State.bounded_amoElem op a.vd r e hr) _ (Bounded.ok (grants_ite (h1.of_same rfl) h1))

theorem State.bounded_vamoOp {s : State} (op : Fin 11) (i : Instr) (a : FAmo) (h : GrantsOk s) :
    Bounded GrantsOk (s.vamoOp op i a) :=
  State.bounded_memOp _ _ _ _ _ _ h fun _ e ipc hs => State.bounded_amoRun op i a e ipc hs

theorem State.bounded_laneAmoOp {s : State} (op : Fin 11) (a : FAmo) (h : GrantsOk s) :
    Bounded GrantsOk (s.laneAmoOp op a) := by
  refine (bounded_require _ _ h).bind fun _ _ => (bounded_require _ _ h).bind fun _ _ =>
      (bounded_require _ _ h).bind fun _ _ =>
    (Bounded.lift h (Gives.trivial _)).bind fun _ _ => (bounded_require _ _ h).bind fun _ _ =>
      Bounded.iteBind (State.bounded_releaseCur _ _ h) (Bounded.ok h) fun _ h0 =>
        (Bounded.lift h (State.givesGrants_atomicMem _ _ _ _ h0)).bind fun r (hr : GrantsOk r.2) => ?_
  exact State.grants_scalarDone _ (State.grants_onCur hr (Strand.grant_issueTo _ (Strand.grant_putX _ _ hr.cur)))

theorem State.bounded_glElem (vd : Reg) (r : Res State) (e : Nat × Int) (h : Bounded GrantsOk r) :
    Bounded GrantsOk (State.glElem vd r e) :=
  h.bind fun _ h0 => (Bounded.lift h0 (Gives.trivial _)).bind fun _ _ =>
    (Bounded.lift h0 (State.givesGrants_loadMem _ _ _ _ h0)).bind fun _ h1 => State.grants_onCur h1 (h1.cur)

theorem State.bounded_glRun {s : State} (i : Instr) (a : FLink) (env : VEnv) (ipc : Word) (h : GrantsOk s) :
    Bounded GrantsOk (s.glRun i a env ipc) :=
  (State.bounded_releaseCur _ _ h).bind fun s0 h0 => by
    have h1 : GrantsOk (s0.onCur fun t => { t with res := [], resL2 := [] }) := h0.of_same rfl
    exact (State.bounded_translateAll _ _ _ _ h1).bind fun _ h2 =>
      Bounded.foldl (fun r e hr => State.bounded_glElem a.vd r e hr) _ (Bounded.ok (grants_ite (h2.of_same rfl) h2))

theorem State.bounded_scElem (vs3 : Reg) (r : Res State) (e : Nat × Int) (h : Bounded GrantsOk r) :
    Bounded GrantsOk (State.scElem vs3 r e) :=
  h.bind fun _ h0 => (Bounded.lift h0 (Gives.trivial _)).bind fun _ _ => of_ite (Bounded GrantsOk)
    ((Bounded.lift h0 (State.givesGrants_atomicMem _ _ _ _ h0)).bind fun _ h1 => State.grants_onCur h1 (h1.cur)) h0

theorem State.bounded_scRun {s : State} (i : Instr) (a : FLink) (env : VEnv) (ipc : Word) (h : GrantsOk s) :
    Bounded GrantsOk (s.scRun i a env ipc) := by
  refine (State.bounded_releaseCur _ _ h).bind fun s0 h0 => ?_
  dsimp only
  have ht := State.bounded_translateAll .atomic (s0.cur.ew / 8) (s0.cur.atomAddrs a.vs2 env (s0.cur.envActives env a.vm))
    (s0.cur.entryOf i 0 env ipc false []) h0
  split
  · next heq =>
    rw [heq] at ht
    exact GrantsOk.of_same ht rfl
  · next s1 heq =>
    rw [heq] at ht
    have h1 : GrantsOk s1 := ht
    refine (Bounded.foldl (P := GrantsOk) (fun r e hr => State.bounded_scElem a.vd r e hr) _
        (Bounded.ok ?_)).bind fun _ h2 => ?_
    · exact h1.of_same rfl
    · exact h2.of_same rfl

theorem State.bounded_waitEval {s : State} (rel : WaitRel) (vs3 : Reg) (es : List (Nat × Int)) (h : GrantsOk s) :
    Bounded (fun r => GrantsOk r.2) (s.waitEval rel vs3 es) :=
  Bounded.foldl (P := fun r : Bool × State => GrantsOk r.2) (fun _ _ hr => hr.bind fun _ h0 =>
    (Bounded.lift h0 (State.givesGrants_loadMem _ _ _ _ h0)).bind fun _ h1 => Bounded.pure h1) es (Bounded.ok h)

theorem Strand.grant_pastWait {t : Strand} (h : t.GrantOk) : t.pastWait.GrantOk := by
  unfold Strand.pastWait
  split
  exacts [h, Strand.grant_adv 4 h]

/-- The exception of a `vwait` is taken on the machine as it found it, or as it left it. -/
theorem Bounded.mapWaitErr {α : Type} {P : α → Prop} {r : Res α} {s : State} (entry : BmEntry) (h : GrantsOk s)
    (hr : Bounded P r) :
    Bounded P (r.mapError (s.waitErr entry)) := by
  cases r with
  | ok a => exact hr
  | error e =>
    show GrantsOk (s.waitErr entry e).2
    unfold State.waitErr
    split
    exacts [h, hr, hr]

theorem State.bounded_waitOp {s : State} (rel : WaitRel) (i : Instr) (a : FWait) (h : GrantsOk s) :
    Bounded GrantsOk (s.waitOp rel i a) := by
  refine (State.bounded_vectorGate _ _ h).bind fun s0 h0 => (bounded_require _ _ h0).bind fun _ _ => ?_
  refine Bounded.iteBind (Bounded.ok h0) (State.bounded_streamIn _ _ h0) fun s1 h1 => ?_
  beta_reduce
  extract_lets s2 _ env es s3 entry
  have h2 : GrantsOk s2 := h1.of_same rfl
  have h3 : GrantsOk s3 := State.grants_onCur h2 (Strand.grant_pastWait h2.cur)
  refine Bounded.bind (Bounded.mapWaitErr entry h2 (Bounded.bind (State.bounded_translateAll _ _ es entry h3) fun _ h4 =>
    State.bounded_waitEval rel a.vs3 es h4)) fun r (hr : GrantsOk r.2) => ?_
  dsimp only
  split
  · exact (State.grants_vectorDone 0 hr).of_same rfl
  · exact State.grants_onCur hr h2.cur

/-! ### The carrier (R43 to R46, R249 to R255, R288) -/

theorem Strand.grant_carried {t : Strand} (h : t.GrantOk) : t.carried.GrantOk := (Strand.grant_drained h).of_same rfl

theorem State.grants_departWith {s : State} (uid id slot lanes : Nat) (h : GrantsOk s) :
    GrantsOk (s.departWith uid id slot lanes) := by
  unfold State.departWith State.takeLanes
  split
  · exact h
  · next t _ =>
    have h1 := State.grants_vacate t.core t.slot (State.grants_flushWc uid true true (State.grants_landStrips t h))
    exact State.grants_laneGrant _ (State.grants_updStrand _ (h1.of_same rfl) fun _ ht =>
        (Strand.grant_carried ht).of_same rfl)

theorem State.grants_depart {s : State} (uid id slot : Nat) (h : GrantsOk s) : GrantsOk (s.depart uid id slot) :=
  State.grants_departWith _ _ _ _ h

theorem State.grants_arrive {s : State} (uid : Nat) (h : GrantsOk s) : GrantsOk (s.arrive uid) := by
  refine State.grants_updStrand _ h fun t ht => ?_
  split
  exacts [ht, ht]

theorem State.grants_departOrAsk {s : State} (uid id slot : Nat) (h : GrantsOk s) :
    GrantsOk (s.departOrAsk uid id slot) := by
  unfold State.departOrAsk
  exact grants_ite (State.grants_depart _ _ _ h) (State.grants_ask _ _ h)

theorem State.grants_carry {s : State} (uid : Nat) (h : GrantsOk s) : GrantsOk (s.carry uid) := by
  unfold State.carry
  split
  · exact h
  · split
    · exact State.grants_ask _ _ h
    · split
      · split
        · exact h
        · split
          · exact State.grants_depart _ _ _ h
          · exact State.grants_updStrand _ h fun _ ht => ht
      · split
        exacts [State.grants_depart _ _ _ h, h]
      · split
        · exact h
        · split
          · exact State.grants_departWith _ _ _ _ h
          · exact State.grants_updStrand _ h fun _ ht => ht
      · exact h

theorem State.grants_laneCheck {s : State} (uid : Nat) (h : GrantsOk s) : GrantsOk (s.laneCheck uid) := by
  unfold State.laneCheck
  split
  · exact h
  · split
    · split
      · exact h
      · split
        · split
          · exact State.grants_departWith _ _ _ _ h
          · exact State.grants_updStrand _ (h.of_same rfl) fun _ ht => ht
        · exact h
    · exact h

theorem State.grants_mixEnd {s : State} (uid : Nat) (h : GrantsOk s) : GrantsOk (s.mixEnd uid) := by
  unfold State.mixEnd
  split
  · exact h
  · split
    · exact h
    · extract_lets s1 c inLaneWait stands due
      have h1 : GrantsOk s1 := State.grants_updStrand _ h fun _ ht => ht
      split
      exacts [State.grants_departOrAsk _ _ _ h1, h1]

theorem State.grants_sensor {s : State} (id : Nat) (temp : Byte) (h : GrantsOk s) : GrantsOk (s.sensor id temp) := by
  unfold State.sensor
  extract_lets s1 _ s2 one
  have h1 : GrantsOk s1 := h.of_same rfl
  have h2 : GrantsOk s2 := grants_ite (h1.of_same rfl) h1
  exact grants_ite (h2.of_same rfl) h2

theorem State.grants_displaceFrom {s : State} (id slot : Nat) (h : GrantsOk s) : GrantsOk (s.displaceFrom id slot) := by
  unfold State.displaceFrom
  split
  exacts [State.grants_ask _ _ h, h]

theorem State.grants_slotOff {s : State} (id : Nat) (h : GrantsOk s) : GrantsOk (s.slotOff id) := by
  unfold State.slotOff
  dsimp only
  split
  · split
    exacts [State.grants_displaceFrom _ _ (h.of_same rfl), h]
  · exact h

theorem State.grants_slotOn {s : State} (id : Nat) (h : GrantsOk s) : GrantsOk (s.slotOn id) := by
  unfold State.slotOn
  dsimp only
  split
  · split
    exacts [h.of_same rfl, h]
  · exact h

theorem State.grants_selftestFail {s : State} (id : Nat) (h : GrantsOk s) : GrantsOk (s.selftestFail id) := h.of_same rfl

theorem State.grants_schedTouch {s : State} (h : GrantsOk s) : GrantsOk s.schedTouch :=
  grants_foldl (fun _ _ hs => grants_ite (State.grants_tenantTouch _ hs) hs) _ h

theorem State.grants_migTimeout {s : State} (row : Instr) (uid : Nat) (h : GrantsOk s) :
    GrantsOk (s.migTimeout row uid) := by
  refine State.grants_orWait _ _ h fun s hs => ?_
  split
  · exact hs
  · have ht := State.grants_schedTouch hs
    refine grants_ite hs (grants_getD ht fun s' hr => ?_)
    obtain ⟨l, -, hl⟩ := firstSome_eq_some hr
    exact State.grants_of_preempt ht hl

theorem Strand.grant_complete {t : Strand} (h : t.GrantOk) : t.complete.GrantOk := (Strand.grant_drained h)

theorem State.bounded_gexitOp {s : State} (h : GrantsOk s) : Bounded GrantsOk s.gexitOp :=
  (State.bounded_scalarGate _ h).bind fun _ h0 => by
    have h1 := State.grants_flushCur true true h0
    exact State.grants_onCur h1 (Strand.grant_complete h1.cur)

theorem State.grants_exitStrand {s : State} (uid : Nat) (h : GrantsOk s) : GrantsOk (s.exitStrand uid) := by
  unfold State.exitStrand
  split
  · exact h
  · refine grants_ite h ?_
    extract_lets s1 s2
    have h1 : GrantsOk s1 := grants_foldl (fun _ q hs => State.grants_endStream _ q hs) _ h
    have h2 : GrantsOk s2 := by
      refine State.grants_dismiss _ ?_
      split
      exacts [State.grants_leaveOuts _ h1, h1]
    exact grants_ite h1 (grants_ite h2 (grants_ite (State.grants_retire _ _ h2) (State.grants_barrierCheck _ _ h2)))

theorem State.bounded_yldOp {s : State} (h : GrantsOk s) : Bounded GrantsOk s.yldOp :=
  (State.bounded_scalarGate _ h).bind fun _ h0 => by
    have h1 := State.grants_scalarDone 4 h0
    exact State.grants_onCur h1 (of_ite Strand.GrantOk h1.cur (h1.cur))

theorem State.bounded_migOp {s : State} (c : Cls) (h : GrantsOk s) : Bounded GrantsOk (s.migOp c) := by
  refine (State.bounded_scalarGate _ h).bind fun s0 h0 => ?_
  have h1 := State.grants_scalarDone 4 h0
  dsimp only
  split
  · exact h1
  · split
    exacts [State.grants_departOrAsk _ _ _ h1, h1]

end Sys2Proof.Machine
end

section
/-! PROOFS. Grants: engines, CSRs, scalar instructions and synchronisation. -/

namespace Sys2Proof.Machine

/-! ### Traffic of streams (R159, R160) -/

/-- An engine's work that is cut short is not done, and so leaves no machine that breaks the bound. -/
def UndoneGrants {α : Type} (r : Except EngineEnd α) : Prop := ∀ e, r = .error e → e.KeepsGrants

theorem UndoneGrants.ok {α : Type} (a : α) : UndoneGrants (.ok a) := fun _ h => nomatch h

theorem UndoneGrants.error {α : Type} {e : EngineEnd} (h : e.KeepsGrants) :
    UndoneGrants (.error e : Except EngineEnd α) := by
  rintro _ ⟨⟩
  exact h

theorem UndoneGrants.bind {α β : Type} {x : Except EngineEnd α} {f : α → Except EngineEnd β} (hx : UndoneGrants x)
    (hf : ∀ a, UndoneGrants (f a)) : UndoneGrants (x >>= f) := by
  cases x with
  | error e => exact UndoneGrants.error (hx e rfl)
  | ok a => exact hf a

theorem UndoneGrants.foldl {α β : Type} {f : Except EngineEnd β → α → Except EngineEnd β}
    (hf : ∀ (r : Except EngineEnd β) (a : α), UndoneGrants r → UndoneGrants (f r a)) :
    ∀ (l : List α) {r : Except EngineEnd β}, UndoneGrants r → UndoneGrants (l.foldl f r)
  | [], _, h => h
  | a :: l, r, h => UndoneGrants.foldl hf l (hf r a h)

theorem EngineEnd.grants_kill (cls addr acc : Nat) : (EngineEnd.kill cls addr acc).KeepsGrants := fun _ h => nomatch h
theorem EngineEnd.grants_pages (ps : List (Nat × Nat × Nat)) : (EngineEnd.pages ps).KeepsGrants := fun _ h => nomatch h
theorem EngineEnd.grants_stall : EngineEnd.stall.KeepsGrants := fun _ h => nomatch h

theorem State.undoneGrants_engCheck (s : State) (ctx n : Nat) (as : List (Int × Acc)) :
    UndoneGrants (s.engCheck ctx n as) := by
  unfold State.engCheck
  extract_lets r
  have hr : UndoneGrants r := by
    refine UndoneGrants.foldl (fun r a hr => UndoneGrants.bind hr fun p => ?_) _ (UndoneGrants.ok _)
    dsimp only
    split
    · exact UndoneGrants.ok _
    · exact UndoneGrants.ok _
    · exact UndoneGrants.error (EngineEnd.grants_kill _ _ _)
    · exact UndoneGrants.error EngineEnd.grants_stall
  clear_value r
  split
  · exact UndoneGrants.error (hr _ rfl)
  · exact UndoneGrants.ok _
  · exact UndoneGrants.error (EngineEnd.grants_pages _)

theorem State.grantsEnd_fillStream {s : State} (uid : Nat) (q : QReg) (h : GrantsOk s) :
    (s.fillStream uid q).KeepsGrants := by
  unfold State.fillStream
  split
  · exact EngineEnd.grants_done h
  · split
    · exact EngineEnd.grants_done h
    · split
      · exact EngineEnd.grants_done h
      · dsimp only
        split
        · next heq => exact State.undoneGrants_engCheck _ _ _ _ _ heq
        · next heq =>
          exact EngineEnd.grants_done (State.grants_updStrand _ (State.givesGrants_engCheck _ _ _ h _ heq) fun _ ht =>
            Strand.grant_addSlot _ _ _ ht)

theorem State.grantsEnd_drainStream {s : State} (uid : Nat) (q : QReg) (h : GrantsOk s) :
    (s.drainStream uid q).KeepsGrants := by
  unfold State.drainStream
  split
  · exact EngineEnd.grants_done h
  · split
    · exact EngineEnd.grants_done h
    · split
      · exact EngineEnd.grants_done h
      · split
        · dsimp only
          split
          · next heq => exact State.undoneGrants_engCheck _ _ _ _ _ heq
          · next heq =>
            exact EngineEnd.grants_done (State.grants_updStream _ _ _
              (grants_foldl (fun _ _ hs => State.grants_engWrite _ _ _ _ hs) _ (State.givesGrants_engCheck _ _ _ h _ heq)))
        · split
          exacts [EngineEnd.grants_done (State.grants_post _ _ _ _ _ (State.grants_updStream _ _ _ h)),
              EngineEnd.grants_done h]

/-! ### The copy engine (R164 to R168) -/

theorem State.givesGrants_engDesc {s : State} (ctx : Nat) (op : CopyOp) (h : GrantsOk s) :
    Gives (fun r => GrantsOk r.2) (s.engDesc ctx op) := by
  unfold State.engDesc
  dsimp only
  split
  · exact Gives.error _
  · next heq => exact Gives.ok (State.givesGrants_engCheck _ _ _ h _ heq)

theorem Bounded.mapError {α : Type} {P : α → Prop} {r : Res α} {f : Exc × State → Exc × State} (h : Bounded P r)
    (hf : ∀ e, GrantsOk e.2 → GrantsOk (f e).2) : Bounded P (r.mapError f) := by
  cases r with
  | ok a => exact h
  | error e => exact hf e h

theorem State.grants_updCore {s : State} (id : Nat) (f : Core → Core) (h : GrantsOk s) :
    GrantsOk (s.updCore id f) := h.of_same rfl

theorem State.bounded_acceptCopy {s : State} (op : CopyOp) (h : GrantsOk s) :
    Bounded GrantsOk (s.acceptCopy op) := by
  refine (Bounded.mapError (f := fun e => (.wait (.copy op), e.2)) (State.bounded_releaseCur _ _ h) fun _ he =>
      he).bind fun s1 h1 => ?_
  extract_lets jp
  have hjp : ∀ r : Desc × State, GrantsOk r.2 → Bounded GrantsOk (jp r) := fun r hr =>
    (bounded_require _ _ hr).bind fun _ _ => (bounded_require _ _ hr).bind fun _ _ =>
      State.grants_scalarDone 8 (GrantsOk.of_same hr rfl)
  clear_value jp
  split
  · next r heq => exact hjp r (State.givesGrants_engDesc _ _ h1 _ heq)
  · exact h1

theorem State.grants_cpMove {s : State} (c : CopyCmd) (e : CpElem) (h : GrantsOk s) : GrantsOk (State.cpMove c s e) := by
  have put : ∀ v : Nat, GrantsOk (s.updStrand c.uid fun t =>
      t.putLoc (cpSpace c.desc) ((t.loc (cpSpace c.desc)).writeNat e.loc (cpEwb c.desc) v)) := fun v =>
    State.grants_updStrand _ h fun _ ht => Strand.grant_putLoc _ _ ht
  have write : ∀ (a : Int) (v : Nat), GrantsOk (s.engWrite c.ctx a (cpEwb c.desc) v) := fun a v =>
      State.grants_engWrite _ _ _ _ h
  unfold State.cpMove
  extract_lets d n localGet localPut
  split
  · exact grants_ite (write _ _) h
  · exact put _
  · exact grants_ite (write _ _) h
  · exact h
  · split
    · exact put _
    · exact grants_ite (write _ _) h
    · exact write _ _
    · exact grants_ite (write _ _) h

theorem State.grantsEnd_runCopy {s : State} (core : Nat) (c : CopyCmd) (h : GrantsOk s) :
    (s.runCopy core c).KeepsGrants := by
  unfold State.runCopy
  extract_lets n
  split
  · next heq => exact State.undoneGrants_engCheck _ _ _ _ _ heq
  · next s0 heq =>
    have h0 : GrantsOk s0 := State.givesGrants_engCheck _ _ _ h _ heq
    extract_lets w w1 s1 s2 s3
    have h1 : GrantsOk s1 := grants_ite (State.grants_updStrand _ h0 fun _ ht => ht)
      (grants_foldl (fun _ e hs => State.grants_cpMove c e hs) _ h0)
    have h2 : GrantsOk s2 := State.grants_updStrand _ h1 fun t ht => by
      split
      exacts [ht, ht]
    have h3 : GrantsOk s3 := h2.of_same rfl
    refine EngineEnd.grants_done ?_
    split
    exacts [State.grants_post _ _ _ _ _ h3, h3]

theorem State.grants_putPopped {s : State} (b : Bool) (h : GrantsOk s) :
    GrantsOk (s.onCur fun t => { t with popped := b }) := h.of_same rfl

theorem State.bounded_copyOp {s : State} (cs : List Cls) (kind : CopyKind) (a : FCopy) (vs2 : Option Reg) (slot : QReg)
    (h : GrantsOk s) : Bounded GrantsOk (s.copyOp cs kind a vs2 slot) := by
  refine (State.bounded_scalarGate cs h).bind fun s0 h0 => (bounded_require _ _ h0).bind fun _ _ =>
    (State.bounded_replyGate _ _ h0).bind fun s1 h1 => (bounded_require _ _ h1).bind fun _ _ =>
      (bounded_require _ _ h1).bind fun _ _ => ?_
  refine Bounded.iteBind (Bounded.ok h1) (State.bounded_streamIn _ _ h1) fun s2 h2 => ?_
  exact (bounded_require _ _ (State.grants_putPopped _ h2)).bind fun _ _ =>
      State.bounded_acceptCopy _ (State.grants_putPopped _ h2)

theorem State.grants_putXDone {s : State} (r : Reg) (f : Strand → Word) (n : Nat) (h : GrantsOk s) :
    GrantsOk ((s.onCur fun t => t.putX r (f t)).scalarDone n) :=
  State.grants_scalarDone n (State.grants_onCur h (Strand.grant_putX _ _ h.cur))

/-! ### CSRs (R59 to R65) -/

theorem Strand.grant_writeVdirty {t : Strand} (w : Word) (h : t.GrantOk) : (t.writeVdirty w).GrantOk := by
  unfold Strand.writeVdirty Strand.GrantOk
  dsimp only
  exact h

theorem Strand.grant_quelanWrite {t : Strand} (n : Nat) (w : Word) (h : t.GrantOk) : (t.quelanWrite n w).GrantOk := by
  unfold Strand.quelanWrite
  split
  exacts [h, h, h, Strand.grant_writeVdirty w h, h, h]

theorem State.bounded_quelanCsrOp {s : State} (a : FCsr) (h : GrantsOk s) : Bounded GrantsOk (s.quelanCsrOp a) :=
  (State.bounded_classGate _ h).bind fun s0 h0 => by
    have h1 : GrantsOk (s0.onCur Strand.drained) := State.grants_onCur h0 (Strand.grant_drained h0.cur)
    refine (bounded_require _ _ h1).bind fun _ _ => State.grants_putXDone _ _ _ (grants_ite ?_ h1)
    exact State.grants_onCur h1 (Strand.grant_quelanWrite _ _ h1.cur)

theorem Strand.grant_fcsrWrite {t : Strand} (n : Nat) (w : Word) (h : t.GrantOk) : (t.fcsrWrite n w).GrantOk := by
  unfold Strand.fcsrWrite
  split <;> exact h

theorem State.grants_stdCsrOp {s : State} (a : FCsr) (h : GrantsOk s) : GrantsOk (s.stdCsrOp a) := by
  unfold State.stdCsrOp
  refine grants_ite (State.grants_onCur h (Strand.grant_putX _ _
      (of_ite Strand.GrantOk (Strand.grant_fcsrWrite _ _ h.cur) h.cur))) ?_
  have h1 := grants_ite (c := a.writes = true) (State.grants_putCsrs (s.csrs.write a.csr.toNat
    (csrNew a.op ((s.privRead a.csr.toNat).getD 0) (s.cur.csrSrc a))) h) h
  exact State.grants_onCur h1 (Strand.grant_putX _ _ h1.cur)

/-! ### Scalar floating point (R55, R57) -/

theorem State.bounded_fpRounded {s : State} {f : Strand → Round → Strand} (rm : Fin 8) (h : GrantsOk s)
    (hf : ∀ (t : Strand) (r : Round), t.GrantOk → (f t r).GrantOk) : Bounded GrantsOk (s.fpRounded rm f) := by
  unfold State.fpRounded
  split
  exacts [h, State.grants_onCur h (hf _ _ h.cur)]

theorem State.bounded_floadOp {s : State} (dbl : Bool) (rd rs1 : Reg) (imm : BitVec 12) (h : GrantsOk s) :
    Bounded GrantsOk (s.floadOp dbl rd rs1 imm) :=
  (Bounded.lift h (State.givesGrants_load _ _ h)).bind fun r (hr : GrantsOk r.2) => State.grants_onCur hr (hr.cur)

theorem State.bounded_fstoreOp {s : State} (dbl : Bool) (rs1 rs2 : Reg) (imm : BitVec 12) (h : GrantsOk s) :
    Bounded GrantsOk (s.fstoreOp dbl rs1 rs2 imm) := Bounded.lift h (State.givesGrants_store _ _ _ h)

theorem State.bounded_fpOp {s : State} (op : Scalar) (h : GrantsOk s) : Bounded GrantsOk (s.fpOp op) := by
  cases op with
  | fbin => exact State.bounded_fpRounded _ h fun _ _ ht => ht
  | fsqrt => exact State.bounded_fpRounded _ h fun _ _ ht => ht
  | fma => exact State.bounded_fpRounded _ h fun _ _ ht => ht
  | fcvtToInt => exact State.bounded_fpRounded _ h fun _ _ ht => (Strand.grant_putX _ _ ht)
  | fcvtFromInt => exact State.bounded_fpRounded _ h fun _ _ ht => ht
  | fcvtSD => exact State.bounded_fpRounded _ h fun _ _ ht => ht
  | fcvtDS => exact State.bounded_fpRounded _ h fun _ _ ht => ht
  | fcmp => exact State.grants_onCur h (Strand.grant_putX _ _ h.cur)
  | fclass => exact State.grants_onCur h (Strand.grant_putX _ _ h.cur)
  | fmvXF => exact State.grants_onCur h (Strand.grant_putX _ _ h.cur)
  | fsgn => exact State.grants_onCur h (h.cur)
  | fminmax => exact State.grants_onCur h (h.cur)
  | fmvFX => exact State.grants_onCur h (h.cur)
  | _ => exact h

/-! ### The scalar base (R55, R56) -/

theorem Bounded.map {α β : Type} {Q : α → Prop} {P : β → Prop} {x : Res α} {f : α → β} (hx : Bounded Q x)
    (hf : ∀ a, Q a → P (f a)) : Bounded P (x.map f) := by
  cases x with
  | error e => exact hx
  | ok a => exact hf a hx

theorem Bounded.scalarDone {r : Res State} (n : Nat) (h : Bounded GrantsOk r) :
    Bounded GrantsOk (r.map (·.scalarDone n)) :=
  Bounded.map h fun _ hs => State.grants_scalarDone n hs

theorem State.bounded_rvEffect {s : State} (n : Nat) (op : Scalar) (h : GrantsOk s) :
    Bounded GrantsOk (s.rvEffect n op) := by
  have put : ∀ (r : Reg) (f : Strand → Word), GrantsOk ((s.onCur fun t => t.putX r (f t)).scalarDone n) := fun r f =>
    State.grants_putXDone r f n h
  have fp := Bounded.scalarDone n (State.bounded_fpOp op h)
  cases op with
  | lui => exact put _ _
  | auipc => exact put _ _
  | aluI => exact put _ _
  | shI => exact put _ _
  | shIW => exact put _ _
  | alu => exact put _ _
  | aluW => exact put _ _
  | un => exact put _ _
  | jal => exact State.grants_onCur h (Strand.grant_putPc _ (Strand.grant_putX _ _ h.cur))
  | jalr => exact State.grants_onCur h (Strand.grant_putPc _ (Strand.grant_putX _ _ h.cur))
  | branch => exact State.grants_onCur h (of_ite Strand.GrantOk (Strand.grant_putPc _ h.cur) (Strand.grant_adv n h.cur))
  | load =>
    exact (Bounded.lift h (State.givesGrants_load _ _ h)).bind fun r (hr : GrantsOk r.2) =>
        State.grants_putXDone _ (fun _ => _) n hr
  | store => exact (Bounded.lift h (State.givesGrants_store _ _ _ h)).bind fun _ h1 => State.grants_scalarDone n h1
  | lr => exact Bounded.scalarDone n (State.bounded_lrOp _ _ _ _ _ h)
  | sc => exact Bounded.scalarDone n (State.bounded_scOp _ _ _ _ _ _ h)
  | amo => exact Bounded.scalarDone n (State.bounded_amoOp _ _ _ _ _ _ _ h)
  | fload => exact Bounded.scalarDone n (State.bounded_floadOp _ _ _ _ h)
  | fstore => exact Bounded.scalarDone n (State.bounded_fstoreOp _ _ _ _ h)
  | csr a => exact State.grants_scalarDone n (State.grants_stdCsrOp a h)
  | sret => exact State.bounded_sret h
  | mret => exact State.bounded_mret h
  | wfi => exact of_ite (Bounded GrantsOk) h (State.grants_scalarDone n h)
  | sfenceVma => exact State.grants_scalarDone n h
  | _ => exact fp

theorem State.bounded_rvOp {s : State} (f : Form) (op : Scalar) (h : GrantsOk s) : Bounded GrantsOk (s.rvOp f op) :=
  (bounded_require _ _ h).bind fun _ _ => (bounded_require _ _ h).bind fun _ _ => (bounded_require _ _ h).bind fun _ _ =>
    State.bounded_rvEffect _ op (State.grants_delivered h)

theorem State.bounded_fenceOp {s : State} (h : GrantsOk s) : Bounded GrantsOk s.fenceOp :=
  (State.bounded_scalarGate _ h).bind fun _ h0 => (State.bounded_releaseCur _ _ h0).bind fun _ h1 =>
      State.grants_scalarDone 4 h1

theorem State.bounded_fenceIOp {s : State} (h : GrantsOk s) : Bounded GrantsOk s.fenceIOp :=
  (State.bounded_scalarGate _ h).bind fun _ h0 => (State.bounded_releaseCur _ _ h0).bind fun _ h1 =>
      State.grants_scalarDone 4 h1

theorem State.bounded_callOp {s : State} (e : Exc) (h : GrantsOk s) : Bounded GrantsOk (s.callOp e) :=
  (State.bounded_scalarGate _ h).bind fun _ h0 => h0

/-! ### Fences, barriers and events (R187, R200 to R203) -/

theorem State.bounded_ordOp {s : State} (scope : Fin 5) (scalar vector inLane : Bool) (h : GrantsOk s) :
    Bounded GrantsOk (s.ordOp scope scalar vector inLane) :=
  (bounded_require _ _ h).bind fun _ _ => (State.bounded_releaseCur _ _ (State.grants_delivered h)).bind fun _ h1 =>
    (bounded_require _ _ h1).bind fun _ _ => State.grants_scalarDone 4 h1

theorem State.bounded_barOp {s : State} (h : GrantsOk s) : Bounded GrantsOk s.barOp :=
  (State.bounded_scalarGate _ h).bind fun _ h0 => (State.bounded_releaseCur _ _ h0).bind fun _ h1 =>
    of_ite (Bounded GrantsOk) (State.grants_scalarDone 4 h1) (State.grants_barrierCheck _ _ (h1.of_same rfl))

theorem State.bounded_phendOp {s : State} (h : GrantsOk s) : Bounded GrantsOk s.phendOp :=
  (State.bounded_scalarGate _ h).bind fun _ h0 => by
    have h1 := State.grants_flushCur false true h0
    exact (bounded_require _ _ h1).bind fun _ _ => State.grants_scalarDone 4 h1

theorem State.grants_putLatch {s : State} (h : GrantsOk s) (b : Bool) :
    GrantsOk (s.onCur fun t => { t with latch := b }) := h.of_same rfl

theorem State.bounded_wfeOp {s : State} (h : GrantsOk s) : Bounded GrantsOk s.wfeOp :=
  (State.bounded_scalarGate _ h).bind fun _ h0 => (bounded_require _ _ h0).bind fun _ _ =>
    State.grants_scalarDone 4 (State.grants_putLatch h0 false)

theorem State.bounded_targetLaunch {s : State} (w : Word) (h : GrantsOk s) :
    Bounded (fun _ => True) (s.targetLaunch w) := by
  unfold State.targetLaunch
  split
  · split
    exacts [True.intro, h]
  · exact h

theorem State.bounded_sevOp {s : State} (rs1 : Reg) (h : GrantsOk s) : Bounded GrantsOk (s.sevOp rs1) := by
  refine (State.bounded_scalarGate _ h).bind fun s0 h0 => (State.bounded_targetLaunch _ h0).bind fun _ _ =>
    State.grants_scalarDone 4 ?_
  split
  exacts [State.grants_updStrand _ h0 fun _ ht => ht, h0]

/-! ### Messages (R205, R206) -/

theorem State.bounded_sendOp {s : State} (rs1 rs2 : Reg) (ch : QReg) (h : GrantsOk s) :
    Bounded GrantsOk (s.sendOp rs1 rs2 ch) := by
  refine (State.bounded_scalarGate _ h).bind fun s0 h0 => (State.bounded_targetLaunch _ h0).bind fun _ _ =>
    (State.bounded_releaseCur _ _ h0).bind fun s1 h1 => ?_
  dsimp only
  split
  · next heq => exact State.grants_scalarDone 4 (State.grants_of_deliver h1 heq)
  · exact State.grants_scalarDone 4 (State.grants_post _ _ _ _ _ h1)
  · exact h1

theorem Strand.grant_putX2 {t : Strand} (r1 r2 : Reg) (v1 v2 : Word) (h : t.GrantOk) : ((t.putX r1 v1).putX r2 v2).GrantOk :=
  Strand.grant_putX _ _ (Strand.grant_putX _ _ h)

theorem State.bounded_recvOp {s : State} (waits : Bool) (rd : Reg) (ch : QReg) (h : GrantsOk s) :
    Bounded GrantsOk (s.recvOp waits rd ch) := by
  refine (State.bounded_scalarGate _ h).bind fun s0 h0 => (bounded_require _ _ h0).bind fun _ _ => ?_
  split
  · exact State.grants_scalarDone 4 (State.grants_onCur h0 (Strand.grant_putX2 _ _ _ _ h0.cur))
  · exact (bounded_require _ _ h0).bind fun _ _ =>
      State.grants_scalarDone 4 (State.grants_onCur h0 (Strand.grant_putX2 _ _ _ _ h0.cur))

/-! ### Freezing (R209, R211 to R213) -/

theorem State.bounded_frzOp {s : State} (rd rs1 rs2 : Reg) (h : GrantsOk s) :
    Bounded GrantsOk (s.frzOp rd rs1 rs2) := by
  refine (State.bounded_scalarGate _ h).bind fun s0 h0 => (State.bounded_releaseCur _ _ h0).bind fun s1 h1 => ?_
  split
  · exact (bounded_require _ _ h1).bind fun _ _ => State.grants_putXDone _ _ _ h1
  · exact GrantsOk.of_same h1 rfl

theorem State.bounded_thawOp {s : State} (rs1 : Reg) (ch : QReg) (h : GrantsOk s) :
    Bounded GrantsOk (s.thawOp rs1 ch) := by
  refine (State.bounded_scalarGate _ h).bind fun s0 h0 => ?_
  split
  · exact h0
  · exact (bounded_require _ _ h0).bind fun _ _ => State.grants_scalarDone 4 (State.grants_startThaw _ _ _ h0)

theorem State.bounded_thawwOp {s : State} (rs1 : Reg) (h : GrantsOk s) : Bounded GrantsOk (s.thawwOp rs1) :=
  (State.bounded_scalarGate _ h).bind fun _ h0 => (bounded_require _ _ h0).bind fun _ _ => State.grants_scalarDone 4 h0

theorem State.bounded_frzqOp {s : State} (rd rs1 : Reg) (h : GrantsOk s) : Bounded GrantsOk (s.frzqOp rd rs1) :=
  (State.bounded_scalarGate _ h).bind fun _ h0 => (bounded_require _ _ h0).bind fun _ _ => State.grants_putXDone _ _ _ h0

end Sys2Proof.Machine
end

section
/-! PROOFS. Grants: vector arithmetic, and the instructions that issue behind a fault. -/

namespace Sys2Proof.Machine

/-! ### Vector forms (R94 to R131) -/

theorem Strand.grant_mapElems {t : Strand} (is : List Nat) (vd : Reg) (w n : Nat) (f : Nat → Nat × Nat) (h : t.GrantOk) :
    (t.mapElems is vd w n f).GrantOk := h

theorem bounded_intForm {s : State} (cs : List Cls) (useD : Bool) (op : ElemOp) (vm : Bool) (vd vs2 : Reg) (srcs : List Reg)
    (b : Strand → Nat → Nat) (h : GrantsOk s) : Bounded GrantsOk (intForm cs useD op vm vd vs2 srcs b s) :=
  State.bounded_vectorOp _ _ _ _ _ h fun _ ht => Strand.grant_mapElems _ _ _ _ _ ht

theorem bounded_splatForm {s : State} (cs : List Cls) (ok : Strand → Bool) (vm : Bool) (vd : Reg) (b : Strand → Nat)
    (h : GrantsOk s) : Bounded GrantsOk (splatForm cs ok vm vd b s) :=
  State.bounded_vectorOp _ _ _ _ _ h fun _ ht => Strand.grant_mapElems _ _ _ _ _ ht

theorem bounded_mergeForm {s : State} (vd vs2 : Reg) (srcs : List Reg) (b : Strand → Nat → Nat) (h : GrantsOk s) :
    Bounded GrantsOk (mergeForm vd vs2 srcs b s) :=
  State.bounded_vectorOp _ _ _ _ _ h fun _ ht => Strand.grant_mapElems _ _ _ _ _ ht

theorem bounded_cvtForm {s : State} (ok : Strand → Bool) (fs fd : Nat) (vm : Bool) (vd vs2 : Reg)
    (f : Strand → Nat → Nat × Nat) (h : GrantsOk s) : Bounded GrantsOk (cvtForm ok fs fd vm vd vs2 f s) :=
  State.bounded_vectorOp _ _ _ _ _ h fun _ ht => Strand.grant_mapElems _ _ _ _ _ ht

theorem bounded_cmpForm {s : State} (ok : Strand → Bool) (vm : Bool) (kd : MReg) (vs2 : Reg) (srcs : List Reg)
    (f : Strand → Nat → Bool × Nat) (h : GrantsOk s) : Bounded GrantsOk (cmpForm ok vm kd vs2 srcs f s) :=
  State.bounded_vectorOp _ _ _ _ _ h fun _ ht => ht

theorem bounded_permForm {s : State} (ks : List MReg) (vd : Reg) (srcs : List Reg) (f : Strand → List (Nat × Nat))
    (h : GrantsOk s) : Bounded GrantsOk (permForm ks vd srcs f s) :=
  State.bounded_vectorOp _ _ _ _ _ h fun _ ht => ht

theorem bounded_floatForm {s : State} (rounds useD : Bool) (op : FloatOp) (vm : Bool) (vd vs2 : Reg) (srcs : List Reg)
    (b : Strand → Nat → Nat) (h : GrantsOk s) : Bounded GrantsOk (floatForm rounds useD op vm vd vs2 srcs b s) :=
  State.bounded_vectorOp _ _ _ _ _ h fun _ ht => Strand.grant_mapElems _ _ _ _ _ ht

theorem bounded_redForm {s : State} (ok : Strand → Bool) (a : FVV) (f : Strand → Nat → List (Nat × Nat) → Nat × Nat)
    (h : GrantsOk s) : Bounded GrantsOk (redForm ok a f s) :=
  State.bounded_vectorOp _ _ _ _ _ h fun _ ht => ht

theorem bounded_maskForm {s : State} (f : KReg → KReg → KReg) (kd ks2 ks1 : MReg) (h : GrantsOk s) :
    Bounded GrantsOk (maskForm f kd ks2 ks1 s) :=
  (State.bounded_vectorGate _ _ h).bind fun _ h0 => (bounded_require _ _ h0).bind fun _ _ =>
    State.grants_vectorDone 4 (State.grants_onCur h0 (Strand.grant_putK _ _ h0.cur))

theorem bounded_maskReply {s : State} (f : Strand → List Nat → Word) (rd : Reg) (ks2 : MReg) (h : GrantsOk s) :
    Bounded GrantsOk (maskReply f rd ks2 s) :=
  (State.bounded_replyGate _ _ h).bind fun _ h0 => (bounded_require _ _ h0).bind fun _ _ =>
    State.grants_vectorDone 4 (State.grants_onCur h0 (Strand.grant_pushReply _ h0.cur))

theorem bounded_moveForm {s : State} (cs : List Cls) (ok : Strand → Bool) (vs2 : Reg) (r : Strand → Nat → Reply)
    (h : GrantsOk s) : Bounded GrantsOk (moveForm cs ok vs2 r s) :=
  (State.bounded_replyGate _ _ h).bind fun _ h0 => (bounded_require _ _ h0).bind fun _ _ =>
    (State.bounded_streamIn _ _ h0).bind fun _ h1 =>
      State.grants_vectorDone 4 (State.grants_onCur h1 (Strand.grant_pushReply _ h1.cur))

/-! ### The instructions of the vector unit -/

/-- A meaning keeps the bound on grants. -/
def KeepsGrants (f : Meaning) : Prop := ∀ s, GrantsOk s → LeadsGrants (f s)

/-- Every instruction that may issue behind a fault keeps the bound. -/
theorem keepsGrants_exec_of_vecRow {i : Instr} (hi : (vecRow i).isSome) : KeepsGrants (exec i) := by
  cases i with
  | vaddVv | vsubVv | vmulVv | vmulhVv | vmulhnVv | vmaccVv | vnmsacVv | vminVv | vmaxVv | vminnVv | vmaxnVv | vandVv
    | vorVv | vxorVv | vsllVv | vsrlVv | vsraVv | vdivVv | vdivnVv | vremVv | vremnVv | vsaddVv | vsaddnVv | vssubVv
    | vssubnVv | vaddVx | vsubVx | vmulVx | vmulhVx | vmulhnVx | vmaccVx | vnmsacVx | vminVx | vmaxVx | vminnVx
    | vmaxnVx | vandVx | vorVx | vxorVx | vsllVx | vsrlVx | vsraVx | vdivVx | vdivnVx | vremVx | vremnVx | vsaddVx
    | vsaddnVx | vssubVx | vssubnVx | vrsubVx | vaddVi | vandVi | vorVi | vxorVi | vsllVi | vsrlVi | vsraVi | vsaddVi
    | vsaddnVi | vrsubVi =>
    exact fun s h => leadsGrants_finish (bounded_intForm _ _ _ _ _ _ _ _ h)
  | vfaddVv | vfsubVv | vfmulVv | vfdivVv | vfminVv | vfmaxVv | vfmaccVv | vfnmaccVv | vfmsacVv | vfnmsacVv
    | vfsgnjVv | vfsgnjnVv | vfsgnjxVv | vfsqrt | vfrece | vfrsqe | vfclass | vfaddVf | vfsubVf | vfmulVf | vfdivVf
    | vfminVf | vfmaxVf | vfmaccVf | vfnmaccVf | vfmsacVf | vfnmsacVf | vfsgnjVf | vfsgnjnVf | vfsgnjxVf | vfrsubVf
    | vfrdivVf =>
    exact fun s h => leadsGrants_finish (bounded_floatForm _ _ _ _ _ _ _ _ h)
  | vmseqVv | vmsneVv | vmsltVv | vmsltnVv | vmsleVv | vmslenVv | vmseqVx | vmsneVx | vmsltVx | vmsltnVx | vmsleVx
    | vmslenVx | vmseqVi | vmsneVi | vmsleVi | vmslenVi | vmfeqVv | vmfneVv | vmfltVv | vmfleVv | vmfordVv | vmfeqVf
    | vmfneVf | vmfltVf | vmfleVf | vmfordVf =>
    exact fun s h => leadsGrants_finish (bounded_cmpForm _ _ _ _ _ _ h)
  | vfcvtfi | vfcvtif | vfwcvt | vdqcvt | vncvti | vwcvti | vfncvt | vqcvt =>
    exact fun s h => leadsGrants_finish (bounded_cvtForm _ _ _ _ _ _ _ h)
  | vsplatVx | vsplatVi =>
    exact fun s h => leadsGrants_finish (bounded_splatForm _ _ _ _ _ h)
  | vmergeVv | vmergeVx | vmergeVi =>
    exact fun s h => leadsGrants_finish (bounded_mergeForm _ _ _ _ h)
  | vredsum | vredmax | vredmin | vredmaxn | vredminn | vredand | vredor | vfredo | vfredt | vfredmax | vfredmin
    | vfredamax =>
    exact fun s h => leadsGrants_finish (bounded_redForm _ _ _ h)
  | vslideupVx | vslideupVi | vslidednVx | vslidednVi | vpermVv | vcompress | vexpand =>
    exact fun s h => leadsGrants_finish (bounded_permForm _ _ _ _ h)
  | kand | kor | kxor | kandn | knot | kmov =>
    exact fun s h => leadsGrants_finish (bounded_maskForm _ _ _ _ h)
  | vmvxs | vmvfs =>
    exact fun s h => leadsGrants_finish (bounded_moveForm _ _ _ _ h)
  | kpop | kfirst =>
    exact fun s h => leadsGrants_finish (bounded_maskReply _ _ _ h)
  | vldl | vstl =>
    exact fun s h => leadsGrants_finish (State.bounded_localOp _ _ _ _ _ _ h)
  | cpgr | cpsc | cpt | cpf =>
    exact fun s h => leadsGrants_finish (State.bounded_copyOp _ _ _ _ _ h)
  | vld | vst | vlds | vsts | vldxO | vstxO | vldx | vstx | vldff =>
    exact fun s h => leadsGrants_finish (State.bounded_vmemOp _ h)
  | kld | kst =>
    exact fun s h => leadsGrants_finish (State.bounded_maskOp _ _ _ _ h)
  | vamoadd | vamomin | vamomax | vamominn | vamomaxn | vamoand | vamoor | vamoxor | vamoswp | vamocas | vamofadd =>
    exact fun s h => leadsGrants_finish (State.bounded_vamoOp _ _ _ h)
  | vid | vfsplat =>
    exact fun s h => leadsGrants_finish (State.bounded_vectorOp _ _ _ _ _ h fun _ ht => Strand.grant_mapElems _ _ _ _ _ ht)
  | vgl a =>
    exact fun s h => leadsGrants_finish (State.bounded_memOp _ _ _ _ _ _ h fun _ e ipc hs =>
        State.bounded_glRun (.vgl a) a e ipc hs)
  | vsc a =>
    exact fun s h => leadsGrants_finish (State.bounded_memOp _ _ _ _ _ _ h fun _ e ipc hs =>
        State.bounded_scRun (.vsc a) a e ipc hs)
  | _ => exact nomatch hi

theorem keepsGrants_of_vecRow {i : Instr} {r : VRow} {f : Meaning} (hr : vecRow i = some r) (hf : r.run = some f) :
    KeepsGrants f := by
  rw [run_vecRow hr hf]
  exact keepsGrants_exec_of_vecRow (by rw [hr]; rfl)

/-! ### Fetch, and strands in one another's place (R47, R52) -/

theorem State.givesGrants_fetchAt {s : State} (h : GrantsOk s) : Gives (fun r => GrantsOk r.2) s.fetchAt := by
  refine Gives.bind (State.givesGrants_fetchParcel _ h) fun r hr => ?_
  obtain ⟨w, s1⟩ := r
  dsimp only
  split
  · exact Gives.ok hr
  · refine Gives.bind (State.givesGrants_fetchParcels _ _ hr) fun r' hr' => ?_
    split <;> exact Gives.ok hr'

theorem State.givesGrants_fetchInstr {s : State} (h : GrantsOk s) : Gives (fun r => GrantsOk r.2) s.fetchInstr :=
  of_ite (Gives _) (Gives.ok h) (State.givesGrants_fetchAt h)

theorem State.grants_resolve {s : State} (i : Instr) (h : GrantsOk s) : GrantsOk (s.resolve i).2 := by
  unfold State.resolve
  split
  · split
    exacts [h, h.of_same rfl]
  · split <;> exact h

theorem State.grants_bring {s : State} (uid : Nat) (h : GrantsOk s) : GrantsOk (s.bring uid) := by
  unfold State.bring
  refine grants_ite h ?_
  split
  · exact h
  · next t heq =>
    refine grantsOk_of_parts (h.others t (List.mem_of_find?_eq_some heq)) (fun u hu => ?_) h.launches
    obtain ⟨v, hv, rfl⟩ := List.mem_map.mp hu
    exact of_ite Strand.GrantOk h.cur (h.others v hv)

theorem State.grants_asStrand {s : State} {f : State → State} (uid : Nat) (h : GrantsOk s) (hf : ∀ s, GrantsOk s →
    GrantsOk (f s)) :
    GrantsOk (s.asStrand uid f) :=
  State.grants_filterOthers _ (State.grants_bring _ (hf _ (State.grants_bring uid h)))

/-! ### The instructions that issue behind a fault (R276, R277) -/

theorem State.grants_of_serveStreams {s : State} {r : VRow} {ls : List Left} {p : State × Nat} (h : GrantsOk s)
    (hr : s.serveStreams r ls = some p) : GrantsOk p.1 := by
  unfold State.serveStreams at hr
  dsimp only at hr
  split at hr
  · cases hr
    exact h
  · split at hr
    · exact nomatch hr
    · have hs := State.bounded_streamIn r.reads r.writes h
      split at hr
      · next heq =>
        cases hr
        rw [heq] at hs
        exact hs
      · exact nomatch hr

theorem State.grants_of_followArith {s : State} {i : Instr} {r : VRow} {f : Meaning} {ls : List Left} {p : State × List Left}
    (h : GrantsOk s) (hf : KeepsGrants f) (hr : s.followArith i r f ls = some p) : GrantsOk p.1 := by
  unfold State.followArith at hr
  obtain ⟨⟨s1, sf⟩, hs, hr⟩ := Option.bind_eq_some_iff.mp hr
  have h1 : GrantsOk s1 := State.grants_of_serveStreams h hs
  dsimp -zeta only at hr
  extract_lets t env wait starved todo pending ready whole at hr
  obtain ⟨-, hr⟩ := Option.ite_none_left_eq_some.mp hr
  split at hr
  · next s' heq =>
    have h2 : GrantsOk s' := by
      refine hf _ ?_ _ heq
      exact h1.of_same rfl
    obtain ⟨-, hr⟩ := Option.ite_none_left_eq_some.mp hr
    split at hr
    · cases hr
      exact State.grants_streamOut _ (h2.of_same rfl)
    · cases hr
      exact grants_ite (State.grants_onCur h1 (Strand.grant_adv _ h1.cur)) (h2.of_same rfl)
  · exact nomatch hr

theorem State.grants_of_followMem {s : State} {r : VRow} {v : VMem} {ls : List Left} {p : State × List Left × Pages}
    (h : GrantsOk s) (hr : s.followMem r v ls = some p) : GrantsOk p.1 := by
  unfold State.followMem at hr
  obtain ⟨⟨s1, sf⟩, hs, hr⟩ := Option.bind_eq_some_iff.mp hr
  have h1 : GrantsOk s1 := State.grants_of_serveStreams h hs
  have hk : ∀ hold, Bounded GrantsOk ((s1.onCur Strand.unbound).vmemHeld v hold) := fun hold =>
    State.bounded_vmemHeld v hold (h1.of_same rfl)
  dsimp -zeta only at hr
  extract_lets t wait starved todo hold env known ready at hr
  obtain ⟨-, hr⟩ := Option.ite_none_left_eq_some.mp hr
  have h2 := hk (maskBits hold)
  split at hr
  · next heq =>
    rw [heq] at h2
    obtain ⟨-, hr⟩ := Option.ite_none_left_eq_some.mp hr
    cases hr
    exact State.grants_streamOut _ (GrantsOk.of_same h2 rfl)
  · next heq =>
    rw [heq] at h2
    cases hr
    exact GrantsOk.of_same (grants_ite (State.grants_onCur h1 (Strand.grant_adv 4 h1.cur)) h2) rfl
  · exact nomatch hr

theorem keepsGrants_plainScalar {i : Instr} {rs : List Reg} {f : Meaning} (hr : plainScalar i = some (rs, f)) :
    KeepsGrants f := by
  unfold plainScalar at hr
  split at hr
  · split at hr <;> cases hr <;> exact fun _ h => leadsGrants_finish (State.bounded_rvOp _ _ h)
  · exact nomatch hr

theorem State.grants_of_issueBehind {s : State} {ls : List Left} {p : State × List Left × Pages} (h : GrantsOk s)
    (hr : s.issueBehind ls = some p) : GrantsOk p.1 := by
  unfold State.issueBehind at hr
  split at hr
  · next i n s0 heq =>
    have h0 : GrantsOk s0 := State.givesGrants_fetchInstr h _ heq
    split at hr
    · next r hrow =>
      split at hr
      · exact nomatch hr
      · split at hr
        · split at hr
          · exact nomatch hr
          · exact State.grants_of_followMem h0 hr
        · next f hmem hrun =>
          obtain ⟨q, hq, rfl⟩ := Option.map_eq_some_iff.mp hr
          exact State.grants_of_followArith h0 (keepsGrants_of_vecRow hrow hrun) hq
        · exact nomatch hr
    · split at hr
      · next rs f hplain =>
        split at hr
        · exact nomatch hr
        · split at hr
          · next s' heq' =>
            split at hr
            · cases hr
              exact keepsGrants_plainScalar hplain _ h0 _ heq'
            · exact nomatch hr
          · exact nomatch hr
      · exact nomatch hr
  · exact nomatch hr

theorem State.grants_issueUpTo : ∀ (n : Nat) {s : State} (ls : List Left) (pages : Pages), GrantsOk s →
    GrantsOk (State.issueUpTo n s ls pages).1
  | 0, _, _, _, h => h
  | n + 1, s, ls, pages, h => by
    unfold State.issueUpTo
    split
    · exact h
    · next heq => exact State.grants_issueUpTo n _ _ (State.grants_of_issueBehind h heq)

theorem State.grants_stopped {s : State} (uid : Nat) (i : TrapInfo) (h : GrantsOk s) : GrantsOk (s.stopped uid i).1 := by
  unfold State.stopped
  dsimp only
  split
  · split
    · exact h
    · split
      · exact h
      · have hb := State.grants_bring uid h
        split
        · exact h
        · refine State.grants_bring _ (GrantsOk.of_same (State.grants_issueUpTo _ _ _ (s := _) ?_) rfl)
          exact GrantsOk.of_same hb rfl
  · exact h

end Sys2Proof.Machine
end

section
/-! PROOFS. Grants: traps, replay and completion events. -/

namespace Sys2Proof.Machine

/-! ### Traps and pauses (R168, R271 to R274) -/

theorem State.grants_bumpGen {s : State} (core unit : Nat) (h : GrantsOk s) : GrantsOk (s.bumpGen core unit) := h.of_same rfl

theorem State.grants_postBatch {s : State} (die lid ctx sid : Nat) (token : Word) (pages : List (Nat × Nat × Nat))
    (h : GrantsOk s) : GrantsOk (s.postBatch die lid ctx sid token pages) := State.grants_updDie _ _ h

theorem State.grants_enterBatch {s : State} (die : Nat) (h : GrantsOk s) :
    GrantsOk (s.enterBatch die) := State.grants_updDie _ _ h

theorem State.grants_killFaultIf {s : State} (c : Prop) [Decidable c] (lid cls : Nat) (h : GrantsOk s) :
    GrantsOk (if c then s.killFault lid cls else s) := grants_ite (State.grants_killFault _ _ h) h

theorem State.grants_trap {s : State} (uid : Nat) (h : GrantsOk s) : GrantsOk (s.trap uid) := by
  unfold State.trap
  split
  · exact h
  · split
    · next t i hst =>
      dsimp only
      exact State.grants_killFaultIf _ _ _ (State.grants_postBatch _ _ _ _ _ _ (State.grants_updStrand _
        (State.grants_bumpGen _ _ (State.grants_stopped uid i h)) fun _ hu => (Strand.grant_drained hu)))
    · exact h

theorem State.grants_unitFault {s : State} (core unit lid ctx sid cls addr acc : Nat) (h : GrantsOk s) :
    GrantsOk (s.unitFault core unit lid ctx sid cls addr acc) :=
  State.grants_killFault _ _ (State.grants_postBatch _ _ _ _ _ _ (State.grants_bumpGen _ _ h))

theorem State.grants_engineParks {s : State} (core lid ctx sid : Nat) (ps : List (Nat × Nat × Nat)) (h : GrantsOk s) :
    GrantsOk (s.engineParks core lid ctx sid ps) :=
  State.grants_postBatch _ _ _ _ _ _ (State.grants_updCore _ _ (State.grants_bumpGen _ _ h))

theorem State.grants_enginePause {s : State} (core : Nat) (h : GrantsOk s) : GrantsOk (s.enginePause core) := by
  unfold State.enginePause
  refine grants_ite h ?_
  split
  · exact h
  · split
    · exact State.grants_engineParks _ _ _ _ _ (State.grants_walked _ _ h)
    · exact State.grants_unitFault _ _ _ _ _ _ _ _ ((s.faultWalk_caches _ _ _).grants h)
    · exact h

/-! ### Replay (R278, R296) -/

theorem State.bounded_replayMem {s : State} (v : VMem) (e : BmEntry) (h : GrantsOk s) :
    Bounded GrantsOk (s.replayMem v e) :=
  (State.bounded_vmemRun _ _ _ h).bind fun _ h1 => State.grants_streamOut _ h1

theorem State.bounded_replayAmo {s : State} (op : Fin 11) (i : Instr) (a : FAmo) (e : BmEntry) (h : GrantsOk s) :
    Bounded GrantsOk (s.replayAmo op i a e) :=
  (State.bounded_amoRun _ _ _ _ _ h).bind fun _ h1 => State.grants_streamOut _ h1

theorem Strand.grant_putXop {t : Strand} (x : XSrc) (w : Word) (h : t.GrantOk) : (t.putXop x w).GrantOk := by
  unfold Strand.putXop
  split
  exacts [Strand.grant_setX _ _ h, h, h]

theorem Strand.grant_putBase {t : Strand} (base : Option Reg) (w : Word) (h : t.GrantOk) : (t.putBase base w).GrantOk := by
  unfold Strand.putBase
  split
  exacts [Strand.grant_setX _ _ h, h]

theorem State.bounded_replayArith {s : State} {f : Meaning} (r : VRow) (e : BmEntry) (h : GrantsOk s) (hf : KeepsGrants f) :
    Bounded GrantsOk (s.replayArith r f e) := by
  unfold State.replayArith
  extract_lets t
  split
  · next s' heq =>
    have h1 : GrantsOk s' := hf _ (State.grants_onCur h (Strand.grant_putBase _ _ (Strand.grant_putXop _ _ h.cur))) _ heq
    extract_lets s1
    have h2 : GrantsOk s1 := h1.of_same rfl
    split
    · exact State.grants_streamOut _ h2
    · split <;> exact h2
    · exact h
  · exact h

theorem State.bounded_replayInstr {s : State} (i : Instr) (e : BmEntry) (h : GrantsOk s) :
    Bounded GrantsOk (s.replayInstr i e) := by
  unfold State.replayInstr
  split
  · exact State.bounded_maskRun _ _ _ _ _ h
  · exact State.bounded_maskRun _ _ _ _ _ h
  · exact (State.bounded_glRun _ _ _ _ h).bind fun _ h1 => State.grants_streamOut _ h1
  · exact State.bounded_scRun _ _ _ _ h
  · split
    · exact State.bounded_replayAmo _ _ _ _ h
    · split
      · exact State.bounded_replayMem _ _ h
      · next hrow =>
        split
        · next hrun => exact State.bounded_replayArith _ _ h (keepsGrants_of_vecRow hrow hrun)
        · exact h
      · exact h

theorem State.grants_of_replayFrom (b : Bookmark) : ∀ (es : List BmEntry) (k : Nat) {s s' : State}, GrantsOk s →
    State.replayFrom b k es s = some s' → GrantsOk s'
  | [], _, _, _, h, hr => by
    cases hr
    exact h.of_same rfl
  | e :: es, k, s, s', h, hr => by
    unfold State.replayFrom at hr
    dsimp only at hr
    split at hr
    · exact State.grants_of_replayFrom b es _ h hr
    · next i hi =>
      split at hr
      · cases hr
        exact h.of_same rfl
      · have hk := State.bounded_replayInstr i e (s := s.onCur (·.entryIn e)) (h.of_same rfl)
        split at hr
        · next heq =>
          rw [heq] at hk
          refine State.grants_of_replayFrom b es _ ?_ hr
          exact GrantsOk.of_same hk rfl
        · next heq =>
          rw [heq] at hk
          cases hr
          exact GrantsOk.of_same hk rfl
        · next heq =>
          rw [heq] at hk
          cases hr
          exact GrantsOk.of_same hk rfl
        · exact nomatch hr

theorem State.grants_of_replay {s s' : State} {uid : Nat} {b : Bookmark} (h : GrantsOk s) (hr : s.replay uid b = some s') :
    GrantsOk s' := by
  unfold State.replay at hr
  split at hr
  · cases hr
    exact State.grants_asStrand uid h fun s hs => grants_getD hs fun s' hr => State.grants_of_replayFrom b b.entries 0 hs hr
  · exact nomatch hr

/-! ### Completion events -/

theorem EngineEnd.grants_orElse {e : EngineEnd} {s : State} (he : e.KeepsGrants) (h : GrantsOk s) :
    GrantsOk (e.orElse s) := by
  cases e with
  | done s' => exact he s' rfl
  | _ => exact h

theorem State.grants_copyComplete {s : State} (core : Nat) (h : GrantsOk s) : GrantsOk (s.copyComplete core) := by
  unfold State.copyComplete
  split
  exacts [EngineEnd.grants_orElse (State.grantsEnd_runCopy _ _ h) h, h]

theorem Bounded.of_ok {r : Res State} {s : State} (h : Bounded GrantsOk r) (he : r = .ok s) : GrantsOk s := by
  subst he
  exact h

theorem Bounded.of_error {r : Res State} {e : Exc} {s : State} (h : Bounded GrantsOk r) (he : r = .error (e, s)) :
    GrantsOk s := by
  subst he
  exact h

theorem State.grants_copyAccept {s : State} (core : Nat) (h : GrantsOk s) : GrantsOk (s.copyAccept core) := by
  unfold State.copyAccept
  refine grants_ite h ?_
  split
  · exact h
  · refine State.grants_asStrand _ h fun s hs => ?_
    split
    · next heq =>
      refine Bounded.of_ok (State.bounded_acceptCopy _ ?_) heq
      exact hs.of_same rfl
    · next heq =>
      refine State.grants_takeExc _ (Bounded.of_error (State.bounded_acceptCopy _ ?_) heq)
      exact hs.of_same rfl

theorem State.grants_performElem {s : State} (uid lane : Nat) (h : GrantsOk s) : GrantsOk (s.performElem uid lane) := by
  unfold State.performElem
  split
  · exact h
  · exact grants_ite h (State.grants_updStrand _ h fun _ ht => ht)

theorem Strand.grant_completeOne {t : Strand} (h : t.GrantOk) : t.completeOne.GrantOk := of_ite Strand.GrantOk h h

end Sys2Proof.Machine
end

section
/-! PROOFS. Grants: system instructions, service calls and collectives. -/

namespace Sys2Proof.Machine

/-! ### `bkrd`, `bkrsm` (R280 to R283) -/

theorem State.bounded_sysGate {s : State} (h : GrantsOk s) : Bounded GrantsOk s.sysGate :=
  (bounded_require _ _ h).bind fun _ _ => (bounded_require _ _ h).bind fun _ _ => State.bounded_scalarGate _ h

theorem State.bounded_bkrdOp {s : State} (rd rs1 rs2 : Reg) (h : GrantsOk s) :
    Bounded GrantsOk (s.bkrdOp rd rs1 rs2) :=
  (State.bounded_sysGate h).bind fun _ h0 => State.grants_putXDone _ _ 4 h0

theorem State.grants_of_bkrsmRun {s s' : State} {token : Word} (h : GrantsOk s) (hr : s.bkrsmRun token = some s') :
    GrantsOk s' := by
  unfold State.bkrsmRun at hr
  split at hr
  · cases hr
    exact h
  · split at hr
    · cases hr
      exact State.grants_killFault _ _ h
    · obtain ⟨-, hr⟩ := Option.ite_none_left_eq_some.mp hr
      exact State.grants_of_replay h hr
  · split at hr
    · cases hr
      exact State.grants_killFault _ _ h
    · obtain ⟨-, hr⟩ := Option.ite_none_left_eq_some.mp hr
      cases hr
      exact State.grants_updCore _ _ h

theorem State.bounded_bkrsmOp {s : State} (rs1 : Reg) (h : GrantsOk s) : Bounded GrantsOk (s.bkrsmOp rs1) := by
  refine (State.bounded_sysGate h).bind fun s0 h0 => (State.bounded_releaseCur _ _ h0).bind fun s1 h1 => ?_
  split
  · next heq => exact State.grants_scalarDone 4 (State.grants_of_bkrsmRun h1 heq)
  · exact h1

/-! ### `ccmove` (R284) -/

theorem State.givesGrants_readBlock {s : State} (a : Word) (h : GrantsOk s) :
    Gives (fun r => GrantsOk r.2) (s.readBlock a) :=
  of_ite (Gives _) (Gives.ok h) <| (State.givesGrants_load _ _ h).bind fun _ h0 =>
      (State.givesGrants_load _ _ h0).bind fun _ h1 =>
    (State.givesGrants_load _ _ h1).bind fun _ h2 => (State.givesGrants_load _ _ h2).bind fun _ h3 => Gives.ok h3

theorem State.grants_queueUp {s : State} (h : GrantsOk s) : GrantsOk s.queueUp := grants_ite (h.of_same rfl) h

theorem State.grants_ccDone {s : State} (rd : Reg) (v : Word) (h : GrantsOk s) : GrantsOk (s.ccDone rd v) :=
  State.grants_scalarDone 4 (State.grants_onCur h (Strand.grant_putX rd v h.cur))

/-- A command of `ccmove`, and the machine on which it waits, keep the bound. -/
structure CcGrants (f : CcCommand) (waits : State → CcBlock → Option (Wait × State)) : Prop where
  done : ∀ (s : State) (b : CcBlock), GrantsOk s → GrantsOk (f s b).2
  waiting : ∀ (s : State) (b : CcBlock) (p : Wait × State), GrantsOk s → waits s b = some p → GrantsOk p.2

theorem CcGrants.of_never {f : CcCommand} (hf : ∀ (s : State) (b : CcBlock), GrantsOk s → GrantsOk (f s b).2) :
    CcGrants f fun _ _ => none := ⟨hf, fun _ _ _ _ hw => nomatch hw⟩

theorem State.bounded_ccmoveOp {s : State} {f : CcCommand} {waits : State → CcBlock → Option (Wait × State)} (op : Nat)
    (rd rs1 : Reg) (h : GrantsOk s) (hf : CcGrants f waits) : Bounded GrantsOk (s.ccmoveOp op rd rs1 f waits) := by
  refine (State.bounded_sysGate h).bind fun s0 h0 => (Bounded.lift h0 (State.givesGrants_readBlock _ h0)).bind fun r hr => ?_
  obtain ⟨blk, s1⟩ := r
  dsimp only
  split
  · exact State.grants_ccDone _ _ hr
  · next b =>
    refine of_ite (Bounded GrantsOk) (State.grants_ccDone _ _ hr) ?_
    split
    · next heq => exact hf.waiting s1 b _ hr heq
    · exact State.grants_ccDone _ _ (hf.done s1 b hr)

theorem State.grants_moveParked {s : State} (t : Strand) (id slot : Nat) (h : GrantsOk s) :
    GrantsOk (s.moveParked t id slot).2 := by
  have h1 := State.grants_vacate t.core t.slot (State.grants_flushWc t.uid true true (State.grants_landStrips t h))
  unfold State.moveParked State.takeLanes
  exact State.grants_laneGrant _ (State.grants_updStrand _ (State.grants_bumpGen _ _ (State.grants_updCore _ _ h1))
    fun _ ht => (Strand.grant_carried ht).of_same rfl)

theorem grants_ccMove (s : State) (b : CcBlock) (h : GrantsOk s) : GrantsOk (ccMove s b).2 := by
  unfold ccMove
  split
  · exact h
  · split
    · split
      exacts [State.grants_moveParked _ _ _ h, h]
    · exact h

theorem grants_ccMoveWaits (s : State) (b : CcBlock) (p : Wait × State) (h : GrantsOk s) (hw : ccMoveWaits s b = some p) :
    GrantsOk p.2 := by
  unfold ccMoveWaits at hw
  obtain ⟨-, hw⟩ := Option.ite_none_left_eq_some.mp hw
  split at hw
  · obtain ⟨-, hw⟩ := Option.ite_none_left_eq_some.mp hw
    cases hw
    exact State.grants_queueUp h
  · exact nomatch hw

theorem grants_ccWriteBookmark (s : State) (b : CcBlock) (h : GrantsOk s) : GrantsOk (ccWriteBookmark s b).2 := by
  unfold ccWriteBookmark
  split
  · split
    exacts [State.grants_updStrand _ h fun _ ht => ht, h]
  · exact h

theorem grants_ccKill (s : State) (b : CcBlock) (h : GrantsOk s) : GrantsOk (ccKill s b).2 := by
  unfold ccKill
  split
  · exact h
  · split
    exacts [State.grants_killFault _ _ h, h]

theorem grants_ccCancel (s : State) (b : CcBlock) (h : GrantsOk s) : GrantsOk (ccCancel s b).2 := by
  unfold ccCancel
  split
  · exact h
  · split
    · next heq => exact State.grants_of_cancelLaunch h heq
    · exact h

theorem grants_ccPreempt (s : State) (b : CcBlock) (h : GrantsOk s) : GrantsOk (ccPreempt s b).2 := by
  unfold ccPreempt
  split
  · exact h
  · split
    · exact h
    · split
      · next heq => exact State.grants_of_preempt h heq
      · exact h

theorem grants_ccPreemptWaits (s : State) (b : CcBlock) (p : Wait × State) (h : GrantsOk s)
    (hw : ccPreemptWaits s b = some p) :
    GrantsOk p.2 := by
  obtain ⟨-, hw⟩ := Option.ite_none_right_eq_some.mp hw
  cases hw
  exact h

theorem grants_ccResume (s : State) (b : CcBlock) (h : GrantsOk s) : GrantsOk (ccResume s b).2 := by
  unfold ccResume
  split
  · exact h
  · split
    · next heq => exact State.grants_of_resumeLaunch h heq
    · exact h

theorem grants_ccPost (s : State) (b : CcBlock) (h : GrantsOk s) : GrantsOk (ccPost s b).2 := by
  have h1 := State.grants_flushCur true false h
  unfold ccPost
  dsimp only
  split
  · exact h1
  · split
    · exact h1
    · split
      · exact h1
      · split
        · next heq => exact State.grants_of_deliver h1 heq
        · exact h1
        · exact h1

theorem grants_ccPostWaits (s : State) (b : CcBlock) (p : Wait × State) (h : GrantsOk s) (hw : ccPostWaits s b = some p) :
    GrantsOk p.2 := by
  unfold ccPostWaits at hw
  split at hw
  · next heq =>
    cases hw
    exact Bounded.of_error (State.bounded_releaseCur true false h) heq
  · exact nomatch hw

/-! ### `frqpop`, `latw`, `thrset` (R285 to R287) -/

theorem State.givesGrants_storeWords :
    ∀ (ws : List Nat) {s : State} (a : Word), GrantsOk s → Gives GrantsOk (s.storeWords a ws)
  | [], _, _, h => Gives.ok h
  | _ :: ws, _, _, h => (State.givesGrants_store _ _ _ h).bind fun _ h1 => State.givesGrants_storeWords ws _ h1

theorem State.bounded_frqpopOp {s : State} (rd rs1 : Reg) (h : GrantsOk s) :
    Bounded GrantsOk (s.frqpopOp rd rs1) := by
  refine (State.bounded_sysGate h).bind fun s0 h0 => (bounded_require _ _ h0).bind fun _ _ => ?_
  dsimp only
  split
  · exact State.grants_putXDone _ _ 4 h0
  · exact (Bounded.lift h0 (State.givesGrants_storeWords _ _ h0)).bind fun _ h1 =>
      State.grants_putXDone _ _ 4 (State.grants_updDie _ _ h1)

theorem Strand.grant_zeroVector {t : Strand} (h : t.GrantOk) : t.zeroVector.GrantOk := h

/-- A slot holds at most the four lane groups of its core. -/
theorem Core.length_lanesOf_le (c : Core) (slot : Nat) : (c.lanesOf slot).length ≤ 4 :=
  (List.length_filter_le _ _).trans_eq List.length_range

theorem State.grants_syncGrant {s : State} (id slot : Nat) (h : GrantsOk s) : GrantsOk (s.syncGrant id slot) :=
  State.grants_mapStrands h fun _ ht => of_ite Strand.GrantOk ⟨Core.length_lanesOf_le _ _, ht.2⟩ ht

theorem State.grants_latWrite {s : State} (id p : Nat) (new : Option Nat) (h : GrantsOk s) :
    GrantsOk (s.latWrite id p new) := by
  unfold State.latWrite
  dsimp only
  refine grants_ite (State.grants_laneGrant _ ?_) h
  have h1 : GrantsOk ((((s.core id).lat.getD p none).toList ++ new.toList).foldl (fun s sl => s.syncGrant id sl)
      (s.updCore id fun c => { c with lat := listSet c.lat p new })) :=
    grants_foldl (fun _ _ hs => State.grants_syncGrant _ _ hs) _ (State.grants_updCore _ _ h)
  split
  exacts [State.grants_mapStrands h1 fun _ ht => of_ite Strand.GrantOk (Strand.grant_zeroVector ht) ht, h1]

theorem State.bounded_latwOp {s : State} (rs1 rs2 : Reg) (h : GrantsOk s) : Bounded GrantsOk (s.latwOp rs1 rs2) :=
  (State.bounded_sysGate h).bind fun _ h0 => State.grants_scalarDone 4 (grants_ite h0 (State.grants_latWrite _ _ _ h0))

theorem State.bounded_thrsetOp {s : State} (rs1 rs2 : Reg) (h : GrantsOk s) :
    Bounded GrantsOk (s.thrsetOp rs1 rs2) :=
  (State.bounded_sysGate h).bind fun _ h0 => State.grants_scalarDone 4 (grants_ite h0 (State.grants_updDie _ _ h0))

/-! ### Service calls (R319, R320) -/

theorem State.grants_putPosted {s : State} (b : Bool) (h : GrantsOk s) :
    GrantsOk (s.onCur fun t => { t with posted := b }) := h.of_same rfl

theorem State.bounded_syscAnswer {s : State} (rd : Reg) (h : GrantsOk s) : Bounded GrantsOk (s.syscAnswer rd) := by
  unfold State.syscAnswer
  split
  · exact State.grants_putPosted false h
  · refine (Bounded.lift h (State.givesGrants_load _ _ h)).bind fun r hr => (bounded_require _ _ hr).bind fun _ _ =>
      (Bounded.lift hr (State.givesGrants_load _ _ hr)).bind fun r' hr' =>
        (Bounded.lift hr' (State.givesGrants_store _ _ _ hr')).bind fun s1 h1 => State.grants_scalarDone 4 ?_
    exact State.grants_onCur h1 (Strand.grant_putX _ _ h1.cur)

theorem State.givesGrants_syscPost {s : State} (a svc : Word) (h : GrantsOk s) : Gives GrantsOk (s.syscPost a svc) :=
  (State.givesGrants_store _ _ _ h).bind fun _ h0 => (State.givesGrants_storeWords _ _ h0).bind fun _ h1 =>
      State.givesGrants_store _ _ _ h1

theorem State.bounded_syscOp {s : State} (blocks : Bool) (rd rs1 : Reg) (h : GrantsOk s) :
    Bounded GrantsOk (s.syscOp blocks rd rs1) := by
  refine (State.bounded_scalarGate _ h).bind fun s0 h0 => (bounded_require _ _ h0).bind fun _ _ => ?_
  extract_lets s1
  have h1 : GrantsOk s1 := State.grants_unitTouch _ _ h0
  refine of_ite (Bounded GrantsOk) (State.grants_launchFault _ _ _ _ h1)
      (of_ite (Bounded GrantsOk) (State.bounded_syscAnswer rd h1) ?_)
  split
  · exact (bounded_require _ _ h1).bind fun _ _ => State.grants_putXDone _ _ 4 h1
  · next i _ =>
    extract_lets s2 a
    have h2 : GrantsOk s2 := h1.of_same rfl
    refine (Bounded.lift h2 (State.givesGrants_load _ _ h2)).bind fun r hr => of_ite (Bounded GrantsOk)
      ((bounded_require _ _ hr).bind fun _ _ => State.grants_putXDone _ _ 4 hr) ?_
    exact (State.bounded_releaseCur _ _ hr).bind fun s3 h3 =>
        (Bounded.lift h3 (State.givesGrants_syscPost _ _ h3)).bind fun s4 h4 =>
      of_ite (Bounded GrantsOk) (GrantsOk.of_same h4 rfl) (State.grants_putXDone _ _ 4 h4)

/-! ### Collectives (R321, R322) -/

theorem State.grants_commTouch {s : State} (ctx : Nat) (d : List Nat) (h : GrantsOk s) : GrantsOk (s.commTouch ctx d) :=
  grants_ite (State.grants_unitTouch _ _ (State.grants_unitTouch _ _ h)) (State.grants_unitTouch _ _ h)

theorem State.givesGrants_loadWords :
    ∀ (n : Nat) {s : State} (a : Word), GrantsOk s → Gives (fun r => GrantsOk r.2) (s.loadWords a n)
  | 0, _, _, h => Gives.ok h
  | n + 1, _, _, h => (State.givesGrants_load _ _ h).bind fun _ h1 =>
      (State.givesGrants_loadWords n _ h1).bind fun _ h2 => Gives.ok h2

theorem State.bounded_acceptColl {s : State} (addr : Word) (ch : QReg) (rd : Reg) (h : GrantsOk s) :
    Bounded GrantsOk (s.acceptColl addr ch rd) := by
  refine (Bounded.lift h (State.givesGrants_loadWords _ _ h)).bind fun r hr => (bounded_require _ _ hr).bind fun _ _ => ?_
  extract_lets s1
  have h1 : GrantsOk s1 := grants_ite (State.grants_commTouch _ _ hr) hr
  refine of_ite (Bounded GrantsOk) (State.grants_launchFault _ _ _ _ h1) ?_
  split
  · exact State.grants_putXDone _ _ 8 h1
  · exact State.grants_putXDone _ _ 8 (State.grants_updDie _ _ h1)

theorem State.bounded_cpostOp {s : State} (rd rs1 : Reg) (ch : QReg) (h : GrantsOk s) :
    Bounded GrantsOk (s.cpostOp rd rs1 ch) :=
  (State.bounded_scalarGate _ h).bind fun _ h0 => (bounded_require _ _ h0).bind fun _ _ =>
    (State.bounded_releaseCur _ _ h0).bind fun _ h1 => (bounded_require _ _ h1).bind fun _ _ =>
        State.bounded_acceptColl _ _ _ h1

theorem State.grants_collAccept {s : State} (die : Nat) (h : GrantsOk s) : GrantsOk (s.collAccept die) := by
  unfold State.collAccept
  refine grants_ite h ?_
  split
  · exact h
  · refine State.grants_asStrand _ h fun s hs => ?_
    split
    · next heq =>
      refine Bounded.of_ok (State.bounded_acceptColl _ _ _ ?_) heq
      exact hs.of_same rfl
    · next heq =>
      refine State.grants_takeExc _ (Bounded.of_error (State.bounded_acceptColl _ _ _ ?_) heq)
      exact hs.of_same rfl

theorem State.givesGrants_collJudge {s : State} (c : CollCmd) (h : GrantsOk s) : Gives GrantsOk (s.collJudge c) :=
  of_ite (Gives GrantsOk) (Gives.error _) (State.givesGrants_engCheck _ _ _ h)

theorem State.undoneGrants_collJudge (s : State) (c : CollCmd) : UndoneGrants (s.collJudge c) :=
  of_ite UndoneGrants (UndoneGrants.error (EngineEnd.grants_kill _ _ _)) (State.undoneGrants_engCheck _ _ _ _)

theorem State.grants_collWrite {s : State} (c : CollCmd) (bs : List Byte) (h : GrantsOk s) : GrantsOk (s.collWrite c bs) :=
  grants_foldl (fun _ _ hs => State.grants_engWrite _ _ _ _ hs) _ h

theorem State.grants_linkLost {s : State} (port : Nat) (h : GrantsOk s) : GrantsOk (s.linkLost port) :=
  State.grants_updDie _ _ (State.grants_updDie _ _ h)

theorem State.grantsEnd_runColl {s : State} (die : Nat) (c : CollCmd) (r : CollResult) (h : GrantsOk s) :
    (s.runColl die c r).KeepsGrants := by
  unfold State.runColl
  split
  · next heq => exact State.undoneGrants_collJudge _ _ _ heq
  · next s1 heq =>
    have h1 : GrantsOk s1 := State.givesGrants_collJudge c h _ heq
    have h2 : GrantsOk (if c.stat r = 0 then (c.result (r.ranks.set c.rank (s1.collSource c)), s1)
        else s1.collFree c.dstBytes).2 := of_ite (fun p : List Byte × State => GrantsOk p.2) h1 (h1.of_same rfl)
    exact EngineEnd.grants_done (State.grants_post _ _ _ _ _ (State.grants_updDie _ _ (State.grants_collWrite _ _ h2)))

theorem State.grants_collComplete {s : State} (die : Nat) (r : CollResult) (h : GrantsOk s) :
    GrantsOk (s.collComplete die r) := by
  unfold State.collComplete
  dsimp only
  split
  · refine grants_ite h ?_
    split
    · next heq => exact State.grantsEnd_runColl _ _ _ h _ heq
    · exact h
    · exact State.grants_engineParks _ _ _ _ _ (State.grants_walked _ _ h)
    · exact State.grants_unitFault _ _ _ _ _ _ _ _ ((s.faultWalk_caches _ _ _).grants h)
  · exact h

/-! ### The freeze point (R209) -/

theorem State.grants_killDying {s : State} (uid : Nat) (h : GrantsOk s) : GrantsOk (s.killDying uid) := by
  unfold State.killDying
  split
  · exact h
  · split
    exacts [State.grants_kill _ _ _ h, h]

end Sys2Proof.Machine
end

section
/-! PROOFS. Grants: coherence, host accesses and vector configuration. -/

namespace Sys2Proof.Machine

/-! ### The host and peers at device memory (R210, R211, R307) -/

theorem State.grants_addHolder {s : State} (page holder : Nat) (h : GrantsOk s) :
    GrantsOk (s.addHolder page holder) := h.of_same rfl

theorem State.grants_hostAnswer {s : State} (r : Option (List Byte)) (h : GrantsOk s) :
    GrantsOk (s.hostAnswer r) := h.of_same rfl

theorem State.grants_hostWait {s : State} (a n : Nat) (w : Option (List Byte)) (h : GrantsOk s) :
    GrantsOk (s.hostWait a n w) :=
  h.of_same rfl

theorem State.grants_tableTouch {s : State} (a : Nat) (h : GrantsOk s) :
    GrantsOk (s.tableTouch a) := (s.tableTouch_caches a).grants h

theorem State.grants_hostAsked {s : State} (a : Nat) (h : GrantsOk s) : GrantsOk (s.hostAsked a) :=
  grants_ite ((s.tableAsked_caches a).grants h) h

theorem State.grants_dirArrive {s : State} (r : CohReq) (h : GrantsOk s) :
    GrantsOk (s.dirArrive r) := (s.dirArrive_caches r).grants h

theorem State.grants_hostLoad {s : State} (a n : Nat) (h : GrantsOk s) : GrantsOk (s.hostLoad a n) := by
  unfold State.hostLoad
  refine grants_ite h ?_
  split
  · exact grants_ite (State.grants_hostWait _ _ _ h) (State.grants_hostAnswer _ (State.grants_hostAsked a h))
  · refine grants_ite (State.grants_hostWait _ _ _ h) ?_
    have h1 : ∀ r, GrantsOk ((s.tableTouch a).hostAnswer r) := fun r =>
        State.grants_hostAnswer r (State.grants_tableTouch a h)
    exact grants_ite (h1 _) (grants_ite (State.grants_addHolder _ _ (h1 _)) (State.grants_dirArrive _ (h1 _)))

theorem State.grants_hostPut {s : State} (p : Phys) (bs : List Byte) (h : GrantsOk s) : GrantsOk (s.hostPut p bs) :=
  State.grants_dirArrive _ (State.grants_writePhys _ _ _ (State.grants_tableTouch _ h))

theorem State.grants_hostStore {s : State} (a : Nat) (bs : List Byte) (h : GrantsOk s) : GrantsOk (s.hostStore a bs) := by
  unfold State.hostStore
  refine grants_ite h ?_
  split
  · exact grants_ite (State.grants_hostWait _ _ _ h)
      (grants_ite (State.grants_refuseHostWrite _ (State.grants_hostAsked a h)) h)
  · split
    · exact State.grants_refuseHostWrite _ h
    · exact State.grants_hostWait _ _ _ h
    · exact grants_ite (State.grants_hostWait _ _ _ h) (State.grants_hostPut _ _ h)

theorem State.grants_hostRetry {s : State} (h : GrantsOk s) : GrantsOk s.hostRetry := by
  refine grants_foldl (fun s r hs => ?_) _ (h.of_same rfl)
  split
  exacts [State.grants_hostStore _ _ hs, State.grants_hostLoad _ _ hs]

theorem State.grants_peerLoad {s : State} (peer a : Nat) (h : GrantsOk s) : GrantsOk (s.peerLoad peer a) :=
  grants_ite (State.grants_addHolder _ _ h) h

/-! ### Requests in flight during a sweep (R303) -/

theorem State.grants_strandFault {s : State} (t : Strand) (cls acc addr : Nat) (h : GrantsOk s) :
    GrantsOk (s.strandFault t cls acc addr) :=
  grants_ite (State.grants_killFault _ _ h) (State.grants_updStrand _ h fun _ ht => ht)

theorem State.grants_requestFault {s : State} (r : MemReq) (cls : Nat) (h : GrantsOk s) :
    GrantsOk (s.requestFault r cls) := by
  unfold State.requestFault
  refine grants_ite (grants_ite h (State.grants_killFault _ _ h))
    (grants_ite (grants_ite (State.grants_refuseHostWrite _ h) (State.grants_hostAnswer _ h)) ?_)
  extract_lets acc ctx
  split
  · split
    · exact State.grants_unitFault _ _ _ _ _ _ _ _ h
    · exact grants_ite (State.grants_strandFault _ _ _ _ h) (State.grants_unitFault _ _ _ _ _ _ _ _ h)
  · split
    exacts [State.grants_unitFault _ _ _ _ _ _ _ _ h, State.grants_killFault _ _ h]

theorem State.grants_countCe {s : State} (r : MemReq) (h : GrantsOk s) :
    GrantsOk (s.countCe r) := grants_ite (h.of_same rfl) h

theorem State.grants_stall {s : State} (r : MemReq) (h : GrantsOk s) :
    GrantsOk { s with coh := { s.coh with stalled := s.coh.stalled ++ [r] } } := h.of_same rfl

theorem State.grants_backDone {s : State} (r : MemReq) (bs : List Byte) (vec : Bool) (h : GrantsOk s) :
    GrantsOk (s.backDone r bs vec) :=
  grants_ite (State.grants_stall r h) (State.grants_writePhys _ _ _ (State.grants_countCe r h))

theorem State.grants_requestDone {s : State} (r : MemReq) (h : GrantsOk s) : GrantsOk (s.requestDone r) := by
  unfold State.requestDone
  split
  · exact State.grants_l2Touch _ _ (State.grants_countCe r h)
  · exact State.grants_backDone _ _ _ h
  · split
    · exact State.grants_requestFault _ _ h
    · exact State.grants_stall r h
    · exact State.grants_writePhys _ _ _ (State.grants_l2Touch _ _ (State.grants_countCe r h))

theorem State.grants_memArrive {s : State} (r : MemReq) (h : GrantsOk s) : GrantsOk (s.memArrive r) :=
  grants_ite h (grants_ite (State.grants_requestFault _ _ h) (grants_ite (State.grants_stall r h)
    (grants_ite (h.of_same rfl) (State.grants_requestDone r h))))

theorem State.grants_memRetry {s : State} (h : GrantsOk s) : GrantsOk s.memRetry :=
  grants_foldl (fun _ _ hs => State.grants_memArrive _ hs) _ (h.of_same rfl)

theorem State.grants_unhold {s : State} (h : GrantsOk s) :
    GrantsOk s.unhold := State.grants_hostRetry (State.grants_memRetry h)

/-! ### Acknowledgements, contexts and page locks (R211, R214, R290) -/

theorem State.grants_dropAcks {s : State} (p : Nat × Nat → Bool) (h : GrantsOk s) : GrantsOk (s.dropAcks p) := h.of_same rfl

theorem State.grants_peerLate {s : State} (peer : Nat) (h : GrantsOk s) :
    GrantsOk (s.peerLate peer) := grants_ite (h.of_same rfl) h

theorem State.grants_hostLate {s : State} (h : GrantsOk s) : GrantsOk s.hostLate := grants_ite (h.of_same rfl) h

theorem State.grants_collectionEnd {s : State} (idx : Nat) (h : GrantsOk s) : GrantsOk (s.collectionEnd idx) := by
  unfold State.collectionEnd
  split
  exacts [grants_ite (State.grants_unhold (State.grants_endCollection _ h)) h, h]

theorem State.grants_destroyContext {s : State} (ctx : Nat) (h : GrantsOk s) : GrantsOk (s.destroyContext ctx) := by
  unfold State.destroyContext
  refine grants_ite h ?_
  have h1 : GrantsOk ((s.cat.entries.filter fun e => e.ctx == ctx && !e.thawing).foldl (fun s e =>
      s.startThaw e 0 none) s) :=
    grants_foldl (fun _ _ hs => State.grants_startThaw _ _ _ hs) _ h
  exact grants_ite h1 (h1.of_same rfl)

theorem State.grants_pageLock {s : State} (page : Nat) (byHost : Bool) (target : Nat) (h : GrantsOk s) :
    GrantsOk (s.pageLock page byHost target) := by
  unfold State.pageLock
  split
  exacts [h.of_same rfl, grants_ite (State.grants_unhold (h.of_same rfl)) h]

theorem State.grants_tlbComplete {s : State} (h : GrantsOk s) : GrantsOk s.tlbComplete := by
  unfold State.tlbComplete
  split
  · exact h
  · have h1 : GrantsOk (s.strands.foldl (fun s t => s.flushWc t.uid true true) s) :=
      grants_foldl (fun _ _ hs => State.grants_flushWc _ _ _ hs) _ h
    exact grants_ite h1 (GrantsOk.of_same (State.grants_mapStrands h1 (f := Strand.performAll) fun _ ht => ht) rfl)

theorem State.grants_dropLine {s : State} (sp : Space) (line : Nat) (core : Option Nat) (h : GrantsOk s) :
    GrantsOk (s.dropLine sp line core) := grants_ite (h.of_same rfl) h

theorem State.grants_ownerTakes {s : State} (sp : Space) (line : Nat) (h : GrantsOk s) : GrantsOk (s.ownerTakes sp line) :=
  grants_ite h ((State.dirSync_caches _ _ _ _).grants (State.grants_dropLine _ _ _ h))

/-! ### Configuration and lane threads (R34 to R38, R114 to R116, R132, R135) -/

theorem Strand.grant_released {t : Strand} (h : t.GrantOk) : t.released.GrantOk :=
  of_ite Strand.GrantOk h ⟨Nat.zero_le _, h.2⟩

theorem State.bounded_vsetOp {s : State} (r : VsetReq) (h : GrantsOk s) : Bounded GrantsOk (s.vsetOp r) := by
  refine (State.bounded_scalarGate _ h).bind fun s0 h0 => ?_
  extract_lets s1
  have h1 : GrantsOk s1 := grants_ite h0 (State.grants_onCur h0 (Strand.grant_drained h0.cur))
  split
  · next s' t heq =>
    obtain ⟨h2, ht⟩ := State.grants_of_vset h1 h1.cur heq
    exact State.grants_laneGrant _ (State.grants_onCur h2 (f := fun _ => t.adv 4) (Strand.grant_adv 4 ht))
  · exact h1

theorem State.grants_freeLanes {s : State} (t : Strand) (h : GrantsOk s) : GrantsOk (s.freeLanes t) :=
  grants_ite (State.grants_updCore _ _ h) h

theorem State.bounded_vrelOp {s : State} (h : GrantsOk s) : Bounded GrantsOk s.vrelOp :=
  (State.bounded_scalarGate _ h).bind fun s0 h0 => by
    have h1 := State.grants_freeLanes s0.cur (State.grants_onCur h0 (Strand.grant_drained h0.cur))
    exact State.grants_laneGrant _ (State.grants_onCur h1 (Strand.grant_adv 4 (Strand.grant_released h1.cur)))

theorem State.bounded_lforkOp {s : State} (vm : Bool) (h : GrantsOk s) : Bounded GrantsOk (s.lforkOp vm) :=
  (State.bounded_vectorGate _ _ h).bind fun s0 h0 => by
    have h1 : GrantsOk (s0.onCur Strand.drained) := State.grants_onCur h0 (Strand.grant_drained h0.cur)
    exact (bounded_require _ _ h1).bind fun _ _ => GrantsOk.of_same h1 rfl

theorem Strand.grant_joinLane {t : Strand} (f : Fork) (h : t.GrantOk) : (t.joinLane f).GrantOk := by
  unfold Strand.joinLane
  exact of_ite Strand.GrantOk h h

theorem State.bounded_ljoinOp {s : State} (h : GrantsOk s) : Bounded GrantsOk s.ljoinOp := by
  unfold State.ljoinOp
  split
  · exact State.grants_onCur h (Strand.grant_joinLane _ h.cur)
  · exact (State.bounded_classGate _ h).bind fun _ h0 => h0

end Sys2Proof.Machine
end

section
/-! PROOFS. Grants: the launch unit, the scheduler and the platform. -/

namespace Sys2Proof.Machine

/-! ### Acceptance (R239, R241, R250) -/

theorem firstFail_eq_none : ∀ {l : List (Bool × Nat)}, firstFail l = none → ∀ p ∈ l, p.1 = true
  | (true, _) :: _, h => List.forall_mem_cons.mpr ⟨rfl, firstFail_eq_none h⟩
  | [], _ => fun _ hp => absurd hp List.not_mem_nil

/-- The stages of an accepted record are those of R27: none asks for more than four lane groups (R239). -/
theorem State.stages_of_recordFault {s : State} {ctx addr : Nat} {bs : List Byte} {device : Bool}
    (h : s.recordFault ctx addr bs device = none) : ∀ g ∈ (parseRec bs).stages, g.l ≤ 4 := by
  intro g hg
  have hstages := firstFail_eq_none h _ (List.mem_append_left _
      (List.mem_append_left _ (.tail _ (.tail _ (.tail _ (.head _))))))
  simp only [LaunchRec.stagesOk, Bool.and_eq_true, List.all_eq_true] at hstages
  obtain ⟨-, hall⟩ := hstages
  obtain ⟨⟨hclass, -⟩, -⟩ := hall g hg
  simp only [StageRec.classOk, Bool.and_eq_true] at hclass
  obtain ⟨⟨⟨-, hl⟩, -⟩, -⟩ := hclass
  split at hl <;> simp at hl <;> omega

theorem State.grants_makeLaunch {s : State} (ctx addr : Nat) {bs : List Byte} (entry : Option (Nat × Nat))
    (issuer : Option (Nat × Nat × QReg)) (h : GrantsOk s) (hl : ∀ g ∈ (parseRec bs).stages, g.l ≤ 4) :
    GrantsOk (s.makeLaunch ctx addr bs entry issuer).2 := by
  unfold State.makeLaunch
  extract_lets r lid text l s1 _ s2
  have h1 : GrantsOk s1 := State.grants_touchRange _ _ _ h
  have hstages : l.StagesOk := hl
  clear_value l
  have h2 : GrantsOk s2 := State.grants_addLaunch (lid + 1) h1 hstages
  exact grants_ite (State.grants_endLaunch _ _ _ _ h2) (State.grants_releaseReady _ (State.grants_bumpLstate _ h2))

theorem State.grants_recordRead {s : State} (ctx : Nat) (addr : Word) (h : GrantsOk s) :
    GrantsOk (s.recordRead ctx addr) := by
  unfold State.recordRead
  split
  · exact h
  · extract_lets t
    have h1 : GrantsOk t := State.grants_touchVirt _ _ _ h
    split
    exacts [State.grants_walked _ _ h1, h1]

theorem State.grants_of_accept {s : State} {ctx : Nat} {addr : Word} {entry : Option (Nat × Nat)}
    {issuer : Option (Nat × Nat × QReg)} {p : Nat × State} (h : GrantsOk s) (hr : s.accept ctx addr entry issuer = .ok p) :
    GrantsOk p.2 := by
  unfold State.accept at hr
  split at hr
  · exact nomatch hr
  · split at hr
    · exact nomatch hr
    · split at hr
      · exact nomatch hr
      · next hfault =>
        cases hr
        exact State.grants_makeLaunch _ _ _ _ h (State.stages_of_recordFault hfault)

theorem State.bounded_lnchOp {s : State} (rd rs1 : Reg) (ch : QReg) (h : GrantsOk s) :
    Bounded GrantsOk (s.lnchOp rd rs1 ch) := by
  refine (State.bounded_scalarGate _ h).bind fun s0 h0 => (bounded_require _ _ h0).bind fun _ _ =>
    (State.bounded_releaseCur _ _ h0).bind fun s1 h1 => (bounded_require _ _ h1).bind fun _ _ => ?_
  have h2 := State.grants_recordRead s1.cur.ctx (s0.cur.getX rs1) h1
  dsimp only
  split
  · next heq => exact State.grants_putXDone _ _ 8 (State.grants_of_accept h2 heq)
  · exact State.grants_putXDone _ _ 8 h2

/-! ### Queue entries and code objects (R234 to R237) -/

theorem State.grants_fetchEntry {s : State} (uq : Nat) (h : GrantsOk s) : GrantsOk (s.fetchEntry uq) := by
  have h1 := State.grants_completeHeld uq h
  unfold State.fetchEntry
  extract_lets s1
  split
  · exact h1
  · refine grants_ite h1 ?_
    extract_lets seq p bs ok s2
    have h2 : GrantsOk s2 := State.grants_updUq _ _ (State.grants_unitTouch _ _ (State.grants_l2Touch _ _ h1))
    exact grants_ite h1 (grants_ite (h2.of_same rfl) (State.grants_completeEntry _ _ _ _ _ h2))

theorem State.grants_acceptEntry {s : State} (uq seq : Nat) (h : GrantsOk s) : GrantsOk (s.acceptEntry uq seq) := by
  unfold State.acceptEntry
  split
  · exact h
  · next e _ =>
    refine grants_ite h ?_
    have h1 := State.grants_recordRead (s.uqCtx uq) e.addr h
    dsimp only
    split
    · next heq =>
      refine State.grants_of_accept ?_ heq
      exact GrantsOk.of_same h1 rfl
    · exact State.grants_completeEntry _ _ _ _ _ h1

theorem State.grants_objectRead {s : State} (ctx a : Nat) (h : GrantsOk s) : GrantsOk (s.objectRead ctx a) := by
  have h1 := State.grants_touchRange ctx a 64 h
  unfold State.objectRead
  dsimp only
  split
  · exact h1
  · refine grants_ite h1 ?_
    have h2 := fun m b n => State.grants_touchRange ctx b n (State.grants_touchRange ctx (a + rb m 0x10 8)
        (256 * rb m 6 2) h1)
    split
    exacts [h2 _ _ _, State.grants_walked _ _ (h2 _ _ _)]

theorem State.grants_registerObject {s : State} (uq seq : Nat) (h : GrantsOk s) : GrantsOk (s.registerObject uq seq) := by
  unfold State.registerObject
  split
  · exact h
  · next e _ =>
    refine grants_ite h ?_
    have h1 := State.grants_objectRead (s.uqCtx uq) e.addr.toNat h
    dsimp only
    split
    exacts [State.grants_completeEntry _ _ _ _ _ h1, State.grants_completeEntry _ _ _ _ _ (GrantsOk.of_same h1 rfl)]

theorem State.grants_unregisterObject {s : State} (uq seq : Nat) (h : GrantsOk s) :
    GrantsOk (s.unregisterObject uq seq) := by
  unfold State.unregisterObject
  split
  · exact h
  · dsimp only
    split
    · exact State.grants_completeEntry _ _ _ _ _ h
    · exact grants_ite (State.grants_completeEntry _ _ _ _ _ h) (State.grants_completeEntry _ _ _ _ _ (h.of_same rfl))

/-! ### Mapping of queues (R235, R263) -/

theorem State.grants_mapQueue {s : State} (uq slot : Nat) (h : GrantsOk s) : GrantsOk (s.mapQueue uq slot) := by
  unfold State.mapQueue
  split
  · exact h
  · next u _ =>
    refine grants_ite h (grants_ite h ?_)
    extract_lets s1 u1 s2 s3
    have h2 : GrantsOk s2 := State.grants_updUq _ _ (State.grants_putQslot _ (State.grants_unitTouch _ _ h))
    exact grants_ite (State.grants_notifyQueue _ _ _ (State.grants_updUq _ _ h2)) h2

theorem State.grants_knownQueue {s : State} (a : Arg) (h : GrantsOk s) : GrantsOk (s.knownQueue a) :=
  grants_ite h (GrantsOk.of_same (State.grants_unitTouch a.addr 64 h) rfl)

theorem State.grants_queueMap {s : State} (a : Arg) (h : GrantsOk s) : GrantsOk (s.queueMap a) :=
  State.grants_orWait _ _ h fun _ hs => State.grants_mapQueue _ _ (State.grants_knownQueue a hs)

theorem State.grants_unmapSlot {s : State} (slot : Nat) (h : GrantsOk s) : GrantsOk (s.unmapSlot slot) :=
  grants_ite (State.grants_putQslot _ h) h

theorem State.grants_pendScan {s : State} (h : GrantsOk s) : GrantsOk s.pendScan := by
  refine State.grants_orWait _ _ h fun s hs => ?_
  have h1 : GrantsOk (s.lu.uqs.foldl (fun s q => if s.uqMapped q.uq then s else s.unitTouch q.recAddr 64) s) :=
    grants_foldl (fun _ _ hs => grants_ite hs (State.grants_unitTouch _ _ hs)) _ hs
  dsimp only
  split
  exacts [State.grants_mapQueue _ _ h1, h1]

/-! ### Messages on their way (R30, R205, R207) -/

theorem State.grants_overflow {s : State} (lid : Nat) (h : GrantsOk s) : GrantsOk (s.overflow lid) := by
  unfold State.overflow
  split
  · exact h
  · split
    · exact h
    · dsimp only
      split
      · exact State.grants_updStrand _ (State.grants_updLaunch _ h) fun _ ht => ht
      · exact State.grants_updLaunch _ h

theorem State.grants_overflowAll (lid : Nat) : ∀ (n : Nat) {s : State}, GrantsOk s → GrantsOk (s.overflowAll lid n)
  | 0, _, h => h
  | n + 1, _, h => State.grants_overflowAll lid n (State.grants_overflow lid h)

theorem State.grants_arrival {s : State} (h : GrantsOk s) : GrantsOk s.arrival := by
  unfold State.arrival
  split
  · exact h
  · next m rest _ =>
    extract_lets s1
    have h1 : GrantsOk s1 := h.of_same rfl
    split
    · exact h1
    · refine grants_ite h1 ?_
      split
      · next heq => exact State.grants_of_deliver h1 heq
      · exact h1
      · exact State.grants_killFault _ _ h1

/-! ### Dispatch and pre-emption (R243 to R247, R257) -/

theorem State.grants_dispatch {s : State} {l : Launch} (die g : Nat) (h : GrantsOk s) (hl : l.StagesOk) :
    GrantsOk (s.dispatch l die g) := by
  unfold State.dispatch
  split
  · exact h
  · next s1 heq =>
    exact State.grants_overflowAll _ _ (GrantsOk.of_same
      (State.grants_updLaunch l.lid (f := fun l => l.take g) (State.grants_of_placeGroup h hl heq)) rfl)

theorem State.grants_level7 {s : State} (l : Launch) (h : GrantsOk s) : GrantsOk (s.level7 l) := by
  unfold State.level7
  refine grants_ite ?_ h
  split
  · refine grants_ite h ?_
    split
    exacts [grants_getD h fun _ hr => State.grants_of_preempt h hr, h]
  · exact h

theorem State.grants_decideDispatch {s : State} (die : Nat) (h : GrantsOk s) : GrantsOk (s.decideDispatch die) := by
  unfold State.decideDispatch
  refine grants_ite h ?_
  extract_lets s1 s2 cs
  have h1 : GrantsOk s1 := State.grants_mapLaunches (State.grants_schedTouch h) fun l => by split <;> rfl
  have h2 : GrantsOk s2 := grants_foldl (fun _ l hs => State.grants_level7 l hs) _ h1
  split
  · next l g rest heq =>
    refine State.grants_dispatch _ _ h2 (h2.launches l ?_)
    have hmem : (l, g) ∈ cs := (mem_sortBy _ _ _).mp (heq ▸ List.mem_cons_self)
    obtain ⟨k, hk, hc⟩ := List.mem_filterMap.mp hmem
    obtain ⟨n, -, he⟩ := Option.map_eq_some_iff.mp hc
    cases he
    exact hk
  · exact h2

/-! ### Save and resumption (R258 to R262) -/

theorem State.grants_writeImage {s : State} (t : Strand) (h : GrantsOk s) : GrantsOk (s.writeImage t) :=
  State.grants_updStrand _ (State.grants_storeUnit _ _ _ (State.grants_unitTouch _ _ h)) fun _ ht => ht

theorem State.grants_saveStrand {s : State} (uid : Nat) (h : GrantsOk s) : GrantsOk (s.saveStrand uid) := by
  unfold State.saveStrand
  split
  · exact h
  · exact State.grants_laneGrant _ (State.grants_updStrand _ (State.grants_vacate _ _ (State.grants_writeImage _
      (State.grants_flushWc _ _ _ h))) fun _ ht => (Strand.grant_carried ht).of_same rfl)

theorem State.grants_save {s : State} (lid : Nat) (h : GrantsOk s) : GrantsOk (s.save lid) := by
  unfold State.save
  split
  · exact h
  · refine grants_ite h ?_
    split
    · split
      · exact State.grants_killFault _ _ h
      · next heq => exact State.grants_bumpLstate _ (State.grants_updLaunch _ (State.grants_of_writeScoreboard h heq))
    · split
      exacts [State.grants_saveStrand _ h, h]

theorem State.grants_of_restoreOn {s s' : State} {t : Strand} {die : Nat} {cls : Cls} (h : GrantsOk s)
    (hr : s.restoreOn t die cls = some s') : GrantsOk s' := by
  unfold State.restoreOn State.takeLanes at hr
  split at hr
  · exact nomatch hr
  · cases hr
    exact State.grants_updStrand _ (State.grants_updCore _ _ h) fun _ ht => ht

theorem State.grants_of_mem_restoreAll (die : Nat) :
    ∀ (ts : List Strand) {s s' : State}, GrantsOk s → s' ∈ s.restoreAll die ts →
    GrantsOk s'
  | [], _, _, h, hm => List.mem_singleton.mp hm ▸ h
  | t :: ts, _, _, h, hm => by
    obtain ⟨s1, hs1, hm⟩ := List.mem_flatMap.mp hm
    obtain ⟨c, -, hc⟩ := List.mem_filterMap.mp hs1
    exact State.grants_of_mem_restoreAll die ts (State.grants_of_restoreOn h hc) hm

theorem State.grants_replayOrWait {s : State} (t : Strand) (h : GrantsOk s) : GrantsOk (s.replayOrWait t) := by
  unfold State.replayOrWait
  split
  · exact grants_getD (State.grants_updStrand _ h fun _ ht => ht) fun _ hr => State.grants_of_replay h hr
  · exact h

theorem State.grants_replayWaiting {s : State} (lid : Nat) (h : GrantsOk s) : GrantsOk (s.replayWaiting lid) :=
  grants_foldl (fun _ _ hs => grants_getD hs fun _ hr => State.grants_of_replay hs hr) _ h

theorem State.grants_of_placeSaved {s s' : State} {lid : Nat} (h : GrantsOk s) (hr : s.placeSaved lid = some s') :
    GrantsOk s' := by
  unfold State.placeSaved at hr
  split at hr
  · dsimp only at hr
    split at hr
    · obtain ⟨s1, hs1, rfl⟩ := Option.map_eq_some_iff.mp hr
      exact grants_foldl (fun _ t hs => State.grants_replayOrWait t hs) _
        (State.grants_of_mem_restoreAll _ _ h (List.mem_of_mem_head? hs1))
    · exact nomatch hr
  · exact nomatch hr

theorem State.grants_placeNextSaved {s : State} (lid : Nat) (h : GrantsOk s) : GrantsOk (s.placeNextSaved lid) := by
  unfold State.placeNextSaved
  split
  · refine grants_ite ?_ h
    have h1 := State.grants_replayWaiting lid h
    dsimp only
    split
    · next heq => exact State.grants_overflowAll _ _ (State.grants_of_placeSaved h1 heq)
    · exact h1
  · exact h

theorem State.grants_resume {s : State} (lid : Nat) (h : GrantsOk s) : GrantsOk (s.resume lid) := by
  unfold State.resume
  split
  exacts [h, grants_ite (State.grants_bumpLstate _ (State.grants_updLaunch _ h)) h]

theorem State.grants_aging {s : State} (lid : Nat) (h : GrantsOk s) : GrantsOk (s.aging lid) :=
  State.grants_updLaunch _ h fun l => by split <;> rfl

theorem State.grants_dieReserve {s : State} (lid : Nat) (h : GrantsOk s) : GrantsOk (s.dieReserve lid) := by
  refine State.grants_orWait _ _ h fun s hs => ?_
  have h1 := State.grants_schedTouch hs
  dsimp only
  split
  · exact h1
  · split
    exacts [grants_ite (State.grants_updLaunch _ h1) h1, h1]

/-! ### The platform (R171, R299 to R304, R309, R324 to R327) -/

theorem State.grants_hRead {s : State} (off : Nat) (h : GrantsOk s) : GrantsOk (s.hRead off) :=
  State.grants_hostAnswer _ (State.grants_blockRead _ _ _ h)

theorem State.grants_splitNow {s : State} (id : Nat) (h : GrantsOk s) : GrantsOk (s.splitNow id) :=
  grants_ite (grants_foldl (fun s l hs => (s.writeBack_caches l).grants hs) _ (State.grants_updCore _ _ h)) h

theorem State.grants_carryDir {s : State} (old : State) (h : GrantsOk s) : GrantsOk (s.carryDir old) :=
  grants_foldl (fun _ _ hs => (State.dirSync_caches _ _ _ _).grants hs) _ h

theorem State.grants_sweep {s : State} (h : GrantsOk s) : GrantsOk s.sweep := by
  unfold State.sweep
  extract_lets m p err
  exact grants_ite h (grants_ite (State.grants_unhold (State.grants_carryDir s (State.grants_sweepOver (h.of_same rfl))))
    (State.grants_unhold (State.grants_carryDir s (h.of_same rfl))))

theorem State.grants_snapDone {s : State} (h : GrantsOk s) : GrantsOk s.snapDone := grants_ite (h.of_same rfl) h

theorem State.grants_linkChange {s : State} (up : Bool) (port : Nat) (h : GrantsOk s) :
    GrantsOk (if up then s else s.linkLost port) := grants_ite h (State.grants_linkLost _ h)

theorem grantsOk_reset : GrantsOk State.reset :=
  grantsOk_of_parts ⟨Nat.zero_le _, Nat.zero_le _⟩ (fun _ ht => absurd ht List.not_mem_nil) fun _ hl =>
      absurd hl List.not_mem_nil

theorem State.grants_booted (s : State) (b : Boot) : GrantsOk (s.booted b) := by
  have hr : GrantsOk { State.reset with host := s.host, peer := s.peer, agenda := s.agenda, free := s.free } :=
    grantsOk_reset.of_same rfl
  cases b with
  | ok failed => exact grants_foldl (fun _ id hs => State.grants_selftestFail id hs) failed hr
  | failed => exact hr.of_same rfl

end Sys2Proof.Machine
end

section
/-! PROOFS. Every step keeps every grant at four lane groups or fewer (O59). -/

namespace Sys2Proof.Machine

/-! ### The meanings of the table -/

theorem leadsGrants_freezePoint {s : State} (h : GrantsOk s) : LeadsGrants (execFreezePoint s) := by
  refine LeadsGrants.next ?_
  split
  exacts [State.grants_killDying _ (State.grants_freezeJob _ h), h]

theorem leadsGrants_yldTimeout {s : State} (h : GrantsOk s) : LeadsGrants (execYldTimeout s) :=
  LeadsGrants.next (State.grants_updStrand _ h fun t ht => by
    split
    exacts [ht, ht])

theorem leadsGrants_wcBufferDrain {s : State} (h : GrantsOk s) : LeadsGrants (execWcBufferDrain s) := by
  refine LeadsGrants.next ?_
  split
  · exact h
  · split
    · exact h
    · exact State.grants_updStrand _ (State.grants_flushBuf _ _ _ h) fun _ ht => Strand.grant_putWc _ _ ht

theorem leadsGrants_vwaitReevaluation {s : State} (h : GrantsOk s) : LeadsGrants (execVwaitReevaluation s) :=
  LeadsGrants.next (State.grants_updStrand _ h fun _ ht => of_ite Strand.GrantOk ht ht)

theorem leadsGrants_reservationExpiry {s : State} (h : GrantsOk s) : LeadsGrants (execReservationExpiry s) :=
  LeadsGrants.next (State.grants_updStrand _ h fun _ ht => ht)

theorem State.grants_mWrite {s : State} (off : Nat) (v : Word) (h : GrantsOk s) : GrantsOk (s.mWrite off v) :=
  State.grants_blockWrite _ _ _ _ h

theorem State.grants_hWrite {s : State} (off : Nat) (v : Word) (h : GrantsOk s) : GrantsOk (s.hWrite off v) :=
  State.grants_blockWrite _ _ _ _ h

theorem State.grants_hcmdWrite {s : State} (op : Nat) (h : GrantsOk s) :
    GrantsOk (s.hcmdWrite op) := State.grants_hWrite _ _ h

theorem leadsGrants_registerWrite {s : State} (h : GrantsOk s) : LeadsGrants (execRegisterWrite s) :=
  LeadsGrants.next (grants_ite (State.grants_hWrite _ _ h) (grants_ite (State.grants_mWrite _ _ h) h))

theorem leadsGrants_ethernetLinkChange {s : State} (h : GrantsOk s) : LeadsGrants (execEthernetLinkChange s) :=
  LeadsGrants.next (GrantsOk.of_same (State.grants_linkChange s.arg.flag (s.arg.n % 8) h) rfl)

/-- Every row of the table keeps the bound. -/
theorem keepsGrants_exec (i : Instr) : KeepsGrants (exec i) := by
  by_cases hi : (vecRow i).isSome
  · exact keepsGrants_exec_of_vecRow hi
  intro s h
  cases i with
  | vsetli | vsetl => exact leadsGrants_finish (State.bounded_vsetOp _ h)
  | lfork => exact leadsGrants_finish (State.bounded_lforkOp _ h)
  | bkrd => exact leadsGrants_finish (State.bounded_bkrdOp _ _ _ h)
  | bkrsm => exact leadsGrants_finish (State.bounded_bkrsmOp _ h)
  | ccmoveMove => exact leadsGrants_finish (State.bounded_ccmoveOp _ _ _ h ⟨grants_ccMove, grants_ccMoveWaits⟩)
  | frqpop => exact leadsGrants_finish (State.bounded_frqpopOp _ _ h)
  | latw => exact leadsGrants_finish (State.bounded_latwOp _ _ h)
  | thrset => exact leadsGrants_finish (State.bounded_thrsetOp _ _ h)
  | qdef => exact leadsGrants_finish (State.bounded_qdefOp _ _ h)
  | qbind => exact leadsGrants_finish (State.bounded_qbindOp _ _ h)
  | qunb => exact leadsGrants_finish (State.bounded_qunbOp _ h)
  | qavail => exact leadsGrants_finish (State.bounded_qavailOp _ _ h)
  | qwait => exact leadsGrants_finish (State.bounded_qwaitOp _ _ h)
  | qend => exact leadsGrants_finish (State.bounded_qendOp _ h)
  | qrst => exact leadsGrants_finish (State.bounded_qrstOp _ h)
  | laneFormAtomic => exact leadsGrants_finish (State.bounded_laneAmoOp _ _ h)
  | vwaitEq | vwaitNe | vwaitLt | vwaitGe => exact leadsGrants_finish (State.bounded_waitOp _ _ _ h)
  | ordSv | ordVs | ordVv | ordAll => exact leadsGrants_finish (State.bounded_ordOp _ _ _ _ h)
  | sev => exact leadsGrants_finish (State.bounded_sevOp _ h)
  | send => exact leadsGrants_finish (State.bounded_sendOp _ _ _ h)
  | recv | recvnb => exact leadsGrants_finish (State.bounded_recvOp _ _ _ h)
  | frz => exact leadsGrants_finish (State.bounded_frzOp _ _ _ h)
  | thaw => exact leadsGrants_finish (State.bounded_thawOp _ _ h)
  | thaww => exact leadsGrants_finish (State.bounded_thawwOp _ h)
  | frzq => exact leadsGrants_finish (State.bounded_frzqOp _ _ h)
  | syscB | syscN => exact leadsGrants_finish (State.bounded_syscOp _ _ _ h)
  | mmr | mmrz | mmrs => exact leadsGrants_finish (State.bounded_mmOp _ _ _ _ _ h)
  | accrd => exact leadsGrants_finish (State.bounded_accrdOp _ _ _ h)
  | accwr => exact leadsGrants_finish (State.bounded_accwrOp _ _ _ h)
  | accz => exact leadsGrants_finish (State.bounded_acczOp _ _ _ h)
  | wclr => exact leadsGrants_finish (State.bounded_wclrOp _ h)
  | wdesc => exact leadsGrants_finish (State.bounded_wdescOp _ _ h)
  | cpt | cpw | cpf => exact leadsGrants_finish (State.bounded_copyOp _ _ _ _ _ h)
  | lnch => exact leadsGrants_finish (State.bounded_lnchOp _ _ _ h)
  | cpost => exact leadsGrants_finish (State.bounded_cpostOp _ _ _ h)
  | fence | fenceTso => exact leadsGrants_finish (State.bounded_fenceOp h)
  | fenceI => exact leadsGrants_finish (State.bounded_fenceIOp h)
  | quelanCsrAccess | vdirtyWrite => exact leadsGrants_finish (State.bounded_quelanCsrOp _ h)
  | rv64ScalarInstruction => exact leadsGrants_finish (State.bounded_rvOp _ _ h)
  | vrel => exact leadsGrants_finish (State.bounded_vrelOp h)
  | ljoin => exact leadsGrants_finish (State.bounded_ljoinOp h)
  | ccmoveWriteBookmark => exact leadsGrants_finish (State.bounded_ccmoveOp _ _ _ h
      (CcGrants.of_never grants_ccWriteBookmark))
  | ccmoveKill => exact leadsGrants_finish (State.bounded_ccmoveOp _ _ _ h (CcGrants.of_never grants_ccKill))
  | ccmoveCancel => exact leadsGrants_finish (State.bounded_ccmoveOp _ _ _ h (CcGrants.of_never grants_ccCancel))
  | ccmovePreempt => exact leadsGrants_finish (State.bounded_ccmoveOp _ _ _ h ⟨grants_ccPreempt, grants_ccPreemptWaits⟩)
  | ccmoveResume => exact leadsGrants_finish (State.bounded_ccmoveOp _ _ _ h (CcGrants.of_never grants_ccResume))
  | ccmovePostMessage => exact leadsGrants_finish (State.bounded_ccmoveOp _ _ _ h ⟨grants_ccPost, grants_ccPostWaits⟩)
  | bar => exact leadsGrants_finish (State.bounded_barOp h)
  | phend => exact leadsGrants_finish (State.bounded_phendOp h)
  | wfe => exact leadsGrants_finish (State.bounded_wfeOp h)
  | gexit | exitAddressFetch => exact leadsGrants_finish (State.bounded_gexitOp h)
  | yld => exact leadsGrants_finish (State.bounded_yldOp h)
  | migControl | migVector | migArray => exact leadsGrants_finish (State.bounded_migOp _ h)
  | ecall | ebreak => exact leadsGrants_finish (State.bounded_callOp _ h)
  | freezePoint => exact leadsGrants_freezePoint h
  | replyQueueDelivery => exact LeadsGrants.next (State.grants_updStrand _ h fun _ ht => Strand.grant_reply1 ht)
  | vectorAccessPerformed => exact LeadsGrants.next (State.grants_performElem _ _ h)
  | strandExit => exact LeadsGrants.next (State.grants_exitStrand _ h)
  | qnotifyWrite => exact LeadsGrants.next (State.grants_notify _ _ h)
  | queueEntryFetch => exact LeadsGrants.next (State.grants_fetchEntry _ h)
  | launchAccept => exact LeadsGrants.next (State.grants_acceptEntry _ _ h)
  | codeObjectRegister => exact LeadsGrants.next (State.grants_registerObject _ _ h)
  | codeObjectUnregister => exact LeadsGrants.next (State.grants_unregisterObject _ _ h)
  | queueMap => exact LeadsGrants.next (State.grants_queueMap _ h)
  | queueUnmap => exact LeadsGrants.next (State.grants_unmapSlot _ h)
  | pendScan => exact LeadsGrants.next (State.grants_pendScan h)
  | dispatchDecision => exact LeadsGrants.next (State.grants_decideDispatch _ h)
  | agingStep => exact LeadsGrants.next (State.grants_aging _ h)
  | dispatchCountHalving => exact LeadsGrants.next (h.of_same rfl)
  | dieReserve => exact LeadsGrants.next (State.grants_dieReserve _ h)
  | preemptionStart => exact LeadsGrants.next (State.grants_preemptStart _ h)
  | preemptionSave => exact LeadsGrants.next (State.grants_save _ h)
  | resumption => exact LeadsGrants.next (State.grants_resume _ h)
  | savedGroupPlacement => exact LeadsGrants.next (State.grants_placeNextSaved _ h)
  | migrationWaitTimeout | savePoolRetry => exact LeadsGrants.next (State.grants_migTimeout _ _ h)
  | laneWaitCheck => exact LeadsGrants.next (State.grants_laneCheck _ h)
  | carrierMove => exact LeadsGrants.next (State.grants_carry _ h)
  | strandArrival => exact LeadsGrants.next (State.grants_arrive _ h)
  | yldTimeout => exact leadsGrants_yldTimeout h
  | thermalSensorUpdate => exact LeadsGrants.next (State.grants_sensor _ _ h)
  | thermalSlotDisable => exact LeadsGrants.next (State.grants_slotOff _ h)
  | thermalSlotEnable => exact LeadsGrants.next (State.grants_slotOn _ h)
  | mixWindowEnd => exact LeadsGrants.next (State.grants_mixEnd _ h)
  | selftestFailure => exact LeadsGrants.next (State.grants_selftestFail _ h)
  | pageTableWalk => exact LeadsGrants.next (State.grants_judge _ _ _ h)
  | impreciseTrap => exact LeadsGrants.next (State.grants_trap _ h)
  | faultBatchPost => exact LeadsGrants.next (State.grants_enterBatch _ h)
  | engineFaultPause => exact LeadsGrants.next (State.grants_enginePause _ h)
  | tlbinvAll | tlbinvPage => exact LeadsGrants.next (State.grants_tlbRequest _ _ h)
  | tlbInvalidationComplete => exact LeadsGrants.next (State.grants_tlbComplete h)
  | notificationDelivery => exact LeadsGrants.next ((s.notifDeliver_caches _).grants h)
  | snoopAnswer => exact LeadsGrants.next ((s.snoopReply_caches _).grants h)
  | directoryRequest => exact LeadsGrants.next (State.grants_dirArrive _ h)
  | wcBufferDrain => exact leadsGrants_wcBufferDrain h
  | memoryRequestArrival => exact LeadsGrants.next (State.grants_memArrive _ h)
  | hostCxlMemRead => exact LeadsGrants.next (State.grants_hostLoad _ _ h)
  | hostCxlMemWrite => exact LeadsGrants.next (State.grants_hostStore _ _ h)
  | peerRead => exact LeadsGrants.next (State.grants_peerLoad _ _ h)
  | pageMigrationRequest => exact LeadsGrants.next (State.grants_pageLock _ _ _ h)
  | reservationExpiry => exact leadsGrants_reservationExpiry h
  | vwaitReevaluation => exact leadsGrants_vwaitReevaluation h
  | backInvalidationAck => exact LeadsGrants.next (State.grants_dropAcks _ h)
  | peerAckTimeout => exact LeadsGrants.next (State.grants_peerLate _ h)
  | hostBiTimeout => exact LeadsGrants.next (State.grants_hostLate h)
  | collectionComplete => exact LeadsGrants.next (State.grants_collectionEnd _ h)
  | contextDestroy => exact LeadsGrants.next (State.grants_destroyContext _ h)
  | copyCommandAccept => exact LeadsGrants.next (State.grants_copyAccept _ h)
  | copyCommandComplete => exact LeadsGrants.next (State.grants_copyComplete _ h)
  | streamSlotFill => exact LeadsGrants.next (grants_ite (EngineEnd.grants_orElse (State.grantsEnd_fillStream _ _ h) h) h)
  | streamDrainWrite => exact LeadsGrants.next (grants_ite (EngineEnd.grants_orElse (State.grantsEnd_drainStream _ _ h) h) h)
  | stageStripArrival => exact LeadsGrants.next (State.grants_arriveStrip _ _ h)
  | collectiveQueueAccept => exact LeadsGrants.next (State.grants_collAccept _ h)
  | collectiveComplete => exact LeadsGrants.next (State.grants_collComplete _ _ h)
  | messageArrival => exact LeadsGrants.next (State.grants_arrival h)
  | overflowDelivery => exact LeadsGrants.next (State.grants_overflow _ h)
  | lsplitWrite | vpoolWrite | wmaskWrite | memcapWrite | irmctlStart | snapctlStart | platctlLock | platctlUnlock
    | kctlWrite | nonceWrite | intrtWrite => exact LeadsGrants.next (State.grants_mWrite _ _ h)
  | splitApply => exact LeadsGrants.next (State.grants_splitNow _ h)
  | sweepWindow => exact LeadsGrants.next (State.grants_sweep h)
  | snapshotComplete => exact LeadsGrants.next (State.grants_snapDone h)
  | snapshotFabricError | clockChangeComplete => exact LeadsGrants.next (grants_ite (h.of_same rfl) h)
  | d3hotEntry => exact LeadsGrants.next (grants_ite h (h.of_same rfl))
  | spdmRequest | d0Entry => exact LeadsGrants.next (h.of_same rfl)
  | hostctlAttach | hostctlDetach => exact LeadsGrants.next (State.grants_hWrite _ _ h)
  | hostLinkDown => exact LeadsGrants.next (State.grants_hostLost h)
  | svcnotifyWrite => exact LeadsGrants.next (State.grants_svcNotify _ _ h)
  | hcmdCancel | hcmdPreempt | hcmdResume => exact LeadsGrants.next (State.grants_hcmdWrite _ h)
  | herraRead | herrnRead => exact LeadsGrants.next (State.grants_hRead _ h)
  | stkceRead => exact LeadsGrants.next (State.grants_blockRead _ _ _ h)
  | registerWrite => exact leadsGrants_registerWrite h
  | ethernetLinkChange => exact leadsGrants_ethernetLinkChange h
  | powerOnReset => exact LeadsGrants.next (s.grants_booted _)
  | vectorInstructionCompletion => exact LeadsGrants.next (State.grants_updStrand _ h fun _ ht =>
      Strand.grant_completeOne ht)
  | ownerBackInvalidation => exact LeadsGrants.next (State.grants_ownerTakes _ _ h)
  | _ => exact absurd rfl hi

/-! ### Turns (log 2) -/

theorem State.grants_withArg {s : State} (a : Arg) (h : GrantsOk s) : GrantsOk (s.withArg a) := h.of_same rfl

theorem Strand.grant_sawIssue {t : Strand} (uid core : Nat) (h : t.GrantOk) : (t.sawIssue uid core).GrantOk := by
  unfold Strand.sawIssue
  split
  exacts [of_ite Strand.GrantOk h h, h]

theorem Strand.grant_mixCount {t : Strand} (vector : Bool) (h : t.GrantOk) : (t.mixCount vector).GrantOk :=
  of_ite Strand.GrantOk h h

theorem State.grants_issued {s : State} (uid core : Nat) (forked vector : Bool) (h : GrantsOk s) :
    GrantsOk (s.issued uid core forked vector) := by
  unfold State.issued
  refine grants_ite h ?_
  extract_lets s1 s2 goesOn
  have h1 : GrantsOk s1 := State.grants_mapStrands h fun _ ht => Strand.grant_sawIssue uid core ht
  have h2 : GrantsOk s2 := by
    show GrantsOk (match s.cur.status with | .waiting _ => s | _ => if forked then s1 else s1.onCur (·.mixCount vector))
    split
    exacts [h, grants_ite h1 (State.grants_onCur h1 (Strand.grant_mixCount _ h1.cur))]
  exact grants_ite (h2.of_same rfl) h2

theorem State.grants_rotate {s : State} (h : GrantsOk s) : GrantsOk s.rotate := by
  have hl : ∀ u ∈ s.turnList [] (s.others ++ (if s.cur.status = .gone then [] else [s.cur])), u.GrantOk := by
    intro u hu
    rcases State.mem_of_mem_turnList _ _ hu with hu | hu
    · exact absurd hu List.not_mem_nil
    · rcases List.mem_append.mp hu with hu | hu
      · exact h.others u hu
      · split at hu
        · exact absurd hu List.not_mem_nil
        · exact List.mem_singleton.mp hu ▸ h.cur
  unfold State.rotate
  split
  · exact h
  · next heq =>
    rw [heq] at hl
    exact grantsOk_of_parts (hl _ List.mem_cons_self) (fun u hu => hl u (List.mem_cons_of_mem _ hu)) h.launches

theorem State.leadsGrants_issue {s : State} (h : GrantsOk s) : LeadsGrants s.issue := by
  have hf := State.givesGrants_fetchInstr h
  unfold State.issue
  split
  · exact LeadsGrants.next (State.grants_takeExc _ h)
  · next heq => exact LeadsGrants.next (State.grants_takeExc _ (hf _ heq))
  · next heq => exact keepsGrants_exec _ _ (hf _ heq)
  · next heq => exact keepsGrants_exec _ _ (State.grants_resolve _ (hf _ heq))

theorem State.leadsGrants_turn {s : State} (h : GrantsOk s) : LeadsGrants s.turn := by
  unfold State.turn
  extract_lets irq s1
  have h1 : GrantsOk s1 := State.grants_onCur h (by
    split
    exacts [h.cur, h.cur])
  clear_value irq
  split
  · next toS n => exact LeadsGrants.next (GrantsOk.of_same (grants_ite (State.grants_trapS true n 0 h1)
        (State.grants_trapM true n 0 h1)) rfl)
  · split
    · next heq => exact LeadsGrants.next (GrantsOk.of_same (State.grants_rotate
          (State.grants_issued _ _ _ _ (State.leadsGrants_issue h1 _ heq))) rfl)
    · exact State.leadsGrants_issue h1

theorem State.leadsGrants_happen {s : State} (e : Event) (h : GrantsOk s) : LeadsGrants (s.happen e) :=
  keepsGrants_exec _ _ (State.grants_withArg _ h)

theorem State.leadsGrants_proceed {s : State} (h : GrantsOk s) : LeadsGrants s.proceed := by
  unfold State.proceed
  refine of_ite LeadsGrants (LeadsGrants.next (State.grants_rotate h)) ?_
  extract_lets runs
  split
  · exact State.leadsGrants_happen _ (h.of_same rfl)
  · exact of_ite LeadsGrants (State.leadsGrants_turn h) (LeadsGrants.next h)

/-- Settles O59: each operation of the machine keeps every grant at four lane groups or fewer, whether it completes, waits or
faults; so does each row of the table, each event, and a turn. -/
theorem stepKeepsGrants : Obligations.StepKeepsGrants := by
  intro s s' h hs
  unfold step at hs
  split at hs
  · refine State.leadsGrants_happen _ ?_ s' hs
    exact h.of_same rfl
  · exact State.leadsGrants_proceed h s' hs

end Sys2Proof.Machine
end



section
/-! PROOFS. Lane groups of a core (R33, R34): what giving and taking groups leaves each slot, and what a request is offered. -/

namespace Sys2Proof.Machine

/-! ### The record of a core -/

/-- The record of a core that the machine has, once it is changed. -/
theorem State.core_updCore {s : State} {id : Nat} {f : Core → Core} (h : ∃ c ∈ s.cores, c.id = id) (hf : ∀ c, (f c).id = c.id) :
    (s.updCore id f).core id = f (s.core id) := by
  obtain ⟨c, hc, hid⟩ := h
  have hsome : (s.cores.find? fun c => c.id == id).isSome := List.find?_isSome.mpr ⟨c, hc, by simp [hid]⟩
  obtain ⟨d, hd⟩ := Option.isSome_iff_exists.mp hsome
  have hdid : d.id = id := by simpa using List.find?_some hd
  have hcomp : ((fun c : Core => c.id == id) ∘ fun c => if c.id = id then f c else c) = fun c => c.id == id := by
    funext c
    show ((if c.id = id then f c else c).id == id) = (c.id == id)
    split <;> simp [hf]
  unfold State.core State.updCore
  rw [List.find?_map, hcomp, hd]
  simp [hdid]

/-! ### The groups of a slot -/

theorem Core.mem_lanesOf {c : Core} {slot p : Nat} : p ∈ c.lanesOf slot ↔ p < 4 ∧ c.lat.getD p none = some slot := by
  simp [Core.lanesOf]

theorem Core.mem_freeLanes {c : Core} {p : Nat} : p ∈ c.freeLanes ↔ p < 4 ∧ c.lat.getD p none = none := by
  simp [Core.freeLanes]

theorem Core.nodup_lanesOf (c : Core) (slot : Nat) : (c.lanesOf slot).Nodup := List.nodup_range.filter _

theorem Core.nodup_freeLanes (c : Core) : c.freeLanes.Nodup := List.nodup_range.filter _

/-- Places of a table set to one value. -/
theorem getD_foldl_listSet (v : Option Nat) (ps : List Nat) {lat : List (Option Nat)} (hps : ∀ p ∈ ps, p < lat.length) (q : Nat) :
    (ps.foldl (fun l p => listSet l p v) lat).getD q none = if q ∈ ps then v else lat.getD q none := by
  induction ps generalizing lat with
  | nil => rfl
  | cons p ps ih =>
    obtain ⟨hp, hps⟩ := List.forall_mem_cons.mp hps
    rw [List.foldl_cons, ih (by simpa [listSet] using hps)]
    by_cases hq : q ∈ ps
    · simp [hq]
    · by_cases he : q = p
      · simp [he, listSet, hp]
      · simp [hq, he, listSet, List.getElem?_set_ne (Ne.symm he)]

/-- What is given is the slot's, and the rest is whose it was. -/
theorem Core.getD_giveLanes {c : Core} {ps : List Nat} (slot : Nat) (hlat : c.lat.length = 4) (hps : ∀ p ∈ ps, p < 4) (q : Nat) :
    (c.giveLanes slot ps).lat.getD q none = if q ∈ ps then some slot else c.lat.getD q none :=
  getD_foldl_listSet _ ps (by simpa [hlat] using hps) q

/-- What is dropped is nobody's, and the rest is whose it was. -/
theorem Core.getD_dropLanes {c : Core} {ps : List Nat} (hlat : c.lat.length = 4) (hps : ∀ p ∈ ps, p < 4) (q : Nat) :
    (c.dropLanes ps).lat.getD q none = if q ∈ ps then none else c.lat.getD q none :=
  getD_foldl_listSet _ ps (by simpa [hlat] using hps) q

theorem length_foldl_listSet {α : Type} (v : α) (ps : List Nat) (l : List α) :
    (ps.foldl (fun l p => listSet l p v) l).length = l.length := by
  induction ps generalizing l with
  | nil => rfl
  | cons p ps ih => rw [List.foldl_cons, ih, listSet, List.length_set]

theorem Core.length_dropLanes (c : Core) (ps : List Nat) : (c.dropLanes ps).lat.length = c.lat.length :=
  length_foldl_listSet none ps c.lat

/-- A slot whose places are those of another table holds the same groups. -/
theorem Core.lanesOf_congr {c d : Core} {slot : Nat}
    (h : ∀ p, d.lat.getD p none = some slot ↔ c.lat.getD p none = some slot) : d.lanesOf slot = c.lanesOf slot := by
  refine List.filter_congr fun p _ => ?_
  rw [Bool.eq_iff_iff, beq_iff_eq, beq_iff_eq]
  exact h p

/-- The free places of a table of four are the free lane groups. -/
theorem Core.length_freeLanes {c : Core} (hlat : c.lat.length = 4) : (c.lat.filter (· == none)).length = c.freeLanes.length := by
  have hmap : c.lat = (List.range 4).map fun p => c.lat.getD p none :=
    List.ext_getElem (by simp [hlat]) fun i h _ => by simp [List.getD_eq_getElem?_getD, List.getElem?_eq_getElem h]
  conv_lhs => rw [hmap, List.filter_map, List.length_map]
  rfl

/-! ### Fewer and more groups -/

/-- Groups given up: the slot keeps the lowest ones, and nothing changes for another slot (R34). -/
theorem Core.lanesOf_dropHighest {c : Core} (hlat : c.lat.length = 4) (slot n : Nat) :
    let d := c.dropLanes ((c.lanesOf slot).drop n)
    (d.lanesOf slot).Perm ((c.lanesOf slot).take n) ∧ ∀ o, o ≠ slot → d.lanesOf o = c.lanesOf o := by
  have hin : ∀ p ∈ (c.lanesOf slot).drop n, p < 4 ∧ c.lat.getD p none = some slot := fun p hp =>
    Core.mem_lanesOf.mp (List.mem_of_mem_drop hp)
  have hget := Core.getD_dropLanes hlat fun p hp => (hin p hp).1
  have hdisj := List.disjoint_take_drop (c.nodup_lanesOf slot) (le_refl n)
  refine ⟨(List.perm_ext_iff_of_nodup (Core.nodup_lanesOf _ _) ((c.nodup_lanesOf slot).sublist (List.take_sublist _ _))).mpr
    fun p => ?_, fun o ho => Core.lanesOf_congr fun p => ?_⟩
  · have hsplit : p ∈ c.lanesOf slot ↔ p ∈ (c.lanesOf slot).take n ∨ p ∈ (c.lanesOf slot).drop n := by
      rw [← List.mem_append, List.take_append_drop]
    rw [Core.mem_lanesOf, hget]
    by_cases hp : p ∈ (c.lanesOf slot).drop n
    · simpa [hp] using fun ht => hdisj ht hp
    · rw [if_neg hp, ← Core.mem_lanesOf, hsplit, or_iff_left hp]
  · rw [hget]
    split
    · next hp => rw [(hin p hp).2]; simp [Ne.symm ho]
    · exact Iff.rfl

/-- Free groups given: the slot holds them beside its own, and nothing changes for another slot (R34). -/
theorem Core.lanesOf_giveFree {c : Core} (hlat : c.lat.length = 4) (slot n : Nat) :
    let d := c.giveLanes slot (c.freeLanes.take n)
    (d.lanesOf slot).Perm (c.lanesOf slot ++ c.freeLanes.take n) ∧ ∀ o, o ≠ slot → d.lanesOf o = c.lanesOf o := by
  have hin : ∀ p ∈ c.freeLanes.take n, p < 4 ∧ c.lat.getD p none = none := fun p hp =>
    Core.mem_freeLanes.mp (List.mem_of_mem_take hp)
  have hget := Core.getD_giveLanes slot hlat fun p hp => (hin p hp).1
  refine ⟨(List.perm_ext_iff_of_nodup (Core.nodup_lanesOf _ _) (List.Nodup.append (c.nodup_lanesOf slot)
    (c.nodup_freeLanes.sublist (List.take_sublist _ _)) fun p hp hf => ?_)).mpr fun p => ?_,
    fun o ho => Core.lanesOf_congr fun p => ?_⟩
  · have hown := (Core.mem_lanesOf.mp hp).2
    rw [(hin p hf).2] at hown
    exact nomatch hown
  · rw [Core.mem_lanesOf, hget, List.mem_append, Core.mem_lanesOf]
    split
    · next hp => simp [hp, (hin p hp).1]
    · next hp => simp [hp]
  · rw [hget]
    split
    · next hp => rw [(hin p hp).2]; simp [Ne.symm ho]
    · exact Iff.rfl

/-- A slot given the groups of a placement, and none of its others: it holds those, and nothing changes for another slot when
none of them is another's (R34). -/
theorem Core.lanesOf_replace {c : Core} (hlat : c.lat.length = 4) (slot : Nat) {ps : List Nat} (hps : ∀ p ∈ ps, p < 4)
    (hfree : ∀ p ∈ ps, c.lat.getD p none = none ∨ c.lat.getD p none = some slot) :
    let d := (c.dropLanes ((c.lanesOf slot).filter fun p => !(ps.contains p))).giveLanes slot ps
    (∀ p, p ∈ d.lanesOf slot ↔ p ∈ ps) ∧ ∀ o, o ≠ slot → d.lanesOf o = c.lanesOf o := by
  have hin : ∀ p ∈ (c.lanesOf slot).filter fun p => !(ps.contains p), p < 4 ∧ c.lat.getD p none = some slot := fun p hp =>
    Core.mem_lanesOf.mp (List.mem_of_mem_filter hp)
  have hdrop := Core.getD_dropLanes hlat fun p hp => (hin p hp).1
  have hget := Core.getD_giveLanes (c := c.dropLanes ((c.lanesOf slot).filter fun p => !(ps.contains p))) slot
    ((c.length_dropLanes _).trans hlat) hps
  refine ⟨fun p => ?_, fun o ho => Core.lanesOf_congr fun p => ?_⟩
  · rw [Core.mem_lanesOf, hget, hdrop]
    by_cases hp : p ∈ ps
    · simp [hp, hps p hp]
    · by_cases hown : p ∈ c.lanesOf slot
      · simp [hp, hown]
      · have hlane := mt Core.mem_lanesOf.mpr hown
        simpa [hp, hown] using hlane
  · rw [hget, hdrop]
    split
    · next hp =>
      rcases hfree p hp with h | h
      · rw [h]; simp [Ne.symm ho]
      · rw [h]
    · split
      · next hp => rw [(hin p hp).2]; simp [Ne.symm ho]
      · exact Iff.rfl

/-! ### Offers and regrants -/

theorem Strand.wants_of_noScratch {t : Strand} (h : t.ownsScratch = false) (req : Nat) :
    t.wants req = if req = 3 then 4 else req := by simp [Strand.wants, h]

/-- A strand without scratch is offered what is held and free, up to what it wants (R34). -/
theorem State.offer_of_noScratch {s : State} {t : Strand} (hv : t.cls = .vector) (hs : t.ownsScratch = false) (req : Nat) :
    s.offer t req =
      if ((s.core t.core).lanesOf t.slot).length + (s.core t.core).freeLanes.length = 0 then none
      else some (min (if req = 3 then 4 else req)
        (((s.core t.core).lanesOf t.slot).length + (s.core t.core).freeLanes.length)) := by
  simp only [State.offer, hv, hs, Strand.wants_of_noScratch hs, bne_self_eq_false, Bool.false_eq_true, if_false]

/-- A scratch owner is offered its placement's groups when they are free or its own (R34). -/
theorem State.offer_of_scratch {s : State} {t : Strand} (hv : t.cls = .vector) (hs : t.ownsScratch = true)
    (hl : t.lanes0.length = t.lstage) (req : Nat) :
    s.offer t req =
      if t.lanes0.all fun p => (s.core t.core).lat.getD p none == none || (s.core t.core).lat.getD p none == some t.slot then
        some t.lstage
      else none := by
  simp only [State.offer, hv, hs, hl, bne_self_eq_false, Bool.false_eq_true, if_true, if_false]

/-- The table of a strand's core after a regrant: fewer groups, or more (R34). -/
theorem State.core_regrant_of_noScratch {s : State} {t : Strand} (hv : t.cls = .vector) (hs : t.ownsScratch = false)
    (hc : ∃ c ∈ s.cores, c.id = t.core) (g : Nat) :
    let c := s.core t.core
    (s.regrant t g).core t.core =
      if g < (c.lanesOf t.slot).length then c.dropLanes ((c.lanesOf t.slot).drop g)
      else c.giveLanes t.slot (c.freeLanes.take (g - (c.lanesOf t.slot).length)) := by
  simp only [State.regrant, hv, hs, bne_self_eq_false, Bool.false_eq_true, if_false, Bool.false_and]
  exact State.core_updCore hc fun c => by split <;> rfl

theorem State.core_regrant_of_scratch {s : State} {t : Strand} (hv : t.cls = .vector) (hs : t.ownsScratch = true)
    (hl : t.lanes0.length = t.lstage) (hc : ∃ c ∈ s.cores, c.id = t.core) (g : Nat) :
    let c := s.core t.core
    (s.regrant t g).core t.core =
      (c.dropLanes ((c.lanesOf t.slot).filter fun p => !(t.lanes0.contains p))).giveLanes t.slot t.lanes0 := by
  simp only [State.regrant, hv, hs, hl, bne_self_eq_false, Bool.false_eq_true, if_false, Bool.true_and, beq_self_eq_true, if_true]
  exact State.core_updCore hc fun c => rfl

/-- A regrant within what is held and free leaves the strand with exactly that many groups (R34). -/
theorem State.lanesOf_regrant {s : State} {t : Strand} (hv : t.cls = .vector) (hs : t.ownsScratch = false)
    (hc : ∃ c ∈ s.cores, c.id = t.core) (hlat : (s.core t.core).lat.length = 4) {g : Nat}
    (hg : g ≤ ((s.core t.core).lanesOf t.slot).length + (s.core t.core).freeLanes.length) :
    (((s.regrant t g).core t.core).lanesOf t.slot).length = g
      ∧ ∀ slot, slot ≠ t.slot → ((s.regrant t g).core t.core).lanesOf slot = (s.core t.core).lanesOf slot := by
  rw [State.core_regrant_of_noScratch hv hs hc]
  split
  · next hlt =>
    obtain ⟨hperm, hother⟩ := Core.lanesOf_dropHighest hlat t.slot g
    exact ⟨by rw [hperm.length_eq, List.length_take]; omega, hother⟩
  · next hge =>
    obtain ⟨hperm, hother⟩ := Core.lanesOf_giveFree hlat t.slot (g - ((s.core t.core).lanesOf t.slot).length)
    exact ⟨by rw [hperm.length_eq, List.length_append, List.length_take]; omega, hother⟩

/-- Settles O21, from what giving and taking lane groups leaves each slot of the core. -/
theorem grantArithmetic : Obligations.GrantArithmetic := by
  rintro s t hv ⟨hlat, hheld, hcore, -⟩ avail
  have havail : avail = ((s.core t.core).lanesOf t.slot).length + (s.core t.core).freeLanes.length := by
    rw [hheld, ← Core.length_freeLanes hlat]
  refine ⟨fun hs => ⟨fun req _ _ => ?_, fun g _ hg => State.lanesOf_regrant hv hs hcore hlat (havail ▸ hg)⟩,
    fun hs hl hlt => ⟨fun hno req => ?_, fun hfree => ?_⟩⟩
  · rw [havail, State.offer_of_noScratch hv hs]
  · rw [State.offer_of_scratch hv hs hl, if_neg]
    simpa only [List.all_eq_true, Bool.or_eq_true, beq_iff_eq] using hno
  · obtain ⟨hown, hother⟩ := Core.lanesOf_replace hlat t.slot hlt hfree
    rw [State.core_regrant_of_scratch hv hs hl hcore]
    refine ⟨fun req => ?_, hown, hother⟩
    rw [State.offer_of_scratch hv hs hl, if_pos]
    simpa only [List.all_eq_true, Bool.or_eq_true, beq_iff_eq] using hfree

end Sys2Proof.Machine
end

section
/-! PROOFS. `vsetl`, `vsetli` and `vrel` (R34 to R36, R63, R115): the image of a VTYPE, the grant settled, and what the strand
holds then. -/

namespace Sys2Proof.Machine

/-! ### Images of VTYPE -/

theorem bf_eq_extract (w : Word) (lo n : Nat) : bf w lo n = (w.extractLsb' lo n).toNat := by
  rw [bf, fld, BitVec.extractLsb'_toNat, Nat.shiftRight_eq_div_pow]

/-- Bits [63:14] are clear when VILL is and the reserved bits below it. -/
theorem extract_top_eq_zero_iff (t : Word) : t.extractLsb' 14 50 = 0 ↔ t.getLsbD 63 = false ∧ bf t 14 49 = 0 := by
  rw [← BitVec.toNat_inj, BitVec.extractLsb'_toNat, Nat.shiftRight_eq_div_pow, bf, fld, BitVec.getLsbD,
    Nat.testBit_eq_decide_div_mod_eq, decide_eq_false_iff_not]
  have := t.isLt
  show _ = 0 ↔ _
  omega

/-- The images that R63 allows. -/
theorem vtIllegal_eq_false_iff (t : Word) : vtIllegal t = false ↔ LegalImage t := by
  unfold vtIllegal LegalImage
  rw [extract_top_eq_zero_iff]
  simp only [← bf_eq_extract, Bool.or_eq_false_iff, Bool.and_eq_false_imp, bne_eq_false_iff_eq, decide_eq_false_iff_not,
    beq_eq_false_iff_ne, Bool.not_eq_false', Bool.and_eq_true, beq_iff_eq, decide_eq_true_eq, bne_iff_ne]
  have hfam : bf t 3 2 < 4 := Nat.mod_lt _ (by decide)
  have hfam3 : bf t 3 2 ≠ 3 ↔ bf t 3 2 ≤ 2 := by omega
  rw [hfam3, show ¬bf t 0 3 ≥ 5 ↔ bf t 0 3 ≤ 4 by omega]
  tauto

theorem bf_withoutLgreq (image : Word) {lo n : Nat} (h : lo + n ≤ 12) :
    bf (image &&& ~~~(0x3000 : Word)) lo n = bf image lo n := by
  rw [bf_eq_extract, bf_eq_extract]
  congr 1
  ext i hi
  have hbit : (~~~(0x3000 : Word)).getLsbD (lo + i) = true := by
    have : lo + i < 12 := by omega
    interval_cases lo + i <;> rfl
  rw [BitVec.getElem_extractLsb', BitVec.getElem_extractLsb', BitVec.getLsbD_and, hbit, Bool.and_true]

theorem vlMax_withoutLgreq (g : Nat) (image : Word) : vlMax g (image &&& ~~~(0x3000 : Word)) = vlMaxOf g image := by
  have hsize : g * 1024 * 2 ^ (image.extractLsb' 6 2).toNat * 8 = g * 8192 * 2 ^ (image.extractLsb' 6 2).toNat := by ring
  rw [vlMax, vtEw, vtGrp, bf_withoutLgreq image (by decide), bf_withoutLgreq image (by decide), bf_eq_extract,
      bf_eq_extract, hsize]
  rfl

/-- The image of a `vsetli`, by its fields. -/
theorem vsetliImage_eq (lgreq : BitVec 2) (vt : BitVec 8) :
    vsetliImage lgreq vt = lgreq.setWidth 64 <<< 12 ||| vt.setWidth 64 := by
  have hvt := vt.isLt
  have hlg := lgreq.isLt
  apply BitVec.eq_of_toNat_eq
  simp only [vsetliImage, BitVec.toNat_ofNat, BitVec.toNat_or, BitVec.toNat_shiftLeft, BitVec.toNat_setWidth]
  rw [Nat.mod_eq_of_lt (by omega), Nat.mod_eq_of_lt (by omega), Nat.mod_eq_of_lt (by omega), Nat.shiftLeft_eq,
    Nat.mod_eq_of_lt (by omega), Nat.mul_comm, ← Nat.two_pow_add_eq_or_of_lt (by omega)]

/-! ### The strand's side -/

/-- VTYPE, VL, VSTART and rd as R115 sets them. -/
theorem Strand.vtypeSet_setVtype (t : Strand) (r : VsetReq) : VtypeSet t (t.setVtype r) r.rd r.image r.avl := by
  constructor
  · intro h
    have hl := (vtIllegal_eq_false_iff _).mpr h
    refine ⟨_, rfl, ?_⟩
    unfold Strand.setVtype Strand.setX
    simp only [hl, vlMax_withoutLgreq, Bool.false_eq_true, if_false]
    cases r.avl <;> split <;> rfl
  · intro h
    have hl : vtIllegal r.image = true := by simpa using mt (vtIllegal_eq_false_iff _).mp h
    unfold Strand.setVtype Strand.setX
    simp only [hl, if_true]
    split <;> rfl

theorem VtypeSet.fork_core {t u : Strand} {rd : Reg} {image : Word} {avl : Option Word} (h : VtypeSet t u rd image avl) :
    u.fork = t.fork ∧ u.core = t.core := by
  obtain ⟨hl, hn⟩ := h
  by_cases hi : LegalImage image
  · obtain ⟨vl, -, e⟩ := hl hi
    rw [e]; exact ⟨rfl, rfl⟩
  · rw [hn hi]; exact ⟨rfl, rfl⟩

theorem Strand.adv_of_unforked {t : Strand} (h : t.fork = none) (n : Nat) :
    t.adv n = { t with pc := t.pc + BitVec.ofNat 64 n } := by
  simp [Strand.adv, Strand.putPc, Strand.getPc, h]

/-! ### The grant settled (R34) -/

/-- The strand whose `vsetl` settles its grant: with a request, once earlier vector instructions have completed. -/
def Strand.settling (t : Strand) (image : Word) : Strand := if (image.extractLsb' 12 2).toNat = 0 then t else
    { t with vq := 0 }

theorem Strand.settling_eq (t : Strand) (image : Word) : ∃ q, t.settling image = { t with vq := q } := by
  unfold Strand.settling
  split
  · exact ⟨t.vq, rfl⟩
  · exact ⟨0, rfl⟩

theorem State.renegotiate_keep {s : State} {t : Strand} {image : Word} (h : (image.extractLsb' 12 2).toNat = 0)
    (hg : t.g ≠ 0) :
    s.renegotiate t image = .ok (s, { t with nr := false, short := false }) := by
  simp [State.renegotiate, lgreqOf, bf_eq_extract, h, hg]

/-- A request that is not one to keep: 0 without a grant asks for one lane group. -/
theorem lgreqOf_of_request {image : Word} {g : Nat} (h : (image.extractLsb' 12 2).toNat ≠ 0 ∨ g = 0) :
    lgreqOf image g = (if (image.extractLsb' 12 2).toNat = 0 then 1 else (image.extractLsb' 12 2).toNat) ∧
        lgreqOf image g ≠ 0 := by
  unfold lgreqOf
  rw [bf_eq_extract]
  split <;> split <;> simp_all

theorem State.renegotiate_dirty {s : State} {t : Strand} {image : Word} (h : (image.extractLsb' 12 2).toNat ≠ 0 ∨ t.g = 0)
    (hd : t.vdirty ≠ 0) :
    s.renegotiate t image = .ok (s, { t with nr := true, short := false }) := by
  rw [State.renegotiate, if_neg (lgreqOf_of_request h).2, if_pos (by simpa using hd)]

theorem State.renegotiate_offered {s : State} {t : Strand} {image : Word} {new : Nat}
    (h : (image.extractLsb' 12 2).toNat ≠ 0 ∨ t.g = 0) (hd : t.vdirty = 0) (ho : s.offer t (lgreqOf image t.g) = some new) :
    s.renegotiate t image =
      .ok (s.regrant t new, (s.regrant t new).settleLanes (t.regranted (lgreqOf image t.g) new)) := by
  simp [State.renegotiate, (lgreqOf_of_request h).2, hd, ho]

theorem State.renegotiate_refused {s : State} {t : Strand} {image : Word}
    (h : (image.extractLsb' 12 2).toNat ≠ 0 ∨ t.g = 0) (hd : t.vdirty = 0) (ho : s.offer t (lgreqOf image t.g) = none) :
    s.renegotiate t image = .error (t.wants (lgreqOf image t.g)) := by
  simp [State.renegotiate, (lgreqOf_of_request h).2, hd, ho]

/-- A regrant changes the core's lane groups, whatever strand is current. -/
theorem State.regrant_withCur (s : State) (t u : Strand) (new : Nat) :
    ({ s with cur := u } : State).regrant t new = { s.regrant t new with cur := u } := by
  unfold State.regrant
  split <;> rfl

/-- A request that is short is one of fewer lane groups than all four. -/
theorem Strand.short_iff {t : Strand} {req new : Nat} :
    (!t.ownsScratch && req != 3 && decide (new < t.wants req)) = (!t.ownsScratch && req != 3 && decide (new < req)) := by
  unfold Strand.wants
  cases t.ownsScratch
  · by_cases h : req = 3 <;> simp [h]
  · rfl

/-- What a renegotiation that changes the grant leaves of the strand. -/
theorem State.settleLanes_regranted (s : State) (t : Strand) (req new : Nat) :
    s.settleLanes (t.regranted req new) =
      { (if t.g = 0 then { t with v := Vector.replicate 32 0, k := Vector.replicate 8 0 } else t : Strand) with
        g := new, nr := false, short := !t.ownsScratch && req != 3 && decide (new < req)
        lanes0 := if t.ownsScratch = true ∧ t.lanes0.length ≠ t.lstage then
            (s.core t.core).lanesOf t.slot else t.lanes0 } := by
  rw [← Strand.short_iff]
  unfold State.settleLanes Strand.regranted Strand.zeroVector
  by_cases hl : t.ownsScratch = true ∧ t.lanes0.length ≠ t.lstage
  · have hb : (t.ownsScratch && t.lanes0.length != t.lstage) = true := by simpa using hl
    rw [if_pos hl]
    split <;> exact if_pos hb
  · have hb : ¬(t.ownsScratch && t.lanes0.length != t.lstage) = true := by simpa using hl
    rw [if_neg hl]
    split <;> exact if_neg hb

/-! ### `vsetl` as a whole (R115) -/

theorem Issues.fork_delivered {s : State} {cs : List Cls} {ks : List MReg} (h : Issues s cs ks) :
    s.delivered.cur.fork = none := by
  obtain ⟨x, f, e⟩ := s.cur.replyAll_eq
  simpa [State.delivered, State.onCur, e] using h.1

/-- `vsetl` settles the grant of the strand with its replies delivered. -/
theorem State.vsetOp_eq {s : State} (h : Issues s clsVA []) (r : VsetReq) :
    s.vsetOp r =
      let s1 : State := { s.delivered with cur := s.delivered.cur.settling r.image }
      match s1.vset s1.cur r with
      | .ok (s', t) => .ok (({ s' with cur := t.adv 4 } : State).laneGrant t.core)
      | .error want => .error (.wait (.lane s1.laneOrder want r), s1) := by
  have hs1 : (if (r.image.extractLsb' 12 2).toNat = 0 then s.delivered else s.delivered.onCur Strand.drained) =
      { s.delivered with cur := s.delivered.cur.settling r.image } := by
    unfold Strand.settling
    split
    · rfl
    · exact s.drained_delivered
  unfold State.vsetOp
  rw [State.scalarGate_ok h.1 h.2.1, Res.bind_ok, bf_eq_extract, hs1]
  rfl

/-- A `vsetl` whose grant is settled completes. -/
theorem State.vsetOp_settled {s s' : State} {u : Strand} {r : VsetReq} (h : Issues s clsVA [])
    (hr : ({ s.delivered with cur := s.delivered.cur.settling r.image } : State).renegotiate
      (s.delivered.cur.settling r.image) r.image = .ok (s', u))
    (hf : u.fork = s.delivered.cur.fork) (hc : u.core = s.delivered.cur.core) :
    ∃ u', VtypeSet u u' r.rd r.image r.avl ∧ finish (s.vsetOp r) =
      .next (State.laneGrant { s' with cur := { u' with pc := u'.pc + 4 } } s.delivered.cur.core) := by
  refine ⟨u.setVtype r, u.vtypeSet_setVtype r, ?_⟩
  rw [State.vsetOp_eq h]
  obtain ⟨hfork, hcore⟩ := (u.vtypeSet_setVtype r).fork_core
  simp only [State.vset, hr]
  rw [finish_ok, Strand.adv_of_unforked (by rw [hfork, hf, h.fork_delivered])]
  exact congrArg (fun c => Host.Outcome.next (State.laneGrant _ c)) (hcore.trans hc)

/-- Every form of `vsetl` (R34, R115), by what becomes of the request. -/
theorem State.vsetOp_cases {s : State} (h : Issues s clsVA []) (r : VsetReq) :
    let t := s.delivered.cur
    let req := (r.image.extractLsb' 12 2).toNat
    let w := if req = 0 then t else { t with vq := 0 }
    let next (s' : State) (u : Strand) : Prop := ∃ u', VtypeSet u u' r.rd r.image r.avl ∧
      finish (s.vsetOp r) = .next (State.laneGrant { s' with cur := { u' with pc := u'.pc + 4 } } t.core)
    (req = 0 → t.g ≠ 0 → next s.delivered { w with nr := false, short := false })
    ∧ ((req ≠ 0 ∨ t.g = 0) → t.vdirty ≠ 0 → next s.delivered { w with nr := true, short := false })
    ∧ ((req ≠ 0 ∨ t.g = 0) → t.vdirty = 0 →
        let q := if req = 0 then 1 else req
        (∀ g', s.delivered.offer t q = some g' →
          ∀ z, z = (if t.g = 0 then { w with v := Vector.replicate 32 0, k := Vector.replicate 8 0 } else w) →
          let sR := s.delivered.regrant w g'
          next sR { z with
            g := g', nr := false, short := !t.ownsScratch && q != 3 && decide (g' < q)
            lanes0 := if t.ownsScratch = true ∧ t.lanes0.length ≠ t.lstage then (sR.core t.core).lanesOf t.slot
                      else t.lanes0 })
        ∧ (s.delivered.offer t q = none → ∃ o, finish (s.vsetOp r) = .next { s.delivered with cur :=
            { w with status := .waiting (.lane o (t.wants q) r) } })) := by
  intro t req w next
  obtain ⟨vq, hvq⟩ : ∃ q, w = { t with vq := q } := t.settling_eq r.image
  have settled : ∀ (s' : State) (u : Strand), ({ s.delivered with cur := w } : State).renegotiate w r.image = .ok (s', u) →
      u.fork = t.fork → u.core = t.core → next s' u := fun s' u => State.vsetOp_settled h
  have whole : s.vsetOp r = match ({ s.delivered with cur := w } : State).vset w r with
      | .ok (s', t) => .ok (({ s' with cur := t.adv 4 } : State).laneGrant t.core)
      | .error want => .error (.wait (.lane ({ s.delivered with cur := w } : State).laneOrder want r),
          { s.delivered with cur := w }) := State.vsetOp_eq h r
  have hq (q : Nat) : ({ s.delivered with cur := w } : State).offer w q = s.delivered.offer t q := by rw [hvq]; rfl
  have hg : w.g = t.g := by rw [hvq]
  have hvd : w.vdirty = t.vdirty := by rw [hvq]
  have hf : w.fork = t.fork := by rw [hvq]
  have hc : w.core = t.core := by rw [hvq]
  clear_value w
  rw [← hg, ← hvd]
  refine ⟨fun hreq hg => ?_, fun hreq hd => ?_, fun hreq hd => ?_⟩
  · exact settled { s.delivered with cur := w } _ (State.renegotiate_keep hreq hg) hf hc
  · exact settled { s.delivered with cur := w } _ (State.renegotiate_dirty hreq hd) hf hc
  · rw [← (lgreqOf_of_request hreq).1]
    refine ⟨fun new ho z hz => ?_, fun ho => ?_⟩
    · rw [← hq] at ho
      have he := State.renegotiate_offered hreq hd ho
      rw [State.regrant_withCur, State.settleLanes_regranted, ← hz] at he
      have hz' : z.fork = w.fork ∧ z.core = w.core := by rw [hz]; split <;> exact ⟨rfl, rfl⟩
      have hn := settled _ _ he (hz'.1.trans hf) (hz'.2.trans hc)
      clear hz' he hz hq settled whole
      subst hvq
      exact hn
    · rw [← hq] at ho
      refine ⟨({ s.delivered with cur := w } : State).laneOrder, ?_⟩
      rw [whole, State.vset, State.renegotiate_refused hreq hd ho]
      subst hvq
      rfl

/-! ### `vrel` (R36) -/

theorem State.freeLanes_withCur (s : State) (t u : Strand) :
    ({ s with cur := u } : State).freeLanes t = { s.freeLanes t with cur := u } := by
  unfold State.freeLanes
  split <;> rfl

theorem Strand.released_of_noGrant {t : Strand} (hg : t.g = 0) :
    t.released = { t with vl := 0, vstart := 0, vtype := villOnly, trimAt := none } := if_pos hg

theorem Strand.released_of_grant {t : Strand} (hg : t.g ≠ 0) :
    t.released = { t with
      vl := 0, vstart := 0, vtype := villOnly, trimAt := none, vdirty := 0, g := 0, nr := false, short := false } :=
  if_neg hg

theorem Strand.released_fork (t : Strand) : t.released.fork = t.fork := by
  by_cases hg : t.g = 0
  · rw [Strand.released_of_noGrant hg]
  · rw [Strand.released_of_grant hg]

/-- `vrel` of the strand with its replies delivered and its vector instructions completed. -/
theorem State.vrelOp_eq {s : State} (h : Issues s clsVA []) :
    let t : Strand := { s.delivered.cur with vq := 0 }
    s.vrelOp = .ok (State.laneGrant { s.delivered.freeLanes s.delivered.cur with
      cur := { t.released with pc := t.released.pc + 4 } } s.delivered.cur.core) := by
  intro t
  unfold State.vrelOp
  rw [State.scalarGate_ok h.1 h.2.1, Res.bind_ok, State.drained_delivered, State.freeLanes_withCur]
  exact congrArg (fun u => Except.ok (State.laneGrant { s.delivered.freeLanes s.delivered.cur with cur := u } _))
    (Strand.adv_of_unforked (t.released_fork.trans h.fork_delivered) 4)

/-- Settles O20, by the four things that become of a request: kept, not served, offered lane groups, and refused them. -/
theorem vectorConfiguration : Obligations.VectorConfiguration := by
  refine ⟨fun rd rs1 lgreq vt s h => ?_, fun rd rs1 rs2 s h => ?_, fun s h => ?_⟩
  · rw [← vsetliImage_eq]
    exact State.vsetOp_cases h { rd := rd, image := vsetliImage lgreq vt, avl := s.cur.avlOf rs1 }
  · exact State.vsetOp_cases h { rd := rd, image := s.cur.replyAll.getX rs2, avl := s.cur.avlOf rs1 }
  · have he : exec .vrel s = finish s.vrelOp := rfl
    rw [he, State.vrelOp_eq h, finish_ok]
    let after (u : Strand) : Host.Outcome State Fault Refusal := .next (State.laneGrant
      { s.delivered.freeLanes s.delivered.cur with cur := { u with pc := u.pc + 4 } } s.delivered.cur.core)
    let w : Strand := { s.delivered.cur with vq := 0 }
    exact ⟨fun hg => congrArg after (Strand.released_of_grant (t := w) hg),
      fun hg => congrArg after (Strand.released_of_noGrant (t := w) hg)⟩

end Sys2Proof.Machine
end

section
/-! PROOFS. Lane threads (R38, R132, R135): `lfork`, and the registers that the last `ljoin` writes. -/

namespace Sys2Proof.Machine

/-! ### `lfork` -/

/-- `lfork` starts the threads of the lanes that run (R132). -/
theorem State.lforkOp_eq {s : State} {vm : Bool} (h : Issues s clsV (maskOf vm)) (ht : s.cur.vtypeOk = true)
    (hv : s.delivered.cur.vstart = 0) (hl : s.delivered.cur.forkLanes vm ≠ []) :
    s.lforkOp vm = .ok { s.delivered with cur := { s.delivered.cur with
      vq := 0
      fork := some { threads := (s.delivered.cur.forkLanes vm).map s.delivered.cur.newLane, turn := 0, joinPc := 0 } } } := by
  let d : State := { s.delivered with cur := { s.delivered.cur with vq := 0 } }
  have hr : (d.cur.vtypeOk && d.cur.vstart == 0 && d.cur.forkLanes vm != []) = true := by
    have ht' : d.cur.vtypeOk = true := s.delivered_vtypeOk.trans ht
    have hv' : d.cur.vstart = 0 := hv
    have hl' : d.cur.forkLanes vm ≠ [] := hl
    simp [ht', hv', hl']
  have hop : s.lforkOp vm = require (d.cur.vtypeOk && d.cur.vstart == 0 && d.cur.forkLanes vm != []) .illegal d >>= fun _ =>
      .ok { d with cur := { d.cur with
        vstart := 0
        fork := some { threads := (d.cur.forkLanes vm).map d.cur.newLane, turn := 0, joinPc := 0 } } } := by
    unfold State.lforkOp
    rw [State.vectorGate_ok h, Res.bind_ok, State.drained_delivered]
    rfl
  rw [hop, hr, require_true, Res.bind_ok]
  exact congrArg (fun n => Except.ok { d with cur := { d.cur with
    vstart := n
    fork := some { threads := (d.cur.forkLanes vm).map d.cur.newLane, turn := 0, joinPc := 0 } } }) hv.symm

/-! ### `ljoin` -/

/-- The elements that joined lanes write: x1 to x31 of each, numbered as if v0 to v31 were one group (R135). -/
def joinElems (g : Nat) (ls : List LaneThread) : List (Nat × Nat) :=
  ls.flatMap fun l => ((List.finRange 32).filter (· ≠ 0)).map fun n => (n.val * perReg g 64 + l.lane, (l.x[n]).toNat)

/-- An element of a register within its lane groups, numbered from v0. -/
theorem setElem_from_zero {v : Vector VReg 32} {g n eb l x : Nat} (hl : l < perReg g eb) :
    setElem v g n eb l x = setElem v g 0 eb (n * perReg g eb + l) x := by
  have hp : 0 < perReg g eb := by omega
  simp only [setElem, Nat.div_eq_of_lt hl, Nat.mod_eq_of_lt hl, Nat.mul_comm n, Nat.mul_add_div hp, Nat.mul_add_mod,
    Nat.add_zero, Nat.zero_add]

theorem getElem_from_zero {v : Vector VReg 32} {g n eb l : Nat} (hl : l < perReg g eb) :
    getElem v g n eb l = getElem v g 0 eb (n * perReg g eb + l) := by
  have hp : 0 < perReg g eb := by omega
  simp only [getElem, Nat.div_eq_of_lt hl, Nat.mod_eq_of_lt hl, Nat.mul_comm n, Nat.mul_add_div hp, Nat.mul_add_mod,
    Nat.add_zero, Nat.zero_add]

/-- One lane's registers written back. -/
theorem joinRegs_eq_setElems {g : Nat} {ls : List LaneThread} (hl : ∀ o ∈ ls, o.lane < perReg g 64) (v : Vector VReg 32) :
    joinRegs v g ls = setElems v g 0 64 (joinElems g ls) := by
  unfold joinRegs setElems joinElems
  rw [List.foldl_flatMap]
  refine List.foldl_ext _ _ _ fun v o ho => ?_
  rw [List.foldl_map, List.foldl_filter]
  refine List.foldl_ext _ _ _ fun v n _ => ?_
  by_cases hn : n = 0
  · simp [hn]
  · simp [hn, setElem_from_zero (hl o ho)]

/-- A bit that no element written covers keeps its value. -/
theorem bit_setElems_other {g n eb : Nat} (hg : g ≤ 4) (hp : 0 < perReg g eb) {r : Fin 32} {b : Nat} (l : List (Nat × Nat))
    (h : ∀ p ∈ l, ¬(n + p.1 / perReg g eb = r.val ∧ p.1 % perReg g eb * eb ≤ b ∧ b < p.1 % perReg g eb * eb + eb))
    (v : Vector VReg 32) : ((setElems v g n eb l)[r]).getLsbD b = (v[r]).getLsbD b := by
  induction l generalizing v with
  | nil => rfl
  | cons p l ih =>
    exact (ih (fun q hq => h q (List.mem_cons_of_mem p hq)) _).trans (bit_setElem_other hg hp (h p List.mem_cons_self))

theorem mem_joinElems {g : Nat} {ls : List LaneThread} {p : Nat × Nat} :
    p ∈ joinElems g ls ↔ ∃ o ∈ ls, ∃ n : Fin 32, n ≠ 0 ∧ p = (n.val * perReg g 64 + o.lane, (o.x[n]).toNat) := by
  simp only [joinElems, List.mem_flatMap, List.mem_map, List.mem_filter, List.mem_finRange, true_and, decide_eq_true_eq,
    eq_comm (a := p)]

theorem nodup_joinElems {g : Nat} {ls : List LaneThread} (hl : ∀ o ∈ ls, o.lane < perReg g 64)
    (hd : (ls.map (·.lane)).Nodup) : ((joinElems g ls).map (·.1)).Nodup := by
  have hinj : ∀ {n m : Fin 32} {l k : Nat}, l < perReg g 64 → k < perReg g 64 →
      n.val * perReg g 64 + l = m.val * perReg g 64 + k → n = m ∧ l = k := by
    intro n m l k hl hk he
    have hp : 0 < perReg g 64 := by omega
    have hdiv := congrArg (· / perReg g 64) he
    have hmod := congrArg (· % perReg g 64) he
    simp only [Nat.mul_comm _ (perReg g 64), Nat.mul_add_div hp, Nat.mul_add_mod, Nat.div_eq_of_lt hl, Nat.div_eq_of_lt hk,
      Nat.mod_eq_of_lt hl, Nat.mod_eq_of_lt hk] at hdiv hmod
    exact ⟨Fin.ext (by omega), hmod⟩
  unfold joinElems
  rw [List.map_flatMap, List.nodup_flatMap]
  refine ⟨fun o ho => ?_, ?_⟩
  · rw [List.map_map]
    refine ((List.nodup_finRange 32).filter _).map_on fun n _ m _ he => ?_
    exact (hinj (hl o ho) (hl o ho) he).1
  · refine ((List.pairwise_map.mp hd).imp_of_mem fun ha hb hne => ?_)
    simp only [Function.onFun, List.disjoint_left, List.map_map, List.mem_map]
    rintro _ ⟨n, -, rfl⟩ ⟨m, -, he⟩
    exact hne (hinj (hl _ hb) (hl _ ha) he).2.symm

/-- The last `ljoin` of a fork: x1 to x31 of every lane stand in the registers, and nothing else of them has changed. -/
theorem joinRegs_spec {g : Nat} {ls : List LaneThread} (hg : g ≤ 4) (hd : (ls.map (·.lane)).Nodup)
    (hl : ∀ o ∈ ls, o.lane < 8 * g) (v : Vector VReg 32) :
    (∀ o ∈ ls, ∀ n : Fin 32, n ≠ 0 → getElem (joinRegs v g ls) g n.val 64 o.lane = (o.x[n]).toNat)
    ∧ ∀ (r : Fin 32) (b : Nat), (r = 0 ∨ ∀ o ∈ ls, ¬(64 * o.lane ≤ b ∧ b < 64 * o.lane + 64)) →
        ((joinRegs v g ls)[r]).getLsbD b = (v[r]).getLsbD b := by
  have hper : perReg g 64 = g * 128 := by unfold perReg; omega
  have hl' : ∀ o ∈ ls, o.lane < perReg g 64 := fun o ho => by have := hl o ho; omega
  rw [joinRegs_eq_setElems hl']
  refine ⟨fun o ho n hn => ?_, fun r b hrb => ?_⟩
  · have hp : 0 < perReg g 64 := by have := hl' o ho; omega
    rw [getElem_from_zero (hl' o ho)]
    have hlt : ∀ p ∈ joinElems g ls, 0 + p.1 / perReg g 64 < 32 := by
      intro p hp'
      obtain ⟨o, ho, m, -, rfl⟩ := mem_joinElems.mp hp'
      rw [Nat.mul_comm, Nat.mul_add_div hp, Nat.div_eq_of_lt (hl' o ho)]
      omega
    have := getElem_setElems hg hp _ hlt (nodup_joinElems hl' hd) v _ (mem_joinElems.mpr ⟨o, ho, n, hn, rfl⟩)
    rw [this, Nat.mod_eq_of_lt (o.x[n]).isLt]
  · rcases Nat.eq_zero_or_pos (perReg g 64) with hp | hp
    · obtain rfl : ls = [] := List.eq_nil_iff_forall_not_mem.mpr fun o ho => by have := hl' o ho; omega
      rfl
    · refine bit_setElems_other hg hp _ (fun p hp' => ?_) v
      obtain ⟨o, ho, m, hm, rfl⟩ := mem_joinElems.mp hp'
      rw [Nat.mul_comm, Nat.mul_add_div hp, Nat.mul_add_mod, Nat.div_eq_of_lt (hl' o ho), Nat.mod_eq_of_lt (hl' o ho)]
      rintro ⟨hr, hb⟩
      rcases hrb with rfl | hb'
      · exact hm (Fin.ext (by simpa using hr))
      · exact hb' o ho (by omega)

/-- The lane thread whose turn it is stops; what becomes of the fork depends on whether another still runs (R135). -/
theorem Strand.joinLane_eq {t : Strand} {f : Fork} {l : LaneThread} (hf : t.fork = some f)
    (hl : f.threads[f.turn]? = some l) :
    let ls := f.threads.set f.turn { l with joined := true, pc := l.pc + 4 }
    t.joinLane f =
      if ls.all (·.joined) then
        { t with v := joinRegs t.v t.g ls, vdirty := t.vdirty ||| 0xFFFFFFFE, pc := l.pc + 4, fork := none }
      else { t with fork := some { f with threads := ls, joinPc := l.pc + 4 } } := by
  have hpc : t.getPc = l.pc := by simp [Strand.getPc, hf, hl]
  simp only [Strand.joinLane, hpc, List.modify_eq_set_getElem?, hl]
  rfl

theorem State.execLjoin_eq {s : State} {f : Fork} (hf : s.cur.fork = some f) :
    exec .ljoin s = .next { s with cur := s.cur.joinLane f } := by
  show finish s.ljoinOp = _
  rw [State.ljoinOp, hf]
  rfl

/-- Settles O22, by what `lfork` makes of the lanes that run and what the last `ljoin` writes of theirs. -/
theorem laneThreads : Obligations.LaneThreads := by
  constructor
  · intro vm s h ht hv t runs hl
    have hv' : t.vstart = 0 := by
      obtain ⟨x, fr, e⟩ := s.cur.replyAll_eq
      simpa [t, State.delivered, State.onCur, e] using hv
    have hlanes : t.forkLanes vm ≠ [] := by
      obtain ⟨l, hl8, hrun⟩ := hl
      exact List.ne_nil_of_mem (List.mem_filter.mpr ⟨List.mem_range.mpr hl8, hrun⟩)
    show finish (s.lforkOp vm) = _
    rw [State.lforkOp_eq h ht hv' hlanes]
    rfl
  · intro s f l hf hturn ls
    rw [State.execLjoin_eq hf, Strand.joinLane_eq hf hturn]
    refine ⟨fun hrun => ?_, fun hlast hg hd hlane => ?_⟩
    · have hall : ¬ls.all (·.joined) = true := by
        obtain ⟨o, ho, hj⟩ := hrun
        exact fun ha => by simpa [hj] using List.all_eq_true.mp ha o ho
      rw [if_neg hall]
    · obtain ⟨helem, hbit⟩ := joinRegs_spec hg hd hlane s.cur.v
      refine ⟨joinRegs s.cur.v s.cur.g ls, helem, hbit, ?_⟩
      rw [if_pos (List.all_eq_true.mpr hlast)]

end Sys2Proof.Machine
end

section
/-! PROOFS. Quelan CSRs (R28, R36, R60, R64, R65): an access as a whole, and the fields of what a read gives. -/

namespace Sys2Proof.Machine

/-! ### An access -/

theorem Strand.quelanWrite_fork (t : Strand) (n : Nat) (w : Word) : (t.quelanWrite n w).fork = t.fork := by
  unfold Strand.quelanWrite Strand.writeVdirty
  split <;> rfl

theorem Strand.putX_eq_setX {t : Strand} (h : t.fork = none) (r : Reg) (v : Word) : t.putX r v = t.setX r v := by
  simp [Strand.putX, h]

/-- The machine a Quelan CSR is accessed in: vector work complete, replies delivered (R65). -/
def State.settledForCsr (s : State) : State := { s.delivered with cur := { s.delivered.cur with vq := 0 } }

/-- What is written by a Quelan CSR access that writes. -/
def State.quelanNew (s : State) (a : FCsr) : Word :=
  csrNew a.op (s.settledForCsr.quelanRead a.csr.toNat) (s.settledForCsr.cur.csrSrc a)

/-- A Quelan CSR access: the old value in rd, the new one written (R65). -/
theorem State.quelanCsrOp_eq {s : State} {a : FCsr} (h : Issues s anyCls []) (hw : a.writes = true → a.csr.toNat < 0xCC0) :
    s.quelanCsrOp a = .ok (State.pcBehind { s.settledForCsr with
      cur := (if a.writes then s.settledForCsr.cur.quelanWrite a.csr.toNat (s.quelanNew a)
              else s.settledForCsr.cur).setX a.rd (s.settledForCsr.quelanRead a.csr.toNat) } 4) := by
  have hfork : s.settledForCsr.cur.fork = none := Issues.fork_delivered h
  have hreq : (!(a.writes && decide (a.csr.toNat ≥ 0xCC0))) = true := by
    cases hc : a.writes
    · rfl
    · have := hw hc
      simpa using this
  have hdrain : s.onCur Strand.drained = s.settledForCsr := rfl
  unfold State.quelanCsrOp
  rw [State.classGate_ok h.1 h.2.1, Res.bind_ok, hdrain, hreq]
  show (require true .illegal s.settledForCsr >>= fun _ => _) = _
  rw [require_true, Res.bind_ok]
  cases a.writes with
  | false =>
    exact congrArg (fun u => Except.ok (State.pcBehind { s.settledForCsr with cur := u } 4)) (Strand.putX_eq_setX hfork _ _)
  | true =>
    exact congrArg (fun u => Except.ok (State.pcBehind { s.settledForCsr with cur := u } 4))
      (Strand.putX_eq_setX ((Strand.quelanWrite_fork _ _ _).trans hfork) _ _)

/-- A read sees what the strand held before: delivering replies writes only x and f registers. -/
theorem State.quelanRead_settled (s : State) (n : Nat) : s.settledForCsr.quelanRead n = s.quelanRead n := by
  obtain ⟨x, f, e⟩ := s.cur.replyAll_eq
  unfold State.settledForCsr State.delivered State.onCur
  rw [e]
  rfl

/-- The lowest bits of a word. -/
theorem bf_zero (w : Word) (n : Nat) : bf w 0 n = (w.setWidth n).toNat := by
  rw [bf, fld, BitVec.toNat_setWidth, Nat.pow_zero, Nat.div_one]

/-! ### Fields of what a read gives -/

/-- Bits of a word summed from their powers of two. -/
theorem testBit_sum_boolBit (p : Nat → Bool) (n : Nat) :
    ((List.range n).map fun i => boolBit (p i) i).sum < 2 ^ n
    ∧ ∀ i, i < n → (((List.range n).map fun i => boolBit (p i) i).sum).testBit i = p i := by
  induction n with
  | zero => simp
  | succ n ih =>
    obtain ⟨hlt, hbit⟩ := ih
    have hsum : ((List.range (n + 1)).map fun i => boolBit (p i) i).sum =
        2 ^ n * (p n).toNat + ((List.range n).map fun i => boolBit (p i) i).sum := by
      rw [List.range_succ, List.map_append, List.sum_append, Nat.add_comm]
      cases h : p n <;> simp [boolBit, h]
    rw [hsum]
    refine ⟨?_, fun i hi => ?_⟩
    · have := Bool.toNat_lt (p n)
      have := Nat.mul_le_mul_left (2 ^ n) (show (p n).toNat ≤ 1 by omega)
      rw [Nat.pow_succ]
      omega
    · rw [Nat.testBit_two_pow_mul_add _ hlt]
      split
      · next h => exact hbit i h
      · obtain rfl : i = n := by omega
        rw [Nat.sub_self]
        cases p i <;> rfl

theorem Strand.lgrant_fields (t : Strand) (hg : t.g ≤ 4) :
    let old : Word := BitVec.ofNat 64 t.lgrant
    old.extractLsb' 0 3 = BitVec.ofNat 3 t.g ∧ old.getLsbD 3 = t.nr ∧ old.getLsbD 4 = t.short ∧ old.extractLsb' 5 59 = 0 := by
  unfold Strand.lgrant
  generalize t.g = g at hg ⊢
  cases t.nr <;> cases t.short <;> interval_cases g <;> decide

/-- A field of a number in a word. -/
theorem extract_ofNat {v : Nat} (hv : v < 2 ^ 64) (lo n : Nat) :
    (BitVec.ofNat 64 v).extractLsb' lo n = BitVec.ofNat n (v / 2 ^ lo) := by
  apply BitVec.eq_of_toNat_eq
  rw [BitVec.extractLsb'_toNat, Nat.shiftRight_eq_div_pow, BitVec.toNat_ofNat, BitVec.toNat_ofNat, Nat.mod_eq_of_lt hv]

theorem ofNat_eq_of_mod_eq {n a b : Nat} (h : a % 2 ^ n = b % 2 ^ n) : BitVec.ofNat n a = BitVec.ofNat n b :=
  BitVec.eq_of_toNat_eq (by rw [BitVec.toNat_ofNat, BitVec.toNat_ofNat, h])

/-- STRANDID, by the strand's coordinates (R28). -/
theorem Strand.sid_fields (t : Strand) (hl : t.glin < 2 ^ 24) (hg : t.stage < 8) (hx : t.six < 16) :
    let old : Word := BitVec.ofNat 64 t.sid
    old.extractLsb' 8 24 = BitVec.ofNat 24 t.glin ∧ old.getLsbD 7 = false ∧ old.extractLsb' 4 3 = BitVec.ofNat 3 t.stage
    ∧ old.extractLsb' 0 4 = BitVec.ofNat 4 t.six ∧ old.extractLsb' 32 32 = 0 := by
  have hval : t.sid = t.glin * 256 + t.stage * 16 + t.six := rfl
  have hlt : t.sid < 2 ^ 64 := by omega
  have field := extract_ofNat hlt
  refine ⟨(field 8 24).trans (ofNat_eq_of_mod_eq (by omega)), ?_, (field 4 3).trans (ofNat_eq_of_mod_eq (by omega)),
    (field 0 4).trans (ofNat_eq_of_mod_eq (by omega)), (field 32 32).trans (ofNat_eq_of_mod_eq (b := 0) (by omega))⟩
  rw [BitVec.getLsbD, BitVec.toNat_ofNat, Nat.mod_eq_of_lt hlt, Nat.testBit_eq_decide_div_mod_eq, decide_eq_false_iff_not]
  omega

/-- CESTAT: commands in flight and free entries of the engine's queue. -/
theorem State.cestat_fields (s : State) (h : (s.core s.cur.core).engine.length ≤ 2) :
    let old : Word := BitVec.ofNat 64 s.cestat
    (old.extractLsb' 0 2).toNat = (if s.cur.cls = .control then 0 else 2 - (s.core s.cur.core).engine.length)
    ∧ old.extractLsb' 2 6 = 0 ∧ old.extractLsb' 16 48 = 0
    ∧ (old.extractLsb' 8 8).toNat =
        min 255 ((s.cores.map fun c => (c.engine.filter fun k => k.uid == s.cur.uid).length).sum) := by
  have hval : s.cestat = min ((s.cores.map fun c => (c.engine.filter fun k => k.uid == s.cur.uid).length).sum) 255 * 2 ^ 8
      + if s.cur.cls = .control then 0 else 2 - (s.core s.cur.core).engine.length := rfl
  have hfree : (if s.cur.cls = .control then 0 else 2 - (s.core s.cur.core).engine.length) < 3 := by split <;> omega
  generalize (s.cores.map fun c => (c.engine.filter fun k => k.uid == s.cur.uid).length).sum = infl at *
  generalize (if s.cur.cls = .control then 0 else 2 - (s.core s.cur.core).engine.length) = free at *
  have hlt : s.cestat < 2 ^ 64 := by omega
  have field := extract_ofNat hlt
  refine ⟨?_, (field 2 6).trans (ofNat_eq_of_mod_eq (b := 0) (by omega)),
    (field 16 48).trans (ofNat_eq_of_mod_eq (b := 0) (by omega)), ?_⟩
  · rw [field, BitVec.toNat_ofNat]; omega
  · rw [field, BitVec.toNat_ofNat]; omega

/-- INBST: messages held, and the channels that hold one. -/
theorem Strand.inbst_fields (t : Strand) (h : t.inbox.length ≤ 64) :
    let old : Word := BitVec.ofNat 64 t.inbst
    (old.extractLsb' 16 7).toNat = t.inbox.length ∧ old.extractLsb' 23 41 = 0
    ∧ ∀ c : QReg, old.getLsbD c.val = t.inbox.any fun m => m.ch == c := by
  let holds (i : Nat) : Bool := t.inbox.any fun m => m.ch.val == i
  have hany (c : QReg) : (t.inbox.any fun m => m.ch == c) = holds c.val := by
    have hch (m : Msg) : (m.ch == c) = (m.ch.val == c.val) := by
      rw [Bool.eq_iff_iff, beq_iff_eq, beq_iff_eq, Fin.ext_iff]
    simp only [holds, hch]
  have hchan (c : QReg) : (t.channel c != []) = holds c.val := by
    rw [← hany, Bool.eq_iff_iff, bne_iff_ne, Ne, Strand.channel, List.filter_eq_nil_iff, List.any_eq_true]
    simp
  have hval : t.inbst = 2 ^ 16 * t.inbox.length + ((List.range 16).map fun i => boolBit (holds i) i).sum := by
    unfold Strand.inbst
    rw [Nat.mul_comm, ← List.map_coe_finRange_eq_range, List.map_map]
    simp only [hchan, Function.comp_def]
  obtain ⟨hsum, hbit⟩ := testBit_sum_boolBit holds 16
  generalize ((List.range 16).map fun i => boolBit (holds i) i).sum = bits at *
  have hlt : t.inbst < 2 ^ 64 := by omega
  have field := extract_ofNat hlt
  refine ⟨?_, (field 23 41).trans (ofNat_eq_of_mod_eq (b := 0) (by omega)), fun c => ?_⟩
  · rw [field, BitVec.toNat_ofNat]; omega
  · rw [BitVec.getLsbD, BitVec.toNat_ofNat, Nat.mod_eq_of_lt hlt, hval, Nat.testBit_two_pow_mul_add _ hsum, if_pos c.isLt,
      hbit c.val c.isLt, hany]

/-! ### `fflags`, `frm` and `fcsr` (R59) -/

/-- An access to one of the standard user CSRs. -/
theorem exec_fpCsr {f : Form} {a : FCsr} {s : State} (hi : ScalarIssue s [.control, .vector] false)
    (hn : isFpCsr a.csr.toNat = true) :
    let t := s.delivered.cur
    let old := t.fcsrRead a.csr.toNat
    exec (.rv64ScalarInstruction f (.csr a)) s = .next (State.pcBehind { s.delivered with
      cur := (if a.writes then t.fcsrWrite a.csr.toNat (csrNew a.op old (t.csrSrc a)) else t).putX a.rd old } (bytesOf f)) := by
  have heff : s.delivered.rvEffect (bytesOf f) (.csr a) = .ok ((s.delivered.stdCsrOp a).scalarDone (bytesOf f)) := rfl
  refine exec_scalar hi ?_ (fun h => nomatch h) ?_ (heff.trans ?_)
  · simp [scalarClasses, hn]
  · simp [State.privOk, State.csrAllowed, hn]
  · rw [State.stdCsrOp, if_pos hn]
    rfl

/-- `fcsr` by its fields. -/
theorem Strand.fcsrRead_fcsr (t : Strand) : t.fcsrRead 3 = t.frm.setWidth 64 <<< 5 ||| t.fflags.setWidth 64 := by
  have hfl := t.fflags.isLt
  have hrm := t.frm.isLt
  apply BitVec.eq_of_toNat_eq
  simp only [Strand.fcsrRead, BitVec.toNat_ofNat, BitVec.toNat_or, BitVec.toNat_shiftLeft, BitVec.toNat_setWidth]
  rw [Nat.mod_eq_of_lt (by omega), Nat.mod_eq_of_lt (by omega), Nat.mod_eq_of_lt (by omega), Nat.shiftLeft_eq,
    Nat.mod_eq_of_lt (by omega), Nat.mul_comm, ← Nat.two_pow_add_eq_or_of_lt hfl]

theorem Strand.fcsrWrite_fcsr (t : Strand) (w : Word) :
    t.fcsrWrite 3 w = { t with fflags := w.setWidth 5, frm := w.extractLsb' 5 3 } := by
  have h : (w >>> 5).setWidth 3 = w.extractLsb' 5 3 := by
    apply BitVec.eq_of_toNat_eq
    rw [BitVec.toNat_setWidth, BitVec.toNat_ushiftRight, BitVec.extractLsb'_toNat]
  rw [← h]
  rfl

/-- Settles O36, from the access as a whole, the bits that each write defines, and the fields of each read. -/
theorem quelanCsrs : Obligations.QuelanCsrs := by
  refine ⟨?_, ?_⟩
  · intro a s h t d old src new ends
    have write (hw : a.writes = true) (hlt : a.csr.toNat < 0xCC0) {u : Strand} (hu : t.quelanWrite a.csr.toNat new = u) :
        finish (s.quelanCsrOp a) = .next (State.pcBehind { d with cur := u.setX a.rd old } 4) := by
      rw [State.quelanCsrOp_eq h fun _ => hlt, hw, finish_ok, ← hu]
      rfl
    refine ⟨fun hw => ?_, fun hw hn => ?_, fun hw hn => ?_, fun hw hn => ?_, fun hw hn => ?_, fun hw hn => ?_, ?_⟩
    · have hread := State.quelanCsrOp_eq h (a := a) (by simp [hw])
      show finish (s.quelanCsrOp a) = _
      rw [hread, hw, finish_ok]
      rfl
    · refine write hw (by rw [hn]; decide) ?_
      rw [hn, ← bf_zero]
      rfl
    · exact write hw (by rw [hn]; decide) (by rw [hn]; rfl)
    · exact write hw (by rw [hn]; decide) (by rw [hn]; rfl)
    · have hwrite := write hw (by rw [hn]; decide) (u := t.writeVdirty new) (by rw [hn]; rfl)
      exact ⟨_, fun r => Vector.getElem_ofFn _, hwrite, hwrite⟩
    · exact write hw (by rw [hn]; decide) (by rw [hn]; rfl)
    · intro n hn
      have hold : old = s.quelanRead n := by rw [hn]; exact s.quelanRead_settled _
      clear_value old
      subst hold
      refine ⟨?_, ?_, ?_, ?_, ?_, ?_, ?_, ?_, ?_, ?_, ?_, ?_, ?_, ?_, ?_, ?_, ?_, ?_, ?_, ?_, ?_, ?_, ?_, ?_⟩
      · rintro rfl; rfl
      · rintro rfl; exact BitVec.ofNat_toNat ..
      · rintro rfl; exact BitVec.ofNat_toNat ..
      · rintro rfl; exact BitVec.ofNat_toNat ..
      · rintro rfl; exact BitVec.ofNat_toNat ..
      · rintro rfl; rfl
      · rintro rfl; rfl
      · rintro rfl; rfl
      · rintro rfl; rfl
      · rintro rfl; rfl
      · rintro rfl; rfl
      · rintro rfl; rfl
      · rintro rfl; rfl
      · rintro rfl; rfl
      · rintro rfl; rfl
      · rintro rfl; rfl
      · rintro rfl; rfl
      · rintro rfl; exact s.cur.lgrant_fields
      · rintro rfl; exact s.cur.sid_fields
      · rintro rfl; show BitVec.ofNat 64 (clsCode s.cur.cls) = _; cases s.cur.cls <;> rfl
      · rintro rfl; exact s.cestat_fields
      · rintro rfl; exact s.cur.inbst_fields
      · rintro rfl
        show BitVec.ofNat 64 (if s.cur.cls == .vector then _ else 0) = _
        by_cases hv : s.cur.cls = .vector
        · rw [if_pos hv, if_pos (beq_iff_eq.mpr hv), Core.socc]
        · rw [if_neg hv, if_neg (mt beq_iff_eq.mp hv)]; rfl
      · rintro rfl
        show BitVec.ofNat 64 (if s.cur.cls == .vector then _ else 0xFFFF) = _
        by_cases hv : s.cur.cls = .vector
        · rw [if_pos hv, if_pos (beq_iff_eq.mpr hv), BitVec.ofNat_toNat]
        · rw [if_neg hv, if_neg (mt beq_iff_eq.mp hv)]; rfl
  · intro f a s hi t src new ends fc
    have whole {n : BitVec 12} (hn : a.csr = n) (hfp : isFpCsr n.toNat = true) := exec_fpCsr (f := f) hi (hn ▸ hfp)
    refine ⟨fun hn => ?_, fun hn => ?_, fun hn => ?_⟩
    · refine (whole hn rfl).trans ?_
      rw [hn]
      rfl
    · refine (whole hn rfl).trans ?_
      rw [hn]
      rfl
    · refine (whole hn rfl).trans ?_
      rw [hn, show (3 : BitVec 12).toNat = 3 from rfl, Strand.fcsrRead_fcsr, Strand.fcsrWrite_fcsr]
      rfl

end Sys2Proof.Machine
end

section
/-! PROOFS. A step that runs the instruction at the pc (R47, R52, R255), and what fetching it from Bare memory leaves. -/

namespace Sys2Proof.Machine

/-! ### Fetching (R52) -/

/-- The parcels at the pc that decode are the instruction fetched. -/
theorem State.fetchInstr_of_decode {s s1 s2 : State} {w n w' : Nat} {i : Instr}
    (hx : ¬(s.cur.mode = .u ∧ s.cur.getPc = exitAddr)) (h1 : s.fetchParcel s.cur.getPc = .ok (w, s1))
    (hn : parcelLength w = .ok n) (h2 : s1.fetchParcels s.cur.getPc (n / 2) = .ok (w', s2)) (hi : decodeWord n w' = .ok i) :
    s.fetchInstr = .ok (.instr i n, s2) := by
  rw [State.fetchInstr, if_neg hx, State.fetchAt, h1]
  dsimp only [bind, Except.bind]
  rw [hn]
  dsimp only
  rw [h2]
  dsimp only
  rw [hi]
  rfl

theorem State.issue_of_fetch {s s2 : State} {i : Instr} {n : Nat} (h : s.fetchInstr = .ok (.instr i n, s2)) :
    s.issue = exec (s2.resolve i).1 (s2.resolve i).2 := by
  rw [State.issue, h]

theorem State.nextIsVector_of_fetch {s s2 : State} {i : Instr} {n : Nat} (h : s.fetchInstr = .ok (.instr i n, s2)) :
    s.nextIsVector = isVectorInstr i := by
  rw [State.nextIsVector, h]

/-! ### Rows (log 7) -/

/-- Outside lane threads every decoded instruction but `ccmove` is a row of its own. -/
theorem State.resolve_of_unforked {s : State} {i : Instr} (hf : s.cur.fork = none) (hi : ∀ rd rs1, i ≠ .ccmoveMove rd rs1) :
    s.resolve i = (i, s) := by
  unfold State.resolve
  split
  · next rd rs1 => exact absurd rfl (hi rd rs1)
  · simp [hf]

/-! ### Bare memory (R310) -/

theorem State.tableTouch_of_noTable {s : State} (h : s.plat.pktbase.getLsbD 0 = false) (a : Nat) : s.tableTouch a = s := by
  have hbit : bf s.plat.pktbase 0 1 = 0 := by
    rw [BitVec.getLsbD, Nat.testBit_eq_decide_div_mod_eq, decide_eq_false_iff_not] at h
    rw [bf, fld]
    omega
  rw [State.tableTouch, if_pos hbit]

theorem State.tablesTouch_of_noTable {s : State} (h : s.plat.pktbase.getLsbD 0 = false) (ps : List (Phys × Nat)) :
    s.tablesTouch ps = s := by
  induction ps with
  | nil => rfl
  | cons p ps ih => rw [State.tablesTouch, List.foldl_cons, State.tableTouch_of_noTable h]; exact ih

/-- A parcel fetched from Bare memory leaves only traffic, and nothing without a page key table (R182). -/
theorem State.fetchParcel_bare {s s1 : State} {pc : Word} {w : Nat} (hc : s.cur.cls = .control) (hm : s.cur.mode ≠ .u)
    (h : s.fetchParcel pc = .ok (w, s1)) : CachesOnly s s1 ∧ (s.plat.pktbase.getLsbD 0 = false → s1 = s) := by
  have hbare : (s.cur.cls == .control && s.cur.mode != .u) = true := by simp [hc, hm]
  rw [State.fetchParcel, if_pos hbare] at h
  split at h
  · obtain ⟨-, rfl⟩ := Prod.mk.inj (Except.ok.inj h)
    exact ⟨CachesOnly.refl s, fun _ => rfl⟩
  · split at h
    · exact nomatch h
    · split at h
      · exact nomatch h
      · split at h
        · exact nomatch h
        · obtain ⟨-, rfl⟩ := Prod.mk.inj (Except.ok.inj h)
          exact ⟨s.tablesTouch_cachesOnly _, fun hp => State.tablesTouch_of_noTable hp _⟩

theorem State.fetchParcels_bare {n : Nat} : ∀ {s s1 : State} {pc : Word} {w : Nat}, s.cur.cls = .control → s.cur.mode ≠ .u →
    s.fetchParcels pc n = .ok (w, s1) → CachesOnly s s1 ∧ (s.plat.pktbase.getLsbD 0 = false → s1 = s) := by
  induction n with
  | zero =>
    intro s s1 pc w _ _ h
    obtain ⟨-, rfl⟩ := Prod.mk.inj (Except.ok.inj h)
    exact ⟨CachesOnly.refl s, fun _ => rfl⟩
  | succ n ih =>
    intro s s2 pc w hc hm h
    rw [State.fetchParcels] at h
    cases h1 : s.fetchParcel pc with
    | error e => rw [h1] at h; exact nomatch h
    | ok p =>
      obtain ⟨w1, s1⟩ := p
      obtain ⟨hco, heq⟩ := State.fetchParcel_bare hc hm h1
      rw [h1] at h
      dsimp only [bind, Except.bind] at h
      cases h2 : s1.fetchParcels (pc + 2) n with
      | error e => rw [h2] at h; exact nomatch h
      | ok q =>
        obtain ⟨w2, s2'⟩ := q
        rw [h2] at h
        obtain ⟨-, rfl⟩ := Prod.mk.inj (Except.ok.inj h)
        obtain ⟨hco', heq'⟩ := ih (by rw [hco.cur_eq]; exact hc) (by rw [hco.cur_eq]; exact hm) h2
        refine ⟨hco.trans hco', fun hp => ?_⟩
        obtain rfl := heq hp
        exact heq' hp

/-! ### The step -/

/-- A machine with no event in its turn's way gives the current strand its turn (log 2). -/
theorem step_eq_turn {s : State} (ha : s.agenda = []) (he : s.evTurn = false) (hd : s.plat.d3 = false)
    (hr : s.ready s.cur = true) : step s = s.turn := by
  simp [step, ha, State.proceed, hr, he, hd]

theorem State.onCur_eq_self {s : State} {f : Strand → Strand} (h : f s.cur = s.cur) : s.onCur f = s := by
  rw [State.onCur, h]

/-- The turn of a running strand that no interrupt takes: the instruction at its pc. -/
theorem State.turn_of_running {s t : State} (hs : s.cur.status = .running) (hirq : s.irq = none) (ht : s.issue = .next t) :
    s.turn = .next
      { (t.issued s.cur.uid s.cur.core s.cur.fork.isSome s.nextIsVector).rotate with evTurn := true } := by
  have hnone : (if s.cur.status = .waiting .interrupt then none else s.irq) = none := by rw [hirq, ite_self]
  unfold State.turn
  rw [hnone]
  dsimp only
  rw [State.onCur_eq_self (by rw [hs]), ht]

/-- Settles O55, by the fetch at the pc, the turn that it is made in, and the parcels of Bare memory. -/
theorem stepRunsDecodedInstruction : Obligations.StepRunsDecodedInstruction := by
  intro s s1 s2 w n w' i ha he hd hr hs hirq hx h1 hn h2 hi
  have hfetch := State.fetchInstr_of_decode hx h1 hn h2 hi
  refine ⟨fun t ht => ?_, fun hf hne => State.resolve_of_unforked hf hne, fun hc hm => ?_⟩
  · rw [step_eq_turn ha he hd hr, State.turn_of_running hs hirq ((State.issue_of_fetch hfetch).trans ht),
      State.nextIsVector_of_fetch hfetch]
  · obtain ⟨hco, heq⟩ := State.fetchParcel_bare hc hm h1
    have hcur := hco.cur_eq
    obtain ⟨hco', heq'⟩ := State.fetchParcels_bare (by rw [hcur]; exact hc) (by rw [hcur]; exact hm) h2
    refine ⟨hco.trans hco', fun hp => ?_⟩
    obtain rfl := heq hp
    exact heq' hp

end Sys2Proof.Machine
end

section
/-! PROOFS. The exit of a strand (R47, R161) among strands that share a number: where the claim of StrandControl about what
an exiting strand leaves unmatched fails. -/

namespace Sys2Proof.Machine

/-- A stage output that waits for its consumer. -/
def unmatchedOut : Stream :=
  { base := 0, dims := [], tag := 0, ch := 0, link := 0, peer := 0, kind := 2, eb := 4, nslot := 0, slotBytes := 0
    space := 0, rbase := 0, se := 0, g := 1, filled := [], next := 0, reserved := 0, done := 0, ended := false, ovr := false
    binding := none, mate := none, mateEnded := false, order := 0, wire := [] }

/-- A launch that has ended, number 1. -/
def endedLaunch : Launch :=
  { lid := 1, ctx := 0, recAddr := 0
    lrec := { codeh := 0, kern := 0, prio := 0, nobin := false, nx := 1, ny := 1, nz := 1, deps := [], args := 0, stkBase := 0
              stkSz := 0, stkN := 0, ovfl := 0, ovflN := 0, sx := 0, sy := 0, sz := 0, sbrd := 0, after := 0, lbase := 0
              strms := [], stages := [] }
    text := 0, entry := none, issuer := none, st := .complete, retired := [], released := [], placed := [], bins := []
    curBin := 0, age := 0, starved := false, dispatched := true, npre := 0, resuming := false, madeRoomFor := none, pool := []
    dying := none, final := none, asked := 0, endedOuts := [] }

/-- Strand 1 of launch 1 exits on a vector core. Two other strands there have the number 2: one of launch 2, which waits for
lane groups, and one of strand 1's group. -/
def exitAmongTwins : State :=
  { State.reset with
    cores := [Core.reset 0x0100]
    cur := { Strand.fresh 1 with
      core := 0x0100, slot := 0, lid := 1, status := .exiting, q := (Strand.fresh 1).q.set 0 (some unmatchedOut) }
    others := [{ Strand.fresh 2 with
                 core := 0x0100, slot := 1, lid := 2, status := .waiting (.lane 0 1 { rd := 0, image := 0x1000, avl := none }) },
               { Strand.fresh 2 with core := 0x0100, slot := 2, lid := 1 }]
    lu := { LaunchUnit.reset with launches := [endedLaunch] }
    arg := { uid := 1 } }

/-- The waiting twin's `vsetl` is completed by the lane groups that the exit frees, and what it writes to number 2 stands in
both: none of the group is left, the group retires, and what the exiting strand left unmatched is dropped with it. -/
theorem exitAmongTwins_endedOuts :
    ((exitAmongTwins.exitStrand 1).launch exitAmongTwins.cur.lid).map (·.endedOuts) = some [] := by decide +kernel

theorem exitAmongTwins_handles :
    ∀ q : QReg, exitAmongTwins.cur.q[q] = none ∨ exitAmongTwins.cur.q[q] = some unmatchedOut := by decide +kernel

/-- Refutes O47: its last clause names a strand of the group that stays, but not that its number is its own, and an exit among
strands that share a number leaves nothing to a consumer to come. -/
theorem not_strandControl : ¬ Obligations.StrandControl := by
  intro h
  obtain ⟨-, -, -, -, -, -, -, -, hexit⟩ := h exitAmongTwins
  have hout : ∀ (q : QReg) h, exitAmongTwins.cur.q[q] = some h → h.kind = 2 ∧ h.mate = none := by
    intro q h hq
    rcases exitAmongTwins_handles q with hn | hs
    · exact nomatch hn.symm.trans hq
    · obtain rfl := Option.some.inj (hs.symm.trans hq)
      exact ⟨rfl, rfl⟩
  obtain ⟨t, l, ht, -, hl, hmem⟩ := hexit rfl rfl (by decide +kernel) (StandsByOf.not_of_nil rfl _ _ _) hout rfl
    (by decide +kernel) (by decide +kernel)
  obtain rfl : exitAmongTwins.exitStrand 1 = t := Host.Outcome.next.inj ht
  have hnone : l.endedOuts = [] := by
    have hended := exitAmongTwins_endedOuts
    rw [hl] at hended
    exact Option.some.inj hended
  have hin := hmem 0 unmatchedOut rfl
  rw [hnone] at hin
  exact nomatch hin

end Sys2Proof.Machine
end
section
/-! PROOFS. The launch unit's entries, code objects and messages (R205, R207, R237, R239): what reading a record leaves of the
launch unit's own records, and LAUNCH_ACCEPT, the code objects, MESSAGE_ARRIVAL and OVERFLOW_DELIVERY case by case. -/

namespace Sys2Proof.Machine

/-! ### Accesses through a context's tables leave the launch unit's records -/

theorem State.walkTouch_cachesOnly (s : State) (ctx va : Nat) : CachesOnly s (s.walkTouch ctx va) :=
  CachesOnly.foldl (fun s a => s.unitTouch_cachesOnly a 8) _ s

theorem State.walked_cachesOnly (s : State) (ctx : Nat) (vas : List Nat) : CachesOnly s (s.walked ctx vas) :=
  CachesOnly.foldl (fun s a => s.walkTouch_cachesOnly ctx (a % 2 ^ 55)) vas s

theorem State.walkTouch_unitPart (s : State) (ctx va : Nat) : (s.walkTouch ctx va).unitPart = s.unitPart :=
  (s.walkTouch_cachesOnly ctx va).unitPart_eq

theorem State.setPte_unitPart (s : State) (a e : Nat) : (s.setPte a e).unitPart = s.unitPart :=
  (State.writePhys_unitPart _ _ _ _).trans (s.l2Touch_cachesOnly _ true).unitPart_eq

theorem State.judge_unitPart (s : State) (ctx va : Nat) (acc : Acc) : (s.judge ctx va acc).2.unitPart = s.unitPart := by
  have hw := s.walkTouch_unitPart ctx va
  unfold State.judge
  cases s.walkFrom ctx va with
  | invalid | malformed | beyond | bad => exact hw
  | held => rfl
  | leaf a e n =>
    dsimp only
    split
    · exact hw
    · split
      · rfl
      · exact hw
      · split
        · exact hw
        · exact (State.setPte_unitPart _ _ _).trans hw

theorem State.translate_unitPart (s : State) (ctx va n : Nat) (acc : Acc) :
    (s.translate ctx va n acc).2.unitPart = s.unitPart := by
  unfold State.translate
  dsimp only
  split
  next p s' h1 =>
    have hs' : s'.unitPart = s.unitPart := by rw [← s.judge_unitPart ctx (va % 2 ^ 55) acc, h1]
    split
    · exact hs'
    · split
      next p2 s'' h2 =>
        refine Eq.trans ?_ hs'
        rw [← s'.judge_unitPart ctx ((va + min n (65536 - va % 65536)) % 2 ^ 55) acc, h2]
      · rfl
  · rfl

theorem State.touchVirt_unitPart (s : State) (ctx va n : Nat) : (s.touchVirt ctx va n).unitPart = s.unitPart := by
  unfold State.touchVirt
  split
  · exact (s.walked_cachesOnly _ _).unitPart_eq
  next ps s' h =>
    refine (State.foldl_unitPart (fun s p => (s.l2Touch_cachesOnly p false).unitPart_eq) ps s').trans ?_
    rw [← s.translate_unitPart ctx va n .load, h]

theorem State.recordRead_unitPart (s : State) (ctx : Nat) (addr : Word) : (s.recordRead ctx addr).unitPart = s.unitPart := by
  unfold State.recordRead
  dsimp only
  split
  · rfl
  · split
    · exact (State.walked_cachesOnly _ _ _).unitPart_eq.trans (s.touchVirt_unitPart _ _ _)
    · exact s.touchVirt_unitPart _ _ _

theorem State.unitMark_unitPart (s : State) (ctx lid va : Nat) : (s.unitMark ctx lid va).unitPart = s.unitPart := by
  unfold State.unitMark
  split
  · dsimp only
    split
    · exact s.walkTouch_unitPart ctx va
    · exact (State.storeParts_unitPart _ _ _ _).trans (s.walkTouch_unitPart ctx va)
  · rfl

theorem State.storeVirt_lu {s s' : State} {ctx va lid : Nat} {bs : List Byte} (h : s.storeVirt ctx va bs lid = .ok s') :
    s'.lu = s.lu := by
  unfold State.storeVirt at h
  split at h
  · exact nomatch h
  · cases h
    exact (State.storeUnit_lu _ _ _ _).trans
      (congrArg Prod.fst (State.foldl_unitPart (fun s a => s.unitMark_unitPart ctx lid a) _ s))

theorem State.uqCtx_of_lu {s t : State} (h : t.lu = s.lu) (uq : Nat) : t.uqCtx uq = s.uqCtx uq := by
  unfold State.uqCtx
  rw [State.uqueue_of_lu h]

theorem State.recordRead_uqCtx (s : State) (ctx : Nat) (addr : Word) (uq : Nat) :
    (s.recordRead ctx addr).uqCtx uq = s.uqCtx uq :=
  State.uqCtx_of_lu (congrArg Prod.fst (s.recordRead_unitPart ctx addr)) uq

/-! ### Acceptance (R239) -/

theorem State.recordRead_of_not_canonical {addr : Word} (h : canonical addr.toNat = false) (s : State) (ctx : Nat) :
    s.recordRead ctx addr = s := by
  unfold State.recordRead
  rw [h]
  rfl

theorem State.acceptHeld_of_not_canonical {addr : Word} (h : canonical addr.toNat = false) (s : State) (ctx : Nat) :
    s.acceptHeld ctx addr = false := by
  unfold State.acceptHeld
  rw [h]
  rfl

theorem State.accept_of_not_canonical {addr : Word} (h : canonical addr.toNat = false) (s : State) (ctx : Nat)
    (entry : Option (Nat × Nat)) (issuer : Option (Nat × Nat × QReg)) : s.accept ctx addr entry issuer = .error 0x10 := by
  unfold State.accept
  rw [h]
  rfl

/-- A record that can be read at a canonical address below 2^55 is judged by R239. -/
theorem State.accept_of_loadVirt {s s1 : State} {ctx : Nat} {addr : Word} {bs : List Byte}
    (hc : canonical addr.toNat = true) (hlow : addr.toNat % 2 ^ 55 = addr.toNat)
    (h : s.loadVirt ctx addr.toNat 256 = .ok (bs, s1)) (entry : Option (Nat × Nat)) (issuer : Option (Nat × Nat × QReg)) :
    s.accept ctx addr entry issuer = match s.recordFault ctx addr.toNat bs issuer.isSome with
      | some st => .error st
      | none => .ok (s.makeLaunch ctx addr.toNat bs entry issuer) := by
  unfold State.accept
  rw [hc, hlow, h]
  rfl

/-- The entry of a record, with the LAUNCHID it would have, is marked accepted. -/
def State.markEntry (s : State) (uq seq lid : Nat) : State :=
  { s with lu := { s.lu with entries := s.lu.entries.map fun k =>
      if k.uq = uq ∧ k.seq = seq then { k with lid := some lid } else k } }

theorem State.acceptEntry_held {s : State} {uq seq : Nat} {e : QEntry} (ha : s.acceptable uq seq 0 = some e)
    (hh : s.acceptHeld (s.uqCtx uq) e.addr = true) : s.acceptEntry uq seq = s := by
  unfold State.acceptEntry
  rw [ha]
  exact if_pos hh

/-- LAUNCH_ACCEPT that does not wait reads the record and accepts it, or completes its entry with a status. -/
theorem State.acceptEntry_free {s : State} {uq seq : Nat} {e : QEntry} (ha : s.acceptable uq seq 0 = some e)
    (hh : s.acceptHeld (s.uqCtx uq) e.addr = false) :
    s.acceptEntry uq seq =
      match ((s.recordRead (s.uqCtx uq) e.addr).markEntry uq seq (s.recordRead (s.uqCtx uq) e.addr).lu.nextLid).accept
        (s.uqCtx uq) e.addr (some (uq, seq)) none with
      | .ok (_, s') => s'
      | .error st => (s.recordRead (s.uqCtx uq) e.addr).completeEntry uq seq st 0 0 := by
  unfold State.acceptEntry
  rw [ha]
  dsimp only
  rw [if_neg (by rw [hh]; exact Bool.false_ne_true), State.recordRead_uqCtx]
  rfl

/-! ### Code objects (R81, R237) -/

/-- An object of which the first byte lies at an address that is not canonical cannot be read. -/
theorem State.readBytes_of_not_canonical {a n : Nat} (h : canonical (a % 2 ^ 64) = false) (hn : 0 < n) (s : State)
    (ctx : Nat) : s.readBytes ctx a n = none := by
  have hnone : ∀ (l : List Nat) (f : Nat → List Byte → Option (List Byte)),
      l.foldl (fun o i => o.bind (f i)) none = none := by
    intro l f
    induction l with
    | nil => rfl
    | cons i l ih => exact ih
  obtain ⟨m, hm⟩ : ∃ m, (n + 4095) / 4096 = m + 1 := ⟨(n + 4095) / 4096 - 1, by omega⟩
  unfold State.readBytes
  rw [hm, List.range_succ_eq_map, List.foldl_cons, Option.bind_some]
  dsimp only
  rw [Nat.mul_zero, Nat.add_zero, h]
  exact hnone _ _

theorem cloferOk_kernels {h : List Byte} (hc : cloferOk h = true) : 1 ≤ rb h 6 2 := by
  simp only [cloferOk, Bool.and_eq_true, decide_eq_true_eq] at hc
  grind

theorem State.loadObject_of_unread {s : State} {c a : Nat} (h : s.readBytes c a 64 = none) : s.loadObject c a = .error 0x21 := by
  unfold State.loadObject
  rw [h]
  rfl

/-- With its header read, an object whose kernel records cannot be read is LS_FORMAT. -/
theorem State.loadObject_format {s : State} {c a : Nat} {h : List Byte} (hr : s.readBytes c a 64 = some h)
    (hbad : cloferOk h = false ∨ s.readBytes c (a + rb h 0x10 8) (256 * rb h 6 2) = none) :
    s.loadObject c a = .error 0x21 := by
  unfold State.loadObject
  rw [hr]
  dsimp only
  split
  · rfl
  next hn =>
    obtain hc | hk := hbad
    · rw [hc] at hn
      exact absurd (Bool.or_true _) hn
    · rw [hk]
      rfl

/-- The conditions on the kernel records of an object that can be read, in their order. -/
theorem State.loadObject_kernels {s : State} {c a : Nat} {h ks : List Byte} (hr : s.readBytes c a 64 = some h)
    (ha : canonical a = true) (hc : cloferOk h = true)
    (hk : s.readBytes c (a + rb h 0x10 8) (256 * rb h 6 2) = some ks) :
    (kernelsClean ks (rb h 6 2) = false → s.loadObject c a = .error 0x21)
      ∧ (kernelsClean ks (rb h 6 2) = true → profOk h = false → s.loadObject c a = .error 0x20)
      ∧ (kernelsClean ks (rb h 6 2) = true → profOk h = true → kernelsOk ks (rb h 6 2) = false →
          s.loadObject c a = .error 0x1A) := by
  unfold State.loadObject
  rw [hr]
  dsimp only
  rw [ha, hc, hk]
  exact ⟨fun h1 => by simp [h1, lsFORMAT], fun h1 h2 => by simp [h1, h2, lsPROFILE],
    fun h1 h2 h3 => by simp [h1, h2, h3, lsRESOURCE]⟩

theorem State.registerObject_held {s : State} {uq seq : Nat} {e : QEntry} (ha : s.acceptable uq seq 1 = some e)
    (hh : s.objectHeld (s.uqCtx uq) e.addr.toNat = true) : s.registerObject uq seq = s := by
  unfold State.registerObject
  rw [ha]
  exact if_pos hh

/-- CODE_OBJECT_REGISTER that does not wait, by what the loader finds. -/
theorem State.registerObject_free {s : State} {uq seq : Nat} {e : QEntry} (ha : s.acceptable uq seq 1 = some e)
    (hh : s.objectHeld (s.uqCtx uq) e.addr.toNat = false) {sO : State} (hO : s.objectRead (s.uqCtx uq) e.addr.toNat = sO) :
    (∀ st, sO.loadObject (sO.uqCtx uq) e.addr.toNat = .error st → s.registerObject uq seq = sO.completeEntry uq seq st 0 0)
      ∧ ∀ text size n, sO.loadObject (sO.uqCtx uq) e.addr.toNat = .ok (text, size, n) →
        s.registerObject uq seq = State.completeEntry { sO with lu := { sO.lu with
          code := sO.lu.code ++ [{ handle := sO.lu.nextHandle, ctx := sO.uqCtx uq, text := text, size := size, nkern := n }]
          nextHandle := sO.lu.nextHandle + 1 } } uq seq 0x01 0 (BitVec.ofNat 64 sO.lu.nextHandle) := by
  unfold State.registerObject
  rw [ha]
  dsimp only
  rw [if_neg (by rw [hh]; exact Bool.false_ne_true), hO]
  exact ⟨fun st h => by rw [h], fun text size n h => by rw [h]; rfl⟩

/-- CODE_OBJECT_UNREGISTER by what the handle names, and whether a live launch of its context uses it. -/
theorem State.unregisterObject_cases {s : State} {uq seq : Nat} {e : QEntry} (ha : s.acceptable uq seq 2 = some e) :
    (s.codeObj (s.uqCtx uq) e.addr.toNat = none → s.unregisterObject uq seq = s.completeEntry uq seq 0x1C 0 0)
      ∧ ∀ c, s.codeObj (s.uqCtx uq) e.addr.toNat = some c →
        ((∃ l ∈ s.lu.launches, l.live = true ∧ l.ctx = s.uqCtx uq ∧ l.lrec.codeh.toNat = c.handle) →
          s.unregisterObject uq seq = s.completeEntry uq seq 0x1B 0 0)
        ∧ ((∀ l ∈ s.lu.launches, l.live = true → l.ctx = s.uqCtx uq → l.lrec.codeh.toNat ≠ c.handle) →
          s.unregisterObject uq seq = State.completeEntry
            { s with lu := { s.lu with code := s.lu.code.filter fun k => k.handle != c.handle } } uq seq 0x01 0 0) := by
  unfold State.unregisterObject
  rw [ha]
  dsimp only
  refine ⟨fun h => by rw [h]; rfl, fun c h => ?_⟩
  rw [h]
  dsimp only
  refine ⟨fun hl => if_pos ?_, fun hl => if_neg ?_⟩
  · simpa [and_assoc] using hl
  · simpa [and_assoc] using hl

/-! ### Messages on their way (R207) -/

theorem State.launch_lid {s : State} {lid : Nat} {l : Launch} (h : s.launch lid = some l) : l.lid = lid := by
  simpa using List.find?_some h

theorem State.updLaunch_strandAt (s : State) (n : Nat) (f : Launch → Launch) (lid glin stage six : Nat) :
    (s.updLaunch n f).strandAt lid glin stage six = s.strandAt lid glin stage six := rfl

theorem State.strandAt_of_hasExited {s : State} {l : Launch} {glin stage six : Nat}
    (h : s.hasExited l glin stage six = true) : s.strandAt l.lid glin stage six = none := by
  unfold State.hasExited at h
  exact Option.isNone_iff_eq_none.mp (Bool.and_elim_left h)

theorem State.deliver_exited {s : State} {l : Launch} {glin stage six : Nat} {m : Msg}
    (hx : s.hasExited l glin stage six = true) : s.deliver l glin stage six m = .exited := by
  unfold State.deliver
  exact if_pos hx

/-- A message reaches a strand that can take it. -/
theorem State.deliver_inbox {s : State} {l : Launch} {glin stage six : Nat} {m : Msg} {t : Strand}
    (hx : s.hasExited l glin stage six = false) (ht : s.strandAt l.lid glin stage six = some t)
    (hc : s.canDeliver l t m.ch = true) :
    s.deliver l glin stage six m = .done (s.updStrand t.uid fun t => { t with inbox := t.inbox ++ [m] }) := by
  unfold State.deliver
  rw [hx, ht]
  exact if_pos hc

/-- With no strand that can take it, a message is held, or the pool is full. -/
theorem State.deliver_hold {s : State} {l : Launch} {glin stage six : Nat} {m : Msg}
    (hx : s.hasExited l glin stage six = false)
    (hc : ∀ t, s.strandAt l.lid glin stage six = some t → s.canDeliver l t m.ch = false) :
    s.deliver l glin stage six m = s.holdOr l { glin := glin, stage := stage, six := six, msg := m, slot := 0 } := by
  unfold State.deliver
  rw [hx]
  cases ht : s.strandAt l.lid glin stage six with
  | none => rfl
  | some t =>
    dsimp only
    rw [hc t ht]
    rfl

/-- A held message takes a free entry of the pool, and no other record of the launch unit changes. -/
theorem State.hold_lu (s : State) (l : Launch) (h : HeldMsg) :
    (s.hold l h).lu = (s.updLaunch l.lid fun k => { k with pool := k.pool ++ [{ h with slot := l.freeEntry }] }).lu := by
  unfold State.hold
  dsimp only
  split
  next hs => exact State.storeVirt_lu hs
  · rfl

/-- MESSAGE_ARRIVAL of a message to a live launch, by how it is delivered. -/
theorem State.arrival_live {s : State} {m : WireMsg} {rest : List WireMsg} (hw : s.wire = m :: rest) {l : Launch}
    (hl : s.launch m.lid = some l) (hlive : l.live = true) :
    s.arrival = match ({ s with wire := rest } : State).deliver l m.glin m.stage m.six m.msg with
      | .done s' => s'
      | .exited => { s with wire := rest }
      | .poolFull => ({ s with wire := rest } : State).killFault l.lid 0x0E := by
  unfold State.arrival
  rw [hw]
  dsimp only
  rw [show ({ s with wire := rest } : State).launch m.lid = some l from hl]
  dsimp only
  rw [hlive]
  rfl

/-- A message to no launch, or to one that has ended, is discarded. -/
theorem State.arrival_discarded {s : State} {m : WireMsg} {rest : List WireMsg} (hw : s.wire = m :: rest)
    (hl : ∀ l, s.launch m.lid = some l → l.live = false) : s.arrival = { s with wire := rest } := by
  unfold State.arrival
  rw [hw]
  dsimp only
  cases he : s.launch m.lid with
  | none => rw [show ({ s with wire := rest } : State).launch m.lid = none from he]
  | some l =>
    rw [show ({ s with wire := rest } : State).launch m.lid = some l from he]
    dsimp only
    rw [hl l he]
    rfl

/-- OVERFLOW_DELIVERY with nothing held. -/
theorem State.overflow_empty {s : State} {lid : Nat} {l : Launch} (hl : s.launch lid = some l) (hp : l.pool = []) :
    s.overflow lid = s := by
  unfold State.overflow
  rw [hl]
  dsimp only
  rw [hp]
  rfl

/-- OVERFLOW_DELIVERY where the oldest held message can leave the pool. -/
theorem State.overflow_oldest {s : State} {lid : Nat} {l : Launch} {h : HeldMsg} {rest : List HeldMsg}
    (hl : s.launch lid = some l) (hp : l.pool = h :: rest)
    (hcan : s.hasExited l h.glin h.stage h.six = true ∨ ∃ t, s.strandAt l.lid h.glin h.stage h.six = some t
      ∧ (∀ p e n, t.status ≠ .saved p e n) ∧ t.inbox.length < 64) :
    s.overflow lid =
      match s.strandAt lid h.glin h.stage h.six with
      | some t => (s.updLaunch lid fun l => { l with pool := rest }).updStrand t.uid fun t =>
          { t with inbox := t.inbox ++ [h.msg] }
      | none => s.updLaunch lid fun l => { l with pool := rest } := by
  have hd : s.deliverable l [] l.pool = some (h, rest) := by
    rw [hp, State.deliverable]
    obtain hx | ⟨t, ht, hs, hlen⟩ := hcan
    · simp [hx]
    · simp [ht, hlen]
  unfold State.overflow
  rw [hl]
  dsimp only
  rw [hd]
  rfl

/-! ### Statement O50 -/

/-- LAUNCH_ACCEPT of an entry that does not wait, of a record at a canonical address that can be read: its status, or its
launch with the ready groups released, or at once complete. -/
theorem State.acceptEntry_of_loadVirt {s : State} {uq seq : Nat} {e : QEntry} (ha : s.acceptable uq seq 0 = some e)
    (hh : s.acceptHeld (s.uqCtx uq) e.addr = false) (hlow : e.addr.toNat % 2 ^ 55 = e.addr.toNat)
    (hc : canonical e.addr.toNat = true) {sR m s1 : State} (hR : s.recordRead (s.uqCtx uq) e.addr = sR)
    (hm : sR.markEntry uq seq sR.lu.nextLid = m) {bs : List Byte}
    (h : m.loadVirt (s.uqCtx uq) e.addr.toNat 256 = .ok (bs, s1)) :
    (∀ st, m.recordFault (s.uqCtx uq) e.addr.toNat bs false = some st →
      s.acceptEntry uq seq = sR.completeEntry uq seq st 0 0)
    ∧ (m.recordFault (s.uqCtx uq) e.addr.toNat bs false = none →
      s.acceptEntry uq seq = (m.makeLaunch (s.uqCtx uq) e.addr.toNat bs (some (uq, seq)) none).2) := by
  rw [State.acceptEntry_free ha hh, hR, hm, State.accept_of_loadVirt hc hlow h]
  exact ⟨fun st hf => by rw [show (none : Option (Nat × Nat × QReg)).isSome = false from rfl, hf],
    fun hf => by rw [show (none : Option (Nat × Nat × QReg)).isSome = false from rfl, hf]⟩

theorem exec_launchAccept (s : State) : exec .launchAccept s = .next (s.acceptEntry s.arg.uq s.arg.seq) := rfl

theorem exec_codeObjectRegister (s : State) :
    exec .codeObjectRegister s = .next (s.registerObject s.arg.uq s.arg.seq) := rfl

theorem exec_codeObjectUnregister (s : State) :
    exec .codeObjectUnregister s = .next (s.unregisterObject s.arg.uq s.arg.seq) := rfl

theorem exec_messageArrival (s : State) : exec .messageArrival s = .next s.arrival := rfl

theorem exec_overflowDelivery (s : State) : exec .overflowDelivery s = .next (s.overflow s.arg.lid) := rfl

/-- Settles O50, by what each event of the launch unit does in each case; reading a record leaves the unit's own records. -/
theorem launchEvents : Obligations.LaunchEvents := by
  unfold Obligations.LaunchEvents
  intro s
  dsimp only
  refine ⟨fun e ha => ⟨fun hc => ?_, fun hh => ?_, fun hh hlow bs s1 hload hc => ?_⟩, fun c a => ?_,
    fun e ha => ⟨fun hh => ?_, fun hh => ?_, fun text size n hh => ?_⟩, fun e ha => ?_, fun m rest hw => ?_,
    fun l hl hp => ?_, fun l h rest hl hp hx => ?_, fun l h rest t hl hp ht hs hlen => ?_⟩
  · rw [exec_launchAccept, State.acceptEntry_free ha (State.acceptHeld_of_not_canonical hc _ _),
      State.accept_of_not_canonical hc, State.recordRead_of_not_canonical hc]
  · rw [exec_launchAccept, State.acceptEntry_held ha hh]
  · obtain ⟨hfault, hmade⟩ := State.acceptEntry_of_loadVirt ha hh hlow hc rfl rfl hload
    refine ⟨fun st hf => congrArg _ (hfault st hf), fun hf => ⟨fun hn => ?_, fun hn => ?_⟩⟩
    · exact congrArg _ ((hmade hf).trans (if_neg hn))
    · exact congrArg _ ((hmade hf).trans (if_pos hn))
  · refine ⟨State.loadObject_of_unread, fun h hr hcan => ⟨fun hc => State.loadObject_format hr (.inl hc), fun hc hk => ?_,
      fun hc ks hk => State.loadObject_kernels hr hcan hc hk⟩⟩
    have hn := cloferOk_kernels hc
    exact State.loadObject_format hr (.inr (State.readBytes_of_not_canonical hk (by omega) s c))
  · rw [exec_codeObjectRegister, State.registerObject_held ha hh]
  · exact fun st hst => congrArg _ ((State.registerObject_free ha hh rfl).1 st hst)
  · exact fun hok => congrArg _ ((State.registerObject_free ha hh rfl).2 text size n hok)
  · obtain ⟨hnone, hsome⟩ := State.unregisterObject_cases ha
    refine ⟨fun h => congrArg _ (hnone h), fun c h => ⟨fun hl => ?_, fun hl => ?_⟩⟩
    · exact congrArg _ ((hsome c h).1 hl)
    · exact congrArg _ ((hsome c h).2 hl)
  · refine ⟨fun hn => congrArg _ (State.arrival_discarded hw fun l hl => nomatch hn.symm.trans hl), fun l hl =>
      ⟨fun hd => congrArg _ (State.arrival_discarded hw fun k hk => ?_), fun hlive => ?_⟩⟩
    · cases hl.symm.trans hk
      exact hd
    have hid := State.launch_lid hl
    rw [exec_messageArrival, State.arrival_live hw hl hlive]
    refine ⟨fun hx => ?_, fun hx => ⟨fun t ht hc => ?_, fun hc => ?_⟩⟩
    · rw [State.deliver_exited (s := { s with wire := rest }) hx]
    · rw [State.deliver_inbox (s := { s with wire := rest }) hx (hid ▸ ht) hc]
    rw [State.deliver_hold (s := { s with wire := rest }) hx (hid ▸ hc)]
    refine ⟨fun hroom => ⟨?_, l.freeEntry, ?_, l.freeEntry_spec.2, ?_⟩, fun hfull => ?_⟩
    · rw [State.holdOr, if_pos hroom]
    · exact lt_of_le_of_lt l.freeEntry_spec.1 hroom
    · rw [State.hold_lu, hid]
    · rw [State.holdOr, if_neg (not_lt.mpr hfull), hid]
      rfl
  · rw [exec_overflowDelivery, State.overflow_empty hl hp]
  · rw [exec_overflowDelivery, State.overflow_oldest hl hp (.inl hx), ← State.launch_lid hl,
      State.strandAt_of_hasExited hx]
  · rw [exec_overflowDelivery, State.overflow_oldest hl hp (.inr ⟨t, ht, hs, hlen⟩), ← State.launch_lid hl, ht]

end Sys2Proof.Machine
end
section
/-! PROOFS. What the scheduler's decisions turn on (R243 to R246): the launches, the counts and the bins, and that the copies
asked for on the way change neither a level nor where a group fits. -/

namespace Sys2Proof.Machine

/-! ### Launches and counts -/

theorem State.updLaunch_congr {s : State} {lid : Nat} {f g : Launch → Launch}
    (h : ∀ k ∈ s.lu.launches, k.lid = lid → f k = g k) : s.updLaunch lid f = s.updLaunch lid g := by
  have hl : s.lu.launches.map (fun k => if k.lid = lid then f k else k)
      = s.lu.launches.map fun k => if k.lid = lid then g k else k := by
    refine List.map_congr_left fun k hk => ?_
    by_cases hid : k.lid = lid
    · rw [if_pos hid, if_pos hid, h k hk hid]
    · rw [if_neg hid, if_neg hid]
  exact congrArg (fun ls => ({ s with lu := { s.lu with launches := ls } } : State)) hl

theorem State.aging_live {s : State} {lid : Nat} {l : Launch} (hlive : l.live = true)
    (h : ∀ k ∈ s.lu.launches, k.lid = lid → k = l) : s.aging lid = s.updLaunch lid fun _ => { l with age := l.age + 1 } :=
  State.updLaunch_congr fun k hk hid => by rw [h k hk hid]; exact if_pos hlive

theorem assocGet_cons (p : Nat × Nat) (l : List (Nat × Nat)) (k d : Nat) :
    assocGet (p :: l) k d = if p.1 = k then p.2 else assocGet l k d := by
  unfold assocGet
  by_cases hk : p.1 = k
  · rw [List.find?_cons_of_pos (by simpa using hk), if_pos hk]
  · rw [List.find?_cons_of_neg (by simpa using hk), if_neg hk]

theorem assocGet_of_not_mem {l : List (Nat × Nat)} {k : Nat} (h : ∀ p ∈ l, p.1 ≠ k) (d : Nat) : assocGet l k d = d := by
  unfold assocGet
  rw [List.find?_eq_none.mpr (by simpa using h)]

/-- Halving every count and dropping those that become zero halves the count of each tenant. -/
theorem assocGet_halved (n : Nat) {l : List (Nat × Nat)} (h : (l.map (·.1)).Nodup) :
    assocGet ((l.map fun c => (c.1, c.2 / 2)).filter fun c => c.2 != 0) n 0 = assocGet l n 0 / 2 := by
  induction l with
  | nil => simp [assocGet]
  | cons p l ih =>
    obtain ⟨hp, hl⟩ := List.nodup_cons.mp h
    rw [List.map_cons, List.filter_cons, assocGet_cons p l]
    by_cases hz : p.2 / 2 = 0
    · rw [if_neg (by simpa using hz), ih hl]
      split
      next hk =>
        have hnone : ∀ q ∈ l, q.1 ≠ n := fun q hq he => hp (List.mem_map.mpr ⟨q, hq, he.trans hk.symm⟩)
        rw [assocGet_of_not_mem hnone, hz]
      · rfl
    · rw [if_pos (by simpa using hz), assocGet_cons, ih hl]
      split <;> rfl

/-! ### Bins (R245) -/

theorem Launch.nextBin_of_empty {l : Launch} (h : ∀ b, b < 64 → l.bins.getD b [] = []) : l.nextBin = none := by
  refine List.find?_eq_none.mpr fun b hb => ?_
  obtain ⟨i, -, rfl⟩ := List.mem_map.mp hb
  have hb := h _ (Nat.mod_lt (l.curBin + i) (by decide))
  simpa using hb

/-- The first bin from the current one upwards that holds a group is the next one. -/
theorem Launch.nextBin_of_first {l : Launch} {k : Nat} (hk : k < 64)
    (hbefore : ∀ j, j < k → l.bins.getD ((l.curBin + j) % 64) [] = []) (hne : l.bins.getD ((l.curBin + k) % 64) [] ≠ []) :
    l.nextBin = some ((l.curBin + k) % 64) := by
  unfold Launch.nextBin
  rw [List.find?_map, List.find?_range_eq_some.mpr ⟨by simpa using hne, List.mem_range.mpr hk, fun j hj => by
    simpa using hbefore j hj⟩]
  rfl

/-- What the next bin says of the current bin, of the next group, and of the group that is taken. -/
theorem Launch.of_nextBin {l : Launch} {b g : Nat} {gs : List Nat} (hb : l.nextBin = some b)
    (hg : l.bins.getD b [] = g :: gs) :
    l.moveBin = { l with curBin := b } ∧ l.nextGroup = some g ∧ (l.take g).curBin = b
      ∧ (b < l.bins.length → (l.take g).bins.getD b [] = gs) := by
  refine ⟨?_, ?_, ?_, fun hlen => ?_⟩
  · rw [Launch.moveBin, hb]; rfl
  · rw [Launch.nextGroup, hb]
    dsimp only
    rw [hg]; rfl
  · rw [Launch.take, hb]; rfl
  · rw [Launch.take, hb]
    rw [List.getD_eq_getElem _ _ hlen] at hg
    rw [List.getD_eq_getElem _ _ (by simpa using hlen)]
    simp [hg]

/-! ### The copies that the scheduler asks for (R182, R303) -/

theorem State.tenantTouch_cachesOnly (s : State) (ctx : Nat) : CachesOnly s (s.tenantTouch ctx) :=
  (s.unitTouch_cachesOnly _ _).trans (State.unitTouch_cachesOnly _ _ _)

theorem State.schedTouch_cachesOnly (s : State) : CachesOnly s s.schedTouch :=
  CachesOnly.foldl (fun s l => by
    split
    · exact s.tenantTouch_cachesOnly _
    · exact .refl s) _ s

/-- A core's record but for the lines in its cache. -/
def Core.lineless (c : Core) : Core := { c with lines := [] }

section
variable {s t : State} (h : CachesOnly s t)
include h

theorem CachesOnly.launch_eq (lid : Nat) : t.launch lid = s.launch lid := by
  unfold State.launch
  rw [h.lu_eq]

theorem CachesOnly.levelE_eq (l : Launch) : t.levelE l = s.levelE l := by
  calc t.levelE l = (s.trafficOf t).levelE l := rfl
    _ = s.levelE l := by rw [h.1]

theorem CachesOnly.weight_eq (l : Launch) : t.weight l = s.weight l := by
  calc t.weight l = (s.trafficOf t).weight l := rfl
    _ = s.weight l := by rw [h.1]

theorem CachesOnly.strands_eq : t.strands = s.strands := by
  rw [State.strands, State.strands, h.sameButCaches.cur_eq, h.sameButCaches.others_eq]

theorem CachesOnly.onCore_eq (id : Nat) : t.onCore id = s.onCore id := by
  unfold State.onCore
  rw [h.strands_eq]

theorem CachesOnly.lineless_core (id : Nat) : (t.core id).lineless = (s.core id).lineless := by
  have hcore (cs : List Core) : Core.lineless ((cs.find? fun c => c.id == id).getD (Core.reset id))
      = ((cs.map Core.lineless).find? fun c => c.id == id).getD (Core.reset id) := by
    rw [List.find?_map]
    change _ = (Option.map _ (cs.find? fun c => c.id == id)).getD _
    cases cs.find? fun c => c.id == id <;> rfl
  have hmap : t.cores.map Core.lineless = s.cores.map Core.lineless := h.2
  unfold State.core
  rw [hcore, hcore, hmap]

/-- What placement reads of a core. -/
theorem CachesOnly.core_fields (id : Nat) :
    (t.core id).inService = (s.core id).inService ∧ (t.core id).pend = (s.core id).pend
      ∧ (t.core id).sen = (s.core id).sen ∧ (t.core id).cur = (s.core id).cur
      ∧ (t.core id).freeLanes = (s.core id).freeLanes := by
  have he := h.lineless_core id
  exact ⟨(congrArg Core.inService he :), (congrArg Core.pend he :), (congrArg Core.sen he :), (congrArg Core.cur he :),
    (congrArg Core.freeLanes he :)⟩

theorem CachesOnly.freeSlot_eq (id : Nat) : t.freeSlot id = s.freeSlot id := by
  obtain ⟨hin, hpend, hsen, -, -⟩ := h.core_fields id
  unfold State.freeSlot State.slotTaken
  dsimp only
  rw [hin, hpend, hsen, h.onCore_eq]

theorem CachesOnly.fits_eq (id : Nat) (n : Need) : t.fits id n = s.fits id n := by
  obtain ⟨-, -, -, hcur, hfree⟩ := h.core_fields id
  unfold State.fits State.regionsFit
  rw [h.freeSlot_eq, hfree, h.onCore_eq, hcur]

theorem CachesOnly.pickCore_eq (die : Nat) (cls : Cls) (n : Need) : t.pickCore die cls n = s.pickCore die cls n := by
  unfold State.pickCore
  simp only [h.fits_eq, h.freeSlot_eq]

theorem CachesOnly.freeStack_eq (l : Launch) : t.freeStack l = s.freeStack l := by
  unfold State.freeStack
  rw [h.strands_eq]

theorem CachesOnly.freeSlotsOf_eq (die : Nat) (cls : Cls) : t.freeSlotsOf die cls = s.freeSlotsOf die cls := by
  unfold State.freeSlotsOf State.slotTaken
  refine congrArg List.sum (List.map_congr_left fun id _ => ?_)
  obtain ⟨hin, hpend, hsen, -, -⟩ := h.core_fields id
  dsimp only
  rw [hin, hpend, hsen, h.onCore_eq]

theorem CachesOnly.updCore (id : Nat) {f : Core → Core} (hf : ∀ c, (f c).lineless = (f c.lineless).lineless) :
    CachesOnly (s.updCore id f) (t.updCore id f) := by
  refine ⟨congrArg (fun u : State => u.updCore id f) h.1, ?_⟩
  have hmap : t.cores.map Core.lineless = s.cores.map Core.lineless := h.2
  have hone (cs : List Core) : (cs.map fun c => if c.id = id then f c else c).map Core.lineless
      = (cs.map Core.lineless).map fun c => if c.id = id then (f c).lineless else c := by
    rw [List.map_map, List.map_map]
    refine List.map_congr_left fun c _ => ?_
    change Core.lineless (if c.id = id then f c else c) = if c.id = id then (f c.lineless).lineless else c.lineless
    rw [← hf c]
    split <;> rfl
  have heq := hone t.cores
  rw [hmap, ← hone s.cores] at heq
  exact heq

/-- A strand more on each of two machines alike but for caches, with the next number. -/
theorem CachesOnly.addStrand (f : Nat → Strand) :
    CachesOnly { s with others := s.others ++ [f s.nextUid], nextUid := s.nextUid + 1 }
      { t with others := t.others ++ [f t.nextUid], nextUid := t.nextUid + 1 } :=
  ⟨congrArg (fun u : State => { u with others := u.others ++ [f u.nextUid], nextUid := u.nextUid + 1 }) h.1, h.2⟩

/-- The same lane groups are taken, and the machines stay alike but for caches. -/
theorem CachesOnly.takeLanes (id slot n : Nat) :
    (t.takeLanes id slot n).2 = (s.takeLanes id slot n).2 ∧ CachesOnly (s.takeLanes id slot n).1 (t.takeLanes id slot n).1 := by
  obtain ⟨-, -, -, -, hfree⟩ := h.core_fields id
  unfold State.takeLanes
  refine ⟨congrArg (List.take n) hfree, ?_⟩
  rw [hfree]
  exact h.updCore id fun _ => rfl

/-- One strand is placed alike, or on neither machine. -/
theorem CachesOnly.placeOne (l : Launch) (die glin stage six : Nat) (g : StageRec) :
    Option.Rel CachesOnly (s.placeOne l die glin stage six g) (t.placeOne l die glin stage six g) := by
  unfold State.placeOne
  rw [h.pickCore_eq, h.freeStack_eq]
  cases s.pickCore die g.clas g.need with
  | none => exact .none
  | some p =>
    obtain ⟨hps, hc⟩ := h.takeLanes p.1 p.2 g.need.lanes
    dsimp only
    generalize (if l.lrec.stkSz = 0 then none else s.freeStack l) = stack
    split
    · exact .none
    · rw [hps]
      exact .some (hc.addStrand fun n => l.newStrand n glin stage six p.1 p.2 _ stack g)


/-- So is a group. -/
theorem CachesOnly.placeGroup (l : Launch) (die glin : Nat) :
    Option.Rel CachesOnly (s.placeGroup l die glin) (t.placeGroup l die glin) := by
  have all : ∀ (ps : List (Nat × Nat × StageRec)) (o o' : Option State), Option.Rel CachesOnly o o' →
      Option.Rel CachesOnly (ps.foldl (fun o p => o.bind fun s => s.placeOne l die glin p.1 p.2.1 p.2.2) o)
        (ps.foldl (fun o p => o.bind fun s => s.placeOne l die glin p.1 p.2.1 p.2.2) o') := by
    intro ps
    induction ps with
    | nil => exact fun _ _ h => h
    | cons p ps ih =>
      intro o o' h
      refine ih _ _ ?_
      cases h with
      | none => exact .none
      | some h => exact h.placeOne l die glin p.1 p.2.1 p.2.2
  exact all _ _ _ (.some h)

theorem CachesOnly.placeGroup_isSome (l : Launch) (die glin : Nat) :
    (t.placeGroup l die glin).isSome = (s.placeGroup l die glin).isSome := by
  have hr := h.placeGroup l die glin
  generalize s.placeGroup l die glin = o, t.placeGroup l die glin = o' at hr
  cases hr <;> rfl

theorem CachesOnly.dieFor_eq (l : Launch) (glin : Nat) : t.dieFor l glin = s.dieFor l glin := by
  unfold State.dieFor State.chooseDie
  rw [h.placeGroup_isSome, h.placeGroup_isSome]
  simp only [h.freeSlotsOf_eq]

end

/-! ### The reserve (R244) -/

/-- What a reserve does once the scheduler's reads are tracked. -/
def State.reserveNow (lid : Nat) (s : State) : State :=
  let s := s.schedTouch
  match s.launch lid with
  | none => s
  | some l =>
    match l.nextGroup with
    | some g =>
      if l.st = .running ∧ s.levelE l ≥ 6 ∧ s.weight l ≠ 0 ∧ (s.dieFor l g).isNone then
        s.updLaunch lid fun l => { l with starved := true }
      else s
    | none => s

theorem exec_dieReserve (s : State) : exec .dieReserve s = .next (s.orWait
    { row := .dieReserve, arg := { lid := s.arg.lid } } s.schedHeld (State.reserveNow s.arg.lid)) := rfl

theorem dieReserve_waits {s : State} (h : s.schedHeld = true) :
    EventWaits .dieReserve s { row := .dieReserve, arg := { lid := s.arg.lid } } :=
  eventWaits_of_orWait (f := State.reserveNow s.arg.lid) (by rw [exec_dieReserve, h])

theorem dieReserve_again {s : State} (h : s.schedHeld = false) :
    EventAgain .dieReserve s { row := .dieReserve, arg := { lid := s.arg.lid } } := by
  intro w1 w2 hw he
  rw [exec_dieReserve, h, State.orWait_again _ hw he, exec_dieReserve]
  congr 2
  exact h.symm

theorem State.reserveNow_eq {s : State} {lid : Nat} {l : Launch} {g : Nat} (hl : s.launch lid = some l)
    (hg : l.nextGroup = some g) :
    s.reserveNow lid = if l.st = .running ∧ 6 ≤ s.levelE l ∧ s.weight l ≠ 0 ∧ s.dieFor l g = none then
      s.schedTouch.updLaunch lid fun l => { l with starved := true } else s.schedTouch := by
  have hc := s.schedTouch_cachesOnly
  unfold State.reserveNow
  dsimp only
  rw [hc.launch_eq, hl]
  dsimp only
  rw [hg]
  simp only [hc.levelE_eq, hc.weight_eq, hc.dieFor_eq, Option.isNone_iff_eq_none, ge_iff_le]

/-- The reserve is taken, or not. -/
theorem dieReserve_now {s : State} (h : s.schedHeld = false)
    (he : ({ row := .dieReserve, arg := { lid := s.arg.lid } } : Event) ∉ s.lu.waiting) {l : Launch} {g : Nat}
    (hl : s.launch s.arg.lid = some l) (hg : l.nextGroup = some g) :
    (l.st = .running → 6 ≤ s.levelE l → s.weight l ≠ 0 → s.dieFor l g = none →
      exec .dieReserve s = .next (s.schedTouch.updLaunch s.arg.lid fun l => { l with starved := true }))
    ∧ ((l.st ≠ .running ∨ s.levelE l < 6 ∨ s.weight l = 0 ∨ s.dieFor l g ≠ none) →
      exec .dieReserve s = .next s.schedTouch) := by
  rw [exec_dieReserve, h, State.orWait_free _ he, State.reserveNow_eq hl hg]
  refine ⟨fun h1 h2 h3 h4 => by rw [if_pos ⟨h1, h2, h3, h4⟩], fun hn => ?_⟩
  rw [if_neg]
  rintro ⟨h1, h2, h3, h4⟩
  obtain hn | hn | hn | hn := hn
  · exact hn h1
  · exact absurd h2 (not_le.mpr hn)
  · exact h3 hn
  · exact hn h4

/-! ### The decision (R244) -/

theorem foldl_eq_self {α β : Type} {f : β → α → β} {b : β} : ∀ {l : List α}, (∀ a ∈ l, f b a = b) → l.foldl f b = b
  | [], _ => rfl
  | a :: l, h => by
    rw [List.foldl_cons, h a List.mem_cons_self]
    exact foldl_eq_self fun x hx => h x (List.mem_cons_of_mem a hx)

theorem sortBy_pair {α : Type} {lt : α → α → Bool} {a b : α} (hab : lt a b = true) (hba : lt b a = false) :
    sortBy lt [a, b] = [a, b] ∧ sortBy lt [b, a] = [a, b] := by
  simp [sortBy, insertBy, hab, hba]

/-- A higher E comes first. -/
theorem State.before_of_levelE {s : State} {a b : Launch} (h : s.levelE b < s.levelE a) :
    s.before a b = true ∧ s.before b a = false := by
  unfold State.before
  simp
  omega

/-- At one E, the launch of the tenant with the smaller share comes first. -/
theorem State.before_of_share {s : State} {a b : Launch} (h : s.levelE b = s.levelE a)
    (hd : s.dcount (s.ctxTenant a.ctx) * s.weight b < s.dcount (s.ctxTenant b.ctx) * s.weight a) :
    s.before a b = true ∧ s.before b a = false := by
  unfold State.before
  simp [h]
  omega

/-- The launches whose next group a die may take, with those groups. -/
def State.dispatchable (s : State) (die : Nat) : List (Launch × Nat) :=
  s.lu.launches.filterMap fun l => (s.candidate die l).map fun g => (l, g)

/-- A decision at which no level-7 launch pre-empts dispatches the first candidate, if there is one. -/
theorem State.decideDispatch_free {s s0 : State} (h : s.schedHeld = false) (h0 : s.schedTouch.moveBins = s0)
    (h7 : ∀ l ∈ s0.lu.launches, s0.level7 l = s0) {die : Nat} {cs : List (Launch × Nat)}
    (hcs : sortBy (fun a b : Launch × Nat => s0.before a.1 b.1) (s0.dispatchable die) = cs) :
    (cs = [] → s.decideDispatch die = s0) ∧ ∀ a rest, cs = a :: rest → s.decideDispatch die = s0.dispatch a.1 die a.2 := by
  unfold State.decideDispatch
  rw [if_neg (by rw [h]; exact Bool.false_ne_true)]
  dsimp only
  rw [h0, foldl_eq_self h7]
  unfold State.dispatchable at hcs
  rw [hcs]
  exact ⟨fun hn => by rw [hn], fun a rest ha => by rw [ha]⟩

/-- Of two candidates, the one that comes first is dispatched. -/
theorem State.decideDispatch_pair {s s0 : State} (h : s.schedHeld = false) (h0 : s.schedTouch.moveBins = s0)
    (h7 : ∀ l ∈ s0.lu.launches, s0.level7 l = s0) {die : Nat} {a b : Launch × Nat}
    (hcs : s0.dispatchable die = [a, b] ∨ s0.dispatchable die = [b, a])
    (hab : s0.before a.1 b.1 = true ∧ s0.before b.1 a.1 = false) : s.decideDispatch die = s0.dispatch a.1 die a.2 := by
  obtain ⟨h1, h2⟩ := sortBy_pair (lt := fun a b : Launch × Nat => s0.before a.1 b.1) hab.1 hab.2
  refine (State.decideDispatch_free h h0 h7 rfl).2 a [b] ?_
  obtain hcs | hcs := hcs
  · rw [hcs, h1]
  · rw [hcs, h2]

theorem State.decideDispatch_held {s : State} (h : s.schedHeld = true) (die : Nat) : s.decideDispatch die = s := if_pos h

/-! ### The strands of a group that is placed (R30, R246) -/

/-- The x registers of a strand as it starts: the exit address, the stack's end, the arguments and the STRANDID; zero
elsewhere. -/
theorem Launch.newStrand_x (l : Launch) (uid glin stage six core slot : Nat) (lanes : List Nat) (stack : Option Nat)
    (g : StageRec) (r : Fin 32) : (l.newStrand uid glin stage six core slot lanes stack g).x[r] =
      if r = 1 then 0x003FFFFFFFFFFFF0
      else if r = 2 then
        BitVec.ofNat 64 (match stack with | some k => l.lrec.stkBase + (k + 1) * l.lrec.stkSz | none => 0)
      else if r = 10 then l.lrec.args
      else if r = 11 then BitVec.ofNat 64 (glin * 256 + stage * 16 + six)
      else 0 := by
  unfold Launch.newStrand
  simp only [Fin.getElem_fin, Vector.getElem_set, Vector.getElem_replicate, Fin.ext_iff]
  grind [strandId, exitAddr]

end Sys2Proof.Machine
end
section
/-! PROOFS. Pre-emption and the save (R257 to R259, R288): its start, the order of the carrier, the parts of the save pool that
an image takes, and what a saved strand keeps. -/

namespace Sys2Proof.Machine

/-! ### The start of a pre-emption -/

theorem exec_preemptionStart {s : State} {l : Launch} (hl : s.launch s.arg.lid = some l) :
    exec .preemptionStart s = .next (s.orWait { row := .preemptionStart, arg := { lid := s.arg.lid } } (s.ctxHeld l.ctx)
      fun u => (u.preempt s.arg.lid none).getD u) := by
  change Host.Outcome.next (s.preemptStart s.arg.lid) = _
  unfold State.preemptStart
  rw [hl]

theorem preemptionStart_waits {s : State} {l : Launch} (hl : s.launch s.arg.lid = some l) (h : s.ctxHeld l.ctx = true) :
    EventWaits .preemptionStart s { row := .preemptionStart, arg := { lid := s.arg.lid } } :=
  eventWaits_of_orWait (f := fun u => (u.preempt s.arg.lid none).getD u) (by rw [exec_preemptionStart hl, h])

theorem preemptionStart_again {s : State} {l : Launch} (hl : s.launch s.arg.lid = some l) (h : s.ctxHeld l.ctx = false) :
    EventAgain .preemptionStart s { row := .preemptionStart, arg := { lid := s.arg.lid } } := by
  intro w1 w2 hw he
  rw [exec_preemptionStart hl, h, State.orWait_again _ hw he,
    exec_preemptionStart (s := { s with lu := { s.lu with waiting := w1 ++ w2 } }) hl]
  congr 2
  exact h.symm

theorem State.preempt_of_not_running {s : State} {lid : Nat} {l : Launch} (hl : s.launch lid = some l)
    (h : l.st ≠ .running) (cause : Option Nat) : s.preempt lid cause = some s := by
  unfold State.preempt
  rw [hl]
  exact if_pos (by simpa using h)

theorem State.preempt_of_full {s : State} {lid : Nat} {l : Launch} (hl : s.launch lid = some l)
    (hrun : l.st = .running) (hp : s.poolHolds l = false) (cause : Option Nat) : s.preempt lid cause = none := by
  unfold State.preempt
  rw [hl]
  simp [hrun, hp]

/-- A pre-emption starts: the launch is being pre-empted, with the next number of the carrier's order. -/
theorem State.preempt_starts {s : State} {lid : Nat} {l : Launch} (hl : s.launch lid = some l) (hrun : l.st = .running)
    (hp : s.poolHolds l = true) (cause : Option Nat) :
    s.preempt lid cause = some (({ s.unitTouch (s.ctxAddr l.ctx) 64 with nextAsk := s.nextAsk + 1 }.updLaunch lid fun l =>
      { l with st := .preempting, madeRoomFor := cause, resuming := false, asked := s.nextAsk }).bumpLstate lid) := by
  have hask : (s.unitTouch (s.ctxAddr l.ctx) 64).nextAsk = s.nextAsk :=
    (congrArg State.nextAsk (s.unitTouch_cachesOnly (s.ctxAddr l.ctx) 64).1 :)
  unfold State.preempt
  rw [hl]
  simp only [hrun, hp, bne_self_eq_false, Bool.false_eq_true, if_false, Bool.not_true]
  rw [← hask]
  rfl

/-- PREEMPTION_START of a launch that nothing holds back. -/
theorem preemptionStart_now {s : State} {l : Launch} (hl : s.launch s.arg.lid = some l) (h : s.ctxHeld l.ctx = false)
    (he : ({ row := .preemptionStart, arg := { lid := s.arg.lid } } : Event) ∉ s.lu.waiting) :
    exec .preemptionStart s = .next ((s.preempt s.arg.lid none).getD s) := by
  rw [exec_preemptionStart hl, h, State.orWait_free _ he]

/-! ### The order of the carrier (R288) -/

theorem State.carrierFor_iff (s : State) (die before : Nat) : s.carrierFor die before = true ↔ s.carrierRoom die = true
    ∧ (∀ t ∈ s.strands, t.queuedOn die = true → before ≤ t.asked)
    ∧ ∀ l ∈ s.lu.launches, l.st = .preempting → s.canSave l.lid = true →
        (∃ t ∈ s.strands, t.lid = l.lid ∧ t.system = false ∧ t.status ≠ .gone ∧ t.inPool = false ∧ coreDie t.core = die) →
        before ≤ l.asked := by
  have hq (l : Launch) : s.saveQueued l die = true ↔ l.st = .preempting ∧ s.canSave l.lid = true
      ∧ ∃ t ∈ s.strands, t.lid = l.lid ∧ t.system = false ∧ t.status ≠ .gone ∧ t.inPool = false ∧ coreDie t.core = die := by
    simp [State.saveQueued, Strand.residentOf, and_assoc]
  unfold State.carrierFor
  rw [Bool.and_eq_true, Bool.and_eq_true, Bool.not_eq_true', Bool.not_eq_true', List.any_eq_false, List.any_eq_false, and_assoc]
  refine and_congr_right fun _ => and_congr ?_ ?_
  · refine forall₂_congr fun t _ => ?_
    rw [Bool.and_eq_true, decide_eq_true_eq, not_and, not_lt]
  · refine forall₂_congr fun l _ => ?_
    rw [Bool.and_eq_true, decide_eq_true_eq, hq, ← not_lt, not_and']
    simp only [and_imp]

theorem State.canSave_iff (s : State) (lid : Nat) : s.canSave lid = true ↔
    (∀ t ∈ s.strands, t.lid = lid → t.system = false → t.status ≠ .gone → t.inPool = false →
      t.stands = true ∧ (t.status = .parked → s.batchWaits t.core t.slot = false))
    ∧ (∀ c ∈ s.cores, ∀ k ∈ c.engine, k.lid ≠ lid)
    ∧ ∀ m ∈ s.wire, m.lid = lid → m.msg.hdr.extractLsb' 60 4 ≠ 2 := by
  have htype (w : Word) : bf w 60 4 = 2 ↔ w.extractLsb' 60 4 = 2 := by
    rw [← BitVec.toNat_inj, BitVec.extractLsb'_toNat, Nat.shiftRight_eq_div_pow]
    rfl
  unfold State.canSave
  rw [Bool.and_eq_true, Bool.and_eq_true, and_assoc]
  refine and_congr ?_ (and_congr ?_ ?_)
  · rw [List.all_eq_true]
    refine forall₂_congr fun t _ => ?_
    simp [Strand.residentOf]
    grind
  · simp
  · rw [Bool.not_eq_true', List.any_eq_false]
    refine forall₂_congr fun m _ => ?_
    rw [Bool.and_eq_true, beq_iff_eq, beq_iff_eq, htype, not_and]

/-! ### The save (R258) -/

theorem State.save_waits {s : State} {lid : Nat} {l : Launch} (hl : s.launch lid = some l)
    (h : l.st ≠ .preempting ∨ s.canSave lid = false ∨ s.ctxHeld l.ctx = true) : s.save lid = s := by
  unfold State.save
  rw [hl]
  exact if_pos (by simpa using h)

section
variable {s : State} {lid : Nat} {l : Launch} (hl : s.launch lid = some l) (hst : l.st = .preempting)
  (hc : s.canSave lid = true) (hh : s.ctxHeld l.ctx = false)
include hl hst hc hh

/-- While strands of the launch hold places, the first that the carrier can take is saved, if there is one. -/
theorem State.save_resident {ts : List Strand} (hts : s.strands.filter (·.residentOf lid) = ts) (hne : ts ≠ []) :
    (∀ t, ts.find? (fun t => s.carrierFor (coreDie t.core) l.asked) = some t → s.save lid = s.saveStrand t.uid)
      ∧ (ts.find? (fun t => s.carrierFor (coreDie t.core) l.asked) = none → s.save lid = s) := by
  unfold State.save
  rw [hl]
  dsimp only
  rw [if_neg (by simp [hst, hc, hh]), hts]
  cases ts with
  | nil => exact absurd rfl hne
  | cons u us => exact ⟨fun t ht => by dsimp only; rw [ht], fun hn => by dsimp only; rw [hn]⟩

/-- With no strand left in a place, the scoreboard is written and the launch is pre-empted. -/
theorem State.save_done (hts : s.strands.filter (·.residentOf lid) = []) :
    (s.writeScoreboard l = none → s.save lid = s.killFault lid 0x0A)
      ∧ ∀ s2, s.writeScoreboard l = some s2 → s.save lid = (s2.updLaunch lid fun l =>
          { l with st := .preempted, npre := l.npre + 1 }).bumpLstate lid := by
  unfold State.save
  rw [hl]
  dsimp only
  rw [if_neg (by simp [hst, hc, hh]), hts]
  exact ⟨fun hn => by dsimp only; rw [hn], fun s2 h2 => by dsimp only; rw [h2]⟩

end

/-! ### The parts of the pool (R259; log 58) -/

/-- A stretch of bytes lies below a limit and overlaps none of some others. -/
def PartFree (n : Nat) (held : List (Nat × Nat)) (q : Nat × Nat) : Prop :=
  q.1 + q.2 ≤ n ∧ ∀ h ∈ held, q.1 + q.2 ≤ h.1 ∨ h.1 + h.2 ≤ q.1

theorem takeParts_free {m : Nat} {held : List (Nat × Nat)} : ∀ (ps : List (Nat × Nat)) (n : Nat),
    (∀ p ∈ ps, PartFree m held p) → ∀ q ∈ takeParts n ps, PartFree m held q
  | [], _, _, q, hq => nomatch hq
  | p :: ps, n, hps, q, hq => by
    obtain ⟨hp, hps⟩ := List.forall_mem_cons.mp hps
    unfold takeParts at hq
    split at hq
    · exact nomatch hq
    · split at hq
      next hle =>
        obtain rfl := List.mem_singleton.mp hq
        obtain ⟨hn, hh⟩ := hp
        exact ⟨by dsimp only; omega, fun h hm => by have := hh h hm; dsimp only; omega⟩
      · obtain rfl | hq := List.mem_cons.mp hq
        · exact hp
        · exact takeParts_free ps _ hps q hq

/-- The stretches between those in use, which ascend, start at or after the lower limit and overlap none of them. -/
theorem freeParts_free {n : Nat} : ∀ (us : List (Nat × Nat)) (lo : Nat), us.Pairwise (fun x y => x.1 ≤ y.1) →
    ∀ q ∈ freeParts n lo us, lo ≤ q.1 ∧ PartFree n us q
  | [], lo, _, q, hq => by
    unfold freeParts at hq
    split at hq
    · obtain rfl := List.mem_singleton.mp hq
      exact ⟨Nat.le_refl _, by dsimp only; omega, fun _ h => nomatch h⟩
    · exact nomatch hq
  | u :: us, lo, hus, q, hq => by
    obtain ⟨hu, hus⟩ := List.pairwise_cons.mp hus
    unfold freeParts at hq
    obtain hq | hq := List.mem_append.mp hq
    · split at hq
      · obtain rfl := List.mem_singleton.mp hq
        refine ⟨Nat.le_refl _, by dsimp only; omega, fun h hm => .inl ?_⟩
        have huh : u.1 ≤ h.1 := by
          obtain rfl | hm := List.mem_cons.mp hm
          exacts [Nat.le_refl _, hu h hm]
        dsimp only
        omega
      · exact nomatch hq
    · obtain ⟨hlo, hn, hh⟩ := freeParts_free us _ hus q hq
      refine ⟨by omega, hn, List.forall_mem_cons.mpr ⟨.inr (by omega), hh⟩⟩

theorem pairwise_sortBy {α : Type} (k : α → Nat) (l : List α) :
    (sortBy (fun a b => decide (k a < k b)) l).Pairwise fun x y => k x ≤ k y := by
  have go : ∀ (l acc : List α), acc.Pairwise (fun x y => k x ≤ k y) →
      (l.foldl (fun acc a => insertBy (fun a b => decide (k a < k b)) a acc) acc).Pairwise fun x y => k x ≤ k y := by
    intro l
    induction l with
    | nil => exact fun _ h => h
    | cons a l ih => exact fun acc h => ih _ (pairwise_insertBy k a h)
  exact go l [] List.Pairwise.nil

/-- An image takes bytes of the pool in which no other image of the context stands. -/
theorem State.poolParts_free {s : State} {ctx n : Nat} {q : Nat × Nat} (hq : q ∈ s.poolParts ctx n) :
    q.1 + q.2 ≤ s.ctxSaveSz ctx
      ∧ ∀ u ∈ s.strands, u.ctx = ctx → u.inPool = true → ∀ h ∈ u.savedAt, q.1 + q.2 ≤ h.1 ∨ h.1 + h.2 ≤ q.1 := by
  obtain ⟨hn, hh⟩ := takeParts_free _ _
    (fun p hp => (freeParts_free _ _ (pairwise_sortBy (fun p : Nat × Nat => p.1) _) p hp).2) q hq
  refine ⟨hn, fun u hu hctx hpool h hm => hh h ((mem_sortBy _ _ _).mpr ?_)⟩
  exact List.mem_flatMap.mpr ⟨u, List.mem_filter.mpr ⟨hu, by simp [hctx, hpool]⟩, hm⟩

end Sys2Proof.Machine
end
section
/-! PROOFS. A strand that is saved (R43, R258): stores of the strand and of the launch unit take reservations and buffers of
strands and nothing else, a lane wait that ends elsewhere is no concern of it, and so it keeps its context. -/

namespace Sys2Proof.Machine

/-! ### What stores take of a strand -/

/-- The strand with the reservations, the buffers and the place in the save pool of another record of it. -/
def Strand.losing (t t' : Strand) : Strand :=
  { t with res := t'.res, lrRes := t'.lrRes, wcS := t'.wcS, wcV := t'.wcV, savedAt := t'.savedAt }

/-- A strand has lost no more than gather reservations, its scalar reservation and its buffers; its place in the pool may be
another. -/
def Strand.Loses (t t' : Strand) : Prop := t' = t.losing t' ∧ ∀ r, t'.lrRes = some r → t.lrRes = some r

theorem Strand.Loses.refl (t : Strand) : t.Loses t := ⟨rfl, fun _ h => h⟩

theorem Strand.Loses.trans {t u v : Strand} (h : t.Loses u) (h' : u.Loses v) : t.Loses v := by
  obtain ⟨hu, hr⟩ := h
  obtain ⟨hv, hr'⟩ := h'
  refine ⟨?_, fun r e => hr r (hr' r e)⟩
  calc v = u.losing v := hv
    _ = (t.losing u).losing v := by rw [← hu]
    _ = t.losing v := rfl

theorem Strand.Loses.uid_eq {t u : Strand} (h : t.Loses u) : u.uid = t.uid := (congrArg Strand.uid h.1 :)

theorem Strand.lose_loses (t : Strand) (sp : Space) (line : Nat) (who : Option Nat) : t.Loses (t.lose sp line who) := by
  refine ⟨rfl, fun r h => ?_⟩
  unfold Strand.lose at h
  dsimp only at h
  split at h
  · exact nomatch h
  · exact h

/-- Delivering replies turns on nothing that stores take. -/
theorem Strand.replyAll_losing (t a : Strand) : (t.losing a).replyAll = t.replyAll.losing a := by
  have one : ∀ (t : Strand) (r : Reply), (t.losing a).deliverReply r = (t.deliverReply r).losing a := by
    intro t r
    unfold Strand.deliverReply Strand.putF Strand.setX
    split
    · rfl
    · split <;> rfl
  have all : ∀ (l : List Reply) (t : Strand), l.foldl (fun t r => t.deliverReply r) (t.losing a)
      = (l.foldl (fun t r => t.deliverReply r) t).losing a := by
    intro l
    induction l with
    | nil => exact fun _ => rfl
    | cons r l ih => exact fun t => by rw [List.foldl_cons, one, ih, List.foldl_cons]
  exact congrArg (fun u : Strand => { u with replyQ := [] }) (all t.replyQ t)

/-! ### What stores take of a machine's strands -/

/-- Every strand of a machine stands in another one, where it has lost no more than stores take. -/
def StrandsLose (s s' : State) : Prop := ∀ u t, s.strand u = some t → ∃ t', s'.strand u = some t' ∧ t.Loses t'

theorem StrandsLose.trans {s t u : State} (h : StrandsLose s t) (h' : StrandsLose t u) : StrandsLose s u := by
  intro n a ha
  obtain ⟨b, hb, hab⟩ := h n a ha
  obtain ⟨c, hc, hbc⟩ := h' n b hb
  exact ⟨c, hc, hab.trans hbc⟩

theorem State.strand_of_same {s s' : State} (hc : s'.cur = s.cur) (ho : s'.others = s.others) (u : Nat) :
    s'.strand u = s.strand u := by
  unfold State.strand
  rw [hc, ho]

theorem StrandsLose.of_same {s s' : State} (hc : s'.cur = s.cur) (ho : s'.others = s.others) : StrandsLose s s' :=
  fun u t ht => ⟨t, (State.strand_of_same hc ho u).trans ht, .refl t⟩

theorem StrandsLose.refl (s : State) : StrandsLose s s := .of_same rfl rfl

theorem CachesOnly.strandsLose {s t : State} (h : CachesOnly s t) : StrandsLose s t :=
  .of_same h.sameButCaches.cur_eq h.sameButCaches.others_eq

theorem StrandsLose.foldl {α : Type} {f : State → α → State} (hf : ∀ (s : State) (a : α), StrandsLose s (f s a)) :
    ∀ (l : List α) (s : State), StrandsLose s (l.foldl f s)
  | [], s => .refl s
  | a :: l, s => (hf s a).trans (foldl hf l (f s a))

/-- The strand with a number, after a function that keeps numbers. -/
theorem State.strand_mapStrands {f : Strand → Strand} (hf : ∀ t, (f t).uid = t.uid) (s : State) (u : Nat) :
    (s.mapStrands f).strand u = (s.strand u).map f := by
  unfold State.strand State.mapStrands
  dsimp only
  rw [hf, List.find?_map]
  split
  · rfl
  · simp only [Function.comp_def, hf]

theorem State.mapStrands_loses {f : Strand → Strand} (hf : ∀ t : Strand, t.Loses (f t)) (s : State) :
    StrandsLose s (s.mapStrands f) := by
  intro u t ht
  rw [State.strand_mapStrands (fun t => (hf t).uid_eq), ht]
  exact ⟨f t, rfl, hf t⟩

theorem State.updStrand_loses {f : Strand → Strand} (hf : ∀ t : Strand, t.Loses (f t)) (s : State) (uid : Nat) :
    StrandsLose s (s.updStrand uid f) := by
  refine s.mapStrands_loses fun t => ?_
  split
  · exact hf t
  · exact .refl t

theorem State.breakRes_loses (s : State) (sp : Space) (a n : Nat) (who : Option Nat) : StrandsLose s (s.breakRes sp a n who) :=
  StrandsLose.foldl (fun s l => s.mapStrands_loses fun t => t.lose_loses sp l who) _ s

theorem State.rekeyLine_loses (s : State) (line key : Nat) : StrandsLose s (s.rekeyLine line key) := by
  unfold State.rekeyLine
  split
  · exact .refl s
  · exact .of_same rfl rfl

theorem State.rekey_loses (s : State) (a n key : Nat) : StrandsLose s (s.rekey a n key) := by
  unfold State.rekey
  split
  · exact .refl s
  · exact StrandsLose.foldl (fun s i => s.rekeyLine_loses _ key) _ s

theorem State.writePhys_loses (s : State) (p : Phys) (bs : List Byte) (who : Option Nat) :
    StrandsLose s (s.writePhys p bs who) := by
  unfold State.writePhys
  split
  · refine (s.rekey_loses p.addr bs.length p.key).trans (StrandsLose.trans ?_ (State.breakRes_loses _ _ _ _ _))
    exact .of_same rfl rfl
  · exact StrandsLose.trans (.of_same (by cases p.space <;> rfl) (by cases p.space <;> rfl)) (State.breakRes_loses _ _ _ _ who)

theorem State.storeParts_loses (lid : Nat) : ∀ (ps : List (Phys × Nat)) (s : State) (bs : List Byte),
    StrandsLose s (s.storeParts lid ps bs)
  | [], s, _ => .refl s
  | p :: ps, s, bs => by
    rw [State.storeParts]
    refine StrandsLose.trans ?_ (storeParts_loses lid ps _ _)
    split
    · exact .of_same rfl rfl
    · split
      · exact .refl s
      · exact (s.l2Touch_cachesOnly p true).strandsLose.trans (State.writePhys_loses _ _ _ _)

theorem State.writeImage_loses (s : State) (t : Strand) : StrandsLose s (s.writeImage t) := by
  unfold State.writeImage
  dsimp only
  refine StrandsLose.trans ?_ (State.updStrand_loses ?_ _ _)
  · exact (s.unitTouch_cachesOnly _ _).strandsLose.trans (State.storeParts_loses _ _ _ _)
  · exact fun _ => ⟨rfl, fun _ h => h⟩

theorem State.flushBuf_loses (s : State) (b : WcBuf) (t : Strand) (vec : Bool) : StrandsLose s (s.flushBuf b t vec) := by
  unfold State.flushBuf
  split
  · exact .of_same rfl rfl
  · exact StrandsLose.foldl (fun s c => s.writePhys_loses _ _ _) _ s

theorem State.flushWc_loses (s : State) (uid : Nat) (scalar vector : Bool) : StrandsLose s (s.flushWc uid scalar vector) := by
  have bufs (vec : Bool) (t : Strand) (bs : List WcBuf) (on : Bool) (s : State) :
      StrandsLose s (if on then bs.foldl (fun s b => s.flushBuf b t vec) s else s) := by
    split
    · exact StrandsLose.foldl (fun s b => s.flushBuf_loses b t vec) _ s
    · exact .refl s
  unfold State.flushWc
  split
  · exact .refl s
  next t _ =>
    split
    · refine (bufs false t t.wcS scalar s).trans ((bufs true t t.wcV vector _).trans ?_)
      refine State.updStrand_loses (fun u => ?_) _ _
      exact ⟨rfl, fun _ h => h⟩
    · exact .refl s

/-! ### Lane waits that end (R35) -/

theorem State.strand_uid {s : State} {u : Nat} {t : Strand} (h : s.strand u = some t) : t.uid = u := by
  unfold State.strand at h
  split at h
  next hu => exact Option.some.inj h ▸ hu
  · simpa using List.find?_some h

/-- Another strand than the one that is changed. -/
theorem State.strand_updStrand_of_ne {s : State} {uid u : Nat} {f : Strand → Strand} (hne : u ≠ uid)
    (hf : ∀ t, t.uid = uid → (f t).uid = uid) : (s.updStrand uid f).strand u = s.strand u := by
  have huid (t : Strand) : (if t.uid = uid then f t else t).uid = t.uid := by
    split
    next h => exact (hf t h).trans h.symm
    · rfl
  unfold State.updStrand
  rw [State.strand_mapStrands huid]
  cases h : s.strand u with
  | none => rfl
  | some t => rw [Option.map_some, if_neg (by rw [State.strand_uid h]; exact hne)]

theorem State.strand_updStrand_same {s : State} {u : Nat} {t : Strand} (ht : s.strand u = some t) {f : Strand → Strand}
    (huid : ∀ t, (f t).uid = t.uid) : (s.updStrand u f).strand u = some (f t) := by
  unfold State.updStrand
  rw [State.strand_mapStrands fun t => by split; exacts [huid t, rfl], ht, Option.map_some, if_pos (State.strand_uid ht)]

theorem State.regrant_keeps (s : State) (t : Strand) (new : Nat) :
    (s.regrant t new).cur = s.cur ∧ (s.regrant t new).others = s.others := by
  unfold State.regrant
  split <;> exact ⟨rfl, rfl⟩

/-- A `vsetl` changes no strand's record but that of its own, which keeps its number. -/
theorem State.vset_keeps {s s' : State} {t t' : Strand} {r : VsetReq} (h : s.vset t r = .ok (s', t')) :
    s'.cur = s.cur ∧ s'.others = s.others ∧ t'.uid = t.uid := by
  have hset (u : Strand) : (u.setVtype r).uid = u.uid := by
    unfold Strand.setVtype Strand.setX
    dsimp only
    split <;> split <;> rfl
  unfold State.vset at h
  split at h
  next s1 t1 hr =>
    cases h
    rw [hset]
    unfold State.renegotiate at hr
    dsimp only at hr
    split at hr
    · cases hr; exact ⟨rfl, rfl, rfl⟩
    · split at hr
      · cases hr; exact ⟨rfl, rfl, rfl⟩
      · split at hr
        next new _ =>
          cases hr
          obtain ⟨hcur, hoth⟩ := s.regrant_keeps t new
          refine ⟨hcur, hoth, ?_⟩
          unfold State.settleLanes Strand.regranted
          dsimp only
          split <;> split <;> rfl
        · exact nomatch hr
  · exact nomatch h

/-- A strand whose number no strand in lane wait on the core has keeps its record when lane groups are granted. -/
theorem State.laneServe_strand {s : State} {uid u : Nat} (h : uid ≠ u) (r : VsetReq) :
    (s.laneServe uid r).strand u = s.strand u := by
  unfold State.laneServe
  split
  · rfl
  next t ht =>
    split
    next s' t' hv =>
      obtain ⟨hcur, hoth, huid⟩ := State.vset_keeps hv
      have htu : t'.uid = uid := huid.trans (State.strand_uid ht)
      refine Eq.trans (State.strand_updStrand_of_ne h.symm ?_) (State.strand_of_same hcur hoth u)
      exact fun _ _ => htu
    · rfl

theorem State.laneGrant_strand {s : State} {id u : Nat} (h : ∀ w ∈ s.laneWaiters id, w.2.2.1 ≠ u) :
    (s.laneGrant id).strand u = s.strand u := by
  have go : ∀ (ws : List (Nat × Nat × Nat × VsetReq)) (s : State), (∀ w ∈ ws, w.2.2.1 ≠ u) →
      (ws.foldl (fun s w => s.laneServe w.2.2.1 w.2.2.2) s).strand u = s.strand u := by
    intro ws
    induction ws with
    | nil => exact fun _ _ => rfl
    | cons w ws ih =>
      intro s hws
      obtain ⟨hw, hws⟩ := List.forall_mem_cons.mp hws
      exact (ih _ hws).trans (State.laneServe_strand hw _)
  exact go _ s h

/-! ### What a saved strand keeps -/

/-- After a change to a strand that leaves it in no lane wait, grants of lane groups leave it alone. -/
theorem State.laneGrant_updStrand {s : State} {u : Nat} {t : Strand} (ht : s.strand u = some t) {f : Strand → Strand}
    (huid : ∀ t, (f t).uid = t.uid) (hst : ∀ t o w r, (f t).status ≠ .waiting (.lane o w r)) (id : Nat) :
    ((s.updStrand u f).laneGrant id).strand u = some (f t) := by
  refine (State.laneGrant_strand fun w hw he => ?_).trans (State.strand_updStrand_same ht huid)
  obtain ⟨k, hk, hw⟩ := List.mem_filterMap.mp ((mem_sortBy _ _ _).mp hw)
  have hmem : k ∈ (s.strands.map fun k => if k.uid = u then f k else k) := hk
  obtain ⟨k0, -, hk0⟩ := List.mem_map.mp hmem
  split at hw
  next o want r hwait =>
    split at hw
    · cases hw
      dsimp only at he
      by_cases hu : k0.uid = u
      · rw [if_pos hu] at hk0
        exact hst _ _ _ _ (hk0 ▸ hwait)
      · rw [if_neg hu] at hk0
        exact hu (hk0 ▸ he)
    · exact nomatch hw
  · exact nomatch hw

/-- The bookmark of a saved strand: its own where it was parked or replays one, else one that says where it stands; CAUSE is
6 (R258, R274). -/
def Strand.savedMark (t : Strand) (parked : Bool) (token : Word) : Bookmark :=
  if parked then { (t.replaying.getD t.bookmark) with cause := 6, cls := 0 }
  else t.bookmarkOf token 0 { cause := 6, cls := 0, pages := [], entry := none } []

theorem Strand.savedMark_cause (t : Strand) (parked : Bool) (token : Word) : (t.savedMark parked token).cause = 6 := by
  unfold Strand.savedMark
  split <;> rfl

/-- A strand in the pool: what a move keeps, with its bookmark. -/
def Strand.inSave (parked exits : Bool) (need : List Cls) (token : Word) (t : Strand) : Strand :=
  { t.carried with bookmark := t.carried.savedMark parked token, status := .saved parked exits need }

theorem Strand.inSave_uid (parked exits : Bool) (need : List Cls) (token : Word) (t : Strand) :
    (Strand.inSave parked exits need token t).uid = t.uid := by
  obtain ⟨x, f, h⟩ := t.replyAll_eq
  unfold Strand.inSave Strand.carried Strand.drained
  rw [h]

theorem Strand.inSave_status (parked exits : Bool) (need : List Cls) (token : Word) (t : Strand) :
    (Strand.inSave parked exits need token t).status = .saved parked exits need := rfl

theorem State.strand_vacate (s : State) (id slot u : Nat) : (s.vacate id slot).strand u = s.strand u := rfl

theorem State.saveStrand_eq {s : State} {u : Nat} {t : Strand} (ht : s.strand u = some t) : s.saveStrand u =
    ((((s.flushWc u true true).writeImage t).vacate t.core t.slot).updStrand u
      (Strand.inSave (t.status == .parked || t.replaying.isSome) (t.status == .exiting) (s.needOf t)
        (tokenWord (s.gen t.core t.slot) t.core t.slot))).laneGrant t.core := by
  unfold State.saveStrand
  rw [ht]
  rfl

/-- What the save makes of a strand, whose buffers and reservations it has lost. -/
theorem State.saveStrand_strand {s : State} {u : Nat} {t : Strand} (ht : s.strand u = some t) :
    ∃ t1 parked exits need token, t.Loses t1
      ∧ (s.saveStrand u).strand u = some (Strand.inSave parked exits need token t1) := by
  have hlose : StrandsLose s ((s.flushWc u true true).writeImage t) :=
    (s.flushWc_loses u true true).trans (State.writeImage_loses _ t)
  obtain ⟨t1, ht1, hl⟩ := hlose u t ht
  have ht2 : (((s.flushWc u true true).writeImage t).vacate t.core t.slot).strand u = some t1 :=
    (State.strand_vacate _ _ _ u).trans ht1
  refine ⟨t1, t.status == .parked || t.replaying.isSome, t.status == .exiting, s.needOf t,
    tokenWord (s.gen t.core t.slot) t.core t.slot, hl, ?_⟩
  rw [State.saveStrand_eq ht]
  exact State.laneGrant_updStrand ht2 (Strand.inSave_uid _ _ _ _) (fun t _ _ _ => by
    rw [Strand.inSave_status]; exact nofun) t.core

/-- The context of a saved strand is that of the strand, as after a move (R43). -/
theorem Strand.inSave_keeps {t t1 : Strand} (h : t.Loses t1) (parked exits : Bool) (need : List Cls) (token : Word) :
    let t' := t1.inSave parked exits need token
    t'.x = t.replyAll.x ∧ t'.f = t.replyAll.f ∧ t'.pc = t.pc ∧ t'.k = t.k ∧ t'.vl = t.vl
      ∧ t'.res = [] ∧ (∀ r, t'.lrRes = some r → t.lrRes = some r) ∧ t'.scratch = t.scratch ∧ t'.acc = t.acc ∧ t'.act = t.act
      ∧ ∀ r : Fin 32, t'.v[r] = if t.vdirty.getLsbD r.val then t.v[r] else 0 := by
  obtain ⟨he, hr⟩ := h
  obtain ⟨x, f, hx⟩ := t.replyAll_eq
  have hall : t1.replyAll = (t.replyAll).losing t1 := (congrArg Strand.replyAll he).trans (t.replyAll_losing t1)
  have hd : t1.drained = { (t.replyAll).losing t1 with vq := 0 } := congrArg (fun u : Strand => { u with vq := 0 }) hall
  have hv : t1.v = t.v := (congrArg Strand.v he :)
  have hvd : t1.vdirty = t.vdirty := (congrArg Strand.vdirty he :)
  dsimp only
  unfold Strand.inSave Strand.carried
  rw [hd, hx]
  refine ⟨rfl, rfl, rfl, rfl, rfl, rfl, hr, rfl, rfl, rfl, fun r => ?_⟩
  dsimp only
  rw [Fin.getElem_fin, Vector.getElem_ofFn, hv, hvd]

end Sys2Proof.Machine
end
section
/-! PROOFS. Resumption, the placement of saved groups, and moves on time (R35, R46, R255, R260, R288), case by case. -/

namespace Sys2Proof.Machine

/-! ### Resumption (R260) -/

theorem State.resume_cases {s : State} {lid : Nat} {l : Launch} (hl : s.launch lid = some l) :
    (l.st = .preempted → (l.resuming = true ∨ l.madeRoomFor = some 0
        ∧ (s.savedGroups lid = [] ∨ (s.placeSaved lid).isSome = true)) →
      s.resume lid = (s.updLaunch lid fun l => { l with st := .running, resuming := false, madeRoomFor := none }).bumpLstate lid)
    ∧ ((l.st ≠ .preempted ∨ l.resuming = false ∧ (l.madeRoomFor ≠ some 0
        ∨ s.savedGroups lid ≠ [] ∧ s.placeSaved lid = none)) → s.resume lid = s) := by
  unfold State.resume
  rw [hl]
  dsimp only
  refine ⟨fun hst hr => if_pos ⟨hst, by simpa using hr⟩, fun hn => if_neg ?_⟩
  rintro ⟨hst, hr⟩
  obtain hr | hr := hr
  · obtain hn | ⟨hn, -⟩ := hn
    · exact hn hst
    · exact absurd hr (by simp [hn])
  · rw [Bool.and_eq_true, Bool.or_eq_true, beq_iff_eq, beq_iff_eq] at hr
    obtain ⟨hroom, hplace⟩ := hr
    obtain hn | ⟨-, hn | ⟨hg, hp⟩⟩ := hn
    · exact hn hst
    · exact hn hroom
    · exact hplace.elim hg fun h => absurd h (by rw [hp]; exact Bool.false_ne_true)

/-! ### Saved groups (R260, R274; log 49) -/

theorem State.replayWaiting_none {s : State} {lid : Nat} (h : ∀ t ∈ s.strands, t.lid = lid → t.status ≠ .waiting .replay) :
    s.replayWaiting lid = s := by
  unfold State.replayWaiting
  rw [List.filter_eq_nil_iff.mpr fun t ht => by simpa using h t ht]
  rfl

theorem State.replayWaiting_one {s s1 : State} {lid : Nat} {t : Strand}
    (h : (s.strands.filter fun t => t.lid == lid && t.status == .waiting .replay) = [t])
    (hr : s.replay t.uid (t.replaying.getD t.bookmark) = some s1) : s.replayWaiting lid = s1 := by
  unfold State.replayWaiting
  rw [h, List.foldl_cons, hr]
  rfl

/-- What SAVED_GROUP_PLACEMENT does once replays that had to wait are taken up again. -/
theorem State.placeNextSaved_cases {s s1 : State} {lid : Nat} {l : Launch} (hl : s.launch lid = some l)
    (hst : l.st = .running) (hr : s.replayWaiting lid = s1) :
    (s1.placeSaved lid = none → s.placeNextSaved lid = s1)
      ∧ ∀ s2, s1.placeSaved lid = some s2 → s2.poolLength lid = 0 → s.placeNextSaved lid = s2 := by
  unfold State.placeNextSaved
  rw [hl]
  dsimp only
  rw [if_pos hst, hr]
  exact ⟨fun hn => by rw [hn], fun s2 h2 h0 => by rw [h2]; dsimp only; rw [h0]; rfl⟩

theorem State.placeNextSaved_of_not_running {s : State} {lid : Nat} {l : Launch} (hl : s.launch lid = some l)
    (hst : l.st ≠ .running) : s.placeNextSaved lid = s := by
  unfold State.placeNextSaved
  rw [hl]
  exact if_neg hst

/-! ### Migration waits that run out (R46) -/

theorem firstSome_append {α β : Type} {f : α → Option β} {v : α} {b : β} (post : List α) (hv : f v = some b) :
    ∀ {pre : List α}, (∀ p ∈ pre, f p = none) → firstSome f (pre ++ v :: post) = some b
  | [], _ => by rw [List.nil_append, firstSome, hv]
  | p :: pre, h => by
    obtain ⟨hp, hpre⟩ := List.forall_mem_cons.mp h
    rw [List.cons_append, firstSome, hp]
    exact firstSome_append post hv hpre

theorem firstSome_eq_none {α β : Type} {f : α → Option β} : ∀ {l : List α}, (∀ a ∈ l, f a = none) → firstSome f l = none
  | [], _ => rfl
  | a :: l, h => by
    obtain ⟨ha, hl⟩ := List.forall_mem_cons.mp h
    rw [firstSome, ha]
    exact firstSome_eq_none hl

/-- The first launch whose save the pool can hold is pre-empted for a strand in migration wait. -/
def State.preemptFor (uid : Nat) (s : State) : State :=
  match s.strand uid with
  | none => s
  | some t =>
    if t.waitClasses = [] then s
    else (firstSome (fun l => s.schedTouch.preempt l.lid (some 0)) (s.schedTouch.migVictims t)).getD s.schedTouch

theorem exec_migTimeout {i : Instr} (hi : i ∈ [Instr.migrationWaitTimeout, .savePoolRetry]) {s : State} {t : Strand}
    (ht : s.strand s.arg.uid = some t) : exec i s = .next (s.orWait { row := i, arg := { uid := s.arg.uid } }
      (s.schedHeld && t.waitClasses != []) (State.preemptFor s.arg.uid)) := by
  have hrow : exec i s = .next (s.migTimeout i s.arg.uid) := by
    simp only [List.mem_cons, List.not_mem_nil, or_false] at hi
    obtain rfl | rfl := hi <;> rfl
  rw [hrow]
  unfold State.migTimeout
  rw [ht]
  rfl

/-- MIGRATION_WAIT_TIMEOUT and SAVE_POOL_RETRY: no effect, a wait, or the pre-emption of the first launch that can be saved. -/
theorem migTimeout_cases {i : Instr} (hi : i ∈ [Instr.migrationWaitTimeout, .savePoolRetry]) {s : State} {t : Strand}
    (ht : s.strand s.arg.uid = some t) {e : Event} (he : { row := i, arg := { uid := s.arg.uid } } = e) :
    (t.waitClasses = [] → e ∉ s.lu.waiting → exec i s = .next s)
    ∧ (t.waitClasses ≠ [] → s.schedHeld = true → EventWaits i s e)
    ∧ (s.schedHeld = false → EventAgain i s e)
    ∧ (t.waitClasses ≠ [] → s.schedHeld = false → e ∉ s.lu.waiting →
      (∀ pre v post s1, s.schedTouch.migVictims t = pre ++ v :: post →
        (∀ p ∈ pre, s.schedTouch.preempt p.lid (some 0) = none) → s.schedTouch.preempt v.lid (some 0) = some s1 →
        exec i s = .next s1)
      ∧ ((∀ v ∈ s.schedTouch.migVictims t, s.schedTouch.preempt v.lid (some 0) = none) → exec i s = .next s.schedTouch)) := by
  have hexec := exec_migTimeout hi ht
  rw [he] at hexec
  refine ⟨fun hw hn => ?_, fun hw hh => ?_, fun hh => ?_, fun hw hh hn => ?_⟩
  · rw [hexec, hw, bne_self_eq_false, Bool.and_false, State.orWait_free _ hn, State.preemptFor, ht]
    dsimp only
    rw [if_pos hw]
  · refine eventWaits_of_orWait (f := State.preemptFor s.arg.uid) ?_
    rw [hexec, hh, bne_iff_ne.mpr hw]
    rfl
  · intro w1 w2 hq hne
    rw [hexec, hh, Bool.false_and, State.orWait_again _ hq hne]
    have hexec' := exec_migTimeout hi (s := { s with lu := { s.lu with waiting := w1 ++ w2 } }) ht
    rw [show State.schedHeld { s with lu := { s.lu with waiting := w1 ++ w2 } } = false from hh, Bool.false_and] at hexec'
    rw [hexec', ← he]
  · have hfor : s.preemptFor s.arg.uid
        = (firstSome (fun l => s.schedTouch.preempt l.lid (some 0)) (s.schedTouch.migVictims t)).getD s.schedTouch := by
      rw [State.preemptFor, ht]
      exact if_neg hw
    rw [hexec, hh, Bool.false_and, State.orWait_free _ hn, hfor]
    refine ⟨fun pre v post s1 hv hpre hs1 => ?_, fun hall => ?_⟩
    · rw [hv, firstSome_append (f := fun l : Launch => s.schedTouch.preempt l.lid (some 0)) post hs1 hpre]
      rfl
    · rw [firstSome_eq_none (f := fun l : Launch => s.schedTouch.preempt l.lid (some 0)) hall]
      rfl

/-! ### Lane waits that last (R35, R288) -/

theorem State.laneCheck_stays {s : State} {uid : Nat} {t : Strand} (ht : s.strand uid = some t) {o want : Nat} {r : VsetReq}
    (hst : t.status = .waiting (.lane o want r)) (h : t.pinned = true ∨ t.asked ≠ 0) : s.laneCheck uid = s := by
  unfold State.laneCheck
  rw [ht]
  dsimp only
  rw [hst]
  exact if_pos h

/-- An unpinned strand in lane wait moves to a core with room, or asks the carrier for it. -/
theorem State.laneCheck_moves {s : State} {uid : Nat} {t : Strand} (ht : s.strand uid = some t) {o want : Nat} {r : VsetReq}
    (hst : t.status = .waiting (.lane o want r)) (hp : t.pinned = false) (ha : t.asked = 0) {id slot : Nat}
    (hto : s.laneTarget t want = some (id, slot)) :
    (s.canTake t s.nextAsk = true → s.laneCheck uid = s.departWith uid id slot want)
    ∧ (s.canTake t s.nextAsk = false → s.laneCheck uid =
        { s with nextAsk := s.nextAsk + 1 }.updStrand uid fun t => { t with asked := s.nextAsk }) := by
  unfold State.laneCheck
  rw [ht]
  dsimp only
  rw [hst]
  dsimp only
  rw [if_neg (by simp [hp, ha]), hto]
  exact ⟨fun hc => if_pos hc, fun hc => if_neg (by rw [hc]; exact Bool.false_ne_true)⟩

/-! ### The mix window (R255) -/

theorem Strand.mixCount_cases (t : Strand) (v : Bool) :
    (t.mixN + 1 < 65536 → t.mixCount v = { t with mixN := t.mixN + 1, mixV := t.mixV + if v = true then 1 else 0 })
    ∧ (t.mixN = 65535 →
      t.mixCount v = { t with mixN := 0, mixV := 0, mixDone := some (t.mixV + if v = true then 1 else 0) }) :=
  ⟨fun h => if_pos h, fun h => if_neg (by omega)⟩

theorem State.mixEnd_none {s : State} {uid : Nat} {t : Strand} (ht : s.strand uid = some t) (h : t.mixDone = none) :
    s.mixEnd uid = s := by
  unfold State.mixEnd
  rw [ht]
  dsimp only
  rw [h]

/-- A window of a strand is judged. -/
def State.mixJudged (s : State) (uid : Nat) : State := s.updStrand uid fun t => { t with mixDone := none }

theorem State.strand_mixJudged {s : State} {uid : Nat} {t : Strand} (ht : s.strand uid = some t) :
    (s.mixJudged uid).strand uid = some { t with mixDone := none } := State.strand_updStrand_same ht fun _ => rfl

/-- A strand whose window held n vector instructions is to move to a control core. -/
def State.mixDue (s : State) (t : Strand) (n : Nat) : Bool :=
  t.cls == .vector && (s.core t.core).men && decide (n < (s.core t.core).mthr.toNat) && !t.pinned && t.fork.isNone
    && !(match t.status with | .waiting (.lane _ _ _) => true | _ => false) && !s.plat.locked
    && (match t.status with | .running | .waiting _ | .yielding _ => true | _ => false)

theorem State.mixDue_eq_false {s : State} {t : Strand} {n : Nat} (h : t.cls ≠ .vector ∨ (s.core t.core).men = false
    ∨ (s.core t.core).mthr.toNat ≤ n ∨ t.pinned = true ∨ t.fork.isSome = true ∨ s.plat.locked = true) :
    s.mixDue t n = false := by
  unfold State.mixDue
  obtain h | h | h | h | h | h := h
  · simp [h]
  · simp [h]
  · simp [not_lt.mpr h]
  · simp [h]
  · simp [Option.isNone_eq_false_iff.mpr h]
  · simp [h]

theorem State.mixDue_eq_true {s : State} {t : Strand} {n : Nat} (hv : t.cls = .vector) (hmen : (s.core t.core).men = true)
    (hn : n < (s.core t.core).mthr.toNat) (hp : t.pinned = false) (hf : t.fork = none) (hk : s.plat.locked = false)
    (hst : t.status = .running) : s.mixDue t n = true := by
  unfold State.mixDue
  rw [hst]
  simp [hv, hmen, hn, hp, hf, hk]

/-- A strand departs for a place, or asks the carrier for it; with none, it stays. -/
def State.departTo (s : State) (uid : Nat) : Option (Nat × Nat) → State
  | some (id, slot) => s.departOrAsk uid id slot
  | none => s

/-- A strand that is to move goes to the nearest control core with room. -/
theorem State.mixEnd_some {s : State} {uid n : Nat} {t : Strand} (ht : s.strand uid = some t) (hm : t.mixDone = some n) :
    s.mixEnd uid = (s.mixJudged uid).departTo uid
      (if s.mixDue t n then (s.mixJudged uid).nearestFit t [.control] fun _ => true else none) := by
  unfold State.mixEnd
  rw [ht]
  dsimp only
  rw [hm]
  rfl

theorem State.mixEnd_stays {s : State} {uid n : Nat} {t : Strand} (ht : s.strand uid = some t) (hm : t.mixDone = some n)
    (h : s.mixDue t n = false ∨ (s.mixJudged uid).nearestFit t [.control] (fun _ => true) = none) :
    s.mixEnd uid = s.mixJudged uid := by
  rw [State.mixEnd_some ht hm]
  obtain h | h := h
  · rw [h]; rfl
  · rw [h, ite_self]; rfl

theorem State.mixEnd_moves {s : State} {uid n : Nat} {t : Strand} (ht : s.strand uid = some t) (hm : t.mixDone = some n)
    (h : s.mixDue t n = true) {id slot : Nat}
    (hto : (s.mixJudged uid).nearestFit t [.control] (fun _ => true) = some (id, slot)) :
    s.mixEnd uid = (s.mixJudged uid).departOrAsk uid id slot := by
  rw [State.mixEnd_some ht hm, if_pos h, hto]
  rfl

theorem State.departOrAsk_cases {s : State} {uid : Nat} {t : Strand} (ht : s.strand uid = some t) (id slot : Nat) :
    (s.canTake t s.nextAsk = true → s.departOrAsk uid id slot = s.depart uid id slot)
    ∧ (s.canTake t s.nextAsk = false → s.departOrAsk uid id slot = s.ask uid (.core id)) := by
  unfold State.departOrAsk
  rw [ht]
  exact ⟨fun h => if_pos h, fun h => if_neg (by dsimp only; rw [h]; exact Bool.false_ne_true)⟩

/-- The strand alone changes when its window is judged. -/
theorem strandBecomes_mixJudged {s : State} {t : Strand} (ht : s.strand s.arg.uid = some t)
    (h : exec .mixWindowEnd s = .next (s.mixJudged s.arg.uid)) :
    StrandBecomes .mixWindowEnd s s.arg.uid { t with mixDone := none } :=
  ⟨_, h, State.strand_mixJudged ht, fun _ hv => State.strand_updStrand_of_ne hv fun _ hu => hu, rfl⟩

/-! ### Statement O51 -/

theorem exec_agingStep (s : State) : exec .agingStep s = .next (s.aging s.arg.lid) := rfl

theorem exec_dispatchDecision (s : State) : exec .dispatchDecision s = .next (s.decideDispatch s.arg.die) := rfl

theorem exec_preemptionSave (s : State) : exec .preemptionSave s = .next (s.save s.arg.lid) := rfl

theorem exec_resumption (s : State) : exec .resumption s = .next (s.resume s.arg.lid) := rfl

theorem exec_savedGroupPlacement (s : State) : exec .savedGroupPlacement s = .next (s.placeNextSaved s.arg.lid) := rfl

theorem exec_laneWaitCheck (s : State) : exec .laneWaitCheck s = .next (s.laneCheck s.arg.uid) := rfl

theorem exec_mixWindowEnd (s : State) : exec .mixWindowEnd s = .next (s.mixEnd s.arg.uid) := rfl

theorem dispatchCountHalving_halves {s : State} (h : (s.lu.counts.map (·.1)).Nodup) :
    ∃ t, exec .dispatchCountHalving s = .next t ∧ (∀ n, t.dcount n = s.dcount n / 2)
      ∧ t = { s with lu := { s.lu with counts := t.lu.counts } } :=
  ⟨s.halve, rfl, fun n => assocGet_halved n h, rfl⟩

/-- The bins of a launch: with none that holds a group nothing moves; else the first from the current one upwards. -/
theorem Launch.bins_cases (l : Launch) : ((∀ b, b < 64 → l.bins.getD b [] = []) → l.moveBin = l ∧ l.nextGroup = none)
    ∧ ∀ k, k < 64 → (∀ j, j < k → l.bins.getD ((l.curBin + j) % 64) [] = []) →
      ∀ g gs, l.bins.getD ((l.curBin + k) % 64) [] = g :: gs →
      l.moveBin = { l with curBin := (l.curBin + k) % 64 } ∧ l.nextGroup = some g
      ∧ (l.take g).curBin = (l.curBin + k) % 64 ∧ ((l.curBin + k) % 64 < l.bins.length →
          (l.take g).bins.getD ((l.curBin + k) % 64) [] = gs) := by
  refine ⟨fun h => ?_, fun k hk hbefore g gs hg => Launch.of_nextBin (Launch.nextBin_of_first hk hbefore ?_) hg⟩
  · have hn := Launch.nextBin_of_empty h
    exact ⟨by rw [Launch.moveBin, hn]; rfl, by rw [Launch.nextGroup, hn]⟩
  · rw [hg]
    exact List.cons_ne_nil g gs

/-- What a strand of a group starts with (R30). -/
theorem Launch.newStrand_starts (l : Launch) (uid glin stage six core slot : Nat) (lanes : List Nat) (stack : Option Nat)
    (g : StageRec) :
    let t := l.newStrand uid glin stage six core slot lanes stack g
    t.pc = BitVec.ofNat 64 (l.text + g.entry) ∧ t.x[0] = 0 ∧ t.x[1] = 0x003FFFFFFFFFFFF0
    ∧ t.x[2] = (match stack with | some k => BitVec.ofNat 64 (l.lrec.stkBase + (k + 1) * l.lrec.stkSz) | none => 0)
    ∧ t.x[10] = l.lrec.args ∧ t.x[11] = BitVec.ofNat 64 (glin * 256 + stage * 16 + six)
    ∧ (∀ r : Fin 32, r ≠ 1 → r ≠ 2 → r ≠ 10 → r ≠ 11 → t.x[r] = 0) ∧ t.g = g.l ∧ t.vl = 0
    ∧ t.vtype = 0x8000000000000000 ∧ t.vdirty = 0 ∧ t.vflags = 0 ∧ t.inbox = [] ∧ t.migcnt = 0 ∧ t.mode = .u := by
  have hx := l.newStrand_x uid glin stage six core slot lanes stack g
  refine ⟨rfl, hx 0, hx 1, (hx 2).trans (by cases stack <;> rfl), hx 10, hx 11, fun r h1 h2 h10 h11 => ?_, rfl, rfl, rfl,
    rfl, rfl, rfl, rfl, rfl⟩
  exact (hx r).trans (by rw [if_neg h1, if_neg h2, if_neg h10, if_neg h11])

/-- PREEMPTION_START, by what the launch does and whether the pool can hold its save. -/
theorem preemptionStart_cases {s : State} {l : Launch} (hl : s.launch s.arg.lid = some l) (h : s.ctxHeld l.ctx = false)
    (he : ({ row := .preemptionStart, arg := { lid := s.arg.lid } } : Event) ∉ s.lu.waiting) :
    (l.st ≠ .running → exec .preemptionStart s = .next s)
    ∧ (l.st = .running → s.poolHolds l = false → exec .preemptionStart s = .next s)
    ∧ (l.st = .running → s.poolHolds l = true → exec .preemptionStart s = .next
        (({ s.unitTouch (s.ctxAddr l.ctx) 64 with nextAsk := s.nextAsk + 1 }.updLaunch s.arg.lid fun l =>
          { l with st := .preempting, madeRoomFor := none, resuming := false, asked := s.nextAsk }).bumpLstate s.arg.lid)) := by
  rw [preemptionStart_now hl h he]
  refine ⟨fun hst => ?_, fun hst hp => ?_, fun hst hp => ?_⟩
  · rw [State.preempt_of_not_running hl hst]; rfl
  · rw [State.preempt_of_full hl hst hp]; rfl
  · rw [State.preempt_starts hl hst hp]; rfl

/-- The save of a strand: its context, in the pool, with a bookmark of CAUSE 6. -/
theorem State.saveStrand_saves {s : State} {u : Nat} {t : Strand} (ht : s.strand u = some t) :
    ∃ t' p e n, (s.saveStrand u).strand u = some t' ∧ t'.status = .saved p e n
      ∧ t'.bookmark.cause = 6 ∧ t'.x = t.replyAll.x ∧ t'.f = t.replyAll.f ∧ t'.pc = t.pc ∧ t'.k = t.k ∧ t'.vl = t.vl
      ∧ t'.res = [] ∧ (∀ r, t'.lrRes = some r → t.lrRes = some r) ∧ t'.scratch = t.scratch ∧ t'.acc = t.acc ∧ t'.act = t.act
      ∧ ∀ r : Fin 32, t'.v[r] = if t.vdirty.getLsbD r.val then t.v[r] else 0 := by
  obtain ⟨t1, p, e, n, token, hl, hs⟩ := State.saveStrand_strand ht
  exact ⟨_, p, e, n, hs, Strand.inSave_status p e n token t1, Strand.savedMark_cause _ _ _, Strand.inSave_keeps hl p e n token⟩

/-- Settles O51, by what each decision, save, resumption and timed move does in each case; a saved strand loses only what
stores take. -/
theorem dispatchEvents : Obligations.DispatchEvents := by
  unfold Obligations.DispatchEvents
  intro s
  refine ⟨fun l _ hlive hone => congrArg _ (State.aging_live hlive hone), dispatchCountHalving_halves,
    s.schedTouch_cachesOnly, ⟨dieReserve_waits, dieReserve_again, fun l g h he hl hg => dieReserve_now h he hl hg⟩,
    fun h => congrArg _ (State.decideDispatch_held h _), Launch.bins_cases, fun h h7 => ⟨fun hcs => ?_, fun a b =>
      ⟨fun hcs => ?_, fun hcs => ⟨fun hE => ?_, fun hE hD => ?_⟩⟩⟩,
    fun l uid glin stage six core slot lanes stack g => l.newStrand_starts uid glin stage six core slot lanes stack g,
    fun l hl => ⟨preemptionStart_waits hl, preemptionStart_again hl, preemptionStart_cases hl⟩,
    fun l hl => ⟨fun h => congrArg _ (State.save_waits hl h), fun hst hc hh => ⟨fun pre t post hts ht hpre => ?_,
      fun hne hall => ?_, fun hts hb => ?_, fun s2 hts hb => ?_⟩⟩,
    s.carrierFor_iff, fun ctx n q hq => State.poolParts_free hq, fun u t ht => State.saveStrand_saves ht,
    fun l hl => ⟨fun hst hr => ?_, fun hn => ?_, fun hst hr hm => ⟨fun hroom => ?_, fun hg hp => ?_⟩, fun hst => ?_,
      fun hst hno => ?_, fun hst t s1 hone hr hp => ?_⟩,
    s.canSave_iff, Strand.mixCount_cases, fun t ht => ⟨fun i hi => migTimeout_cases hi ht rfl,
      fun o want r hst => ⟨fun h => ?_, fun hp ha id slot hto => ?_⟩, fun hm => ?_, fun n hm => ⟨fun h => ?_,
        fun hv hmen hn hp hf hk hst id slot hto => ?_⟩⟩⟩
  · exact congrArg _ ((State.decideDispatch_free h rfl h7 rfl).1 (congrArg (sortBy _) hcs))
  · exact congrArg _ ((State.decideDispatch_free h rfl h7 rfl).2 a [] (congrArg (sortBy _) hcs))
  · exact congrArg _ (State.decideDispatch_pair h rfl h7 hcs (State.before_of_levelE hE))
  · exact congrArg _ (State.decideDispatch_pair h rfl h7 hcs (State.before_of_share hE hD))
  · refine congrArg _ ((State.save_resident hl hst hc hh hts (by simp)).1 t ?_)
    exact List.find?_eq_some_iff_append.mpr ⟨ht, pre, post, rfl, fun p hp => by simp [hpre p hp]⟩
  · refine congrArg _ ((State.save_resident hl hst hc hh rfl hne).2 ?_)
    exact List.find?_eq_none.mpr fun t ht => by simp [hall t ht]
  · exact congrArg _ ((State.save_done hl hst hc hh hts).1 hb)
  · exact congrArg _ ((State.save_done hl hst hc hh hts).2 s2 hb)
  · exact congrArg _ ((State.resume_cases hl).1 hst (.inl hr))
  · exact congrArg _ ((State.resume_cases hl).2 (hn.imp_right fun ⟨h, hm⟩ => ⟨h, .inl hm⟩))
  · exact congrArg _ ((State.resume_cases hl).1 hst (.inr ⟨hm, hroom⟩))
  · exact congrArg _ ((State.resume_cases hl).2 (.inr ⟨hr, .inr ⟨hg, hp⟩⟩))
  · exact congrArg _ (State.placeNextSaved_of_not_running hl hst)
  · obtain ⟨hnone, hsome⟩ := State.placeNextSaved_cases hl hst (State.replayWaiting_none hno)
    exact ⟨fun hp => congrArg _ (hnone hp), fun s1 hs h0 => congrArg _ (hsome s1 hs h0)⟩
  · exact congrArg _ ((State.placeNextSaved_cases hl hst (State.replayWaiting_one hone hr)).1 hp)
  · exact congrArg _ (State.laneCheck_stays ht hst h)
  · obtain ⟨htake, hask⟩ := State.laneCheck_moves ht hst hp ha hto
    exact ⟨fun hc => congrArg _ (htake hc), fun hc => congrArg _ (hask hc)⟩
  · exact congrArg _ (State.mixEnd_none ht hm)
  · refine strandBecomes_mixJudged ht (congrArg _ (State.mixEnd_stays ht hm ?_))
    simp only [← or_assoc] at h ⊢
    exact h.imp_left fun h => State.mixDue_eq_false (by simpa only [or_assoc] using h)
  · obtain ⟨htake, hask⟩ := State.departOrAsk_cases (State.strand_mixJudged ht) id slot
    have hmoves := State.mixEnd_moves ht hm (State.mixDue_eq_true hv hmen hn hp hf hk hst) hto
    exact ⟨fun hc => congrArg _ (hmoves.trans (htake hc)), fun hc => congrArg _ (hmoves.trans (hask hc))⟩

end Sys2Proof.Machine
end

section
/-! PROOFS. What the decoder reads of a table word (R6, R47, R52, R66 to R75): the bytes that give the word back, its fields,
and what it takes for an instruction to come back from its words. -/

namespace Sys2Proof.Machine

open Laws.EncodeFits (Fits32 Fits64)

/-! ### From bytes to words (R6, R47, R52) -/

theorem take_leBytes {k n : Nat} (w : Nat) (h : k ≤ n) : (leBytes n w).take k = leBytes k w := by
  induction k generalizing n w with
  | zero => rfl
  | succ k ih =>
    obtain ⟨n, rfl⟩ := Nat.exists_eq_add_of_le' (Nat.zero_lt_of_lt h)
    exact congrArg (_ :: ·) (ih (w / 256) (Nat.le_of_succ_le_succ h))

/-- The instruction of a table word whose first parcel announces the word's length. -/
theorem decodeTableWord_eq {n w : Nat} {i : Instr} (h8 : n ≤ 8) (h2 : 2 ≤ n) (hw : w < 2 ^ (8 * n))
    (hl : parcelLength (w % 2 ^ 16) = .ok n) (hd : decodeWord n w = .ok i) : decodeTableWord (8 * n) w = some i := by
  have hfirst : leNat ((leBytes 8 w).take 2) = w % 2 ^ 16 := by rw [take_leBytes w (by decide), leNat_leBytes]
  have hall : leNat ((leBytes 8 w).take n) = w := by rw [take_leBytes w h8, leNat_leBytes, Nat.mod_eq_of_lt hw]
  have hlen : ¬(8 < 2 ∨ 8 < n) := by omega
  simp only [decodeTableWord, decodeBytes, Nat.mod_eq_of_lt hw, hfirst, hl, length_leBytes, hlen, if_false, hall, hd]

theorem decodeTableWord_of_fits32 {w : Nat} {i : Instr} (h : Fits32 w) (hd : decode32 w = .ok i) :
    decodeTableWord 32 w = some i := by
  obtain ⟨hw, h4, h32⟩ := h
  refine decodeTableWord_eq (n := 4) (by decide) (by decide) hw ?_ hd
  rw [parcelLength, if_neg (by omega), if_pos (by omega)]

theorem decodeTableWord_of_fits64 {w : Nat} {i : Instr} (h : Fits64 w) (hd : decodeL w = .ok i) :
    decodeTableWord 64 w = some i := by
  obtain ⟨hw, h63⟩ := h
  refine decodeTableWord_eq (n := 8) (by decide) (by decide) hw ?_ hd
  rw [parcelLength, if_neg (by omega), if_neg (by omega), if_neg (by omega), if_pos (by omega)]

/-- A parcel that stands for a scalar instruction decodes to its compressed form (R52). -/
theorem decodeTableWord_of_expandC {p : BitVec 16} {op : Scalar} (hp : p.toNat ≠ 0x9002)
    (h : expandC p.toNat = some op) :
    decodeTableWord 16 p.toNat = some (.rv64ScalarInstruction (.compressed p) op) := by
  have hq : fld p.toNat 0 2 ≠ 3 := by
    intro hq
    simp [expandC, hq] at h
  refine decodeTableWord_eq (n := 2) (by decide) (by decide) p.isLt ?_ ?_
  · rw [fld] at hq
    rw [parcelLength, if_pos (by omega)]
  · simp [decodeWord, decode16, hp, h]

/-! ### Reading the fields of a word -/

theorem flag_of_fld {w i : Nat} {b : Bool} (h : fld w i 1 = b.toNat) : flag w i = b := by
  rw [flag, h]
  cases b <;> rfl

theorem regAt_of_fld {w lo : Nat} {r : Reg} (h : fld w lo 5 = r) : regAt w lo = r :=
  Fin.ext h

theorem immAt_of_fld {w lo n : Nat} {v : BitVec n} (h : fld w lo n = v.toNat) : immAt w lo n = v :=
  BitVec.eq_of_toNat_eq h

/-- A mask register in a field of five bits: the two bits above it are zero. -/
theorem mregAt_of_fld {w lo : Nat} {k : MReg} (h : fld w lo 5 = k) : mregAt w lo = k ∧ fld w (lo + 3) 2 = 0 := by
  have hk := k.isLt
  simp only [fld, mregAt, Fin.ext_iff, Fin.val_ofNat, Nat.pow_add, ← Nat.div_div_eq_div_mul] at *
  omega

/-- A handle, slot or channel in a field of five bits: the bit above it is zero. -/
theorem qregAt_of_fld {w lo : Nat} {q : QReg} (h : fld w lo 5 = q) : qregAt w lo = q ∧ fld w (lo + 4) 1 = 0 := by
  have hq := q.isLt
  simp only [fld, qregAt, Fin.ext_iff, Fin.val_ofNat, Nat.pow_add, ← Nat.div_div_eq_div_mul] at *
  omega

/-- An instruction whose reserved fields are zero is accepted. -/
theorem reserved_ok {w : Nat} {fields : List (Nat × Nat)} {i : Instr} (h : ∀ p ∈ fields, fld w p.1 p.2 = 0) :
    reserved w fields i = .ok i :=
  if_pos (List.all_eq_true.2 fun p hp => beq_iff_eq.2 (h p hp))

/-! ### Round trips -/

/-- The words of an instruction decode to it. -/
def RoundTrip (i : Instr) : Prop := ∀ n w, encode i = some (n, w) → decodeTableWord n w = some i.canonical

theorem roundTrip_of_encode {i : Instr} {n w : Nat} (he : encode i = some (n, w))
    (hd : decodeTableWord n w = some i.canonical) : RoundTrip i := by
  intro n' w' he'
  obtain ⟨rfl, rfl⟩ := Prod.mk.inj (Option.some.inj (he.symm.trans he'))
  exact hd

/-- An event has no words (95). -/
theorem roundTrip_of_none {i : Instr} (he : encode i = none) : RoundTrip i :=
  fun _ _ he' => absurd (he.symm.trans he') nofun

end Sys2Proof.Machine
end

section
/-! PROOFS. The decoder on the words of the vector formats (R66, R71, R72, R74): the fields of a word, each opcode page, and the
words that the encoder packs. -/

namespace Sys2Proof.Machine

open Laws.EncodeFits (Fits32 fld_lt)

/-! ### The vector formats (R66, R71, R72, R74) -/

/-- The code of a vector format. -/
abbrev VaCode (f4 f3 op : Nat) : Prop := f4 < 16 ∧ f3 < 8 ∧ op < 128 ∧ op % 4 = 3 ∧ op / 4 % 8 ≠ 7

/-- The word w has the code f4, f3 and op of a vector format, and the fields of a between them. -/
structure VaWord (w f4 f3 op : Nat) (a : FVV) : Prop where
  code : VaCode f4 f3 op
  eq : w = f4 * 2 ^ 28 + bit 27 a.vm + bit 26 a.c2 + bit 25 a.c1 + reg 20 a.vs2 + reg 15 a.vs1 + f3 * 2 ^ 12 + reg 7 a.vd + op

section
variable {w f4 f3 op : Nat} {a : FVV}

theorem VaWord.fields (h : VaWord w f4 f3 op a) : fld w 0 7 = op ∧ fld w 12 3 = f3 ∧ fld w 28 4 = f4
    ∧ fld w 27 1 = a.vm.toNat ∧ fld w 26 1 = a.c2.toNat ∧ fld w 25 1 = a.c1.toNat
    ∧ fld w 20 5 = a.vs2 ∧ fld w 15 5 = a.vs1 ∧ fld w 7 5 = a.vd := by
  obtain ⟨hc, hw⟩ := h
  have h27 := Bool.toNat_le a.vm
  have h26 := Bool.toNat_le a.c2
  have h25 := Bool.toNat_le a.c1
  simp only [bit, reg, fld] at *
  omega

theorem VaWord.codes (h : VaWord w f4 f3 op a) : fld w 0 7 = op ∧ fld w 12 3 = f3 ∧ fld w 28 4 = f4 := by
  obtain ⟨hop, h3, h4, -⟩ := h.fields
  exact ⟨hop, h3, h4⟩

theorem VaWord.operands (h : VaWord w f4 f3 op a) : flag w 27 = a.vm ∧ flag w 26 = a.c2 ∧ flag w 25 = a.c1
    ∧ regAt w 20 = a.vs2 ∧ regAt w 15 = a.vs1 ∧ regAt w 7 = a.vd := by
  obtain ⟨-, -, -, h27, h26, h25, h2, h1, hd⟩ := h.fields
  exact ⟨flag_of_fld h27, flag_of_fld h26, flag_of_fld h25, regAt_of_fld h2, regAt_of_fld h1, regAt_of_fld hd⟩

/-- The chain bits read together, as some instructions reserve them. -/
theorem VaWord.chain (h : VaWord w f4 f3 op a) : fld w 25 2 = a.c2.toNat * 2 + a.c1.toNat
    ∧ fld w 25 3 = a.vm.toNat * 4 + a.c2.toNat * 2 + a.c1.toNat := by
  obtain ⟨-, -, -, h27, h26, h25, -⟩ := h.fields
  simp only [fld] at *
  omega

theorem VaWord.fits (h : VaWord w f4 f3 op a) : Fits32 w := by
  obtain ⟨hc, hw⟩ := h
  have h27 := Bool.toNat_le a.vm
  have h26 := Bool.toNat_le a.c2
  have h25 := Bool.toNat_le a.c1
  simp only [bit, reg, Fits32] at *
  omega

theorem VaWord.roundTrip {i : Instr} (he : encode i = some (32, w)) (h : VaWord w f4 f3 op a)
    (hd : VaWord w f4 f3 op a → decode32 w = .ok i.canonical) : RoundTrip i :=
  roundTrip_of_encode he (decodeTableWord_of_fits32 h.fits (hd h))

end

/-- The number holds the code of a vector format and nothing else. -/
abbrev IsVaCode (base : Nat) : Prop :=
  base = fld base 28 4 * 2 ^ 28 + fld base 25 1 * 2 ^ 25 + fld base 12 3 * 2 ^ 12 + fld base 0 7
    ∧ fld base 0 7 % 4 = 3 ∧ fld base 0 7 / 4 % 8 ≠ 7

theorem toNat_flag (w i : Nat) : (flag w i).toNat = fld w i 1 := by
  have h := fld_lt w i 1
  simp only [flag, Bool.toNat, Bool.cond_eq_ite, beq_iff_eq]
  split <;> omega

section
variable {base : Nat} (hb : IsVaCode base)
include hb

theorem IsVaCode.code : VaCode (fld base 28 4) (fld base 12 3) (fld base 0 7) :=
  ⟨fld_lt _ _ _, fld_lt _ _ _, fld_lt _ _ _, hb.2⟩

theorem packVV_word (h25 : fld base 25 1 = 0) (a : FVV) :
    VaWord (packVV base a) (fld base 28 4) (fld base 12 3) (fld base 0 7) a :=
  ⟨hb.code, by have := hb.1; simp only [packVV, bit, reg]; omega⟩

theorem packVX_word (a : FVX) : VaWord (packVX base a) (fld base 28 4) (fld base 12 3) (fld base 0 7)
    ⟨a.vm, a.c2, flag base 25, a.vs2, a.rs1, a.vd⟩ :=
  ⟨hb.code, by have := hb.1; simp only [packVX, bit, reg, toNat_flag]; omega⟩

theorem packVI_word (a : FVI) : VaWord (packVI base a) (fld base 28 4) (fld base 12 3) (fld base 0 7)
    ⟨a.vm, a.c2, flag base 25, a.vs2, a.imm.toFin, a.vd⟩ :=
  ⟨hb.code, by have := hb.1; simp only [packVI, bit, bits, reg, toNat_flag, BitVec.val_toFin]; omega⟩

end

theorem decode32_QA {w : Nat} (h : fld w 0 7 = 0x0B) : decode32 w = decodeQA w := by
  simp only [decode32, h]

section
variable {w f4 : Nat}

theorem decode_pageVV {a : FVV} {c : FVV → Instr} (h : VaWord w f4 0 0x0B a) (hc : pageVV[f4]? = some c) :
    decode32 w = .ok (c a) := by
  obtain ⟨hop, h3, h4⟩ := h.codes
  simp only [decode32_QA hop, decodeQA, h3, h4, pick, hc, vvAt, h.operands]

theorem decode_pageVX {a : FVX} {b25 : Bool} {c : FVX → Instr}
    (h : VaWord w f4 1 0x0B ⟨a.vm, a.c2, b25, a.vs2, a.rs1, a.vd⟩) (hc : pageVX[b25.toNat * 16 + f4]? = some c) :
    decode32 w = .ok (c a) := by
  obtain ⟨hop, h3, h4, -, -, h25, -⟩ := h.fields
  have hx : pick pageVX (b25.toNat * 16 + f4) (vxAt w) = .ok (c a) := by
    simp only [pick, hc, vxAt, h.operands]
  simp only [decode32_QA hop, decodeQA, h3, h4, h25]
  split
  · next h26 => simp [h26, pageVX] at hc
  · exact hx

theorem decode_pageVI {a : FVI} {b25 : Bool} {p : Nat × (FVI → Instr)}
    (h : VaWord w f4 2 0x0B ⟨a.vm, a.c2, b25, a.vs2, a.imm.toFin, a.vd⟩)
    (hc : pageVI.find? (fun p => p.1 == b25.toNat * 16 + f4) = some p) : decode32 w = .ok (p.2 a) := by
  obtain ⟨hop, h3, h4, -, -, h25, -, h1, -⟩ := h.fields
  have hx : pickAt pageVI (b25.toNat * 16 + f4) (viAt w) = .ok (p.2 a) := by
    simp only [pickAt, hc, viAt, h.operands, immAt_of_fld (v := a.imm) h1]
  simp only [decode32_QA hop, decodeQA, h3, h4, h25]
  split
  · next h26 => simp [h26, pageVI] at hc
  · exact hx

theorem decode_vsplatVx {vm : Bool} {vd rs1 : Reg} (h : VaWord w 10 1 0x0B ⟨vm, false, true, 0, rs1, vd⟩) :
    decode32 w = .ok (.vsplatVx vm vd rs1) := by
  obtain ⟨hop, h3, h4, -, h26, h25, h2, -⟩ := h.fields
  have hres := reserved_ok (w := w) (fields := [(20, 5), (26, 1)]) (i := .vsplatVx vm vd rs1) (by simp [h26, h2])
  simp only [decode32_QA hop, decodeQA, h3, h4, h25, Bool.toNat_true, h.operands, hres]

theorem decode_vsplatVi {vm : Bool} {vd : Reg} {imm : BitVec 5}
    (h : VaWord w 10 2 0x0B ⟨vm, false, true, 0, imm.toFin, vd⟩) : decode32 w = .ok (.vsplatVi vm vd imm) := by
  obtain ⟨hop, h3, h4, -, h26, h25, h2, h1, -⟩ := h.fields
  have hres := reserved_ok (w := w) (fields := [(20, 5), (26, 1)]) (i := .vsplatVi vm vd imm) (by simp [h26, h2])
  simp only [decode32_QA hop, decodeQA, h3, h4, h25, Bool.toNat_true, h.operands, immAt_of_fld (v := imm) h1, hres]

theorem decode_pageFVV {a : FVV} {c : FVV → Instr} (h : VaWord w f4 3 0x0B a) (hc : pageFVV[f4]? = some c) :
    decode32 w = .ok (c a) := by
  obtain ⟨hop, h3, h4⟩ := h.codes
  have hx : pick pageFVV f4 (vvAt w) = .ok (c a) := by
    simp only [pick, hc, vvAt, h.operands]
  simp only [decode32_QA hop, decodeQA, h3, h4]
  split
  · simp [pageFVV] at hc
  · exact hx

theorem decode_pageFU {a : FVU} {s1 : Reg} {c : FVU → Instr} (h : VaWord w 13 3 0x0B ⟨a.vm, a.c2, false, a.vs2, s1, a.vd⟩)
    (hc : pageFU[s1.val]? = some c) : decode32 w = .ok (c a) := by
  obtain ⟨hop, h3, h4, -, -, h25, -, h1, -⟩ := h.fields
  have hres := reserved_ok (w := w) (fields := [(25, 1)]) (i := c a) (by simp [h25])
  simp only [decode32_QA hop, decodeQA, h3, h4, pickRes, h1, hc, vuAt, h.operands, hres]

theorem decode_pageFVF {a : FVX} {c : FVX → Instr} (h : VaWord w f4 4 0x0B ⟨a.vm, a.c2, false, a.vs2, a.rs1, a.vd⟩)
    (hc : pageFVF[f4]? = some c) : decode32 w = .ok (c a) := by
  obtain ⟨hop, h3, h4, -, -, h25, -⟩ := h.fields
  have hres := reserved_ok (w := w) (fields := [(25, 1)]) (i := c a) (by simp [h25])
  have hx : pickRes pageFVF f4 (vxAt w) w [(25, 1)] = .ok (c a) := by
    simp only [pickRes, hc, vxAt, h.operands, hres]
  simp only [decode32_QA hop, decodeQA, h3, h4]
  split
  · simp [pageFVF] at hc
  · exact hx

theorem decode_vfsplat {vm : Bool} {vd rs1 : Reg} (h : VaWord w 15 4 0x0B ⟨vm, false, false, 0, rs1, vd⟩) :
    decode32 w = .ok (.vfsplat vm vd rs1) := by
  obtain ⟨hop, h3, h4, -, h26, h25, h2, -⟩ := h.fields
  have hres := reserved_ok (w := w) (fields := [(20, 5), (25, 2)]) (i := .vfsplat vm vd rs1) (by simp [h.chain, h2])
  simp only [decode32_QA hop, decodeQA, h3, h4, h.operands, hres]

theorem decode_pageRed {a : FVV} {c : FVV → Instr} (h : VaWord w f4 5 0x0B a) (hc : pageRed[f4]? = some c) :
    decode32 w = .ok (c a) := by
  obtain ⟨hop, h3, h4⟩ := h.codes
  have hx : pick pageRed f4 (vvAt w) = .ok (c a) := by
    simp only [pick, hc, vvAt, h.operands]
  simp only [decode32_QA hop, decodeQA, h3, h4]
  split
  · simp [pageRed] at hc
  · simp [pageRed] at hc
  · exact hx

/-- The two moves to a scalar register stand behind the reductions. -/
def moveAt : Nat → Option (Bool → Reg → Reg → Instr)
  | 12 => some .vmvxs
  | 13 => some .vmvfs
  | _ => none

theorem decode_move {c2 : Bool} {rd vs2 : Reg} {c : Bool → Reg → Reg → Instr}
    (h : VaWord w f4 5 0x0B ⟨false, c2, false, vs2, 0, rd⟩) (hc : moveAt f4 = some c) : decode32 w = .ok (c c2 rd vs2) := by
  obtain ⟨hop, h3, h4, h27, -, h25, -, h1, -⟩ := h.fields
  have hres : reserved w [(15, 5), (25, 1), (27, 1)] (c c2 rd vs2) = .ok (c c2 rd vs2) := by
    simp [reserved, h27, h25, h1]
  match f4, hc with
  | 12, rfl | 13, rfl => simpa only [decode32_QA hop, decodeQA, h3, h4, h.operands] using hres

/-- The conversions of one operand, by their code; `vfncvt` and the quantising ones have operands of their own. -/
def cvtAt : Nat → Option (FVU → Instr)
  | 0 => some .vfcvtfi
  | 1 => some .vfcvtif
  | 2 => some .vfwcvt
  | 6 => some .vncvti
  | 7 => some .vwcvti
  | _ => none

theorem decode_cvt {a : FVU} {c : FVU → Instr} (h : VaWord w f4 6 0x0B ⟨a.vm, a.c2, false, a.vs2, 0, a.vd⟩)
    (hc : cvtAt f4 = some c) : decode32 w = .ok (c a) := by
  obtain ⟨hop, h3, h4, -, -, h25, -, h1, -⟩ := h.fields
  have hres : reserved w [(15, 5), (25, 1)] (c a) = .ok (c a) := by
    simp [reserved, h25, h1]
  match f4, hc with
  | 0, rfl | 1, rfl | 2, rfl | 6, rfl | 7, rfl =>
    simpa only [decode32_QA hop, decodeQA, h3, h4, vuAt, h.operands] using hres

theorem decode_vfncvt {a : FVUS} (h : VaWord w 3 6 0x0B ⟨a.vm, a.c2, a.sat, a.vs2, 0, a.vd⟩) :
    decode32 w = .ok (.vfncvt a) := by
  obtain ⟨hop, h3, h4, -, -, -, -, h1, -⟩ := h.fields
  simp [decode32_QA hop, decodeQA, h3, h4, reserved, h1, vusAt, h.operands]

theorem decode_vqcvt {a : FVXS} (h : VaWord w 4 6 0x0B ⟨a.vm, a.c2, a.sat, a.vs2, a.rs1, a.vd⟩) :
    decode32 w = .ok (.vqcvt a) := by
  obtain ⟨hop, h3, h4⟩ := h.codes
  simp only [decode32_QA hop, decodeQA, h3, h4, vxsAt, h.operands]

theorem decode_vdqcvt {a : FVX} (h : VaWord w 5 6 0x0B ⟨a.vm, a.c2, false, a.vs2, a.rs1, a.vd⟩) :
    decode32 w = .ok (.vdqcvt a) := by
  obtain ⟨hop, h3, h4, -, -, h25, -⟩ := h.fields
  simp [decode32_QA hop, decodeQA, h3, h4, reserved, h25, vxAt, h.operands]

theorem decode_pageVV2 {a : FVV} {c : FVV → Instr} (h : VaWord w f4 7 0x0B a) (hc : pageVV2[f4]? = some c) :
    decode32 w = .ok (c a) := by
  obtain ⟨hop, h3, h4⟩ := h.codes
  simp only [decode32_QA hop, decodeQA, h3, h4, pick, hc, vvAt, h.operands]

end

/-! ### QK: compares, masks, permutes (R72) -/

/-- A mask register in the five bits of a vector register. -/
def maskField (k : MReg) : Reg := k.castLE (by decide)

theorem decode32_QK {w : Nat} (h : fld w 0 7 = 0x7B) : decode32 w = decodeQK w := by
  simp only [decode32, h]

section
variable {w f4 : Nat}

theorem decode_pageKVV {a : FKVV} {c : FKVV → Instr}
    (h : VaWord w f4 0 0x7B ⟨a.vm, a.c2, a.c1, a.vs2, a.vs1, maskField a.kd⟩) (hc : pageKVV[f4]? = some c) :
    decode32 w = .ok (c a) := by
  obtain ⟨hop, h3, h4, -, -, -, -, -, hd⟩ := h.fields
  obtain ⟨hkd, hz⟩ := mregAt_of_fld (k := a.kd) hd
  have h8 : f4 < 8 := Nat.lt_trans (List.getElem?_eq_some_iff.1 hc).1 (by decide)
  simp [decode32_QK hop, decodeQK, h3, h4, h8, pickRes, hc, reserved, hz, kvvAt, h.operands, hkd]

theorem decode_pageKVX {a : FKVX} {c : FKVX → Instr}
    (h : VaWord w f4 0 0x7B ⟨a.vm, a.c2, false, a.vs2, a.rs1, maskField a.kd⟩) (h8 : 8 ≤ f4)
    (hc : pageKVX[f4 - 8]? = some c) : decode32 w = .ok (c a) := by
  obtain ⟨hop, h3, h4, -, -, h25, -, -, hd⟩ := h.fields
  obtain ⟨hkd, hz⟩ := mregAt_of_fld (k := a.kd) hd
  simp [decode32_QK hop, decodeQK, h3, h4, Nat.not_lt.2 h8, pickRes, hc, reserved, h25, hz, kvxAt, h.operands, hkd]

theorem decode_pageKVI {a : FKVI} {p : Nat × (FKVI → Instr)}
    (h : VaWord w f4 1 0x7B ⟨a.vm, a.c2, false, a.vs2, a.imm.toFin, maskField a.kd⟩)
    (hc : pageKVI.find? (fun p => p.1 == f4) = some p) : decode32 w = .ok (p.2 a) := by
  obtain ⟨hop, h3, h4, -, -, h25, -, h1, hd⟩ := h.fields
  obtain ⟨hkd, hz⟩ := mregAt_of_fld (k := a.kd) hd
  simp [decode32_QK hop, decodeQK, h3, h4, pickAtRes, hc, reserved, h25, hz, kviAt, h.operands, hkd,
    immAt_of_fld (v := a.imm) h1]

theorem decode_pageKFV {a : FKVV} {c : FKVV → Instr}
    (h : VaWord w f4 2 0x7B ⟨a.vm, a.c2, a.c1, a.vs2, a.vs1, maskField a.kd⟩) (hc : pageKFV[f4]? = some c) :
    decode32 w = .ok (c a) := by
  obtain ⟨hop, h3, h4, -, -, -, -, -, hd⟩ := h.fields
  obtain ⟨hkd, hz⟩ := mregAt_of_fld (k := a.kd) hd
  have h8 : f4 < 8 := Nat.lt_trans (List.getElem?_eq_some_iff.1 hc).1 (by decide)
  simp [decode32_QK hop, decodeQK, h3, h4, h8, pickRes, hc, reserved, hz, kvvAt, h.operands, hkd]

theorem decode_pageKFF {a : FKVX} {c : FKVX → Instr}
    (h : VaWord w f4 2 0x7B ⟨a.vm, a.c2, false, a.vs2, a.rs1, maskField a.kd⟩) (h8 : 8 ≤ f4)
    (hc : pageKFF[f4 - 8]? = some c) : decode32 w = .ok (c a) := by
  obtain ⟨hop, h3, h4, -, -, h25, -, -, hd⟩ := h.fields
  obtain ⟨hkd, hz⟩ := mregAt_of_fld (k := a.kd) hd
  simp [decode32_QK hop, decodeQK, h3, h4, Nat.not_lt.2 h8, pickRes, hc, reserved, h25, hz, kvxAt, h.operands, hkd]

/-- The operations of two mask registers, by their code. -/
def mask2Page : List (MReg → MReg → MReg → Instr) := [.kand, .kor, .kxor, .kandn]

theorem decode_mask2 {kd ks2 ks1 : MReg} {c : MReg → MReg → MReg → Instr}
    (h : VaWord w f4 3 0x7B ⟨false, false, false, maskField ks2, maskField ks1, maskField kd⟩)
    (hc : mask2Page[f4]? = some c) : decode32 w = .ok (c kd ks2 ks1) := by
  obtain ⟨hop, h3, h4, -, -, -, h2, h1, hd⟩ := h.fields
  obtain ⟨hk2, hz2⟩ := mregAt_of_fld (k := ks2) h2
  obtain ⟨hk1, hz1⟩ := mregAt_of_fld (k := ks1) h1
  obtain ⟨hkd, hzd⟩ := mregAt_of_fld (k := kd) hd
  have hres : reserved w [(25, 3), (23, 2), (18, 2), (10, 2)] (c kd ks2 ks1) = .ok (c kd ks2 ks1) := by
    simp [reserved, h.chain, hz2, hz1, hzd]
  match f4, hc with
  | 0, rfl | 1, rfl | 2, rfl | 3, rfl =>
    simpa only [decode32_QK hop, decodeQK, h3, h4, hk2, hk1, hkd] using hres

/-- The operations of one mask register with a mask register for destination. -/
def mask1At : Nat → Option (MReg → MReg → Instr)
  | 4 => some .knot
  | 5 => some .kmov
  | _ => none

theorem decode_mask1 {kd ks2 : MReg} {c : MReg → MReg → Instr}
    (h : VaWord w f4 3 0x7B ⟨false, false, false, maskField ks2, 0, maskField kd⟩) (hc : mask1At f4 = some c) :
    decode32 w = .ok (c kd ks2) := by
  obtain ⟨hop, h3, h4, -, -, -, h2, h1, hd⟩ := h.fields
  obtain ⟨hk2, hz2⟩ := mregAt_of_fld (k := ks2) h2
  obtain ⟨hkd, hzd⟩ := mregAt_of_fld (k := kd) hd
  have hres : reserved w [(25, 3), (23, 2), (15, 5), (10, 2)] (c kd ks2) = .ok (c kd ks2) := by
    simp [reserved, h.chain, hz2, h1, hzd]
  match f4, hc with
  | 4, rfl | 5, rfl => simpa only [decode32_QK hop, decodeQK, h3, h4, hk2, hkd] using hres

/-- The operations of one mask register with a scalar destination. -/
def maskXAt : Nat → Option (Reg → MReg → Instr)
  | 6 => some .kpop
  | 7 => some .kfirst
  | _ => none

theorem decode_maskX {rd : Reg} {ks2 : MReg} {c : Reg → MReg → Instr}
    (h : VaWord w f4 3 0x7B ⟨false, false, false, maskField ks2, 0, rd⟩) (hc : maskXAt f4 = some c) :
    decode32 w = .ok (c rd ks2) := by
  obtain ⟨hop, h3, h4, -, -, -, h2, h1, -⟩ := h.fields
  obtain ⟨hk2, hz2⟩ := mregAt_of_fld (k := ks2) h2
  have hres : reserved w [(25, 3), (23, 2), (15, 5)] (c rd ks2) = .ok (c rd ks2) := by
    simp [reserved, h.chain, hz2, h1]
  match f4, hc with
  | 6, rfl | 7, rfl => simpa only [decode32_QK hop, decodeQK, h3, h4, hk2, h.operands] using hres

/-- The slides by a register and by an immediate, by their code. -/
def slideVxAt : Nat → Option (FVX → Instr)
  | 0 => some .vslideupVx
  | 2 => some .vslidednVx
  | _ => none

def slideViAt : Nat → Option (FVI → Instr)
  | 1 => some .vslideupVi
  | 3 => some .vslidednVi
  | _ => none

theorem decode_slideVx {a : FVX} {c : FVX → Instr} (h : VaWord w f4 4 0x7B ⟨a.vm, a.c2, false, a.vs2, a.rs1, a.vd⟩)
    (hc : slideVxAt f4 = some c) : decode32 w = .ok (c a) := by
  obtain ⟨hop, h3, h4, -, -, h25, -⟩ := h.fields
  have hres : reserved w [(25, 1)] (c a) = .ok (c a) := by
    simp [reserved, h25]
  match f4, hc with
  | 0, rfl | 2, rfl => simpa only [decode32_QK hop, decodeQK, h3, h4, vxAt, h.operands] using hres

theorem decode_slideVi {a : FVI} {c : FVI → Instr}
    (h : VaWord w f4 4 0x7B ⟨a.vm, a.c2, false, a.vs2, a.imm.toFin, a.vd⟩) (hc : slideViAt f4 = some c) :
    decode32 w = .ok (c a) := by
  obtain ⟨hop, h3, h4, -, -, h25, -, h1, -⟩ := h.fields
  have hres : reserved w [(25, 1)] (c a) = .ok (c a) := by
    simp [reserved, h25]
  match f4, hc with
  | 1, rfl | 3, rfl =>
    simpa only [decode32_QK hop, decodeQK, h3, h4, viAt, immAt_of_fld (v := a.imm) h1, h.operands] using hres

theorem decode_vpermVv {a : FVV} (h : VaWord w 4 4 0x7B a) : decode32 w = .ok (.vpermVv a) := by
  obtain ⟨hop, h3, h4⟩ := h.codes
  simp only [decode32_QK hop, decodeQK, h3, h4, vvAt, h.operands]

/-- The two forms that take a mask register for their second source. -/
def packAt : Nat → Option (Bool → Reg → Reg → MReg → Instr)
  | 5 => some .vcompress
  | 6 => some .vexpand
  | _ => none

theorem decode_pack {c2 : Bool} {vd vs2 : Reg} {ks1 : MReg} {c : Bool → Reg → Reg → MReg → Instr}
    (h : VaWord w f4 4 0x7B ⟨false, c2, false, vs2, maskField ks1, vd⟩) (hc : packAt f4 = some c) :
    decode32 w = .ok (c c2 vd vs2 ks1) := by
  obtain ⟨hop, h3, h4, h27, -, h25, -, h1, -⟩ := h.fields
  obtain ⟨hk1, hz1⟩ := mregAt_of_fld (k := ks1) h1
  have hres : reserved w [(27, 1), (25, 1), (18, 2)] (c c2 vd vs2 ks1) = .ok (c c2 vd vs2 ks1) := by
    simp [reserved, h27, h25, hz1]
  match f4, hc with
  | 5, rfl | 6, rfl => simpa only [decode32_QK hop, decodeQK, h3, h4, hk1, h.operands] using hres

theorem decode_vmergeVv {c2 c1 : Bool} {vd vs2 vs1 : Reg} (h : VaWord w 7 4 0x7B ⟨true, c2, c1, vs2, vs1, vd⟩) :
    decode32 w = .ok (.vmergeVv c2 c1 vd vs2 vs1) := by
  obtain ⟨hop, h3, h4⟩ := h.codes
  simp only [decode32_QK hop, decodeQK, h3, h4, h.operands, if_true]

theorem decode_vmergeVx {c2 : Bool} {vd vs2 rs1 : Reg} (h : VaWord w 8 4 0x7B ⟨true, c2, false, vs2, rs1, vd⟩) :
    decode32 w = .ok (.vmergeVx c2 vd vs2 rs1) := by
  obtain ⟨hop, h3, h4, -, -, h25, -⟩ := h.fields
  simp [decode32_QK hop, decodeQK, h3, h4, h.operands, reserved, h25]

theorem decode_vmergeVi {c2 : Bool} {vd vs2 : Reg} {imm : BitVec 5}
    (h : VaWord w 9 4 0x7B ⟨true, c2, false, vs2, imm.toFin, vd⟩) : decode32 w = .ok (.vmergeVi c2 vd vs2 imm) := by
  obtain ⟨hop, h3, h4, -, -, h25, -, h1, -⟩ := h.fields
  simp [decode32_QK hop, decodeQK, h3, h4, h.operands, immAt_of_fld (v := imm) h1, reserved, h25]

theorem decode_vid {vm : Bool} {vd : Reg} (h : VaWord w 10 4 0x7B ⟨vm, false, false, 0, 0, vd⟩) :
    decode32 w = .ok (.vid vm vd) := by
  obtain ⟨hop, h3, h4, -, -, -, h2, h1, -⟩ := h.fields
  simp [decode32_QK hop, decodeQK, h3, h4, h.operands, reserved, h.chain, h2, h1]

end

/-! ### QS: vector atomics, `vwait`, `vgl` and `vsc` (R74) -/

theorem decode32_QS {w : Nat} (h : fld w 0 7 = 0x5B) : decode32 w = decodeQS w := by
  simp only [decode32, h]

section
variable {w f4 : Nat}

theorem decode_pageAmo {a : FAmo} {c : FAmo → Instr}
    (h : VaWord w f4 a.scope 0x5B ⟨a.vm, a.aq, a.rl, a.vs2, a.base, a.vd⟩) (hc : pageAmo[f4]? = some c) :
    decode32 w = .ok (c a) := by
  obtain ⟨hop, h3, h4⟩ := h.codes
  have hs := a.scope.isLt
  have hx : pick pageAmo f4 (amoAt w) = .ok (c a) := by
    simp only [pick, hc, amoAt, h.operands, h3, Fin.ofNat_val_eq_self]
  simp only [decode32_QS hop, decodeQS, h3, h4]
  split
  · omega
  · omega
  · omega
  · exact hx

/-- The four forms of `vwait`, by their code. -/
def waitPage : List (FWait → Instr) := [.vwaitEq, .vwaitNe, .vwaitLt, .vwaitGe]

theorem decode_vwait {a : FWait} {c : FWait → Instr} (h : VaWord w f4 5 0x5B ⟨a.vm, false, false, a.vs2, a.base, a.vs3⟩)
    (hc : waitPage[f4]? = some c) : decode32 w = .ok (c a) := by
  obtain ⟨hop, h3, h4⟩ := h.codes
  have hres : reserved w [(25, 2)] (c a) = .ok (c a) := by
    simp [reserved, h.chain]
  match f4, hc with
  | 0, rfl | 1, rfl | 2, rfl | 3, rfl =>
    simpa only [decode32_QS hop, decodeQS, h3, h4, waitAt, h.operands] using hres

theorem decode_vgl {a : FLink} (h : VaWord w 4 5 0x5B ⟨a.vm, a.ord, false, a.vs2, a.base, a.vd⟩) :
    decode32 w = .ok (.vgl a) := by
  obtain ⟨hop, h3, h4, -, -, h25, -⟩ := h.fields
  simp [decode32_QS hop, decodeQS, h3, h4, reserved, h25, linkAt, h.operands]

theorem decode_vsc {a : FLink} (h : VaWord w 5 5 0x5B ⟨a.vm, false, a.ord, a.vs2, a.base, a.vd⟩) :
    decode32 w = .ok (.vsc a) := by
  obtain ⟨hop, h3, h4, -, h26, -⟩ := h.fields
  simp [decode32_QS hop, decodeQS, h3, h4, reserved, h26, linkAt, h.operands]

end

/-! ### Words of the vector formats -/

section
variable {base : Nat} (hb : IsVaCode base) (h25 : fld base 25 1 = 0)
include hb h25

theorem packVUS_word (a : FVUS) : VaWord (packVUS base a) (fld base 28 4) (fld base 12 3) (fld base 0 7)
    ⟨a.vm, a.c2, a.sat, a.vs2, 0, a.vd⟩ :=
  ⟨hb.code, by have := hb.1; simp only [packVUS, bit, reg, Fin.val_zero]; omega⟩

theorem packVXS_word (a : FVXS) : VaWord (packVXS base a) (fld base 28 4) (fld base 12 3) (fld base 0 7)
    ⟨a.vm, a.c2, a.sat, a.vs2, a.rs1, a.vd⟩ :=
  ⟨hb.code, by have := hb.1; simp only [packVXS, bit, reg]; omega⟩

theorem packKVV_word (a : FKVV) : VaWord (packKVV base a) (fld base 28 4) (fld base 12 3) (fld base 0 7)
    ⟨a.vm, a.c2, a.c1, a.vs2, a.vs1, maskField a.kd⟩ :=
  ⟨hb.code, by have := hb.1; simp only [packKVV, bit, reg, maskField, Fin.val_castLE]; omega⟩

theorem packKVX_word (a : FKVX) : VaWord (packKVX base a) (fld base 28 4) (fld base 12 3) (fld base 0 7)
    ⟨a.vm, a.c2, false, a.vs2, a.rs1, maskField a.kd⟩ :=
  ⟨hb.code, by have := hb.1; simp only [packKVX, bit, reg, maskField, Fin.val_castLE, Bool.toNat_false]; omega⟩

theorem packKVI_word (a : FKVI) : VaWord (packKVI base a) (fld base 28 4) (fld base 12 3) (fld base 0 7)
    ⟨a.vm, a.c2, false, a.vs2, a.imm.toFin, maskField a.kd⟩ :=
  ⟨hb.code, by
    have := hb.1
    simp only [packKVI, bit, bits, reg, maskField, Fin.val_castLE, Bool.toNat_false, BitVec.val_toFin]
    omega⟩

theorem packAmo_word (h3 : fld base 12 3 = 0) (a : FAmo) : VaWord (packAmo base a) (fld base 28 4) a.scope (fld base 0 7)
    ⟨a.vm, a.aq, a.rl, a.vs2, a.base, a.vd⟩ :=
  ⟨⟨hb.code.1, Nat.lt_trans a.scope.isLt (by decide), hb.code.2.2⟩, by
    have := hb.1
    simp only [packAmo, bit, reg]
    omega⟩

theorem packWait_word (a : FWait) : VaWord (packWait base a) (fld base 28 4) (fld base 12 3) (fld base 0 7)
    ⟨a.vm, false, false, a.vs2, a.base, a.vs3⟩ :=
  ⟨hb.code, by have := hb.1; simp only [packWait, bit, reg, Bool.toNat_false]; omega⟩

end

/-- The number holds the code of a form of one vector source, to which the field of the second source belongs. -/
abbrev IsVuCode (base : Nat) : Prop :=
  base = fld base 28 4 * 2 ^ 28 + fld base 15 5 * 2 ^ 15 + fld base 12 3 * 2 ^ 12 + fld base 0 7
    ∧ fld base 0 7 % 4 = 3 ∧ fld base 0 7 / 4 % 8 ≠ 7

theorem packVU_word {base : Nat} (hb : IsVuCode base) (a : FVU) :
    VaWord (packVU base a) (fld base 28 4) (fld base 12 3) (fld base 0 7)
      ⟨a.vm, a.c2, false, a.vs2, regAt base 15, a.vd⟩ := by
  have hs1 : (regAt base 15).val = fld base 15 5 := rfl
  refine ⟨⟨fld_lt _ _ _, fld_lt _ _ _, fld_lt _ _ _, hb.2⟩, ?_⟩
  have := hb.1
  simp only [packVU, bit, reg, hs1, Bool.toNat_false]
  omega

section
variable {base : Nat} (hb : IsVaCode base) (h25 : fld base 25 1 = 0)
include hb h25

theorem move_word (c2 : Bool) (rd vs2 : Reg) : VaWord (base + bit 26 c2 + reg 20 vs2 + reg 7 rd) (fld base 28 4)
    (fld base 12 3) (fld base 0 7) ⟨false, c2, false, vs2, 0, rd⟩ :=
  ⟨hb.code, by have := hb.1; simp only [bit, reg, Bool.toNat_false, Fin.val_zero]; omega⟩

theorem mask2_word (kd ks2 ks1 : MReg) : VaWord (base + reg 20 ks2 + reg 15 ks1 + reg 7 kd) (fld base 28 4) (fld base 12 3)
    (fld base 0 7) ⟨false, false, false, maskField ks2, maskField ks1, maskField kd⟩ :=
  ⟨hb.code, by have := hb.1; simp only [bit, reg, maskField, Fin.val_castLE, Bool.toNat_false]; omega⟩

theorem mask1_word (kd ks2 : MReg) : VaWord (base + reg 20 ks2 + reg 7 kd) (fld base 28 4) (fld base 12 3) (fld base 0 7)
    ⟨false, false, false, maskField ks2, 0, maskField kd⟩ :=
  ⟨hb.code, by have := hb.1; simp only [bit, reg, maskField, Fin.val_castLE, Bool.toNat_false, Fin.val_zero]; omega⟩

theorem maskX_word (rd : Reg) (ks2 : MReg) : VaWord (base + reg 20 ks2 + reg 7 rd) (fld base 28 4) (fld base 12 3)
    (fld base 0 7) ⟨false, false, false, maskField ks2, 0, rd⟩ :=
  ⟨hb.code, by have := hb.1; simp only [bit, reg, maskField, Fin.val_castLE, Bool.toNat_false, Fin.val_zero]; omega⟩

theorem pack_word (c2 : Bool) (vd vs2 : Reg) (ks1 : MReg) : VaWord (base + bit 26 c2 + reg 20 vs2 + reg 15 ks1 + reg 7 vd)
    (fld base 28 4) (fld base 12 3) (fld base 0 7) ⟨false, c2, false, vs2, maskField ks1, vd⟩ :=
  ⟨hb.code, by have := hb.1; simp only [bit, reg, maskField, Fin.val_castLE, Bool.toNat_false]; omega⟩

end

theorem laneFormAtomic_word (op : Fin 11) (a : FAmo) : VaWord (op.val * 2 ^ 28 + packAmo 0x5B a) op a.scope 0x5B
    ⟨a.vm, a.aq, a.rl, a.vs2, a.base, a.vd⟩ :=
  ⟨⟨Nat.lt_trans op.isLt (by decide), Nat.lt_trans a.scope.isLt (by decide), by decide⟩, by
    simp only [packAmo, bit, reg]
    omega⟩

theorem pageAmo_getD (op : Fin 11) : pageAmo[op.val]? = some (pageAmo.getD op.val Instr.vamoadd) := by
  have hop : op.val < pageAmo.length := op.isLt
  rw [List.getElem?_eq_getElem hop, List.getD_eq_getElem _ _ hop]

end Sys2Proof.Machine
end

section
/-! PROOFS. The decoder on the words of the vector memory format (R67, R73), and of the register and immediate formats where the
Quelan pages use them (R72, R74). -/

namespace Sys2Proof.Machine

open Laws.EncodeFits (Fits32 fld_lt)

/-! ### QM: vector loads and stores, streams (R67, R73) -/

/-- The word w has the codes k and f3 of a vector memory format, and the fields of a between them. -/
structure VmWord (w k f3 : Nat) (a : FVM2C) : Prop where
  code : k < 8 ∧ f3 < 8
  eq : w = k * 2 ^ 29 + bit 28 a.vm + bit 27 a.c + reg 25 a.w + reg 20 a.src2 + reg 15 a.base + f3 * 2 ^ 12 + reg 7 a.vd + 0x2B

theorem decode32_QM {w : Nat} (h : fld w 0 7 = 0x2B) : decode32 w = decodeQM w := by
  simp only [decode32, h]

section
variable {w k f3 : Nat} {a : FVM2C}

theorem VmWord.fields (h : VmWord w k f3 a) : fld w 0 7 = 0x2B ∧ fld w 12 3 = f3 ∧ fld w 29 3 = k
    ∧ fld w 28 1 = a.vm.toNat ∧ fld w 27 1 = a.c.toNat ∧ fld w 25 2 = a.w ∧ fld w 20 5 = a.src2 ∧ fld w 15 5 = a.base
    ∧ fld w 7 5 = a.vd := by
  obtain ⟨hc, hw⟩ := h
  have h28 := Bool.toNat_le a.vm
  have h27 := Bool.toNat_le a.c
  simp only [bit, reg, fld] at *
  omega

/-- Everything between the data register's and the base's fields, as the forms without src2 reserve it. -/
theorem VmWord.middle (h : VmWord w k f3 a) : fld w 20 9 = a.vm.toNat * 256 + a.c.toNat * 128 + a.w * 32 + a.src2
    ∧ fld w 24 5 = a.vm.toNat * 16 + a.c.toNat * 8 + a.w * 2 + fld w 24 1 := by
  obtain ⟨-, -, -, h28, h27, h25, h2, -⟩ := h.fields
  simp only [fld] at *
  omega

theorem VmWord.operands (h : VmWord w k f3 a) : flag w 28 = a.vm ∧ flag w 27 = a.c ∧ Fin.ofNat 4 (w / 2 ^ 25) = a.w
    ∧ regAt w 20 = a.src2 ∧ regAt w 15 = a.base ∧ regAt w 7 = a.vd := by
  obtain ⟨-, -, -, h28, h27, h25, h2, h1, hd⟩ := h.fields
  exact ⟨flag_of_fld h28, flag_of_fld h27, Fin.ext h25, regAt_of_fld h2, regAt_of_fld h1, regAt_of_fld hd⟩

theorem VmWord.roundTrip {i : Instr} (he : encode i = some (32, w)) (h : VmWord w k f3 a)
    (hd : VmWord w k f3 a → decode32 w = .ok i.canonical) : RoundTrip i := by
  refine roundTrip_of_encode he (decodeTableWord_of_fits32 ?_ (hd h))
  obtain ⟨hc, hw⟩ := h
  have h28 := Bool.toNat_le a.vm
  have h27 := Bool.toNat_le a.c
  simp only [bit, reg, Fits32] at *
  omega

end

/-- The number holds the codes of a vector memory format and nothing else. -/
abbrev IsVmCode (base : Nat) : Prop := base = fld base 29 3 * 2 ^ 29 + fld base 12 3 * 2 ^ 12 + 0x2B

section
variable {base : Nat} (hb : IsVmCode base)
include hb

theorem packVM_word (a : FVM) :
    VmWord (packVM base a) (fld base 29 3) (fld base 12 3) ⟨a.vm, false, a.w, 0, a.base, a.vd⟩ :=
  ⟨⟨fld_lt _ _ _, fld_lt _ _ _⟩, by simp only [packVM, bit, reg, Bool.toNat_false, Fin.val_zero]; omega⟩

theorem packVMC_word (a : FVMC) :
    VmWord (packVMC base a) (fld base 29 3) (fld base 12 3) ⟨a.vm, a.c, a.w, 0, a.base, a.vd⟩ :=
  ⟨⟨fld_lt _ _ _, fld_lt _ _ _⟩, by simp only [packVMC, bit, reg, Fin.val_zero]; omega⟩

theorem packVM2_word (a : FVM2) :
    VmWord (packVM2 base a) (fld base 29 3) (fld base 12 3) ⟨a.vm, false, a.w, a.src2, a.base, a.vd⟩ :=
  ⟨⟨fld_lt _ _ _, fld_lt _ _ _⟩, by simp only [packVM2, bit, reg, Bool.toNat_false]; omega⟩

theorem packVM2C_word (a : FVM2C) : VmWord (packVM2C base a) (fld base 29 3) (fld base 12 3) a :=
  ⟨⟨fld_lt _ _ _, fld_lt _ _ _⟩, by simp only [packVM2C, bit, reg]; omega⟩

end

section
variable {w k f3 : Nat}

/-- The unit-stride loads, by their code. -/
def unitLoadAt : Nat → Option (FVM → Instr)
  | 0 => some .vld
  | 4 => some .vldff
  | 5 => some .vldl
  | _ => none

theorem decode_unitLoad {a : FVM} {c : FVM → Instr} (h : VmWord w k 0 ⟨a.vm, false, a.w, 0, a.base, a.vd⟩)
    (hc : unitLoadAt k = some c) : decode32 w = .ok (c a) := by
  obtain ⟨hop, h3, h29, -, h27, -, h2, -⟩ := h.fields
  have hres : reserved w [(27, 1), (20, 5)] (c a) = .ok (c a) := by
    simp [reserved, h27, h2]
  match k, hc with
  | 0, rfl | 4, rfl | 5, rfl => simpa only [decode32_QM hop, decodeQM, h29, h3, vmAt, h.operands] using hres

/-- The unit-stride stores, by their code. -/
def unitStoreAt : Nat → Option (FVMC → Instr)
  | 0 => some .vst
  | 5 => some .vstl
  | _ => none

theorem decode_unitStore {a : FVMC} {c : FVMC → Instr} (h : VmWord w k 1 ⟨a.vm, a.c, a.w, 0, a.base, a.vd⟩)
    (hc : unitStoreAt k = some c) : decode32 w = .ok (c a) := by
  obtain ⟨hop, h3, h29, -, -, -, h2, -⟩ := h.fields
  have hres : reserved w [(20, 5)] (c a) = .ok (c a) := by
    simp [reserved, h2]
  match k, hc with
  | 0, rfl | 5, rfl => simpa only [decode32_QM hop, decodeQM, h29, h3, vmcAt, h.operands] using hres

theorem decode_vlds {a : FVM2} (h : VmWord w 1 0 ⟨a.vm, false, a.w, a.src2, a.base, a.vd⟩) :
    decode32 w = .ok (.vlds a) := by
  obtain ⟨hop, h3, h29, -, h27, -⟩ := h.fields
  have ha : vm2At w = a := by simp only [vm2At, h.operands]
  simp [decode32_QM hop, decodeQM, h29, h3, reserved, h27, ha]

/-- The strided store and the indexed forms, by their codes. -/
def stridedAt : Nat → Nat → Option (FVM2C → Instr)
  | 1, 1 => some .vsts
  | 2, 0 => some .vldxO
  | 2, 1 => some .vstxO
  | 3, 0 => some .vldx
  | 3, 1 => some .vstx
  | _, _ => none

theorem decode_strided {a : FVM2C} {c : FVM2C → Instr} (h : VmWord w k f3 a) (hc : stridedAt k f3 = some c) :
    decode32 w = .ok (c a) := by
  obtain ⟨hop, h3, h29, -⟩ := h.fields
  match k, f3, hc with
  | 1, 1, rfl | 2, 0, rfl | 2, 1, rfl | 3, 0, rfl | 3, 1, rfl =>
    simp only [decode32_QM hop, decodeQM, h29, h3, vm2cAt, h.operands]

/-- Loads and stores of a mask register, by their code. -/
def maskMemAt : Nat → Option (MReg → Reg → Instr)
  | 2 => some .kld
  | 3 => some .kst
  | _ => none

theorem decode_maskMem {kd : MReg} {base : Reg} {c : MReg → Reg → Instr}
    (h : VmWord w 0 f3 ⟨false, false, 0, 0, base, maskField kd⟩) (hc : maskMemAt f3 = some c) :
    decode32 w = .ok (c kd base) := by
  obtain ⟨hop, h3, h29, -, -, -, -, -, hd⟩ := h.fields
  obtain ⟨hkd, hz⟩ := mregAt_of_fld (k := kd) hd
  have hres : reserved w [(20, 9), (10, 2)] (c kd base) = .ok (c kd base) := by
    simp [reserved, h.middle, hz]
  match f3, hc with
  | 2, rfl | 3, rfl => simpa only [decode32_QM hop, decodeQM, h29, h3, hkd, h.operands] using hres

/-- A handle, slot or channel in the five bits of a register. -/
def handleField (q : QReg) : Reg := q.castLE (by decide)

/-- The stream operations of a handle and a register, by their code. -/
def handleRegAt : Nat → Option (QReg → Reg → Instr)
  | 0 => some .qdef
  | 4 => some .qwait
  | _ => none

theorem decode_handleReg {q : QReg} {rs1 : Reg} {c : QReg → Reg → Instr}
    (h : VmWord w 6 f3 ⟨false, false, 0, 0, rs1, handleField q⟩) (hc : handleRegAt f3 = some c) :
    decode32 w = .ok (c q rs1) := by
  obtain ⟨hop, h3, h29, -, -, -, -, -, hd⟩ := h.fields
  obtain ⟨hq, hz⟩ := qregAt_of_fld (q := q) hd
  have hres : reserved w [(20, 9), (11, 1)] (c q rs1) = .ok (c q rs1) := by
    simp [reserved, h.middle, hz]
  match f3, hc with
  | 0, rfl | 4, rfl => simpa only [decode32_QM hop, decodeQM, h29, h3, hq, h.operands] using hres

/-- The stream operations of a register and a handle, by their code. -/
def regHandleAt : Nat → Option (Reg → QReg → Instr)
  | 1 => some .qbind
  | 3 => some .qavail
  | _ => none

theorem decode_regHandle {r : Reg} {q : QReg} {c : Reg → QReg → Instr}
    (h : VmWord w 6 f3 ⟨false, false, 0, handleField q, 0, r⟩) (hc : regHandleAt f3 = some c) :
    decode32 w = .ok (c r q) := by
  obtain ⟨hop, h3, h29, -, -, -, h2, h1, -⟩ := h.fields
  obtain ⟨hq, hz⟩ := qregAt_of_fld (q := q) h2
  have hres : reserved w [(24, 5), (15, 5)] (c r q) = .ok (c r q) := by
    simp [reserved, h.middle, hz, h1]
  match f3, hc with
  | 1, rfl | 3, rfl => simpa only [decode32_QM hop, decodeQM, h29, h3, hq, h.operands] using hres

theorem decode_qunb {vd : Reg} (h : VmWord w 6 2 ⟨false, false, 0, 0, 0, vd⟩) : decode32 w = .ok (.qunb vd) := by
  obtain ⟨hop, h3, h29, -, -, -, -, h1, -⟩ := h.fields
  simp [decode32_QM hop, decodeQM, h29, h3, reserved, h.middle, h1, h.operands]

/-- The stream operations of a handle alone, by their code. -/
def handleAt : Nat → Option (QReg → Instr)
  | 5 => some .qend
  | 6 => some .qrst
  | _ => none

theorem decode_handle {q : QReg} {c : QReg → Instr} (h : VmWord w 6 f3 ⟨false, false, 0, 0, 0, handleField q⟩)
    (hc : handleAt f3 = some c) : decode32 w = .ok (c q) := by
  obtain ⟨hop, h3, h29, -, -, -, -, h1, hd⟩ := h.fields
  obtain ⟨hq, hz⟩ := qregAt_of_fld (q := q) hd
  have hres : reserved w [(20, 9), (15, 5), (11, 1)] (c q) = .ok (c q) := by
    simp [reserved, h.middle, h1, hz]
  match f3, hc with
  | 5, rfl | 6, rfl => simpa only [decode32_QM hop, decodeQM, h29, h3, hq] using hres

end

section
variable {base : Nat} (hb : IsVmCode base)
include hb

theorem based_word (d b : Reg) :
    VmWord (base + reg 15 b + reg 7 d) (fld base 29 3) (fld base 12 3) ⟨false, false, 0, 0, b, d⟩ :=
  ⟨⟨fld_lt _ _ _, fld_lt _ _ _⟩, by simp only [bit, reg, Bool.toNat_false, Fin.val_zero]; omega⟩

theorem dest_word (d : Reg) : VmWord (base + reg 7 d) (fld base 29 3) (fld base 12 3) ⟨false, false, 0, 0, 0, d⟩ :=
  ⟨⟨fld_lt _ _ _, fld_lt _ _ _⟩, by simp only [bit, reg, Bool.toNat_false, Fin.val_zero]; omega⟩

theorem regHandle_word (r : Reg) (q : QReg) :
    VmWord (base + reg 20 q + reg 7 r) (fld base 29 3) (fld base 12 3) ⟨false, false, 0, handleField q, 0, r⟩ :=
  ⟨⟨fld_lt _ _ _, fld_lt _ _ _⟩, by
    simp only [bit, reg, handleField, Fin.val_castLE, Bool.toNat_false, Fin.val_zero]
    omega⟩

end

/-! ### Words of the register format: configuration, system, synchronisation (R72, R74) -/

/-- The code of a word of the register format. -/
abbrev RCode (f7 f3 op : Nat) : Prop := f7 < 128 ∧ f3 < 8 ∧ op < 128 ∧ op % 4 = 3 ∧ op / 4 % 8 ≠ 7

/-- The word w has the code f7, f3 and op of the register format, and three registers. -/
structure RWord (w f7 f3 op : Nat) (rd rs1 rs2 : Reg) : Prop where
  code : RCode f7 f3 op
  eq : w = packR op f3 f7 rd rs1 rs2

section
variable {w f7 f3 op : Nat} {rd rs1 rs2 : Reg}

theorem RWord.fields (h : RWord w f7 f3 op rd rs1 rs2) : fld w 0 7 = op ∧ fld w 12 3 = f3 ∧ fld w 25 7 = f7
    ∧ fld w 20 5 = rs2 ∧ fld w 15 5 = rs1 ∧ fld w 7 5 = rd := by
  obtain ⟨hc, hw⟩ := h
  simp only [packR, reg, fld] at *
  omega

theorem RWord.operands (h : RWord w f7 f3 op rd rs1 rs2) : regAt w 20 = rs2 ∧ regAt w 15 = rs1 ∧ regAt w 7 = rd := by
  obtain ⟨-, -, -, h2, h1, hd⟩ := h.fields
  exact ⟨regAt_of_fld h2, regAt_of_fld h1, regAt_of_fld hd⟩

theorem RWord.decodeTableWord {i : Instr} (h : RWord w f7 f3 op rd rs1 rs2) (hd : decode32 w = .ok i) :
    decodeTableWord 32 w = some i := by
  refine decodeTableWord_of_fits32 ?_ hd
  obtain ⟨hc, hw⟩ := h
  simp only [packR, reg, Fits32] at *
  omega

theorem RWord.roundTrip {i : Instr} (he : encode i = some (32, w)) (h : RWord w f7 f3 op rd rs1 rs2)
    (hd : RWord w f7 f3 op rd rs1 rs2 → decode32 w = .ok i.canonical) : RoundTrip i :=
  roundTrip_of_encode he (h.decodeTableWord (hd h))

end

/-- The number holds a code of the register format and nothing else. -/
abbrev IsRCode (base : Nat) : Prop :=
  base = fld base 25 7 * 2 ^ 25 + fld base 12 3 * 2 ^ 12 + fld base 0 7 ∧ fld base 0 7 % 4 = 3 ∧ fld base 0 7 / 4 % 8 ≠ 7

section
variable {base : Nat} (hb : IsRCode base) (rd rs1 rs2 : Reg)
include hb

theorem IsRCode.code : RCode (fld base 25 7) (fld base 12 3) (fld base 0 7) :=
  ⟨fld_lt _ _ _, fld_lt _ _ _, fld_lt _ _ _, hb.2⟩

theorem regs3_word :
    RWord (base + reg 20 rs2 + reg 15 rs1 + reg 7 rd) (fld base 25 7) (fld base 12 3) (fld base 0 7) rd rs1 rs2 :=
  ⟨hb.code, by have := hb.1; simp only [packR]; omega⟩

theorem regs2_word : RWord (base + reg 15 rs1 + reg 7 rd) (fld base 25 7) (fld base 12 3) (fld base 0 7) rd rs1 0 :=
  ⟨hb.code, by have := hb.1; simp only [packR, reg, Fin.val_zero]; omega⟩

theorem sources_word : RWord (base + reg 20 rs2 + reg 15 rs1) (fld base 25 7) (fld base 12 3) (fld base 0 7) 0 rs1 rs2 :=
  ⟨hb.code, by have := hb.1; simp only [packR, reg, Fin.val_zero]; omega⟩

theorem source1_word : RWord (base + reg 15 rs1) (fld base 25 7) (fld base 12 3) (fld base 0 7) 0 rs1 0 :=
  ⟨hb.code, by have := hb.1; simp only [packR, reg, Fin.val_zero]; omega⟩

theorem source2_word : RWord (base + reg 20 rs2) (fld base 25 7) (fld base 12 3) (fld base 0 7) 0 0 rs2 :=
  ⟨hb.code, by have := hb.1; simp only [packR, reg, Fin.val_zero]; omega⟩

end

section
variable {w f7 : Nat} {rd rs1 rs2 : Reg}

/-- The upper bits of funct7, by which `vsetl` and its neighbours are told from `vsetli`. -/
theorem RWord.config {f3 op : Nat} (h : RWord w f7 f3 op rd rs1 rs2) (h7 : f7 < 64) :
    flag w 31 = false ∧ fld w 25 6 = f7 := by
  obtain ⟨-, -, h25, -⟩ := h.fields
  simp only [flag, fld, beq_eq_false_iff_ne] at *
  omega

theorem decode_vsetl (h : RWord w 0 5 0x7B rd rs1 rs2) : decode32 w = .ok (.vsetl rd rs1 rs2) := by
  obtain ⟨hop, h3, -⟩ := h.fields
  obtain ⟨h31, h6⟩ := h.config (by decide)
  simp [decode32_QK hop, decodeQK, h3, h31, h6, h.operands]

theorem decode_bkrd (h : RWord w 0 6 0x7B rd rs1 rs2) : decode32 w = .ok (.bkrd rd rs1 rs2) := by
  obtain ⟨hop, h3, h7, -⟩ := h.fields
  simp only [decode32_QK hop, decodeQK, h3, h7, h.operands]

theorem decode_bkrsm (h : RWord w 1 6 0x7B 0 rs1 0) : decode32 w = .ok (.bkrsm rs1) := by
  obtain ⟨hop, h3, h7, h2, -, hd⟩ := h.fields
  simp [decode32_QK hop, decodeQK, h3, h7, reserved, h2, hd, h.operands]

theorem decode_ccmoveMove (h : RWord w 2 6 0x7B rd rs1 0) : decode32 w = .ok (.ccmoveMove rd rs1) := by
  obtain ⟨hop, h3, h7, h2, -⟩ := h.fields
  simp [decode32_QK hop, decodeQK, h3, h7, reserved, h2, h.operands]

theorem decode_frqpop (h : RWord w 3 6 0x7B rd rs1 0) : decode32 w = .ok (.frqpop rd rs1) := by
  obtain ⟨hop, h3, h7, h2, -⟩ := h.fields
  simp [decode32_QK hop, decodeQK, h3, h7, reserved, h2, h.operands]

theorem decode_latw (h : RWord w 4 6 0x7B 0 rs1 rs2) : decode32 w = .ok (.latw rs1 rs2) := by
  obtain ⟨hop, h3, h7, -, -, hd⟩ := h.fields
  simp [decode32_QK hop, decodeQK, h3, h7, reserved, hd, h.operands]

theorem decode_thrset (h : RWord w 5 6 0x7B 0 rs1 rs2) : decode32 w = .ok (.thrset rs1 rs2) := by
  obtain ⟨hop, h3, h7, -, -, hd⟩ := h.fields
  simp [decode32_QK hop, decodeQK, h3, h7, reserved, hd, h.operands]

theorem decode32_sync {w : Nat} (hop : fld w 0 7 = 0x5B) (h3 : fld w 12 3 = 6) : decode32 w = decodeSync w := by
  simp only [decode32_QS hop, decodeQS, h3]

/-- The orderings with a scope, by their code. -/
def ordPage : List (Fin 5 → Instr) := [.ordSv, .ordVs, .ordVv, .ordAll]

theorem decode_ord {scope : Fin 5} {c : Fin 5 → Instr} (h : RWord w f7 6 0x5B 0 0 (scope.castLE (by decide)))
    (hc : ordPage[f7]? = some c) : decode32 w = .ok (c scope) := by
  obtain ⟨hop, h3, h7, h2, h1, hd⟩ := h.fields
  have hs := scope.isLt
  have hscope : fld w 20 3 = scope ∧ fld w 23 2 = 0 := by
    simp only [fld, Fin.val_castLE] at *
    omega
  have hres : reserved w [(23, 2), (15, 5), (7, 5)] (c scope) = .ok (c scope) := by
    simp [reserved, hscope, h1, hd]
  match f7, hc with
  | 0, rfl | 1, rfl | 2, rfl | 3, rfl =>
    simpa only [decode32_sync hop h3, decodeSync, h7, hscope, hs, if_true, Fin.ofNat_val_eq_self] using hres

theorem decode_sev (h : RWord w 0x0B 6 0x5B 0 rs1 0) : decode32 w = .ok (.sev rs1) := by
  obtain ⟨hop, h3, h7, h2, -, hd⟩ := h.fields
  simp [decode32_sync hop h3, decodeSync, h7, reserved, h2, hd, h.operands]

theorem decode_send {ch : QReg} (h : RWord w 0x10 6 0x5B (handleField ch) rs1 rs2) :
    decode32 w = .ok (.send rs1 rs2 ch) := by
  obtain ⟨hop, h3, h7, -, -, hd⟩ := h.fields
  obtain ⟨hq, hz⟩ := qregAt_of_fld (q := ch) hd
  simp [decode32_sync hop h3, decodeSync, h7, reserved, hz, hq, h.operands]

theorem decode_recv {ch : QReg} (h : RWord w 0x11 6 0x5B rd (handleField ch) 0) : decode32 w = .ok (.recv rd ch) := by
  obtain ⟨hop, h3, h7, h2, h1, -⟩ := h.fields
  obtain ⟨hq, hz⟩ := qregAt_of_fld (q := ch) h1
  simp [decode32_sync hop h3, decodeSync, h7, reserved, hz, h2, hq, h.operands]

theorem decode_recvnb {ch : QReg} (h : RWord w 0x12 6 0x5B rd (handleField ch) 0) : decode32 w = .ok (.recvnb rd ch) := by
  obtain ⟨hop, h3, h7, h2, h1, -⟩ := h.fields
  obtain ⟨hq, hz⟩ := qregAt_of_fld (q := ch) h1
  simp [decode32_sync hop h3, decodeSync, h7, reserved, hz, h2, hq, h.operands]

theorem decode_frz (h : RWord w 0x18 6 0x5B rd rs1 rs2) : decode32 w = .ok (.frz rd rs1 rs2) := by
  obtain ⟨hop, h3, h7, -⟩ := h.fields
  simp only [decode32_sync hop h3, decodeSync, h7, h.operands]

theorem decode_thaw {ch : QReg} (h : RWord w 0x19 6 0x5B (handleField ch) rs1 0) : decode32 w = .ok (.thaw rs1 ch) := by
  obtain ⟨hop, h3, h7, h2, -, hd⟩ := h.fields
  obtain ⟨hq, hz⟩ := qregAt_of_fld (q := ch) hd
  simp [decode32_sync hop h3, decodeSync, h7, reserved, hz, h2, hq, h.operands]

theorem decode_thaww (h : RWord w 0x1A 6 0x5B 0 rs1 0) : decode32 w = .ok (.thaww rs1) := by
  obtain ⟨hop, h3, h7, h2, -, hd⟩ := h.fields
  simp [decode32_sync hop h3, decodeSync, h7, reserved, h2, hd, h.operands]

/-- The synchronising instructions of a destination and a source, by their code. -/
def syncRegsAt : Nat → Option (Reg → Reg → Instr)
  | 0x1B => some .frzq
  | 0x24 => some .syscB
  | 0x25 => some .syscN
  | _ => none

theorem decode_syncRegs {c : Reg → Reg → Instr} (h : RWord w f7 6 0x5B rd rs1 0) (hc : syncRegsAt f7 = some c) :
    decode32 w = .ok (c rd rs1) := by
  obtain ⟨hop, h3, h7, h2, -⟩ := h.fields
  have hres : reserved w [(20, 5)] (c rd rs1) = .ok (c rd rs1) := by
    simp [reserved, h2]
  match f7, hc with
  | 0x1B, rfl | 0x24, rfl | 0x25, rfl => simpa only [decode32_sync hop h3, decodeSync, h7, h.operands] using hres

end

/-! ### Words of the immediate format -/

/-- The word w has the code f3 and op of the immediate format, two registers and an immediate. -/
structure IWord (w imm f3 op : Nat) (rd rs1 : Reg) : Prop where
  code : imm < 4096 ∧ f3 < 8 ∧ op < 128 ∧ op % 4 = 3 ∧ op / 4 % 8 ≠ 7
  eq : w = packI op f3 rd rs1 imm

section
variable {w imm f3 op : Nat} {rd rs1 : Reg}

theorem IWord.fields (h : IWord w imm f3 op rd rs1) : fld w 0 7 = op ∧ fld w 12 3 = f3 ∧ fld w 20 12 = imm
    ∧ fld w 15 5 = rs1 ∧ fld w 7 5 = rd := by
  obtain ⟨hc, hw⟩ := h
  simp only [packI, reg, fld] at *
  omega

theorem IWord.operands (h : IWord w imm f3 op rd rs1) : regAt w 15 = rs1 ∧ regAt w 7 = rd := by
  obtain ⟨-, -, -, h1, hd⟩ := h.fields
  exact ⟨regAt_of_fld h1, regAt_of_fld hd⟩

theorem IWord.decodeTableWord {i : Instr} (h : IWord w imm f3 op rd rs1) (hd : decode32 w = .ok i) :
    decodeTableWord 32 w = some i := by
  refine decodeTableWord_of_fits32 ?_ hd
  obtain ⟨hc, hw⟩ := h
  simp only [packI, reg, Fits32] at *
  omega

theorem decode_vsetli {lgreq : BitVec 2} {vt : BitVec 8}
    (h : IWord w (0x800 + lgreq.toNat * 256 + vt.toNat) 5 0x7B rd rs1) :
    decode32 w = .ok (.vsetli rd rs1 lgreq vt) := by
  obtain ⟨hop, h3, himm, -⟩ := h.fields
  have hl := lgreq.isLt
  have hv := vt.isLt
  have hbits : fld w 31 1 = true.toNat ∧ fld w 30 1 = 0 ∧ fld w 28 2 = lgreq.toNat ∧ fld w 20 8 = vt.toNat := by
    simp only [fld, Bool.toNat_true] at *
    omega
  obtain ⟨h31, h30, hlg, hvt⟩ := hbits
  simp [decode32_QK hop, decodeQK, h3, flag_of_fld h31, reserved, h30, immAt_of_fld hlg, immAt_of_fld hvt, h.operands]

end

theorem decodeTableWord_vsetli (rd rs1 : Reg) (lgreq : BitVec 2) (vt : BitVec 8) :
    decodeTableWord 32 (0x8000507B + bits 28 lgreq + bits 20 vt + reg 15 rs1 + reg 7 rd) =
      some (.vsetli rd rs1 lgreq vt) := by
  have hl := lgreq.isLt
  have hv := vt.isLt
  have h : IWord (0x8000507B + bits 28 lgreq + bits 20 vt + reg 15 rs1 + reg 7 rd)
      (0x800 + lgreq.toNat * 256 + vt.toNat) 5 0x7B rd rs1 :=
    ⟨⟨by omega, by decide⟩, by simp only [packI, bits, reg]; omega⟩
  exact h.decodeTableWord (decode_vsetli h)

end Sys2Proof.Machine
end

section
/-! PROOFS. The decoder on the 64-bit words of format L (R75). -/

namespace Sys2Proof.Machine

open Laws.EncodeFits (Fits64)

/-! ### Format L (R75) -/

/-- The operand fields of a 64-bit word: the row's bits [57:48], bits [47:32], the chain bit, MW, and four registers. -/
structure LOps where
  row : Nat
  mid : Nat
  c : Bool
  mw : Bool
  s3 : Reg
  s2 : Reg
  s1 : Reg
  d : Reg

/-- The word w has the codes fn6 and f3 of format L, and the fields of a. -/
structure LWord (w fn6 f3 : Nat) (a : LOps) : Prop where
  code : fn6 < 64 ∧ f3 < 8
  row_lt : a.row < 1024
  mid_lt : a.mid < 65536
  eq : w = packL f3 fn6 + a.row * 2 ^ 48 + a.mid * 2 ^ 32 + bit 31 a.c + bit 30 a.mw + reg 25 a.s3 + reg 20 a.s2
    + reg 15 a.s1 + reg 7 a.d

section
variable {w fn6 f3 : Nat} {a : LOps}

theorem LWord.fields (h : LWord w fn6 f3 a) : fld w 12 3 = f3 ∧ fld w 58 6 = fn6 ∧ fld w 48 10 = a.row
    ∧ fld w 32 16 = a.mid ∧ fld w 31 1 = a.c.toNat ∧ fld w 30 1 = a.mw.toNat
    ∧ fld w 25 5 = a.s3 ∧ fld w 20 5 = a.s2 ∧ fld w 15 5 = a.s1
    ∧ fld w 7 5 = a.d := by
  obtain ⟨hc, hrow, hmid, hw⟩ := h
  have h31 := Bool.toNat_le a.c
  have h30 := Bool.toNat_le a.mw
  simp only [packL, bit, reg, fld] at *
  omega

theorem LWord.codes (h : LWord w fn6 f3 a) : fld w 12 3 = f3 ∧ fld w 58 6 = fn6 := by
  obtain ⟨h3, h6, -⟩ := h.fields
  exact ⟨h3, h6⟩

theorem LWord.operands (h : LWord w fn6 f3 a) : flag w 31 = a.c ∧ flag w 30 = a.mw ∧ regAt w 25 = a.s3 ∧ regAt w 20 = a.s2
    ∧ regAt w 15 = a.s1 ∧ regAt w 7 = a.d := by
  obtain ⟨-, -, -, -, h31, h30, h25, h2, h1, hd⟩ := h.fields
  exact ⟨flag_of_fld h31, flag_of_fld h30, regAt_of_fld h25, regAt_of_fld h2, regAt_of_fld h1, regAt_of_fld hd⟩

/-- Bits that several fields make up, as the rows of the format reserve them. -/
theorem LWord.unions (h : LWord w fn6 f3 a) :
    fld w 30 2 = a.c.toNat * 2 + a.mw.toNat ∧ fld w 25 7 = a.c.toNat * 64 + a.mw.toNat * 32 + a.s3
    ∧ fld w 20 10 = a.s3 * 32 + a.s2 ∧ fld w 20 12 = a.c.toNat * 2048 + a.mw.toNat * 1024 + a.s3 * 32 + a.s2
    ∧ fld w 20 18 = a.mid % 64 * 4096 + fld w 20 12 ∧ fld w 20 28 = a.mid * 4096 + fld w 20 12
    ∧ fld w 20 34 = a.row % 64 * 2 ^ 28 + fld w 20 28 ∧ fld w 25 23 = a.mid * 128 + fld w 25 7
    ∧ fld w 24 34 = a.row * 2 ^ 24 + a.mid * 256 + fld w 25 7 * 2 + fld w 24 1 := by
  obtain ⟨-, -, hrow, hmid, h31, h30, h25, h2, -⟩ := h.fields
  simp only [fld] at *
  omega

/-- The parts of the row's field and of the one below it. -/
theorem LWord.parts (h : LWord w fn6 f3 a) : fld w 54 4 = a.row / 64 ∧ fld w 48 6 = a.row % 64 ∧ fld w 44 4 = a.mid / 4096
    ∧ fld w 32 12 = a.mid % 4096 ∧ fld w 38 10 = a.mid / 64 ∧ fld w 32 22 = a.row % 64 * 65536 + a.mid := by
  obtain ⟨-, -, hrow, hmid, -⟩ := h.fields
  simp only [fld] at *
  omega

theorem LWord.roundTrip {i : Instr} (he : encode i = some (64, w)) (h : LWord w fn6 f3 a)
    (hd : LWord w fn6 f3 a → decodeL w = .ok i.canonical) : RoundTrip i := by
  refine roundTrip_of_encode he (decodeTableWord_of_fits64 ?_ (hd h))
  obtain ⟨hc, hrow, hmid, hw⟩ := h
  have h31 := Bool.toNat_le a.c
  have h30 := Bool.toNat_le a.mw
  simp only [packL, bit, reg, Fits64] at *
  omega

end

/-- Matrix and accumulator instructions name a row of ten bits. -/
def rowOps (row : BitVec 10) (s3 s2 s1 d : Reg) : LOps :=
  { row := row.toNat, mid := 0, c := false, mw := false, s3 := s3, s2 := s2, s1 := s1, d := d }

/-- Copy commands and submissions name a channel above six zero bits. -/
def chOps (ch : QReg) (mid : Nat) (c : Bool) (kd : Option MReg) (s2 s1 d : Reg) : LOps :=
  { row := ch * 64, mid := mid, c := c, mw := kd.isSome, s3 := 0, s2 := s2, s1 := s1, d := d }

section
variable {w fn6 f3 : Nat}

theorem immAt_row {row : BitVec 10} {s3 s2 s1 d : Reg} (h : LWord w fn6 f3 (rowOps row s3 s2 s1 d)) : immAt w 48 10 = row := by
  obtain ⟨-, -, hrow, -⟩ := h.fields
  exact immAt_of_fld hrow

theorem qregAt_ch {ch : QReg} {mid : Nat} {c : Bool} {kd : Option MReg} {s2 s1 d : Reg}
    (h : LWord w fn6 f3 (chOps ch mid c kd s2 s1 d)) : qregAt w 54 = ch := by
  obtain ⟨h54, -⟩ := h.parts
  exact Fin.ext (h54.trans (Nat.mul_div_cancel _ (by decide)))

/-- The row instructions of group 0, by their code. -/
def rowPage : List (BitVec 10 → QReg → Reg → Instr) := [.mmr, .mmrz]

theorem decode_rowPage {row : BitVec 10} {slot : QReg} {base : Reg} {c : BitVec 10 → QReg → Reg → Instr}
    (h : LWord w fn6 0 (rowOps row 0 (handleField slot) base 0)) (hc : rowPage[fn6]? = some c) :
    decodeL w = .ok (c row slot base) := by
  obtain ⟨h3, h6, -, hmid, -, -, -, h2, -, hd⟩ := h.fields
  obtain ⟨hq, hz⟩ := qregAt_of_fld (q := slot) h2
  have hres : reserved w [(24, 1), (25, 7), (32, 16), (7, 5)] (c row slot base) = .ok (c row slot base) := by
    simp [reserved, hz, h.unions, hmid, hd, rowOps]
  match fn6, hc with
  | 0, rfl | 1, rfl => simpa only [decodeL, h3, h6, immAt_row h, hq, h.operands, rowOps] using hres

theorem decode_mmrs {row : BitVec 10} {slot : QReg} {base rs3 : Reg}
    (h : LWord w 2 0 (rowOps row rs3 (handleField slot) base 0)) : decodeL w = .ok (.mmrs row slot base rs3) := by
  obtain ⟨h3, h6, -, hmid, -, -, -, h2, -, hd⟩ := h.fields
  obtain ⟨hq, hz⟩ := qregAt_of_fld (q := slot) h2
  simp [decodeL, h3, h6, reserved, hz, h.unions, hmid, hd, immAt_row h, hq, h.operands, rowOps]

theorem decode_accrd {vd rs1 : Reg} {row : BitVec 10} (h : LWord w 0 1 (rowOps row 0 0 rs1 vd)) :
    decodeL w = .ok (.accrd vd rs1 row) := by
  obtain ⟨h3, h6⟩ := h.codes
  simp [decodeL, h3, h6, reserved, h.unions, immAt_row h, h.operands, rowOps]

theorem decode_accwr {rs1 vs2 : Reg} {row : BitVec 10} (h : LWord w 1 1 (rowOps row 0 vs2 rs1 0)) :
    decodeL w = .ok (.accwr rs1 row vs2) := by
  obtain ⟨h3, h6, -, -, -, -, -, -, -, hd⟩ := h.fields
  simp [decodeL, h3, h6, reserved, h.unions, hd, immAt_row h, h.operands, rowOps]

theorem decode_accz {rs1 : Reg} {row n : BitVec 10}
    (h : LWord w 2 1 { rowOps row 0 0 rs1 0 with mid := n.toNat * 64 }) : decodeL w = .ok (.accz rs1 row n) := by
  obtain ⟨h3, h6, hrow, -, -, -, -, -, -, hd⟩ := h.fields
  obtain ⟨-, -, -, -, h38, -⟩ := h.parts
  have hn : immAt w 38 10 = n := immAt_of_fld (h38.trans (Nat.mul_div_cancel _ (by decide)))
  simp [decodeL, h3, h6, reserved, h.unions, hd, immAt_of_fld (v := row) hrow, hn, h.operands, rowOps]

theorem decode_wclr {slot : QReg} (h : LWord w 3 1 (rowOps 0 0 (handleField slot) 0 0)) : decodeL w = .ok (.wclr slot) := by
  obtain ⟨h3, h6, -, -, -, -, -, h2, h1, hd⟩ := h.fields
  obtain ⟨hq, hz⟩ := qregAt_of_fld (q := slot) h2
  simp [decodeL, h3, h6, reserved, h.unions, hz, h1, hd, hq, rowOps]

theorem decode_wdesc {rd : Reg} {slot : QReg} (h : LWord w 4 1 (rowOps 0 0 (handleField slot) 0 rd)) :
    decodeL w = .ok (.wdesc rd slot) := by
  obtain ⟨h3, h6, -, -, -, -, -, h2, h1, -⟩ := h.fields
  obtain ⟨hq, hz⟩ := qregAt_of_fld (q := slot) h2
  simp [decodeL, h3, h6, reserved, h.unions, hz, h1, hq, h.operands, rowOps]

/-- The destination field of a copy command. -/
def copyDst (kd : Option MReg) : Reg := kd.elim 0 maskField

theorem copyMask_of_word {ch : QReg} {mid : Nat} {c : Bool} {kd : Option MReg} {s2 s1 : Reg}
    (h : LWord w fn6 f3 (chOps ch mid c kd s2 s1 (copyDst kd))) :
    copyMask w = kd ∧ fld w (copyDstRes w).1 (copyDstRes w).2 = 0 := by
  obtain ⟨-, h30, -⟩ := h.operands
  obtain ⟨-, -, -, -, -, -, -, -, -, hd⟩ := h.fields
  cases kd with
  | none => exact ⟨if_neg (by simp [h30, chOps]), by simpa [copyDstRes, h30, chOps, copyDst] using hd⟩
  | some k =>
    obtain ⟨hk, hz⟩ := mregAt_of_fld (k := k) hd
    exact ⟨by simp [copyMask, h30, chOps, hk], by simpa [copyDstRes, h30, chOps] using hz⟩

/-- The copy commands of a tensor box, by their code. -/
def copyAt : Nat → Option (FCopy → Instr)
  | 0 => some .cpt
  | 4 => some .cpf
  | _ => none

theorem decode_copy {a : FCopy} {c : FCopy → Instr} (h : LWord w fn6 2 (chOps a.ch 0 false a.kd 0 a.base (copyDst a.kd)))
    (hc : copyAt fn6 = some c) : decodeL w = .ok (c a) := by
  obtain ⟨h3, h6, -, -, h31, -⟩ := h.fields
  obtain ⟨hkd, hdst⟩ := copyMask_of_word h
  have hres : reserved w [copyDstRes w, (20, 10), (31, 1), (32, 22)] (c a) = .ok (c a) := by
    simp [reserved, hdst, h31, h.unions, h.parts, chOps]
  match fn6, hc with
  | 0, rfl | 4, rfl => simpa only [decodeL, h3, h6, qregAt_ch h, hkd, h.operands, chOps] using hres

theorem decode_cpw {a : FCopy} {slot : QReg}
    (h : LWord w 3 2 (chOps a.ch (slot * 4096) false a.kd 0 a.base (copyDst a.kd))) : decodeL w = .ok (.cpw a slot) := by
  obtain ⟨h3, h6, -, -, h31, -⟩ := h.fields
  obtain ⟨-, -, h44, -⟩ := h.parts
  obtain ⟨hkd, hres⟩ := copyMask_of_word h
  have hslot : qregAt w 44 = slot := Fin.ext (h44.trans (Nat.mul_div_cancel _ (by decide)))
  simp [decodeL, h3, h6, reserved, hres, h31, h.unions, h.parts, qregAt_ch h, hkd, hslot, h.operands, chOps]

/-- The copy commands with a row vector, by their code. -/
def copyVAt : Nat → Option (FCopyV → Instr)
  | 1 => some .cpgr
  | 2 => some .cpsc
  | _ => none

theorem decode_copyV {a : FCopyV} {i : FCopyV → Instr}
    (h : LWord w fn6 2 (chOps a.ch 0 a.c a.kd a.vs2 a.base (copyDst a.kd))) (hc : copyVAt fn6 = some i) :
    decodeL w = .ok (i a) := by
  obtain ⟨h3, h6, -, -, -, -, h25, -⟩ := h.fields
  obtain ⟨hkd, hdst⟩ := copyMask_of_word h
  have hres : reserved w [copyDstRes w, (25, 5), (32, 22)] (i a) = .ok (i a) := by
    simp [reserved, hdst, h25, h.parts, chOps]
  match fn6, hc with
  | 1, rfl | 2, rfl => simpa only [decodeL, h3, h6, qregAt_ch h, hkd, h.operands, chOps] using hres

/-- The submissions, by their group. -/
def submitAt : Nat → Option (Reg → Reg → QReg → Instr)
  | 3 => some .lnch
  | 4 => some .cpost
  | _ => none

theorem decode_submit {rd rs1 : Reg} {ch : QReg} {c : Reg → Reg → QReg → Instr}
    (h : LWord w 0 f3 (chOps ch 0 false none 0 rs1 rd)) (hc : submitAt f3 = some c) : decodeL w = .ok (c rd rs1 ch) := by
  obtain ⟨h3, h6⟩ := h.codes
  have hres : reserved w [(20, 34)] (c rd rs1 ch) = .ok (c rd rs1 ch) := by
    simp [reserved, h.unions, chOps]
  match f3, hc with
  | 3, rfl | 4, rfl => simpa only [decodeL, h3, h6, qregAt_ch h, h.operands, chOps] using hres

end

section
variable {w fn6 f3 : Nat} (hc : fn6 < 64 ∧ f3 < 8)
include hc

theorem rowOps_word {row : BitVec 10} {s3 s2 s1 d : Reg}
    (hw : w = packL f3 fn6 + bits 48 row + reg 25 s3 + reg 20 s2 + reg 15 s1 + reg 7 d) :
    LWord w fn6 f3 (rowOps row s3 s2 s1 d) :=
  ⟨hc, row.isLt, by simp only [rowOps]; decide, by
    simp only [hw, rowOps, bits, bit, Bool.toNat_false]
    omega⟩

theorem chOps_word {ch : QReg} {mid : Nat} {c : Bool} {kd : Option MReg} {s2 s1 d : Reg} (hm : mid < 65536)
    (hw : w = packL f3 fn6 + reg 54 ch + mid * 2 ^ 32 + bit 31 c + bit 30 kd.isSome + reg 20 s2 + reg 15 s1 + reg 7 d) :
    LWord w fn6 f3 (chOps ch mid c kd s2 s1 d) := by
  have hch := ch.isLt
  refine ⟨hc, by simp only [chOps]; omega, hm, ?_⟩
  simp only [hw, chOps, reg, Fin.val_zero]
  omega

end

theorem row_word {fn6 : Nat} (hf : fn6 < 64) (row : BitVec 10) (slot : QReg) (base : Reg) :
    LWord (packL 0 fn6 + bits 48 row + reg 20 slot + reg 15 base) fn6 0 (rowOps row 0 (handleField slot) base 0) :=
  rowOps_word ⟨hf, by decide⟩ (by
    simp only [packL, reg, handleField, Fin.val_castLE, Fin.val_zero]
    omega)

theorem slot_word {fn6 : Nat} (hf : fn6 < 64) (rd : Reg) (slot : QReg) :
    LWord (packL 1 fn6 + reg 20 slot + reg 7 rd) fn6 1 (rowOps 0 0 (handleField slot) 0 rd) :=
  rowOps_word ⟨hf, by decide⟩ (by
    simp only [packL, bits, reg, handleField, Fin.val_castLE, Fin.val_zero, BitVec.ofNat_eq_ofNat, BitVec.toNat_zero]
    omega)

theorem wclr_word (slot : QReg) : LWord (packL 1 3 + reg 20 slot) 3 1 (rowOps 0 0 (handleField slot) 0 0) :=
  rowOps_word (by decide) (by
    simp only [packL, bits, reg, handleField, Fin.val_castLE, Fin.val_zero, BitVec.ofNat_eq_ofNat, BitVec.toNat_zero]
    omega)

theorem submit_word {f3 : Nat} (hf : f3 < 8) (rd rs1 : Reg) (ch : QReg) :
    LWord (packL f3 0 + reg 54 ch + reg 15 rs1 + reg 7 rd) 0 f3 (chOps ch 0 false none 0 rs1 rd) :=
  chOps_word ⟨by decide, hf⟩ (by decide) (by
    simp only [packL, bit, reg, Bool.toNat_false, Option.isSome_none, Fin.val_zero]
    omega)

theorem accz_word (rs1 : Reg) (row n : BitVec 10) :
    LWord (packL 1 2 + bits 48 row + bits 38 n + reg 15 rs1) 2 1 { rowOps row 0 0 rs1 0 with mid := n.toNat * 64 } := by
  have hn : n.toNat * 64 < 65536 := by
    have := n.isLt
    omega
  refine ⟨by decide, row.isLt, hn, ?_⟩
  simp only [rowOps, bits, bit, reg, Bool.toNat_false, Fin.val_zero]
  omega

/-- MW and the destination field hold a copy command's mask register. -/
theorem packMask_eq (kd : Option MReg) : packMask kd = bit 30 kd.isSome + reg 7 (copyDst kd) := by
  cases kd <;> simp only [packMask, copyDst, bit, reg, maskField, Option.isSome, Option.elim, Bool.toNat_false,
    Bool.toNat_true, Fin.val_castLE, Fin.val_zero, Nat.zero_mul, Nat.add_zero, Nat.one_mul]

theorem packCopy_word {fn6 : Nat} (hf : fn6 < 64) (a : FCopy) :
    LWord (packCopy fn6 a) fn6 2 (chOps a.ch 0 false a.kd 0 a.base (copyDst a.kd)) :=
  chOps_word ⟨hf, by decide⟩ (by decide) (by
    simp only [packCopy, packMask_eq, bit, reg, Bool.toNat_false, Fin.val_zero]
    omega)

theorem cpw_word (a : FCopy) (slot : QReg) :
    LWord (packCopy 3 a + reg 44 slot) 3 2 (chOps a.ch (slot * 4096) false a.kd 0 a.base (copyDst a.kd)) :=
  chOps_word (by decide) (by have := slot.isLt; omega) (by
    simp only [packCopy, packMask_eq, bit, reg, Bool.toNat_false, Fin.val_zero]
    omega)

theorem packCopyV_word {fn6 : Nat} (hf : fn6 < 64) (a : FCopyV) :
    LWord (packCopyV fn6 a) fn6 2 (chOps a.ch 0 a.c a.kd a.vs2 a.base (copyDst a.kd)) :=
  chOps_word ⟨hf, by decide⟩ (by decide) (by
    simp only [packCopyV, packMask_eq, bit, reg]
    omega)

end Sys2Proof.Machine
end

section
/-! PROOFS. The decoder on the 32-bit words of the RV64 base (R55, R60, R65). -/

namespace Sys2Proof.Machine

open Laws.EncodeFits (Fits32 fld_lt fpCode_lt amoCode_lt)

/-! ### The RV64 base (R55) -/

/-- Opcodes and register numbers within the fields of the register format. -/
theorem RWord.parts {w f7 f3 op : Nat} {rd rs1 rs2 : Reg} (h : RWord w f7 f3 op rd rs1 rs2) :
    fld w 27 5 = f7 / 4 ∧ fld w 26 1 = f7 / 2 % 2 ∧ fld w 25 1 = f7 % 2
      ∧ fld w 13 2 = f3 / 2 ∧ fld w 12 1 = f3 % 2 := by
  obtain ⟨-, h3, h7, h2, -⟩ := h.fields
  simp only [fld] at *
  omega

theorem IWord.parts {w imm f3 op : Nat} {rd rs1 : Reg} (h : IWord w imm f3 op rd rs1) :
    fld w 26 6 = imm / 64 ∧ fld w 25 7 = imm / 32 ∧ fld w 20 6 = imm % 64 ∧ fld w 20 5 = imm % 32 := by
  obtain ⟨-, -, himm, -⟩ := h.fields
  simp only [fld] at *
  omega

section
variable {w : Nat} {rd rs1 rs2 : Reg}

theorem imm12_of_word {f3 op : Nat} {imm : BitVec 12} (h : IWord w imm.toNat f3 op rd rs1) : imm12 w = imm := by
  obtain ⟨-, -, himm, -⟩ := h.fields
  exact immAt_of_fld himm

theorem find2_alu (op : AluOp) : (op.code.1 = 0x33 ∧ find2 pageOp op.code.2.2 op.code.2.1 = some op)
    ∨ (op.code.1 = 0x3B ∧ find2 pageOpW op.code.2.2 op.code.2.1 = none
      ∧ find2 pageOpUw op.code.2.2 op.code.2.1 = some op) := by
  cases op <;> decide

theorem decode_alu {op : AluOp} (h : RWord w op.code.2.2 op.code.2.1 op.code.1 rd rs1 rs2) :
    decode32 w = rv (.alu op rd rs1 rs2) := by
  obtain ⟨hop, h3, h7, -⟩ := h.fields
  obtain ⟨h33, hp⟩ | ⟨h3b, hw, hp⟩ := find2_alu op
  · rw [h33] at hop
    simp only [decode32, hop, decodeOp, h3, h7, hp, h.operands]
  · rw [h3b] at hop
    simp only [decode32, hop, decodeOp32, h3, h7, hw, hp, h.operands]

theorem decode_aluW {op : AluWOp} (h : RWord w op.code.2 op.code.1 0x3B rd rs1 rs2) :
    decode32 w = rv (.aluW op rd rs1 rs2) := by
  obtain ⟨hop, h3, h7, -⟩ := h.fields
  have hp : find2 pageOpW op.code.2 op.code.1 = some op := by cases op <;> decide
  simp only [decode32, hop, decodeOp32, h3, h7, hp, h.operands]

theorem decode_aluI {op : AluIOp} {imm : BitVec 12} (h : IWord w imm.toNat op.code.2 op.code.1 rd rs1) :
    decode32 w = rv (.aluI op rd rs1 imm) := by
  obtain ⟨hop, h3, -⟩ := h.fields
  cases op <;> simp only [AluIOp.code] at hop h3 <;>
    simp only [decode32, hop, decodeOpImm, decodeOpImm32, h3, h.operands, imm12_of_word h]

/-- The majors OP-IMM and OP-IMM-32 hand funct3 1 and 5 to the shifts. -/
theorem decode32_shift {w : Nat} (hop : fld w 0 7 = 0x13 ∨ fld w 0 7 = 0x1B) (h3 : fld w 12 3 = 1 ∨ fld w 12 3 = 5) :
    decode32 w = decodeShift w := by
  rcases hop with hop | hop <;> rcases h3 with h3 | h3 <;>
    simp only [decode32, hop, decodeOpImm, decodeOpImm32, h3]

/-- Every shift but `slli.uw` stands in the page of OP-IMM. -/
theorem find2_shI (op : ShIOp) :
    op = .slliUw ∨ (op.code.1 = 0x13 ∧ find2 pageShI op.code.2.2 op.code.2.1 = some op) := by
  cases op <;> decide

/-- No shift amount makes a shift a one-operand form. -/
theorem findUn_shI (op : ShIOp) (sh : Fin 64) : findUn (op.code.2.2 * 64 + sh) op.code.2.1 op.code.1 = none := by
  revert sh
  cases op <;> decide

theorem findUn_shIW (op : ShIWOp) (sh : Fin 32) : findUn (op.code.2 * 32 + sh) op.code.1 0x1B = none := by
  revert sh
  cases op <;> decide

theorem decode_shI {op : ShIOp} {sh : BitVec 6} (h : IWord w (op.code.2.2 * 64 + sh.toNat) op.code.2.1 op.code.1 rd rs1) :
    decode32 w = rv (.shI op rd rs1 sh) := by
  obtain ⟨hop, h3, himm, -⟩ := h.fields
  obtain ⟨h26, h25, h20, -⟩ := h.parts
  have hsh := sh.isLt
  have hun : findUn (fld w 20 12) (fld w 12 3) (fld w 0 7) = none := by
    rw [himm, h3, hop]
    exact findUn_shI op sh.toFin
  have h6 : fld w 26 6 = op.code.2.2 := by omega
  have h7 : fld w 25 7 = op.code.2.2 * 2 + sh.toNat / 32 := by omega
  have hamount : immAt w 20 6 = sh := immAt_of_fld (by omega)
  have hmaj : fld w 0 7 = 0x13 ∨ fld w 0 7 = 0x1B := by
    rw [hop]
    cases op <;> decide
  have hf3 : fld w 12 3 = 1 ∨ fld w 12 3 = 5 := by
    rw [h3]
    cases op <;> decide
  rw [decode32_shift hmaj hf3, decodeShift, hun]
  obtain rfl | ⟨h13, hp⟩ := find2_shI op
  · have hnone : find2 pageShIW (fld w 25 7) 1 = none := by
      have h45 : fld w 25 7 = 4 ∨ fld w 25 7 = 5 := by
        simp only [ShIOp.code] at h7
        omega
      rcases h45 with h45 | h45 <;> rw [h45] <;> decide
    simp only [ShIOp.code] at hop h3 h6
    simp only [hop, hnone, h6, h3, beq_self_eq_true, Bool.and_self, if_true, hamount, h.operands]
  · simp only [hop, h13, h6, h3, hp, hamount, h.operands]

theorem decode_shIW {op : ShIWOp} {sh : BitVec 5} (h : IWord w (op.code.2 * 32 + sh.toNat) op.code.1 0x1B rd rs1) :
    decode32 w = rv (.shIW op rd rs1 sh) := by
  obtain ⟨hop, h3, himm, -⟩ := h.fields
  obtain ⟨-, h25, -, h20⟩ := h.parts
  have hsh := sh.isLt
  have hun : findUn (fld w 20 12) (fld w 12 3) (fld w 0 7) = none := by
    rw [himm, h3, hop]
    exact findUn_shIW op sh.toFin
  have h7 : fld w 25 7 = op.code.2 := by omega
  have hamount : immAt w 20 5 = sh := immAt_of_fld (by omega)
  have hf3 : fld w 12 3 = 1 ∨ fld w 12 3 = 5 := by
    rw [h3]
    cases op <;> decide
  have hp : find2 pageShIW (fld w 25 7) (fld w 12 3) = some op := by
    rw [h7, h3]
    cases op <;> decide
  rw [decode32_shift (.inr hop) hf3, decodeShift, hun]
  simp only [hop, hp, hamount, h.operands]

theorem findUn_code (op : UnOp) : findUn op.code.2.2 op.code.2.1 op.code.1 = some op := by
  cases op <;> decide

/-- Every one-operand form but `zext.h` stands among the shifts. -/
theorem unOp_shift (op : UnOp) :
    op = .zextH ∨ ((op.code.1 = 0x13 ∨ op.code.1 = 0x1B) ∧ (op.code.2.1 = 1 ∨ op.code.2.1 = 5)) := by
  cases op <;> decide

theorem decode_un {op : UnOp} (h : IWord w op.code.2.2 op.code.2.1 op.code.1 rd rs1) :
    decode32 w = rv (.un op rd rs1) := by
  obtain ⟨hop, h3, himm, -⟩ := h.fields
  have hp : findUn (fld w 20 12) (fld w 12 3) (fld w 0 7) = some op := by
    rw [himm, h3, hop]
    exact findUn_code op
  obtain rfl | ⟨hmaj, hf3⟩ := unOp_shift op
  · obtain ⟨-, h25, -⟩ := h.parts
    have hnone : find2 pageOpW (fld w 25 7) (fld w 12 3) = none ∧ find2 pageOpUw (fld w 25 7) (fld w 12 3) = none := by
      rw [h25, h3]
      decide
    simp only [UnOp.code] at hop
    rw [hop] at hp
    simp only [decode32, hop, decodeOp32, hnone, hp, h.operands]
  · rw [← hop] at hmaj
    rw [← h3] at hf3
    simp only [decode32_shift hmaj hf3, decodeShift, hp, h.operands]

theorem decode_jalr {imm : BitVec 12} (h : IWord w imm.toNat 0 0x67 rd rs1) : decode32 w = rv (.jalr rd rs1 imm) := by
  obtain ⟨hop, h3, -⟩ := h.fields
  simp [decode32, hop, h3, h.operands, imm12_of_word h]

theorem decode_load {op : LdOp} {imm : BitVec 12} (h : IWord w imm.toNat op.code 0x03 rd rs1) :
    decode32 w = rv (.load op rd rs1 imm) := by
  obtain ⟨hop, h3, -⟩ := h.fields
  cases op <;> simp only [LdOp.code] at h3 <;>
    simp only [decode32, hop, decodeLoad, h3, h.operands, imm12_of_word h]

theorem decode_fload {dbl : Bool} {imm : BitVec 12} (h : IWord w imm.toNat (2 + dbl.toNat) 0x07 rd rs1) :
    decode32 w = rv (.fload dbl rd rs1 imm) := by
  obtain ⟨hop, h3, -⟩ := h.fields
  cases dbl <;> simp only [Bool.toNat_false, Bool.toNat_true] at h3 <;>
    simp only [decode32, hop, h3, h.operands, imm12_of_word h]

/-! ### Atomics -/

theorem amo_parts {f5 : Nat} {dbl aq rl : Bool} (h : RWord w (Sys2Proof.amoCode f5 aq rl) (2 + dbl.toNat) 0x2F rd rs1 rs2) :
    decode32 w = decodeAmo w ∧ fld w 13 2 = 1 ∧ fld w 27 5 = f5
      ∧ flag w 26 = aq ∧ flag w 25 = rl ∧ flag w 12 = dbl := by
  obtain ⟨hop, -⟩ := h.fields
  obtain ⟨h27, h26, h25, h13, h12⟩ := h.parts
  have ha := Bool.toNat_le aq
  have hr := Bool.toNat_le rl
  have hd := Bool.toNat_le dbl
  rw [Sys2Proof.amoCode] at h27 h26 h25
  exact ⟨by simp only [decode32, hop], by omega, by omega, flag_of_fld (by omega), flag_of_fld (by omega),
    flag_of_fld (by omega)⟩

theorem decode_lr {dbl aq rl : Bool} (h : RWord w (Sys2Proof.amoCode 0x02 aq rl) (2 + dbl.toNat) 0x2F rd rs1 0) :
    decode32 w = rv (.lr dbl aq rl rd rs1) := by
  obtain ⟨-, -, -, h2, -⟩ := h.fields
  obtain ⟨hd, h13, h27, h26, h25, h12⟩ := amo_parts h
  simp [hd, decodeAmo, h13, h27, h2, h26, h25, h12, h.operands]

theorem decode_sc {dbl aq rl : Bool} (h : RWord w (Sys2Proof.amoCode 0x03 aq rl) (2 + dbl.toNat) 0x2F rd rs1 rs2) :
    decode32 w = rv (.sc dbl aq rl rd rs1 rs2) := by
  obtain ⟨hd, h13, h27, h26, h25, h12⟩ := amo_parts h
  simp [hd, decodeAmo, h13, h27, h26, h25, h12, h.operands]

theorem decode_amo {op : AmoOp} {dbl aq rl : Bool}
    (h : RWord w (Sys2Proof.amoCode op.code aq rl) (2 + dbl.toNat) 0x2F rd rs1 rs2) :
    decode32 w = rv (.amo op dbl aq rl rd rs1 rs2) := by
  obtain ⟨hd, h13, h27, h26, h25, h12⟩ := amo_parts h
  have hp : ∃ p, pageAmoS.find? (fun p => p.1 == op.code) = some p ∧ p.2 = op ∧ op.code ≠ 2 ∧ op.code ≠ 3 := by
    cases op <;> exact ⟨_, rfl, rfl, by decide, by decide⟩
  obtain ⟨p, hp, rfl, h2, h3⟩ := hp
  rw [hd, decodeAmo, h13, h27]
  split
  · split
    · contradiction
    · contradiction
    · simp only [hp, h26, h25, h12, h.operands]
  · contradiction

/-! ### Scalar floating point -/

theorem withRm_of_word {f7 op : Nat} {rm : Fin 8} (h : RWord w f7 rm op rd rs1 rs2) (hrm : rmDefined rm = true)
    (f : Fin 8 → Scalar) : withRm w f = rv (f rm) := by
  obtain ⟨-, h3, -⟩ := h.fields
  simp only [rmDefined, bne_iff_ne, Bool.and_eq_true, ne_eq] at hrm
  simp [withRm, h3, hrm]

theorem fp_parts {f5 f3 : Nat} {dbl : Bool} (h : RWord w (fpCode f5 dbl) f3 0x53 rd rs1 rs2) :
    decode32 w = decodeOpFp w ∧ fld w 27 5 = f5 ∧ fld w 26 1 = 0 ∧ flag w 25 = dbl := by
  obtain ⟨hop, -⟩ := h.fields
  obtain ⟨h27, h26, h25, -⟩ := h.parts
  have hd := Bool.toNat_le dbl
  rw [fpCode] at h27 h26 h25
  exact ⟨by simp only [decode32, hop], by omega, by omega, flag_of_fld (by omega)⟩

theorem decode_fbin {op : FBinOp} {dbl : Bool} {rm : Fin 8} (hrm : rmDefined rm = true)
    (h : RWord w (fpCode op.code dbl) rm 0x53 rd rs1 rs2) : decode32 w = rv (.fbin op dbl rm rd rs1 rs2) := by
  obtain ⟨hd, h27, h26, h25⟩ := fp_parts h
  cases op <;> simp [hd, decodeOpFp, h26, h27, FBinOp.code, withRm_of_word h hrm, h25, h.operands]

theorem decode_fsqrt {dbl : Bool} {rm : Fin 8} (hrm : rmDefined rm = true)
    (h : RWord w (fpCode 0x0B dbl) rm 0x53 rd rs1 0) : decode32 w = rv (.fsqrt dbl rm rd rs1) := by
  obtain ⟨-, -, -, h2, -⟩ := h.fields
  obtain ⟨hd, h27, h26, h25⟩ := fp_parts h
  simp [hd, decodeOpFp, h26, h27, h2, withRm_of_word h hrm, h25, h.operands]

theorem decode_fma {op : FmaOp} {dbl : Bool} {rm : Fin 8} {rs3 : Reg} (hrm : rmDefined rm = true)
    (h : RWord w (rs3.val * 4 + dbl.toNat) rm op.code rd rs1 rs2) : decode32 w = rv (.fma op dbl rm rd rs1 rs2 rs3) := by
  obtain ⟨hop, -⟩ := h.fields
  obtain ⟨h27, h26, h25, -⟩ := h.parts
  have hd := Bool.toNat_le dbl
  have h26 : fld w 26 1 = 0 := by omega
  have hfma : decode32 w = decodeFma op w := by
    cases op <;> simp only [FmaOp.code] at hop <;> simp only [decode32, hop]
  simp [hfma, decodeFma, h26, withRm_of_word h hrm, flag_of_fld (w := w) (i := 25) (b := dbl) (by omega),
    regAt_of_fld (w := w) (lo := 27) (r := rs3) (by omega), h.operands]

theorem decode_fsgn {op : SgnOp} {dbl : Bool} (h : RWord w (fpCode 0x04 dbl) op.code 0x53 rd rs1 rs2) :
    decode32 w = rv (.fsgn op dbl rd rs1 rs2) := by
  obtain ⟨-, h3, -⟩ := h.fields
  obtain ⟨hd, h27, h26, h25⟩ := fp_parts h
  cases op <;> simp only [SgnOp.code] at h3 <;> simp [hd, decodeOpFp, h26, h27, h3, h25, h.operands]

theorem decode_fminmax {isMax dbl : Bool} (h : RWord w (fpCode 0x05 dbl) isMax.toNat 0x53 rd rs1 rs2) :
    decode32 w = rv (.fminmax isMax dbl rd rs1 rs2) := by
  obtain ⟨-, h3, -⟩ := h.fields
  obtain ⟨hd, h27, h26, h25⟩ := fp_parts h
  cases isMax <;> simp only [Bool.toNat_false, Bool.toNat_true] at h3 <;>
    simp [hd, decodeOpFp, h26, h27, h3, h25, h.operands]

theorem decode_fcmp {op : FCmpOp} {dbl : Bool} (h : RWord w (fpCode 0x14 dbl) op.code 0x53 rd rs1 rs2) :
    decode32 w = rv (.fcmp op dbl rd rs1 rs2) := by
  obtain ⟨-, h3, -⟩ := h.fields
  obtain ⟨hd, h27, h26, h25⟩ := fp_parts h
  cases op <;> simp only [FCmpOp.code] at h3 <;> simp [hd, decodeOpFp, h26, h27, h3, h25, h.operands]

theorem decode_fclass {dbl : Bool} (h : RWord w (fpCode 0x1C dbl) 1 0x53 rd rs1 0) :
    decode32 w = rv (.fclass dbl rd rs1) := by
  obtain ⟨-, h3, -, h2, -⟩ := h.fields
  obtain ⟨hd, h27, h26, h25⟩ := fp_parts h
  simp [hd, decodeOpFp, h26, h27, h3, h2, h25, h.operands]

theorem decode_fmvXF {dbl : Bool} (h : RWord w (fpCode 0x1C dbl) 0 0x53 rd rs1 0) :
    decode32 w = rv (.fmvXF dbl rd rs1) := by
  obtain ⟨-, h3, -, h2, -⟩ := h.fields
  obtain ⟨hd, h27, h26, h25⟩ := fp_parts h
  simp [hd, decodeOpFp, h26, h27, h3, h2, h25, h.operands]

theorem decode_fmvFX {dbl : Bool} (h : RWord w (fpCode 0x1E dbl) 0 0x53 rd rs1 0) :
    decode32 w = rv (.fmvFX dbl rd rs1) := by
  obtain ⟨-, h3, -, h2, -⟩ := h.fields
  obtain ⟨hd, h27, h26, h25⟩ := fp_parts h
  simp [hd, decodeOpFp, h26, h27, h3, h2, h25, h.operands]

theorem ifmtAt_code (f : IFmt) : ifmtAt (Fin.ofNat 32 f.code : Reg) = some f := by
  cases f <;> rfl

theorem decode_fcvtToInt {fmt : IFmt} {dbl : Bool} {rm : Fin 8} (hrm : rmDefined rm = true)
    (h : RWord w (fpCode 0x18 dbl) rm 0x53 rd rs1 (Fin.ofNat 32 fmt.code)) :
    decode32 w = rv (.fcvtToInt fmt dbl rm rd rs1) := by
  obtain ⟨-, -, -, h2, -⟩ := h.fields
  obtain ⟨hd, h27, h26, h25⟩ := fp_parts h
  have hf : ifmtAt (fld w 20 5) = some fmt := by rw [h2, ifmtAt_code]
  simp [hd, decodeOpFp, h26, h27, hf, withRm_of_word h hrm, h25, h.operands]

theorem decode_fcvtFromInt {fmt : IFmt} {dbl : Bool} {rm : Fin 8} (hrm : rmDefined rm = true)
    (h : RWord w (fpCode 0x1A dbl) rm 0x53 rd rs1 (Fin.ofNat 32 fmt.code)) :
    decode32 w = rv (.fcvtFromInt fmt dbl rm rd rs1) := by
  obtain ⟨-, -, -, h2, -⟩ := h.fields
  obtain ⟨hd, h27, h26, h25⟩ := fp_parts h
  have hf : ifmtAt (fld w 20 5) = some fmt := by rw [h2, ifmtAt_code]
  simp [hd, decodeOpFp, h26, h27, hf, withRm_of_word h hrm, h25, h.operands]

theorem decode_fcvtSD {rm : Fin 8} (hrm : rmDefined rm = true) (h : RWord w (fpCode 0x08 false) rm 0x53 rd rs1 1) :
    decode32 w = rv (.fcvtSD rm rd rs1) := by
  obtain ⟨-, -, -, h2, -⟩ := h.fields
  obtain ⟨hd, h27, h26, h25⟩ := fp_parts h
  simp [hd, decodeOpFp, h26, h27, h2, withRm_of_word h hrm, h25, h.operands]

theorem decode_fcvtDS {rm : Fin 8} (hrm : rmDefined rm = true) (h : RWord w (fpCode 0x08 true) rm 0x53 rd rs1 0) :
    decode32 w = rv (.fcvtDS rm rd rs1) := by
  obtain ⟨-, -, -, h2, -⟩ := h.fields
  obtain ⟨hd, h27, h26, h25⟩ := fp_parts h
  simp [hd, decodeOpFp, h26, h27, h2, withRm_of_word h hrm, h25, h.operands]

/-! ### System instructions and CSRs -/

theorem decode_sfenceVma (h : RWord w 0x09 0 0x73 0 rs1 rs2) : decode32 w = rv (.sfenceVma rs1 rs2) := by
  obtain ⟨hop, h3, h7, -, -, hd⟩ := h.fields
  simp [decode32, hop, decodeSystem, h3, h7, hd, h.operands]

/-- funct3 of a CSR instruction. -/
def csrF3 (a : FCsr) : Nat := (match a.op with | .rw => 1 | .rs => 2 | .rc => 3) + (if a.imm then 4 else 0)

theorem decode_csr {a : FCsr} (h : IWord w a.csr.toNat (csrF3 a) 0x73 a.rd a.src) : decode32 w = .ok (csrInstr a) := by
  obtain ⟨op, imm, src, rd, csr⟩ := a
  obtain ⟨hop, h3, -⟩ := h.fields
  have ha : csrAt w op imm = ⟨op, imm, src, rd, csr⟩ := by simp only [csrAt, imm12_of_word h, h.operands]
  cases op <;> cases imm <;> simp [csrF3] at h3 <;> simp only [decode32, hop, decodeSystem, h3, ha]

end

/-! ### The formats S, B, U and J -/

section
variable {w : Nat}

/-- The fields of a word of format S, whose immediate stands in two parts. -/
theorem formatS_fields {op f3 high low : Nat} {rs1 rs2 : Reg}
    (hw : w = high * 2 ^ 25 + reg 20 rs2 + reg 15 rs1 + f3 * 2 ^ 12 + low * 2 ^ 7 + op) (hh : high < 2 ^ 7) (hl : low < 2 ^ 5)
    (h3 : f3 < 8) (hop : op < 128) : fld w 0 7 = op ∧ fld w 12 3 = f3 ∧ fld w 15 5 = rs1 ∧ fld w 20 5 = rs2
      ∧ fld w 25 7 = high ∧ fld w 7 5 = low := by
  simp only [reg, fld] at *
  omega

theorem store_fields {op f3 : Nat} {rs1 rs2 : Reg} {imm : BitVec 12} (hw : w = packS op f3 rs1 rs2 imm) (h3 : f3 < 8)
    (hop : op < 128) : fld w 0 7 = op ∧ fld w 12 3 = f3 ∧ regAt w 15 = rs1 ∧ regAt w 20 = rs2 ∧ immS w = imm := by
  obtain ⟨ho, h3, h1, h2, h7, h5⟩ := formatS_fields hw (fld_lt _ _ _) (fld_lt _ _ _) h3 hop
  have himm : fld imm.toNat 5 7 * 2 ^ 5 + fld imm.toNat 0 5 = imm.toNat := by
    have := imm.isLt
    simp only [fld]
    omega
  exact ⟨ho, h3, regAt_of_fld h1, regAt_of_fld h2, by rw [immS, h7, h5, himm, BitVec.ofNat_toNat, BitVec.setWidth_eq]⟩

theorem decode_store {op : StOp} {rs1 rs2 : Reg} {imm : BitVec 12} (hw : w = packS 0x23 op.code rs1 rs2 imm) :
    decode32 w = rv (.store op rs1 rs2 imm) := by
  obtain ⟨hop, h3, h1, h2, himm⟩ := store_fields hw (by cases op <;> decide) (by decide)
  cases op <;> simp only [StOp.code] at h3 <;> simp only [decode32, hop, decodeStore, h3, h1, h2, himm]

theorem decode_fstore {dbl : Bool} {rs1 rs2 : Reg} {imm : BitVec 12} (hw : w = packS 0x27 (2 + dbl.toNat) rs1 rs2 imm) :
    decode32 w = rv (.fstore dbl rs1 rs2 imm) := by
  obtain ⟨hop, h3, h1, h2, himm⟩ := store_fields hw (by cases dbl <;> decide) (by decide)
  cases dbl <;> simp only [Bool.toNat_false, Bool.toNat_true] at h3 <;> simp only [decode32, hop, h3, h1, h2, himm]

/-- The fields of a word of format B, whose offset stands in four parts. -/
theorem formatB_fields {f3 b12 high low b11 : Nat} {rs1 rs2 : Reg}
    (hw : w = b12 * 2 ^ 31 + high * 2 ^ 25 + reg 20 rs2 + reg 15 rs1 + f3 * 2 ^ 12 + low * 2 ^ 8 + b11 * 2 ^ 7 + 0x63)
    (h12 : b12 < 2 ^ 1) (hh : high < 2 ^ 6) (hl : low < 2 ^ 4) (h11 : b11 < 2 ^ 1) (h3 : f3 < 8) :
    fld w 0 7 = 0x63 ∧ fld w 12 3 = f3 ∧ fld w 15 5 = rs1 ∧ fld w 20 5 = rs2
      ∧ fld w 31 1 = b12 ∧ fld w 25 6 = high ∧ fld w 8 4 = low ∧ fld w 7 1 = b11 := by
  simp only [reg, fld] at *
  omega

theorem decode_branch {op : BrOp} {rs1 rs2 : Reg} {off : BitVec 13} (heven : off.toNat % 2 = 0)
    (hw : w = packB op.code rs1 rs2 off) : decode32 w = rv (.branch op rs1 rs2 off) := by
  obtain ⟨hop, h3, h1, h2, h12, hh, hl, h11⟩ :=
    formatB_fields hw (fld_lt _ _ _) (fld_lt _ _ _) (fld_lt _ _ _) (fld_lt _ _ _) (by cases op <;> decide)
  have himm : fld off.toNat 12 1 * 2 ^ 12 + fld off.toNat 11 1 * 2 ^ 11 + fld off.toNat 5 6 * 2 ^ 5 + fld off.toNat 1 4 * 2
      = off.toNat := by
    have := off.isLt
    simp only [fld]
    omega
  have hb : immB w = off := by rw [immB, h12, hh, hl, h11, himm, BitVec.ofNat_toNat, BitVec.setWidth_eq]
  cases op <;> simp only [BrOp.code] at h3 <;>
    simp only [decode32, hop, decodeBranch, h3, regAt_of_fld h1, regAt_of_fld h2, hb]

/-- The fields of a word of format J, whose offset stands in four parts. -/
theorem formatJ_fields {b20 low b11 mid : Nat} {rd : Reg}
    (hw : w = b20 * 2 ^ 31 + low * 2 ^ 21 + b11 * 2 ^ 20 + mid * 2 ^ 12 + reg 7 rd + 0x6F)
    (h20 : b20 < 2 ^ 1) (hl : low < 2 ^ 10) (h11 : b11 < 2 ^ 1) (hm : mid < 2 ^ 8) : fld w 0 7 = 0x6F ∧ fld w 7 5 = rd
      ∧ fld w 31 1 = b20 ∧ fld w 21 10 = low ∧ fld w 20 1 = b11 ∧ fld w 12 8 = mid := by
  simp only [reg, fld] at *
  omega

theorem decode_jal {rd : Reg} {off : BitVec 21} (heven : off.toNat % 2 = 0) (hw : w = packJ rd off) :
    decode32 w = rv (.jal rd off) := by
  obtain ⟨hop, hd, h20, hl, h11, hm⟩ := formatJ_fields hw (fld_lt _ _ _) (fld_lt _ _ _) (fld_lt _ _ _) (fld_lt _ _ _)
  have himm : fld off.toNat 20 1 * 2 ^ 20 + fld off.toNat 12 8 * 2 ^ 12 + fld off.toNat 11 1 * 2 ^ 11
      + fld off.toNat 1 10 * 2 = off.toNat := by
    have := off.isLt
    simp only [fld]
    omega
  simp only [decode32, hop, regAt_of_fld hd, immJ, h20, hl, h11, hm, himm, BitVec.ofNat_toNat, BitVec.setWidth_eq]

/-- The fields of a word of format U. -/
theorem upper_fields {op : Nat} {rd : Reg} {imm : BitVec 20} (hw : w = bits 12 imm + reg 7 rd + op) (hop : op < 128) :
    fld w 0 7 = op ∧ regAt w 7 = rd ∧ immAt w 12 20 = imm := by
  have himm := imm.isLt
  have hfields : fld w 0 7 = op ∧ fld w 7 5 = rd ∧ fld w 12 20 = imm.toNat := by
    simp only [bits, reg, fld] at *
    omega
  obtain ⟨ho, hd, hi⟩ := hfields
  exact ⟨ho, regAt_of_fld hd, immAt_of_fld hi⟩

theorem decode_lui {rd : Reg} {imm : BitVec 20} (hw : w = bits 12 imm + reg 7 rd + 0x37) : decode32 w = rv (.lui rd imm) := by
  obtain ⟨hop, hd, hi⟩ := upper_fields hw (by decide)
  simp only [decode32, hop, hd, hi]

theorem decode_auipc {rd : Reg} {imm : BitVec 20} (hw : w = bits 12 imm + reg 7 rd + 0x17) :
    decode32 w = rv (.auipc rd imm) := by
  obtain ⟨hop, hd, hi⟩ := upper_fields hw (by decide)
  simp only [decode32, hop, hd, hi]

theorem decode_fence {fm pred succ : Fin 16} {rs1 rd : Reg}
    (hw : w = reg 28 fm + reg 24 pred + reg 20 succ + reg 15 rs1 + reg 7 rd + 0x0F) :
    decode32 w = .ok (fenceInstr fm pred succ rs1 rd) := by
  have hfields : fld w 0 7 = 0x0F ∧ fld w 12 3 = 0 ∧ fld w 28 4 = fm ∧ fld w 24 4 = pred ∧ fld w 20 4 = succ
      ∧ fld w 15 5 = rs1 ∧ fld w 7 5 = rd := by
    simp only [reg, fld] at *
    omega
  obtain ⟨hop, h3, hfm, hp, hs, h1, hd⟩ := hfields
  have hq {lo : Nat} {q : QReg} (h : fld w lo 4 = q) : qregAt w lo = q := Fin.ext h
  simp only [decode32, hop, decodeMiscMem, h3, hq hfm, hq hp, hq hs, regAt_of_fld h1, regAt_of_fld hd]

end

theorem decodeTableWord_fence {fm pred succ : Fin 16} {rs1 rd : Reg} (h : (¬fm = 8 ∨ ¬pred = 3) ∨ ¬succ = 3) :
    decodeTableWord 32 (reg 28 fm + reg 24 pred + reg 20 succ + reg 15 rs1 + reg 7 rd + 0x0F) =
      some (.fence fm pred succ rs1 rd) := by
  have hf : fenceInstr fm pred succ rs1 rd = .fence fm pred succ rs1 rd := if_neg (by tauto)
  refine decodeTableWord_of_fits32 ?_ ((decode_fence rfl).trans (congrArg _ hf))
  simp only [reg, Fits32]
  omega

/-! ### CSR rows, and every scalar instruction -/

theorem csrInstr_standard {a : FCsr} (h : isQuelanCsr a.csr.toNat = false) :
    csrInstr a = .rv64ScalarInstruction .full (.csr a) := by
  have h803 : (a.csr.toNat == 0x803) = false := by
    rw [beq_eq_false_iff_ne]
    intro h'
    rw [h'] at h
    exact absurd h (by decide)
  simp [csrInstr, h, h803]

theorem csrInstr_quelan {a : FCsr} (h : a.wfQuelan = true) : csrInstr a = .quelanCsrAccess a := by
  simp only [FCsr.wfQuelan, FCsr.wfDirty, Bool.and_eq_true, Bool.not_eq_true'] at h
  simp [csrInstr, h]

theorem csrInstr_dirty {a : FCsr} (h : a.wfDirty = true) : csrInstr a = .vdirtyWrite a :=
  if_pos h

theorem csr_word (a : FCsr) : IWord (packCsr a) a.csr.toNat (csrF3 a) 0x73 a.rd a.src := by
  refine ⟨⟨a.csr.isLt, ?_, by decide⟩, rfl⟩
  unfold csrF3
  cases a.op <;> cases a.imm <;> decide

/-- The word of a scalar instruction decodes to it. -/
theorem decode32_encodeScalar {op : Scalar} (h : op.wf = true) : decode32 (encodeScalar op) = rv op := by
  have hdbl (d : Bool) : 2 + d.toNat < 8 := by cases d <;> decide
  cases op with
  | lui rd imm => exact decode_lui rfl
  | auipc rd imm => exact decode_auipc rfl
  | jal rd off => exact decode_jal (beq_iff_eq.1 h) rfl
  | jalr rd rs1 imm => exact decode_jalr ⟨⟨imm.isLt, by decide⟩, rfl⟩
  | branch op rs1 rs2 off => exact decode_branch (beq_iff_eq.1 h) rfl
  | load op rd rs1 imm => exact decode_load ⟨⟨imm.isLt, by cases op <;> decide⟩, rfl⟩
  | store op rs1 rs2 imm => exact decode_store rfl
  | aluI op rd rs1 imm => exact decode_aluI ⟨⟨imm.isLt, by cases op <;> decide⟩, rfl⟩
  | shI op rd rs1 sh =>
    have hsh := sh.isLt
    exact decode_shI ⟨⟨by cases op <;> simp only [ShIOp.code] <;> omega, by cases op <;> decide⟩, rfl⟩
  | shIW op rd rs1 sh =>
    have hsh := sh.isLt
    exact decode_shIW ⟨⟨by cases op <;> simp only [ShIWOp.code] <;> omega, by cases op <;> decide⟩, rfl⟩
  | alu op rd rs1 rs2 => exact decode_alu ⟨by cases op <;> decide, rfl⟩
  | aluW op rd rs1 rs2 => exact decode_aluW ⟨by cases op <;> decide, rfl⟩
  | un op rd rs1 => exact decode_un ⟨by cases op <;> decide, rfl⟩
  | lr dbl aq rl rd rs1 => exact decode_lr ⟨⟨amoCode_lt _ _ (by decide), hdbl dbl, by decide⟩, rfl⟩
  | sc dbl aq rl rd rs1 rs2 => exact decode_sc ⟨⟨amoCode_lt _ _ (by decide), hdbl dbl, by decide⟩, rfl⟩
  | amo op dbl aq rl rd rs1 rs2 =>
    exact decode_amo ⟨⟨amoCode_lt _ _ (by cases op <;> decide), hdbl dbl, by decide⟩, rfl⟩
  | fload dbl rd rs1 imm => exact decode_fload ⟨⟨imm.isLt, hdbl dbl, by decide⟩, rfl⟩
  | fstore dbl rs1 rs2 imm => exact decode_fstore rfl
  | fbin op dbl rm rd rs1 rs2 =>
    exact decode_fbin h ⟨⟨fpCode_lt _ (by cases op <;> decide), rm.isLt, by decide⟩, rfl⟩
  | fsqrt dbl rm rd rs1 => exact decode_fsqrt h ⟨⟨fpCode_lt _ (by decide), rm.isLt, by decide⟩, rfl⟩
  | fma op dbl rm rd rs1 rs2 rs3 =>
    have hs := rs3.isLt
    have hd := Bool.toNat_le dbl
    exact decode_fma h ⟨⟨by omega, rm.isLt, by cases op <;> decide⟩, rfl⟩
  | fsgn op dbl rd rs1 rs2 => exact decode_fsgn ⟨⟨fpCode_lt _ (by decide), by cases op <;> decide⟩, rfl⟩
  | fminmax isMax dbl rd rs1 rs2 => exact decode_fminmax ⟨⟨fpCode_lt _ (by decide), by cases isMax <;> decide⟩, rfl⟩
  | fcmp op dbl rd rs1 rs2 => exact decode_fcmp ⟨⟨fpCode_lt _ (by decide), by cases op <;> decide⟩, rfl⟩
  | fclass dbl rd rs1 => exact decode_fclass ⟨⟨fpCode_lt _ (by decide), by decide⟩, rfl⟩
  | fcvtToInt fmt dbl rm rd rs1 => exact decode_fcvtToInt h ⟨⟨fpCode_lt _ (by decide), rm.isLt, by decide⟩, rfl⟩
  | fcvtFromInt fmt dbl rm rd rs1 => exact decode_fcvtFromInt h ⟨⟨fpCode_lt _ (by decide), rm.isLt, by decide⟩, rfl⟩
  | fcvtSD rm rd rs1 => exact decode_fcvtSD h ⟨⟨fpCode_lt _ (by decide), rm.isLt, by decide⟩, rfl⟩
  | fcvtDS rm rd rs1 => exact decode_fcvtDS h ⟨⟨fpCode_lt _ (by decide), rm.isLt, by decide⟩, rfl⟩
  | fmvXF dbl rd rs1 => exact decode_fmvXF ⟨⟨fpCode_lt _ (by decide), by decide⟩, rfl⟩
  | fmvFX dbl rd rs1 => exact decode_fmvFX ⟨⟨fpCode_lt _ (by decide), by decide⟩, rfl⟩
  | csr a => exact (decode_csr (csr_word a)).trans (congrArg _ (csrInstr_standard (by simpa [Scalar.wf] using h)))
  | sret => rfl
  | mret => rfl
  | wfi => rfl
  | sfenceVma rs1 rs2 => exact decode_sfenceVma ⟨by decide, rfl⟩

end Sys2Proof.Machine
end

section
/-! PROOFS. Every well-formed instruction comes back from its words (R52), and with it the words that the spec writes out. -/

namespace Sys2Proof.Machine

open Laws.EncodeFits (encodeScalar_fits)

/-- Every well-formed instruction, form by form. -/
theorem roundTrip_of_wf (i : Instr) (h : i.wf = true) : RoundTrip i := by
  cases i with
  | vaddVv a | vsubVv a | vmulVv a | vmulhVv a | vmulhnVv a | vmaccVv a | vnmsacVv a | vminVv a | vmaxVv a
  | vminnVv a | vmaxnVv a | vandVv a | vorVv a | vxorVv a | vsllVv a | vsrlVv a =>
    exact VaWord.roundTrip rfl (packVV_word (by decide) rfl a) fun h => decode_pageVV h rfl
  | vsraVv a | vdivVv a | vdivnVv a | vremVv a | vremnVv a | vsaddVv a | vsaddnVv a | vssubVv a | vssubnVv a =>
    exact VaWord.roundTrip rfl (packVV_word (by decide) rfl a) fun h => decode_pageVV2 h rfl
  | vaddVx a | vsubVx a | vmulVx a | vmulhVx a | vmulhnVx a | vmaccVx a | vnmsacVx a | vminVx a | vmaxVx a
  | vminnVx a | vmaxnVx a | vandVx a | vorVx a | vxorVx a | vsllVx a | vsrlVx a | vsraVx a | vdivVx a | vdivnVx a
  | vremVx a | vremnVx a | vsaddVx a | vsaddnVx a | vssubVx a | vssubnVx a | vrsubVx a =>
    exact VaWord.roundTrip rfl (packVX_word (by decide) a) fun h => decode_pageVX h rfl
  | vsplatVx vm vd rs1 =>
    refine VaWord.roundTrip rfl ⟨by decide, ?_⟩ decode_vsplatVx
    simp only [bit, reg, Bool.toNat_false, Bool.toNat_true, Fin.val_zero]
    omega
  | vaddVi a | vandVi a | vorVi a | vxorVi a | vsllVi a | vsrlVi a | vsraVi a | vsaddVi a | vsaddnVi a | vrsubVi a =>
    exact VaWord.roundTrip rfl (packVI_word (by decide) a) fun h => decode_pageVI h rfl
  | vsplatVi vm vd imm =>
    refine VaWord.roundTrip rfl ⟨by decide, ?_⟩ decode_vsplatVi
    simp only [bit, bits, reg, Bool.toNat_false, Bool.toNat_true, Fin.val_zero, BitVec.val_toFin]
    omega
  | vfaddVv a | vfsubVv a | vfmulVv a | vfdivVv a | vfminVv a | vfmaxVv a | vfmaccVv a | vfnmaccVv a | vfmsacVv a
  | vfnmsacVv a | vfsgnjVv a | vfsgnjnVv a | vfsgnjxVv a =>
    exact VaWord.roundTrip rfl (packVV_word (by decide) rfl a) fun h => decode_pageFVV h rfl
  | vfsqrt a | vfrece a | vfrsqe a | vfclass a =>
    exact VaWord.roundTrip rfl (packVU_word (by decide) a) fun h => decode_pageFU h rfl
  | vfaddVf a | vfsubVf a | vfmulVf a | vfdivVf a | vfminVf a | vfmaxVf a | vfmaccVf a | vfnmaccVf a | vfmsacVf a
  | vfnmsacVf a | vfsgnjVf a | vfsgnjnVf a | vfsgnjxVf a | vfrsubVf a | vfrdivVf a =>
    exact VaWord.roundTrip rfl (packVX_word (by decide) a) fun h => decode_pageFVF h rfl
  | vfsplat vm vd rs1 =>
    exact VaWord.roundTrip rfl ⟨by decide, by simp only [bit, reg, Bool.toNat_false, Fin.val_zero]; omega⟩ decode_vfsplat
  | vredsum a | vredmax a | vredmin a | vredmaxn a | vredminn a | vredand a | vredor a | vfredo a | vfredt a
  | vfredmax a | vfredmin a | vfredamax a =>
    exact VaWord.roundTrip rfl (packVV_word (by decide) rfl a) fun h => decode_pageRed h rfl
  | vmvxs c2 rd vs2 | vmvfs c2 rd vs2 =>
    exact VaWord.roundTrip rfl (move_word (by decide) rfl c2 rd vs2) fun h => decode_move h rfl
  | vfcvtfi a | vfcvtif a | vfwcvt a | vncvti a | vwcvti a =>
    exact VaWord.roundTrip rfl (packVU_word (by decide) a) fun h => decode_cvt h rfl
  | vfncvt a => exact VaWord.roundTrip rfl (packVUS_word (by decide) rfl a) decode_vfncvt
  | vqcvt a => exact VaWord.roundTrip rfl (packVXS_word (by decide) rfl a) decode_vqcvt
  | vdqcvt a => exact VaWord.roundTrip rfl (packVX_word (by decide) a) decode_vdqcvt
  | vmseqVv a | vmsneVv a | vmsltVv a | vmsltnVv a | vmsleVv a | vmslenVv a =>
    exact VaWord.roundTrip rfl (packKVV_word (by decide) rfl a) fun h => decode_pageKVV h rfl
  | vmseqVx a | vmsneVx a | vmsltVx a | vmsltnVx a | vmsleVx a | vmslenVx a =>
    exact VaWord.roundTrip rfl (packKVX_word (by decide) rfl a) fun h => decode_pageKVX h (by decide) rfl
  | vmseqVi a | vmsneVi a | vmsleVi a | vmslenVi a =>
    exact VaWord.roundTrip rfl (packKVI_word (by decide) rfl a) fun h => decode_pageKVI h rfl
  | vmfeqVv a | vmfneVv a | vmfltVv a | vmfleVv a | vmfordVv a =>
    exact VaWord.roundTrip rfl (packKVV_word (by decide) rfl a) fun h => decode_pageKFV h rfl
  | vmfeqVf a | vmfneVf a | vmfltVf a | vmfleVf a | vmfordVf a =>
    exact VaWord.roundTrip rfl (packKVX_word (by decide) rfl a) fun h => decode_pageKFF h (by decide) rfl
  | kand kd ks2 ks1 | kor kd ks2 ks1 | kxor kd ks2 ks1 | kandn kd ks2 ks1 =>
    exact VaWord.roundTrip rfl (mask2_word (by decide) rfl kd ks2 ks1) fun h => decode_mask2 h rfl
  | knot kd ks2 | kmov kd ks2 =>
    exact VaWord.roundTrip rfl (mask1_word (by decide) rfl kd ks2) fun h => decode_mask1 h rfl
  | kpop rd ks2 | kfirst rd ks2 =>
    exact VaWord.roundTrip rfl (maskX_word (by decide) rfl rd ks2) fun h => decode_maskX h rfl
  | vslideupVx a | vslidednVx a => exact VaWord.roundTrip rfl (packVX_word (by decide) a) fun h => decode_slideVx h rfl
  | vslideupVi a | vslidednVi a => exact VaWord.roundTrip rfl (packVI_word (by decide) a) fun h => decode_slideVi h rfl
  | vpermVv a => exact VaWord.roundTrip rfl (packVV_word (by decide) rfl a) decode_vpermVv
  | vcompress c2 vd vs2 ks1 | vexpand c2 vd vs2 ks1 =>
    exact VaWord.roundTrip rfl (pack_word (by decide) rfl c2 vd vs2 ks1) fun h => decode_pack h rfl
  | vmergeVv c2 c1 vd vs2 vs1 =>
    exact VaWord.roundTrip rfl ⟨by decide, by simp only [bit, reg, Bool.toNat_true]; omega⟩ decode_vmergeVv
  | vmergeVx c2 vd vs2 rs1 =>
    refine VaWord.roundTrip rfl ⟨by decide, ?_⟩ decode_vmergeVx
    simp only [bit, reg, Bool.toNat_false, Bool.toNat_true]
    omega
  | vmergeVi c2 vd vs2 imm =>
    refine VaWord.roundTrip rfl ⟨by decide, ?_⟩ decode_vmergeVi
    simp only [bit, bits, reg, Bool.toNat_false, Bool.toNat_true, BitVec.val_toFin]
    omega
  | vid vm vd =>
    exact VaWord.roundTrip rfl ⟨by decide, by simp only [bit, reg, Bool.toNat_false, Fin.val_zero]; omega⟩ decode_vid
  | vsetli rd rs1 lgreq vt => exact roundTrip_of_encode rfl (decodeTableWord_vsetli rd rs1 lgreq vt)
  | vsetl rd rs1 rs2 => exact RWord.roundTrip rfl (regs3_word (by decide) rd rs1 rs2) decode_vsetl
  | vrel | ljoin | bar | phend | wfe | gexit | yld | migControl | migVector | migArray | fenceTso | fenceI | ecall
  | ebreak =>
    exact roundTrip_of_encode rfl rfl
  | lfork vm => cases vm <;> exact roundTrip_of_encode rfl rfl
  | bkrd rd rs1 rs2 => exact RWord.roundTrip rfl (regs3_word (by decide) rd rs1 rs2) decode_bkrd
  | bkrsm rs1 => exact RWord.roundTrip rfl (source1_word (by decide) rs1) decode_bkrsm
  | ccmoveMove rd rs1 => exact RWord.roundTrip rfl (regs2_word (by decide) rd rs1) decode_ccmoveMove
  | frqpop rd rs1 => exact RWord.roundTrip rfl (regs2_word (by decide) rd rs1) decode_frqpop
  | latw rs1 rs2 => exact RWord.roundTrip rfl (sources_word (by decide) rs1 rs2) decode_latw
  | thrset rs1 rs2 => exact RWord.roundTrip rfl (sources_word (by decide) rs1 rs2) decode_thrset
  | vld a | vldff a | vldl a => exact VmWord.roundTrip rfl (packVM_word (by decide) a) fun h => decode_unitLoad h rfl
  | vst a | vstl a => exact VmWord.roundTrip rfl (packVMC_word (by decide) a) fun h => decode_unitStore h rfl
  | kld kd base | kst kd base =>
    exact VmWord.roundTrip rfl (based_word (by decide) (maskField kd) base) fun h => decode_maskMem h rfl
  | vlds a => exact VmWord.roundTrip rfl (packVM2_word (by decide) a) decode_vlds
  | vsts a | vldxO a | vstxO a | vldx a | vstx a =>
    exact VmWord.roundTrip rfl (packVM2C_word (by decide) a) fun h => decode_strided h rfl
  | qdef q rs1 | qwait q rs1 =>
    exact VmWord.roundTrip rfl (based_word (by decide) (handleField q) rs1) fun h => decode_handleReg h rfl
  | qbind r q | qavail r q => exact VmWord.roundTrip rfl (regHandle_word (by decide) r q) fun h => decode_regHandle h rfl
  | qunb vd => exact VmWord.roundTrip rfl (dest_word (by decide) vd) decode_qunb
  | qend q | qrst q => exact VmWord.roundTrip rfl (dest_word (by decide) (handleField q)) fun h => decode_handle h rfl
  | vamoadd a | vamomin a | vamomax a | vamominn a | vamomaxn a | vamoand a | vamoor a | vamoxor a | vamoswp a
  | vamocas a | vamofadd a =>
    exact VaWord.roundTrip rfl (packAmo_word (by decide) rfl rfl a) fun h => decode_pageAmo h rfl
  | laneFormAtomic op a =>
    exact VaWord.roundTrip rfl (laneFormAtomic_word op a) fun h => decode_pageAmo h (pageAmo_getD op)
  | vwaitEq a | vwaitNe a | vwaitLt a | vwaitGe a =>
    exact VaWord.roundTrip rfl (packWait_word (by decide) rfl a) fun h => decode_vwait h rfl
  | vgl a => exact VaWord.roundTrip rfl ⟨by decide, by simp only [packLink, bit, reg, Bool.toNat_false]; omega⟩ decode_vgl
  | vsc a => exact VaWord.roundTrip rfl ⟨by decide, by simp only [packLink, bit, reg, Bool.toNat_false]; omega⟩ decode_vsc
  | ordSv scope | ordVs scope | ordVv scope | ordAll scope =>
    exact RWord.roundTrip rfl (source2_word (by decide) (scope.castLE (by decide))) fun h => decode_ord h rfl
  | sev rs1 => exact RWord.roundTrip rfl (source1_word (by decide) rs1) decode_sev
  | send rs1 rs2 ch => exact RWord.roundTrip rfl (regs3_word (by decide) (handleField ch) rs1 rs2) decode_send
  | recv rd ch => exact RWord.roundTrip rfl (regs2_word (by decide) rd (handleField ch)) decode_recv
  | recvnb rd ch => exact RWord.roundTrip rfl (regs2_word (by decide) rd (handleField ch)) decode_recvnb
  | frz rd rs1 rs2 => exact RWord.roundTrip rfl (regs3_word (by decide) rd rs1 rs2) decode_frz
  | thaw rs1 ch => exact RWord.roundTrip rfl (regs2_word (by decide) (handleField ch) rs1) decode_thaw
  | thaww rs1 => exact RWord.roundTrip rfl (source1_word (by decide) rs1) decode_thaww
  | frzq rd rs1 | syscB rd rs1 | syscN rd rs1 =>
    exact RWord.roundTrip rfl (regs2_word (by decide) rd rs1) fun h => decode_syncRegs h rfl
  | mmr row slot base | mmrz row slot base =>
    exact LWord.roundTrip rfl (row_word (by decide) row slot base) fun h => decode_rowPage h rfl
  | mmrs row slot base rs3 =>
    refine LWord.roundTrip rfl (rowOps_word (by decide) ?_) decode_mmrs
    simp only [packL, reg, handleField, Fin.val_castLE, Fin.val_zero]
    omega
  | accrd vd rs1 row =>
    exact LWord.roundTrip rfl (rowOps_word (by decide) (by simp only [packL, reg, Fin.val_zero]; omega)) decode_accrd
  | accwr rs1 row vs2 =>
    exact LWord.roundTrip rfl (rowOps_word (by decide) (by simp only [packL, reg, Fin.val_zero]; omega)) decode_accwr
  | accz rs1 row n => exact LWord.roundTrip rfl (accz_word rs1 row n) decode_accz
  | wclr slot => exact LWord.roundTrip rfl (wclr_word slot) decode_wclr
  | wdesc rd slot => exact LWord.roundTrip rfl (slot_word (by decide) rd slot) decode_wdesc
  | cpt a | cpf a => exact LWord.roundTrip rfl (packCopy_word (by decide) a) fun h => decode_copy h rfl
  | cpgr a | cpsc a => exact LWord.roundTrip rfl (packCopyV_word (by decide) a) fun h => decode_copyV h rfl
  | cpw a slot => exact LWord.roundTrip rfl (cpw_word a slot) decode_cpw
  | lnch rd rs1 ch | cpost rd rs1 ch =>
    exact LWord.roundTrip rfl (submit_word (by decide) rd rs1 ch) fun h => decode_submit h rfl
  | fence fm pred succ rs1 rd => exact roundTrip_of_encode rfl (decodeTableWord_fence (by simpa [Instr.wf] using h))
  | quelanCsrAccess a =>
    exact roundTrip_of_encode rfl ((csr_word a).decodeTableWord
      ((decode_csr (csr_word a)).trans (congrArg _ (csrInstr_quelan h))))
  | vdirtyWrite a =>
    exact roundTrip_of_encode rfl ((csr_word a).decodeTableWord
      ((decode_csr (csr_word a)).trans (congrArg _ (csrInstr_dirty h))))
  | rv64ScalarInstruction form op => cases form with
    | full => exact roundTrip_of_encode rfl (decodeTableWord_of_fits32 (encodeScalar_fits op) (decode32_encodeScalar h))
    | compressed p =>
      simp only [Instr.wf, Form.wf, Bool.and_eq_true, bne_iff_ne, beq_iff_eq] at h
      exact roundTrip_of_encode rfl (decodeTableWord_of_expandC h.1 h.2)
  | _ => exact roundTrip_of_none rfl

/-- Settles O57: a well-formed instruction's words hold its fields, and the decoder reads every one of them. -/
theorem decodeEncode : Obligations.DecodeEncode :=
  fun i n w hwf he => roundTrip_of_wf i hwf n w he

/-- Settles O56: each word is the encoding of the instruction beside it, so it decodes to that instruction by O57. -/
theorem decodeWords : Obligations.DecodeWords :=
  ⟨decodeEncode (.vfmaccVv _) 32 _ rfl rfl, decodeEncode (.vmsltVx _) 32 _ rfl rfl, decodeEncode (.vlds _) 32 _ rfl rfl,
    decodeEncode (.recv _ _) 32 _ rfl rfl, decodeEncode (.cpt _) 64 _ rfl rfl, decodeEncode (.cpt _) 64 _ rfl rfl,
    decodeEncode (.vsaddnVx _) 32 _ rfl rfl, decodeEncode (.vsetli _ _ _ _) 32 _ rfl rfl,
    decodeEncode (.vamoadd _) 32 _ rfl rfl, decodeEncode (.vsc _) 32 _ rfl rfl, decodeEncode .bar 32 _ rfl rfl,
    decodeEncode .migArray 32 _ rfl rfl, decodeEncode (.syscB _ _) 32 _ rfl rfl, decodeEncode (.lnch _ _ _) 64 _ rfl rfl,
    decodeEncode (.frqpop _ _) 32 _ rfl rfl, decodeEncode (.mmrz _ _ _) 64 _ rfl rfl,
    decodeEncode (.cpw _ _) 64 _ rfl rfl, decodeEncode (.qdef _ _) 32 _ rfl rfl, decodeEncode (.accrd _ _ _) 64 _ rfl rfl⟩

end Sys2Proof.Machine
end

section
/-! PROOFS. The integer arithmetic of the scalar base as operations on bit vectors (R55): extensions, division and rotation at
any width, counts of bits, and bytes. -/

namespace Sys2Proof.Machine

/-! ### Extensions -/

theorem signedOf_toNat {n : Nat} (x : BitVec n) : signedOf n x.toNat = x.toInt := by
  unfold signedOf
  rw [BitVec.toInt_eq_toNat_cond, Nat.mod_eq_of_lt x.isLt]
  rcases n with - | n
  · simp [BitVec.of_length_zero]
  · rw [Nat.add_sub_cancel, Nat.pow_succ]
    refine if_congr ?_ rfl rfl
    omega

theorem ofNat_unsignedOf (n : Nat) (i : Int) : BitVec.ofNat n (unsignedOf n i) = BitVec.ofInt n i := by
  apply BitVec.eq_of_toNat_eq
  rw [BitVec.toNat_ofNat, BitVec.toNat_ofInt, unsignedOf, Nat.mod_eq_of_lt]
  exact (Int.toNat_lt' (by positivity)).2 (Int.emod_lt_of_pos i (by positivity))

/-- The low n bits of a register, extended by sign. -/
theorem signExt_eq {n : Nat} (hn : n ≠ 0) (w : Word) : signExt n w = (w.setWidth n).signExtend 64 := by
  rw [← BitVec.ofNat_toNat n w, signExtend_ofNat n _ hn]
  rfl

theorem signExt_ofNat (N : Nat) : signExt 32 (BitVec.ofNat 64 N) = (BitVec.ofNat 32 N).signExtend 64 := by
  rw [signExt_eq (by decide), BitVec.setWidth_ofNat_of_le (by decide)]

theorem zeroExt_eq (n : Nat) (w : Word) : zeroExt n w = (w.setWidth n).setWidth 64 := by
  apply BitVec.eq_of_toNat_eq
  rw [zeroExt, BitVec.toNat_setWidth, BitVec.toNat_setWidth, BitVec.toNat_ofNat]

/-! ### Division and rotation -/

section
variable {n : Nat} (x y : BitVec n)

theorem mod_two_pow_eq_zero : y.toNat % 2 ^ n = 0 ↔ y = 0 := by
  rw [Nat.mod_eq_of_lt y.isLt]
  exact ⟨fun h => BitVec.eq_of_toNat_eq h, fun h => h ▸ rfl⟩

theorem ofNat_divS : BitVec.ofNat n (divS n x.toNat y.toNat) = if y = 0 then BitVec.allOnes n else x.sdiv y := by
  unfold divS
  by_cases hy : y = 0
  · rw [if_pos ((mod_two_pow_eq_zero y).2 hy), if_pos hy]
    exact BitVec.eq_of_toNat_eq (by simp)
  · rw [if_neg (mt (mod_two_pow_eq_zero y).1 hy), if_neg hy, ofNat_unsignedOf, signedOf_toNat, signedOf_toNat]
    exact BitVec.eq_of_toInt_eq (by rw [BitVec.toInt_ofInt, BitVec.toInt_sdiv])

theorem ofNat_remS : BitVec.ofNat n (remS n x.toNat y.toNat) = if y = 0 then x else x.srem y := by
  unfold remS
  by_cases hy : y = 0
  · rw [if_pos ((mod_two_pow_eq_zero y).2 hy), if_pos hy, Nat.mod_eq_of_lt x.isLt, BitVec.ofNat_toNat, BitVec.setWidth_eq]
  · rw [if_neg (mt (mod_two_pow_eq_zero y).1 hy), if_neg hy, ofNat_unsignedOf, signedOf_toNat, signedOf_toNat,
      ← BitVec.toInt_srem, BitVec.ofInt_toInt]

theorem ofNat_divU : BitVec.ofNat n (divU n x.toNat y.toNat) = if y = 0 then BitVec.allOnes n else x.udiv y := by
  unfold divU
  by_cases hy : y = 0
  · rw [if_pos ((mod_two_pow_eq_zero y).2 hy), if_pos hy]
    exact BitVec.eq_of_toNat_eq (by simp)
  · rw [if_neg (mt (mod_two_pow_eq_zero y).1 hy), if_neg hy, Nat.mod_eq_of_lt x.isLt, Nat.mod_eq_of_lt y.isLt]
    exact (BitVec.ofNat_toNat n (x / y)).trans (BitVec.setWidth_eq _)

theorem ofNat_remU : BitVec.ofNat n (remU n x.toNat y.toNat) = if y = 0 then x else x.umod y := by
  unfold remU
  by_cases hy : y = 0
  · rw [if_pos ((mod_two_pow_eq_zero y).2 hy), if_pos hy, Nat.mod_eq_of_lt x.isLt, BitVec.ofNat_toNat, BitVec.setWidth_eq]
  · rw [if_neg (mt (mod_two_pow_eq_zero y).1 hy), if_neg hy, Nat.mod_eq_of_lt x.isLt, Nat.mod_eq_of_lt y.isLt]
    exact (BitVec.ofNat_toNat n (x % y)).trans (BitVec.setWidth_eq _)

/-- The two parts of a rotation take different bits. -/
theorem rotate_parts {n v j k : Nat} (hv : v < 2 ^ n) (hk : j + k = n) :
    (v * 2 ^ k + v / 2 ^ j) % 2 ^ n = v <<< k % 2 ^ n ||| v >>> j := by
  have hlow : v / 2 ^ j < 2 ^ k := Nat.div_lt_of_lt_mul (by rwa [← Nat.pow_add, hk])
  have hhigh : v * 2 ^ k % 2 ^ n = 2 ^ k * (v % 2 ^ j) := by
    rw [← hk, Nat.pow_add, Nat.mul_comm (2 ^ j), Nat.mul_comm v, Nat.mul_mod_mul_left]
  have hfits : 2 ^ k * (v % 2 ^ j) + v / 2 ^ j < 2 ^ n := by
    have hmod := Nat.mod_lt v (Nat.two_pow_pos j)
    calc 2 ^ k * (v % 2 ^ j) + v / 2 ^ j < 2 ^ k * (v % 2 ^ j + 1) := by rw [Nat.mul_succ]; omega
      _ ≤ 2 ^ k * 2 ^ j := Nat.mul_le_mul_left _ hmod
      _ = 2 ^ n := by rw [← Nat.pow_add, Nat.add_comm, hk]
  rw [Nat.shiftLeft_eq, Nat.shiftRight_eq_div_pow, hhigh, ← Nat.two_pow_add_eq_or_of_lt hlow, Nat.add_mod, hhigh,
    Nat.add_mod_mod, Nat.mod_eq_of_lt hfits]

theorem ofNat_rotl (hn : 0 < n) (k : Nat) : BitVec.ofNat n (rotl n x.toNat k) = x.rotateLeft k := by
  have hk := Nat.mod_lt k hn
  apply BitVec.eq_of_toNat_eq
  rw [BitVec.toNat_ofNat, rotl, Nat.mod_mod, rotate_parts x.isLt (by omega), BitVec.toNat_rotateLeft]

theorem ofNat_rotr (hn : 0 < n) (k : Nat) : BitVec.ofNat n (rotr n x.toNat k) = x.rotateRight k := by
  have hk := Nat.mod_lt k hn
  apply BitVec.eq_of_toNat_eq
  rw [BitVec.toNat_ofNat, rotr, Nat.mod_mod, Nat.add_comm, rotate_parts x.isLt (by omega), BitVec.toNat_rotateRight,
    Nat.or_comm]

end

/-! ### Bits counted -/

theorem leadZeros_eq {n : Nat} (hn : 0 < n) (v : Nat) : leadZeros v n = (BitVec.ofNat n v).clz.toNat := by
  generalize hx : BitVec.ofNat n v = x
  have hv : v % 2 ^ n = x.toNat := by rw [← hx, BitVec.toNat_ofNat]
  have hlt : n < 2 ^ n := Nat.lt_two_pow_self
  unfold leadZeros
  rw [hv]
  by_cases h0 : x = 0
  · rw [if_pos (by rw [h0]; rfl), BitVec.clz_eq_iff_eq_zero.2 h0]
    exact (Nat.mod_eq_of_lt hlt).symm
  · have hne : x.toNat ≠ 0 := fun h => h0 (BitVec.eq_of_toNat_eq h)
    have hclz : x.clz.toNat < n := by
      simpa [BitVec.lt_def, Nat.mod_eq_of_lt hlt] using BitVec.clz_lt_iff_ne_zero.2 h0
    have hlog : x.toNat.log2 = n - 1 - x.clz.toNat := by
      refine (Nat.log2_eq_iff hne).2 ⟨BitVec.two_pow_sub_clz_le_toNat_of_ne_zero hn h0, ?_⟩
      rw [show n - 1 - x.clz.toNat + 1 = n - x.clz.toNat by omega]
      exact BitVec.toNat_lt_two_pow_sub_clz
    rw [if_neg hne, hlog]
    omega

theorem trailZeros_eq (n v : Nat) : trailZeros v n = (BitVec.ofNat n v).ctz.toNat := by
  have hlt : n < 2 ^ n := Nat.lt_two_pow_self
  have hbit {i : Nat} (hi : i < n) : (BitVec.ofNat n v).getLsbD i = v.testBit i := by
    rw [BitVec.getLsbD_ofNat, decide_eq_true hi, Bool.true_and]
  unfold trailZeros
  by_cases h0 : BitVec.ofNat n v = 0
  · have hnone : (List.range n).find? (fun i => v.testBit i) = none := by
      refine List.find?_eq_none.2 fun i hi => ?_
      rw [← hbit (List.mem_range.1 hi), h0]
      simp
    rw [hnone, BitVec.ctz_eq_reverse_clz, BitVec.clz_eq_iff_eq_zero.2 (BitVec.reverse_eq_zero_iff.2 h0)]
    exact (Nat.mod_eq_of_lt hlt).symm
  · have hctz : (BitVec.ofNat n v).ctz.toNat < n := by
      simpa [BitVec.lt_def, Nat.mod_eq_of_lt hlt] using BitVec.ctz_lt_iff_ne_zero.2 h0
    have hsome : (List.range n).find? (fun i => v.testBit i) = some (BitVec.ofNat n v).ctz.toNat := by
      refine List.find?_range_eq_some.2 ⟨?_, List.mem_range.2 hctz, fun j hj => ?_⟩
      · rw [← hbit hctz]
        exact BitVec.getLsbD_true_ctz_of_ne_zero h0
      · rw [← hbit (hj.trans hctz), BitVec.getLsbD_false_of_lt_ctz hj]
        rfl
    rw [hsome]
    rfl

theorem popBits_eq (n v : Nat) : popBits v n = (BitVec.ofNat n v).cpop.toNat := by
  have upto (m : Nat) (hm : m ≤ n) : popBits v m = (BitVec.ofNat n v).cpopNatRec m 0 := by
    induction m with
    | zero => rfl
    | succ m ih =>
      have hstep : popBits v (m + 1) = popBits v m + (v.testBit m).toNat := by
        unfold popBits
        rw [List.range_succ, List.filter_append, List.length_append]
        cases h : v.testBit m <;> simp [h]
      have hbit : (BitVec.ofNat n v).getLsbD m = v.testBit m := by
        rw [BitVec.getLsbD_ofNat, decide_eq_true (Nat.lt_of_succ_le hm), Bool.true_and]
      rw [hstep, ih (Nat.le_of_succ_le hm), BitVec.cpopNatRec_succ, BitVec.cpopNatRec_eq (0 + _), hbit, Nat.zero_add]
  rw [upto n le_rfl, BitVec.toNat_cpop]

/-! ### Bytes -/

theorem extract_leNat {bs : List Byte} {i : Nat} (hi : i < 8) :
    (BitVec.ofNat 64 (leNat bs)).extractLsb' (8 * i) 8 = bs.getD i 0 := by
  refine BitVec.eq_of_getLsbD_eq fun j hj => ?_
  rw [BitVec.getLsbD_extractLsb', BitVec.getLsbD_ofNat, leNat_testBit, decide_eq_true hj,
    decide_eq_true (show 8 * i + j < 64 by omega), show (8 * i + j) / 8 = i by omega, show (8 * i + j) % 8 = j by omega,
    Bool.true_and, Bool.true_and]

theorem getD_leBytes_word (a : Word) {i : Nat} (hi : i < 8) : (leBytes 8 a.toNat).getD i 0 = a.extractLsb' (8 * i) 8 := by
  rw [← extract_leNat hi, leNat_leBytes, Nat.mod_eq_of_lt a.isLt, BitVec.ofNat_toNat, BitVec.setWidth_eq]

/-! ### The operations (R55) -/

/-- The upper half of a product. -/
theorem extract_ofInt (i : Int) : (BitVec.ofInt 128 i).extractLsb' 64 64 = BitVec.ofInt 64 (i / (2 ^ 64 : Nat)) := by
  apply BitVec.eq_of_toNat_eq
  rw [BitVec.extractLsb'_toNat, BitVec.toNat_ofInt, BitVec.toNat_ofInt, Nat.shiftRight_eq_div_pow]
  omega

theorem setWidth_eq_ofInt (a : Word) : a.setWidth 128 = BitVec.ofInt 128 a.toNat := by
  rw [BitVec.ofInt_natCast, BitVec.ofNat_toNat]

theorem bit_eq (a : Word) (k : Nat) : (a >>> k) &&& 1 = if a.getLsbD k then 1 else 0 := by
  have hbit : (a >>> k).getLsbD 0 = a.getLsbD k := by simp
  refine (BitVec.and_one_eq_setWidth_ofBool_getLsbD (x := a >>> k)).trans ?_
  rw [hbit]
  cases a.getLsbD k <;> rfl

theorem bitOf_eq (p : Prop) [Decidable p] : bitOf (decide p) = if p then 1 else 0 := by
  by_cases h : p <;> simp [bitOf, h]

theorem alu_eq (op : AluOp) (a b : Word) : alu op a b = aluSpec op a b := by
  cases op with
  | add | sub | sll | xor | srl | sra | or | and | mul | andn | orn | xnor | bclr | binv | bset | czeroEqz => rfl
  | slt => exact bitOf_eq _
  | sltu => exact bitOf_eq _
  | mulh =>
    show BitVec.ofInt 64 _ = (BitVec.ofInt 128 a.toInt * BitVec.ofInt 128 b.toInt).extractLsb' 64 64
    rw [← BitVec.ofInt_mul, extract_ofInt]
  | mulhsu =>
    show BitVec.ofInt 64 _ = (BitVec.ofInt 128 a.toInt * b.setWidth 128).extractLsb' 64 64
    rw [setWidth_eq_ofInt, ← BitVec.ofInt_mul, extract_ofInt]
  | mulhu =>
    show BitVec.ofNat 64 _ = (a.setWidth 128 * b.setWidth 128).extractLsb' 64 64
    rw [setWidth_eq_ofInt, setWidth_eq_ofInt, ← BitVec.ofInt_mul, extract_ofInt]
    exact (BitVec.ofInt_natCast 64 _).symm
  | div => exact ofNat_divS a b
  | divu => exact ofNat_divU a b
  | rem => exact ofNat_remS a b
  | remu => exact ofNat_remU a b
  | sh1add | sh2add | sh3add => exact congrArg (· + b) (by rw [BitVec.shiftLeft_eq_mul_twoPow, BitVec.mul_comm]; rfl)
  | addUw => exact congrArg (· + b) (zeroExt_eq _ a)
  | sh1addUw | sh2addUw | sh3addUw =>
    exact congrArg (· + b) (by rw [zeroExt_eq _, BitVec.shiftLeft_eq_mul_twoPow, BitVec.mul_comm]; rfl)
  | max | maxu | min | minu => simp only [alu, aluSpec, BitVec.slt, BitVec.ult, decide_eq_true_eq]
  | rol => exact ofNat_rotl a (by decide) _
  | ror => exact ofNat_rotr a (by decide) _
  | bext => exact bit_eq a _
  | czeroNez => simp only [alu, aluSpec, ne_eq, ite_not]

theorem ofNat_sra (x : BitVec 32) (k : Nat) :
    BitVec.ofNat 32 (unsignedOf 32 (signedOf 32 x.toNat / (2 ^ k : Nat))) = x.sshiftRight k := by
  rw [ofNat_unsignedOf, signedOf_toNat, BitVec.sshiftRight, Int.shiftRight_eq_div_pow]

theorem aluW_eq (op : AluWOp) (a b : Word) :
    aluW op a b = (aluWSpec op (a.setWidth 32) (b.setWidth 32)).signExtend 64 := by
  have hx : a.toNat % 2 ^ 32 = (a.setWidth 32).toNat := (BitVec.toNat_setWidth ..).symm
  have hy : b.toNat % 2 ^ 32 = (b.setWidth 32).toNat := (BitVec.toNat_setWidth ..).symm
  have hsh : b.toNat % 32 = (b.setWidth 32).toNat % 32 := by omega
  unfold aluW
  rw [signExt_ofNat, hx, hy, hsh]
  generalize a.setWidth 32 = x, b.setWidth 32 = y
  refine congrArg _ ?_
  cases op with
  | addw | mulw => rfl
  | subw => exact congrArg (BitVec.ofNat 32) (show x.toNat + 2 ^ 32 - y.toNat = 2 ^ 32 - y.toNat + x.toNat by omega)
  | sllw => exact BitVec.eq_of_toNat_eq (by simp [aluWSpec, Nat.shiftLeft_eq])
  | srlw =>
    apply BitVec.eq_of_toNat_eq
    rw [BitVec.toNat_ofNat, aluWSpec, BitVec.toNat_ushiftRight, Nat.shiftRight_eq_div_pow]
    exact Nat.mod_eq_of_lt ((Nat.div_le_self _ _).trans_lt x.isLt)
  | sraw => exact ofNat_sra x _
  | divw => exact ofNat_divS x y
  | divuw => exact ofNat_divU x y
  | remw => exact ofNat_remS x y
  | remuw => exact ofNat_remU x y
  | rolw => exact ofNat_rotl x (by decide) _
  | rorw => exact ofNat_rotr x (by decide) _

theorem aluI_eq (op : AluIOp) (a : Word) (imm : BitVec 12) : aluI op a imm = aluISpec op a (imm.signExtend 64) := by
  cases op with
  | addi | xori | ori | andi => rfl
  | slti => exact bitOf_eq _
  | sltiu => exact bitOf_eq _
  | addiw => exact signExt_eq (by decide) _

theorem shiftI_eq (op : ShIOp) (a : Word) (sh : BitVec 6) : shiftI op a sh = shISpec op a sh.toNat := by
  have hsh : (BitVec.ofNat 64 sh.toNat).toNat % 64 = sh.toNat := by simp; omega
  cases op with
  | slliUw => simp only [shiftI, shISpec, zeroExt_eq]
  | _ => simp only [shiftI, alu_eq, aluSpec, shISpec, hsh]

theorem shiftIW_eq (op : ShIWOp) (a : Word) (sh : BitVec 5) :
    shiftIW op a sh = (shIWSpec op (a.setWidth 32) sh.toNat).signExtend 64 := by
  have hsh : ((BitVec.ofNat 64 sh.toNat).setWidth 32).toNat % 32 = sh.toNat := by simp; omega
  cases op with
  | _ => simp only [shiftIW, aluW_eq, aluWSpec, shIWSpec, hsh]

theorem unary_spec (op : UnOp) (a : Word) : UnSpec op a (unary op a) := by
  have hword : BitVec.ofNat 64 a.toNat = a := (BitVec.ofNat_toNat 64 a).trans (BitVec.setWidth_eq a)
  have hlow : BitVec.ofNat 32 a.toNat = a.setWidth 32 := BitVec.ofNat_toNat 32 a
  cases op with
  | clz => show BitVec.ofNat 64 _ = _; rw [leadZeros_eq (by decide), hword, BitVec.ofNat_toNat, BitVec.setWidth_eq]
  | ctz => show BitVec.ofNat 64 _ = _; rw [trailZeros_eq, hword, BitVec.ofNat_toNat, BitVec.setWidth_eq]
  | cpop => show BitVec.ofNat 64 _ = _; rw [popBits_eq, hword, BitVec.ofNat_toNat, BitVec.setWidth_eq]
  | clzw => show BitVec.ofNat 64 _ = _; rw [leadZeros_eq (by decide), hlow, BitVec.ofNat_toNat]
  | ctzw => show BitVec.ofNat 64 _ = _; rw [trailZeros_eq, hlow, BitVec.ofNat_toNat]
  | cpopw => show BitVec.ofNat 64 _ = _; rw [popBits_eq, hlow, BitVec.ofNat_toNat]
  | sextB => exact signExt_eq (by decide) a
  | sextH => exact signExt_eq (by decide) a
  | zextH => exact zeroExt_eq _ a
  | orcB =>
    intro i hi
    rw [← getD_leBytes_word a hi]
    refine (extract_leNat hi).trans ?_
    simp [List.getD_eq_getElem?_getD, length_leBytes, hi]
  | rev8 =>
    intro i hi
    rw [show 56 - 8 * i = 8 * (7 - i) by omega, ← getD_leBytes_word a (show 7 - i < 8 by omega)]
    refine (extract_leNat hi).trans ?_
    rw [List.getD_eq_getElem?_getD, List.getElem?_reverse (by rwa [length_leBytes]), length_leBytes,
      ← List.getD_eq_getElem?_getD]

/-- The replies do not move the running thread. -/
theorem State.delivered_getPc (s : State) : s.delivered.cur.getPc = s.cur.getPc := by
  obtain ⟨x, f, h⟩ := s.cur.replyAll_eq
  show s.cur.replyAll.getPc = _
  rw [h]
  rfl

/-- Settles O31: the machine's results are those of `aluSpec` and its kind, operation by operation. -/
theorem scalarArithmetic : Obligations.ScalarArithmetic := by
  intro f rd rs1 rs2 s a b
  refine ⟨fun op hi => ?_, fun op hi => ?_, fun op imm hi => ?_, fun op sh hi => ?_, fun op sh hi => ?_, fun op hi => ?_,
    fun imm hi => ⟨?_, ?_⟩⟩
  · rw [← alu_eq]
    exact exec_scalar hi rfl id rfl rfl
  · rw [← aluW_eq]
    exact exec_scalar hi rfl (fun _ => rfl) rfl rfl
  · rw [← aluI_eq]
    exact exec_scalar hi rfl (fun _ => rfl) rfl rfl
  · rw [← shiftI_eq]
    exact exec_scalar hi rfl (fun _ => rfl) rfl rfl
  · rw [← shiftIW_eq]
    exact exec_scalar hi rfl (fun _ => rfl) rfl rfl
  · exact ⟨_, unary_spec op a, exec_scalar hi rfl (fun _ => rfl) rfl rfl⟩
  · exact exec_scalar hi rfl (fun _ => rfl) rfl rfl
  · rw [← s.delivered_getPc]
    exact exec_scalar hi rfl (fun _ => rfl) rfl rfl

end Sys2Proof.Machine
end

section
/-! PROOFS. Jumps and branches of the scalar base (R55). -/

namespace Sys2Proof.Machine

theorem branchTaken_iff (op : BrOp) (a b : Word) : branchTaken op a b = true ↔ takenSpec op a b := by
  cases op with
  | beq => exact beq_iff_eq
  | bne => exact bne_iff_ne
  | blt => exact BitVec.slt_iff_toInt_lt
  | bltu => exact BitVec.ult_iff_lt
  | bge => simp [branchTaken, takenSpec, BitVec.slt]
  | bgeu => simp [branchTaken, takenSpec, BitVec.ult]

/-- Settles O32: the effect of each form, with the pc as it was before replies were delivered. -/
theorem jumpsAndBranches : Obligations.JumpsAndBranches := by
  intro f s hi d back jump
  have hpc : s.cur.getPc = d.cur.getPc := s.delivered_getPc.symm
  have hback : back = d.cur.getPc + BitVec.ofNat 64 (bytesOf f) := congrArg (· + _) hpc
  have issued {op : Scalar} {s' : State} (hcs : scalarClasses op = anyCls) (hl : scalarInLane op = true)
      (hp : s.privOk op = true) (h : d.rvEffect (bytesOf f) op = .ok s') :
      exec (.rv64ScalarInstruction f op) s = .next s' := exec_scalar hi hcs (fun _ => hl) hp h
  refine ⟨fun rd off => ?_, fun rd rs1 imm => ?_, fun op rs1 rs2 off => ⟨fun ht => ?_, fun ht => ?_⟩⟩
  · refine issued rfl rfl rfl ?_
    rw [hback, hpc]
    rfl
  · refine issued rfl rfl rfl ?_
    rw [hback]
    rfl
  · refine issued rfl rfl rfl (congrArg Except.ok (congrArg (fun t => { d with cur := t }) ?_))
    rw [hpc]
    exact if_pos ((branchTaken_iff op _ _).2 ht)
  · refine issued rfl rfl rfl (congrArg Except.ok (congrArg (fun t => { d with cur := t }) ?_))
    exact if_neg (mt (branchTaken_iff op _ _).1 ht)

end Sys2Proof.Machine
end

section
/-! PROOFS. LR, SC and AMO (R56, R188): what an atomic access asks of its operation, the order that aq and rl give, and each
form's effect. -/

namespace Sys2Proof.Machine

/-! ### The value an atomic access reads -/

theorem State.length_readPhys (s : State) (p : Phys) (n : Nat) : (s.readPhys p n).length = n := by
  unfold State.readPhys
  split
  · rw [List.length_map, List.length_range]
  · exact Mem.length_read _ _ _

theorem State.leNat_readPhys_lt (s : State) (p : Phys) (n : Nat) : leNat (s.readPhys p n) < 2 ^ (8 * n) := by
  simpa only [State.length_readPhys] using leNat_lt (s.readPhys p n)

/-- The pieces of a Bare access are of as many bytes as it asks for. -/
theorem State.length_barePlaces {s : State} {a n : Nat} {ps : List (Phys × Nat)} (h : s.barePlaces a n = some ps) :
    (ps.flatMap fun p => s.readPhys p.1 p.2).length = n := by
  unfold State.barePlaces at h
  dsimp only at h
  split at h
  · cases h
  · split at h
    · cases h
    · split at h
      · cases h
        simp [State.length_readPhys]
      · split at h
        · cases h
          simp only [List.flatMap_cons, List.flatMap_nil, List.length_append, State.length_readPhys, List.length_nil]
          omega
        · cases h

/-- A block answers no more than the bytes asked for. -/
theorem State.blockRead_lt (s : State) (via : Via) (off : Nat) {n : Nat} (hn : n = 4 ∨ n = 8) :
    (s.blockRead via off n).1.toNat < 2 ^ (8 * n) := by
  rcases hn with rfl | rfl
  · unfold State.blockRead
    split
    · exact Nat.two_pow_pos _
    · split
      · simp only [BitVec.toNat_ofNat, reduceIte, Nat.reduceEqDiff]
        omega
      · exact Nat.two_pow_pos _
  · exact (s.blockRead via off 8).1.isLt

/-- Only what an operation gives for numbers of the access's bytes matters. -/
theorem State.atomic_congr (s : State) (a : Word) {n : Nat} (hn : n = 4 ∨ n = 8) {f g : Nat → Option Nat}
    (h : ∀ old, old < 2 ^ (8 * n) → f old = g old) : s.atomic a n f = s.atomic a n g := by
  unfold State.atomic
  split
  · unfold State.bareAtomic
    split
    · simp only [State.blockAtomic, h _ (s.blockRead_lt s.via (a.toNat - blockBase) hn)]
    · split
      · rfl
      · next ps hps =>
        have hold : leNat (ps.flatMap fun p => s.readPhys p.1 p.2) < 2 ^ (8 * n) := by
          simpa only [State.length_barePlaces hps] using leNat_lt (ps.flatMap fun p => s.readPhys p.1 p.2)
        simp only [h _ hold]
  · unfold State.atomicMem
    simp only [h _ (State.leNat_readPhys_lt _ _ n)]

/-! ### Operations of the AMOs -/

/-- What an AMO stores, over bit vectors of the access's width. -/
def amoValue (op : AmoOp) {w : Nat} (o y : BitVec w) : BitVec w :=
  match op with
  | .swap => y
  | .add => o + y
  | .xor => o ^^^ y
  | .and => o &&& y
  | .or => o ||| y
  | .min => if y.slt o then y else o
  | .max => if o.slt y then y else o
  | .minu => if y.ult o then y else o
  | .maxu => if o.ult y then y else o

theorem amoNew_toNat (op : AmoOp) {n : Nat} (o y : BitVec (8 * n)) : amoNew op n o.toNat y.toNat = (amoValue op o y).toNat := by
  cases op with
  | swap => rfl
  | add => exact (BitVec.toNat_add o y).symm
  | xor => exact (BitVec.toNat_xor o y).symm
  | and => exact (BitVec.toNat_and o y).symm
  | or => exact (BitVec.toNat_or o y).symm
  | min | max => simp only [amoNew, amoValue, signedOf_toNat, BitVec.slt_iff_toInt_lt, apply_ite BitVec.toNat]
  | minu | maxu =>
    simp only [amoNew, amoValue, BitVec.ult_iff_lt, BitVec.lt_def, apply_ite BitVec.toNat]
    split <;> omega

theorem amoNew_of_lt (op : AmoOp) {n old y : Nat} (ho : old < 2 ^ (8 * n)) (hy : y < 2 ^ (8 * n)) :
    amoNew op n old y = (amoValue op (BitVec.ofNat (8 * n) old) (BitVec.ofNat (8 * n) y)).toNat := by
  rw [← amoNew_toNat, BitVec.toNat_ofNat, BitVec.toNat_ofNat, Nat.mod_eq_of_lt ho, Nat.mod_eq_of_lt hy]

/-! ### Order, and the effects -/

theorem misaligned_ok {a : Word} {n : Nat} (h : a.toNat % n = 0) (acc : Nat) (s : State) : misaligned a n acc s = .ok () := by
  unfold misaligned
  rw [h]
  rfl

/-- The machine as aq and rl leave it: with either, the scalar agent's buffers flushed. -/
def State.ordered (s : State) (aq rl : Bool) : State := if aq || rl then s.flushCur true false else s

theorem State.orderS_ok {s : State} {aq rl : Bool} (h : rl = true → ¬StandsBy (s.ordered aq rl) true false) :
    s.orderS aq rl = .ok (s.ordered aq rl) := by
  unfold State.ordered at *
  cases rl with
  | true =>
    rw [Bool.or_true, if_pos rfl] at h ⊢
    exact State.releaseCur_ok (h rfl)
  | false => rw [Bool.or_false]; rfl

theorem State.orderS_waits {s : State} {aq : Bool} (h : StandsBy (s.ordered aq true) true false) :
    s.orderS aq true = .error (.wait .fence, s.ordered aq true) := by
  unfold State.ordered at *
  rw [Bool.or_true, if_pos rfl] at h ⊢
  exact State.releaseCur_waits h

section
variable {s s0 s1 : State} {dbl aq rl : Bool} {rd rs1 rs2 : Reg} {gr : Space × Nat} {x : Nat}
  (ha : (s.cur.getX rs1).toNat % sizeOf dbl = 0)
include ha

theorem State.lrOp_error {e : Exc × State} (ho : s.orderS aq rl = .error e) : s.lrOp dbl aq rl rd rs1 = .error e := by
  unfold State.lrOp
  dsimp only
  rw [misaligned_ok ha, Res.bind_ok, ho]
  rfl

theorem State.scOp_error {e : Exc × State} (ho : s.orderS aq rl = .error e) : s.scOp dbl aq rl rd rs1 rs2 = .error e := by
  unfold State.scOp
  dsimp only
  rw [misaligned_ok ha, Res.bind_ok, ho]
  rfl

theorem State.amoOp_error {e : Exc × State} {op : AmoOp} (ho : s.orderS aq rl = .error e) :
    s.amoOp op dbl aq rl rd rs1 rs2 = .error e := by
  unfold State.amoOp
  dsimp only
  rw [misaligned_ok ha, Res.bind_ok, ho]
  rfl

theorem State.lrOp_ok (ho : s.orderS aq rl = .ok s0) (hg : s0.granule (s.cur.getX rs1) (sizeOf dbl) .load = .ok gr)
    (hl : s0.load (s.cur.getX rs1) (sizeOf dbl) = .ok (x, s1)) :
    s.lrOp dbl aq rl rd rs1 = .ok (s1.onCur fun t => { t.putX rd (sextN (sizeOf dbl) x) with lrRes := some gr }) := by
  unfold State.lrOp
  dsimp only
  rw [misaligned_ok ha, Res.bind_ok, ho, Res.bind_ok, hg]
  show (lift s (s0.load _ _) >>= _) = _
  rw [hl]
  rfl

theorem State.scOp_ok (ho : s.orderS aq rl = .ok s0) (hg : s0.granule (s.cur.getX rs1) (sizeOf dbl) .atomic = .ok gr)
    {hit : Bool} (hh : (s0.cur.lrRes == some gr) = hit)
    (hl : s0.atomic (s.cur.getX rs1) (sizeOf dbl)
      (fun _ => if hit then some ((s.cur.getX rs2).toNat % 2 ^ (8 * sizeOf dbl)) else none) = .ok (x, s1)) :
    s.scOp dbl aq rl rd rs1 rs2 = .ok (s1.onCur fun t => { t.putX rd (if hit then 0 else 1) with lrRes := none }) := by
  unfold State.scOp
  dsimp only
  rw [misaligned_ok ha, Res.bind_ok, ho, Res.bind_ok, hg]
  show (lift s (s0.atomic _ _ _) >>= _) = _
  rw [hh, hl]
  rfl

theorem State.amoOp_ok {op : AmoOp} (ho : s.orderS aq rl = .ok s0)
    (hl : s0.atomic (s.cur.getX rs1) (sizeOf dbl)
      (fun old => some (amoNew op (sizeOf dbl) old ((s.cur.getX rs2).toNat % 2 ^ (8 * sizeOf dbl)))) = .ok (x, s1)) :
    s.amoOp op dbl aq rl rd rs1 rs2 = .ok (s1.onCur fun t => t.putX rd (sextN (sizeOf dbl) x)) := by
  unfold State.amoOp
  dsimp only
  rw [misaligned_ok ha, Res.bind_ok, ho, Res.bind_ok, hl]
  rfl

end

/-- A scalar instruction that any mode may execute ends, once issued, as its effect does. -/
theorem exec_scalar_eq {cs : List Cls} {inLane : Bool} {f : Form} {op : Scalar} {s : State} (hi : ScalarIssue s cs inLane)
    (hcs : scalarClasses op = cs) (hl : inLane = true → scalarInLane op = true) (hp : s.privOk op = true) :
    exec (.rv64ScalarInstruction f op) s = finish (s.delivered.rvEffect (bytesOf f) op) := by
  obtain ⟨hcls, hfork⟩ := hi
  have hlane : (s.cur.fork.isNone || scalarInLane op) = true := by
    rcases hfork with hn | hl'
    · simp [hn]
    · simp [hl hl']
  have hmem : (scalarClasses op).contains s.cur.cls = true := by simpa [hcs] using hcls
  show finish (s.rvOp f op) = _
  unfold State.rvOp
  rw [hlane, hp, hmem, formBytes_eq]
  rfl

theorem sizeOf_cases (dbl : Bool) : sizeOf dbl = 4 ∨ sizeOf dbl = 8 := by cases dbl <;> simp [sizeOf]

theorem sextN_eq (dbl : Bool) (x : Nat) : sextN (sizeOf dbl) x = (BitVec.ofNat (8 * sizeOf dbl) x).signExtend 64 :=
  (signExtend_ofNat _ x (by cases dbl <;> decide)).symm

/-- Settles O34: the order taken first, then each form's access as the claim names it. -/
theorem scalarAtomics : Obligations.ScalarAtomics := by
  intro f dbl aq rl rd rs1 rs2 s hi n d a y sx ha
  have done {op : Scalar} {s' : State} (hcs : scalarClasses op = [.control, .vector]) (hp : s.privOk op = true)
      (h : s.delivered.rvEffect (bytesOf f) op = .ok s') : exec (.rv64ScalarInstruction f op) s = .next s' :=
    exec_scalar hi hcs (fun h => nomatch h) hp h
  have hn : n = 4 ∨ n = 8 := sizeOf_cases dbl
  have hy : y < 2 ^ (8 * n) := Nat.mod_lt _ (Nat.two_pow_pos _)
  refine ⟨fun hr hw i hmem => ?_, fun hw => ⟨fun gr x s1 hg hl => ?_, fun gr x s1 hg hres hl => ?_,
    fun gr x s1 hg hres hl => ?_, fun op x s1 hl => ?_⟩⟩
  · subst hr
    have ho : s.delivered.orderS aq true = .error (.wait .fence, d) := State.orderS_waits hw
    have waits {op : Scalar} (hcs : scalarClasses op = [.control, .vector]) (hp : s.privOk op = true)
        (h : s.delivered.rvEffect (bytesOf f) op = .error (.wait .fence, d)) :
        Waits (.rv64ScalarInstruction f op) s d .fence :=
      (exec_scalar_eq hi hcs (fun h => nomatch h) hp).trans (congrArg finish h)
    rcases List.mem_append.1 hmem with hmem | hmem
    · rcases List.mem_pair.1 hmem with rfl | rfl
      · exact waits rfl rfl (congrArg (Except.map _) (State.lrOp_error ha ho))
      · exact waits rfl rfl (congrArg (Except.map _) (State.scOp_error ha ho))
    · obtain ⟨op, -, rfl⟩ := List.mem_map.1 hmem
      exact waits rfl rfl (congrArg (Except.map _) (State.amoOp_error ha ho))
  all_goals have ho : s.delivered.orderS aq rl = .ok d := State.orderS_ok hw
  · have hlr := State.lrOp_ok (rd := rd) ha ho hg hl
    rw [sextN_eq] at hlr
    exact done rfl rfl (congrArg (Except.map _) hlr)
  · exact done rfl rfl (congrArg (Except.map _) (State.scOp_ok ha ho hg (hit := true) (beq_iff_eq.2 hres) hl))
  · exact done rfl rfl (congrArg (Except.map _) (State.scOp_ok ha ho hg (hit := false) (beq_eq_false_iff_ne.2 hres) hl))
  · have hnew : d.atomic a n (fun old => some (amoNew op n old y)) = .ok (x, s1) := by
      rw [d.atomic_congr a hn fun old ho => congrArg some (amoNew_of_lt op ho hy)]
      cases op <;> exact hl
    have hamo := State.amoOp_ok (rd := rd) ha ho hnew
    rw [sextN_eq] at hamo
    exact done rfl rfl (congrArg (Except.map _) hamo)

end Sys2Proof.Machine
end

section
/-! PROOFS. The scalar F and D extensions (R55, R57): operands and NaN boxes, sign injection, and how each form ends. -/

namespace Sys2Proof.Machine

open Laws.EncodeFits (fld_lt)

/-! ### Operands -/

theorem Strand.fpArg_eq_getF : Strand.fpArg = Strand.getF := by
  funext t dbl r
  cases dbl with
  | true => rfl
  | false =>
    have hbox : fld (t.f[r]).toNat 32 32 = 2 ^ 32 - 1 ↔ (t.f[r]).extractLsb' 32 32 = BitVec.allOnes 32 := by
      rw [← BitVec.toNat_inj, BitVec.extractLsb'_toNat, BitVec.toNat_allOnes, Nat.shiftRight_eq_div_pow, fld]
    have hlow : fld (t.f[r]).toNat 0 32 = ((t.f[r]).extractLsb' 0 32).toNat := by
      rw [BitVec.extractLsb'_toNat, Nat.shiftRight_zero, fld, Nat.pow_zero, Nat.div_one]
    have hnan : fp32.nanBits = 0x7FC00000 := by decide
    show _ = if fld (t.f[r]).toNat 32 32 = 2 ^ 32 - 1 then fld (t.f[r]).toNat 0 32 else fp32.nanBits
    rw [hlow, hnan, Strand.fpArg, if_neg Bool.false_ne_true]
    exact if_congr hbox.symm rfl rfl

/-- An operand is a pattern of its format. -/
theorem Strand.getF_lt (t : Strand) (dbl : Bool) (r : Reg) : t.getF dbl r < 2 * (sfmt dbl).signBit := by
  cases dbl with
  | true => exact (t.f[r]).isLt
  | false =>
    have hlow : fld (t.f[r]).toNat 0 32 < 2 ^ 32 := fld_lt _ _ _
    show (if fld (t.f[r]).toNat 32 32 = 2 ^ 32 - 1 then fld (t.f[r]).toNat 0 32 else fp32.nanBits) < 2 ^ 32
    split
    · exact hlow
    · decide

/-! ### Sign injection -/

theorem sign_eq {f : Fmt} {b : Nat} (hb : b < 2 * f.signBit) : b / f.signBit % 2 = (f.negative b).toNat := by
  by_cases h : f.signBit ≤ b
  · rw [Nat.div_eq_of_lt_le (k := 1) (by omega) (by omega), Fmt.negative, decide_eq_true h]
    rfl
  · rw [Nat.div_eq_of_lt (Nat.lt_of_not_le h), Fmt.negative, decide_eq_false h]
    rfl

theorem withSign_eq (f : Fmt) (a : Nat) (neg : Bool) : f.withSign a neg = a % f.signBit + neg.toNat * f.signBit := by
  cases neg <;> simp [Fmt.withSign]

/-- The sign that an injection gives. -/
def injected (op : SgnOp) (a b : Bool) : Bool :=
  match op with
  | .sgnj => b
  | .sgnjn => !b
  | .sgnjx => a != b

theorem fsgn_eq (op : SgnOp) {f : Fmt} {a b : Nat} (ha : a < 2 * f.signBit) (hb : b < 2 * f.signBit) :
    fsgn op f a b = f.withSign a (injected op (f.negative a) (f.negative b)) := by
  have hxor : (a / f.signBit + b / f.signBit % 2) % 2 = ((f.negative a).toNat + (f.negative b).toNat) % 2 := by
    rw [← sign_eq ha, ← sign_eq hb]
    omega
  rw [withSign_eq]
  unfold fsgn
  dsimp only
  rw [hxor, sign_eq hb]
  cases op <;> cases f.negative a <;> cases f.negative b <;> rfl

/-! ### How the forms end -/

theorem State.delivered_fflags (s : State) : s.delivered.cur.fflags = s.cur.fflags := by
  obtain ⟨x, f, h⟩ := s.cur.replyAll_eq
  show s.cur.replyAll.fflags = _
  rw [h]

theorem State.delivered_frm (s : State) : s.delivered.cur.frm = s.cur.frm := by
  obtain ⟨x, f, h⟩ := s.cur.replyAll_eq
  show s.cur.replyAll.frm = _
  rw [h]

theorem State.fpRounded_ok {s : State} {rm : Fin 8} {r : Round} (h : FpRounds s.cur rm r) (g : Strand → Round → Strand) :
    s.delivered.fpRounded rm g = .ok (s.delivered.onCur fun t => g t r) := by
  obtain ⟨m, hm, rfl⟩ := h
  unfold State.fpRounded Strand.fround
  rw [s.delivered_frm, hm]
  rfl

section
variable {f : Form} {s : State} {op : Scalar} {dbl : Bool} {rd : Reg} (hi : ScalarIssue s [.control, .vector] false)
  (hcs : scalarClasses op = [.control, .vector]) (hp : s.privOk op = true)
include hi hcs hp

/-- A form that changes the strand's registers and moves on. -/
theorem exec_fp {g : Strand → Strand} {t' : Strand}
    (h : s.delivered.rvEffect (bytesOf f) op = .ok ((s.delivered.onCur g).scalarDone (bytesOf f)))
    (hg : g s.delivered.cur = t') :
    exec (.rv64ScalarInstruction f op) s = .next (State.pcBehind { s.delivered with cur := t' } (bytesOf f)) :=
  hg ▸ exec_scalar hi hcs (fun h => nomatch h) hp h

/-- A form that rounds. -/
theorem exec_fpRounded {rm : Fin 8} {r : Round} (hr : FpRounds s.cur rm r) {g : Strand → Round → Strand} {t' : Strand}
    (h : s.delivered.rvEffect (bytesOf f) op = (s.delivered.fpRounded rm g).map (·.scalarDone (bytesOf f)))
    (hg : g s.delivered.cur r = t') :
    exec (.rv64ScalarInstruction f op) s = .next (State.pcBehind { s.delivered with cur := t' } (bytesOf f)) :=
  exec_fp hi hcs hp (h.trans (congrArg (Except.map _) (State.fpRounded_ok hr g))) hg

end

/-- An f register and flags, as the claim writes them. -/
theorem State.fpResult_eq (s : State) (dbl : Bool) (rd : Reg) (v : Nat × Nat) :
    s.delivered.cur.fpResult dbl rd v = { s.delivered.cur with
      f := s.delivered.cur.f.set rd (if dbl then BitVec.ofNat 64 v.1 else BitVec.allOnes 32 ++ BitVec.ofNat 32 v.1)
      fflags := s.cur.fflags ||| BitVec.ofNat 5 v.2 } := by
  rw [← s.delivered_fflags, Strand.fpResult, Strand.putFp_eq]
  rfl

theorem State.putFp_noFlags (s : State) (dbl : Bool) (rd : Reg) (v : Nat) :
    s.delivered.cur.putFp dbl rd v = { s.delivered.cur with
      f := s.delivered.cur.f.set rd (if dbl then BitVec.ofNat 64 v else BitVec.allOnes 32 ++ BitVec.ofNat 32 v)
      fflags := s.cur.fflags ||| BitVec.ofNat 5 0 } := by
  rw [← s.delivered_fflags, Strand.putFp_eq, BitVec.or_zero]

/-- Only the bits of the format reach an f register. -/
theorem Strand.putFp_low (t : Strand) (dbl : Bool) (rd : Reg) (v : Nat) :
    t.putFp dbl rd (v % 2 ^ (8 * sizeOf dbl)) = t.putFp dbl rd v := by
  have low (n : Nat) : BitVec.ofNat n (v % 2 ^ n) = BitVec.ofNat n v := BitVec.eq_of_toNat_eq (by simp)
  rw [Strand.putFp_eq, Strand.putFp_eq]
  cases dbl with
  | true => exact congrArg (fun w => { t with f := t.f.set rd w }) (low 64)
  | false => exact congrArg (fun w => { t with f := t.f.set rd (BitVec.allOnes 32 ++ w) }) (low 32)

/-- An x register and flags, as the claim writes them. -/
theorem State.putX_accrueF (s : State) (rd : Reg) (v : Word) (fl : Nat) :
    (s.delivered.cur.putX rd v).accrueF fl =
      { s.delivered.cur.putX rd v with fflags := s.cur.fflags ||| BitVec.ofNat 5 fl } := by
  rw [← s.delivered_fflags, Strand.accrueF, Strand.putX_fflags]

theorem State.putX_noFlags (s : State) (rd : Reg) (v : Word) :
    s.delivered.cur.putX rd v = { s.delivered.cur.putX rd v with fflags := s.cur.fflags ||| BitVec.ofNat 5 0 } := by
  rw [← s.delivered_fflags, BitVec.or_zero, ← Strand.putX_fflags _ rd v]

theorem nvIf_single (v : FVal) : nvIf [v] = if v.isSnan then flNV else 0 := by
  simp [nvIf, flagIf]

theorem nvIf_pair (a b : FVal) : nvIf [a, b] = nvQuiet a b := by
  simp [nvIf, flagIf, nvQuiet]

/-- Settles O35: each form's effect on the strand, put beside what the claim says of it. -/
theorem scalarFloat : Obligations.ScalarFloat := by
  unfold Obligations.ScalarFloat
  rw [Strand.fpArg_eq_getF]
  dsimp only
  intro f s hi
  refine ⟨fun rm r hr dbl rd rs1 rs2 rs3 => ?_, fun dbl rd rs1 rs2 => ?_⟩
  · have fp {op : Scalar} {v : Nat × Nat} {g : Strand → Round → Strand} (hcs : scalarClasses op = [.control, .vector])
        (hp : s.privOk op = true)
        (h : s.delivered.rvEffect (bytesOf f) op = (s.delivered.fpRounded rm g).map (·.scalarDone (bytesOf f)))
        (hg : g s.delivered.cur r = s.delivered.cur.fpResult dbl rd v) : WritesF op s f dbl rd v.1 v.2 :=
      exec_fpRounded hi hcs hp hr h (hg.trans (s.fpResult_eq dbl rd v))
    refine ⟨fp rfl rfl rfl rfl, fp rfl rfl rfl rfl, fp rfl rfl rfl rfl, fp rfl rfl rfl rfl, fp rfl rfl rfl rfl,
      fp rfl rfl rfl rfl, fp rfl rfl rfl rfl, fp rfl rfl rfl rfl, fp rfl rfl rfl rfl, fun i => fp rfl rfl rfl rfl,
      fun i => exec_fpRounded hi rfl rfl hr rfl (s.putX_accrueF rd _ _), fun h => ?_, fun h => ?_⟩
    · subst h
      rw [← nvIf_single]
      exact fp rfl rfl rfl rfl
    · subst h
      rw [← nvIf_single]
      exact fp rfl rfl rfl rfl
  · have hbound (r : Reg) : s.delivered.cur.getF dbl r < 2 * (sfmt dbl).signBit := s.delivered.cur.getF_lt dbl r
    have sign (op : SgnOp) : s.delivered.cur.putFp dbl rd
        (fsgn op (sfmt dbl) (s.delivered.cur.getF dbl rs1) (s.delivered.cur.getF dbl rs2)) = _ :=
      (congrArg (s.delivered.cur.putFp dbl rd) (fsgn_eq op (hbound rs1) (hbound rs2))).trans (s.putFp_noFlags dbl rd _)
    refine ⟨?_, ?_, ?_, fun isMax => ?_, ?_, ?_, ?_, ?_, ?_, ?_⟩
    · exact exec_fp hi rfl rfl rfl (sign .sgnj)
    · exact exec_fp hi rfl rfl rfl (sign .sgnjn)
    · exact exec_fp hi rfl rfl rfl (sign .sgnjx)
    · exact exec_fp hi rfl rfl rfl (s.fpResult_eq dbl rd _)
    · rw [← nvIf_pair]
      exact exec_fp hi rfl rfl rfl (s.putX_accrueF rd _ _)
    · exact exec_fp hi rfl rfl rfl (s.putX_accrueF rd _ _)
    · exact exec_fp hi rfl rfl rfl (s.putX_accrueF rd _ _)
    · exact exec_fp hi rfl rfl rfl (s.putX_noFlags rd _)
    · rw [← signExt_eq (n := 32) (by decide)]
      exact exec_fp hi rfl rfl rfl (s.putX_noFlags rd _)
    · exact exec_fp hi rfl rfl rfl ((Strand.putFp_low _ dbl rd _).trans (s.putFp_noFlags dbl rd _))

end Sys2Proof.Machine
end

section
/-! PROOFS. Privileged instructions of the base (R56, log 6): bit fields of `mstatus`, returns from traps, and the CSRs. -/

namespace Sys2Proof.Machine

/-! ### Bit fields -/

/-- A bit of a word with a field replaced. -/
theorem getLsbD_putBits (w : Word) {lo n : Nat} (v : Nat) {i : Nat} (hi : i < 64) :
    (putBits w lo n v).getLsbD i = if lo ≤ i ∧ i < lo + n then v.testBit (i - lo) else w.getLsbD i := by
  have hlow := Nat.mod_lt w.toNat (Nat.two_pow_pos lo)
  have hv := Nat.mod_lt v (Nat.two_pow_pos n)
  have hparts (f : Nat) : 2 ^ lo * (2 ^ n * (w.toNat / 2 ^ lo / 2 ^ n) + f) + w.toNat % 2 ^ lo =
      2 ^ lo * (2 ^ n * (w.toNat / 2 ^ lo / 2 ^ n)) + w.toNat % 2 ^ lo + f * 2 ^ lo := by ring
  have hw : w.toNat = 2 ^ lo * (2 ^ n * (w.toNat / 2 ^ lo / 2 ^ n) + fld w.toNat lo n) + w.toNat % 2 ^ lo := by
    rw [fld, Nat.div_add_mod, Nat.div_add_mod]
  have hput : w.toNat - fld w.toNat lo n * 2 ^ lo + v % 2 ^ n * 2 ^ lo =
      2 ^ lo * (2 ^ n * (w.toNat / 2 ^ lo / 2 ^ n) + v % 2 ^ n) + w.toNat % 2 ^ lo := by
    rw [hparts] at hw ⊢
    omega
  rw [putBits, BitVec.getLsbD_ofNat, hput, decide_eq_true hi, Bool.true_and, Nat.testBit_two_pow_mul_add _ hlow]
  by_cases hlo : i < lo
  · rw [if_pos hlo, if_neg (by omega), Nat.testBit_mod_two_pow, decide_eq_true hlo, Bool.true_and, BitVec.getLsbD]
  · rw [if_neg hlo, Nat.testBit_two_pow_mul_add _ hv]
    by_cases hn : i - lo < n
    · rw [if_pos hn, if_pos (by omega), Nat.testBit_mod_two_pow, decide_eq_true hn, Bool.true_and]
    · rw [if_neg hn, if_neg (by omega), Nat.testBit_div_two_pow, Nat.testBit_div_two_pow, BitVec.getLsbD]
      congr 1
      omega

/-- A field of one bit. -/
theorem bf_bit (w : Word) (i : Nat) : bf w i 1 = (w.getLsbD i).toNat := by
  rw [bf, fld, BitVec.getLsbD, Nat.pow_one, Nat.toNat_testBit]

theorem testBit_toNat_zero (b : Bool) : b.toNat.testBit 0 = b := by cases b <;> rfl

theorem getLsbD_putBit (w : Word) {lo : Nat} (v : Nat) {i : Nat} (hi : i < 64) :
    (putBits w lo 1 v).getLsbD i = if i = lo then v.testBit 0 else w.getLsbD i := by
  rw [getLsbD_putBits w v hi]
  by_cases hil : i = lo
  · rw [if_pos (by omega), if_pos hil, hil, Nat.sub_self]
  · rw [if_neg (by omega), if_neg hil]

/-! ### The machine with replies delivered -/

theorem State.delivered_csrs (s : State) : s.delivered.csrs = s.csrs := by
  obtain ⟨x, f, q, h⟩ := s.sameButReplies_delivered
  rw [h]
  rfl

theorem State.delivered_mode (s : State) : s.delivered.cur.mode = s.cur.mode := by
  obtain ⟨x, f, q, h⟩ := s.sameButReplies_delivered
  rw [h]

theorem State.delivered_pc (s : State) : s.delivered.cur.pc = s.cur.pc := by
  obtain ⟨x, f, q, h⟩ := s.sameButReplies_delivered
  rw [h]

/-! ### Returns from traps -/

/-- `mstatus` after `sret`: SIE from SPIE, SPIE set, SPP and MPRV cleared. -/
def sretStatus (w : Word) : Word := putBits (putBits (putBits (putBits w 1 1 (bf w 5 1)) 5 1 1) 8 1 0) 17 1 0

theorem getLsbD_sretStatus (w : Word) {i : Nat} (hi : i < 64) : (sretStatus w).getLsbD i =
    if i = 17 then false else if i = 8 then false else if i = 5 then true else if i = 1 then w.getLsbD 5
      else w.getLsbD i := by
  simp only [sretStatus, getLsbD_putBit _ _ hi, bf_bit, testBit_toNat_zero]
  rfl

/-- `mstatus` after `mret`: MIE from MPIE, MPIE set, MPP cleared, and MPRV where MPP was not M. -/
def mretStatus (w : Word) : Word :=
  let st := putBits (putBits (putBits w 3 1 (bf w 7 1)) 7 1 1) 11 2 0
  if modeOf (bf w 11 2) = .m then st else putBits st 17 1 0

theorem getLsbD_mretStatus (w : Word) {i : Nat} (hi : i < 64) : (mretStatus w).getLsbD i =
    if i = 17 then w.getLsbD 17 && modeOf (bf w 11 2) == .m else if i = 11 ∨ i = 12 then false else if i = 7 then true
      else if i = 3 then w.getLsbD 7 else w.getLsbD i := by
  have hst : (putBits (putBits (putBits w 3 1 (bf w 7 1)) 7 1 1) 11 2 0).getLsbD i =
      if i = 11 ∨ i = 12 then false else if i = 7 then true else if i = 3 then w.getLsbD 7 else w.getLsbD i := by
    rw [getLsbD_putBits _ 0 hi, getLsbD_putBit _ 1 hi, getLsbD_putBit _ _ hi, bf_bit, testBit_toNat_zero, Nat.zero_testBit]
    exact if_congr (by omega) rfl rfl
  unfold mretStatus
  dsimp only
  by_cases hm : modeOf (bf w 11 2) = .m
  · rw [if_pos hm, hst, hm]
    by_cases h17 : i = 17
    · subst h17; simp
    · rw [if_neg h17]
  · rw [if_neg hm, getLsbD_putBit _ 0 hi, hst, Nat.zero_testBit, beq_eq_false_iff_ne.2 hm, Bool.and_false]

theorem modeOf_mpp (w : Word) : modeOf (bf w 11 2) =
    if w.extractLsb' 11 2 = 0 then .u else if w.extractLsb' 11 2 = 1 then .s else .m := by
  have all : ∀ m : BitVec 2, modeOf m.toNat = if m = 0 then .u else if m = 1 then .s else .m := by decide
  rw [bf_eq_extract, all]

/-- MPP names M-mode by 3, where it holds no reserved value. -/
theorem mpp_eq_m {w : Word} (h : w.extractLsb' 11 2 ≠ 2) : (modeOf (bf w 11 2) == .m) = (w.extractLsb' 11 2 == 3) := by
  have all : ∀ m : BitVec 2, m ≠ 2 → (modeOf m.toNat == .m) = (m == 3) := by decide
  rw [bf_eq_extract, all _ h]

theorem State.sret_ok {s : State} (h : s.cur.mode = .m ∨ (s.cur.mode = .s ∧ s.csrs.mstatus.getLsbD 22 = false)) :
    s.sret = .ok ((s.putCsrs { s.csrs with mstatus := sretStatus s.csrs.mstatus }).onCur fun t =>
      { t with mode := if s.csrs.mstatus.getLsbD 8 then .s else .u, pc := s.csrs.sepc }) := by
  have hmode : modeOf (bf s.csrs.mstatus 8 1) = if s.csrs.mstatus.getLsbD 8 then .s else .u := by
    rw [bf_bit]
    cases s.csrs.mstatus.getLsbD 8 <;> rfl
  have hlegal : ¬(s.cur.mode = .u ∨ (s.cur.mode = .s ∧ bf s.csrs.mstatus 22 1 = 1)) := by
    rcases h with hm | ⟨hm, hst⟩
    · simp [hm]
    · rw [bf_bit, hm, hst]
      decide
  rw [← hmode]
  exact if_neg hlegal

theorem State.mret_ok {s : State} (h : s.cur.mode = .m) :
    s.mret = .ok ((s.putCsrs { s.csrs with mstatus := mretStatus s.csrs.mstatus }).onCur fun t =>
      { t with mode := modeOf (bf s.csrs.mstatus 11 2), pc := s.csrs.mepc }) :=
  if_neg (not_not.2 h)

/-! ### CSRs -/

theorem State.stdCsrOp_priv {s : State} {a : FCsr} (hfp : isFpCsr a.csr.toNat = false) {old : Word}
    (hold : s.privRead a.csr.toNat = some old) :
    s.stdCsrOp a =
      (if a.writes then s.putCsrs (s.csrs.write a.csr.toNat (csrNew a.op old (s.cur.csrSrc a))) else s).onCur
        fun t => t.putX a.rd old := by
  unfold State.stdCsrOp
  dsimp only
  rw [hfp, hold]
  rfl

/-- Settles O37: each return's `mstatus` bit by bit, the other forms by their effect. -/
theorem privilegedInstructions : Obligations.PrivilegedInstructions := by
  intro f s hi d c st run
  have hc : d.csrs = c := s.delivered_csrs
  have hm : d.cur.mode = s.cur.mode := s.delivered_mode
  have runs {op : Scalar} {t : State} (hcs : scalarClasses op = anyCls) (hp : s.privOk op = true)
      (h : d.rvEffect (bytesOf f) op = .ok t) : run op t := exec_scalar hi hcs (fun h => nomatch h) hp h
  have allowed {b : Nat} (h : s.cur.mode = .m ∨ (s.cur.mode = .s ∧ st b = false)) :
      (s.cur.mode != .u && !(s.cur.mode == .s && st b)) = true := by
    rcases h with h | ⟨h, hb⟩
    · rw [h]; rfl
    · rw [h, hb]; rfl
  refine ⟨fun h => ?_, fun h hmpp => ?_, fun h => ⟨fun hip => ?_, fun hip => ?_⟩, fun h rs1 rs2 => ?_, ?_⟩
  · have hret := State.sret_ok (s := d) (by rw [hc, hm]; exact h)
    rw [hc] at hret
    have hbit {i : Nat} (hi : i < 64) := getLsbD_sretStatus c.mstatus hi
    exact ⟨{ c with mstatus := sretStatus c.mstatus }, rfl, hbit (by decide), hbit (by decide), hbit (by decide),
      hbit (by decide), fun i hi h1 h5 h8 h17 => by rw [hbit hi, if_neg h17, if_neg h8, if_neg h5, if_neg h1],
      runs rfl (allowed h) hret⟩
  · have hret := State.mret_ok (s := d) (hm.trans h)
    rw [hc] at hret
    have hbit {i : Nat} (hi : i < 64) := getLsbD_mretStatus c.mstatus hi
    rw [modeOf_mpp] at hret
    refine ⟨{ c with mstatus := mretStatus c.mstatus }, rfl, hbit (by decide), hbit (by decide), ?_, ?_,
      fun i hi h3 h7 h11 h12 h17 => ?_, runs rfl (beq_iff_eq.2 h) hret⟩
    · refine BitVec.eq_of_getLsbD_eq fun i hi => ?_
      rw [BitVec.getLsbD_extractLsb', hbit (by omega), if_neg (by omega), if_pos (by omega), Bool.and_false]
      exact BitVec.getLsbD_zero.symm
    · rw [hbit (by decide), if_pos rfl, mpp_eq_m hmpp]
    · rw [hbit hi, if_neg h17, if_neg (by omega), if_neg h7, if_neg h3]
  · exact runs rfl (allowed h) (if_neg hip)
  · refine (exec_scalar_eq hi rfl (fun h => nomatch h) ?_).trans (congrArg finish (if_pos hip))
    exact allowed h
  · exact runs rfl (allowed h) rfl
  · intro a ha h1 h2 h3 old hold src new s'
    have hfp : isFpCsr a.csr.toNat = false := by simp [isFpCsr, h1, h2, h3]
    have heff := State.stdCsrOp_priv hfp hold
    rw [hc] at heff
    exact runs (by simp [scalarClasses, hfp]) ha (congrArg (fun t : State => Except.ok (t.scalarDone (bytesOf f))) heff)

end Sys2Proof.Machine
end

section
/-! PROOFS. `ecall` and `ebreak` (R53, R56, R274, R279): the precise traps of a control core, and the stop of the others. -/

namespace Sys2Proof.Machine

/-- `mstatus` as a trap leaves it: the mode and the interrupt enable stacked, the enable cleared. -/
def trapStatus (w : Word) (pp n mode pie ie : Nat) : Word := putBits (putBits (putBits w pp n mode) pie 1 (bf w ie 1)) ie 1 0

theorem getLsbD_trapStatus (w : Word) (pp n mode pie ie : Nat) {i : Nat} (hi : i < 64) :
    (trapStatus w pp n mode pie ie).getLsbD i =
      if i = ie then false else if i = pie then w.getLsbD ie
        else if pp ≤ i ∧ i < pp + n then mode.testBit (i - pp) else w.getLsbD i := by
  rw [trapStatus, getLsbD_putBit _ 0 hi, getLsbD_putBit _ _ hi, getLsbD_putBits _ _ hi, bf_bit, testBit_toNat_zero,
    Nat.zero_testBit]

/-- An exception goes to the base of the vector. -/
theorem vectorPc_exception (tvec : Word) (cause : Nat) : vectorPc tvec false cause = tvec &&& 0xFFFFFFFFFFFFFFFC := by
  have hmask : (0xFFFFFFFFFFFFFFFC : Word) = BitVec.allOnes 64 <<< 2 := by decide
  have hbase : tvec.toNat / 4 * 4 = tvec.toNat >>> 2 <<< 2 := by rw [Nat.shiftLeft_eq, Nat.shiftRight_eq_div_pow]
  refine BitVec.eq_of_getLsbD_eq fun i hi => ?_
  show (BitVec.ofNat 64 (tvec.toNat / 4 * 4)).getLsbD i = _
  rw [hbase, hmask, BitVec.getLsbD_and, BitVec.getLsbD_ofNat, BitVec.getLsbD_shiftLeft, BitVec.getLsbD_allOnes,
    Nat.testBit_shiftLeft, Nat.testBit_shiftRight]
  by_cases h2 : i < 2
  · simp [h2]
  · have hge : 2 ≤ i := Nat.le_of_not_lt h2
    simp [hi, h2, hge, BitVec.getLsbD, show 2 + (i - 2) = i by omega, show i - 2 < 64 by omega]

/-- The trap into S-mode of an exception without an address. -/
theorem State.trapS_eq (s : State) (cause : Nat) : s.trapS false cause 0 =
    { s.putCsrs { s.csrs with
        sepc := s.cur.pc, scause := BitVec.ofNat 64 cause, stval := 0
        mstatus := trapStatus s.csrs.mstatus 8 1 (if s.cur.mode = .u then 0 else 1) 5 1 } with
      cur := { s.cur with
        mode := .s, pc := s.csrs.stvec &&& 0xFFFFFFFFFFFFFFFC, status := .running, lrRes := none } } := by
  rw [← vectorPc_exception _ cause]
  rfl

theorem State.trapM_eq (s : State) (cause : Nat) : s.trapM false cause 0 =
    { s.putCsrs { s.csrs with
        mepc := s.cur.pc, mcause := BitVec.ofNat 64 cause, mtval := 0
        mstatus := trapStatus s.csrs.mstatus 11 2 (modeCode s.cur.mode) 7 3 } with
      cur := { s.cur with
        mode := .m, pc := s.csrs.mtvec &&& 0xFFFFFFFFFFFFFFFC, status := .running, lrRes := none } } := by
  rw [← vectorPc_exception _ cause]
  rfl

/-- A call issues on every class and takes its exception with replies delivered. -/
theorem State.callOp_eq {s : State} (hf : s.cur.fork = none) (e : Exc) :
    finish (s.callOp e) = .next (s.delivered.takeExc e) := by
  have hcls : s.cur.cls ∈ anyCls := by cases s.cur.cls <;> decide
  unfold State.callOp
  rw [State.scalarGate_ok hf hcls]
  rfl

/-- Settles O38: a call takes its exception, which stops the strand off the control cores and traps on them. -/
theorem environmentCalls : Obligations.EnvironmentCalls := by
  intro s hf d c rows r hr
  have hc : d.csrs = c := s.delivered_csrs
  have hm : d.cur.mode = s.cur.mode := s.delivered_mode
  have hpc : d.cur.pc = s.cur.pc := s.delivered_pc
  have hcls : d.cur.cls = s.cur.cls := s.sameButReplies_delivered.cls
  have hexec : exec r.1 s = .next (if s.cur.cls = .control then d.preciseTrap r.2 0 else d.stopAt 3 0 [(0, 3, 0)] none) := by
    rw [← hcls]
    rcases List.mem_pair.1 hr with rfl | rfl
    · refine (State.callOp_eq hf .ecall).trans (congrArg _ ?_)
      show (if _ then d.preciseTrap (8 + modeCode d.cur.mode) 0 else _) = _
      rw [hm]
      cases s.cur.mode <;> rfl
    · exact State.callOp_eq hf .ebreak
  refine ⟨fun hn => ?_, fun hcc hto => ?_, fun hcc hto => ?_⟩
  · rw [hexec, if_neg hn]
    rfl
  · have hdeleg : trapToS d.cur.mode d.csrs.medeleg r.2 = true := by
      rw [hm, hc]
      rcases hto with h | ⟨h, hb⟩
      · rw [h]; rfl
      · rw [h]; exact hb
    rw [hexec, if_pos hcc, State.preciseTrap, if_pos hdeleg, State.trapS_eq, hc, hm, hpc]
    have hbit {i : Nat} (hi : i < 64) := getLsbD_trapStatus c.mstatus 8 1 (if s.cur.mode = .u then 0 else 1) 5 1 hi
    refine ⟨{ c with
        sepc := s.cur.pc, scause := BitVec.ofNat 64 r.2, stval := 0
        mstatus := trapStatus c.mstatus 8 1 (if s.cur.mode = .u then 0 else 1) 5 1 },
      rfl, (hbit (by decide)).trans ?_, hbit (by decide), hbit (by decide), fun i hi h1 h5 h8 => ?_, rfl⟩
    · cases s.cur.mode <;> rfl
    · refine (hbit hi).trans ?_
      rw [if_neg h1, if_neg h5, if_neg (by omega)]
  · have hdeleg : trapToS d.cur.mode d.csrs.medeleg r.2 = false := by
      rw [hm, hc]
      rcases hto with h | ⟨h, hb⟩
      · rw [h]; rfl
      · rw [h]; exact hb
    rw [hexec, if_pos hcc, State.preciseTrap, hdeleg, if_neg Bool.false_ne_true, State.trapM_eq, hc, hm, hpc]
    have hbit {i : Nat} (hi : i < 64) := getLsbD_trapStatus c.mstatus 11 2 (modeCode s.cur.mode) 7 3 hi
    refine ⟨{ c with
        mepc := s.cur.pc, mcause := BitVec.ofNat 64 r.2, mtval := 0
        mstatus := trapStatus c.mstatus 11 2 (modeCode s.cur.mode) 7 3 },
      rfl, ?_, hbit (by decide), hbit (by decide), fun i hi h3 h7 h11 h12 => ?_, rfl⟩
    · have hmpp : (trapStatus c.mstatus 11 2 (modeCode s.cur.mode) 7 3).extractLsb' 11 2 =
          BitVec.ofNat 2 (modeCode s.cur.mode) := by
        refine BitVec.eq_of_getLsbD_eq fun i hi => ?_
        rw [BitVec.getLsbD_extractLsb', hbit (by omega), if_neg (by omega), if_neg (by omega), if_pos (by omega),
          BitVec.getLsbD_ofNat, Nat.add_sub_cancel_left]
      refine (congrArg BitVec.toNat hmpp).trans ?_
      rcases hto with h | ⟨h, -⟩ <;> rw [h] <;> rfl
    · refine (hbit hi).trans ?_
      rw [if_neg h3, if_neg h7, if_neg (by omega)]

end Sys2Proof.Machine
end
